-- ==== Sys2Proof/Word.lean ====
section
/-! DEFINITION. The word types of the model and the canonical sparse table every sparse piece of state is held in. -/
namespace Sys2Proof

/-- A byte of memory. -/
abbrev Byte := BitVec 8

/-- A 64-bit scalar register, address or control register (R219). -/
abbrev Word := BitVec 64

/-- A 32-bit lane register value of one thread (R219). -/
abbrev LaneWord := BitVec 32

/-- One 128-byte line of memory (R49). -/
abbrev Line := BitVec 1024

/-- A sparse table: keys strictly rising, and no entry equal to what an unlisted key reads as. -/
abbrev Tab (α : Type) := List (Nat × α)

end Sys2Proof
end

