-- ==== Sys2Proof/Config.lean ====
section
/-! DEFINITION. What the spec leaves to the implementation or leaves open: free values, opaque so that nothing can
rest on a value of theirs (entry 4). A counter of the state selects the next one. -/

namespace Sys2Proof.Config

/-- A 64-bit value the spec leaves open: clock counts (R285), firmware values (R444), random draws. -/
opaque freeWord : Nat → BitVec 64

/-- A choice among alternatives the spec leaves open: the L1 victim (R49). -/
opaque freeChoice : Nat → Nat

/-- The result of a special function at a binary32 operand: one fixed mapping within R311's accuracy (entry 14). -/
opaque specialF32 : Nat → BitVec 32 → BitVec 32

/-- The cell a floating multiply leaves, within R205's bound (entry 15). -/
opaque mmaCell : Nat → BitVec 32

/-- A seed of an epoch (R442), by 2 * epoch + p, from the seed generator's state (R459). -/
opaque seed : BitVec 256 → Nat → BitVec 64

/-- The device's identity key, made at manufacture from fused secrets (R459). -/
opaque identityKey : BitVec 384

/-- A key that a boot derives from the identity key (R459): 0 attestation, 1 checkpoint, 2 result; from the
firmware set's measurement and what the boot draws. -/
opaque bootKey : BitVec 384 → Nat → BitVec 384 → Nat → BitVec 384

/-- A signature over a message under a private key of R459; the number stands for its nonce. -/
opaque signature : BitVec 384 → Nat → List (BitVec 8) → BitVec 768

/-- The certificate of a key under the identity key, as 1 KiB of padded DER (R459, R471). -/
opaque certificate : BitVec 384 → BitVec 384 → BitVec 8192

/-- Whether a certificate chains to an identity key and a signature over a message verifies under the key it certifies
(R471). -/
opaque certifies : BitVec 384 → BitVec 8192 → List (BitVec 8) → BitVec 768 → Bool

/-- SHA-384 (R110, R458, R471): the digest of a byte string. -/
opaque sha384 : List (BitVec 8) → BitVec 384

/-- Whether a signature verifies and its chain ends at the vendor root (R113). -/
opaque verifies : List (BitVec 8) → BitVec 768 → Bool

/-- The pseudo-channel of the package that a hash version gives a grain, before R75's condition on neighbours is put
on it. -/
opaque hashChannel : Nat → Nat → Fin 768

/-- The bank of its pseudo-channel that a hash version gives a grain, before dropped banks are left out (R75, R80). -/
opaque hashBank : Nat → Nat → Fin 64

/-- The row of its bank that a hash version gives a grain, in the order in which rows are re-encoded: the spec does not give
it (R75, R77, DESIGN CHOICE, entry 61). -/
opaque bankRow : Nat → Nat → Fin (2 ^ 20)

/-- The course of the VS die that homes a line of the far tier (R57). -/
opaque farHome : Nat → Fin 4

/-- The slice of its die that homes a grain, under a hash version (R57). -/
opaque homeSlice : Nat → Nat → Fin 16

/-- The set of a line's directory entry in its home slice: 131,072 entries in 16 ways (R60). -/
opaque dirSet : Nat → Fin 8192

/-- The set of a grain's entry in its home slice's open-grain table: 16,384 entries in 8 ways (R70). -/
opaque grainSet : Nat → Fin 2048

/-- The set of a line in an L2 slice of 6 MiB in 16 ways (R49). -/
opaque sliceSet : Nat → Fin 3072

/-- The set of a line in an L1 of 1,024 lines in 8 ways (R49). -/
opaque l1Set : Nat → Fin 128

/-- The plane, and so the fabric port, over which a message of the package leaves: the device's choice by load, by the
message's number (R3, R178). -/
opaque plane : Nat → Fin 64

/-- Whether a downloaded firmware set passes the checks of step 3 of R481. -/
opaque firmwareOk : List (BitVec 8) → Bool

/-- The measured bytes the spec does not give (R482): 1 the plumb ROM, 3 the fused security version. -/
opaque measured : Nat → List (BitVec 8)

/-- SHA-384 of the public key of an identity key (R471). -/
opaque identity : BitVec 384 → BitVec 384

end Sys2Proof.Config
end

