-- ==== Sys2Proof/Syntax.lean ====
section
/-! DEFINITION. The instructions: one constructor per row of the opcode table. Scalar instructions carry typed
fields (R239-R243), lane instructions one `LaneFields` (R244-R250), and the operations and events without an
encoding carry what the agent that performs them, the outside world or the implementation decides. -/

namespace Sys2Proof

/-- A scalar register s0-s63 (R219). -/
abbrev SReg := Fin 64
/-- An affine register a0-a15. -/
abbrev AReg := Fin 16
/-- A tile register t0-t15. -/
abbrev TReg := Fin 16
/-- An accumulator c0-c3. -/
abbrev CReg := Fin 4
/-- A capability register k0-k7. -/
abbrev KReg := Fin 8
/-- A predicate register p0-p7. -/
abbrev PReg := Fin 8
/-- A lane register v0-v255. -/
abbrev VReg := Fin 256

/-- The scopes of R117; code 7 is no scope. -/
inductive Scope where
  | thread | warp | workgroup | cluster | course | package | system
  deriving DecidableEq, Repr

/-- The order codes of R241; 6 and 7 are reserved. -/
inductive MemOrd where
  | plain | rlx | acq | rel | ar | sc
  deriving DecidableEq, Repr

/-- The size codes of R241; 7 is reserved. -/
inductive MemSize where
  | n8 | s8 | n16 | s16 | n32 | s32 | n64
  deriving DecidableEq, Repr

/-- The lane type codes of R248; 0x16-0x1F are reserved. -/
inductive LType where
  | untyped | s8 | s16 | s32 | s64 | n8 | n16 | n32 | n64 | f16 | f16x2 | bf16 | bf16x2 | f32 | f64
  | nf8 | nf6 | nf4 | nf8b | nf6b | nf4b | mod64
  deriving DecidableEq, Repr

/-- The lane destination codes of R245. -/
inductive Dest where
  | v (n : VReg) | p (n : PReg) | s (n : SReg) | noDest
  deriving DecidableEq, Repr

/-- The lane operand specifiers of R246. -/
inductive Operand where
  | v (n : VReg) | s (n : SReg) | p (n : PReg) | a (n : AReg) | inl (c : BitVec 7) | w2
  deriving DecidableEq, Repr

/-- The fields of a lane instruction beside its opcode (R244). -/
structure LaneFields where
  pred : PReg
  pneg : Bool
  dest : Dest
  ty : LType
  rnd : BitVec 3
  sat : Bool
  opa : Operand
  opb : Operand
  opc : Operand
  sweep : Bool
  w2 : BitVec 32
  deriving DecidableEq, Repr


/-- The operations of a remote access (R354). -/
inductive RemOp where
  | load | add | and | or | xor | xchg | cas
  deriving DecidableEq, Repr

/-- A region's next line to move, and the sectors of it that are found uncorrectable when a dropped bank is read last
(R79, R81). -/
structure LineMove where
  region : Nat
  bad : List Nat
  deriving DecidableEq, Repr

/-- Where a checker mismatch strikes: a warp's scalar stream, or a thread of its lane instruction (R461). -/
structure PipeAt where
  warp : Nat
  thread : Option Nat
  deriving DecidableEq, Repr

/-- A pull token as the messages between packages name it: the receiver's request, and the token among those it has granted
(R178, R179). -/
structure TokenRef where
  req : Nat
  tok : Nat
  deriving DecidableEq, Repr

/-- What errors in a core pair's chips strike (R52, R464): workgroups whose state is lost, lines of its cluster's slice, and
how many single bits are corrected. -/
structure CoreHit where
  wgs : List Nat
  lines : List Nat
  single : Nat
  deriving DecidableEq, Repr

/-- What a host reads (R475, R476): a register of BAR0 by its offset, or memory by its physical address. -/
inductive HostPlace where
  | bar0 (off : Nat)
  | mem (pa : Nat)
  deriving DecidableEq, Repr

/-- One constructor per row of the opcode table, in the table's order. -/
inductive Instr where
  /-- R264. Writes the 64-bit wrapping sum of sA and sB to sD. -/
  | add (d a b : SReg)
  /-- R264. Writes the 64-bit wrapping difference sA − sB to sD. -/
  | sub (d a b : SReg)
  /-- R264. Writes the low 64 bits of sA × sB to sD. -/
  | mul (d a b : SReg)
  /-- R264. Writes the high 64 bits of the signed 128-bit product to sD. -/
  | mulh (d a b : SReg)
  /-- R264. Writes the high 64 bits of the unsigned 128-bit product to sD. -/
  | mulhn (d a b : SReg)
  /-- R265. Signed division toward zero that never traps, with fixed results for a zero divisor and for overflow.
  -/
  | div (d a b : SReg)
  /-- R265. Unsigned division; a zero divisor gives all ones. -/
  | divn (d a b : SReg)
  /-- R265. Signed remainder with the sign of the dividend; a zero divisor returns the dividend. -/
  | rem (d a b : SReg)
  /-- R265. Unsigned remainder; a zero divisor returns the dividend. -/
  | remn (d a b : SReg)
  /-- R264. Writes the bitwise AND of sA and sB to sD. -/
  | and (d a b : SReg)
  /-- R264. Writes the bitwise OR of sA and sB to sD. -/
  | or (d a b : SReg)
  /-- R264. Writes the bitwise XOR of sA and sB to sD. -/
  | xor (d a b : SReg)
  /-- R264. Writes sA AND NOT sB to sD. -/
  | andn (d a b : SReg)
  /-- R264. Shifts sA left by sB[5:0] and writes the result to sD. -/
  | shl (d a b : SReg)
  /-- R264. Shifts sA right logically by sB[5:0] and writes the result to sD. -/
  | shr (d a b : SReg)
  /-- R264. Shifts sA right arithmetically by sB[5:0] and writes the result to sD. -/
  | sra (d a b : SReg)
  /-- R264. Rotates sA right by sB[5:0] and writes the result to sD. -/
  | ror (d a b : SReg)
  /-- R264. Writes the signed minimum of sA and sB to sD. -/
  | min (d a b : SReg)
  /-- R264. Writes the unsigned minimum of sA and sB to sD. -/
  | minn (d a b : SReg)
  /-- R264. Writes the signed maximum of sA and sB to sD. -/
  | max (d a b : SReg)
  /-- R264. Writes the unsigned maximum of sA and sB to sD. -/
  | maxn (d a b : SReg)
  /-- R264. Writes 1 to sD if sA < sB signed, and 0 otherwise. -/
  | slt (d a b : SReg)
  /-- R264. Writes 1 to sD if sA < sB unsigned, and 0 otherwise. -/
  | sltn (d a b : SReg)
  /-- R264. Writes 1 to sD if sA equals sB, and 0 otherwise. -/
  | seq (d a b : SReg)
  /-- R264. Counts the leading zero bits of sA into sD. -/
  | clz (d a : SReg)
  /-- R264. Counts the trailing zero bits of sA into sD. -/
  | ctz (d a : SReg)
  /-- R264. Counts the set bits of sA into sD. -/
  | popc (d a : SReg)
  /-- R264. Reverses the byte order of sA into sD. -/
  | bswap (d a : SReg)
  /-- R266. Adds the sign-extended 14-bit immediate to sA. -/
  | addi (d a : SReg) (imm : BitVec 14)
  /-- R266. ANDs sA with the sign-extended immediate. -/
  | andi (d a : SReg) (imm : BitVec 14)
  /-- R266. ORs sA with the sign-extended immediate. -/
  | ori (d a : SReg) (imm : BitVec 14)
  /-- R266. XORs sA with the sign-extended immediate. -/
  | xori (d a : SReg) (imm : BitVec 14)
  /-- R266. Signed compare of sA with the immediate; writes 1 or 0. -/
  | slti (d a : SReg) (imm : BitVec 14)
  /-- R267. Shifts sA left by the literal n. -/
  | shli (d a : SReg) (n : Fin 64)
  /-- R267. Shifts sA right logically by the literal n. -/
  | shri (d a : SReg) (n : Fin 64)
  /-- R267. Shifts sA right arithmetically by the literal n. -/
  | srai (d a : SReg) (n : Fin 64)
  /-- R267. Rotates sA right by the literal n. -/
  | rori (d a : SReg) (n : Fin 64)
  /-- R268. Sets sD to the sign-extended 20-bit immediate. -/
  | movi (d : SReg) (imm : BitVec 20)
  /-- R268. Shifts sD left by 20 and ORs in the 20-bit immediate. -/
  | movk (d : SReg) (imm : BitVec 20)
  /-- R268. Sets sD to the PC plus four times the signed 20-bit word offset. -/
  | adr (d : SReg) (imm : BitVec 20)
  /-- R269. Branches by the word offset when sA == sB. -/
  | beq (a b : SReg) (off : BitVec 14)
  /-- R269. Branches when sA != sB. -/
  | bne (a b : SReg) (off : BitVec 14)
  /-- R269. Branches when sA < sB, signed. -/
  | blt (a b : SReg) (off : BitVec 14)
  /-- R269. Branches when sA ≥ sB, signed. -/
  | bge (a b : SReg) (off : BitVec 14)
  /-- R269. Branches when sA < sB, unsigned. -/
  | bltn (a b : SReg) (off : BitVec 14)
  /-- R269. Branches when sA ≥ sB, unsigned. -/
  | bgen (a b : SReg) (off : BitVec 14)
  /-- R270. Jumps by the signed 26-bit word offset. -/
  | jmp (off : BitVec 26)
  /-- R270. Sets s63 to the return address and jumps by the 26-bit word offset. -/
  | call (off : BitVec 26)
  /-- R271. Jumps to the address in sA; a misaligned target raises ALIGNMENT. -/
  | jr (a : SReg)
  /-- R271. Sets s63 to the return address and jumps to sA. -/
  | callr (a : SReg)
  /-- R271. Jumps to s63. -/
  | ret
  /-- R274. Plain global load of 1 to 8 bytes at sA + off, zero- or sign-extended into sD. -/
  | ld (d a : SReg) (size : MemSize) (off : BitVec 11)
  /-- R274. Plain global store of the low bytes of sD at sA + off. -/
  | st (d a : SReg) (size : MemSize) (off : BitVec 11)
  /-- R274. Plain scratchpad load at sA + off. -/
  | lds (d a : SReg) (size : MemSize) (off : BitVec 11)
  /-- R274. Plain scratchpad store at sA + off. -/
  | sts (d a : SReg) (size : MemSize) (off : BitVec 11)
  /-- R343. Ordered global load (.ACQ or .SC) performed at L2 with an acquire part at its scope. -/
  | ldOrd (d a : SReg) (scope : Scope) (ord : MemOrd) (size : MemSize)
  /-- R343. Ordered global store (.REL or .SC) with a release part at its scope, performed at L2. -/
  | stOrd (d a : SReg) (scope : Scope) (ord : MemOrd) (size : MemSize)
  /-- R343. Ordered scratchpad load at the scratchpad port. -/
  | ldOrdSp (d a : SReg) (scope : Scope) (ord : MemOrd) (size : MemSize)
  /-- R343. Ordered scratchpad store at the scratchpad port. -/
  | stOrdSp (d a : SReg) (scope : Scope) (ord : MemOrd) (size : MemSize)
  /-- R345. Global atomic add at the home atomic unit, returning the old value in sD. -/
  | atomAdd (d a : SReg) (scope : Scope) (ord : MemOrd) (size : MemSize)
  /-- R345. Global atomic subtract, returning the old value. -/
  | atomSub (d a : SReg) (scope : Scope) (ord : MemOrd) (size : MemSize)
  /-- R345. Global atomic signed minimum. -/
  | atomMin (d a : SReg) (scope : Scope) (ord : MemOrd) (size : MemSize)
  /-- R345. Global atomic unsigned minimum. -/
  | atomMinn (d a : SReg) (scope : Scope) (ord : MemOrd) (size : MemSize)
  /-- R345. Global atomic signed maximum. -/
  | atomMax (d a : SReg) (scope : Scope) (ord : MemOrd) (size : MemSize)
  /-- R345. Global atomic unsigned maximum. -/
  | atomMaxn (d a : SReg) (scope : Scope) (ord : MemOrd) (size : MemSize)
  /-- R345. Global atomic AND. -/
  | atomAnd (d a : SReg) (scope : Scope) (ord : MemOrd) (size : MemSize)
  /-- R345. Global atomic OR. -/
  | atomOr (d a : SReg) (scope : Scope) (ord : MemOrd) (size : MemSize)
  /-- R345. Global atomic XOR. -/
  | atomXor (d a : SReg) (scope : Scope) (ord : MemOrd) (size : MemSize)
  /-- R345. Global atomic exchange. -/
  | atomXchg (d a : SReg) (scope : Scope) (ord : MemOrd) (size : MemSize)
  /-- R345. Global compare-and-swap: writes s(D+1) when the old value equals sD. -/
  | atomCas (d a : SReg) (scope : Scope) (ord : MemOrd) (size : MemSize)
  /-- R345. Scratchpad atomic add at the port's atomic unit. -/
  | atomAddSp (d a : SReg) (scope : Scope) (ord : MemOrd) (size : MemSize)
  /-- R345. Scratchpad atomic subtract. -/
  | atomSubSp (d a : SReg) (scope : Scope) (ord : MemOrd) (size : MemSize)
  /-- R345. Scratchpad atomic signed minimum. -/
  | atomMinSp (d a : SReg) (scope : Scope) (ord : MemOrd) (size : MemSize)
  /-- R345. Scratchpad atomic unsigned minimum. -/
  | atomMinnSp (d a : SReg) (scope : Scope) (ord : MemOrd) (size : MemSize)
  /-- R345. Scratchpad atomic signed maximum. -/
  | atomMaxSp (d a : SReg) (scope : Scope) (ord : MemOrd) (size : MemSize)
  /-- R345. Scratchpad atomic unsigned maximum. -/
  | atomMaxnSp (d a : SReg) (scope : Scope) (ord : MemOrd) (size : MemSize)
  /-- R345. Scratchpad atomic AND. -/
  | atomAndSp (d a : SReg) (scope : Scope) (ord : MemOrd) (size : MemSize)
  /-- R345. Scratchpad atomic OR. -/
  | atomOrSp (d a : SReg) (scope : Scope) (ord : MemOrd) (size : MemSize)
  /-- R345. Scratchpad atomic XOR. -/
  | atomXorSp (d a : SReg) (scope : Scope) (ord : MemOrd) (size : MemSize)
  /-- R345. Scratchpad atomic exchange. -/
  | atomXchgSp (d a : SReg) (scope : Scope) (ord : MemOrd) (size : MemSize)
  /-- R345. Scratchpad compare-and-swap. -/
  | atomCasSp (d a : SReg) (scope : Scope) (ord : MemOrd) (size : MemSize)
  /-- R346. Performs the acquire part, the release part or both at its scope. -/
  | fence (scope : Scope) (ord : MemOrd)
  /-- R348. Releases into a global sync block, setting VALUE and, at course scope or wider, the signature fields.
  -/
  | rel (d a : SReg) (scope : Scope)
  /-- R348. Releases into a global sync block, adding sD to VALUE and merging the signature. -/
  | relAdd (d a : SReg) (scope : Scope)
  /-- R348. Reads a global sync block indivisibly, invalidating covered L1 lines at course scope or wider, and
  returns VALUE and GENERATION. -/
  | acq (d a : SReg) (scope : Scope)
  /-- R348. REL on a scratchpad sync block. -/
  | relSp (d a : SReg) (scope : Scope)
  /-- R348. REL.ADD on a scratchpad sync block. -/
  | relAddSp (d a : SReg) (scope : Scope)
  /-- R348. ACQ on a scratchpad sync block. -/
  | acqSp (d a : SReg) (scope : Scope)
  /-- R350. Releases and arrives at a scratchpad barrier word, recording the phase and completing the phase on the
  last arrival. -/
  | barArr (a : SReg) (scope : Scope)
  /-- R350. Parks until the recorded barrier phase completes, then acquires. -/
  | barWait (a : SReg) (scope : Scope)
  /-- R350. Arrives at a barrier and then waits for its phase. -/
  | barSync (a : SReg) (scope : Scope)
  /-- R352. Registers a watch on a global line as a watching sharer, replacing the warp's previous watch. -/
  | monArm (a : SReg)
  /-- R352. Registers a watch on an aligned scratchpad word. -/
  | monArmSp (a : SReg)
  /-- R352. Parks the warp until its watch is woken or the timeout in sA expires. -/
  | monWait (a : SReg)
  /-- R353. Waits until the partition's agents in the scope have been idle together for the transit bound. -/
  | quiesceWait (scope : Scope)
  /-- R287. Waits until the lane queue is empty and its accesses are performed as a cluster-scope release
  requires. -/
  | laneSync (scope : Scope)
  /-- R355. Remote load through capability kK, parking until the response arrives. -/
  | rld (d a : SReg) (k : KReg) (size : MemSize)
  /-- R355. Plain remote store that enters the write-combining buffer. -/
  | rst (d a : SReg) (k : KReg) (size : MemSize)
  /-- R169. Performs a system-scope release, then sends the store alone and awaits its acknowledgement. -/
  | rstRelSys (d a : SReg) (k : KReg) (size : MemSize)
  /-- R355. Remote relaxed atomic add at system scope. -/
  | ratomAdd (d a : SReg) (k : KReg) (size : MemSize)
  /-- R355. Remote atomic AND. -/
  | ratomAnd (d a : SReg) (k : KReg) (size : MemSize)
  /-- R355. Remote atomic OR. -/
  | ratomOr (d a : SReg) (k : KReg) (size : MemSize)
  /-- R355. Remote atomic XOR. -/
  | ratomXor (d a : SReg) (k : KReg) (size : MemSize)
  /-- R355. Remote atomic exchange. -/
  | ratomXchg (d a : SReg) (k : KReg) (size : MemSize)
  /-- R355. Remote compare-and-swap with the new value in s(D+1). -/
  | ratomCas (d a : SReg) (k : KReg) (size : MemSize)
  /-- R357. Loads a 16-byte granule and its tag into kD at the cluster's L2 slice. -/
  | capLd (d : KReg) (a : SReg)
  /-- R357. Stores kB with its tag into a 16-byte granule. -/
  | capSt (a : SReg) (b : KReg)
  /-- R160. A system context sets a capability's tag from sA and s(A+1) after the well-formedness and peer checks.
  -/
  | capMint (d : KReg) (a : SReg)
  /-- R356. Derives a capability with a narrower BASE and LENGTH under the monotonic rule. -/
  | capBound (d a : KReg) (b : SReg)
  /-- R356. Derives a capability with permissions masked by sB[3:0]. -/
  | capPerm (d a : KReg) (b : SReg)
  /-- R356. Reads the low half, the high half or the tag of kA into sD. -/
  | capRead (d : SReg) (a : KReg) (n : Fin 64)
  /-- R356. Copies kA with its tag to kD. -/
  | capMov (d a : KReg)
  /-- R365. Checks a scratchpad copy request and appends a copy to queue q. -/
  | xferPost (a : SReg) (q : Fin 4)
  /-- R365. Posts a conditional copy that commits only when the version word holds EXPECT. -/
  | xferCond (a : SReg) (q : Fin 4)
  /-- R368. Posts a bulk send of LENGTH bytes into a capability's range. -/
  | xferBulk (a : SReg) (q : Fin 4)
  /-- R369. Posts a gather request to the gather queue. -/
  | gatherPost (a : SReg)
  /-- R371. Appends a fence entry to each named queue. -/
  | qfence (m : BitVec 6)
  /-- R363. Sets EXPECTED and PENDING of a landing word and clears PENDING_SECTORS and STATUS. -/
  | lwInit (a b : SReg)
  /-- R363. Parks until the landing word's PHASE differs from sB, then acquires at cluster scope. -/
  | lwWait (a b : SReg)
  /-- R363. Reads a landing word's STATUS, PENDING, PHASE and sector count into sD. -/
  | lwRead (d a : SReg)
  /-- R372. Maps global lines into scratchpad rows one at a time and returns the count mapped. -/
  | spMap (d a b : SReg)
  /-- R373. Writes back and unmaps the whole mapping that begins at sA. -/
  | spUnmap (a : SReg)
  /-- R279. Sets an affine register's base and stride. -/
  | amov (d : AReg) (a b : SReg)
  /-- R279. Sets an affine register's base. -/
  | abase (d : AReg) (a : SReg)
  /-- R279. Sets an affine register's stride. -/
  | astride (d : AReg) (a : SReg)
  /-- R279. Adds sA to an affine register's base. -/
  | aadd (d : AReg) (a : SReg)
  /-- R279. Reads an affine register's base into sD. -/
  | aread (d : SReg) (a : AReg)
  /-- R279. Reads an affine register's sign-extended stride into sD. -/
  | asread (d : SReg) (a : AReg)
  /-- R281. Reads a control register into sD. -/
  | mfcr (d : SReg) (crn : BitVec 12)
  /-- R281. Writes sD to a control register field by field, with that register's own checks and effects. -/
  | mtcr (d : SReg) (crn : BitVec 12)
  /-- R286. Appends a lane block with its initial mask to the lane queue or the handler slot. -/
  | laneRun (a : SReg) (loff : BitVec 20)
  /-- R292. Has no effect. -/
  | nop
  /-- R292. Ends the warp after its lane queue drains, and on the last warp exits the workgroup. -/
  | exit
  /-- R288. Requests an extended register holding of n blocks and parks until it is granted. -/
  | regGrow (n : Fin 4)
  /-- R288. Gives back the whole extended holding. -/
  | regShrink
  /-- R277. Raises STACK_LIMIT if a frame of sA bytes below s62 would pass the limit. -/
  | stkChk (a : SReg)
  /-- R289. Hints the instruction cache to fetch a line. -/
  | ipf (a : SReg)
  /-- R289. Hints a data line into L1 or the slice. -/
  | pfd (a : SReg)
  /-- R290. Raises the user-level cause TRAP with reason n; trap_pc points past the instruction. -/
  | trap (n : BitVec 8)
  /-- R291. Waits for the handler block, restores the lane queue, resumes at trap_pc and clears ACTIVE. -/
  | trapRet
  /-- R293. Releases at package scope and copies a launch record into a queue ring slot, parking while the ring is
  full. -/
  | launch (a b : SReg)
  /-- R295. Hands a command block to the plumb's management mailbox and returns a status code in sD. -/
  | sysMbox (d a : SReg)
  /-- R296. Writes back and invalidates the issuing core's L1 and stack caches. -/
  | sysWbinv
  /-- R380. Checks a 64-byte image and writes it into a tensor table slot with a new generation, returning the
  TID. -/
  | ttSet (d a b : SReg)
  /-- R380. Clears VALID of the tensor table entry that a TID names. -/
  | ttClr (a : SReg)
  /-- R380. Copies a resolved tensor table entry to scratchpad. -/
  | ttRead (a b : SReg)
  /-- R391. Checks and queues a tile load from a tensor at a byte offset. -/
  | mxLdt (d : TReg) (a b : SReg)
  /-- R393. Queues a tile load from scratchpad. -/
  | mxLds (d : TReg) (a : SReg)
  /-- R395. Queues the zeroing of a tile's elements and scales. -/
  | mxZeroT (d : TReg)
  /-- R395. Queues the zeroing of an accumulator and sets cmode.Q to 0. -/
  | mxZeroC (d : CReg)
  /-- R396. Checks shapes and formats and queues c += A·B over the window. -/
  | mxMma (d : CReg) (a b : TReg)
  /-- R398. Makes the MMA checks and arrives at the gang's rendezvous latch. -/
  | mxMmag (d : CReg) (a b : TReg)
  /-- R397. Makes the warp member m of gang g with n members, leaving and dissolving its old gang. -/
  | mxGang (g n m : Fin 64)
  /-- R399. Checks the drain controls and queues a drain of the accumulator window into a tensor. -/
  | mxDrain (d : CReg) (a b : SReg)
  /-- R395. Sets an accumulator's mode, clears Q and zeroes its cells. -/
  | mxMode (d : CReg) (n : Fin 64)
  /-- R405. Queues the binding of a projection slot to an output version. -/
  | witSeed (a : SReg)
  /-- R405. Queues the emit of a projection slot's sums. -/
  | witEmit (a : SReg)
  /-- R303. Lane integer add, wrapping or saturating. -/
  | iadd (f : LaneFields)
  /-- R303. Lane integer subtract. -/
  | isub (f : LaneFields)
  /-- R303. Lane integer multiply. -/
  | imul (f : LaneFields)
  /-- R303. Lane high half of the exact product. -/
  | imulh (f : LaneFields)
  /-- R303. Lane multiply-add. -/
  | imad (f : LaneFields)
  /-- R304. Lane integer divide; a zero divisor raises DZ. -/
  | idiv (f : LaneFields)
  /-- R304. Lane integer remainder. -/
  | irem (f : LaneFields)
  /-- R303. Lane integer minimum. -/
  | imin (f : LaneFields)
  /-- R303. Lane integer maximum. -/
  | imax (f : LaneFields)
  /-- R303. Lane absolute value. -/
  | iabs (f : LaneFields)
  /-- R303. Lane negate. -/
  | ineg (f : LaneFields)
  /-- R305. Lane bitwise AND. -/
  | laneAnd (f : LaneFields)
  /-- R305. Lane bitwise OR. -/
  | laneOr (f : LaneFields)
  /-- R305. Lane bitwise XOR. -/
  | laneXor (f : LaneFields)
  /-- R305. Lane bitwise complement. -/
  | not (f : LaneFields)
  /-- R305. Lane shift left by b mod w. -/
  | laneShl (f : LaneFields)
  /-- R305. Lane shift right, arithmetic for S types and logical for N types. -/
  | laneShr (f : LaneFields)
  /-- R305. Lane rotate left. -/
  | rol (f : LaneFields)
  /-- R305. Lane population count. -/
  | lanePopc (f : LaneFields)
  /-- R305. Lane leading-zero count. -/
  | laneClz (f : LaneFields)
  /-- R305. Lane bit reverse. -/
  | brev (f : LaneFields)
  /-- R306. Lane bit-field extract. -/
  | bfx (f : LaneFields)
  /-- R306. Lane bit-field insert. -/
  | bfi (f : LaneFields)
  /-- R305. Lane move. -/
  | mov (f : LaneFields)
  /-- R307. Lane integer compare for equality into a predicate. -/
  | isetEq (f : LaneFields)
  /-- R307. Lane integer compare, not equal. -/
  | isetNe (f : LaneFields)
  /-- R307. Lane integer compare, less than. -/
  | isetLt (f : LaneFields)
  /-- R307. Lane integer compare, less or equal. -/
  | isetLe (f : LaneFields)
  /-- R307. Lane integer compare, greater than. -/
  | isetGt (f : LaneFields)
  /-- R307. Lane integer compare, greater or equal. -/
  | isetGe (f : LaneFields)
  /-- R308. Lane floating add, rounded once. -/
  | fadd (f : LaneFields)
  /-- R308. Lane floating subtract. -/
  | fsub (f : LaneFields)
  /-- R308. Lane floating multiply. -/
  | fmul (f : LaneFields)
  /-- R308. Lane fused multiply-add with one rounding. -/
  | fma (f : LaneFields)
  /-- R308. Lane floating divide. -/
  | fdiv (f : LaneFields)
  /-- R308. Lane square root. -/
  | fsqrt (f : LaneFields)
  /-- R308. Lane floating minimum with NaN rules. -/
  | fmin (f : LaneFields)
  /-- R308. Lane floating maximum. -/
  | fmax (f : LaneFields)
  /-- R308. Lane sign clear. -/
  | fabs (f : LaneFields)
  /-- R308. Lane sign invert. -/
  | fneg (f : LaneFields)
  /-- R310. Lane floating compare, equal. -/
  | fsetEq (f : LaneFields)
  /-- R310. Lane floating compare, not equal. -/
  | fsetNe (f : LaneFields)
  /-- R310. Lane floating compare, less than. -/
  | fsetLt (f : LaneFields)
  /-- R310. Lane floating compare, less or equal. -/
  | fsetLe (f : LaneFields)
  /-- R310. Lane floating compare, unordered. -/
  | fsetUn (f : LaneFields)
  /-- R311. Lane reciprocal. -/
  | frcp (f : LaneFields)
  /-- R311. Lane reciprocal square root. -/
  | frsq (f : LaneFields)
  /-- R311. Lane base-2 exponential. -/
  | fexp2 (f : LaneFields)
  /-- R311. Lane base-2 logarithm. -/
  | flog2 (f : LaneFields)
  /-- R311. Lane sine. -/
  | fsin (f : LaneFields)
  /-- R311. Lane cosine. -/
  | fcos (f : LaneFields)
  /-- R311. Lane hyperbolic tangent. -/
  | ftanh (f : LaneFields)
  /-- R312. Lane conversion between types under R198. -/
  | cvt (f : LaneFields)
  /-- R315. Lane round to an integral value. -/
  | frnd (f : LaneFields)
  /-- R316. Predicate AND. -/
  | pand (f : LaneFields)
  /-- R316. Predicate OR. -/
  | por (f : LaneFields)
  /-- R316. Predicate XOR. -/
  | pxor (f : LaneFields)
  /-- R316. Predicate NOT. -/
  | pnot (f : LaneFields)
  /-- R318. Pushes an IF mask-stack entry. -/
  | mIf (f : LaneFields)
  /-- R318. Switches the top entry to its ELSE threads. -/
  | mElse (f : LaneFields)
  /-- R318. Pops an IF or ELSE entry. -/
  | mEndif (f : LaneFields)
  /-- R318. Pushes a LOOP entry. -/
  | mLoop (f : LaneFields)
  /-- R318. Removes threads from entries down to the nearest LOOP. -/
  | mBrk (f : LaneFields)
  /-- R318. Loops back or pops the LOOP entry. -/
  | mNext (f : LaneFields)
  /-- R319. Lane no-op. -/
  | lNop (f : LaneFields)
  /-- R319. Checks the mask stack, frees the lane and completes the block. -/
  | lEnd (f : LaneFields)
  /-- R320. Reads vA from a selected thread. -/
  | lxchSel (f : LaneFields)
  /-- R320. Reads vA from the thread b below, or uses the fill. -/
  | lxchLag (f : LaneFields)
  /-- R320. Reads vA from the thread b above, or uses the fill. -/
  | lxchLead (f : LaneFields)
  /-- R320. Reads vA from thread i XOR b. -/
  | lxchMir (f : LaneFields)
  /-- R321. Gathers a predicate over the participating threads into a scalar. -/
  | ballot (f : LaneFields)
  /-- R321. OR of a predicate over the participating threads. -/
  | voteAny (f : LaneFields)
  /-- R321. AND of a predicate over the participating threads. -/
  | voteAll (f : LaneFields)
  /-- R322. Sum over the participating threads into a scalar. -/
  | reduxAdd (f : LaneFields)
  /-- R322. Minimum over the participating threads. -/
  | reduxMin (f : LaneFields)
  /-- R322. Maximum over the participating threads. -/
  | reduxMax (f : LaneFields)
  /-- R322. AND over the participating threads. -/
  | reduxAnd (f : LaneFields)
  /-- R322. OR over the participating threads. -/
  | reduxOr (f : LaneFields)
  /-- R322. XOR over the participating threads. -/
  | reduxXor (f : LaneFields)
  /-- R323. Inclusive prefix sum. -/
  | scanAdd (f : LaneFields)
  /-- R323. Exclusive prefix sum. -/
  | scanAddx (f : LaneFields)
  /-- R323. Inclusive prefix maximum. -/
  | scanMax (f : LaneFields)
  /-- R325. Nibble lookup in a 16-byte table. -/
  | blut (f : LaneFields)
  /-- R326. Byte permute with fill modes. -/
  | bpick (f : LaneFields)
  /-- R328. Lane global load. -/
  | lLd (f : LaneFields)
  /-- R328. Lane global store. -/
  | lSt (f : LaneFields)
  /-- R328. Lane scratchpad load. -/
  | lLds (f : LaneFields)
  /-- R328. Lane scratchpad store. -/
  | lSts (f : LaneFields)
  /-- R328. Lane load through a tensor ID, with kiln checks. -/
  | lLdt (f : LaneFields)
  /-- R328. Lane store through a tensor ID. -/
  | lStt (f : LaneFields)
  /-- R331. Lane global atomic add, one thread at a time. -/
  | lAtomAdd (f : LaneFields)
  /-- R331. Lane global atomic minimum. -/
  | lAtomMin (f : LaneFields)
  /-- R331. Lane global atomic maximum. -/
  | lAtomMax (f : LaneFields)
  /-- R331. Lane global atomic AND. -/
  | lAtomAnd (f : LaneFields)
  /-- R331. Lane global atomic OR. -/
  | lAtomOr (f : LaneFields)
  /-- R331. Lane global atomic XOR. -/
  | lAtomXor (f : LaneFields)
  /-- R331. Lane global atomic exchange. -/
  | lAtomXchg (f : LaneFields)
  /-- R331. Lane global compare-and-swap. -/
  | lAtomCas (f : LaneFields)
  /-- R331. Lane scratchpad atomic add. -/
  | lSatomAdd (f : LaneFields)
  /-- R331. Lane scratchpad atomic minimum. -/
  | lSatomMin (f : LaneFields)
  /-- R331. Lane scratchpad atomic maximum. -/
  | lSatomMax (f : LaneFields)
  /-- R331. Lane scratchpad atomic AND. -/
  | lSatomAnd (f : LaneFields)
  /-- R331. Lane scratchpad atomic OR. -/
  | lSatomOr (f : LaneFields)
  /-- R331. Lane scratchpad atomic XOR. -/
  | lSatomXor (f : LaneFields)
  /-- R331. Lane scratchpad atomic exchange. -/
  | lSatomXchg (f : LaneFields)
  /-- R331. Lane scratchpad compare-and-swap. -/
  | lSatomCas (f : LaneFields)
  /-- R332. Lane remote load. -/
  | lRld (f : LaneFields)
  /-- R332. Lane remote store into the write-combining buffer. -/
  | lRst (f : LaneFields)
  /-- R332. Lane remote atomic add. -/
  | lRatomAdd (f : LaneFields)
  /-- R332. Lane remote compare-and-swap. -/
  | lRatomCas (f : LaneFields)
  /-- R334. Lane modular multiply. -/
  | modmul (f : LaneFields)
  /-- R334. Lane modular add. -/
  | modadd (f : LaneFields)
  /-- R334. Lane modular subtract. -/
  | modsub (f : LaneFields)
  /-- R334. Lane modular multiply-add. -/
  | modmad (f : LaneFields)
  /-- R335. Cooley–Tukey butterfly into two register pairs. -/
  | nttBfly (f : LaneFields)
  /-- R213. A free lane is granted to the oldest warp whose next block has become runnable. -/
  | laneGrant (core : Nat)
  /-- R221. A parked REG.GROW at the head of the issue-time order is granted zeroed blocks when they fit. -/
  | regGrowGrant (core : Nat)
  /-- R152. A write to, invalidation of or eviction of a watched location, or a spurious event, wakes a warp
  parked in MON.WAIT. -/
  | monitorWake (w : Nat)
  /-- R152. The MON.WAIT timeout expires and the warp wakes. -/
  | monTimeout (w : Nat)
  /-- R353. The idle tree has held for 2 or 5 µs; QUIESCE.WAIT completes with an acquire. -/
  | quiesceIdle (w : Nat)
  /-- R22. A walk reads page-table and owner entries, builds a translation or faults, and sets A bits. -/
  | pageWalk (die src ctx hold kind : Nat) (tensor : Bool) (va : BitVec 64)
  /-- R48. A store to the fault ring's REPLAY frees coalescing entries with SEQ ≤ N, and their parked accesses
  walk again. -/
  | replay (part : Nat)
  /-- R39. A die receives an invalidation of a tracked line, discards derived translations, settles translated
  accesses and acknowledges. -/
  | translationInvalidation (die line : Nat)
  /-- R39. Once all acknowledgements arrive, the home performs the held write to a tracked line and clears the
  presence vector. -/
  | trackedWritePerform (line : Nat)
  /-- R59. The home serves a read request from a cluster and updates the directory entry; `victim` selects what gives up
  its place in a full set. -/
  | homeRead (cluster line victim : Nat)
  /-- R59. The home grants ownership to a cluster after invalidating sharers or recalling the owner; `victim` as above. -/
  | homeOwnership (cluster line victim : Nat)
  /-- R59. The home removes a sharer on its clean eviction notice. -/
  | cleanEvictionNotice (cluster line : Nat)
  /-- R59. The home writes an evicting owner's merged bytes and makes the line UNCACHED. -/
  | ownerWriteback (cluster line : Nat)
  /-- R59. A sharer or owner receives an invalidation or recall, writes back dirty bytes and acknowledges. -/
  | invalidation (cluster line : Nat)
  /-- R71. The home registers or refuses a core's first plain store to a CHECKED grain, or checks a plain load. -/
  | grainRegister (core pa : Nat)
  /-- R72. The home clears a core's open grain at an interval close and acknowledges. -/
  | grainClear (core grain : Nat)
  /-- R72. A full home table set sends a forced close to the core owning its least recently registered entry. -/
  | forcedClose (core : Nat)
  /-- R366. The head copy operation of a queue moves its rows piece by piece, or commits a conditional copy, or
  marks a malformed request. -/
  | copyQueueOperation (core q : Nat)
  /-- R370. The head gather reads indices and copies table rows, or zeros, into scratchpad. -/
  | gatherOperation (core : Nat)
  /-- R390. The MX core performs the next operand-queue entry: tile load, zero, mode, multiply, drain, seed or
  emit. -/
  | mxQueueEntry (core : Nat)
  /-- R166. A write-combining entry reaching 2 µs of age drains as one masked line write after its peer check. -/
  | writeCombiningDrain (core : Nat)
  /-- R162. The response to a remote load or atomic arrives and the parked thread completes or traps. -/
  | remoteResponse (id reason detail : Nat) (data : BitVec 64)
  /-- R168. An acknowledgement of a remote line write arrives at the issuer, recording REFUSED or LOST entries. -/
  | lineWriteAck (id code : Nat)
  /-- R164. An IO die accepts, translates and performs an inbound remote load or atomic, or answers it with a
  fault. -/
  | inboundRemoteAccess (id peer srcPart ctx lease va : Nat) (op : RemOp) (size : Nat) (x y : BitVec 64)
  /-- R168. An IO die performs, refuses or logs an inbound masked line write. -/
  | inboundLineWrite (id peer srcPart ctx lease va : Nat) (data : BitVec 1024) (mask : BitVec 128) (release : Bool)
  /-- R164. A remote load or atomic without a response for 15 ms completes with REMOTE_FAULT UNREACHABLE. -/
  | remoteTimeout (id : Nat)
  /-- R164. A replayable target fault not replayed within 10 ms completes with REMOTE_FAULT TIMEOUT. -/
  | remoteFaultTimeout (id peer : Nat)
  /-- R172. A store to the store-fault log's DONE sends the withheld acknowledgements of records with SEQ ≤ N. -/
  | done (part : Nat)
  /-- R172. A record not covered by DONE within 10 ms is dropped and acknowledged LOST. -/
  | storeFaultTimeout (part seq : Nat)
  /-- R173. A faulting write that cannot be logged within 10 ms is dropped with LOST. -/
  | storeFaultLogFullTimeout (id peer : Nat)
  /-- R177. A receiver takes a bulk prefix and request, keeping the request or refusing it as BUSY. -/
  | bulkRequest (send peer srcPart ctx lease base dest total prio : Nat) (flag : Option (Nat × BitVec 64)) (rxLand : Option Nat) (len data : Nat) (poison : List (Nat × Nat))
  /-- R177. A sender resends a BUSY-refused request after 20 µs. -/
  | bulkRequestRetry (send : Nat)
  /-- R178. The grant scheduler translates a range and issues a pull token to the next request in order. -/
  | tokenGrant
  /-- R182. A sender receives a pull token and sends the authorised lines, or ends the send on an egress refusal.
  -/
  | tokenArrival (send : Nat) (req : TokenRef) (off n : Nat) (old : Bool)
  /-- R179. A token's range lands, reducing the remaining bytes and finishing the request with its flag store when
  the last byte lands. -/
  | tokenDataLand (req : TokenRef) (off n data : Nat) (poison : List (Nat × Nat))
  /-- R179. A token not fully landed 20 µs after its grant expires and EXPIRIES increases. -/
  | tokenExpiry (req off : Nat)
  /-- R179. A request silent for 1 ms after its second expiry becomes ORPHANED. -/
  | orphan (req : Nat)
  /-- R178. A request whose AGE reaches 200 µs moves up one level. -/
  | agePromotion (req : Nat)
  /-- R180. A receiver takes PARK for a request, expiring its tokens and freezing its AGE. -/
  | park (req : Nat)
  /-- R179. A receiver takes RESUME for a parked request and returns it to WAITING, or answers ORPHANED. -/
  | resume (req : Nat)
  /-- R181. A bulk send's final acknowledgement reaches the sender and counts its arrival on the landing word. -/
  | finalAcknowledgement (send : Nat)
  /-- R416. The scheduler, woken on a TAIL line, copies launch records into the launch table and checks them. -/
  | takeLaunchRecord (part level : Nat)
  /-- R422. A ready launch reads its header and, for CERT, binds versions and opens, or ends REFUSED. -/
  | launchOpen (num : Nat)
  /-- R425. The distributor writes an open launch's work records into its work ring as space allows. -/
  | workRecordWrite (num : Nat)
  /-- R426. A core or cluster with room takes the oldest admissible record of the highest level and starts its
  warps. -/
  | placeWorkgroup (core : Nat)
  /-- R424. A finished launch seals outputs, frees held frames, stores STATUS and decrements its signals. -/
  | launchComplete (num : Nat)
  /-- R429. A record waiting beyond PREEMPT_US triggers the save of the fewest lower-priority workgroups. -/
  | preemption (r : Nat) (finish : Bool)
  /-- R432. A saved workgroup is placed again, its state restored and its parked instructions reissued. -/
  | resumeWorkgroup (core : Nat)
  /-- R446. The plumb places a witness kernel for an AWAITING record on another course, or fails the record. -/
  | witnessPlace (id course : Nat) (record : BitVec 1024) (header : BitVec 512)
  /-- R447. The plumb tests arrived witness values exactly and passes, rechecks or fails the record. -/
  | witnessTest (id : Nat) (values : List (BitVec 64))
  /-- R99. Once HOLDERS is zero, the plumb zeroes a tainted operator's pages and opens it again with a new
  version. -/
  | reexecute (id : Nat)
  /-- R442. A new seed epoch starts and the plumb draws two new seeds. -/
  | seedEpoch
  /-- R135. The plumb's 1 µs device tick advances and is distributed to every die. -/
  | deviceTick
  /-- R135. An L1 line whose fill tick is more than 2^40 ticks old is written back and invalidated. -/
  | l1AgeInvalidate (core line : Nat)
  /-- R77. Each bank's hourly error counters clear at the start of each hour. -/
  | hourlyCounterClear
  /-- R456. Charged failures and failed retries older than 24 hours leave the per-core and per-course counts. -/
  | failureWindowExpiry
  /-- R77. The scrubber reads a line, corrects and writes back errors, and counts them. -/
  | scrub (sec symbols : Nat) (pin : Bool)
  /-- R77. The scrubber re-encodes one row of a bank under the strong code. -/
  | reencodeRow (bank : Nat) (last : Bool)
  /-- R81. The line at a migrating region's WATERMARK moves to its new location and the watermark advances. -/
  | migrateLine (move : LineMove)
  /-- R29. The zeroing engine finishes zeroing a block and the plumb writes its new owner. -/
  | zeroing
  /-- R461. A checker mismatch parks the instruction and reports to the plumb. -/
  | pipelineError (w : PipeAt)
  /-- R461. The authorised retry reissues the instruction, completing it or aborting the workgroup. -/
  | pipelineRetry (w : Nat) (passed : Bool)
  /-- R464. An uncorrectable error in core state raises MACHINE_CHECK CORE_UE and aborts the workgroups holding
  it. -/
  | coreUe (core : Nat) (hit : CoreHit)
  /-- R466. A core pair idle for GATE_IDLE_US is power-gated and its state zeroed. -/
  | powerGate (core : Nat)
  /-- R466. A gated pair is woken for placement and runs its ramp, clear and self-test. -/
  | coreWake (core : Nat)
  /-- R466. The plumb accepts or rejects a pair's self-test signatures, offering or retiring the pair. -/
  | selfTestDone (core : Nat) (pass : Bool)
  /-- R467. A die-to-die link leaves its low-power state and enters WAKING. -/
  | linkWake (a b : Nat)
  /-- R467. A link completes training and becomes AWAKE. -/
  | linkTrained (a b : Nat)
  /-- R467. A link not AWAKE within its wake bound, or an unanswered message, makes it SILENT. -/
  | linkWakeTimeout (a b : Nat)
  /-- R467. A link SILENT for 250 µs becomes FENCED and the far die's copies are destroyed. -/
  | linkFenceTimeout (a b : Nat)
  /-- R468. An uncorrectable error in a course's interconnect or directory logic starts a course reset. -/
  | interconnectUe (course : Nat) (lines : List Nat)
  /-- R468. The course's dies finish draining; links are fenced and the dies reset. -/
  | courseDrainDone (course : Nat)
  /-- R468. At 250 µs the links are fenced and unsaved workgroups abort with MACHINE_CHECK RESET. -/
  | courseDrainDeadline (course : Nat) (lost : List Nat)
  /-- R468. The reset dies retrain, homes resume and passing pairs return to placement. -/
  | courseRejoin (course : Nat)
  /-- R469. A course not rejoined within 10 ms is declared failed, its waiting requests poisoned and its pairs
  retired. -/
  | courseFailed (course : Nat)
  /-- R487. Power above CAP_W or a die at 100 °C lowers the arithmetic clock in 100 MHz steps. -/
  | throttle (lower : Bool)
  /-- R487. A die at 110 °C stops the package and abandons pending commands. -/
  | overtemp
  /-- R481. The plumb runs its ROM, trains the host and far ports and draws its seed-generator state. -/
  | powerUp (ports : List Nat)
  /-- R477. The whole package resets and every pending command is ABANDONED. -/
  | packageReset
  /-- R481. A host write of fw_go starts authentication of the firmware set in BAR2. -/
  | fwGo (length : BitVec 32)
  /-- R481. Firmware authentication completes, entering BRINGUP or AUTH_FAILED. -/
  | authentication
  /-- R481. Microcode, HBM training, fused retirements and core self-tests complete and the device becomes READY.
  -/
  | bringup (banks cores : List Nat)
  /-- R475. A host CXL.mem read is served at the line's home through the egress filter. -/
  | hostMemRead (place : HostPlace) (n : Nat) (stream : Option Nat)
  /-- R475. A host CXL.mem or CXL.io write is performed at the home or dropped by the egress filter. -/
  | hostMemWrite (bar2 : Bool) (pa n data : Nat) (stream : Option Nat)
  /-- R482. An SPDM 1.3 request on a function's DOE mailbox is answered with signed measurements. -/
  | spdmRequest (function op : Nat)
  /-- R484. A TDISP request moves a partition's TDI between its states. -/
  | tdispRequest (part op : Nat)
  /-- R484. STOP_INTERFACE ends every context of the partition, zeroes and unowns its frames and unlocks the TDI.
  -/
  | stopInterface (part : Nat)
  /-- R10. A write to a register with no behaviour of its own takes effect by its access code, or has no effect.
  -/
  | registerWrite (off : Nat) (value : BitVec 64) (block : BitVec 4096)
  /-- R20. Mailbox command that writes a partition descriptor. -/
  | partSet (n : Nat)
  /-- R19. Mailbox command that writes a context descriptor after discarding its translations. -/
  | ctxSet (n : Nat)
  /-- R419. Mailbox command that ends a context and its launches. -/
  | ctxEnd (n : Nat)
  /-- R29. Mailbox command that assigns or unassigns a block of frames, zeroing where required. -/
  | frameAssign (n : Nat)
  /-- R89. Mailbox command that assigns kiln pages to a partition. -/
  | kilnAssign (n : Nat)
  /-- R96. Mailbox command that zeroes and frees a RELEASED or failed binding with HOLDERS zero. -/
  | kilnFree (n : Nat)
  /-- R414. Mailbox command that registers or removes a launch queue. -/
  | queueSet (n : Nat)
  /-- R156. Mailbox command that writes a peer table entry after the fan-out. -/
  | peerSet (n : Nat)
  /-- R419. Mailbox command that ends a launch, aborting its workgroups. -/
  | launchEnd (n : Nat)
  /-- R109. Mailbox command that quiesces the package and copies assigned HBM to the far tier. -/
  | checkpoint (n : Nat)
  /-- R109. The copy ends; the plumb writes the lists and signed header, releases held writes and resumes
  placement. -/
  | checkpointComplete
  /-- R113. Mailbox command that checks a checkpoint and starts copying it back. -/
  | restore (n : Nat)
  /-- R113. The restore copy ends and owner entries, metadata and kiln entries are restored. -/
  | restoreComplete
  /-- R468. Mailbox command that resets a course. -/
  | dieReset (n : Nat)
  /-- R458. Mailbox command that returns a signed result certificate for a RELEASED version. -/
  | certify (n : Nat)
  /-- R471. Mailbox command that exports the signed fault record. -/
  | faultExport (n : Nat)
  /-- R471. Mailbox command that verifies and installs an imported fault record. -/
  | faultImport (n : Nat) (image : List (BitVec 8))
  /-- R84. Mailbox command that writes hbm_rel_cfg. -/
  | relSet (n : Nat)
  /-- R457. Mailbox command that writes cert_cfg. -/
  | certSet (n : Nat)
  /-- R463. Mailbox command that writes fault_cfg. -/
  | faultSet (n : Nat)
  /-- R486. Mailbox command that configures the far-tier interleave sets. -/
  | farSet (n : Nat)
  /-- R487. Mailbox command that writes power_cap. -/
  | powerSet (n : Nat)
  /-- R467. A die-to-die link enters its low-power state, from which a later message must wait through WAKING. -/
  | linkLowPowerEntry (a b : Nat)
  /-- R181. A token acknowledgement from the receiver reaches the sender and lowers PENDING_SECTORS of the sender
  landing word. -/
  | tokenAcknowledgement (send req off n code : Nat)
  /-- R182. A receiver's ORPHANED or REFUSED answer reaches the sender, which sets that status in its landing word
  and writes a KIND 5 or 6 asynchronous error entry. -/
  | finalResponse (send left : Nat) (orphaned : Bool)
  /-- R474. The host's completion of a RdCurr request or CXL.io read arrives, finishing a host-window load or
  atomic or a system-scope release waiting on it. -/
  | hostWindowResponse (id : Nat) (data : BitVec 64)
  /-- R475. The host answers a back-invalidation snoop, letting the home complete the ownership or recall that
  waited on it. -/
  | bisnpResponse (line : Nat)
  deriving DecidableEq, Repr

end Sys2Proof
end

