-- ==== Sys2Proof/Decode.lean ====
section
/-! DEFINITION. The decoder and the encoder, written from the formats and opcode maps of R239-R251, and the
encoding rules of R252 that an instruction's meaning checks before anything else. -/

namespace Sys2Proof

/-- Why a word is no instruction (R252). Every one of these raises ILLEGAL_INSTRUCTION at issue. -/
inductive DecodeReason where
  /-- a reserved major opcode or lane opcode -/
  | reservedOpcode
  /-- a reserved FN -/
  | reservedFn
  /-- a non-zero reserved field -/
  | reservedField
  /-- a reserved code in a field -/
  | reservedCode
  /-- fewer bytes than the instruction has -/
  | shortInput
  deriving DecidableEq, Repr

/-- Bits [lo + n - 1 : lo] of a word. -/
def fld (w lo n : Nat) : Nat := w / 2 ^ lo % 2 ^ n

/-- A register number or literal below `n` at bit `lo`. -/
def fin (n : Nat) [NeZero n] (w lo : Nat) : Fin n := Fin.ofNat n (w / 2 ^ lo)

/-- An n-bit immediate at bit `lo`. -/
def bv (n w lo : Nat) : BitVec n := BitVec.ofNat n (w / 2 ^ lo)

/-- Scope codes (R117). -/
def decodeScope : Nat → Option Scope
  | 0 => some .thread | 1 => some .warp | 2 => some .workgroup | 3 => some .cluster
  | 4 => some .course | 5 => some .package | 6 => some .system | _ => none

/-- The code of a scope (R117). -/
def Scope.code : Scope → Nat
  | .thread => 0 | .warp => 1 | .workgroup => 2 | .cluster => 3 | .course => 4 | .package => 5 | .system => 6

/-- ORD codes (R241). -/
def decodeOrd : Nat → Option MemOrd
  | 0 => some .plain | 1 => some .rlx | 2 => some .acq | 3 => some .rel | 4 => some .ar | 5 => some .sc
  | _ => none

/-- The code of a memory order (R241). -/
def MemOrd.code : MemOrd → Nat
  | .plain => 0 | .rlx => 1 | .acq => 2 | .rel => 3 | .ar => 4 | .sc => 5

/-- SIZE codes (R241). -/
def decodeSize : Nat → Option MemSize
  | 0 => some .n8 | 1 => some .s8 | 2 => some .n16 | 3 => some .s16 | 4 => some .n32 | 5 => some .s32
  | 6 => some .n64 | _ => none

/-- The code of an access size (R241). -/
def MemSize.code : MemSize → Nat
  | .n8 => 0 | .s8 => 1 | .n16 => 2 | .s16 => 3 | .n32 => 4 | .s32 => 5 | .n64 => 6

/-- Scope at [13:11] of a scalar word, then the instruction it completes. -/
def withScope (w : Nat) (k : Scope → Except DecodeReason Instr) : Except DecodeReason Instr :=
  match decodeScope (fld w 11 3) with
  | some c => k c
  | none => .error .reservedCode

/-- ORD at [10:8] of a scalar word, then the instruction it completes. -/
def withOrd (w : Nat) (k : MemOrd → Except DecodeReason Instr) : Except DecodeReason Instr :=
  match decodeOrd (fld w 8 3) with
  | some o => k o
  | none => .error .reservedCode

/-- SIZE at bit `lo` of a scalar word, then the instruction it completes. -/
def withSize (w lo : Nat) (k : MemSize → Except DecodeReason Instr) : Except DecodeReason Instr :=
  match decodeSize (fld w lo 3) with
  | some z => k z
  | none => .error .reservedCode

/-- An instruction whose unused bits must be zero (R240). -/
def ifZero (b : Bool) (i : Instr) : Except DecodeReason Instr :=
  if b then .ok i else .error .reservedField

/-- Major 0x01, by FN (R243). -/
def decodeAlu (w : Nat) : Except DecodeReason Instr :=
  match fld w 0 8 with
  | 0 => .ok (.add (fin 64 w 20) (fin 64 w 14) (fin 64 w 8))
  | 1 => .ok (.sub (fin 64 w 20) (fin 64 w 14) (fin 64 w 8))
  | 2 => .ok (.mul (fin 64 w 20) (fin 64 w 14) (fin 64 w 8))
  | 3 => .ok (.mulh (fin 64 w 20) (fin 64 w 14) (fin 64 w 8))
  | 4 => .ok (.mulhn (fin 64 w 20) (fin 64 w 14) (fin 64 w 8))
  | 5 => .ok (.div (fin 64 w 20) (fin 64 w 14) (fin 64 w 8))
  | 6 => .ok (.divn (fin 64 w 20) (fin 64 w 14) (fin 64 w 8))
  | 7 => .ok (.rem (fin 64 w 20) (fin 64 w 14) (fin 64 w 8))
  | 8 => .ok (.remn (fin 64 w 20) (fin 64 w 14) (fin 64 w 8))
  | 9 => .ok (.and (fin 64 w 20) (fin 64 w 14) (fin 64 w 8))
  | 10 => .ok (.or (fin 64 w 20) (fin 64 w 14) (fin 64 w 8))
  | 11 => .ok (.xor (fin 64 w 20) (fin 64 w 14) (fin 64 w 8))
  | 12 => .ok (.andn (fin 64 w 20) (fin 64 w 14) (fin 64 w 8))
  | 13 => .ok (.shl (fin 64 w 20) (fin 64 w 14) (fin 64 w 8))
  | 14 => .ok (.shr (fin 64 w 20) (fin 64 w 14) (fin 64 w 8))
  | 15 => .ok (.sra (fin 64 w 20) (fin 64 w 14) (fin 64 w 8))
  | 16 => .ok (.ror (fin 64 w 20) (fin 64 w 14) (fin 64 w 8))
  | 17 => .ok (.min (fin 64 w 20) (fin 64 w 14) (fin 64 w 8))
  | 18 => .ok (.minn (fin 64 w 20) (fin 64 w 14) (fin 64 w 8))
  | 19 => .ok (.max (fin 64 w 20) (fin 64 w 14) (fin 64 w 8))
  | 20 => .ok (.maxn (fin 64 w 20) (fin 64 w 14) (fin 64 w 8))
  | 21 => .ok (.slt (fin 64 w 20) (fin 64 w 14) (fin 64 w 8))
  | 22 => .ok (.sltn (fin 64 w 20) (fin 64 w 14) (fin 64 w 8))
  | 23 => .ok (.seq (fin 64 w 20) (fin 64 w 14) (fin 64 w 8))
  | 24 => ifZero (fld w 8 6 == 0) (.clz (fin 64 w 20) (fin 64 w 14))
  | 25 => ifZero (fld w 8 6 == 0) (.ctz (fin 64 w 20) (fin 64 w 14))
  | 26 => ifZero (fld w 8 6 == 0) (.popc (fin 64 w 20) (fin 64 w 14))
  | 27 => ifZero (fld w 8 6 == 0) (.bswap (fin 64 w 20) (fin 64 w 14))
  | _ => .error .reservedFn

/-- Major 0x13, by FN (R243). -/
def decodeIndirect (w : Nat) : Except DecodeReason Instr :=
  match fld w 0 8 with
  | 0 => ifZero (fld w 8 6 == 0 && fld w 20 6 == 0) (.jr (fin 64 w 14))
  | 1 => ifZero (fld w 8 6 == 0 && fld w 20 6 == 0) (.callr (fin 64 w 14))
  | 2 => ifZero (fld w 8 18 == 0) (.ret)
  | _ => .error .reservedFn

/-- Major 0x18, by FN (R243). -/
def decodeOrdered (w : Nat) : Except DecodeReason Instr :=
  match fld w 3 5 with
  | 0 => withScope w fun c => withOrd w fun o => withSize w 0 fun z => .ok (.ldOrd (fin 64 w 20) (fin 64 w 14) c o z)
  | 1 => withScope w fun c => withOrd w fun o => withSize w 0 fun z => .ok (.stOrd (fin 64 w 20) (fin 64 w 14) c o z)
  | _ => .error .reservedFn

/-- Major 0x19, by FN (R243). -/
def decodeAtom (w : Nat) : Except DecodeReason Instr :=
  match fld w 3 5 with
  | 0 => withScope w fun c => withOrd w fun o => withSize w 0 fun z => .ok (.atomAdd (fin 64 w 20) (fin 64 w 14) c o z)
  | 1 => withScope w fun c => withOrd w fun o => withSize w 0 fun z => .ok (.atomSub (fin 64 w 20) (fin 64 w 14) c o z)
  | 2 => withScope w fun c => withOrd w fun o => withSize w 0 fun z => .ok (.atomMin (fin 64 w 20) (fin 64 w 14) c o z)
  | 3 => withScope w fun c => withOrd w fun o => withSize w 0 fun z => .ok (.atomMinn (fin 64 w 20) (fin 64 w 14) c o z)
  | 4 => withScope w fun c => withOrd w fun o => withSize w 0 fun z => .ok (.atomMax (fin 64 w 20) (fin 64 w 14) c o z)
  | 5 => withScope w fun c => withOrd w fun o => withSize w 0 fun z => .ok (.atomMaxn (fin 64 w 20) (fin 64 w 14) c o z)
  | 6 => withScope w fun c => withOrd w fun o => withSize w 0 fun z => .ok (.atomAnd (fin 64 w 20) (fin 64 w 14) c o z)
  | 7 => withScope w fun c => withOrd w fun o => withSize w 0 fun z => .ok (.atomOr (fin 64 w 20) (fin 64 w 14) c o z)
  | 8 => withScope w fun c => withOrd w fun o => withSize w 0 fun z => .ok (.atomXor (fin 64 w 20) (fin 64 w 14) c o z)
  | 9 => withScope w fun c => withOrd w fun o => withSize w 0 fun z => .ok (.atomXchg (fin 64 w 20) (fin 64 w 14) c o z)
  | 10 => withScope w fun c => withOrd w fun o => withSize w 0 fun z => .ok (.atomCas (fin 64 w 20) (fin 64 w 14) c o z)
  | _ => .error .reservedFn

/-- Major 0x1A, by FN (R243). -/
def decodeOrderedSp (w : Nat) : Except DecodeReason Instr :=
  match fld w 3 5 with
  | 0 => withScope w fun c => withOrd w fun o => withSize w 0 fun z => .ok (.ldOrdSp (fin 64 w 20) (fin 64 w 14) c o z)
  | 1 => withScope w fun c => withOrd w fun o => withSize w 0 fun z => .ok (.stOrdSp (fin 64 w 20) (fin 64 w 14) c o z)
  | _ => .error .reservedFn

/-- Major 0x1B, by FN (R243). -/
def decodeAtomSp (w : Nat) : Except DecodeReason Instr :=
  match fld w 3 5 with
  | 0 => withScope w fun c => withOrd w fun o => withSize w 0 fun z => .ok (.atomAddSp (fin 64 w 20) (fin 64 w 14) c o z)
  | 1 => withScope w fun c => withOrd w fun o => withSize w 0 fun z => .ok (.atomSubSp (fin 64 w 20) (fin 64 w 14) c o z)
  | 2 => withScope w fun c => withOrd w fun o => withSize w 0 fun z => .ok (.atomMinSp (fin 64 w 20) (fin 64 w 14) c o z)
  | 3 => withScope w fun c => withOrd w fun o => withSize w 0 fun z => .ok (.atomMinnSp (fin 64 w 20) (fin 64 w 14) c o z)
  | 4 => withScope w fun c => withOrd w fun o => withSize w 0 fun z => .ok (.atomMaxSp (fin 64 w 20) (fin 64 w 14) c o z)
  | 5 => withScope w fun c => withOrd w fun o => withSize w 0 fun z => .ok (.atomMaxnSp (fin 64 w 20) (fin 64 w 14) c o z)
  | 6 => withScope w fun c => withOrd w fun o => withSize w 0 fun z => .ok (.atomAndSp (fin 64 w 20) (fin 64 w 14) c o z)
  | 7 => withScope w fun c => withOrd w fun o => withSize w 0 fun z => .ok (.atomOrSp (fin 64 w 20) (fin 64 w 14) c o z)
  | 8 => withScope w fun c => withOrd w fun o => withSize w 0 fun z => .ok (.atomXorSp (fin 64 w 20) (fin 64 w 14) c o z)
  | 9 => withScope w fun c => withOrd w fun o => withSize w 0 fun z => .ok (.atomXchgSp (fin 64 w 20) (fin 64 w 14) c o z)
  | 10 => withScope w fun c => withOrd w fun o => withSize w 0 fun z => .ok (.atomCasSp (fin 64 w 20) (fin 64 w 14) c o z)
  | _ => .error .reservedFn

/-- Major 0x1C, by FN (R243). -/
def decodeSync (w : Nat) : Except DecodeReason Instr :=
  match fld w 0 8 with
  | 0 => withScope w fun c => withOrd w fun o => ifZero (fld w 14 12 == 0) (.fence c o)
  | 1 => withScope w fun c => ifZero (fld w 8 3 == 0) (.rel (fin 64 w 20) (fin 64 w 14) c)
  | 2 => withScope w fun c => ifZero (fld w 8 3 == 0) (.relAdd (fin 64 w 20) (fin 64 w 14) c)
  | 3 => withScope w fun c => ifZero (fld w 8 3 == 0) (.acq (fin 64 w 20) (fin 64 w 14) c)
  | 17 => withScope w fun c => ifZero (fld w 8 3 == 0) (.relSp (fin 64 w 20) (fin 64 w 14) c)
  | 18 => withScope w fun c => ifZero (fld w 8 3 == 0) (.relAddSp (fin 64 w 20) (fin 64 w 14) c)
  | 19 => withScope w fun c => ifZero (fld w 8 3 == 0) (.acqSp (fin 64 w 20) (fin 64 w 14) c)
  | 4 => withScope w fun c => ifZero (fld w 8 3 == 0 && fld w 20 6 == 0) (.barArr (fin 64 w 14) c)
  | 5 => withScope w fun c => ifZero (fld w 8 3 == 0 && fld w 20 6 == 0) (.barWait (fin 64 w 14) c)
  | 6 => withScope w fun c => ifZero (fld w 8 3 == 0 && fld w 20 6 == 0) (.barSync (fin 64 w 14) c)
  | 7 => ifZero (fld w 8 6 == 0 && fld w 20 6 == 0) (.monArm (fin 64 w 14))
  | 8 => ifZero (fld w 8 6 == 0 && fld w 20 6 == 0) (.monArmSp (fin 64 w 14))
  | 9 => ifZero (fld w 8 6 == 0 && fld w 20 6 == 0) (.monWait (fin 64 w 14))
  | 10 => withScope w fun c => ifZero (fld w 8 3 == 0 && fld w 14 12 == 0) (.quiesceWait c)
  | 11 => withScope w fun c => ifZero (fld w 8 3 == 0 && fld w 14 12 == 0) (.laneSync c)
  | _ => .error .reservedFn

/-- Major 0x1D, by FN (R243). -/
def decodeRemote (w : Nat) : Except DecodeReason Instr :=
  match fld w 3 5 with
  | 0 => withSize w 0 fun z => ifZero (fld w 11 3 == 0) (.rld (fin 64 w 20) (fin 64 w 14) (fin 8 w 8) z)
  | 1 => withSize w 0 fun z => ifZero (fld w 11 3 == 0) (.rst (fin 64 w 20) (fin 64 w 14) (fin 8 w 8) z)
  | 2 => if fld w 11 3 == 6 then withSize w 0 fun z => .ok (.rstRelSys (fin 64 w 20) (fin 64 w 14) (fin 8 w 8) z) else .error .reservedCode
  | 3 => withSize w 0 fun z => ifZero (fld w 11 3 == 0) (.ratomAdd (fin 64 w 20) (fin 64 w 14) (fin 8 w 8) z)
  | 4 => withSize w 0 fun z => ifZero (fld w 11 3 == 0) (.ratomAnd (fin 64 w 20) (fin 64 w 14) (fin 8 w 8) z)
  | 5 => withSize w 0 fun z => ifZero (fld w 11 3 == 0) (.ratomOr (fin 64 w 20) (fin 64 w 14) (fin 8 w 8) z)
  | 6 => withSize w 0 fun z => ifZero (fld w 11 3 == 0) (.ratomXor (fin 64 w 20) (fin 64 w 14) (fin 8 w 8) z)
  | 7 => withSize w 0 fun z => ifZero (fld w 11 3 == 0) (.ratomXchg (fin 64 w 20) (fin 64 w 14) (fin 8 w 8) z)
  | 8 => withSize w 0 fun z => ifZero (fld w 11 3 == 0) (.ratomCas (fin 64 w 20) (fin 64 w 14) (fin 8 w 8) z)
  | _ => .error .reservedFn

/-- Major 0x1E, by FN (R243). -/
def decodeCap (w : Nat) : Except DecodeReason Instr :=
  match fld w 0 8 with
  | 0 => ifZero (fld w 8 6 == 0 && fld w 23 3 == 0) (.capLd (fin 8 w 20) (fin 64 w 14))
  | 1 => ifZero (fld w 11 3 == 0 && fld w 20 6 == 0) (.capSt (fin 64 w 14) (fin 8 w 8))
  | 2 => ifZero (fld w 8 6 == 0 && fld w 23 3 == 0) (.capMint (fin 8 w 20) (fin 64 w 14))
  | 3 => ifZero (fld w 17 3 == 0 && fld w 23 3 == 0) (.capBound (fin 8 w 20) (fin 8 w 14) (fin 64 w 8))
  | 4 => ifZero (fld w 17 3 == 0 && fld w 23 3 == 0) (.capPerm (fin 8 w 20) (fin 8 w 14) (fin 64 w 8))
  | 5 => ifZero (fld w 17 3 == 0) (.capRead (fin 64 w 20) (fin 8 w 14) (fin 64 w 8))
  | 6 => ifZero (fld w 8 6 == 0 && fld w 17 3 == 0 && fld w 23 3 == 0) (.capMov (fin 8 w 20) (fin 8 w 14))
  | _ => .error .reservedFn

/-- Major 0x1F, by FN (R243). -/
def decodeEngine (w : Nat) : Except DecodeReason Instr :=
  match fld w 0 8 with
  | 0 => ifZero (fld w 10 4 == 0 && fld w 20 6 == 0) (.xferPost (fin 64 w 14) (fin 4 w 8))
  | 1 => ifZero (fld w 10 4 == 0 && fld w 20 6 == 0) (.xferCond (fin 64 w 14) (fin 4 w 8))
  | 2 => ifZero (fld w 10 4 == 0 && fld w 20 6 == 0) (.xferBulk (fin 64 w 14) (fin 4 w 8))
  | 3 => ifZero (fld w 8 6 == 0 && fld w 20 6 == 0) (.gatherPost (fin 64 w 14))
  | 4 => ifZero (fld w 14 12 == 0) (.qfence (bv 6 w 8))
  | 5 => ifZero (fld w 20 6 == 0) (.lwInit (fin 64 w 14) (fin 64 w 8))
  | 6 => ifZero (fld w 20 6 == 0) (.lwWait (fin 64 w 14) (fin 64 w 8))
  | 7 => ifZero (fld w 8 6 == 0) (.lwRead (fin 64 w 20) (fin 64 w 14))
  | 8 => .ok (.spMap (fin 64 w 20) (fin 64 w 14) (fin 64 w 8))
  | 9 => ifZero (fld w 8 6 == 0 && fld w 20 6 == 0) (.spUnmap (fin 64 w 14))
  | _ => .error .reservedFn

/-- Major 0x20, by FN (R243). -/
def decodeAffine (w : Nat) : Except DecodeReason Instr :=
  match fld w 0 8 with
  | 0 => ifZero (fld w 24 2 == 0) (.amov (fin 16 w 20) (fin 64 w 14) (fin 64 w 8))
  | 1 => ifZero (fld w 8 6 == 0 && fld w 24 2 == 0) (.abase (fin 16 w 20) (fin 64 w 14))
  | 2 => ifZero (fld w 8 6 == 0 && fld w 24 2 == 0) (.astride (fin 16 w 20) (fin 64 w 14))
  | 3 => ifZero (fld w 8 6 == 0 && fld w 24 2 == 0) (.aadd (fin 16 w 20) (fin 64 w 14))
  | 4 => ifZero (fld w 8 6 == 0 && fld w 18 2 == 0) (.aread (fin 64 w 20) (fin 16 w 14))
  | 5 => ifZero (fld w 8 6 == 0 && fld w 18 2 == 0) (.asread (fin 64 w 20) (fin 16 w 14))
  | _ => .error .reservedFn

/-- Major 0x21, by FN (R243). -/
def decodeControl (w : Nat) : Except DecodeReason Instr :=
  match fld w 0 8 with
  | 0 => .ok (.mfcr (fin 64 w 20) (bv 12 w 8))
  | 1 => .ok (.mtcr (fin 64 w 20) (bv 12 w 8))
  | _ => .error .reservedFn

/-- Major 0x23, by FN (R243). -/
def decodeMisc (w : Nat) : Except DecodeReason Instr :=
  match fld w 0 8 with
  | 0 => ifZero (fld w 8 18 == 0) (.nop)
  | 1 => ifZero (fld w 8 18 == 0) (.exit)
  | 2 => ifZero (fld w 10 16 == 0) (.regGrow (fin 4 w 8))
  | 3 => ifZero (fld w 8 18 == 0) (.regShrink)
  | 4 => ifZero (fld w 8 6 == 0 && fld w 20 6 == 0) (.stkChk (fin 64 w 14))
  | 5 => ifZero (fld w 8 6 == 0 && fld w 20 6 == 0) (.ipf (fin 64 w 14))
  | 6 => ifZero (fld w 8 6 == 0 && fld w 20 6 == 0) (.pfd (fin 64 w 14))
  | 7 => ifZero (fld w 16 10 == 0) (.trap (bv 8 w 8))
  | 8 => ifZero (fld w 8 18 == 0) (.trapRet)
  | 9 => ifZero (fld w 20 6 == 0) (.launch (fin 64 w 14) (fin 64 w 8))
  | _ => .error .reservedFn

/-- Major 0x24, by FN (R243). -/
def decodeSystem (w : Nat) : Except DecodeReason Instr :=
  match fld w 0 8 with
  | 0 => ifZero (fld w 8 6 == 0) (.sysMbox (fin 64 w 20) (fin 64 w 14))
  | 1 => ifZero (fld w 8 18 == 0) (.sysWbinv)
  | _ => .error .reservedFn

/-- Major 0x25, by FN (R243). -/
def decodeMatrix (w : Nat) : Except DecodeReason Instr :=
  match fld w 0 8 with
  | 0 => .ok (.ttSet (fin 64 w 20) (fin 64 w 14) (fin 64 w 8))
  | 1 => ifZero (fld w 8 6 == 0 && fld w 20 6 == 0) (.ttClr (fin 64 w 14))
  | 2 => ifZero (fld w 20 6 == 0) (.ttRead (fin 64 w 14) (fin 64 w 8))
  | 3 => ifZero (fld w 24 2 == 0) (.mxLdt (fin 16 w 20) (fin 64 w 14) (fin 64 w 8))
  | 4 => ifZero (fld w 8 6 == 0 && fld w 24 2 == 0) (.mxLds (fin 16 w 20) (fin 64 w 14))
  | 5 => ifZero (fld w 8 12 == 0 && fld w 24 2 == 0) (.mxZeroT (fin 16 w 20))
  | 6 => ifZero (fld w 8 12 == 0 && fld w 22 4 == 0) (.mxZeroC (fin 4 w 20))
  | 7 => ifZero (fld w 12 2 == 0 && fld w 18 2 == 0 && fld w 22 4 == 0) (.mxMma (fin 4 w 20) (fin 16 w 14) (fin 16 w 8))
  | 8 => ifZero (fld w 12 2 == 0 && fld w 18 2 == 0 && fld w 22 4 == 0) (.mxMmag (fin 4 w 20) (fin 16 w 14) (fin 16 w 8))
  | 9 => .ok (.mxGang (fin 64 w 20) (fin 64 w 14) (fin 64 w 8))
  | 10 => ifZero (fld w 22 4 == 0) (.mxDrain (fin 4 w 20) (fin 64 w 14) (fin 64 w 8))
  | 11 => ifZero (fld w 8 6 == 0 && fld w 22 4 == 0) (.mxMode (fin 4 w 20) (fin 64 w 14))
  | 12 => ifZero (fld w 8 6 == 0 && fld w 20 6 == 0) (.witSeed (fin 64 w 14))
  | 13 => ifZero (fld w 8 6 == 0 && fld w 20 6 == 0) (.witEmit (fin 64 w 14))
  | _ => .error .reservedFn

/-- One scalar word (R239, R242). The all-zero word and every reserved major are refused. -/
def decodeScalar (w : Nat) : Except DecodeReason Instr :=
  match fld w 26 6 with
  | 1 => decodeAlu w
  | 2 => .ok (.addi (fin 64 w 20) (fin 64 w 14) (bv 14 w 0))
  | 3 => .ok (.andi (fin 64 w 20) (fin 64 w 14) (bv 14 w 0))
  | 4 => .ok (.ori (fin 64 w 20) (fin 64 w 14) (bv 14 w 0))
  | 5 => .ok (.xori (fin 64 w 20) (fin 64 w 14) (bv 14 w 0))
  | 6 => .ok (.slti (fin 64 w 20) (fin 64 w 14) (bv 14 w 0))
  | 7 => match fld w 12 2 with
    | 0 => ifZero (fld w 6 6 == 0) (.shli (fin 64 w 20) (fin 64 w 14) (fin 64 w 0))
    | 1 => ifZero (fld w 6 6 == 0) (.shri (fin 64 w 20) (fin 64 w 14) (fin 64 w 0))
    | 2 => ifZero (fld w 6 6 == 0) (.srai (fin 64 w 20) (fin 64 w 14) (fin 64 w 0))
    | _ => ifZero (fld w 6 6 == 0) (.rori (fin 64 w 20) (fin 64 w 14) (fin 64 w 0))
  | 8 => .ok (.movi (fin 64 w 20) (bv 20 w 0))
  | 9 => .ok (.movk (fin 64 w 20) (bv 20 w 0))
  | 10 => .ok (.adr (fin 64 w 20) (bv 20 w 0))
  | 11 => .ok (.beq (fin 64 w 20) (fin 64 w 14) (bv 14 w 0))
  | 12 => .ok (.bne (fin 64 w 20) (fin 64 w 14) (bv 14 w 0))
  | 13 => .ok (.blt (fin 64 w 20) (fin 64 w 14) (bv 14 w 0))
  | 14 => .ok (.bge (fin 64 w 20) (fin 64 w 14) (bv 14 w 0))
  | 15 => .ok (.bltn (fin 64 w 20) (fin 64 w 14) (bv 14 w 0))
  | 16 => .ok (.bgen (fin 64 w 20) (fin 64 w 14) (bv 14 w 0))
  | 17 => .ok (.jmp (bv 26 w 0))
  | 18 => .ok (.call (bv 26 w 0))
  | 19 => decodeIndirect w
  | 20 => withSize w 11 fun z => .ok (.ld (fin 64 w 20) (fin 64 w 14) z (bv 11 w 0))
  | 21 => withSize w 11 fun z => .ok (.st (fin 64 w 20) (fin 64 w 14) z (bv 11 w 0))
  | 22 => withSize w 11 fun z => .ok (.lds (fin 64 w 20) (fin 64 w 14) z (bv 11 w 0))
  | 23 => withSize w 11 fun z => .ok (.sts (fin 64 w 20) (fin 64 w 14) z (bv 11 w 0))
  | 24 => decodeOrdered w
  | 25 => decodeAtom w
  | 26 => decodeOrderedSp w
  | 27 => decodeAtomSp w
  | 28 => decodeSync w
  | 29 => decodeRemote w
  | 30 => decodeCap w
  | 31 => decodeEngine w
  | 32 => decodeAffine w
  | 33 => decodeControl w
  | 34 => .ok (.laneRun (fin 64 w 20) (bv 20 w 0))
  | 35 => decodeMisc w
  | 36 => decodeSystem w
  | 37 => decodeMatrix w
  | _ => .error .reservedOpcode

/-- The word with fixed bits `w` and each field's value at its lowest bit. -/
def enc0 (w : Nat) : Option Nat := some w
def enc1 (w a la : Nat) : Option Nat := some (w + a * 2 ^ la)
def enc2 (w a la b lb : Nat) : Option Nat := some (w + a * 2 ^ la + b * 2 ^ lb)
def enc3 (w a la b lb c lc : Nat) : Option Nat := some (w + a * 2 ^ la + b * 2 ^ lb + c * 2 ^ lc)
def enc4 (w a la b lb c lc d ld : Nat) : Option Nat :=
  some (w + a * 2 ^ la + b * 2 ^ lb + c * 2 ^ lc + d * 2 ^ ld)
def enc5 (w a la b lb c lc d ld e le : Nat) : Option Nat :=
  some (w + a * 2 ^ la + b * 2 ^ lb + c * 2 ^ lc + d * 2 ^ ld + e * 2 ^ le)

/-- The word of a scalar instruction; `none` for a lane instruction, an operation or an event. -/
def encodeScalar : Instr → Option Nat
  | .add d a b => enc3 0x04000000 d.val 20 a.val 14 b.val 8
  | .sub d a b => enc3 0x04000001 d.val 20 a.val 14 b.val 8
  | .mul d a b => enc3 0x04000002 d.val 20 a.val 14 b.val 8
  | .mulh d a b => enc3 0x04000003 d.val 20 a.val 14 b.val 8
  | .mulhn d a b => enc3 0x04000004 d.val 20 a.val 14 b.val 8
  | .div d a b => enc3 0x04000005 d.val 20 a.val 14 b.val 8
  | .divn d a b => enc3 0x04000006 d.val 20 a.val 14 b.val 8
  | .rem d a b => enc3 0x04000007 d.val 20 a.val 14 b.val 8
  | .remn d a b => enc3 0x04000008 d.val 20 a.val 14 b.val 8
  | .and d a b => enc3 0x04000009 d.val 20 a.val 14 b.val 8
  | .or d a b => enc3 0x0400000A d.val 20 a.val 14 b.val 8
  | .xor d a b => enc3 0x0400000B d.val 20 a.val 14 b.val 8
  | .andn d a b => enc3 0x0400000C d.val 20 a.val 14 b.val 8
  | .shl d a b => enc3 0x0400000D d.val 20 a.val 14 b.val 8
  | .shr d a b => enc3 0x0400000E d.val 20 a.val 14 b.val 8
  | .sra d a b => enc3 0x0400000F d.val 20 a.val 14 b.val 8
  | .ror d a b => enc3 0x04000010 d.val 20 a.val 14 b.val 8
  | .min d a b => enc3 0x04000011 d.val 20 a.val 14 b.val 8
  | .minn d a b => enc3 0x04000012 d.val 20 a.val 14 b.val 8
  | .max d a b => enc3 0x04000013 d.val 20 a.val 14 b.val 8
  | .maxn d a b => enc3 0x04000014 d.val 20 a.val 14 b.val 8
  | .slt d a b => enc3 0x04000015 d.val 20 a.val 14 b.val 8
  | .sltn d a b => enc3 0x04000016 d.val 20 a.val 14 b.val 8
  | .seq d a b => enc3 0x04000017 d.val 20 a.val 14 b.val 8
  | .clz d a => enc2 0x04000018 d.val 20 a.val 14
  | .ctz d a => enc2 0x04000019 d.val 20 a.val 14
  | .popc d a => enc2 0x0400001A d.val 20 a.val 14
  | .bswap d a => enc2 0x0400001B d.val 20 a.val 14
  | .addi d a imm => enc3 0x08000000 d.val 20 a.val 14 imm.toNat 0
  | .andi d a imm => enc3 0x0C000000 d.val 20 a.val 14 imm.toNat 0
  | .ori d a imm => enc3 0x10000000 d.val 20 a.val 14 imm.toNat 0
  | .xori d a imm => enc3 0x14000000 d.val 20 a.val 14 imm.toNat 0
  | .slti d a imm => enc3 0x18000000 d.val 20 a.val 14 imm.toNat 0
  | .shli d a n => enc3 0x1C000000 d.val 20 a.val 14 n.val 0
  | .shri d a n => enc3 0x1C001000 d.val 20 a.val 14 n.val 0
  | .srai d a n => enc3 0x1C002000 d.val 20 a.val 14 n.val 0
  | .rori d a n => enc3 0x1C003000 d.val 20 a.val 14 n.val 0
  | .movi d imm => enc2 0x20000000 d.val 20 imm.toNat 0
  | .movk d imm => enc2 0x24000000 d.val 20 imm.toNat 0
  | .adr d imm => enc2 0x28000000 d.val 20 imm.toNat 0
  | .beq a b off => enc3 0x2C000000 a.val 20 b.val 14 off.toNat 0
  | .bne a b off => enc3 0x30000000 a.val 20 b.val 14 off.toNat 0
  | .blt a b off => enc3 0x34000000 a.val 20 b.val 14 off.toNat 0
  | .bge a b off => enc3 0x38000000 a.val 20 b.val 14 off.toNat 0
  | .bltn a b off => enc3 0x3C000000 a.val 20 b.val 14 off.toNat 0
  | .bgen a b off => enc3 0x40000000 a.val 20 b.val 14 off.toNat 0
  | .jmp off => enc1 0x44000000 off.toNat 0
  | .call off => enc1 0x48000000 off.toNat 0
  | .jr a => enc1 0x4C000000 a.val 14
  | .callr a => enc1 0x4C000001 a.val 14
  | .ret => enc0 0x4C000002
  | .ld d a size off => enc4 0x50000000 d.val 20 a.val 14 size.code 11 off.toNat 0
  | .st d a size off => enc4 0x54000000 d.val 20 a.val 14 size.code 11 off.toNat 0
  | .lds d a size off => enc4 0x58000000 d.val 20 a.val 14 size.code 11 off.toNat 0
  | .sts d a size off => enc4 0x5C000000 d.val 20 a.val 14 size.code 11 off.toNat 0
  | .ldOrd d a scope ord size => enc5 0x60000000 d.val 20 a.val 14 scope.code 11 ord.code 8 size.code 0
  | .stOrd d a scope ord size => enc5 0x60000008 d.val 20 a.val 14 scope.code 11 ord.code 8 size.code 0
  | .ldOrdSp d a scope ord size => enc5 0x68000000 d.val 20 a.val 14 scope.code 11 ord.code 8 size.code 0
  | .stOrdSp d a scope ord size => enc5 0x68000008 d.val 20 a.val 14 scope.code 11 ord.code 8 size.code 0
  | .atomAdd d a scope ord size => enc5 0x64000000 d.val 20 a.val 14 scope.code 11 ord.code 8 size.code 0
  | .atomSub d a scope ord size => enc5 0x64000008 d.val 20 a.val 14 scope.code 11 ord.code 8 size.code 0
  | .atomMin d a scope ord size => enc5 0x64000010 d.val 20 a.val 14 scope.code 11 ord.code 8 size.code 0
  | .atomMinn d a scope ord size => enc5 0x64000018 d.val 20 a.val 14 scope.code 11 ord.code 8 size.code 0
  | .atomMax d a scope ord size => enc5 0x64000020 d.val 20 a.val 14 scope.code 11 ord.code 8 size.code 0
  | .atomMaxn d a scope ord size => enc5 0x64000028 d.val 20 a.val 14 scope.code 11 ord.code 8 size.code 0
  | .atomAnd d a scope ord size => enc5 0x64000030 d.val 20 a.val 14 scope.code 11 ord.code 8 size.code 0
  | .atomOr d a scope ord size => enc5 0x64000038 d.val 20 a.val 14 scope.code 11 ord.code 8 size.code 0
  | .atomXor d a scope ord size => enc5 0x64000040 d.val 20 a.val 14 scope.code 11 ord.code 8 size.code 0
  | .atomXchg d a scope ord size => enc5 0x64000048 d.val 20 a.val 14 scope.code 11 ord.code 8 size.code 0
  | .atomCas d a scope ord size => enc5 0x64000050 d.val 20 a.val 14 scope.code 11 ord.code 8 size.code 0
  | .atomAddSp d a scope ord size => enc5 0x6C000000 d.val 20 a.val 14 scope.code 11 ord.code 8 size.code 0
  | .atomSubSp d a scope ord size => enc5 0x6C000008 d.val 20 a.val 14 scope.code 11 ord.code 8 size.code 0
  | .atomMinSp d a scope ord size => enc5 0x6C000010 d.val 20 a.val 14 scope.code 11 ord.code 8 size.code 0
  | .atomMinnSp d a scope ord size => enc5 0x6C000018 d.val 20 a.val 14 scope.code 11 ord.code 8 size.code 0
  | .atomMaxSp d a scope ord size => enc5 0x6C000020 d.val 20 a.val 14 scope.code 11 ord.code 8 size.code 0
  | .atomMaxnSp d a scope ord size => enc5 0x6C000028 d.val 20 a.val 14 scope.code 11 ord.code 8 size.code 0
  | .atomAndSp d a scope ord size => enc5 0x6C000030 d.val 20 a.val 14 scope.code 11 ord.code 8 size.code 0
  | .atomOrSp d a scope ord size => enc5 0x6C000038 d.val 20 a.val 14 scope.code 11 ord.code 8 size.code 0
  | .atomXorSp d a scope ord size => enc5 0x6C000040 d.val 20 a.val 14 scope.code 11 ord.code 8 size.code 0
  | .atomXchgSp d a scope ord size => enc5 0x6C000048 d.val 20 a.val 14 scope.code 11 ord.code 8 size.code 0
  | .atomCasSp d a scope ord size => enc5 0x6C000050 d.val 20 a.val 14 scope.code 11 ord.code 8 size.code 0
  | .fence scope ord => enc2 0x70000000 scope.code 11 ord.code 8
  | .rel d a scope => enc3 0x70000001 d.val 20 a.val 14 scope.code 11
  | .relAdd d a scope => enc3 0x70000002 d.val 20 a.val 14 scope.code 11
  | .acq d a scope => enc3 0x70000003 d.val 20 a.val 14 scope.code 11
  | .relSp d a scope => enc3 0x70000011 d.val 20 a.val 14 scope.code 11
  | .relAddSp d a scope => enc3 0x70000012 d.val 20 a.val 14 scope.code 11
  | .acqSp d a scope => enc3 0x70000013 d.val 20 a.val 14 scope.code 11
  | .barArr a scope => enc2 0x70000004 a.val 14 scope.code 11
  | .barWait a scope => enc2 0x70000005 a.val 14 scope.code 11
  | .barSync a scope => enc2 0x70000006 a.val 14 scope.code 11
  | .monArm a => enc1 0x70000007 a.val 14
  | .monArmSp a => enc1 0x70000008 a.val 14
  | .monWait a => enc1 0x70000009 a.val 14
  | .quiesceWait scope => enc1 0x7000000A scope.code 11
  | .laneSync scope => enc1 0x7000000B scope.code 11
  | .rld d a k size => enc4 0x74000000 d.val 20 a.val 14 k.val 8 size.code 0
  | .rst d a k size => enc4 0x74000008 d.val 20 a.val 14 k.val 8 size.code 0
  | .rstRelSys d a k size => enc4 0x74003010 d.val 20 a.val 14 k.val 8 size.code 0
  | .ratomAdd d a k size => enc4 0x74000018 d.val 20 a.val 14 k.val 8 size.code 0
  | .ratomAnd d a k size => enc4 0x74000020 d.val 20 a.val 14 k.val 8 size.code 0
  | .ratomOr d a k size => enc4 0x74000028 d.val 20 a.val 14 k.val 8 size.code 0
  | .ratomXor d a k size => enc4 0x74000030 d.val 20 a.val 14 k.val 8 size.code 0
  | .ratomXchg d a k size => enc4 0x74000038 d.val 20 a.val 14 k.val 8 size.code 0
  | .ratomCas d a k size => enc4 0x74000040 d.val 20 a.val 14 k.val 8 size.code 0
  | .capLd d a => enc2 0x78000000 d.val 20 a.val 14
  | .capSt a b => enc2 0x78000001 a.val 14 b.val 8
  | .capMint d a => enc2 0x78000002 d.val 20 a.val 14
  | .capBound d a b => enc3 0x78000003 d.val 20 a.val 14 b.val 8
  | .capPerm d a b => enc3 0x78000004 d.val 20 a.val 14 b.val 8
  | .capRead d a n => enc3 0x78000005 d.val 20 a.val 14 n.val 8
  | .capMov d a => enc2 0x78000006 d.val 20 a.val 14
  | .xferPost a q => enc2 0x7C000000 a.val 14 q.val 8
  | .xferCond a q => enc2 0x7C000001 a.val 14 q.val 8
  | .xferBulk a q => enc2 0x7C000002 a.val 14 q.val 8
  | .gatherPost a => enc1 0x7C000003 a.val 14
  | .qfence m => enc1 0x7C000004 m.toNat 8
  | .lwInit a b => enc2 0x7C000005 a.val 14 b.val 8
  | .lwWait a b => enc2 0x7C000006 a.val 14 b.val 8
  | .lwRead d a => enc2 0x7C000007 d.val 20 a.val 14
  | .spMap d a b => enc3 0x7C000008 d.val 20 a.val 14 b.val 8
  | .spUnmap a => enc1 0x7C000009 a.val 14
  | .amov d a b => enc3 0x80000000 d.val 20 a.val 14 b.val 8
  | .abase d a => enc2 0x80000001 d.val 20 a.val 14
  | .astride d a => enc2 0x80000002 d.val 20 a.val 14
  | .aadd d a => enc2 0x80000003 d.val 20 a.val 14
  | .aread d a => enc2 0x80000004 d.val 20 a.val 14
  | .asread d a => enc2 0x80000005 d.val 20 a.val 14
  | .mfcr d crn => enc2 0x84000000 d.val 20 crn.toNat 8
  | .mtcr d crn => enc2 0x84000001 d.val 20 crn.toNat 8
  | .laneRun a loff => enc2 0x88000000 a.val 20 loff.toNat 0
  | .nop => enc0 0x8C000000
  | .exit => enc0 0x8C000001
  | .regGrow n => enc1 0x8C000002 n.val 8
  | .regShrink => enc0 0x8C000003
  | .stkChk a => enc1 0x8C000004 a.val 14
  | .ipf a => enc1 0x8C000005 a.val 14
  | .pfd a => enc1 0x8C000006 a.val 14
  | .trap n => enc1 0x8C000007 n.toNat 8
  | .trapRet => enc0 0x8C000008
  | .launch a b => enc2 0x8C000009 a.val 14 b.val 8
  | .sysMbox d a => enc2 0x90000000 d.val 20 a.val 14
  | .sysWbinv => enc0 0x90000001
  | .ttSet d a b => enc3 0x94000000 d.val 20 a.val 14 b.val 8
  | .ttClr a => enc1 0x94000001 a.val 14
  | .ttRead a b => enc2 0x94000002 a.val 14 b.val 8
  | .mxLdt d a b => enc3 0x94000003 d.val 20 a.val 14 b.val 8
  | .mxLds d a => enc2 0x94000004 d.val 20 a.val 14
  | .mxZeroT d => enc1 0x94000005 d.val 20
  | .mxZeroC d => enc1 0x94000006 d.val 20
  | .mxMma d a b => enc3 0x94000007 d.val 20 a.val 14 b.val 8
  | .mxMmag d a b => enc3 0x94000008 d.val 20 a.val 14 b.val 8
  | .mxGang g n m => enc3 0x94000009 g.val 20 n.val 14 m.val 8
  | .mxDrain d a b => enc3 0x9400000A d.val 20 a.val 14 b.val 8
  | .mxMode d n => enc2 0x9400000B d.val 20 n.val 14
  | .witSeed a => enc1 0x9400000C a.val 14
  | .witEmit a => enc1 0x9400000D a.val 14
  | _ => none

/-- The lane opcodes (R251). -/
noncomputable def laneOp : Nat → Option (LaneFields → Instr)
  | 0x000 => some .iadd
  | 0x001 => some .isub
  | 0x002 => some .imul
  | 0x003 => some .imulh
  | 0x004 => some .imad
  | 0x005 => some .idiv
  | 0x006 => some .irem
  | 0x007 => some .imin
  | 0x008 => some .imax
  | 0x009 => some .iabs
  | 0x00A => some .ineg
  | 0x00B => some .laneAnd
  | 0x00C => some .laneOr
  | 0x00D => some .laneXor
  | 0x00E => some .not
  | 0x00F => some .laneShl
  | 0x010 => some .laneShr
  | 0x011 => some .rol
  | 0x012 => some .lanePopc
  | 0x013 => some .laneClz
  | 0x014 => some .brev
  | 0x015 => some .bfx
  | 0x016 => some .bfi
  | 0x017 => some .mov
  | 0x018 => some .isetEq
  | 0x019 => some .isetNe
  | 0x01A => some .isetLt
  | 0x01B => some .isetLe
  | 0x01C => some .isetGt
  | 0x01D => some .isetGe
  | 0x040 => some .fadd
  | 0x041 => some .fsub
  | 0x042 => some .fmul
  | 0x043 => some .fma
  | 0x044 => some .fdiv
  | 0x045 => some .fsqrt
  | 0x046 => some .fmin
  | 0x047 => some .fmax
  | 0x048 => some .fabs
  | 0x049 => some .fneg
  | 0x04A => some .fsetEq
  | 0x04B => some .fsetNe
  | 0x04C => some .fsetLt
  | 0x04D => some .fsetLe
  | 0x04E => some .fsetUn
  | 0x050 => some .frcp
  | 0x051 => some .frsq
  | 0x052 => some .fexp2
  | 0x053 => some .flog2
  | 0x054 => some .fsin
  | 0x055 => some .fcos
  | 0x056 => some .ftanh
  | 0x080 => some .cvt
  | 0x081 => some .frnd
  | 0x0C0 => some .pand
  | 0x0C1 => some .por
  | 0x0C2 => some .pxor
  | 0x0C3 => some .pnot
  | 0x0C8 => some .mIf
  | 0x0C9 => some .mElse
  | 0x0CA => some .mEndif
  | 0x0CB => some .mLoop
  | 0x0CC => some .mBrk
  | 0x0CD => some .mNext
  | 0x0CE => some .lNop
  | 0x0CF => some .lEnd
  | 0x100 => some .lxchSel
  | 0x101 => some .lxchLag
  | 0x102 => some .lxchLead
  | 0x103 => some .lxchMir
  | 0x104 => some .ballot
  | 0x105 => some .voteAny
  | 0x106 => some .voteAll
  | 0x107 => some .reduxAdd
  | 0x108 => some .reduxMin
  | 0x109 => some .reduxMax
  | 0x10A => some .reduxAnd
  | 0x10B => some .reduxOr
  | 0x10C => some .reduxXor
  | 0x10D => some .scanAdd
  | 0x10E => some .scanAddx
  | 0x10F => some .scanMax
  | 0x110 => some .blut
  | 0x111 => some .bpick
  | 0x140 => some .lLd
  | 0x141 => some .lSt
  | 0x142 => some .lLds
  | 0x143 => some .lSts
  | 0x144 => some .lLdt
  | 0x145 => some .lStt
  | 0x148 => some .lAtomAdd
  | 0x149 => some .lAtomMin
  | 0x14A => some .lAtomMax
  | 0x14B => some .lAtomAnd
  | 0x14C => some .lAtomOr
  | 0x14D => some .lAtomXor
  | 0x14E => some .lAtomXchg
  | 0x14F => some .lAtomCas
  | 0x150 => some .lSatomAdd
  | 0x151 => some .lSatomMin
  | 0x152 => some .lSatomMax
  | 0x153 => some .lSatomAnd
  | 0x154 => some .lSatomOr
  | 0x155 => some .lSatomXor
  | 0x156 => some .lSatomXchg
  | 0x157 => some .lSatomCas
  | 0x160 => some .lRld
  | 0x161 => some .lRst
  | 0x162 => some .lRatomAdd
  | 0x163 => some .lRatomCas
  | 0x180 => some .modmul
  | 0x181 => some .modadd
  | 0x182 => some .modsub
  | 0x183 => some .modmad
  | 0x184 => some .nttBfly
  | _ => none

/-- The opcode and fields of a lane instruction; `none` for any other. -/
def laneParts : Instr → Option (Nat × LaneFields)
  | .iadd f => some (0x000, f)
  | .isub f => some (0x001, f)
  | .imul f => some (0x002, f)
  | .imulh f => some (0x003, f)
  | .imad f => some (0x004, f)
  | .idiv f => some (0x005, f)
  | .irem f => some (0x006, f)
  | .imin f => some (0x007, f)
  | .imax f => some (0x008, f)
  | .iabs f => some (0x009, f)
  | .ineg f => some (0x00A, f)
  | .laneAnd f => some (0x00B, f)
  | .laneOr f => some (0x00C, f)
  | .laneXor f => some (0x00D, f)
  | .not f => some (0x00E, f)
  | .laneShl f => some (0x00F, f)
  | .laneShr f => some (0x010, f)
  | .rol f => some (0x011, f)
  | .lanePopc f => some (0x012, f)
  | .laneClz f => some (0x013, f)
  | .brev f => some (0x014, f)
  | .bfx f => some (0x015, f)
  | .bfi f => some (0x016, f)
  | .mov f => some (0x017, f)
  | .isetEq f => some (0x018, f)
  | .isetNe f => some (0x019, f)
  | .isetLt f => some (0x01A, f)
  | .isetLe f => some (0x01B, f)
  | .isetGt f => some (0x01C, f)
  | .isetGe f => some (0x01D, f)
  | .fadd f => some (0x040, f)
  | .fsub f => some (0x041, f)
  | .fmul f => some (0x042, f)
  | .fma f => some (0x043, f)
  | .fdiv f => some (0x044, f)
  | .fsqrt f => some (0x045, f)
  | .fmin f => some (0x046, f)
  | .fmax f => some (0x047, f)
  | .fabs f => some (0x048, f)
  | .fneg f => some (0x049, f)
  | .fsetEq f => some (0x04A, f)
  | .fsetNe f => some (0x04B, f)
  | .fsetLt f => some (0x04C, f)
  | .fsetLe f => some (0x04D, f)
  | .fsetUn f => some (0x04E, f)
  | .frcp f => some (0x050, f)
  | .frsq f => some (0x051, f)
  | .fexp2 f => some (0x052, f)
  | .flog2 f => some (0x053, f)
  | .fsin f => some (0x054, f)
  | .fcos f => some (0x055, f)
  | .ftanh f => some (0x056, f)
  | .cvt f => some (0x080, f)
  | .frnd f => some (0x081, f)
  | .pand f => some (0x0C0, f)
  | .por f => some (0x0C1, f)
  | .pxor f => some (0x0C2, f)
  | .pnot f => some (0x0C3, f)
  | .mIf f => some (0x0C8, f)
  | .mElse f => some (0x0C9, f)
  | .mEndif f => some (0x0CA, f)
  | .mLoop f => some (0x0CB, f)
  | .mBrk f => some (0x0CC, f)
  | .mNext f => some (0x0CD, f)
  | .lNop f => some (0x0CE, f)
  | .lEnd f => some (0x0CF, f)
  | .lxchSel f => some (0x100, f)
  | .lxchLag f => some (0x101, f)
  | .lxchLead f => some (0x102, f)
  | .lxchMir f => some (0x103, f)
  | .ballot f => some (0x104, f)
  | .voteAny f => some (0x105, f)
  | .voteAll f => some (0x106, f)
  | .reduxAdd f => some (0x107, f)
  | .reduxMin f => some (0x108, f)
  | .reduxMax f => some (0x109, f)
  | .reduxAnd f => some (0x10A, f)
  | .reduxOr f => some (0x10B, f)
  | .reduxXor f => some (0x10C, f)
  | .scanAdd f => some (0x10D, f)
  | .scanAddx f => some (0x10E, f)
  | .scanMax f => some (0x10F, f)
  | .blut f => some (0x110, f)
  | .bpick f => some (0x111, f)
  | .lLd f => some (0x140, f)
  | .lSt f => some (0x141, f)
  | .lLds f => some (0x142, f)
  | .lSts f => some (0x143, f)
  | .lLdt f => some (0x144, f)
  | .lStt f => some (0x145, f)
  | .lAtomAdd f => some (0x148, f)
  | .lAtomMin f => some (0x149, f)
  | .lAtomMax f => some (0x14A, f)
  | .lAtomAnd f => some (0x14B, f)
  | .lAtomOr f => some (0x14C, f)
  | .lAtomXor f => some (0x14D, f)
  | .lAtomXchg f => some (0x14E, f)
  | .lAtomCas f => some (0x14F, f)
  | .lSatomAdd f => some (0x150, f)
  | .lSatomMin f => some (0x151, f)
  | .lSatomMax f => some (0x152, f)
  | .lSatomAnd f => some (0x153, f)
  | .lSatomOr f => some (0x154, f)
  | .lSatomXor f => some (0x155, f)
  | .lSatomXchg f => some (0x156, f)
  | .lSatomCas f => some (0x157, f)
  | .lRld f => some (0x160, f)
  | .lRst f => some (0x161, f)
  | .lRatomAdd f => some (0x162, f)
  | .lRatomCas f => some (0x163, f)
  | .modmul f => some (0x180, f)
  | .modadd f => some (0x181, f)
  | .modsub f => some (0x182, f)
  | .modmad f => some (0x183, f)
  | .nttBfly f => some (0x184, f)
  | _ => none

/-- Type codes (R248). -/
def decodeLType : Nat → Option LType
  | 0x00 => some .untyped | 0x01 => some .s8 | 0x02 => some .s16 | 0x03 => some .s32 | 0x04 => some .s64
  | 0x05 => some .n8 | 0x06 => some .n16 | 0x07 => some .n32 | 0x08 => some .n64 | 0x09 => some .f16
  | 0x0A => some .f16x2 | 0x0B => some .bf16 | 0x0C => some .bf16x2 | 0x0D => some .f32 | 0x0E => some .f64
  | 0x0F => some .nf8 | 0x10 => some .nf6 | 0x11 => some .nf4 | 0x12 => some .nf8b | 0x13 => some .nf6b
  | 0x14 => some .nf4b | 0x15 => some .mod64 | _ => none

/-- The code of a lane type (R248). -/
def LType.code : LType → Nat
  | .untyped => 0 | .s8 => 1 | .s16 => 2 | .s32 => 3 | .s64 => 4 | .n8 => 5 | .n16 => 6 | .n32 => 7 | .n64 => 8
  | .f16 => 9 | .f16x2 => 10 | .bf16 => 11 | .bf16x2 => 12 | .f32 => 13 | .f64 => 14 | .nf8 => 15 | .nf6 => 16
  | .nf4 => 17 | .nf8b => 18 | .nf6b => 19 | .nf4b => 20 | .mod64 => 21

/-- Destination codes (R245). -/
def decodeDest (c : Nat) : Option Dest :=
  if c < 0x100 then some (.v (Fin.ofNat 256 c))
  else if c < 0x108 then some (.p (Fin.ofNat 8 c))
  else if 0x140 ≤ c ∧ c < 0x180 then some (.s (Fin.ofNat 64 c))
  else if c = 0x1FF then some .noDest
  else none

/-- The code of a destination (R245). -/
def Dest.code : Dest → Nat
  | .v n => n.val | .p n => 0x100 + n.val | .s n => 0x140 + n.val | .noDest => 0x1FF

/-- Operand specifiers (R246). -/
def decodeOperand (c : Nat) : Option Operand :=
  match fld c 8 2 with
  | 0 => some (.v (Fin.ofNat 256 c))
  | 1 =>
    if fld c 6 2 = 0 then some (.s (Fin.ofNat 64 c))
    else if fld c 3 5 = 8 then some (.p (Fin.ofNat 8 c))
    else none
  | 2 => if fld c 4 4 = 0 then some (.a (Fin.ofNat 16 c)) else none
  | _ =>
    if fld c 7 1 = 0 then some (.inl (BitVec.ofNat 7 c))
    else if fld c 0 7 = 0 then some .w2
    else none

/-- The specifier of an operand (R246). -/
def Operand.code : Operand → Nat
  | .v n => n.val | .s n => 0x100 + n.val | .p n => 0x140 + n.val | .a n => 0x200 + n.val
  | .inl c => 0x300 + c.toNat | .w2 => 0x380

/-- The opcode and fields of three lane words (R244): format fields and codes. -/
def decodeLaneFields (w0 w1 w2 : Nat) : Except DecodeReason (Nat × LaneFields) :=
  match decodeDest (fld w0 9 9), decodeLType (fld w0 4 5), decodeOperand (fld w1 22 10),
      decodeOperand (fld w1 12 10), decodeOperand (fld w1 2 10) with
  | some dest, some ty, some a, some b, some c =>
    if fld w1 1 1 = 1 then .error .reservedCode
    else .ok (fld w0 22 10, { pred := fin 8 w0 19, pneg := fld w0 18 1 == 1, dest := dest, ty := ty, rnd := bv 3 w0 1,
                              sat := fld w0 0 1 == 1, opa := a, opb := b, opc := c, sweep := fld w1 0 1 == 1,
                              w2 := bv 32 w2 0 })
  | _, _, _, _, _ => .error .reservedCode

/-- One lane instruction from its three words (R244): opcode, then format fields and codes. -/
noncomputable def decodeLane (w0 w1 w2 : Nat) : Except DecodeReason Instr :=
  match laneOp (fld w0 22 10) with
  | none => .error .reservedOpcode
  | some mk => (decodeLaneFields w0 w1 w2).map fun p => mk p.2

/-- The three words of a lane instruction (R244). -/
def encodeLane (op : Nat) (f : LaneFields) : List Nat :=
  [ op * 2 ^ 22 + f.pred.val * 2 ^ 19 + f.pneg.toNat * 2 ^ 18 + f.dest.code * 2 ^ 9 + f.ty.code * 2 ^ 4
      + f.rnd.toNat * 2 + f.sat.toNat,
    f.opa.code * 2 ^ 22 + f.opb.code * 2 ^ 12 + f.opc.code * 2 ^ 2 + f.sweep.toNat,
    f.w2.toNat ]

/-- The words of an instruction, first word first; an operation or event has none. -/
def encode (i : Instr) : List Nat :=
  match laneParts i with
  | some (op, f) => encodeLane op f
  | none => (encodeScalar i).toList

/-- The decoder on words: one word is a scalar instruction, three a lane instruction. -/
noncomputable def decodeWords : List Nat → Except DecodeReason Instr
  | [w] => decodeScalar w
  | [w0, w1, w2] => decodeLane w0 w1 w2
  | _ => .error .shortInput

/-- A 32-bit word from its four bytes, lowest address first (R7, R239). -/
def wordOfBytes : List Byte → Option (Nat × List Byte)
  | b0 :: b1 :: b2 :: b3 :: r =>
    some (b0.toNat + 2 ^ 8 * b1.toNat + 2 ^ 16 * b2.toNat + 2 ^ 24 * b3.toNat, r)
  | _ => none

/-- The four bytes of a 32-bit word, lowest address first. -/
def bytesOfWord (w : Nat) : List Byte :=
  [BitVec.ofNat 8 w, BitVec.ofNat 8 (w / 2 ^ 8), BitVec.ofNat 8 (w / 2 ^ 16), BitVec.ofNat 8 (w / 2 ^ 24)]

/-- The decoder on bytes, for either stream (R208): the instruction and the bytes after it. -/
noncomputable def decodeBytes (lane : Bool) (bs : List Byte) : Except DecodeReason (Instr × List Byte) :=
  match wordOfBytes bs with
  | none => .error .shortInput
  | some (w0, r0) =>
    if lane then
      match wordOfBytes r0 with
      | none => .error .shortInput
      | some (w1, r1) =>
        match wordOfBytes r1 with
        | none => .error .shortInput
        | some (w2, r2) => (decodeLane w0 w1 w2).map fun i => (i, r2)
    else (decodeScalar w0).map fun i => (i, r0)

/-- The bytes of a word-numbered bit pattern: three words for more than 32 bits, else one. -/
def tableBytes (nbits w : Nat) : List Byte :=
  if nbits ≤ 32 then bytesOfWord w
  else bytesOfWord w ++ bytesOfWord (w / 2 ^ 32) ++ bytesOfWord (w / 2 ^ 64)

/-- The instruction the decoder reads from an instruction whose bits are `w`, numbered from its first word. -/
noncomputable def decodeTableWord (nbits w : Nat) : Option Instr :=
  match decodeBytes (32 < nbits) (tableBytes nbits (w % 2 ^ nbits)) with
  | .ok (i, _) => some i
  | .error _ => none

/-- The width in bits of a value of a lane type; a paired type is one 32-bit value (R194, R248). -/
def LType.width : LType → Nat
  | .untyped => 32 | .s8 => 8 | .s16 => 16 | .s32 => 32 | .s64 => 64 | .n8 => 8 | .n16 => 16 | .n32 => 32
  | .n64 => 64 | .f16 => 16 | .f16x2 => 32 | .bf16 => 16 | .bf16x2 => 32 | .f32 => 32 | .f64 => 64
  | .nf8 => 8 | .nf6 => 6 | .nf4 => 4 | .nf8b => 8 | .nf6b => 6 | .nf4b => 4 | .mod64 => 64

/-- A narrow-float type, with or without a block scale. -/
def LType.isNf : LType → Bool
  | .nf8 | .nf6 | .nf4 | .nf8b | .nf6b | .nf4b => true
  | _ => false

/-- A narrow-float type with a block scale. -/
def LType.isNfBlock : LType → Bool
  | .nf8b | .nf6b | .nf4b => true
  | _ => false

/-- A signed integer type. -/
def LType.isS : LType → Bool
  | .s8 | .s16 | .s32 | .s64 => true
  | _ => false

/-- An integer type. -/
def LType.isInt : LType → Bool
  | .s8 | .s16 | .s32 | .s64 | .n8 | .n16 | .n32 | .n64 => true
  | _ => false

/-- An IEEE type that is not paired. -/
def LType.isIeee : LType → Bool
  | .f16 | .bf16 | .f32 | .f64 => true
  | _ => false

/-- The destination classes of R251. -/
inductive DestClass where
  | v | p | s | noDest
  deriving DecidableEq, Repr

/-- What R251 allows an operand to be, and the width it is read at. -/
inductive OpSpec where
  /-- not used: 0x000 -/
  | unused
  /-- a value of the instruction's type -/
  | val
  /-- a 32-bit value -/
  | val32
  /-- a 64-bit value -/
  | val64
  /-- a lane register of the instruction's type -/
  | lane
  /-- a predicate -/
  | pred
  /-- CVT's source, of the type in W2[4:0] -/
  | cvtA
  /-- CVT's format word or stochastic key (R313, R314) -/
  | cvtB
  deriving DecidableEq, Repr

/-- The memory groups of R329. -/
inductive MemGroup where
  | notMem | load | store | atomic | remote
  deriving DecidableEq, Repr

/-- How an opcode uses RND (R244, R301). -/
inductive RndUse where
  | zero | rounds | roundsF32 | cvt | scope
  deriving DecidableEq, Repr

/-- One row of R251, with what R301 and R303 allow of RND and SAT. -/
structure LaneDesc where
  dest : DestClass := .v
  types : List LType := [.untyped]
  a : OpSpec := .unused
  b : OpSpec := .unused
  c : OpSpec := .unused
  sweep : Bool := false
  sat : Bool := false
  rnd : RndUse := .zero
  mem : MemGroup := .notMem
  /-- M.IF to L.END: no guard (R318, R319) -/
  mask : Bool := false
  deriving DecidableEq, Repr

/-- The type lists of R251. -/
def sTypes : List LType := [.s8, .s16, .s32, .s64]
def nTypes : List LType := [.n8, .n16, .n32, .n64]
def iTypes : List LType := sTypes ++ nTypes
def wTypes : List LType := [.s32, .n32, .s64, .n64]
def ieeeTypes : List LType := [.f16, .bf16, .f32, .f64]
def fTypes : List LType := [.f16, .f16x2, .bf16, .bf16x2, .f32, .f64]
def memTypes : List LType := iTypes ++ ieeeTypes
def cvtTypes : List LType := iTypes ++ ieeeTypes ++ [.nf8, .nf6, .nf4, .nf8b, .nf6b, .nf4b]

/-- R251, by lane opcode. -/
def laneDesc (op : Nat) : LaneDesc :=
  if op < 0x040 then
    match op with
    | 0x000 | 0x001 | 0x002 => { types := iTypes, a := .val, b := .val, sweep := true, sat := true }
    | 0x004 => { types := iTypes, a := .val, b := .val, c := .val, sweep := true, sat := true }
    | 0x003 | 0x005 | 0x006 | 0x007 | 0x008 | 0x00F | 0x010 | 0x011 =>
      { types := iTypes, a := .val, b := .val, sweep := true }
    | 0x009 | 0x00A => { types := sTypes, a := .val, sweep := true, sat := true }
    | 0x00B | 0x00C | 0x00D => { types := nTypes, a := .val, b := .val, sweep := true }
    | 0x00E => { types := nTypes, a := .val, sweep := true }
    | 0x012 | 0x013 | 0x014 | 0x017 => { types := [.n32, .n64], a := .val, sweep := true }
    | 0x015 | 0x016 => { types := wTypes, a := .val, b := .val, c := .val }
    | _ => { dest := .p, types := iTypes, a := .val, b := .val }
  else if op < 0x080 then
    match op with
    | 0x040 | 0x041 | 0x042 | 0x046 | 0x047 => { types := fTypes, a := .val, b := .val, sweep := true, rnd := .rounds }
    | 0x043 => { types := fTypes, a := .val, b := .val, c := .val, sweep := true, rnd := .rounds }
    | 0x044 => { types := [.f32, .f64], a := .val, b := .val, sweep := true, rnd := .rounds }
    | 0x045 => { types := [.f32, .f64], a := .val, sweep := true, rnd := .rounds }
    | 0x048 | 0x049 => { types := fTypes, a := .val, sweep := true }
    | 0x04A | 0x04B | 0x04C | 0x04D | 0x04E => { dest := .p, types := ieeeTypes, a := .val, b := .val }
    | _ => { types := [.f16, .f32], a := .val, sweep := true }
  else if op < 0x100 then
    match op with
    | 0x080 => { types := cvtTypes, a := .cvtA, b := .cvtB, sweep := true, sat := true, rnd := .cvt }
    | 0x081 => { types := ieeeTypes, a := .val, sweep := true, rnd := .rounds }
    | 0x0C0 | 0x0C1 | 0x0C2 => { dest := .p, a := .pred, b := .pred }
    | 0x0C3 => { dest := .p, a := .pred }
    | 0x0C8 | 0x0CC => { dest := .noDest, a := .pred, mask := true }
    | _ => { dest := .noDest, mask := true }
  else if op < 0x140 then
    match op with
    | 0x100 | 0x103 => { types := [.n32], a := .lane, b := .val }
    | 0x101 | 0x102 => { types := [.n32], a := .lane, b := .val, c := .val }
    | 0x104 => { dest := .s, a := .pred }
    | 0x105 | 0x106 => { dest := .p, a := .pred }
    | 0x107 => { dest := .s, types := wTypes ++ [.f32], a := .lane, rnd := .roundsF32 }
    | 0x108 | 0x109 => { dest := .s, types := wTypes ++ [.f32], a := .lane }
    | 0x10A | 0x10B | 0x10C => { dest := .s, types := wTypes, a := .lane }
    | 0x10D | 0x10E => { types := [.s32, .n32, .f32], a := .lane, rnd := .roundsF32 }
    | 0x10F => { types := [.s32, .n32, .f32], a := .lane }
    | 0x110 => { a := .val32, b := .val64, c := .val64, sweep := true }
    | _ => { a := .val32, b := .val32, c := .val32, sweep := true }
  else if op < 0x180 then
    match op with
    | 0x140 => { types := memTypes, a := .val64, rnd := .scope, mem := .load }
    | 0x141 => { dest := .noDest, types := memTypes, a := .val64, b := .val, rnd := .scope, mem := .store }
    | 0x142 => { types := memTypes, a := .val32, rnd := .scope, mem := .load }
    | 0x143 => { dest := .noDest, types := memTypes, a := .val32, b := .val, rnd := .scope, mem := .store }
    | 0x144 => { types := memTypes, a := .val32, b := .val64, rnd := .scope, mem := .load }
    | 0x145 => { dest := .noDest, types := memTypes, a := .val32, b := .val64, c := .val, rnd := .scope, mem := .store }
    | 0x148 | 0x149 | 0x14A | 0x14B | 0x14C | 0x14D | 0x14E =>
      { types := wTypes, a := .val64, b := .val, rnd := .scope, mem := .atomic }
    | 0x14F => { types := wTypes, a := .val64, b := .val, c := .val, rnd := .scope, mem := .atomic }
    | 0x150 | 0x151 | 0x152 | 0x153 | 0x154 | 0x155 | 0x156 =>
      { types := wTypes, a := .val32, b := .val, rnd := .scope, mem := .atomic }
    | 0x157 => { types := wTypes, a := .val32, b := .val, c := .val, rnd := .scope, mem := .atomic }
    | 0x160 => { types := wTypes, a := .val64, rnd := .scope, mem := .remote }
    | 0x161 => { dest := .noDest, types := wTypes, a := .val64, b := .val, rnd := .scope, mem := .remote }
    | 0x162 => { types := wTypes, a := .val64, b := .val, rnd := .scope, mem := .remote }
    | _ => { types := wTypes, a := .val64, b := .val, c := .val, rnd := .scope, mem := .remote }
  else
    match op with
    | 0x180 | 0x181 | 0x182 => { types := [.mod64], a := .val, b := .val, sweep := true }
    | 0x183 => { types := [.mod64], a := .val, b := .val, c := .val, sweep := true }
    | _ => { types := [.mod64], a := .val, b := .val, c := .val }

/-- CVT's source type, W2[4:0] (R249). -/
def LaneFields.cvtSrc (f : LaneFields) : LType := (decodeLType (f.w2.toNat % 32)).getD .untyped

/-- A lane operand of `w` bits: 64-bit values need an even register, unless a sweep reads it as an address. -/
def evenOk (w : Nat) (addr : Bool) (n : VReg) : Bool := !(w == 64 && n.val % 2 == 1 && !addr)

/-- A specifier that carries a value (R251). -/
def valueOk (w : Nat) (addr : Bool) : Operand → Bool
  | .v n => evenOk w addr n
  | .p _ => false
  | _ => true

/-- Whether R251 allows operand `o` in the place `sp` describes; `addr`: a sweep reads a lane register as an address. -/
def operandOk (f : LaneFields) (sp : OpSpec) (addr : Bool) (o : Operand) : Bool :=
  match sp with
  | .unused => o == .v 0
  | .val => valueOk f.ty.width addr o
  | .val32 => valueOk 32 addr o
  | .val64 => valueOk 64 addr o
  | .lane => match o with | .v n => evenOk f.ty.width addr n | _ => false
  | .pred => match o with | .p _ => true | _ => false
  | .cvtA => valueOk f.cvtSrc.width addr o
  | .cvtB =>
    if f.ty.isNf || f.cvtSrc.isNf || f.rnd == 4 then
      match o with
      | .s n => !(f.rnd == 4 && f.ty.isNf && n.val == 63)
      | _ => false
    else o == .v 0

/-- The destination class and register limits (R194, R245, R251, R335). -/
def destOk (op : Nat) (d : LaneDesc) (f : LaneFields) : Bool :=
  match d.dest, f.dest with
  | .v, .v n => (f.sweep || !(f.ty.width == 64 && n.val % 2 == 1)) && (op != 0x184 || n.val % 4 == 0)
  | .p, .p _ => true
  | .s, .s _ => true
  | .noDest, .noDest => true
  | _, _ => false

/-- CVT's types and its use of SAT (R198, R312). A sweep's W2 holds the sweep fields too: the source type is then
read from W2[4:0], where R250 puts the STEP_B that CVT, whose B is never a lane register, has no use for
(DEDUCED, entry 13). R198 names the conversions on which SAT = 1 is illegal; float to integer and NF to F64 are none of them
by name, and F16 and BF16, of equal width, are neither wider nor narrower than each other: SAT = 1 is legal on these, and
between F16 and BF16 the result is rounded as the narrower row has it (DESIGN CHOICE, entry 68). -/
def cvtOk (f : LaneFields) : Bool :=
  let s := f.cvtSrc
  (f.sweep || f.w2.toNat / 32 == 0) && cvtTypes.contains s && s != f.ty && !(f.ty.isNf && s.isNf) &&
    (!f.sat || !(f.ty.isNf || (s.width < f.ty.width &&
        ((s.isIeee && f.ty.isIeee) || (s.isInt && f.ty.isInt && !(s.isS && !f.ty.isS))))))

/-- RND codes an opcode accepts (R195, R301, R312, R329). -/
def rndOk (d : LaneDesc) (f : LaneFields) : Bool :=
  let r := f.rnd.toNat
  match d.rnd with
  | .zero => r == 0
  | .rounds => r ≤ 3 || r == 5
  | .roundsF32 => r == 0 || (f.ty == .f32 && (r ≤ 3 || r == 5))
  | .cvt => r ≤ 3 || r == 5 || (r == 4 && (f.ty.isNf || f.ty == .f16 || f.ty == .bf16))
  | .scope =>
    match d.mem with
    | .remote => r == 0
    | _ => r ≤ 6 && !(f.w2.toNat / 2 ^ 29 == 0 && r != 0)

/-- W2 as the opcode's group uses it (R247, R249, R250, R336). -/
def w2Ok (op : Nat) (d : LaneDesc) (f : LaneFields) : Bool :=
  let uses := f.opa == .w2 || f.opb == .w2 || f.opc == .w2
  let o := f.w2.toNat / 2 ^ 29
  if f.sweep then
    d.sweep && !uses && 0 < f.w2.toNat / 2 ^ 20 && f.w2.toNat / 2 ^ 18 % 4 == 0 &&
      (match f.opa with | .v _ => true | _ => false) &&
      !([LType.nf6, .nf4, .nf6b, .nf4b].contains f.ty) &&
      !(op == 0x080 && [LType.nf6, .nf4, .nf6b, .nf4b].contains f.cvtSrc) &&
      !(op == 0x110 && (match f.opb with | .v _ => true | _ => false))
  else
    match d.mem with
    | .load => !uses && (o == 0 || o == 2 || o == 5)
    | .store => !uses && (o == 0 || o == 3 || o == 5)
    | .atomic => !uses && 1 ≤ o && o ≤ 5
    | .remote => !uses && o == 0
    | .notMem =>
      if op == 0x080 then !uses
      else if uses then !((f.ty == .f16 || f.ty == .bf16) && f.w2.toNat / 2 ^ 16 != 0)
      else f.w2 == 0

/-- The encoding rules of R252 for a lane instruction: everything but the holding check of R220. -/
def laneLegal (op : Nat) (f : LaneFields) : Bool :=
  let d := laneDesc op
  !(f.pred == 0 && f.pneg) && !(d.mask && (f.pred != 0 || f.pneg)) && d.types.contains f.ty && destOk op d f &&
    rndOk d f && (!f.sat || d.sat) && w2Ok op d f &&
    operandOk f d.a f.sweep f.opa && operandOk f d.b f.sweep f.opb && operandOk f d.c false f.opc &&
    (op != 0x080 || cvtOk f)

/-- ORD and SIZE of an ordered load (R343). -/
def loadOrdOk (o : MemOrd) : Bool := o == .acq || o == .sc

/-- ORD of an ordered store (R343). -/
def storeOrdOk (o : MemOrd) : Bool := o == .rel || o == .sc

/-- SIZE of a store (R273, R343, R354). -/
def storeSizeOk (z : MemSize) : Bool := z == .n8 || z == .n16 || z == .n32 || z == .n64

/-- ORD and SIZE of an atomic (R344). -/
def atomOk (o : MemOrd) (z : MemSize) : Bool := o != .plain && (z == .n32 || z == .n64)

/-- ORD of a fence (R346). -/
def fenceOk (o : MemOrd) : Bool := o == .acq || o == .rel || o == .ar || o == .sc

/-- What R252 asks of a scalar instruction's fields beside their codes; true for every lane instruction, whose own
rules are `laneLegal`, and for every operation or event. -/
def scalarLegal : Instr → Bool
  | .st _ _ z _ | .sts _ _ z _ => storeSizeOk z
  | .ldOrd _ _ _ o _ | .ldOrdSp _ _ _ o _ => loadOrdOk o
  | .stOrd _ _ _ o z | .stOrdSp _ _ _ o z => storeOrdOk o && storeSizeOk z
  | .atomAdd _ _ _ o z | .atomSub _ _ _ o z | .atomMin _ _ _ o z | .atomMinn _ _ _ o z | .atomMax _ _ _ o z
  | .atomMaxn _ _ _ o z | .atomAnd _ _ _ o z | .atomOr _ _ _ o z | .atomXor _ _ _ o z | .atomXchg _ _ _ o z
  | .atomAddSp _ _ _ o z | .atomSubSp _ _ _ o z | .atomMinSp _ _ _ o z | .atomMinnSp _ _ _ o z
  | .atomMaxSp _ _ _ o z | .atomMaxnSp _ _ _ o z | .atomAndSp _ _ _ o z | .atomOrSp _ _ _ o z
  | .atomXorSp _ _ _ o z | .atomXchgSp _ _ _ o z => atomOk o z
  | .atomCas d _ _ o z | .atomCasSp d _ _ o z => atomOk o z && d != 63
  | .fence _ o => fenceOk o
  | .acq d _ _ | .acqSp d _ _ => d != 63
  | .rst _ _ _ z | .rstRelSys _ _ _ z => storeSizeOk z
  | .ratomAdd _ _ _ z | .ratomAnd _ _ _ z | .ratomOr _ _ _ z | .ratomXor _ _ _ z | .ratomXchg _ _ _ z =>
    z == .n32 || z == .n64
  | .ratomCas d _ _ z => (z == .n32 || z == .n64) && d != 63
  | .capMint _ a => a != 63
  | .capBound _ _ b => b != 63
  | .capRead _ _ n => n.val ≤ 2
  | .quiesceWait c => c == .course || c == .package
  | .qfence m => m != 0
  | .regGrow n => n != 0
  | .mxGang g n m => decide (g.val ≤ 3 ∧ 2 ≤ n.val ∧ n.val ≤ 6 ∧ m.val < n.val)
  | .mxMode _ n => n.val ≤ 1
  | _ => true

end Sys2Proof
end

