-- ==== Sys2Proof/Machine/State.lean ====
section
/-! DEFINITION. The state of the package as plain data: everything the spec gives the machine, and the model's own
agenda, free-value counter and record of what has left the package (entries 1, 4 and 5). -/

namespace Sys2Proof.Machine

/-- Why a step stops with a fault. -/
inductive Fault where
  /-- Raised by an instruction of a warp when the warp in focus does not exist. Safe: the spec has no such instruction. -/
  | noWarp
  /-- Raised by step when the agenda names a scalar or lane instruction as an event. Safe: only events are events. -/
  | notAnEvent
  deriving DecidableEq, Repr

/-- Why a step is refused. -/
inductive Refusal where
  /-- Raised by the dispatch for an instruction without a meaning. Safe: nothing is claimed of it. -/
  | notModelled (mnemonic : String)
  deriving DecidableEq, Repr

/-- What moves next: the model's own agenda (entry 1). -/
inductive Act where
  /-- the scalar stream of a warp issues its next instruction -/
  | scalar (w : Nat)
  /-- the lane stream of a warp issues its next instruction -/
  | lane (w : Nat)
  /-- an operation or event takes place -/
  | event (i : Instr)
  deriving DecidableEq, Repr

/-- The kinds of a mask-stack entry (R317). -/
inductive MaskKind where
  | base | ifArm | elseArm | loop
  deriving DecidableEq, Repr

/-- A mask-stack entry (R317). -/
structure MaskEntry where
  active : BitVec 32
  elseMask : BitVec 32 := 0
  kind : MaskKind := .base
  start : BitVec 62 := 0
  deriving DecidableEq, Repr

/-- The access kinds of a fault record (R47). -/
inductive AccKind where
  | read | write | atomic | fetch | copyRead | copyWrite | mxFetch | mxDrain | gather
  deriving DecidableEq, Repr

/-- What accesses share a coalescing entry (R44): the cluster or other source, context, VA[56:16] and class. -/
structure FaultKey where
  source : Nat
  ctx : Nat
  page : Nat
  kind : AccKind
  deriving DecidableEq, Repr

/-- How far a block's current instruction has come: not issued, so that its checks at issue are still to be made (R220);
inside, waiting at a thread; or a sweep between two segments (R338). -/
inductive Issue where
  | fresh | running | between
  deriving DecidableEq, Repr

/-- A lane block in a lane queue (R209), with its mask stack, top first, and its stopped instruction (R324, R338). -/
structure Block where
  lpc : Word
  mask : BitVec 32
  stack : List MaskEntry
  thread : Nat := 0
  seg : Nat := 0
  running : Option Word := none
  /-- LANE.RUN's registers, for the warp's record of what the block still reads (R210) -/
  started : Bool := false
  stage : Issue := .fresh
  /-- its instruction was inside when a REG.SHRINK gave up registers that it may write (R221) -/
  owes : Bool := false
  /-- the fault that its instruction is parked on (R44) -/
  fault : Option FaultKey := none
  /-- the thread at which a checker mismatch will stop its instruction (R461) -/
  stopAt : Option Nat := none
  deriving DecidableEq, Repr

/-- A coalescing entry (R44): waiting for ring room until `seq` is set. -/
structure FaultEntry where
  key : FaultKey
  reason : Nat
  level : Nat
  /-- bits [63:16] of the pointer as issued (R47) -/
  va : Nat
  seq : Option Nat
  count : Nat
  tick : Nat
  deriving DecidableEq, Repr

/-- Why a warp does not go on (R230, R44, R162, R461). A MON.WAIT with a timeout may end on its own from tick `due` on
(R352). -/
inductive Park where
  | run
  | fault (k : FaultKey)
  | barrier | monitor (due : Option Nat) | landing (h : Word) (phase : Nat) | quiesce (scope : Nat) (since : Option Nat) | grow | laneQueue | latch | ring | engine
  | response | release | pipeline
  deriving DecidableEq, Repr

/-- What a monitor watches (R152): a line of memory by number, or a scratchpad word by its cell. -/
inductive Watch where
  | line (l : Nat)
  | word (cell : Nat)
  deriving DecidableEq, Repr

/-- A monitor and whether it has a wake to deliver (R352). -/
structure Mon where
  watch : Watch
  hit : Bool
  deriving DecidableEq, Repr

/-- A barrier record (R350); `sync`: the warp waits in the wait part of a BAR.SYNC. -/
structure BarRec where
  cell : Nat
  phase : BitVec 16
  sync : Bool
  deriving DecidableEq, Repr

/-- A warp's gang setting (R226). -/
structure GangSet where
  g : Nat
  n : Nat
  m : Nat
  seq : Nat
  deriving DecidableEq, Repr

/-- A warp (R208, R219, R224, R236). -/
structure Warp where
  live : Bool
  wg : Nat
  idx : Nat
  slot : Nat
  pc : Word
  s : Tab Word
  v : Tab LaneWord
  p : Tab (BitVec 32)
  aBase : Tab Word
  aStride : Tab (BitVec 32)
  k : Tab (BitVec 128)
  kTag : BitVec 8
  held : Nat
  queue : List Block
  hblock : Option Block
  lane : Bool
  arithCtl : BitVec 32
  modQ : Word
  stackLim : Word
  trapCause : Word
  trapPc : Word
  trapLpc : Word
  trapAddr : Word
  trapVec : Word
  lpcWritten : Bool
  laneBase : Word
  wid : Word
  mon : Option Mon
  bar : Option BarRec
  gang : Option GangSet
  qfence : Option (Nat × BitVec 6)
  /-- when and where its REG.GROW was first issued (R221) -/
  growTick : Option (Nat × Word)
  mapped : Option Nat
  /-- lines that plain stores of its lane blocks have left dirty in the L1, and whether they have sent remote or host
  writes: what a scope of course and wider waits for (R210) -/
  laneLines : List Nat
  laneSent : Bool
  /-- register blocks given up while accesses of the warp were out that may still write them, and those accesses (R221);
  lane instructions that may are marked in their blocks -/
  owed : Nat × List Nat
  /-- the record a LAUNCH that waits for ring room has read (R293) -/
  record : Option (BitVec 1024)
  park : Park
  deriving DecidableEq, Repr

/-- An arrival at a gang's rendezvous latch (R227). -/
structure Arrival where
  warp : Nat
  m : Nat
  seq : Nat
  ops : Nat × Nat × Nat
  /-- the tile shapes and modulus taken at issue (R383) -/
  shapes : Word × Word × Word
  /-- the operands differed: the member owes GANG_MISMATCH -/
  bad : Bool
  deriving DecidableEq, Repr

/-- A projection slot (R404-R408): the binding is the number of the witness record whose one output it names, 0 when
unbound. -/
structure ProjSlot where
  bound : Nat := 0
  cls : Nat := 0
  /-- the binding and class as the checks at issue see them (R405, R406) -/
  issued : Nat := 0
  issuedCls : Nat := 0
  /-- the modulus of a MOD64 slot -/
  q : Nat := 0
  window : Option Nat := none
  sums : Tab Int := []
  unrep : List Nat := []
  deriving DecidableEq, Repr

/-- What the core's arrays held of a workgroup when it was saved, by offsets within its own allocation, with its mappings
as VA, row offset and line count (R435). Its slot holds the same; a store to a slot's RO fields changes nothing (R10). -/
structure SavedArrays where
  sp : Tab Byte := []
  spPoison : Tab Bool := []
  spTags : Tab Bool := []
  tile : Tab Byte := []
  scale : Tab (BitVec 20) := []
  tilePoison : Tab Bool := []
  acc : Tab (BitVec 32) := []
  accPoison : Tab Bool := []
  maps : List (Nat × Nat × Nat) := []
  /-- its warps' requests for register blocks (R238) -/
  grow : List (Nat × Nat × Nat) := []
  /-- remote writes of the cores it was saved from that had no acknowledgement yet, and whether host writes of the last of
  them may not have landed: what a system-scope release of it waits for beside those of its core (R137, R154) -/
  flights : List Nat := []
  hosted : Bool := false
  deriving DecidableEq, Repr

/-- A workgroup (R215-R218, R382, R404, R427, R435). -/
structure Workgroup where
  live : Bool
  launch : Nat
  core : Nat
  slot : Nat
  ctx : Nat
  part : Nat
  level : Nat
  ordinal : Nat
  member : Nat
  /-- identifies the cluster launch unit it was placed with; none for a workgroup of any other launch -/
  cluster : Option Nat
  cert : Bool
  /-- the witness record of a witness kernel (R446) -/
  witness : Option Nat
  age : Nat
  code : Word
  frame : Word
  widBase : Word
  spBase : Nat
  spBytes : Nat
  /-- the tile registers and accumulators of the MX core that its own stand in -/
  tileMap : List Nat
  tiles : Nat
  accMap : List Nat
  accs : Nat
  splitFirst : Word
  splitEnd : Word
  splitFix : Word
  /-- tshape0 to mx_stat by CRN (R382) -/
  mxcr : Tab Word
  arrivals : List (Nat × Arrival)
  slots : List ProjSlot
  exited : Bool
  saved : Option Nat
  /-- it had been switched out when it ended: what of it is at the engines counts as a switched-out workgroup's (R148) -/
  away : Bool
  /-- stopped and being saved to the slot named (R430) -/
  stopping : Option Nat
  store : SavedArrays
  deriving DecidableEq, Repr

/-- The gating states of a core pair (R466). -/
inductive Gate where
  | ready | gated | waking (tick : Nat) | testing
  deriving DecidableEq, Repr

/-- A VS core (R133, R221, R285, R466). -/
structure Core where
  wsig : BitVec 2048
  wcount : Nat
  wfull : Bool
  wfloor : Nat
  perfCnt : Tab Word
  perfSel : Tab (BitVec 16)
  gate : Gate
  idleSince : Nat
  /-- host-window writes of the core that have left, and how many of them a host read has returned behind (R137, R474) -/
  posted : Nat
  flushed : Nat
  deriving DecidableEq, Repr

/-- A core as it leaves reset (R133). -/
def Core.fresh : Core :=
  { wsig := 0, wcount := 0, wfull := false, wfloor := 0, perfCnt := [], perfSel := [], gate := .ready, idleSince := 0,
    posted := 0, flushed := 0 }

/-- An L1 line of one core (R53, R135). -/
structure L1Line where
  valid : BitVec 4
  tick : Nat
  dirty : BitVec 128
  data : Line
  deriving DecidableEq, Repr

/-- No line. -/
def L1Line.none : L1Line := { valid := 0, tick := 0, dirty := 0, data := 0 }

/-- The dirty bytes an owning slice holds (R57, R59). -/
structure SliceLine where
  mask : BitVec 128
  data : Line
  deriving DecidableEq, Repr

/-- No dirty bytes. -/
def SliceLine.none : SliceLine := { mask := 0, data := 0 }

/-- A directory entry (R58). -/
inductive DirEntry where
  | uncached
  | shared (vec : Bool) (sharers : List Nat)
  | owned (c : Nat)
  | mapped (core : Nat)
  deriving DecidableEq, Repr

/-- An open grain (R70): its number, the VS core that opened it. The list stands in order of registration. -/
structure OpenGrain where
  grain : Nat
  core : Nat
  /-- its core has been told to close its interval, and its clear is on its way (R72) -/
  closing : Bool := false
  /-- the warp whose plain store it was entered for ahead of the store, until that is performed (R71) -/
  due : Option Nat := none
  deriving DecidableEq, Repr

/-- A scratchpad mapping (R66): its workgroup, first VA, first row and the physical lines in order. -/
structure Mapping where
  wg : Nat
  core : Nat
  va : Nat
  row : Nat
  lines : List Nat
  deriving DecidableEq, Repr

/-- A write held at its home (R39, R42, R59, R475): the line's bytes under a mask, and what it waits for: the dies of R38
that have yet to acknowledge, and 11 for the host's answer to a BISnp. `slice`: the cluster whose slice it is performed at;
`host`: the address of the host write that it ends; `core`: the core whose stream or engine made it. -/
structure HeldWrite where
  line : Nat
  mask : Nat
  data : Nat
  waiting : List Nat
  slice : Option Nat := none
  host : Option Nat := none
  core : Option Nat := none
  deriving DecidableEq, Repr

/-- A cached translation (R37): die, context, page, the lines it derives from, its context descriptor's among them. -/
structure TlbEntry where
  die : Nat
  ctx : Nat
  page : Nat
  size : Nat
  lines : List Nat
  deriving DecidableEq, Repr

/-- The memory hierarchy (R49-R73, R76, R159, R475). -/
structure Mem where
  bytes : List Host.Cell
  poison : Tab Bool
  tags : Tab Bool
  sp : Tab Byte
  spPoison : Tab Bool
  spTags : Tab Bool
  l1 : Tab L1Line
  slice : Tab SliceLine
  dir : Tab DirEntry
  grains : List OpenGrain
  /-- registrations that wait for room in a full set of their home's table: core, grain and the warp whose store waits (R72) -/
  grainWait : List (Nat × Nat × Nat)
  maps : List Mapping
  /-- the lines the host may hold (R475) -/
  snoop : List Nat
  /-- requests that wait for the host's answer to a BISnp: line, and the cluster that asks to own it or 128 for a write or
  atomic at the home (R475) -/
  snoopWait : List (Nat × Nat)
  deriving DecidableEq, Repr

/-- Who issued a mailbox command (R477). -/
inductive Issuer where
  | host
  | ctx (c : Nat)
  deriving DecidableEq, Repr

/-- A pending mailbox command (R477): where its block lies and its 512 bytes as posted. -/
structure Pending where
  issuer : Issuer
  addr : Nat
  block : BitVec 4096
  deriving DecidableEq, Repr

/-- A zeroing job under way (R29, R30): the block, the owner entry it ends with, and the command it answers. -/
structure ZeroJob where
  pa : Nat
  len : Nat
  owner : BitVec 32
  cmd : Option Pending
  deriving DecidableEq, Repr

/-- Contexts, partitions, owners and translation (R18-R48). -/
structure Xlat where
  ctxTab : Tab (BitVec 512)
  partTab : Tab (BitVec 256)
  owner : Tab (BitVec 32)
  /-- frame number to the launch or slot that holds it (R32) -/
  heldBy : Tab Nat
  /-- the frames that an ended context's, or partition's, number still owns (R29) -/
  oldCtx : Tab (List Nat)
  oldPart : Tab (List Nat)
  zero : List ZeroJob
  /-- save slots freed whose held frames are still to be zeroed and let go: context, slot and frames (R32) -/
  drops : List (Nat × Nat × List Nat)
  tdir : Tab (BitVec 11)
  tlb : List TlbEntry
  heldWrites : List HeldWrite
  faults : List FaultEntry
  /-- last REPLAY value acted on, by partition (R48) -/
  replay : Tab Nat
  /-- records written to a partition's fault ring, and to its store-fault log: what the device puts into HEAD (R46,
  R170) -/
  ringHead : Tab Nat
  logHead : Tab Nat
  deriving DecidableEq, Repr

/-- Kiln pages and counters (R89-R107). -/
structure Kiln where
  pages : Tab (BitVec 128)
  version : Tab Nat
  refused0 : Word
  refused1 : Word
  deriving DecidableEq, Repr

/-- The last holder of an on-chip unit (R31): its context, and its launch when that was certified. -/
structure Holder where
  ctx : Nat
  cert : Option Nat
  deriving DecidableEq, Repr

/-- The MX cores' tile registers, scales and accumulators by (core, register, place), and last holders (R31, R219). -/
structure MxArrays where
  tile : Tab Byte
  scale : Tab (BitVec 20)
  acc : Tab (BitVec 32)
  tilePoison : Tab Bool
  accPoison : Tab Bool
  spHolder : Tab (Option Holder)
  tileHolder : Tab (Option Holder)
  accHolder : Tab (Option Holder)
  deriving DecidableEq, Repr

/-- What a queued engine operation is (R358-R371). -/
inductive EngKind where
  | post | cond | bulk | gather | malformed | fence (mask : BitVec 6)
  deriving DecidableEq, Repr

/-- Runs of poisoned bytes among those read, by offset and length. -/
abbrev Poison := List (Nat × Nat)

/-- What an engine has read: the bytes, their poison, the runs an egress filter refuses (R104, R106), those that come from
the host window, which no certified launch may read (R102), and whether a response is still to come. -/
structure EngData where
  len : Nat := 0
  x : Nat := 0
  poison : Poison := []
  kept : Poison := []
  host : Poison := []
  wait : Bool := false
  deriving DecidableEq, Repr

/-- An operation in a copy queue (q 0-3) or the gather queue (q 4) of a core. -/
structure EngOp where
  id : Nat
  core : Nat
  q : Nat
  kind : EngKind
  req : BitVec 1024
  src : BitVec 512
  dst : BitVec 512
  cap : BitVec 128
  wg : Nat
  ctx : Nat
  part : Nat
  launch : Nat
  cert : Bool
  land : Word
  done : Nat
  status : BitVec 16
  park : Option FaultKey
  /-- its source TID resolved to a kiln tensor (R106) -/
  kiln : Bool
  /-- the workgroup was aborted after a failed retry: unwritten sectors are written poisoned (R462) -/
  poisoned : Bool
  /-- a bulk send's number once its prefix has left, or a failed operation's end (R176) -/
  sent : Bool
  /-- its launch was ended: a fault abandons it (R419) -/
  ended : Bool
  /-- source bytes read past the end of its last piece, so that no aligned 8 bytes of them are read in two pieces (R115) -/
  ahead : EngData := {}
  /-- the line of its source that the egress filter refused last in its row (R107) -/
  keptLine : Option Nat := none
  deriving DecidableEq, Repr

/-- What a queued tensor instruction is (R376, R390). -/
inductive MxKind where
  | ldt | lds | zeroT | zeroC | mode | mma | drain | seed | emit | fence (mask : BitVec 6)
  deriving DecidableEq, Repr

/-- An entry of an MX operand queue with the values it took at issue (R383). -/
structure MxOp where
  id : Nat
  core : Nat
  kind : MxKind
  wg : Nat
  ctx : Nat
  d : Nat
  a : Nat
  b : Nat
  off : Word
  tid : BitVec 32
  entry : BitVec 512
  rtid : BitVec 32
  rentry : BitVec 512
  shA : Word
  shB : Word
  mode : Word
  dctl : Word
  dres : Word
  dland : Word
  key : Word
  rnd : BitVec 3
  warp : Nat
  done : Nat
  status : BitVec 16
  park : Option FaultKey
  /-- 1: its workgroup was aborted; 2: after a failed retry of an uncertified launch (R411, R462) -/
  abort : Nat
  /-- by row of a drain: bits formed for an element that goes on into the row's next segment, and poisoned runs of the
  row's bytes -/
  carry : Tab Nat
  bad : Tab (List (Nat × Nat))
  deriving DecidableEq, Repr

/-- The engines' queues (R358, R390) and the requests for register blocks in issue order (R221). -/
structure Engines where
  ops : List EngOp
  mx : List MxOp
  nextId : Nat
  grow : List (Nat × Nat × Nat)
  deriving DecidableEq, Repr

/-- The answer to a remote load or atomic: its data, or a REMOTE_FAULT reason and R43 code (R164). -/
inductive RemAnswer where
  | data (w : Word)
  | fault (reason detail : Nat)
  deriving DecidableEq, Repr

/-- A remote load or atomic, or a release store, that its issuer waits for (R162, R169). -/
structure RemReq where
  id : Nat
  warp : Nat
  thread : Option Nat
  peer : Nat
  part : Nat
  sent : Nat
  answer : Option RemAnswer
  deriving DecidableEq, Repr

/-- A host-window read that its issuer waits for (R474). -/
structure HostReq where
  id : Nat
  warp : Nat
  thread : Option Nat
  pa : Nat
  answer : Option Word
  /-- the bytes an atomic keeps from the rest of the device until its write has left, 0 for a load (R345) -/
  lock : Nat := 0
  /-- the core's host writes that had left when it was sent (R474) -/
  mark : Nat := 0
  deriving DecidableEq, Repr

/-- A write-combining entry (R165). -/
structure WcEntry where
  core : Nat
  peer : Nat
  target : Nat
  lease : Nat
  line : Nat
  data : Line
  mask : BitVec 128
  tick : Nat
  part : Nat
  ctx : Nat
  deriving DecidableEq, Repr

/-- A remote write in flight (R167, R168): `release` for a release store; the key, and whose it is. -/
structure Flight where
  id : Nat
  core : Nat
  peer : Nat
  target : Nat
  lease : Nat
  line : Nat
  bytes : Nat
  ctx : Nat
  deriving DecidableEq, Repr

/-- An inbound line write (R168, R170) or a line of a bulk prefix (R177): as received, with the arrival tick. `bulk`: the
request, offset and bytes of a prefix line. -/
structure Inbound where
  id : Nat
  peer : Nat
  ctx : Nat
  va : Nat
  data : Line
  mask : BitVec 128
  kind : Nat
  reason : Nat
  tick : Nat
  bulk : Option (Nat × Nat × Nat)
  deriving DecidableEq, Repr

/-- A store-fault record whose acknowledgement is withheld (R172). -/
structure LogRec where
  part : Nat
  seq : Nat
  id : Nat
  peer : Nat
  tick : Nat
  bulk : Option (Nat × Nat × Nat)
  deriving DecidableEq, Repr

/-- An inbound remote load or atomic parked on a replayable fault (R164). -/
structure InRemote where
  id : Nat
  peer : Nat
  ctx : Nat
  va : Nat
  op : RemOp
  size : Nat
  x : Word
  y : Word
  key : FaultKey
  tick : Nat
  deriving DecidableEq, Repr

/-- A pull token (R178): its number, its range, its grant tick and the runs that have landed. -/
structure Token where
  num : Nat
  off : Nat
  len : Nat
  tick : Nat
  landed : List (Nat × Nat)
  /-- the planes it names for the data (R3, R178) -/
  planes : List Nat
  deriving DecidableEq, Repr

/-- The states of a received bulk request (R179). -/
inductive BulkState where
  | waiting | granted | parked | orphaned | done
  deriving DecidableEq, Repr

/-- A received bulk request (R177-R179): `todo` the runs not granted, `left` the bytes not landed, `since` the tick from
which `age` counts on, `data` whether data has come since the last grant. -/
structure BulkReq where
  num : Nat
  peer : Nat
  send : Nat
  ctx : Nat
  base : Nat
  dest : Nat
  todo : List (Nat × Nat)
  left : Nat
  level : Nat
  age : Nat
  since : Nat
  expiries : Nat
  second : Option Nat
  heard : Nat
  data : Bool
  state : BulkState
  tokens : List Token
  rxLand : Option Nat
  flag : Option (Nat × Word)
  park : Option FaultKey
  /-- its final response is out, and is still to be acknowledged (R179) -/
  answered : Bool := false
  deriving DecidableEq, Repr

/-- A bulk send of this package (R176-R182): `got` the runs that have landed, `held` the tokens that a fault keeps it
from serving, `egress` that its arrival has been counted: it ended at egress, or the final acknowledgement has come before
some other. -/
structure BulkSend where
  id : Nat
  /-- the engine operation it came from -/
  op : Nat
  core : Nat
  q : Nat
  wg : Nat
  ctx : Nat
  part : Nat
  launch : Nat
  cert : Bool
  cap : BitVec 128
  src : Nat
  dest : Nat
  total : Nat
  got : List (Nat × Nat)
  land : Word
  flag : Option (Nat × Word)
  rxLand : Option Nat
  prio : Nat
  request : Option Nat
  busy : Option Nat
  parked : Bool
  fault : Option FaultKey
  egress : Bool
  poisoned : Bool
  status : BitVec 16
  held : List (TokenRef × Nat × Nat)
  deriving DecidableEq, Repr

/-- Fabric memory (R155-R182, R474). -/
structure Fabric where
  peers : Tab (BitVec 64)
  wcb : List WcEntry
  flights : List Flight
  remotes : List RemReq
  hostReqs : List HostReq
  logs : List LogRec
  logWait : List Inbound
  inRemote : List InRemote
  sends : List BulkSend
  reqs : List BulkReq
  nextId : Nat
  dropped : Word
  discarded : Nat
  /-- the sender served last, by level; 512 when none (R178) -/
  lastPeer : Tab Nat
  deriving DecidableEq, Repr

/-- A registered launch queue (R413-R416): what the device keeps at its block. -/
structure Queue where
  block : Nat
  taken : Nat
  head : Nat
  qerr : BitVec 8
  rejected : Nat
  /-- work records written to the work ring -/
  written : Nat
  /-- the rings as last found legal: launch slots and work records -/
  ring : Nat
  size : Nat
  work : Nat
  workLog : Nat
  deriving DecidableEq, Repr

/-- No queue. -/
def Queue.none : Queue :=
  { block := 0, taken := 0, head := 0, qerr := 0, rejected := 0, written := 0, ring := 0, size := 0, work := 0,
    workLog := 0 }

/-- The states of a launch (R418). -/
inductive LState where
  | queued | waiting | running | done | refused | aborted
  deriving DecidableEq, Repr

/-- A launch in the launch table (R416-R424), a re-execution (R454) or a witness kernel (R446). -/
structure Launch where
  num : Nat
  part : Nat
  level : Nat
  /-- the queue it came from: partition × 8 + level, or from 128 on a registration that QUEUE_SET has ended -/
  queue : Nat
  slot : Option Nat
  record : BitVec 1024
  header : BitVec 512
  state : LState
  code : Nat
  cause : Nat
  opened : Bool
  join : Nat
  count : Nat
  nextOrd : Nat
  /-- the VS clusters PLACE and, for a certified launch or a witness kernel, the choice of course admit -/
  place : BitVec 64
  witness : Option Nat
  /-- the witness record a witness launch tests (R446) -/
  kernelOf : Option Nat
  /-- first pages of the tainted bindings it is held unopened for (R94) -/
  hold : List Nat
  /-- the VS cores that ran its workgroups -/
  cores : List Nat
  /-- completion steps done (R424) -/
  step : Nat
  park : Option FaultKey
  deriving DecidableEq, Repr

/-- A work or resume record waiting for placement (R425, R432). -/
structure WorkRec where
  part : Nat
  level : Nat
  launch : Nat
  /-- its queue and the index of its first record in that queue's work ring -/
  queue : Nat
  ring : Option Nat
  ordinals : List Nat
  /-- saved workgroups, for a resume record -/
  resume : List Nat
  tick : Nat
  deriving DecidableEq, Repr

/-- Scheduling (R413-R432). -/
structure Sched where
  cfg : Tab Word
  queues : Tab Queue
  launches : List Launch
  work : List WorkRec
  nextLaunch : Nat
  /-- courses on which placement is stopped (R468) -/
  stopped : List Nat
  /-- placement stopped for a checkpoint (R109) -/
  frozen : Bool
  /-- liveness tables that were ignored as malformed (R260) -/
  badTables : Nat
  deriving DecidableEq, Repr

/-- A stored launch copy (R454). -/
structure Stored where
  witness : Nat
  part : Nat
  level : Nat
  record : BitVec 1024
  header : BitVec 512
  tries : Nat
  courses : List Nat
  /-- the tensor table entries of its inputs and outputs as they resolved at open -/
  entries : List (BitVec 512)
  /-- pages of kiln inputs, 0 and none for an input of ordinary memory: first page and count -/
  ins : List (Nat × Nat)
  /-- output pages: first page and count, by output -/
  outs : List (Nat × Nat)
  /-- the versions its inputs are bound to now, 0 for ordinary memory: a re-executed producer's new one takes the place of
  the old (R99) -/
  vers : List Nat
  deriving DecidableEq, Repr

/-- A charged failure or failed retry (R456, R463). -/
structure Charge where
  core : Nat
  /-- 0 witness failure, 1 pipeline retry, 2 CORE_UE -/
  kind : Nat
  tick : Nat
  record : Nat
  deriving DecidableEq, Repr

/-- Certified execution (R437-R459). -/
structure Cert where
  records : Tab (BitVec 2048)
  nextId : Nat
  /-- base and length of the value region of a live record (R404) -/
  regions : Tab (Nat × Nat)
  /-- the class the drains of a GEMM set, by record (R406) -/
  classes : Tab Nat
  /-- records whose witness kernel has exited with its values delivered (R447) -/
  delivered : List Nat
  stored : List Stored
  epoch : Nat
  epochTick : Nat
  /-- seeds by 2 * epoch + p -/
  seeds : Tab Word
  /-- cores of the first witness kernel, by record -/
  kernelCores : Tab (List Nat)
  /-- release tick, and the record as it stood then, by the first page of a RELEASED binding (R458) -/
  releaseTick : Tab Nat
  released : Tab (BitVec 2048)
  charges : List Charge
  courseFails : List (Nat × Nat × Nat)
  cfg : Word
  count : Word
  health : Tab (BitVec 32)
  deriving DecidableEq, Repr

/-- An entry of the fault record (R471). -/
structure FaultRec where
  tick : Nat
  boot : Nat
  kind : Nat
  unitType : Nat
  unit : Nat
  detail : Word
  deriving DecidableEq, Repr

/-- A die-to-die link (R467) as the sending die sees it. -/
inductive Link where
  | awake | lowPower | waking (tick : Nat) | silent (tick : Nat) | fenced
  deriving DecidableEq, Repr

/-- A course reset under way (R468). -/
structure CourseReset where
  course : Nat
  start : Nat
  /-- 1 draining, 3 resetting -/
  phase : Nat
  deriving DecidableEq, Repr

/-- Reliability (R77-R85, R460-R471). -/
structure Reliab where
  hbmCfg : Word
  reserve : Word
  regions : Tab (BitVec 128)
  banks : Tab (BitVec 32)
  hashVersion : Nat
  /-- rows of a bank that the strong code was last written to, in the order in which they are re-encoded (R77) -/
  strongRows : Tab Nat := []
  /-- banks that a hash version leaves out (R80) -/
  hashOut : Tab (List Nat)
  /-- single-bit errors corrected in place on the chips (R52) -/
  corrected : Nat
  faultCfg : Word
  courseReg : Tab Word
  resets : List CourseReset
  links : Tab Link
  entries : List FaultRec
  dropped : Nat
  boots : Nat
  fuseCore : Tab Bool
  fuseCourse : Tab Bool
  /-- warps parked on a checker mismatch (R461) -/
  retry : List Nat
  /-- banks whose code change, or drop where true, waits for reserve (R83) -/
  waiting : List (Nat × Bool)
  deriving DecidableEq, Repr

/-- A checkpoint or restore under way (R109, R113). -/
structure Copying where
  restore : Bool
  cmd : Pending
  base : Nat
  len : Nat
  /-- device time at step 3 of R109, from which on kiln transitions are deferred -/
  time : Option Nat
  /-- what it puts off, in order of arrival; the event that is taking place joins them (R109) -/
  deferred : List Instr := []
  puttingOff : Bool := false
  deriving DecidableEq, Repr

/-- The TDI states of R484. -/
inductive Tdi where
  | unlocked | locked | run | error
  deriving DecidableEq, Repr

/-- A write held by the IO dies during a checkpoint (R109). -/
structure HeldHost where
  pa : Nat
  len : Nat
  data : Nat
  deriving DecidableEq, Repr

/-- The plumb's private keys (R459): identity, made at manufacture; attestation, checkpoint and result keys that
each boot derives, 0 before it has; and the model's own list of the checkpoint keys of earlier boots, whose signatures stay
verifiable. -/
structure Keys where
  identity : BitVec 384
  attest : BitVec 384
  checkpoint : BitVec 384
  result : BitVec 384
  old : List (BitVec 384)
  deriving DecidableEq, Repr

/-- The keys of a device that has not booted. -/
def Keys.reset : Keys := { identity := Config.identityKey, attest := 0, checkpoint := 0, result := 0, old := [] }

/-- The host attachment, boot and the module (R473-R488). -/
structure HostIf where
  devState : BitVec 8
  mboxFree : Nat
  /-- the firmware staging window BAR2 and what fw_go last took (R473, R476) -/
  staging : Tab Byte
  fwLength : BitVec 32
  /-- the firmware set as step 3 of R481 authenticated it, which the attestation measures (R482) -/
  firmware : List Byte
  /-- the seed generator's secret (R459) -/
  seedState : BitVec 256
  keys : Keys
  pending : List Pending
  copying : Option Copying
  /-- a DIE_RESET that has not ended, with its course (R478) -/
  dieReset : Option (Pending × Nat)
  held : List HeldHost
  ckptSeq : Nat
  /-- the far-tier ranges the plumb owns for checkpoints (R109) -/
  ckpts : List (Nat × Nat)
  refused : Word
  tdi : Tab Tdi
  sessions : Tab Nat
  farSet : Tab Nat
  farPort : Tab Nat
  powerCap : Word
  mhz : Nat
  deriving DecidableEq, Repr

/-- What has left the package (entry 5), newest first. -/
inductive Msg where
  | remote (id peer target lease va : Nat) (op : RemOp) (size : Nat) (x y : Word)
  | lineWrite (id peer target lease va : Nat) (data : Line) (mask : BitVec 128) (kind plane : Nat)
  | remoteAnswer (id peer : Nat) (a : RemAnswer)
  | writeAck (id peer : Nat) (code : Nat)
  | bulkRequest (id peer target lease base dest total prio : Nat) (flag : Option (Nat × Word)) (rxLand : Option Nat)
    (len data : Nat) (poison : List (Nat × Nat))
  | bulkData (id peer : Nat) (req : TokenRef) (off len : Nat) (data : Nat) (poison : List (Nat × Nat))
  | bulkBusy (id peer : Nat)
  | token (id peer : Nat) (req : TokenRef) (off len : Nat) (planes : List Nat)
  | tokenAck (id peer req off bytes code : Nat)
  | finalAck (id peer : Nat)
  | bulkEnd (id peer left : Nat) (orphaned : Bool)
  | parkSend (id peer : Nat)
  | resumeSend (id peer : Nat)
  | hostRead (id pa size : Nat)
  | hostWrite (pa size : Nat) (data : Word) (poison : Bool)
  | hostLine (pa : Nat) (data : Line) (poison : Bool)
  | hostWritten (pa : Nat)
  | bisnp (line : Nat)
  | msix (vector : Nat)
  | hostBytes (pa : Nat) (data : List Byte)
  | hostData (pa n data : Nat) (poison : Bool)
  | barData (off : Nat) (data : Word)
  | spdm (function : Nat) (blocks : List (Nat × BitVec 384)) (signature : BitVec 768)
  | tdisp (function : Nat) (state : Tdi)
  deriving DecidableEq, Repr

/-- The package. -/
structure State where
  agenda : List Act
  cur : Nat
  freeCtr : Nat
  outbox : List Msg
  tick : Nat
  cycles : Tab Word
  slips : Tab Word
  warps : List Warp
  wgs : List Workgroup
  cores : Tab Core
  mem : Mem
  xlat : Xlat
  kiln : Kiln
  mx : MxArrays
  eng : Engines
  fab : Fabric
  sched : Sched
  cert : Cert
  rel : Reliab
  host : HostIf
  deriving DecidableEq, Repr

/-- The package right after reset: every register at the value the spec gives for reset, and where it gives none at
the value that entry 2 names. -/
def State.reset : State where
  agenda := []
  cur := 0
  freeCtr := 0
  outbox := []
  tick := 0
  cycles := []
  slips := []
  warps := []
  wgs := []
  cores := []
  mem := { bytes := [], poison := [], tags := [], sp := [], spPoison := [], spTags := [], l1 := [], slice := [],
           dir := [], grains := [], grainWait := [], maps := [], snoop := [], snoopWait := [] }
  xlat := { ctxTab := [], partTab := [], owner := [], heldBy := [], oldCtx := [], oldPart := [], zero := [], drops := [], tdir := [], tlb := [],
            heldWrites := [], faults := [], replay := [],
            ringHead := [], logHead := [] }
  kiln := { pages := [], version := [], refused0 := 0, refused1 := 0 }
  mx := { tile := [], scale := [], acc := [], tilePoison := [], accPoison := [], spHolder := [], tileHolder := [],
          accHolder := [] }
  eng := { ops := [], mx := [], nextId := 0, grow := [] }
  fab := { peers := [], wcb := [], flights := [], remotes := [], hostReqs := [], logs := [], logWait := [],
           inRemote := [], sends := [], reqs := [], nextId := 0, dropped := 0, discarded := 0, lastPeer := [] }
  sched := { cfg := [], queues := [], launches := [], work := [], nextLaunch := 0, stopped := [],
             frozen := false, badTables := 0 }
  cert := { records := [], nextId := 1, regions := [], classes := [], delivered := [], stored := [], epoch := 1, epochTick := 0,
            seeds := [], kernelCores := [], releaseTick := [], released := [], charges := [], courseFails := [],
            cfg := 0x0000_1004_0000_03E8, count := 0, health := [] }
  rel := { hbmCfg := 0x0001_9004_0020_0020, reserve := 0x0000_00BE_0000_1000, regions := [], banks := [],
           hashVersion := 0, hashOut := [], corrected := 0, faultCfg := 0x0000_0000_0804_0064, courseReg := [], resets := [], links := [],
           entries := [], dropped := 0, boots := 1, fuseCore := [], fuseCourse := [], retry := [],
           waiting := [] }
  host := { devState := 0, mboxFree := 16, staging := [], fwLength := 0, firmware := [], seedState := 0, keys := Keys.reset, pending := [], copying := none,
            dieReset := none, held := [], ckptSeq := 0, ckpts := [], refused := 0, tdi := [], sessions := [],
            farSet := [], farPort := [], powerCap := 4600, mhz := 3000 }

end Sys2Proof.Machine
end

