-- ==== Sys2Proof/Machine/Tab.lean ====
section
/-! DEFINITION. The operations of a sparse table, and little-endian runs of bytes over them (R7). -/

namespace Sys2Proof.Machine

/-- The value at a key; `d` where the key is not listed. -/
def Tab.get {α : Type} (d : α) : Tab α → Nat → α
  | [], _ => d
  | (k', v) :: r, k => if k' = k then v else Tab.get d r k

/-- The table without a key. -/
def Tab.erase {α : Type} : Tab α → Nat → Tab α
  | [], _ => []
  | (k', v) :: r, k => if k' = k then Tab.erase r k else (k', v) :: Tab.erase r k

/-- The table with an entry put before the first greater key. -/
def Tab.insert {α : Type} : Tab α → Nat → α → Tab α
  | [], k, v => [(k, v)]
  | (k', v') :: r, k, v => if k < k' then (k, v) :: (k', v') :: r else (k', v') :: Tab.insert r k v

/-- The table with `v` at a key, in canonical form: no entry equal to the default. -/
def Tab.set {α : Type} [DecidableEq α] (d : α) (m : Tab α) (k : Nat) (v : α) : Tab α :=
  if v = d then Tab.erase m k else Tab.insert (Tab.erase m k) k v

/-- Keys strictly rising and no entry equal to the default. -/
def Tab.wf {α : Type} [DecidableEq α] (d : α) : Tab α → Bool
  | [] => true
  | (k, v) :: r => decide (v ≠ d) && r.all (fun e => decide (k < e.1)) && Tab.wf d r

/-- The entries whose key passes a test. -/
def Tab.filterKeys {α : Type} (m : Tab α) (p : Nat → Bool) : Tab α := m.filter fun e => p e.1

/-- `n` bytes from `a`, little-endian (R7). -/
def readN (m : Tab Byte) (a : Nat) : Nat → Nat
  | 0 => 0
  | n + 1 => (Tab.get 0 m a).toNat + 256 * readN m (a + 1) n

/-- `n` bytes of `x` written from `a`, little-endian (R7). -/
def writeN (m : Tab Byte) (a : Nat) : Nat → Nat → Tab Byte
  | 0, _ => m
  | n + 1, x => writeN (Tab.set 0 m a (BitVec.ofNat 8 x)) (a + 1) n (x / 256)

/-- The bytes of `x` whose mask bit is set, written from `a`. -/
def writeMasked (m : Tab Byte) (a : Nat) : Nat → Nat → Nat → Tab Byte
  | 0, _, _ => m
  | n + 1, mask, x =>
    writeMasked (if mask % 2 = 1 then Tab.set 0 m a (BitVec.ofNat 8 x) else m) (a + 1) n (mask / 2) (x / 256)

/-- The entries with keys in [a, a + n) set to `v`. -/
def Tab.fill {α : Type} [DecidableEq α] (d : α) (m : Tab α) (a n : Nat) (v : α) : Tab α :=
  if v = d then Tab.filterKeys m fun k => k < a || a + n ≤ k
  else (List.range n).foldl (fun m i => Tab.set d m (a + i) v) m

/-- A list updated at an index. -/
def listSet {α : Type} (l : List α) (i : Nat) (x : α) : List α := l.set i x

end Sys2Proof.Machine
end

