-- ==== Sys2Proof/Machine/Bits.lean ====
section
/-! DEFINITION. Bit fields, sign extension, byte masks and the counter hash. -/

namespace Sys2Proof.Machine

/-- Bits [hi : lo] of a word, as a number. -/
def field {w : Nat} (x : BitVec w) (hi lo : Nat) : Nat := x.toNat / 2 ^ lo % 2 ^ (hi + 1 - lo)

/-- Bit `i` of a word. -/
def bit {w : Nat} (x : BitVec w) (i : Nat) : Bool := x.getLsbD i

/-- A word with bits [hi : lo] replaced. -/
def setField {w : Nat} (x : BitVec w) (hi lo v : Nat) : BitVec w :=
  BitVec.ofNat w (x.toNat - field x hi lo * 2 ^ lo + v % 2 ^ (hi + 1 - lo) * 2 ^ lo)

/-- A word with bit `i` set or cleared. -/
def setBit {w : Nat} (x : BitVec w) (i : Nat) (b : Bool) : BitVec w := setField x i i b.toNat

/-- A number of `n` bits read as two's complement. -/
def signed (n x : Nat) : Int := if x % 2 ^ n < 2 ^ (n - 1) then (x % 2 ^ n : Nat) else (x % 2 ^ n : Nat) - 2 ^ n

/-- An integer truncated to `n` bits (R13). -/
def truncI (n : Nat) (x : Int) : Nat := (x % 2 ^ n).toNat

/-- `n` bits sign-extended to a 64-bit word. -/
def sextN (n x : Nat) : Word := BitVec.ofInt 64 (signed n x)

/-- The mask of bytes [o, o + n) of a line. -/
def byteMask (o n : Nat) : BitVec 128 := BitVec.ofNat 128 ((2 ^ n - 1) * 2 ^ o)

/-- Each byte of the mask widened to eight bits. -/
def maskBits : Nat → Nat → Nat
  | 0, _ => 0
  | n + 1, m => (if m % 2 = 1 then 255 else 0) + 256 * maskBits n (m / 2)

/-- The bytes of `new` whose mask bit is set over the bytes of `old`. -/
def mergeLine (old new : Line) (mask : BitVec 128) : Line :=
  let b := BitVec.ofNat 1024 (maskBits 128 mask.toNat)
  (old &&& ~~~b) ||| (new &&& b)

/-- Bytes [o, o + n) of a line as a number. -/
def lineBytes (l : Line) (o n : Nat) : Nat := l.toNat / 2 ^ (8 * o) % 2 ^ (8 * n)

/-- A line with the `n` bytes of `x` at offset `o` and zeros elsewhere. -/
def lineAt (o n x : Nat) : Line := BitVec.ofNat 1024 (x % 2 ^ (8 * n) * 2 ^ (8 * o))

/-- The number of set bits among the low `n` bits. -/
def popCount : Nat → Nat → Nat
  | 0, _ => 0
  | n + 1, x => x % 2 + popCount n (x / 2)

/-- Leading zero bits among the low `n` bits. -/
def clz : Nat → Nat → Nat
  | 0, _ => 0
  | n + 1, x => if x / 2 ^ n % 2 = 1 then 0 else 1 + clz n x

/-- Trailing zero bits among the low `n` bits. -/
def ctz : Nat → Nat → Nat
  | 0, _ => 0
  | n + 1, x => if x % 2 = 1 then 0 else 1 + ctz n (x / 2)

/-- The low `n` bits in reverse order. -/
def bitRev : Nat → Nat → Nat
  | 0, _ => 0
  | n + 1, x => x % 2 * 2 ^ n + bitRev n (x / 2)

/-- The low `n` bytes in reverse order. -/
def byteRev : Nat → Nat → Nat
  | 0, _ => 0
  | n + 1, x => x % 256 * 256 ^ n + byteRev n (x / 256)

/-- The lowest set bit of a 32-bit mask, 0 when none is set: the THREAD of a trap at issue (R252). -/
def lowest (m : BitVec 32) : Nat := if m = 0 then 0 else ctz 32 m.toNat

/-- The threads of a mask in ascending order. -/
def threads (m : BitVec 32) : List Nat := (List.range 32).filter fun i => m.getLsbD i

/-- The counter hash (R203). -/
def ch64 (key ctr : Word) : Word :=
  let x := ctr ^^^ key
  let x := x ^^^ (x >>> 32)
  let x := x * 0x9F3A61C5D2E847B3
  let x := x ^^^ ((key >>> 23) ||| (key <<< 41))
  let x := x ^^^ (x >>> 29)
  let x := x * 0xE4D10B973C5A8F2D
  x ^^^ (x >>> 32)

/-- An entry of the witness projection vector (R204). -/
def wr16 (seed : Word) (j : Nat) : Int :=
  let a := field seed 31 0 ||| 1
  let h := (a * (j % 2 ^ 32) + field seed 63 32) % 2 ^ 32
  let h := h ^^^ (h / 2 ^ 16)
  2 * signed 15 (h / 2 ^ 17) + 1

/-- Powers of an integer base modulo `m`, by squaring over the bits of the exponent. -/
def powMod (m : Nat) : Nat → Nat → Nat → Nat
  | 0, _, _ => 1 % m
  | f + 1, b, e =>
    let r := powMod m f (b * b % m) (e / 2)
    if e % 2 = 1 then b * r % m else r

end Sys2Proof.Machine
end

