-- ==== Sys2Proof/Machine/Formats.lean ====
section
/-! DEFINITION. The operand formats of R184, narrow-float descriptors (R186-R188), block scales (R189) and moduli
(R193), with exact values. -/

namespace Sys2Proof.Machine

/-- Element bits of a format code (R184). -/
def fmtBits : Nat → Nat
  | 0 | 3 | 6 | 7 => 8
  | 1 | 4 => 6
  | 2 | 5 | 8 | 9 => 4
  | 10 | 11 | 13 => 16
  | 12 => 32
  | 14 => 64
  | _ => 1

/-- A format with block scales (R184). -/
def fmtBlock (f : Nat) : Bool := f == 3 || f == 4 || f == 5

/-- A narrow-float format (R184). -/
def fmtNarrow (f : Nat) : Bool := decide (f ≤ 5)

/-- A format that accumulates as FP32 (R184). -/
def fmtFloat (f : Nat) : Bool := decide (f ≤ 5) || f == 10 || f == 11 || f == 12

/-- A 32-bit integer accumulating format (R184). -/
def fmtInt (f : Nat) : Bool := f == 6 || f == 7 || f == 8 || f == 9 || f == 13 || f == 15

/-- A legal modulus (R193). -/
def legalQ (q : Nat) : Bool := q % 2 == 1 && decide (2 ^ 20 < q) && decide (q < 2 ^ 62)

/-- A narrow-float descriptor's fields for elements of `n` bits (R186). -/
structure NfDesc where
  n : Nat
  sgn : Bool
  e : Nat
  m : Nat
  bias : Int
  nan : Bool
  deriving DecidableEq, Repr

/-- The descriptor of a 16-bit word; none when it is not legal (R186). -/
def nfDesc (n d : Nat) : Option NfDesc :=
  let sgn := d / 16 % 2 == 1
  let e := d % 16
  let top := n - sgn.toNat
  if e ≤ top ∧ d / 64 % 4 = 0 then
    some { n := n, sgn := sgn, e := e, m := top - e, bias := signed 8 (d / 256), nan := d / 32 % 2 == 1 }
  else none

/-- A descriptor is legal for elements of `n` bits (R186). -/
def nfLegal (n d : Nat) : Bool := (nfDesc n d).isSome

/-- A value for arithmetic: an exact finite number, an infinity of a sign, or NaN. -/
inductive FVal where
  | num (x : Rat)
  | inf (neg : Bool)
  | nan
  deriving DecidableEq, Repr

/-- A power of two with an integer exponent. -/
def pow2 (e : Int) : Rat := if 0 ≤ e then (2 ^ e.toNat : Nat) else 1 / ((2 ^ (-e).toNat : Nat) : Rat)

/-- The sign of an element code (R187). -/
def NfDesc.neg (d : NfDesc) (code : Nat) : Bool := d.sgn && code / 2 ^ (d.n - 1) % 2 == 1

/-- The magnitude of a code with exponent field `e` and mantissa field `m` (R187). -/
def NfDesc.magOf (d : NfDesc) (e m : Nat) : Rat :=
  if e = 0 then (m : Rat) / (2 ^ d.m : Nat) * pow2 (1 - d.bias)
  else (1 + (m : Rat) / (2 ^ d.m : Nat)) * pow2 ((e : Int) - d.bias)

/-- The decoding of an element code (R187). -/
def NfDesc.decode (d : NfDesc) (code : Nat) : FVal :=
  if d.nan ∧ code = 2 ^ d.n - 1 then .nan
  else
    let v := d.magOf (code / 2 ^ d.m % 2 ^ d.e) (code % 2 ^ d.m)
    .num (if d.neg code then -v else v)

/-- The largest magnitude code of a sign, without the sign bit (R188). -/
def NfDesc.topCode (d : NfDesc) (neg : Bool) : Nat :=
  let top := 2 ^ (d.e + d.m) - 1
  if d.nan && (neg == d.sgn) then top - 1 else top

/-- The largest finite magnitude of a sign (R188). -/
def NfDesc.top (d : NfDesc) (neg : Bool) : Rat :=
  let c := d.topCode neg
  d.magOf (c / 2 ^ d.m) (c % 2 ^ d.m)

/-- The format limit L (R188). -/
def NfDesc.limit (d : NfDesc) : Rat := if d.sgn then (if d.top true ≤ d.top false then d.top true else d.top false) else d.top false

/-- A block scale's value, none for the NaN block (R189). -/
def scaleVal (x : Nat) : Option Rat :=
  let x := x % 2 ^ 20
  if x = 0xFFFFF then none
  else if x = 0 then some 0
  else some (pow2 ((x / 4096 : Nat) - 127 : Int) * (1 + ((x % 4096 : Nat) : Rat) / 4096))

/-- An element of a block format under its scale (R189). -/
def scaled (scale : Nat) (v : FVal) : FVal :=
  match scaleVal scale with
  | none => .nan
  | some s =>
    if s = 0 then .num 0
    else match v with
      | .num x => .num (s * x)
      | .nan => .nan
      | .inf n => .inf n

end Sys2Proof.Machine
end

