-- ==== Sys2Proof/Machine/Float.lean ====
section
/-! DEFINITION. Binary floating-point values and rounding (R192, R195-R198, R308-R310). -/

namespace Sys2Proof.Machine

/-- An IEEE format's exponent and mantissa widths (R192). -/
structure FFmt where
  e : Nat
  m : Nat
  deriving DecidableEq, Repr

def fmtF16 : FFmt := { e := 5, m := 10 }
def fmtBf16 : FFmt := { e := 8, m := 7 }
def fmtF32 : FFmt := { e := 8, m := 23 }
def fmtF64 : FFmt := { e := 11, m := 52 }

/-- A floating value: a sign and a magnitude, an infinity, or a NaN that may be signalling. -/
inductive Fp where
  | fin (neg : Bool) (x : Rat)
  | inf (neg : Bool)
  | nan (sig : Bool)
  deriving DecidableEq, Repr

/-- The flags in the order of R200. -/
def fNV : Nat := 16
def fDZ : Nat := 8
def fOF : Nat := 4
def fUF : Nat := 2
def fNX : Nat := 1

/-- The rounding modes (R195); stochastic with its 16-bit draw (R197). -/
inductive Mode where
  | rne | rtz | rup | rdn
  | sr (u : Nat)
  deriving DecidableEq, Repr

/-- The mode of an RND code 0 to 3. -/
def modeOf : Nat → Mode
  | 0 => .rne | 1 => .rtz | 2 => .rup | _ => .rdn

/-- The floor of a rational number. -/
def ratFloor (x : Rat) : Int := x.num / (x.den : Int)

/-- A magnitude in units of the grid rounded to a whole number of them (R196, R197). A tie goes to the neighbour whose
lowest code bit is 0; `base` is what the code of `n` units has beside `n` itself. -/
def roundMag (md : Mode) (neg : Bool) (y : Rat) (base : Int := 0) : Nat :=
  let n := (ratFloor y).toNat
  let r := y - (n : Rat)
  if r = 0 then n
  else
    let up := match md with
      | .rne => decide (1 / 2 < r) || (decide (r = 1 / 2) && (base + n) % 2 == 1)
      | .rtz => false
      | .rup => !neg
      | .rdn => neg
      | .sr u => if neg then !decide ((u : Int) < ratFloor ((1 - r) * 65536)) else decide ((u : Int) < ratFloor (r * 65536))
    n + up.toNat

/-- The exponent of the leading bit of a positive number. -/
def log2Floor (x : Rat) : Int :=
  let k : Int := (Nat.log2 x.num.toNat : Int) - (Nat.log2 x.den : Int)
  if x < pow2 k then k - 1 else k

/-- The exponent bias. -/
def FFmt.bias (f : FFmt) : Nat := 2 ^ (f.e - 1) - 1

/-- The sign bit of a code. -/
def FFmt.sign (f : FFmt) (neg : Bool) : Nat := if neg then 2 ^ (f.e + f.m) else 0

/-- Infinity. -/
def FFmt.infCode (f : FFmt) (neg : Bool) : Nat := f.sign neg + (2 ^ f.e - 1) * 2 ^ f.m

/-- The largest finite value of a sign. -/
def FFmt.maxCode (f : FFmt) (neg : Bool) : Nat := f.infCode neg - 1

/-- The default NaN (R192). -/
def FFmt.nanCode (f : FFmt) : Nat := (2 ^ f.e - 1) * 2 ^ f.m + 2 ^ (f.m - 1)

/-- The value of a code (R192). -/
def FFmt.decode (f : FFmt) (b : Nat) : Fp :=
  let neg := b / 2 ^ (f.e + f.m) % 2 == 1
  let e := b / 2 ^ f.m % 2 ^ f.e
  let m := b % 2 ^ f.m
  if e = 2 ^ f.e - 1 then
    if m = 0 then .inf neg else .nan (decide (m < 2 ^ (f.m - 1)))
  else if e = 0 then .fin neg ((m : Rat) * pow2 (1 - f.bias - f.m))
  else .fin neg (((m + 2 ^ f.m : Nat) : Rat) * pow2 ((e : Int) - f.bias - f.m))

/-- An exact magnitude rounded once to a format: its code and flags (R196, R198, R309). -/
def FFmt.round (f : FFmt) (md : Mode) (sat neg : Bool) (x : Rat) : Nat × Nat :=
  if x = 0 then (f.sign neg, 0)
  else
    let emin : Int := 1 - f.bias
    let e := log2Floor x
    let q := max e emin - f.m
    let n := roundMag md neg (x / pow2 q)
    let v := (n : Rat) * pow2 q
    if pow2 (f.bias + 1) ≤ v then
      let toward := sat || (match md with
        | .rtz => true
        | .rup => neg
        | .rdn => !neg
        | _ => false)
      (if toward then f.maxCode neg else f.infCode neg, fOF ||| fNX)
    else
      let free := e - f.m
      let tiny := decide (e < emin) && decide ((roundMag md neg (x / pow2 free) : Rat) * pow2 free < pow2 emin)
      let code := if e < emin then n else (e + f.bias).toNat * 2 ^ f.m + n - 2 ^ f.m
      (f.sign neg + code, if v = x then 0 else if tiny then fUF ||| fNX else fNX)

/-- A value rounded to a format, NaN to the default NaN (R192). -/
def FFmt.finish (f : FFmt) (md : Mode) (sat : Bool) : Fp → Nat × Nat
  | .fin neg x => f.round md sat neg x
  | .inf neg => (f.infCode neg, 0)
  | .nan sig => (f.nanCode, if sig then fNV else 0)

/-- The signed number of a finite value. -/
def signedRat (neg : Bool) (x : Rat) : Rat := if neg then -x else x

/-- A signed number as a floating value; an exact zero takes the sign given. -/
def fpOf (zeroNeg : Bool) (x : Rat) : Fp := if x = 0 then .fin zeroNeg 0 else .fin (decide (x < 0)) (if x < 0 then -x else x)

/-- NV for a signalling NaN among operands. -/
def sigFlag (l : List Fp) : Nat := if l.any fun x => x == .nan true then fNV else 0

/-- An operand is a NaN. -/
def Fp.isNan : Fp → Bool
  | .nan _ => true
  | _ => false

/-- The exact sum (R308, R309): the result and its flags. -/
def fpAdd (md : Mode) (x y : Fp) : Fp × Nat :=
  match x, y with
  | .inf a, .inf b => if a = b then (.inf a, 0) else (.nan false, fNV)
  | .nan _, _ => (.nan false, sigFlag [x, y])
  | _, .nan _ => (.nan false, sigFlag [x, y])
  | .inf a, _ => (.inf a, 0)
  | _, .inf b => (.inf b, 0)
  | .fin a u, .fin b v => (fpOf (if a = b then a else md == .rdn) (signedRat a u + signedRat b v), 0)

/-- The value with its sign inverted. -/
def Fp.negate : Fp → Fp
  | .fin a x => .fin (!a) x
  | .inf a => .inf (!a)
  | .nan s => .nan s

/-- The exact product. -/
def fpMul (x y : Fp) : Fp × Nat :=
  match x, y with
  | .nan _, _ => (.nan false, sigFlag [x, y])
  | _, .nan _ => (.nan false, sigFlag [x, y])
  | .inf a, .inf b => (.inf (a != b), 0)
  | .inf a, .fin b v => if v = 0 then (.nan false, fNV) else (.inf (a != b), 0)
  | .fin a u, .inf b => if u = 0 then (.nan false, fNV) else (.inf (a != b), 0)
  | .fin a u, .fin b v => (.fin (a != b) (u * v), 0)

/-- The exact a × b + c; 0 × ∞ is invalid even with a quiet NaN c (R309). -/
def fpFma (md : Mode) (x y z : Fp) : Fp × Nat :=
  let (p, f) := fpMul x y
  match z with
  | .nan _ => (.nan false, f ||| sigFlag [x, y, z])
  | _ => if p.isNan then (p, f) else fpAdd md p z

/-- The exact quotient. -/
def fpDiv (x y : Fp) : Fp × Nat :=
  match x, y with
  | .nan _, _ => (.nan false, sigFlag [x, y])
  | _, .nan _ => (.nan false, sigFlag [x, y])
  | .inf _, .inf _ => (.nan false, fNV)
  | .inf a, .fin b _ => (.inf (a != b), 0)
  | .fin a _, .inf b => (.fin (a != b) 0, 0)
  | .fin a u, .fin b v =>
    if v = 0 then (if u = 0 then (.nan false, fNV) else (.inf (a != b), fDZ)) else (.fin (a != b) (u / v), 0)

/-- The whole part of a square root, bit by bit. -/
def isqrtFrom : Nat → Nat → Nat → Nat
  | 0, r, _ => r
  | b + 1, r, n => isqrtFrom b (if (r + 2 ^ b) * (r + 2 ^ b) ≤ n then r + 2 ^ b else r) n

/-- A number that rounds to any format as the square root of `x` does: the root itself, or half a unit past its first
128 bits. -/
def ratSqrt (x : Rat) : Rat :=
  if x = 0 then 0
  else
    let k := 127 - log2Floor x / 2
    let y := x * pow2 (2 * k)
    let n := (ratFloor y).toNat
    let r := isqrtFrom 130 0 n
    (if (r * r : Nat) = y then (r : Rat) else (r : Rat) + 1 / 2) * pow2 (-k)

/-- The exact square root. -/
def fpSqrt (x : Fp) : Fp × Nat :=
  match x with
  | .nan _ => (.nan false, sigFlag [x])
  | .inf a => if a then (.nan false, fNV) else (.inf false, 0)
  | .fin a u => if u = 0 then (.fin a 0, 0) else if a then (.nan false, fNV) else (.fin false (ratSqrt u), 0)

/-- The order of FMIN and FMAX: −0 below +0 (R308). -/
def fpBelow (x y : Fp) : Bool :=
  match x, y with
  | .inf a, .inf b => a && !b
  | .inf a, _ => a
  | _, .inf b => !b
  | .fin a u, .fin b v =>
    decide (signedRat a u < signedRat b v) || (decide (signedRat a u = signedRat b v) && a && !b)
  | _, _ => false

/-- The smaller (R308, R309). -/
def fpMin (x y : Fp) : Fp × Nat :=
  let f := sigFlag [x, y]
  if x.isNan then (if y.isNan then (.nan false, f) else (y, f))
  else if y.isNan then (x, f) else (if fpBelow y x then y else x, f)

/-- The larger (R308, R309). -/
def fpMax (x y : Fp) : Fp × Nat :=
  let f := sigFlag [x, y]
  if x.isNan then (if y.isNan then (.nan false, f) else (y, f))
  else if y.isNan then (x, f) else (if fpBelow x y then y else x, f)

/-- Numerical less-than; zeros of either sign are equal (R310). -/
def fpLt (x y : Fp) : Bool :=
  match x, y with
  | .inf a, .inf b => a && !b
  | .inf a, .fin _ _ => a
  | .fin _ _, .inf b => !b
  | .fin a u, .fin b v => decide (signedRat a u < signedRat b v)
  | _, _ => false

/-- Numerical equality; zeros of either sign are equal (R310). -/
def fpEq (x y : Fp) : Bool :=
  match x, y with
  | .inf a, .inf b => a == b
  | .fin a u, .fin b v => decide (signedRat a u = signedRat b v)
  | _, _ => false

/-- A value rounded to an integral value in its own format (R315). -/
def fpIntegral (md : Mode) (x : Fp) : Fp × Nat :=
  match x with
  | .fin a u => (.fin a (roundMag md a u : Nat), 0)
  | .inf a => (.inf a, 0)
  | .nan s => (.nan false, if s then fNV else 0)

/-- A value rounded to an integer and clamped to [lo, hi] (R198). -/
def fpToInt (md : Mode) (lo hi : Int) (x : Fp) : Int × Nat :=
  match x with
  | .nan _ => (0, fNV)
  | .inf a => (if a then lo else hi, fNV)
  | .fin a u =>
    let n : Int := roundMag md a u
    let v := if a then -n else n
    if v < lo then (lo, fNV) else if hi < v then (hi, fNV) else (v, if (n : Rat) = u then 0 else fNX)

/-- A value converted to a narrow-float code (R198); a signalling NaN raises NV as everywhere (R192). A negative value that
rounds to zero takes code 0. -/
def NfDesc.convert (d : NfDesc) (md : Mode) (x : Fp) : Nat × Nat :=
  let sat (neg : Bool) : Nat × Nat :=
    (if neg && !d.sgn then 0 else d.topCode neg + (if neg then 2 ^ (d.n - 1) else 0), fOF ||| fNX)
  match x with
  | .nan sig => if d.nan then (2 ^ d.n - 1, if sig then fNV else 0) else (0, fNV)
  | .inf neg => sat neg
  | .fin neg u =>
    if u = 0 then (0, 0)
    else
      let emin : Int := 1 - d.bias
      let e := if d.e = 0 then emin else max (log2Floor u) emin
      let q := e - d.m
      let base (e : Int) : Int := if d.e = 0 then 0 else (e + d.bias - 1) * (2 ^ d.m : Nat)
      let n := roundMag md neg (u / pow2 q) (if log2Floor u < emin then 0 else base e)
      let v := (n : Rat) * pow2 q
      let free := log2Floor u - d.m
      let tiny := if d.e = 0 then decide (u < pow2 (emin - d.m))
        else decide (log2Floor u < emin) && decide ((roundMag md neg (u / pow2 free) (base (log2Floor u)) : Rat) * pow2 free < pow2 emin)
      let fl := if v = u then 0 else if tiny then fUF ||| fNX else fNX
      if n = 0 then (0, if neg && !d.sgn then fUF ||| fNX else fl)
      else if (neg && !d.sgn) || decide (d.top neg < v) then sat neg
      else
        let code := if d.e = 0 ∨ log2Floor u < emin then n else (e + d.bias).toNat * 2 ^ d.m + n - 2 ^ d.m
        (code + (if neg then 2 ^ (d.n - 1) else 0), fl)

/-- A narrow-float value as a floating value: the sign of a zero has no effect (R187). -/
def FVal.fp : FVal → Fp
  | .num x => fpOf false x
  | .inf a => .inf a
  | .nan => .nan false

end Sys2Proof.Machine
end

