-- ==== Sys2Proof/Machine/Regs.lean ====
section
/-! DEFINITION. Reading and writing warps, workgroups, cores and registers, each through one accessor; and what stops
an access: a trap, a translation fault, a machine check, or a wait. -/

namespace Sys2Proof.Machine

/-- A user-level trap (R233): cause, reason, detail, the address it reports, and the thread of a lane instruction. -/
structure Trap where
  cause : Nat
  reason : Nat := 0
  detail : Nat := 0
  addr : Word := 0
  thread : Option Nat := none
  deriving DecidableEq, Repr

/-- What ends an instruction other than its own effect. -/
inductive Stop where
  /-- a user-level trap (R232) -/
  | trap (t : Trap)
  /-- a translation fault: the access parks (R44) -/
  | fault (k : FaultKey) (reason level : Nat) (va : Word)
  /-- MACHINE_CHECK (R465) -/
  | check (reason : Nat)
  /-- the instruction waits, with what it has already done -/
  | park (p : Park) (s : State)
  /-- another stop, after what the walk of the access has set (R26) -/
  | late (s : State) (e : Stop)
  deriving DecidableEq, Repr

/-- What a walk has set stays when the access is then refused (R26). -/
def State.keep {α : Type} (s : State) : Except Stop α → Except Stop α
  | .ok x => .ok x
  | .error (.trap t) => .error (.late s (.trap t))
  | .error (.check r) => .error (.late s (.check r))
  | .error e => .error e

/-- The causes of R233. -/
def illegal : Stop := .trap { cause := 0x01 }
def maskStack : Stop := .trap { cause := 0x01, reason := 0x01 }
def memoryModel (a : Word) : Stop := .trap { cause := 0x03, addr := a }
def stackLimit : Stop := .trap { cause := 0x04 }
def gangMismatch : Stop := .trap { cause := 0x05 }
def gangOrphan : Stop := .trap { cause := 0x06 }
def spRange (a : Word) : Stop := .trap { cause := 0x08, addr := a }
def clusterRange (a : Word) : Stop := .trap { cause := 0x09, addr := a }
def staleTid (a : Word) : Stop := .trap { cause := 0x0A, addr := a }
def syncBlock (a : Word) : Stop := .trap { cause := 0x0B, addr := a }
def kilnAccess (r : Nat) (a : Word) : Stop := .trap { cause := 0x0C, reason := r, addr := a }
def capability (r : Nat) (a : Word) : Stop := .trap { cause := 0x0D, reason := r, addr := a }
def noPeer (a : Word) : Stop := .trap { cause := 0x0E, addr := a }
def remoteFault (r d : Nat) (a : Word) : Stop := .trap { cause := 0x0F, reason := r, detail := d, addr := a }
def badFormat : Stop := .trap { cause := 0x10 }
def alignment (a : Word) : Stop := .trap { cause := 0x11, addr := a }
def privileged : Stop := .trap { cause := 0x12 }
def regRange (r : Nat) : Stop := .trap { cause := 0x13, reason := r }

/-- The KILN_ACCESS reasons of R101. -/
def kState : Nat := 1
def kMixed : Nat := 2
def kConfined : Nat := 3
def kEgress : Nat := 4

/-- `c` must hold, or `e` stops the instruction. -/
def need (c : Bool) (e : Stop) : Except Stop Unit := if c then .ok () else .error e

/-- An address is a multiple of `n`, or ALIGNMENT (R263 step 4). -/
def aligned (a : Word) (n : Nat) : Except Stop Unit := need (a.toNat % n == 0) (alignment a)

/-- The warp at an index. -/
def State.warp? (s : State) (i : Nat) : Option Warp := s.warps[i]?

/-- A warp put at an index. -/
def State.setWarp (s : State) (i : Nat) (w : Warp) : State := { s with warps := s.warps.set i w }

/-- A warp changed at an index. -/
def State.modWarp (s : State) (i : Nat) (f : Warp → Warp) : State := { s with warps := s.warps.modify i f }

/-- No workgroup: what an index outside the list reads as. -/
def Workgroup.none : Workgroup :=
  { live := false, launch := 0, core := 0, slot := 0, ctx := 0, part := 0, level := 0, ordinal := 0, member := 0,
    cluster := .none, cert := false, witness := .none, age := 0, code := 0, frame := 0, widBase := 0, spBase := 0,
    spBytes := 0, tileMap := [], tiles := 0, accMap := [], accs := 0, splitFirst := 0, splitEnd := 0, splitFix := 0,
    mxcr := [], arrivals := [], slots := [], exited := false, saved := .none, away := false, stopping := .none,
    store := {} }

/-- A warp as R224 starts it, but for what its work record and launch header give. -/
def Warp.blank : Warp :=
  { live := false, wg := 0, idx := 0, slot := 0, pc := 0, s := [], v := [], p := [], aBase := [], aStride := [(0, 1)],
    k := [], kTag := 0, held := 0, queue := [], hblock := .none, lane := false, arithCtl := 0, modQ := 0, stackLim := 0,
    trapCause := 0, trapPc := 0, trapLpc := 0, trapAddr := 0, trapVec := 0, lpcWritten := false, laneBase := 0,
    wid := 0, mon := .none, bar := .none, gang := .none, qfence := .none, growTick := .none, mapped := .none, laneLines := []
    laneSent := false, owed := (0, []), record := .none, park := .run }

/-- The workgroup at an index. -/
def State.wg (s : State) (i : Nat) : Workgroup := s.wgs.getD i Workgroup.none

/-- A workgroup put at an index. -/
def State.setWg (s : State) (i : Nat) (g : Workgroup) : State := { s with wgs := s.wgs.set i g }

/-- The workgroup of a warp. -/
def State.wgOf (s : State) (w : Warp) : Workgroup := s.wg w.wg

/-- A VS core. -/
def State.core (s : State) (c : Nat) : Core := Tab.get Core.fresh s.cores c

/-- A VS core put back. -/
def State.setCore (s : State) (c : Nat) (x : Core) : State := { s with cores := Tab.set Core.fresh s.cores c x }

/-- A core has from now on one thing less that keeps it from being gated (R466). -/
def State.idleFrom (s : State) (c : Nat) : State :=
  if 256 ≤ c then s else s.setCore c { s.core c with idleSince := s.tick }

/-- Events of a kind counted at a core (R285, R488). -/
def State.count (s : State) (core ev n : Nat) : State :=
  let c := s.core core
  let hits := c.perfSel.filter fun e => e.2.toNat == ev
  if hits.isEmpty then s
  else
    let t := hits.foldl (fun t e => Tab.set 0 t e.1 (Tab.get 0 t e.1 + BitVec.ofNat 64 n)) c.perfCnt
    s.setCore core { c with perfCnt := t }

/-- The next free value of a kind, and the state whose counter has moved past it (entry 4). -/
def State.free {α : Type} (s : State) (f : Nat → α) : α × State := (f s.freeCtr, { s with freeCtr := s.freeCtr + 1 })

/-- A message that leaves the package (entry 5). -/
def State.send (s : State) (m : Msg) : State := { s with outbox := m :: s.outbox }

/-- The package VS cluster of a VS core (R3): course × 16 + cluster of the course. -/
def coreCluster (c : Nat) : Nat := c / 4

/-- The course of a VS core (R3). -/
def coreCourse (c : Nat) : Nat := c / 64

/-- A context descriptor (R19). -/
def State.ctxDesc (s : State) (c : Nat) : BitVec 512 := Tab.get 0 s.xlat.ctxTab c

/-- The context exists (R19). -/
def State.ctxValid (s : State) (c : Nat) : Bool := bit (s.ctxDesc c) 63

/-- SYS of a context (R19). -/
def State.ctxSys (s : State) (c : Nat) : Bool := bit (s.ctxDesc c) 62

/-- WITNESS of a context (R19). -/
def State.ctxWitness (s : State) (c : Nat) : Bool := bit (s.ctxDesc c) 61

/-- HOST of a context (R19). -/
def State.ctxHost (s : State) (c : Nat) : Bool := bit (s.ctxDesc c) 60

/-- The partition of a context (R19). -/
def State.ctxPart (s : State) (c : Nat) : Nat := field (s.ctxDesc c) 59 56

/-- A partition descriptor (R20). -/
def State.partDesc (s : State) (p : Nat) : BitVec 256 := Tab.get 0 s.xlat.partTab p

/-- The partition exists (R20). -/
def State.partValid (s : State) (p : Nat) : Bool := bit (s.partDesc p) 192

/-- The address of a partition's fault ring block (R20). -/
def State.faultRing (s : State) (p : Nat) : Nat := field (s.partDesc p) 179 137 * 512

/-- The partition owns package cluster `c` (R20). -/
def State.partOwns (s : State) (p c : Nat) : Bool := s.partValid p && bit (s.partDesc p) c

/-- A scalar register. -/
def Warp.sget (w : Warp) (r : SReg) : Word := Tab.get 0 w.s r.val

/-- A scalar register written. -/
def Warp.sset (w : Warp) (r : SReg) (x : Word) : Warp := { w with s := Tab.set 0 w.s r.val x }

/-- The stack limit L (R276). -/
def Warp.limit (w : Warp) : Nat := field w.stackLim 63 4 * 16

/-- A scalar destination written under the check of s62 (R276). -/
def Warp.writeS (w : Warp) (r : SReg) (x : Word) : Except Stop Warp :=
  if r = 62 ∧ x.toNat < w.limit then .error stackLimit else .ok (w.sset r x)

/-- A lane register of a thread. -/
def Warp.vget (w : Warp) (n : Nat) (t : Nat) : LaneWord := Tab.get 0 w.v (n * 32 + t)

/-- A lane register of a thread written. -/
def Warp.vset (w : Warp) (n : Nat) (t : Nat) (x : LaneWord) : Warp := { w with v := Tab.set 0 w.v (n * 32 + t) x }

/-- A 64-bit lane value: an aligned pair, the low word first (R194). -/
def Warp.vget64 (w : Warp) (n : Nat) (t : Nat) : Word := (w.vget (n + 1) t) ++ (w.vget n t)

/-- A predicate register; p0 reads as 1 (R219). -/
def Warp.pget (w : Warp) (n : PReg) : BitVec 32 := if n = 0 then BitVec.allOnes 32 else Tab.get 0 w.p n.val

/-- Predicate bits of the threads in a mask written; a write of p0 has no effect (R219). -/
def Warp.pset (w : Warp) (n : PReg) (mask x : BitVec 32) : Warp :=
  if n = 0 then w else { w with p := Tab.set 0 w.p n.val ((w.pget n &&& ~~~mask) ||| (x &&& mask)) }

/-- The base of an affine register. -/
def Warp.aget (w : Warp) (n : AReg) : Word := Tab.get 0 w.aBase n.val

/-- The stride of an affine register. -/
def Warp.stride (w : Warp) (n : AReg) : BitVec 32 := Tab.get 0 w.aStride n.val

/-- An affine register written. -/
def Warp.aset (w : Warp) (n : AReg) (base : Word) (stride : BitVec 32) : Warp :=
  { w with aBase := Tab.set 0 w.aBase n.val base, aStride := Tab.set 0 w.aStride n.val stride }

/-- The value of an affine register for a thread (R223). -/
def Warp.affine (w : Warp) (n : AReg) (t : Nat) : Word :=
  w.aget n + (w.stride n).signExtend 64 * BitVec.ofNat 64 t

/-- A capability register. -/
def Warp.kget (w : Warp) (n : KReg) : BitVec 128 := Tab.get 0 w.k n.val

/-- The tag of a capability register. -/
def Warp.ktag (w : Warp) (n : KReg) : Bool := w.kTag.getLsbD n.val

/-- A capability register written with its tag. -/
def Warp.kset (w : Warp) (n : KReg) (x : BitVec 128) (tag : Bool) : Warp :=
  { w with k := Tab.set 0 w.k n.val x, kTag := setBit w.kTag n.val tag }

/-- A handler is running (R236). -/
def Warp.active (w : Warp) : Bool := bit w.trapCause 56

/-- The blocks that may run now, head first: the handler's own, or the lane queue (R234). -/
def Warp.blocks (w : Warp) : List Block := if w.active then w.hblock.toList else w.queue

/-- The head block put back, or completed when `none`. -/
def Warp.setHead (w : Warp) (b : Option Block) : Warp :=
  if w.active then { w with hblock := b }
  else { w with queue := match b with | some b => b :: w.queue.tail | none => w.queue.tail }

/-- The work-record extent of a trap in trap_cause (R236). -/
def Trap.word (t : Trap) : Word :=
  BitVec.ofNat 64 (t.cause + t.detail % 2 ^ 32 * 2 ^ 8 + t.reason % 2 ^ 8 * 2 ^ 40 + t.thread.getD 0 * 2 ^ 48
    + (if t.thread.isSome then 2 ^ 55 else 0) + 2 ^ 56)

/-- The warps of a workgroup, by index. -/
def State.warpsOf (s : State) (g : Nat) : List Nat :=
  (List.range s.warps.length).filter fun i => match s.warps[i]? with | some w => w.live && w.wg == g | none => false

/-- The workgroups that stand on a core. -/
def State.wgsOn (s : State) (c : Nat) : List Nat :=
  (List.range s.wgs.length).filter fun i => let g := s.wg i; g.live && g.core == c && g.saved.isNone

end Sys2Proof.Machine
end

