-- ==== Sys2Proof/Machine/Mem.lean ====
section
/-! DEFINITION. Memory as every agent outside an L1 sees it: the physical space (R17), the home of a line with its
directory entry (R57-R65), scratchpad rows that hold mapped lines (R66-R69), capability tags (R159), poison (R78) and
the monitors a write wakes (R152). -/

namespace Sys2Proof.Machine

/-- The ranges of R17. -/
inductive PaKind where
  | hbm | far | ctl | host | nothing
  deriving DecidableEq, Repr

/-- The populated capacity of the far tier (R17, R86, R486). -/
def HostIf.farBytes (h : HostIf) : Nat :=
  (List.range 16).foldl (fun n p => if Tab.get 0xFF h.farSet p = 0xFF then n else n + Tab.get 0 h.farPort p) 0

/-- The ports of a far-tier interleave set, in port order, and its bytes (R86, R486). -/
def HostIf.farPorts (h : HostIf) (set : Nat) : List Nat := (List.range 16).filter fun p => Tab.get 0xFF h.farSet p == set
def HostIf.farSetBytes (h : HostIf) (set : Nat) : Nat := ((h.farPorts set).map fun p => Tab.get 0 h.farPort p).sum

/-- Where byte `off` of the far tier lies: the sets stand in ascending order, and within one its ports take turns in units
of 4 KiB (R86, R486). The port and the byte of its memory. -/
def HostIf.farPlace (h : HostIf) : List Nat → Nat → Option (Nat × Nat)
  | [], _ => none
  | set :: rest, off =>
    let ports := h.farPorts set
    if off < h.farSetBytes set then
      some (ports.getD (off / 0x1000 % ports.length) 0, off / 0x1000 / ports.length * 0x1000 + off % 0x1000)
    else h.farPlace rest (off - h.farSetBytes set)

/-- Memory's canonical form: addresses strictly rising, and no listed byte equal to zero, what an unlisted one reads as
(entry 3). -/
def Memory.wf (m : List Host.Cell) : Bool := Tab.wf 0 m

/-- First address of the far tier. -/
def farBase : Nat := 0x100000000000

/-- The lowest reserve frame (R84). -/
def State.boundary (s : State) : Nat := field s.rel.reserve 51 16

/-- The reserve left, in MiB (R84). -/
def State.reserveLeft (s : State) : Nat := field s.rel.reserve 15 0

/-- A frame of the reserve that a code change or a drop has consumed, from the top down: it is backed no more (R82). -/
def State.unbacked (s : State) (pa : Nat) : Bool :=
  decide (s.boundary * 0x10000 + s.reserveLeft * 0x100000 ≤ pa ∧ pa < 0xBF00000000)

/-- The range a physical address lies in (R17); a consumed frame of the reserve lies in none (R82). -/
def State.paKind (s : State) (pa : Nat) : PaKind :=
  if pa < 0xC000000000 then (if s.unbacked pa then .nothing else .hbm)
  else if farBase ≤ pa ∧ pa < farBase + s.host.farBytes then .far
  else if 0x200000000000 ≤ pa ∧ pa < 0x200100000000 then .ctl
  else if 0x8000000000000 ≤ pa ∧ pa < 0x10000000000000 then .host
  else .nothing

/-- HBM or far tier: a location with a home (R57). -/
def PaKind.isMem : PaKind → Bool
  | .hbm | .far => true
  | _ => false

/-- The scratchpad of a core: 512 KiB (R49). -/
def spStride : Nat := 2 ^ 19

/-- The hash version that locates a line of HBM (R80, R81); the far tier has none. -/
def State.hashVersionOf (s : State) (line : Nat) : Nat :=
  let r := Tab.get (BitVec.ofNat 128 (2 ^ 127)) s.rel.regions (line / 2 ^ 23)
  if 768 ≤ line / 2 ^ 23 then 0
  else if bit r 126 && decide (line % 2 ^ 23 < field r 87 64) then field r 47 32 else field r 15 0

/-- The pseudo-channel of the package, stack × 64 + pseudo-channel, that a hash version gives a grain; those of
neighbouring grains differ (R74, R75): an odd grain takes the first of three that neither neighbour has. -/
def grainChannel (v g : Nat) : Nat :=
  let raw (g : Nat) : Nat := (Config.hashChannel v g).val
  if g % 2 = 0 then raw g
  else (((List.range 3).map fun i => (raw g + i) % 768).find? fun c => c != raw (g - 1) && c != raw (g + 1)).getD 0

/-- The bank, by its number stack × 4,096 + pseudo-channel × 64 + bank (R74), that holds a grain under a hash version: of
the banks of its pseudo-channel one that the version does not leave out (R75, R80). -/
def State.grainBank (s : State) (v g : Nat) : Nat :=
  let c := 64 * grainChannel v g
  let b := (Config.hashBank v g).val
  let out := Tab.get [] s.rel.hashOut v
  c + (((List.range 64).map fun i => (b + i) % 64).find? fun k => !out.contains (c + k)).getD b

/-- The bank that holds a line of HBM (R74, R75). -/
def State.bankOf (s : State) (line : Nat) : Nat := s.grainBank (s.hashVersionOf line) (line / 4)

/-- The stack of a bank (R74). -/
def bankStack (b : Nat) : Nat := b / 4096

/-- The course whose VS die controls a stack: die c has stacks 3c to 3c + 2 (R74). -/
def stackCourse (k : Nat) : Nat := k / 3

/-- The course that homes a line (R57): for HBM that of the die which controls the line's stack. -/
def State.homeCourse (s : State) (line : Nat) : Nat :=
  if line * 128 < 0xC000000000 then stackCourse (grainChannel (s.hashVersionOf line) (line / 4) / 64) else (Config.farHome line).val

/-- A line homed on a course (R57). -/
def State.homedOn (s : State) (k line : Nat) : Bool := s.homeCourse line == k

/-- The slice of the package that homes a line, by course × 16 + slice (R57). -/
def State.homeSlice (s : State) (line : Nat) : Nat :=
  16 * s.homeCourse line + (Config.homeSlice (s.hashVersionOf line) (line / 4)).val

/-- The cell of the scratchpad row that holds a mapped line (R68). -/
def Mem.mapCell (m : Mem) (line : Nat) : Option Nat :=
  m.maps.findSome? fun x => (x.lines.idxOf? line).map fun i => x.row + 128 * i

/-- The directory entry of a line (R58). -/
def Mem.dirOf (m : Mem) (line : Nat) : DirEntry := Tab.get .uncached m.dir line

/-- A directory entry put for a line; UNCACHED entries are not kept (R58). -/
def Mem.setDir (m : Mem) (line : Nat) (d : DirEntry) : Mem := { m with dir := Tab.set .uncached m.dir line d }

/-- One byte as its home serves it: a mapped row, an owner's dirty byte, or memory (R59, R68). -/
def Mem.byteAt (m : Mem) (pa : Nat) : Byte :=
  match m.mapCell (pa / 128) with
  | some c => Tab.get 0 m.sp (c + pa % 128)
  | none =>
    let o := Tab.get SliceLine.none m.slice (pa / 128)
    if o.mask.getLsbD (pa % 128) then BitVec.ofNat 8 (o.data.toNat / 2 ^ (8 * (pa % 128)))
    else Tab.get 0 m.bytes pa

/-- `n` bytes from `pa` as their homes serve them, little-endian. -/
def Mem.readCoh (m : Mem) (pa : Nat) : Nat → Nat
  | 0 => 0
  | n + 1 => (m.byteAt pa).toNat + 256 * m.readCoh (pa + 1) n

/-- A sector is poisoned as its home serves it (R76, R78): a mapped line's sectors are its row's, and one that its owner
has written whole is the owner's. -/
def Mem.sectorPoisoned (m : Mem) (sec : Nat) : Bool :=
  match m.mapCell (sec / 4) with
  | some c => Tab.get false m.spPoison (c / 32 + sec % 4)
  | none => Tab.get false m.poison sec &&
      (Tab.get SliceLine.none m.slice (sec / 4)).mask.toNat / 2 ^ (32 * (sec % 4)) % 2 ^ 32 != 2 ^ 32 - 1

/-- A byte as a write that its home holds will leave it. -/
def HeldWrite.over (h : HeldWrite) (pa : Nat) (b : Byte) : Byte :=
  if h.line = pa / 128 ∧ h.mask / 2 ^ (pa % 128) % 2 = 1 then BitVec.ofNat 8 (h.data / 2 ^ (8 * (pa % 128))) else b

/-- `n` bytes from `pa` as the device knows what it keeps there itself: its own writes count though a home still holds
them. -/
def State.readDev (s : State) (pa : Nat) : Nat → Nat
  | 0 => 0
  | n + 1 => ((s.xlat.heldWrites.filter fun h => h.host.isNone).foldl (fun b h => h.over pa b) (s.mem.byteAt pa)).toNat + 256 * s.readDev (pa + 1) n

/-- Whether any sector of [pa, pa + n) is poisoned (R76, R78). -/
def Mem.poisoned (m : Mem) (pa n : Nat) : Bool :=
  (List.range ((pa + n - 1) / 32 + 1 - pa / 32)).any fun i => m.sectorPoisoned (pa / 32 + i)

/-- The tag of the granule at `pa` (R159); the far tier returns 0, mapped or not (R87). -/
def Mem.tagAt (m : Mem) (pa : Nat) : Bool :=
  decide (pa < 0xC000000000) && match m.mapCell (pa / 128) with
    | some c => Tab.get false m.spTags (c / 16 + pa % 128 / 16)
    | none => Tab.get false m.tags (pa / 16)

/-- Tags cleared for the granules of a line a byte mask touches (R159). -/
def clearTags (t : Tab Bool) (first mask : Nat) : Tab Bool :=
  (List.range 8).foldl (fun t i => if mask / 2 ^ (16 * i) % 2 ^ 16 = 0 then t else Tab.set false t (first + i) false) t

/-- Poison cleared for the sectors of a line a byte mask covers whole (R78). -/
def clearPoison (t : Tab Bool) (first mask : Nat) : Tab Bool :=
  (List.range 4).foldl
    (fun t i => if mask / 2 ^ (32 * i) % 2 ^ 32 = 2 ^ 32 - 1 then Tab.set false t (first + i) false else t) t

/-- An owner's dirty bytes of a line written to memory (R59, R60); a sector it has written whole is poisoned no more
(R78). -/
def Mem.recall (m : Mem) (line : Nat) : Mem :=
  let o := Tab.get SliceLine.none m.slice line
  if o = SliceLine.none then m
  else { m with bytes := writeMasked m.bytes (line * 128) 128 o.mask.toNat o.data.toNat
                poison := clearPoison m.poison (line * 4) o.mask.toNat
                slice := Tab.set SliceLine.none m.slice line SliceLine.none }

/-- The home serves a read by cluster `c` (R59). -/
def Mem.homeRead (m : Mem) (c line : Nat) : Mem :=
  match m.dirOf line with
  | .uncached => m.setDir line (.shared false [c])
  | .shared vec l =>
    if l.contains c then m else m.setDir line (.shared (vec || 4 ≤ l.length) (l ++ [c]))
  | .owned d => if d = c then m else (m.recall line).setDir line (.shared false [d, c])
  | .mapped _ => m

/-- The home serves an uncached load: an owner's dirty bytes are recalled first (R61). The spec does not say what entry
that leaves: the former owner keeps a clean copy, as it does for a read (DESIGN CHOICE, entry 61). -/
def Mem.homeLoad (m : Mem) (line : Nat) : Mem :=
  match m.dirOf line with
  | .owned d => (m.recall line).setDir line (.shared false [d])
  | _ => m

/-- The home gives ownership to cluster `c` (R59). -/
def Mem.homeOwn (m : Mem) (c line : Nat) : Mem :=
  match m.dirOf line with
  | .mapped _ => m
  | .owned d => if d = c then m else (m.recall line).setDir line (.owned c)
  | _ => m.setDir line (.owned c)

/-- The home takes the line for itself: every sharer invalidated, dirty bytes recalled (R61, R64). -/
def Mem.homeTake (m : Mem) (line : Nat) : Mem :=
  match m.dirOf line with
  | .mapped _ => m
  | _ => (m.recall line).setDir line .uncached

/-- Masked bytes of a line written at its home, in memory or in the row that holds it, with their tags and poison. -/
def Mem.writeHome (m : Mem) (line mask data : Nat) : Mem :=
  match m.mapCell line with
  | some c => { m with sp := writeMasked m.sp c 128 mask data
                       spTags := clearTags m.spTags (c / 16) mask
                       spPoison := clearPoison m.spPoison (c / 32) mask }
  | none =>
    let m := m.homeTake line
    { m with bytes := writeMasked m.bytes (line * 128) 128 mask data
             tags := clearTags m.tags (line * 8) mask
             poison := clearPoison m.poison (line * 4) mask }

/-- Masked bytes of a line written at cluster `c`'s slice, which the home makes the owner (R54, R59). -/
def Mem.writeSlice (m : Mem) (c line mask data : Nat) : Mem :=
  match m.mapCell line with
  | some _ => m.writeHome line mask data
  | none =>
    let m := m.homeOwn c line
    let o := Tab.get SliceLine.none m.slice line
    let k := BitVec.ofNat 128 mask
    { m with slice := Tab.set SliceLine.none m.slice line
               { mask := o.mask ||| k, data := mergeLine o.data (BitVec.ofNat 1024 data) k }
             tags := clearTags m.tags (line * 8) mask
             poison := clearPoison m.poison (line * 4) mask }

/-- A cluster's copy of a line leaves its entry: a sharer is removed, an owner's bytes are written (R59). -/
def Mem.leave (m : Mem) (cluster line : Nat) : Mem :=
  match m.dirOf line with
  | .shared vec l =>
    let l := l.filter fun c => c != cluster
    m.setDir line (if l.isEmpty then .uncached else .shared vec l)
  | .owned c => if c = cluster then (m.recall line).setDir line .uncached else m
  | _ => m

/-- The clusters that hold a copy of a line (R58). -/
def DirEntry.holders : DirEntry → List Nat
  | .shared _ l => l
  | .owned c => [c]
  | _ => []

/-- A watch that a write to, or the loss of, memory line `line` concerns (R152, R153): the line itself, or a word of the
row that holds it while it is mapped. -/
def Mem.watches (m : Mem) (line : Nat) (w : Watch) : Bool :=
  match w with
  | .line l => l == line
  | .word c => match m.mapCell line with
    | some r => decide (r ≤ c ∧ c < r + 128)
    | none => false

/-- Every monitor that passes a test has its wake (R152). -/
def State.wakeIf (s : State) (p : Warp → Watch → Bool) : State :=
  { s with warps := s.warps.map fun w =>
      match w.mon with
      | some m => if p w m.watch then { w with mon := some { m with hit := true } } else w
      | none => w }

/-- Every monitor on a line, under its address or its row's, has its wake (R152, R153). -/
def State.wakeLine (s : State) (line : Nat) : State := s.wakeIf fun _ w => s.mem.watches line w

/-- The cores of the cluster of core `c`. -/
def clusterCores (c : Nat) : List Nat := (List.range 4).map fun i => c / 4 * 4 + i

/-- The monitors of one core's cluster on a line have their wake (R152). -/
def State.wakeCluster (s : State) (c line : Nat) : State :=
  s.wakeIf fun x w => s.mem.watches line w && (s.wg x.wg).core / 4 == c / 4

/-- The monitors of some package clusters on a line have their wake: their copy is invalidated or evicted (R152). -/
def State.wakeHolders (s : State) (clusters : List Nat) (line : Nat) : State :=
  s.wakeIf fun x w => s.mem.watches line w && clusters.contains ((s.wg x.wg).core / 4)

/-- The translations derived from a line are discarded and its presence vector cleared (R39). -/
def State.untrack (s : State) (line : Nat) : State :=
  if Tab.get 0 s.xlat.tdir line = 0 then s
  else { s with xlat := { s.xlat with tdir := Tab.set 0 s.xlat.tdir line 0
                                      tlb := s.xlat.tlb.filter fun e => !e.lines.contains line } }

/-- A copy of a line leaves a cluster, whose monitors on it have their wake (R59, R152). -/
def State.leaveLine (s : State) (cluster line : Nat) : State :=
  ({ s with mem := s.mem.leave cluster line }).wakeHolders [cluster] line

/-- The home takes a line from every cluster that holds it (R61, R64); their monitors have their wake (R152). -/
def State.homeTake (s : State) (line : Nat) : State :=
  let h := (s.mem.dirOf line).holders
  let s := { s with mem := s.mem.homeTake line }
  if h.isEmpty then s else s.wakeHolders h line

/-- The set of a line's directory entry, of the whole package (R60). -/
def State.dirSetOf (s : State) (line : Nat) : Nat := 8192 * s.homeSlice line + (Config.dirSet line).val

/-- What gives up its place in a full set: the one an event names, else a free value (entry 6). -/
def State.victim (s : State) : Option Nat → Nat × State
  | some n => (n, s)
  | none => s.free Config.freeChoice

/-- The number of the die of a package cluster (R38). -/
def clusterDie (c : Nat) : Nat := c / 16

/-- The link from one die to another, by the numbers of R38. -/
def State.link (s : State) (a b : Nat) : Link := Tab.get .awake s.rel.links (a * 11 + b)

/-- A snoop from die `a` to die `b` need not wait (R467): it can be sent, or the link is FENCED, the far die's copies were
destroyed as it became so (R42, R63), and no request has passed since that could leave it another. -/
def State.reaches (s : State) (a b : Nat) : Bool :=
  match s.link a b with
  | .awake | .fenced => true
  | _ => a == b

/-- Every die that a home must send a recall or an invalidation to can be reached: for a read the owner's, else every
holder's but the cluster's own (R59, R63). -/
def State.snoopsReach (s : State) (line : Nat) (c : Nat) (write : Bool) : Bool :=
  s.rel.links.isEmpty || ((match s.mem.dirOf line with
    | .owned d => [d]
    | e => if write then e.holders else []).filter fun d => d != c).all fun d => s.reaches (s.homeCourse line) (clusterDie d)

/-- The home of a line is on a course in one of the given states of course_reset (R57, R470). -/
def State.homeIn (s : State) (states : List Nat) (pa : Nat) : Bool :=
  s.rel.courseReg.any fun e => states.contains (field e.2 2 0) &&
    e.1 == s.homeCourse (pa / 128)

/-- A request from a die to the home of a line, or its answer, cannot pass now (R467, R469): the home's course is fenced or in
reset, or a link between the two dies is not awake. A course declared failed answers poisoned. `none`: the home's own
die asks. -/
def State.homeAway (s : State) (die : Option Nat) (line : Nat) : Bool :=
  s.homeIn [2, 3] (line * 128) || match die with
    | none => false
    | some d => !s.rel.links.isEmpty && !s.homeIn [4] (line * 128) && d != s.homeCourse line &&
        (s.link d (s.homeCourse line) != .awake || s.link (s.homeCourse line) d != .awake)

/-- The die that a request of a package cluster comes from; none for 128, which stands for the home's own die. -/
def askDie (c : Nat) : Option Nat := if c < 128 then some (clusterDie c) else none

/-- The entries of a line's directory set, where all its 16 ways are taken and none is the line's (R60). -/
def State.dirFull (s : State) (line : Nat) : List (Nat × DirEntry) :=
  if s.mem.dir.length < 16 ∨ s.mem.dirOf line ≠ .uncached then []
  else
    let set := s.mem.dir.filter fun e => s.dirSetOf e.1 == s.dirSetOf line
    if set.length < 16 then [] else set

/-- Those of them that can give way now: the dies of their sharers or owner can be reached (R60, R63). An entry that is
MAPPED has neither sharers nor an owner. -/
def State.dirVictims (s : State) (line : Nat) : List Nat :=
  ((s.dirFull line).filter fun e => !e.2.holders.isEmpty && s.snoopsReach e.1 128 true).map fun e => e.1

/-- Room for a new entry in its set of 16 ways: an entry is freed, its sharers invalidated or its owner's bytes recalled
first (R60). What gives way in a set whose entries are all MAPPED is a point the spec leaves open: none does, and the set
holds a 17th (DESIGN CHOICE, entry 68). -/
def State.dirRoom (s : State) (line : Nat) (named : Option Nat := none) : State :=
  let can := s.dirVictims line
  if can.isEmpty then s
  else
    let (n, s) := s.victim named
    s.homeTake (can.getD (n % can.length) 0)

/-- The lines of a cluster's slice in the set of a line that it does not hold, where all its 16 ways are taken (R49). -/
def State.sliceFull (s : State) (c line : Nat) : List Nat :=
  if s.mem.dir.length < 16 ∨ (s.mem.dirOf line).holders.contains c then []
  else
    let set := s.mem.dir.filter fun e => e.2.holders.contains c && Config.sliceSet e.1 == Config.sliceSet line
    if set.length < 16 then [] else set.map fun e => e.1

/-- Those of them whose home can be told, or given their bytes, now (R59, R467). -/
def State.sliceVictims (s : State) (c line : Nat) : List Nat :=
  (s.sliceFull c line).filter fun l => !s.homeAway (askDie c) l

/-- Room for a line in a cluster's slice, of 6 MiB in 16 ways: a copy leaves, a clean one with notice and an owner's
written back (R49, R59). -/
def State.sliceRoom (s : State) (c line : Nat) (named : Option Nat := none) : State :=
  let can := s.sliceVictims c line
  if can.isEmpty then s
  else
    let (n, s) := s.victim named
    s.leaveLine c (can.getD (n % can.length) 0)

/-- A new entry for a line must wait: one of its set could give way, but not before some die can be reached (R60, R63). -/
def State.dirAwaited (s : State) (line : Nat) : Bool :=
  (s.dirFull line).any (fun e => !e.2.holders.isEmpty) && (s.dirVictims line).isEmpty

/-- A cluster's request for a line must wait for room, in its slice or at the directory (R60, R63, R467). -/
def State.roomAwaited (s : State) (c line : Nat) : Bool :=
  s.dirAwaited line || (!(s.sliceFull c line).isEmpty && (s.sliceVictims c line).isEmpty)

/-- The home serves a read by cluster `c`, which keeps a copy (R59, R60). -/
def State.homeRead (s : State) (c line : Nat) (named : Option Nat := none) : State :=
  let s := (s.sliceRoom c line named).dirRoom line named
  { s with mem := s.mem.homeRead c line }

/-- The home gives ownership to cluster `c`; the others' copies are invalidated (R59, R60, R152). -/
def State.homeOwn (s : State) (c line : Nat) (named : Option Nat := none) : State :=
  let s := (s.sliceRoom c line named).dirRoom line named
  let h := (s.mem.dirOf line).holders.filter fun d => d != c
  let s := { s with mem := s.mem.homeOwn c line }
  if h.isEmpty then s else s.wakeHolders h line

/-- The home serves an uncached load (R61). -/
def State.homeLoad (s : State) (line : Nat) : State := { s with mem := s.mem.homeLoad line }

/-- Earlier requests for a line are still incomplete at its home: a later one waits (R59). -/
def State.lineBusy (s : State) (line : Nat) : Bool :=
  (s.mem.snoopWait.any fun e => e.1 == line) || s.xlat.heldWrites.any fun h => h.line == line

/-- The home cannot perform a write to a line now (R39, R42, R59, R60, R63, R467, R475). -/
def State.writeHeld (s : State) (line c : Nat) : Bool :=
  s.lineBusy line || Tab.get 0 s.xlat.tdir line != 0 || s.mem.snoop.contains line || !s.snoopsReach line c true
    || s.homeAway (askDie c) line || (decide (c < 128) && s.roomAwaited c line)

/-- The dies whose presence bits of a line are set (R38). -/
def State.presence (s : State) (line : Nat) : List Nat :=
  (List.range 11).filter fun d => (Tab.get (0 : BitVec 11) s.xlat.tdir line).getLsbD d

/-- The host is asked for a line it may hold, unless it has been (R475). -/
def State.askHost (s : State) (line : Nat) : State :=
  if (s.mem.snoopWait.any fun e => e.1 == line) || s.xlat.heldWrites.any (fun h => h.line == line && h.waiting.contains 11) then s
  else s.send (.bisnp line)

/-- A request that must have a line to itself, or reads it, at its home: it waits while an earlier one is incomplete, while
translations derived from the line are being discarded, while the host holds it, while there is no room for a copy, and
while a die cannot be reached (R39, R42, R59, R60, R63, R467, R475). `c` is the cluster it comes from where it leaves a copy
there, else 128. -/
def State.homeReady (s : State) (line c : Nat) (write : Bool) : Except Stop State :=
  if s.lineBusy line then .error (.park .response s)
  else if s.homeAway (askDie c) line then .error (.park .response s)
  else if c < 128 ∧ s.roomAwaited c line then .error (.park .response s)
  else if write && Tab.get 0 s.xlat.tdir line != 0 then .error (.park .response s)
  else if write && s.mem.snoop.contains line then
    .error (.park .response { s.askHost line with mem := { s.mem with snoopWait := s.mem.snoopWait ++ [(line, 128)] } })
  else if !s.snoopsReach line c write then .error (.park .response s)
  else .ok s

/-- homeReady over the lines of [pa, pa + n). -/
def State.homesReady (s : State) (pa n c : Nat) (write : Bool) : Except Stop State :=
  ((List.range ((pa + n - 1) / 128 + 1 - pa / 128)).map (pa / 128 + ·)).foldlM (fun s l => s.homeReady l c write) s

/-- A masked write performed: at a cluster's slice, which its home makes the owner, or at its home. -/
def State.performWrite (s : State) (slice : Option Nat) (line mask data : Nat) : State :=
  let s := match slice with
    | some c => let s := (if (s.mem.mapCell line).isSome then s else s.homeOwn c line)
                { s with mem := s.mem.writeSlice c line mask data }
    | none => let s := s.homeTake line
              { s with mem := s.mem.writeHome line mask data }
  s.wakeLine line

/-- A masked write by any agent that does not wait for it: performed, with everything that follows from it, or held by
the home and performed when it can be (R39, R42, R59, R63, R475). -/
def State.writeVia (s : State) (slice : Option Nat) (line mask data : Nat) (host core : Option Nat := none) : State :=
  if s.writeHeld line (slice.getD 128) then
    let snooped := s.mem.snoop.contains line
    let s := if snooped then s.askHost line else s
    let h : HeldWrite := { line := line, mask := mask, data := data, slice := slice, host := host, core := core
                           waiting := s.presence line ++ (if snooped then [11] else []) }
    { s with xlat := { s.xlat with heldWrites := s.xlat.heldWrites ++ [h] } }
  else
    let s := s.performWrite slice line mask data
    match host with
    | some pa => s.send (.hostWritten pa)
    | none => s

/-- A masked write of a line at its home. -/
def State.writeLine (s : State) (line mask data : Nat) (core : Option Nat := none) : State :=
  s.writeVia none line mask data none core

/-- `n` bytes of one line written at its home. -/
def State.writePa (s : State) (pa n x : Nat) (core : Option Nat := none) : State :=
  s.writeLine (pa / 128) ((2 ^ n - 1) * 2 ^ (pa % 128)) (x % 2 ^ (8 * n) * 2 ^ (8 * (pa % 128))) core

/-- A run of bytes written at its homes, line by line: `k` lines at most. -/
def State.writeRun (s : State) (pa n x : Nat) (k : Nat) (core : Option Nat := none) : State :=
  match k with
  | 0 => s
  | k + 1 =>
    let here := min n (128 - pa % 128)
    if n = 0 then s else (s.writePa pa here x core).writeRun (pa + here) (n - here) (x / 2 ^ (8 * here)) k core

/-- A run of bytes zeroed, with its tags and poison (R29); `n` a multiple of a line. A line that is MAPPED is zeroed in the
row that holds it (R68). Of every other the directory keeps nothing: the host's copies are called back, translations
derived from it are discarded; and its monitors have their wake. -/
def State.zeroRun (s : State) (pa n : Nat) : State :=
  let out (k unit : Nat) : Bool := k * unit < pa || pa + n ≤ k * unit
  let m := s.mem
  let host := m.snoop.filter fun l => !out l 128
  let rows := m.maps.flatMap fun x => (x.lines.filter fun l => !out l 128).filterMap m.mapCell
  let keep (k unit : Nat) : Bool := rows.all fun r => k * unit < r || r + 128 ≤ k * unit
  let s := s.wakeIf fun _ w => match w with
    | .line l => !out l 128
    | .word c => rows.any fun r => decide (r ≤ c ∧ c < r + 128)
  let s := { s with
    xlat := { s.xlat with tdir := Tab.filterKeys s.xlat.tdir fun k => out k 128
                          tlb := s.xlat.tlb.filter fun e => e.lines.all fun l => out l 128 }
    mem := { m with bytes := Tab.filterKeys m.bytes fun k => out k 1
                    tags := Tab.filterKeys m.tags fun k => out k 16
                    poison := Tab.filterKeys m.poison fun k => out k 32
                    slice := Tab.filterKeys m.slice fun k => out k 128
                    sp := if rows.isEmpty then m.sp else Tab.filterKeys m.sp fun k => keep k 1
                    spTags := if rows.isEmpty then m.spTags else Tab.filterKeys m.spTags fun k => keep k 16
                    spPoison := if rows.isEmpty then m.spPoison else Tab.filterKeys m.spPoison fun k => keep k 32
                    dir := Tab.filterKeys m.dir fun k => out k 128 || (m.mapCell k).isSome
                    l1 := Tab.filterKeys m.l1 fun k => out (k % 2 ^ 45) 128
                    snoop := m.snoop.filter fun l => out l 128 } }
  host.foldl (fun s l => s.send (.bisnp l)) s

/-- A run of lines cannot be written whole yet (R29, R39, R59, R475). -/
def State.runHeld (s : State) (pa n : Nat) : Bool :=
  let within (l : Nat) : Bool := decide (pa ≤ l * 128 ∧ l * 128 < pa + n)
  (s.xlat.tdir.any fun e => within e.1) || (s.xlat.heldWrites.any fun h => within h.line)
    || (s.mem.snoopWait.any fun e => within e.1) || s.mem.snoop.any within

/-- The host is asked for every line of a run that it may hold (R475). -/
def State.askRun (s : State) (pa n : Nat) : State :=
  (s.mem.snoop.filter fun l => decide (pa ≤ l * 128 ∧ l * 128 < pa + n)).foldl
    (fun s l => if s.lineBusy l then s
      else { s.askHost l with mem := { s.mem with snoopWait := s.mem.snoopWait ++ [(l, 128)] } }) s

/-- Poison set on a sector (R78). -/
def State.poisonSector (s : State) (sec : Nat) : State :=
  match s.mem.mapCell (sec / 4) with
  | some c => { s with mem := { s.mem with spPoison := Tab.set false s.mem.spPoison (c / 32 + sec % 4) true } }
  | none => { s with mem := { s.mem with poison := Tab.set false s.mem.poison sec true } }

end Sys2Proof.Machine
end

