-- ==== Sys2Proof/Machine/Translate.lean ====
section
/-! DEFINITION. Page walks, the frame owner table and translation faults (R16-R32, R43-R48). -/

namespace Sys2Proof.Machine

/-- Who makes an access: its context, the SOURCE number of its records (R47), and its certified launch's number plus
one, 0 for any other work (R32). -/
structure Who where
  ctx : Nat
  src : Nat
  hold : Nat
  deriving DecidableEq, Repr

/-- What an access needs of a leaf (R25). -/
inductive Perm where
  | r | w | rw | x
  deriving DecidableEq, Repr

/-- A translation a walk builds: where the access lands, the leaf's bits, the entries used and the bytes covered. -/
structure Trans where
  pa : Nat
  kind : PaKind
  cache : Nat
  checked : Bool
  kiln : Bool
  size : Nat
  /-- the leaf's first byte and the bytes it maps -/
  base : Nat
  span : Nat
  used : List Nat
  leaf : Nat
  dirty : Bool
  deriving DecidableEq, Repr

/-- What bounds a walk: its reason in R43 and the level at which it ended. -/
structure WalkFault where
  reason : Nat
  level : Nat
  /-- the table entries it read -/
  used : List Nat := []
  deriving DecidableEq, Repr

/-- The index of an address's owner entry (R27). -/
def ownerIndex (pa : Nat) : Nat := if pa < farBase then pa / 0x10000 else 12582912 + (pa - farBase) / 0x200000

/-- The owner entry of an address (R27). -/
def State.ownerOf (s : State) (pa : Nat) : BitVec 32 := Tab.get 0 s.xlat.owner (ownerIndex pa)

/-- The line of the owner table that holds an entry, numbered past every line of memory: the spec does not say where in
the plumb region the table lies (R27, R82). -/
def ownerLine (i : Nat) : Nat := 2 ^ 46 + i / 32

/-- The line of the held table for the frames of an address (R28, R32): the spec does not give the table's layout, and the
model has one line stand for each GiB (entry 62). -/
def heldLine (pa : Nat) : Nat := 2 ^ 46 + 2 ^ 41 + pa / 2 ^ 30

/-- What stands in the presence vectors for a context descriptor: the dies that hold a translation built under it (R37). -/
def ctxLine (ctx : Nat) : Nat := 2 ^ 46 + 2 ^ 42 + ctx

/-- First address of the frame of an owner-table index (R27). -/
def frameAt (i : Nat) : Nat := if i < 12582912 then i * 0x10000 else farBase + (i - 12582912) * 0x200000

/-- An owner entry written by the plumb, once no translation derives from its line any more (R27, R39). -/
def State.setOwner (s : State) (i : Nat) (e : BitVec 32) : State :=
  { s with xlat := { s.xlat with owner := Tab.set 0 s.xlat.owner i e } }

/-- The holder of a frame written in the held table, whose lines are tracked as the owner table's are (R32). -/
def State.setHeld (s : State) (i n : Nat) : State :=
  { s with xlat := { s.xlat with heldBy := Tab.set 0 s.xlat.heldBy i n } }

/-- No die holds a translation derived from the owner-table and held-table lines of some frames: the plumb may write them
(R29, R32, R39). -/
def State.framesUntracked (s : State) (frames : List Nat) : Bool :=
  frames.all fun f => Tab.get 0 s.xlat.tdir (ownerLine f) == 0 && Tab.get 0 s.xlat.tdir (heldLine (frameAt f)) == 0

/-- The bytes a SPAN code covers (R27). -/
def spanBytes : Nat → Nat
  | 0 => 0x10000
  | 1 => 0x200000
  | _ => 0x40000000

/-- The bytes one owner entry covers (R27). -/
def frameBytes (pa : Nat) : Nat := if pa < farBase then 0x10000 else 0x200000

/-- A frame of [pa, pa + n) is held (R28, R32). -/
def State.anyHeld (s : State) (pa n : Nat) : Bool :=
  s.xlat.heldBy.any fun e => ownerIndex pa ≤ e.1 && e.1 ≤ ownerIndex (pa + n - 1)

/-- The owner check of R28 for a leaf of `size` bytes at `base`, with the held condition for the frame at `pa`. -/
def State.ownerOk (s : State) (w : Who) (base size pa : Nat) (kiln shared : Bool) : Bool :=
  let e := s.ownerOf base
  bit e 31 && !bit e 30 && decide (size ≤ spanBytes (field e 29 28)) && bit e 26 == kiln && bit e 27 == shared
    && field e 15 12 == s.ctxPart w.ctx && (bit e 27 || field e 7 0 == w.ctx) && !bit e 24
    && (let h := Tab.get 0 s.xlat.heldBy (ownerIndex pa); h == 0 || h == w.hold)

/-- A page-table entry with V = 1 is malformed (R24). A in a table pointer is bit [5], which R26 has the walker set:
it is not counted among the bits that must be zero (DEDUCED, entry 18). -/
def pteBad (e : BitVec 64) (level : Nat) : Bool :=
  let leaf := bit e 1
  let size := if level = 2 then 0x40000000 else if level = 1 then 0x200000 else 0x10000
  bit e 63 || bit e 7 || (leaf && 3 ≤ level) || (!leaf && level == 0) ||
  (!leaf && (field e 62 58 != 0 || bit e 6 || field e 4 2 != 0 || (2 ≤ level && field e 11 8 != 0))) ||
  (leaf && (field e 51 8 * 256 % size != 0 || field e 59 58 == 3 || (bit e 3 && !bit e 2) || (bit e 3 && bit e 4)
    || (bit e 61 && field e 59 58 != 0) || (bit e 62 && (level != 1 || !bit e 60))))

/-- The kind of what a leaf maps: its first and last byte must lie in one range (R17). -/
def State.leafKind (s : State) (e : BitVec 64) (level : Nat) : PaKind :=
  let size := if level = 2 then 0x40000000 else if level = 1 then 0x200000 else 0x10000
  let base := field e 51 8 * 256
  if s.paKind base = s.paKind (base + size - 1) then s.paKind base else .nothing

/-- A leaf into the control space from a user context, or into the host window from one without leave: PRIVILEGE,
whatever its other bits hold (R17). -/
def State.leafDenied (s : State) (w : Who) (e : BitVec 64) (level : Nat) : Bool :=
  match s.leafKind e level with
  | .ctl => !s.ctxSys w.ctx
  | .host => !s.ctxSys w.ctx && !s.ctxHost w.ctx
  | _ => false

/-- A leaf against R17, R25 and R28: its translation or the walk's fault. `tid`: the access names a tensor, so the
kiln rules of the kiln chapter take the place of KILN_DIRECT (R36). Where several of SIZE, PERMISSION, KILN_DIRECT and
OWNER hold of one leaf the spec gives no order, nor of those, RESERVED_BITS and the BAD_PA of an address that maps nothing:
the model reports RESERVED_BITS, then BAD_PA, then the first of those four in that order (DESIGN CHOICE, entry 61). -/
def State.leafCheck (s : State) (w : Who) (p : Perm) (tid : Bool) (va : Nat) (e : BitVec 64) (level entry : Nat)
    (used : List Nat) : Except WalkFault Trans :=
  let size := if level = 2 then 0x40000000 else if level = 1 then 0x200000 else 0x10000
  let base := field e 51 8 * 256
  let pa := base + va % size
  let cache := field e 59 58
  let kind := s.leafKind e level
  let permOk := match p with
    | .r => bit e 2
    | .w => bit e 3
    | .rw => bit e 2 && bit e 3
    | .x => bit e 4
  let odd := cache != 2 || bit e 62 || bit e 61
  let used := used ++ [entry]
  if s.leafDenied w e level then .error { reason := 4, level := level, used := used }
  else if (kind = .ctl ∨ kind = .host) ∧ odd then .error { reason := 8, level := level, used := used }
  else if pteBad e level then .error { reason := 5, level := level, used := used }
  else if kind = .nothing then .error { reason := 8, level := level, used := used }
  else if kind = .far ∧ size = 0x10000 then .error { reason := 9, level := level, used := used }
  else if !permOk then .error { reason := 2, level := level, used := used }
  else if bit e 62 && !tid then .error { reason := 7, level := level, used := used }
  else if kind.isMem && !s.ownerOk w base size pa (bit e 62) (bit e 60) then .error { reason := 6, level := 0, used := used }
  else
    let whole := !kind.isMem || !s.anyHeld base size
    .ok { pa := pa, kind := kind, cache := cache, checked := bit e 61, kiln := bit e 62
          size := if whole then size else frameBytes pa, base := base, span := size, used := used, leaf := entry, dirty := bit e 6 }

/-- The walk from a table at `base`, over the levels still to go: level, shift and index bits (R22). A table in a place that
is no memory, or in a poisoned sector, is a point the spec leaves open: the walk reads the bytes as memory holds them, and
an unlisted place reads as an entry with V = 0 (DESIGN CHOICE, entry 61). -/
def State.walkFrom (s : State) (w : Who) (p : Perm) (tid : Bool) (va : Nat) :
    List (Nat × Nat × Nat) → Nat → List Nat → Except WalkFault Trans
  | [], _, used => .error { reason := 5, level := 0, used := used }
  | (level, shift, bits) :: rest, base, used =>
    let entry := base + 8 * (va / 2 ^ shift % 2 ^ bits)
    let e := BitVec.ofNat 64 (s.mem.readCoh entry 8)
    if !bit e 0 then .error { reason := 1, level := level, used := used ++ [entry] }
    else if bit e 1 && decide (level < 3) then s.leafCheck w p tid va e level entry used
    else if pteBad e level then .error { reason := 5, level := level, used := used ++ [entry] }
    else s.walkFrom w p tid va rest (field e 51 8 * 256) (used ++ [entry])

/-- The levels of R22. -/
def walkLevels : List (Nat × Nat × Nat) := [(4, 48, 9), (3, 39, 9), (2, 30, 9), (1, 21, 9), (0, 16, 5)]

/-- A pointer is canonical (R16). -/
def canonical (va : Word) : Bool := field va 63 57 == (if bit va 56 then 127 else 0)

/-- The whole translation of a pointer (R16, R22). -/
def State.walk (s : State) (w : Who) (p : Perm) (tid : Bool) (va : Word) : Except WalkFault Trans :=
  if !canonical va then .error { reason := 3, level := 0 }
  else if bit va 56 && !s.ctxSys w.ctx then .error { reason := 4, level := 0 }
  else s.walkFrom w p tid (field va 56 0) walkLevels (field (s.ctxDesc w.ctx) 51 12 * 4096) []

/-- One bit of an entry set by the walker's atomic OR at its home (R26, R39: no invalidation). -/
def State.orEntry (s : State) (a i : Nat) : State :=
  let b := s.mem.readCoh a 1
  if b / 2 ^ i % 2 = 1 then s
  else
    let s := { s with mem := s.mem.writeHome (a / 128) (1 * 2 ^ (a % 128)) ((b + 2 ^ i) * 2 ^ (8 * (a % 128))) }
    s.wakeLine (a / 128)

/-- A and, for a write, D set by a walk that builds a translation (R26). -/
def State.markUsed (s : State) (t : Trans) (p : Perm) : State :=
  let s := t.used.foldl (fun s a => s.orEntry a 5) s
  match p with
  | .w | .rw => s.orEntry t.leaf 6
  | _ => s

/-- The coalescing key of an access (R44). -/
def Who.key (w : Who) (kind : AccKind) (va : Word) : FaultKey :=
  { source := w.src, ctx := w.ctx, page := field va 56 16, kind := kind }

/-- Kinds of access that read into a register or an instruction pipe. -/
def AccKind.reads : AccKind → Bool
  | .read | .atomic | .fetch => true
  | _ => false

/-- The die that makes the walks of an access, from the SOURCE number of its records (R38, R47). -/
def srcDie (src : Nat) : Nat := if src < 128 then clusterDie src else src - 120

/-- The lines of the directory enter it as a die reads them, with the die's presence bit (R38). -/
def State.enterLines (s : State) (die : Nat) (lines : List Nat) : State :=
  let put (d : Tab (BitVec 11)) (l : Nat) : Tab (BitVec 11) :=
    let old := Tab.get 0 d l
    if old.getLsbD die then d else Tab.set 0 d l (old ||| BitVec.ofNat 11 (2 ^ die))
  { s with xlat := { s.xlat with tdir := lines.foldl put s.xlat.tdir } }

/-- The lines of the owner table and of the held table that a walk to a leaf reads (R28, R38): the entry of the leaf's first
frame, the leaf's page in the held table, and, where a frame of the page is held, the entry of the frame reached. -/
def State.ownerLines (s : State) (base size pa : Nat) : List Nat :=
  [ownerLine (ownerIndex base), heldLine base] ++ (if s.anyHeld base size then [ownerLine (ownerIndex pa)] else [])

/-- Those of a translation. -/
def State.leafLines (s : State) (t : Trans) : List Nat := if t.kind.isMem then s.ownerLines t.base t.span t.pa else []

/-- A die keeps a translation of an access's page (R37). -/
def State.keeps (s : State) (die : Nat) (w : Who) (va : Word) (t : Trans) : Bool :=
  s.xlat.tlb.any fun x => x.die == die && x.ctx == w.ctx && x.page == field va 56 16 && x.size == t.size

/-- A walk's translation is kept by the die that made it, and the directory takes the die's presence for every line it
derives from, its context's descriptor among them (R37, R38). One that the die holds of the same page stands: it would have
been discarded if a line that it derives from had been written (R39). -/
def State.cacheWalk (s : State) (die : Nat) (w : Who) (va : Word) (t : Trans) : State :=
  let lines := ctxLine w.ctx :: t.used.map (· / 128) ++ s.leafLines t
  let e : TlbEntry := { die := die, ctx := w.ctx, page := field va 56 16, size := t.size, lines := lines }
  let s := s.enterLines die lines
  if s.keeps die w va t then s else { s with xlat := { s.xlat with tlb := s.xlat.tlb ++ [e] } }

/-- A request of an access cannot pass now: the one for its line, or, where its die keeps no translation of the page, one for
a table line (R467, R469). -/
def State.asksAway (s : State) (die : Nat) (w : Who) (va : Word) (t : Trans) : Bool :=
  (t.kind.isMem && s.homeAway (some die) (t.pa / 128)) ||
    ((t.used.any fun a => s.homeAway (some die) (a / 128)) && !s.keeps die w va t)

/-- An access's translation, with what its walk leaves behind, or its fault. A walk that would read a table line whose write
is held waits (R39, R59), and so does an access whose request cannot pass; at a home whose course is declared failed
it gets poison (R469). -/
def State.translate (s : State) (w : Who) (kind : AccKind) (p : Perm) (tid : Bool) (va : Word) :
    Except Stop (Trans × State) :=
  match s.walk w p tid va with
  | .ok t =>
    if t.used.any fun a => s.lineBusy (a / 128) then .error (.park .response s)
    else if s.asksAway (srcDie w.src) w va t then .error (.park .response s)
    else if t.kind.isMem && kind.reads && s.homeIn [4] t.pa then .error (.check 1)
    else .ok (t, (s.markUsed t p).cacheWalk (srcDie w.src) w va t)
  | .error f =>
    if f.used.any fun a => s.lineBusy (a / 128) || s.homeAway (some (srcDie w.src)) (a / 128) then .error (.park .response s)
    else .error (.fault (w.key kind va) f.reason f.level va)

/-- The codes of a record's KIND (R47). -/
def AccKind.code : AccKind → Nat
  | .read => 0 | .write => 1 | .atomic => 2 | .fetch => 3 | .copyRead => 4 | .copyWrite => 5 | .mxFetch => 6
  | .mxDrain => 7 | .gather => 8

/-- An entry of the plumb's fault record (R471): the oldest entry other than a retirement makes room. -/
def State.logEvent (s : State) (kind unitType unit : Nat) (detail : Word) : State :=
  let e : FaultRec := { tick := s.tick, boot := s.rel.boots, kind := kind, unitType := unitType, unit := unit % 65536,
                        detail := detail }
  if s.rel.entries.length < 65536 then { s with rel := { s.rel with entries := s.rel.entries ++ [e] } }
  else
    let i := match s.rel.entries.findIdx? fun x => x.kind != 6 with | some i => i | none => 0
    { s with rel := { s.rel with entries := s.rel.entries.eraseIdx i ++ [e], dropped := s.rel.dropped + 1 } }

/-- A fault ring block as the device reads it (R46): ring address, size and counts. -/
structure RingBlock where
  pa : Nat
  log2 : Nat
  head : Nat
  tail : Nat
  replay : Nat
  deriving DecidableEq, Repr

/-- The fault ring block of a partition; `none` when malformed (R46). HEAD is read-only to software: the device goes by its
own count and stores it there. -/
def State.ringBlock (s : State) (p : Nat) : Option RingBlock :=
  let b := s.faultRing p
  let rd (o : Nat) := s.mem.readCoh (b + o) 8
  let pa := rd 32
  let log2 := rd 24 % 256
  if pa % 4096 ≠ 0 ∨ 2 ^ 52 ≤ pa ∨ log2 < 6 ∨ 20 < log2 ∨ rd 24 / 256 ≠ 0 ∨ s.mem.readCoh (b + 40) 472 ≠ 0 then none
  else some { pa := pa, log2 := log2, head := Tab.get 0 s.xlat.ringHead p, tail := rd 8, replay := rd 16 }

/-- A fault record (R47). -/
def faultRecord (e : FaultEntry) (n log2 : Nat) : Nat :=
  e.va % 2 ^ 48 * 2 ^ 16 + e.key.ctx % 256 * 2 ^ 64 + e.reason * 2 ^ 72 + e.level * 2 ^ 80
    + e.key.kind.code * 2 ^ 83 + (if e.reason ≤ 2 then 2 ^ 87 else 0) + e.key.source * 2 ^ 88
    + Nat.min e.count 0xFFFF * 2 ^ 96 + (n + 1) % 2 ^ 64 * 2 ^ 128 + (if n / 2 ^ log2 % 2 = 0 then 2 ^ 255 else 0)

/-- The records of waiting entries written while their partitions' rings have room (R44, R46). -/
def State.flushFaults (s : State) : List FaultEntry → State
  | [] => s
  | e :: rest =>
    let p := s.ctxPart e.key.ctx
    match e.seq, s.ringBlock p with
    | none, some b =>
      if b.head < b.tail + 2 ^ b.log2 then
        let s := s.writePa (b.pa + 32 * (b.head % 2 ^ b.log2)) 32 (faultRecord e b.head b.log2)
        let s := s.writePa (s.faultRing p) 8 (b.head + 1)
        let s := { s with xlat := { s.xlat with
          ringHead := Tab.set 0 s.xlat.ringHead p (b.head + 1)
          faults := s.xlat.faults.map fun (x : FaultEntry) =>
                     if x.key = e.key then { x with seq := some (b.head + 1), tick := s.tick } else x } }
        (s.send (.msix (p + 1))).flushFaults rest
      else s.flushFaults rest
    | _, _ => s.flushFaults rest

/-- The table entries that a walk of a context's tables reads for an address, down to where it ends (R22). -/
def State.tableEntries (s : State) (va : Nat) : List (Nat × Nat × Nat) → Nat → List Nat
  | [], _ => []
  | (_, shift, bits) :: rest, base =>
    let entry := base + 8 * (va / 2 ^ shift % 2 ^ bits)
    let e := BitVec.ofNat 64 (s.mem.readCoh entry 8)
    entry :: (if !bit e 0 || bit e 1 then [] else s.tableEntries va rest (field e 51 8 * 256))

/-- The lines that a faulting walk has read (R38): its table entries, and where the leaf's owner was looked up that entry's
line and the page's in the held table. A check made before the walk reads none. -/
def State.faultLines (s : State) (ctx reason : Nat) (va : Word) : List Nat :=
  if reason = 3 ∨ (reason = 4 ∧ bit va 56) then []
  else
    let l := s.tableEntries (field va 56 0) walkLevels (field (s.ctxDesc ctx) 51 12 * 4096)
    let leaf := field (BitVec.ofNat 64 (s.mem.readCoh (l.getLastD 0) 8)) 51 8 * 256
    let size := if l.length = 3 then 0x40000000 else if l.length = 4 then 0x200000 else 0x10000
    l.map (· / 128) ++ (if reason = 6 then s.ownerLines leaf size (leaf + field va 56 0 % size) else [])

/-- A faulting access joins an entry, makes one with its record, or finds the table full (R44). -/
def State.joinFault (s : State) (k : FaultKey) (reason level : Nat) (va : Word) : State :=
  let s := s.enterLines (srcDie k.source) (s.faultLines k.ctx reason va)
  if s.xlat.faults.any fun e => e.key = k then
    { s with xlat := { s.xlat with faults := s.xlat.faults.map fun e =>
        if e.key = k then { e with count := e.count + 1 } else e } }
  else if 64 ≤ (s.xlat.faults.filter fun e => e.key.source = k.source).length then s
  else
    let e : FaultEntry := { key := k, reason := reason, level := level, va := field va 63 16
                            seq := none, count := 1, tick := s.tick }
    let s := { s with xlat := { s.xlat with faults := s.xlat.faults ++ [e] } }
    let p := s.ctxPart k.ctx
    let s := if (s.ringBlock p).isNone then s.logEvent 11 4 p 0 else s
    s.flushFaults (s.xlat.faults.filter fun e => e.seq.isNone)

end Sys2Proof.Machine
end

