-- ==== Sys2Proof/Machine/Cache.lean ====
section
/-! DEFINITION. The L1 caches of a cluster (R53-R56), write signatures (R133-R136), open grains (R70-R72) and the plain,
ordered and atomic accesses to lines of memory that go through them (R59-R64). -/

namespace Sys2Proof.Machine

/-- The package cluster of a VS core (R3). -/
def clusterOf (core : Nat) : Nat := core / 4

/-- The key of an L1 line. -/
def l1Key (core line : Nat) : Nat := core * 2 ^ 45 + line

/-- A line of a core's L1; no line reads as one with no valid sector and no dirty byte. -/
def Mem.l1At (m : Mem) (core line : Nat) : L1Line := Tab.get L1Line.none m.l1 (l1Key core line)

/-- A line put into a core's L1. -/
def Mem.l1Put (m : Mem) (core line : Nat) (x : L1Line) : Mem :=
  { m with l1 := Tab.set L1Line.none m.l1 (l1Key core line) x }

/-- The line numbers a core's L1 holds. -/
def Mem.l1Lines (m : Mem) (core : Nat) : List Nat :=
  (m.l1.filter fun e => e.1 / 2 ^ 45 == core).map fun e => e.1 % 2 ^ 45

/-- A write at a cluster's slice, which its home makes the owner; held where it cannot be performed yet (R54, R59). -/
def State.writeAtSlice (s : State) (c line mask data : Nat) : State := s.writeVia (some c) line mask data

/-- A miss of an access in its own slice counted (R488). -/
def State.countL2 (s : State) (core line : Nat) : State :=
  match s.mem.dirOf line with
  | .mapped _ => s
  | d => if d.holders.contains (clusterOf core) then s else s.count core 4 1

/-- A core's write at its slice, a miss of it counted. -/
def State.sliceWrite (s : State) (core line mask data : Nat) : State :=
  (s.countL2 core line).writeAtSlice (clusterOf core) line mask data

/-- The valid bits of a line after a write-back: a sector written whole stays as a clean copy. A valid bit stands for a
sector, and a write-back fetches nothing (R53), so of a sector written in part no copy can stay (DEDUCED, entry 61). -/
def L1Line.cleanValid (x : L1Line) : BitVec 4 :=
  (List.range 4).foldl (fun v i => if x.dirty.toNat / 2 ^ (32 * i) % 2 ^ 32 = 2 ^ 32 - 1 then setBit v i true else v) x.valid

/-- An L1 writes back its dirty bytes of a line and keeps a clean copy (R54, R55). -/
def State.l1WriteBack (s : State) (core line : Nat) : State :=
  let x := s.mem.l1At core line
  if x.dirty = 0 then s
  else
    let s := s.sliceWrite core line x.dirty.toNat x.data.toNat
    { s with mem := s.mem.l1Put core line { x with dirty := 0, valid := x.cleanValid } }

/-- An L1 writes back its dirty bytes of a line and invalidates it. -/
def State.l1Drop (s : State) (core line : Nat) : State :=
  let s := s.l1WriteBack core line
  { s with mem := s.mem.l1Put core line L1Line.none }

/-- An L1 evicts a line: written back, invalidated, and its monitors woken (R54, R152). -/
def State.l1Evict (s : State) (core line : Nat) : State := (s.l1Drop core line).wakeCluster core line

/-- The L1s of a list of cores write back a line. -/
def State.l1WriteBackAll (s : State) (cores : List Nat) (line : Nat) : State :=
  cores.foldl (fun s c => s.l1WriteBack c line) s

/-- The L1s of a list of cores write back and invalidate a line. -/
def State.l1DropAll (s : State) (cores : List Nat) (line : Nat) : State := cores.foldl (fun s c => s.l1Drop c line) s

/-- Every line of a core's L1 written back. -/
def State.l1Clean (s : State) (core : Nat) : State := (s.mem.l1Lines core).foldl (fun s l => s.l1WriteBack core l) s

/-- Every line of a core's L1 written back and invalidated. -/
def State.l1Flush (s : State) (core : Nat) : State := (s.mem.l1Lines core).foldl (fun s l => s.l1Drop core l) s

/-- The other cores of a core's cluster. -/
def peers (core : Nat) : List Nat := (clusterCores core).filter fun c => c != core

/-- Room made in the set of a line that is about to be allocated: 8 ways, the set and the victim free (R49, R54,
entry 6). -/
def State.l1Room (s : State) (core line : Nat) : State :=
  let set := (s.mem.l1Lines core).filter fun l => Config.l1Set l == Config.l1Set line
  if (s.mem.l1Lines core).length < 8 ∨ set.contains line ∨ set.length < 8 then s
  else
    let (n, s) := s.free Config.freeChoice
    s.l1Evict core (set.getD (n % set.length) line)

/-- The line allocated in a core's L1 with its fill tick, if it is not there (R135). -/
def State.l1Alloc (s : State) (core line : Nat) : State :=
  let x := s.mem.l1At core line
  if x.valid ≠ 0 ∨ x.dirty ≠ 0 then s
  else
    let s := s.l1Room core line
    { s with mem := s.mem.l1Put core line { L1Line.none with tick := s.tick % 2 ^ 43 } }

/-- A line read by a cluster's slice, from its home where it holds no copy (R59). A mapped line is never kept in an L2
(R68). -/
def State.readForSlice (s : State) (c line : Nat) : State :=
  match s.mem.dirOf line with
  | .mapped _ => s
  | d => if d.holders.contains c then s else s.homeRead c line

/-- A core's read through its slice, a miss of it counted. -/
def State.sliceRead (s : State) (core line : Nat) : State := (s.countL2 core line).readForSlice (clusterOf core) line

/-- A sector filled from the slice: bytes that are dirty keep their value (R53). -/
def State.l1Fill (s : State) (core line sec : Nat) : State :=
  let s := s.l1Alloc core line
  let s := s.sliceRead core line
  let x := s.mem.l1At core line
  let new := lineAt (32 * sec) 32 (s.mem.readCoh (line * 128 + 32 * sec) 32)
  let y := { x with valid := setBit x.valid sec true
                    data := mergeLine x.data new (byteMask (32 * sec) 32 &&& ~~~x.dirty) }
  { s with mem := s.mem.l1Put core line y }

/-- The four signature positions of a physical address (R134). -/
def sigPositions (pa : Nat) : List Nat :=
  let line := BitVec.ofNat 64 (pa / 128)
  [(ch64 0x5A173C9E0B64D281 line).toNat % 2048, (ch64 0x7E0294A5C31F6B38 line).toNat % 2048,
   (ch64 0x1D8BE65047A93FC2 line).toNat % 2048, (ch64 0xA4C90D73B81E5526 line).toNat % 2048]

/-- A line hits a signature (R134). -/
def sigHits (sig : BitVec 2048) (pa : Nat) : Bool := (sigPositions pa).all fun p => sig.getLsbD p

/-- A line inserted into a core's signature (R134). -/
def Core.insert (c : Core) (pa : Nat) : Core :=
  if sigHits c.wsig pa then c
  else
    let sig := (sigPositions pa).foldl (fun x p => x ||| BitVec.ofNat 2048 (2 ^ p)) c.wsig
    if c.wcount = 383 ∨ c.wfull then { c with wsig := sig, wcount := 384, wfull := true }
    else { c with wsig := sig, wcount := c.wcount + 1 }

/-- The signature insertion of a write to a leaf with CACHE 0b00 or 0b01 (R134). -/
def State.insertSig (s : State) (core : Nat) (t : Trans) : State :=
  if t.kind.isMem ∧ t.cache ≤ 1 then s.setCore core ((s.core core).insert t.pa) else s

/-- The core that has a grain open (R70). -/
def State.grainOwner (s : State) (grain : Nat) : Option Nat :=
  (s.mem.grains.find? fun g => g.grain == grain).map fun g => g.core

/-- A core's interval closed: its open grains cleared at their homes (R72). -/
def State.closeInterval (s : State) (core : Nat) : State :=
  { s with mem := { s.mem with grains := s.mem.grains.filter fun g => g.core != core } }

/-- A forced close of a core's interval (R72), which also wakes its monitors (R352). -/
def State.forceClose (s : State) (core : Nat) : State :=
  ((s.count core 5 1).closeInterval core).wakeIf fun x _ => (s.wg x.wg).core == core

/-- The set of a grain in its home slice's open-grain table, of the whole package (R70). -/
def State.grainSetOf (s : State) (grain : Nat) : Nat := 2048 * s.homeSlice (4 * grain) + (Config.grainSet grain).val

/-- The entries that stand in a grain's set, but for its own (R70). -/
def State.grainSetMates (s : State) (grain : Nat) : List OpenGrain :=
  if s.mem.grains.length < 8 then []
  else s.mem.grains.filter fun g => g.grain != grain && s.grainSetOf g.grain == s.grainSetOf grain

/-- The registrations that wait, without a core's for a grain. -/
def Mem.othersWait (m : Mem) (core grain : Nat) : List (Nat × Nat × Nat) :=
  m.grainWait.filter fun e => !(e.1 == core && e.2.1 == grain)

/-- The home makes an entry for a core's registration, or keeps it waiting while the set of 8 ways is full (R71, R72). `due`:
the warp whose store is still to come. -/
def State.enterGrain (s : State) (core grain wi : Nat) (due : Option Nat) : State :=
  let rest := s.mem.othersWait core grain
  if (s.grainSetMates grain).length < 8 then
    { s with mem := { s.mem with grains := s.mem.grains ++ [{ grain := grain, core := core, due := due }], grainWait := rest } }
  else { s with mem := { s.mem with grainWait := rest ++ [(core, grain, wi)] } }

/-- A registration is over: none of the core's for the grain waits, and an entry made ahead of the warp's store is that
store's (R71). -/
def State.grainSettled (s : State) (core grain : Nat) : State :=
  { s with mem := { s.mem with
    grainWait := s.mem.othersWait core grain
    grains := s.mem.grains.map fun (g : OpenGrain) =>
      if g.grain = grain ∧ g.core = core ∧ g.due = some s.cur then { g with due := none } else g } }

/-- The first plain store to a grain in an interval registers it; while the core's interval is closing it waits for the
clears, and while the home's set is full for an entry of it to be cleared (R71, R72). A refused one opens no grain, and
waits no more (R128). -/
def State.registerGrain (s : State) (core : Nat) (pa : Nat) (va : Word) : Except Stop State :=
  if s.mem.grains.any fun g => g.core == core && g.closing then .error (.park .response s)
  else match s.grainOwner (pa / 512) with
  | some c => if c = core then .ok (s.grainSettled core (pa / 512)) else .error (.late (s.grainSettled core (pa / 512)) (memoryModel va))
  | none =>
    let s := if 256 ≤ (s.mem.grains.filter fun g => g.core == core).length then s.forceClose core else s
    let s := s.enterGrain core (pa / 512) s.cur none
    if s.grainOwner (pa / 512) = some core then .ok s else .error (.park .response s)

/-- What a warp that is saved or has ended leaves at the open-grain tables: no registration of its waits, and no entry stands
for a store that it has not made (R70, R127). -/
def State.dropGrains (s : State) (ws : List Nat) : State :=
  { s with mem := { s.mem with
    grainWait := s.mem.grainWait.filter fun e => !ws.contains e.2.2
    grains := s.mem.grains.filter fun g => !(match g.due with | some w => ws.contains w | none => false) } }

/-- A plain load that reaches L2 is checked at the home (R71). -/
def State.checkGrain (s : State) (core : Nat) (t : Trans) (va : Word) : Except Stop Unit :=
  if t.checked then
    match s.grainOwner (t.pa / 512) with
    | some c => need (c == core) (memoryModel va)
    | none => .ok ()
  else .ok ()

/-- The reasons of R465. -/
def poisonConsumed : Stop := .check 1

/-- The mapping core's own row for a line, when it maps it itself (R68). -/
def State.ownRow (s : State) (core line : Nat) : Bool :=
  match s.mem.mapCell line with
  | some c => c / spStride == core
  | none => false

/-- The cluster at which a load leaves a copy of its line; 128 where its leaf is uncached (R61). -/
def Trans.copyAt (t : Trans) (core : Nat) : Nat := if t.cache = 2 then 128 else clusterOf core

/-- A plain load of `n` bytes that lie in one sector (R53, R55, R56, R61, R68, R71, R464). The mapping core's own accesses
go to the row, after its peers' L1s have written back. -/
def State.loadMem (s : State) (core : Nat) (t : Trans) (n : Nat) (va : Word) : Except Stop (Nat × State) := do
  let line := t.pa / 128
  let off := t.pa % 128
  let x := s.mem.l1At core line
  if t.cache = 0 ∧ !s.ownRow core line ∧ (x.valid.getLsbD (off / 32) ∨ byteMask off n &&& ~~~x.dirty = 0) then
    return (lineBytes x.data off n, s)
  s.checkGrain core t va
  let s := if t.cache = 0 then s.l1WriteBackAll (peers core) line else s
  let s ← s.homeReady line (t.copyAt core) false
  let s := if t.cache = 0 then s.count core 3 1 else s
  need (!s.mem.poisoned t.pa n) poisonConsumed
  if t.cache = 0 ∧ !s.ownRow core line then
    let s := s.l1Fill core line (off / 32)
    return (lineBytes (s.mem.l1At core line).data off n, s)
  else
    let s := if t.cache ≤ 1 then s.sliceRead core line else s.homeLoad line
    return (s.mem.readCoh t.pa n, s)

/-- A plain store of `n` bytes that lie in one sector (R53-R55, R61, R68, R70, R134). -/
def State.storeMem (s : State) (core : Nat) (t : Trans) (n x : Nat) (va : Word) : Except Stop State := do
  let line := t.pa / 128
  let off := t.pa % 128
  let s ← if t.checked then s.registerGrain core t.pa va else .ok s
  let s := s.insertSig core t
  let s := if t.cache = 0 then s.l1DropAll (peers core) line else s
  if t.cache = 0 ∧ !s.ownRow core line then
    let s := s.l1Alloc core line
    let l := s.mem.l1At core line
    let k := byteMask off n
    let y := { l with dirty := l.dirty ||| k, data := mergeLine l.data (lineAt off n x) k }
    let s := { s with mem := s.mem.l1Put core line y }
    return s.wakeCluster core line
  else if t.cache ≤ 1 then
    return s.sliceWrite core line ((2 ^ n - 1) * 2 ^ off) (x % 2 ^ (8 * n) * 2 ^ (8 * off))
  else return s.writePa t.pa n x core

/-- Before an ordered load leaves the cluster: its L1s write back, and the issuer's own copy is invalidated (R55). -/
def State.orderedLoadMem (s : State) (core : Nat) (t : Trans) (n : Nat) : Except Stop (Nat × State) := do
  let line := t.pa / 128
  let s := (s.l1WriteBackAll (clusterCores core) line).l1Drop core line
  let s ← s.homeReady line (t.copyAt core) false
  need (!s.mem.poisoned t.pa n) poisonConsumed
  let s := if t.cache = 2 then s.homeLoad line else s.sliceRead core line
  return (s.mem.readCoh t.pa n, s)

/-- An ordered store: every L1 of the cluster writes back and invalidates first, and it is performed at L2 (R55,
R143). -/
def State.orderedStoreMem (s : State) (core : Nat) (t : Trans) (n x : Nat) : State :=
  let line := t.pa / 128
  let s := (s.l1DropAll (clusterCores core) line).insertSig core t
  if t.cache = 2 then s.writePa t.pa n x core
  else s.sliceWrite core line ((2 ^ n - 1) * 2 ^ (t.pa % 128)) (x % 2 ^ (8 * n) * 2 ^ (8 * (t.pa % 128)))

/-- An atomic at the home's unit (R64): `f` gives the value to write, none where nothing is written. -/
def State.atomicMem (s : State) (core : Nat) (t : Trans) (n : Nat) (f : Nat → Option Nat) :
    Except Stop (Nat × State) := do
  let line := t.pa / 128
  let s := s.l1DropAll (clusterCores core) line
  let s ← s.homeReady line 128 true
  need (!s.mem.poisoned t.pa n) poisonConsumed
  let s := s.homeTake line
  let old := s.mem.readCoh t.pa n
  match f old with
  | some x => return (old, (s.insertSig core t).writePa t.pa n x)
  | none => return (old, s)

/-- A tick's distance back from the current tick, 0 for one that stands ahead (R135). -/
def ticksBack (now u : Nat) : Nat :=
  let d := (now + 2 ^ 43 - u % 2 ^ 43) % 2 ^ 43
  if 2 ^ 43 - 4 ≤ d then 0 else d

/-- Where a floor stands against the current tick: at most 2^40 back, or up to 4 ahead (R135). -/
def floorPos (now u : Nat) : Int :=
  let d := (now + 2 ^ 43 - u % 2 ^ 43) % 2 ^ 43
  if 2 ^ 43 - 4 ≤ d then (2 ^ 43 - d : Nat) else if 2 ^ 40 ≤ d then -(2 ^ 40 : Int) else -(d : Int)

/-- The later of two floors as a 43-bit tick (R135, R136). -/
def laterFloor (now a b : Nat) : Nat :=
  (((now : Int) + max (floorPos now a) (floorPos now b)) % (2 ^ 43 : Int)).toNat

/-- A signature state: of a core, or of a sync block (R131, R133). -/
structure Sig where
  sig : BitVec 2048
  count : Nat
  full : Bool
  floor : Nat
  deriving DecidableEq, Repr

/-- Two signature states merged (R136). -/
def Sig.merge (now : Nat) (a b : Sig) : Sig :=
  { sig := a.sig ||| b.sig, count := Nat.min 384 (a.count + b.count)
    full := a.full || b.full || decide (384 ≤ a.count + b.count), floor := laterFloor now a.floor b.floor }

/-- A core's signature state. -/
def Core.sigOf (c : Core) : Sig := { sig := c.wsig, count := c.wcount, full := c.wfull, floor := c.wfloor }

/-- A core with a signature state. -/
def Core.withSig (c : Core) (x : Sig) : Core := { c with wsig := x.sig, wcount := x.count, wfull := x.full, wfloor := x.floor }

end Sys2Proof.Machine
end

