-- ==== Sys2Proof/Machine/Control.lean ====
section
/-! DEFINITION. The device control space (R17): what each register there reads. Writes there have no effect. -/

namespace Sys2Proof.Machine

/-- First address of the device control space (R17). -/
def ctlBase : Nat := 0x200000000000

/-- A region record (R80): VALID = 1 at reset. -/
def State.region (s : State) (n : Nat) : BitVec 128 := Tab.get (BitVec.ofNat 128 (2 ^ 127)) s.rel.regions n

/-- A region record written. -/
def State.setRegion (s : State) (n : Nat) (x : BitVec 128) : State :=
  { s with rel := { s.rel with regions := Tab.set (BitVec.ofNat 128 (2 ^ 127)) s.rel.regions n x } }

/-- Dword `i` of a wide record. -/
def dwordOf {w : Nat} (x : BitVec w) (i : Nat) : Nat := x.toNat / 2 ^ (64 * i) % 2 ^ 64

/-- Two 4-byte entries of a table as a dword. -/
def pairOf (t : Tab (BitVec 32)) (i : Nat) : Nat := (Tab.get 0 t i).toNat + (Tab.get 0 t (i + 1)).toNat * 2 ^ 32

/-- The live witness record whose number is `n` modulo 65,536, the highest such number (R444). -/
def State.recordAt (s : State) (n : Nat) : BitVec 2048 :=
  s.cert.records.foldl (fun r e => if e.1 % 65536 = n then e.2 else r) 0

/-- Entry `o` of a register block of `n` entries of `size` bytes at `base`: its number and the dword in it. -/
def inBlock (o base size n : Nat) : Option (Nat × Nat) :=
  if base ≤ o ∧ o < base + size * n then some ((o - base) / size, (o - base) % size / 8) else none

/-- The dword at an aligned offset of the control space; none where the spec names no register. -/
def State.ctlDword (s : State) (o : Nat) : Option Nat :=
  if o < 0x100000 then
    if o = 0x1000 then some s.rel.hbmCfg.toNat else if o = 0x1008 then some s.rel.reserve.toNat
    else if o = 0x1010 then some s.cert.cfg.toNat else if o = 0x1018 then some s.cert.count.toNat
    else if o = 0x1020 then some s.rel.faultCfg.toNat else if o = 0x1030 then some s.host.powerCap.toNat
    else (inBlock o 0x1040 8 4).map fun e => (Tab.get 0 s.rel.courseReg e.1).toNat
  else if o < 0x1000000 then
    match inBlock o 0x100000 16 768, inBlock o 0x200000 8 24576 with
    | some (n, d), _ => some (dwordOf (s.region n) d)
    | _, some (n, _) => some (pairOf s.rel.banks (2 * n))
    | _, _ =>
      if o = 0x300000 then some s.kiln.refused0.toNat else if o = 0x300008 then some s.kiln.refused1.toNat
      else if o = 0x300010 then some s.host.refused.toNat else none
  else
    match inBlock o 0x1000000 16 393216, inBlock o 0x2000000 8 8192, inBlock o 0x3000000 128 16,
        inBlock o 0x4000000 256 65536, inBlock o 0x5000000 8 128 with
    | some (n, d), _, _, _, _ => some (dwordOf (Tab.get 0 s.kiln.pages n) d)
    | _, some (n, _), _, _, _ => some (Tab.get 0 s.fab.peers n).toNat
    | _, _, some (p, d), _, _ => if d ≤ 8 then some (Tab.get 0 s.sched.cfg (16 * p + d)).toNat else none
    | _, _, _, some (n, d), _ => some (dwordOf (s.recordAt n) d)
    | _, _, _, _, some (n, _) => some (pairOf s.cert.health (2 * n))
    | _, _, _, _, _ =>
      if o = 0x2010000 then some s.fab.dropped.toNat
      else
        match inBlock o 0x6000000 64 256, inBlock o 0x6004000 32 16 with
        | some (n, d), _ => some (dwordOf (s.ctxDesc n) d)
        | _, some (n, d) => some (dwordOf (s.partDesc n) d)
        | _, _ => none

/-- The registers R85 also lets 4-byte loads read. -/
def ctlHalf (o : Nat) : Bool :=
  (0x1000 ≤ o && o < 0x1010) || (0x100000 ≤ o && o < 0x100000 + 16 * 768) || (0x200000 ≤ o && o < 0x200000 + 4 * 49152)

/-- A load from the control space. A size or an address for which the spec names no value reads a free value
(entry 19). -/
def State.ctlRead (s : State) (pa n : Nat) : Nat × State :=
  let o := pa - ctlBase
  match s.ctlDword (o / 8 * 8) with
  | some x =>
    if n = 8 then (x, s)
    else if n = 4 ∧ ctlHalf o then (x / 2 ^ (8 * (o % 8)) % 2 ^ 32, s)
    else let (f, s) := s.free Config.freeWord; (f.toNat % 2 ^ (8 * n), s)
  | none => let (f, s) := s.free Config.freeWord; (f.toNat % 2 ^ (8 * n), s)

end Sys2Proof.Machine
end

