-- ==== Sys2Proof/Machine/Access.lean ====
section
/-! DEFINITION. The accesses of a warp by address: scratchpad (R33, R34, R51), global memory (R16-R28, R53-R61), the
control space, the host window (R474), and where a certified workgroup may write (R102). -/

namespace Sys2Proof.Machine

/-- Bytes [lo, hi] of a launch header field (R420). -/
def hdr (h : BitVec 512) (lo n : Nat) : Nat := h.toNat / 2 ^ (8 * lo) % 2 ^ (8 * n)

/-- A launch by its number. -/
def State.launch? (s : State) (n : Nat) : Option Launch := s.sched.launches.find? fun l => l.num == n

/-- The region the launch header assigns to warp `j` of a workgroup: first byte and size (R421). -/
def stackRegion (h : BitVec 512) (ordinal j : Nat) : Nat × Nat :=
  ((hdr h 32 8 + (ordinal * 16 + j) * hdr h 40 4) % 2 ^ 64, hdr h 40 4)

/-- The warps of a workgroup of a launch header: 2^w1 (R215, R420). -/
def hdrWarps (h : BitVec 512) : Nat := 2 ^ (hdr h 44 4 / 2 ^ 18 % 8)

/-- [va, va + n) lies in a stack region of the workgroup's warps (R102). -/
def State.inStack (s : State) (g : Workgroup) (va n : Nat) : Bool :=
  match s.launch? g.launch with
  | some l => (List.range (hdrWarps l.header)).any fun j =>
      let r := stackRegion l.header g.ordinal j
      decide (r.1 ≤ va ∧ va + n ≤ r.1 + r.2)
  | none => false

/-- The identity of a workgroup's accesses. -/
def State.whoOf (s : State) (g : Workgroup) : Who :=
  { ctx := g.ctx, src := clusterOf g.core, hold := if g.cert then g.launch + 1 else 0 }

/-- The place of a workgroup's own scratchpad byte. -/
def Workgroup.cell (g : Workgroup) (off : Nat) : Nat := g.core * spStride + g.spBase + off

/-- The workgroup a window access reaches (R34). -/
def State.member (s : State) (g : Workgroup) (m : Nat) : Option Workgroup :=
  if g.member = m then some g
  else match g.cluster with
    | some c => s.wgs.find? fun x => x.cluster == some c && x.member == m
    | none => none

/-- The cell of a scratchpad access (R33, R34, R342). -/
def State.spCell (s : State) (g : Workgroup) (a : Word) (n : Nat) : Except Stop Nat := do
  need (field a 63 32 == 0) (spRange a)
  let off := field a 18 0
  if field a 31 24 = 0 then
    need (field a 23 19 == 0 && decide (off + n ≤ g.spBytes)) (spRange a)
    return g.cell off
  else if field a 31 24 = 1 then
    need (field a 23 21 == 0) (spRange a)
    match s.member g (field a 20 19) with
    | none => .error (clusterRange a)
    | some t =>
      need (decide (off + n ≤ t.spBytes)) (spRange a)
      return t.cell off
  else .error (spRange a)

/-- Whether any scratchpad sector of [cell, cell + n) is poisoned (R52, R464). -/
def Mem.spPoisoned (m : Mem) (cell n : Nat) : Bool :=
  (List.range ((cell + n - 1) / 32 + 1 - cell / 32)).any fun i => Tab.get false m.spPoison (cell / 32 + i)

/-- A scratchpad read (R51). -/
def State.spLoad (s : State) (cell n : Nat) : Except Stop Nat := do
  need (!s.mem.spPoisoned cell n) poisonConsumed
  return readN s.mem.sp cell n

/-- The monitors on scratchpad words of [cell, cell + n), and on the memory lines that are mapped there, have their wake
(R152, R153). -/
def State.wakeCells (s : State) (cell n : Nat) : State :=
  s.wakeIf fun _ w => match w with
    | .word c => decide (c < cell + n ∧ cell < c + 4)
    | .line l => match s.mem.mapCell l with
      | some r => decide (r < cell + n ∧ cell < r + 128)
      | none => false

/-- A scratchpad write (R51), with tags (R159), poison (R78) and monitors. R39 has the home of a line hold a write until the
translations derived from it are discarded; of a row that a MAPPED line reads as, which has no home to hold it, the rule says
nothing: the write is performed at once and discards none (DESIGN CHOICE, entry 68). -/
def State.spStore (s : State) (cell n x : Nat) : State :=
  let m := s.mem
  let tags := (List.range ((cell + n - 1) / 16 + 1 - cell / 16)).foldl
    (fun t i => Tab.set false t (cell / 16 + i) false) m.spTags
  let poison := (List.range ((cell + n) / 32 - (cell + 31) / 32)).foldl
    (fun t i => Tab.set false t ((cell + 31) / 32 + i) false) m.spPoison
  { s with mem := { m with sp := writeN m.sp cell n x, spTags := tags, spPoison := poison } }.wakeCells cell n

/-- An atomic of another warp or thread keeps [pa, pa + n) of the host window to itself (R345). -/
def State.hostLocked (s : State) (wi : Nat) (th : Option Nat) (pa n : Nat) : Bool :=
  s.fab.hostReqs.any fun r => r.lock != 0 && decide (r.pa < pa + n ∧ pa < r.pa + r.lock) && !(r.warp == wi && r.thread == th)

/-- A host-window write leaves the core, in issue order (R474). -/
def State.hostStore (s : State) (core pa n x : Nat) (poison : Bool := false) : State :=
  (s.setCore core { s.core core with posted := (s.core core).posted + 1 }).send
    (.hostWrite (pa - 0x8000000000000) n (BitVec.ofNat 64 (x % 2 ^ (8 * n))) poison)

/-- A read asked of the host (R474). -/
def State.hostAsk (s : State) (wi : Nat) (th : Option Nat) (pa n lock mark : Nat) : State :=
  let r : HostReq := { id := s.fab.nextId, warp := wi, thread := th, pa := pa, answer := none, lock := lock, mark := mark }
  let s := { s with fab := { s.fab with hostReqs := s.fab.hostReqs ++ [r], nextId := s.fab.nextId + 1 } }
  s.send (.hostRead r.id (pa - 0x8000000000000) n)

/-- A host request that has been answered is done with. -/
def State.hostDone (s : State) (r : HostReq) : State :=
  { s with fab := { s.fab with hostReqs := s.fab.hostReqs.filter fun q => q.id != r.id } }

/-- The answer a warp waits for from the host (R474): taken when it is there, else asked for, once no atomic keeps the
location. `lock` is the bytes an atomic keeps (R345). -/
def State.hostLoad (s : State) (wi : Nat) (th : Option Nat) (pa n : Nat) (lock : Nat := 0) : Except Stop (Nat × State) :=
  match s.fab.hostReqs.find? fun r => r.warp == wi && r.thread == th && r.pa == pa with
  | some r =>
    match r.answer with
    | some x => .ok (x.toNat % 2 ^ (8 * n), s.hostDone r)
    | none => .error (.park .response s)
  | none =>
    if s.hostLocked wi th pa n then .error (.park .response s)
    else .error (.park .response (s.hostAsk wi th pa n lock 0))

/-- A certified workgroup writes only its own stack regions by address, and takes no part in host traffic (R102). -/
def State.confine (s : State) (g : Workgroup) (t : Trans) (write : Bool) (va : Word) (n : Nat) : Except Stop Unit := do
  if g.cert then
    need (t.kind != .host) (kilnAccess kEgress va)
    need (!write || s.inStack g va.toNat n) (kilnAccess kConfined va)

/-- A plain or ordered load where a translation leads (R343: an ordered one is never an L1 hit). -/
def State.loadAt (s : State) (wi : Nat) (th : Option Nat) (core : Nat) (t : Trans) (ord : Bool) (va : Word) (n : Nat) :
    Except Stop (Nat × State) :=
  match t.kind with
  | .ctl => .ok (s.ctlRead t.pa n)
  | .host => s.hostLoad wi th t.pa n
  | _ => if ord then s.orderedLoadMem core t n else s.loadMem core t n va

/-- What a lane's store leaves to be performed towards a wider scope (R210). -/
def State.laneStored (s : State) (wi : Nat) (th : Option Nat) (t : Trans) : State :=
  match th with
  | none => s
  | some _ => s.modWarp wi fun w =>
      if t.kind.isMem then { w with laneLines := if w.laneLines.contains (t.pa / 128) then w.laneLines else w.laneLines ++ [t.pa / 128] }
      else { w with laneSent := true }

/-- A plain or ordered store where a translation leads. -/
def State.storeAt (s : State) (wi : Nat) (th : Option Nat) (core : Nat) (t : Trans) (ord : Bool) (va : Word) (n x : Nat) :
    Except Stop State :=
  match t.kind with
  | .ctl => .ok s
  | .host => if s.hostLocked wi th t.pa n then .error (.park .response s)
    else .ok ((s.hostStore core t.pa n x).laneStored wi th t)
  | _ => do
    let s ← if ord then .ok (s.orderedStoreMem core t n x) else s.storeMem core t n x va
    return s.laneStored wi th t

/-- A load by address, once aligned. -/
def State.gRead (s : State) (wi : Nat) (th : Option Nat) (g : Workgroup) (ord : Bool) (va : Word) (n : Nat) :
    Except Stop (Nat × State) := do
  let (t, s) ← s.translate (s.whoOf g) .read .r false va
  s.keep do
  s.confine g t false va n
  s.loadAt wi th g.core t ord va n

/-- A store by address, once aligned. -/
def State.gWrite (s : State) (wi : Nat) (th : Option Nat) (g : Workgroup) (ord : Bool) (va : Word) (n x : Nat) :
    Except Stop State := do
  let (t, s) ← s.translate (s.whoOf g) .write .w false va
  s.keep do
  s.confine g t true va n
  s.storeAt wi th g.core t ord va n x

/-- A plain load by address. -/
def State.gLoad (s : State) (wi : Nat) (th : Option Nat) (g : Workgroup) (va : Word) (n : Nat) :
    Except Stop (Nat × State) :=
  s.gRead wi th g false va n

/-- A plain store by address. -/
def State.gStore (s : State) (wi : Nat) (g : Workgroup) (va : Word) (n x : Nat) : Except Stop State :=
  s.gWrite wi none g false va n x

/-- An ordered load by address. -/
def State.gLoadOrd (s : State) (wi : Nat) (th : Option Nat) (g : Workgroup) (va : Word) (n : Nat) :
    Except Stop (Nat × State) :=
  s.gRead wi th g true va n

/-- An ordered store by address, once its release part is done. -/
def State.gStoreOrd (s : State) (wi : Nat) (g : Workgroup) (va : Word) (n x : Nat) : Except Stop State :=
  s.gWrite wi none g true va n x

/-- An atomic by address (R345): `f` gives the value to write, none where nothing is written. -/
def State.gAtomic (s : State) (wi : Nat) (th : Option Nat) (g : Workgroup) (va : Word) (n : Nat)
    (f : Nat → Option Nat) : Except Stop (Nat × State) := do
  let (t, s) ← s.translate (s.whoOf g) .atomic .rw false va
  s.keep do
  s.confine g t true va n
  match t.kind with
  | .ctl => return s.ctlRead t.pa n
  | .host =>
    let (old, s) ← s.hostLoad wi th t.pa n (lock := n)
    match f old with
    | some x => return (old, (s.hostStore g.core t.pa n x).laneStored wi th t)
    | none => return (old, s)
  | _ => s.atomicMem g.core t n f

/-- A scratchpad atomic at the port's unit (R51). -/
def State.spAtomic (s : State) (cell n : Nat) (f : Nat → Option Nat) : Except Stop (Nat × State) := do
  let old ← s.spLoad cell n
  match f old with
  | some x => return (old, s.spStore cell n x)
  | none => return (old, s)

end Sys2Proof.Machine
end

