-- ==== Sys2Proof/Machine/Wcb.lean ====
section
/-! DEFINITION. The context save area's header, sticky word and asynchronous error record (R175, R433, R434), and the
write-combining buffer of a core (R165-R167). -/

namespace Sys2Proof.Machine

/-- First address of a context's save area (R19, R433). -/
def State.saveBase (s : State) (ctx : Nat) : Nat := field (s.ctxDesc ctx) 167 128 * 4096

/-- The size of a save slot (R433). -/
def State.slotSize (s : State) (ctx : Nat) : Nat := 2 ^ (s.mem.readCoh (s.saveBase ctx + 60) 1)

/-- First address of a save slot (R433). -/
def State.slotPa (s : State) (ctx n : Nat) : Nat := s.mem.readCoh (s.saveBase ctx + 48) 8 + n * s.slotSize ctx

/-- The number of save slots (R433). -/
def State.slotCount (s : State) (ctx : Nat) : Nat := s.mem.readCoh (s.saveBase ctx + 56) 4

/-- Every frame of [pa, pa + n) is owned by the context alone: SHARED, KILN and TABLE 0 (R433). -/
def State.ownsRun (s : State) (ctx pa n : Nat) : Bool :=
  (List.range ((n + 0xFFFF) / 0x10000)).all fun i =>
    let a := pa + i * 0x10000
    let e := s.ownerOf a
    (s.paKind a).isMem && bit e 31 && !bit e 30 && field e 15 12 == s.ctxPart ctx && field e 7 0 == ctx && !bit e 27
      && !bit e 26 && !bit e 24

/-- A save area header the device acts on: well formed, with slots the context owns (R433). -/
def State.saveOk (s : State) (ctx : Nat) : Bool :=
  let b := s.saveBase ctx
  let rd (o n : Nat) := s.mem.readCoh (b + o) n
  decide (4 ≤ rd 24 1 ∧ rd 24 1 ≤ 12) && rd 25 23 == 0 && decide (22 ≤ rd 60 1 ∧ rd 60 1 ≤ 24) && rd 61 3 == 0
    && decide (rd 56 4 ≤ 1024) && rd 48 8 % 2 ^ rd 60 1 == 0 && rd 192 64 == 0 && rd 0 8 / 2 ^ 18 == 0
    && s.ownsRun ctx (rd 48 8) (rd 56 4 * 2 ^ rd 60 1)

/-- First address of a frame by its owner-table index (R27). -/
def framePa (i : Nat) : Nat := frameAt i

/-- Frames held for a certified launch (R32): no other work's translation reaches them from here on. -/
def State.holdFrames (s : State) (num : Nat) (frames : List Nat) : State :=
  frames.foldl (fun s f => (s.setOwner f (setBit (Tab.get 0 s.xlat.owner f) 25 true)).setHeld f (num + 1)) s

/-- Frames that the plumb may zero and whose owner and held entries it may write now (R29, R32, R39). -/
def State.framesReady (s : State) (frames : List Nat) : Bool :=
  s.framesUntracked frames && frames.all fun f => !s.runHeld (framePa f) (frameBytes (framePa f))

/-- The host is asked for the lines of frames that it may hold (R475). -/
def State.askFrames (s : State) (frames : List Nat) : State :=
  frames.foldl (fun s f => s.askRun (framePa f) (frameBytes (framePa f))) s

/-- Held frames zeroed and let go (R32). -/
def State.dropFrames (s : State) (frames : List Nat) : State :=
  frames.foldl (fun s f =>
    let s := s.zeroRun (framePa f) (frameBytes (framePa f))
    (s.setOwner f (setBit (Tab.get 0 s.xlat.owner f) 25 false)).setHeld f 0) s

/-- SLOT_BUSY of a save slot written (R433). -/
def State.markSlot (s : State) (ctx n : Nat) (busy : Bool) : State :=
  let a := s.saveBase ctx + 64 + n / 8
  let x := s.readDev a 1
  s.writePa a 1 (x - x / 2 ^ (n % 8) % 2 * 2 ^ (n % 8) + busy.toNat * 2 ^ (n % 8))

/-- The save slots of a context that a workgroup may be saved to (R429, R433). -/
def State.freeSlots (s : State) (ctx : Nat) : List Nat :=
  if s.ctxValid ctx && s.saveOk ctx then
    let busy := s.readDev (s.saveBase ctx + 64) 128
    (List.range (s.slotCount ctx)).filter fun n => busy / 2 ^ n % 2 == 0
  else []

/-- The frames of a save slot (R433). -/
def State.slotFrames (s : State) (ctx n : Nat) : List Nat :=
  let a := s.slotPa ctx n
  (List.range (s.slotSize ctx / frameBytes a)).map fun i => ownerIndex a + i

/-- A save slot freed (R419, R432): frames of it that are held are zeroed and let go first, by ZEROING where that has to
wait (R32). -/
def State.freeSlot (s : State) (ctx n : Nat) : State :=
  if s.ctxValid ctx && s.saveOk ctx then
    let held := (s.slotFrames ctx n).filter fun f => Tab.get 0 s.xlat.heldBy f != 0
    if s.framesReady held then (s.dropFrames held).markSlot ctx n false
    else { s with xlat := { s.xlat with drops := s.xlat.drops ++ [(ctx, n, held)] } }.askFrames held
  else s

/-- Bits ORed into a context's sticky word by an indivisible update at its home (R434). -/
def State.sticky (s : State) (ctx bits : Nat) : State :=
  if s.ctxValid ctx && s.saveOk ctx then
    s.writePa (s.saveBase ctx) 8 (s.readDev (s.saveBase ctx) 8 ||| bits)
  else s

/-- An asynchronous error entry's fields (R175). -/
structure AerEntry where
  va : Nat
  bytes : Nat
  peer : Nat
  target : Nat
  kind : Nat
  deriving DecidableEq, Repr

/-- The sticky bit of an entry's kind (R175, R361, R434). -/
def aerBit (kind : Nat) : Nat := if kind = 3 ∨ kind = 6 then 2 ^ 4 else if kind = 5 then 2 ^ 3 else 2 ^ 17

/-- An entry added to a context's asynchronous error record (R175, R433). -/
def State.aer (s : State) (ctx : Nat) (e : AerEntry) : State :=
  if !(s.ctxValid ctx && s.saveOk ctx) then s
  else
    let b := s.saveBase ctx
    let head := s.readDev (b + 8) 8
    let tail := s.mem.readCoh (b + 16) 8
    let size := 2 ^ s.mem.readCoh (b + 24) 1
    if head = (tail + size) % 2 ^ 64 then s.sticky ctx (2 ^ 16)
    else
      let x := e.va % 2 ^ 64 + e.bytes % 2 ^ 64 * 2 ^ 64 + e.peer * 2 ^ 128 + e.target * 2 ^ 144 + e.kind * 2 ^ 152
      let s := s.writePa (b + 256 + 32 * (head % size)) 32 x
      let s := s.writePa (b + 8) 8 (head + 1)
      s.sticky ctx (2 ^ 15 + aerBit e.kind)

/-- A peer entry (R155). -/
def State.peer (s : State) (part n : Nat) : BitVec 64 := Tab.get 0 s.fab.peers (512 * part + n)

/-- A peer entry is ACTIVE (R155). -/
def State.peerActive (s : State) (part n : Nat) : Bool := field (s.peer part n) 63 62 == 2

/-- A write-combining entry's key is in flight (R167). -/
def State.keyInFlight (s : State) (e : WcEntry) : Bool :=
  s.fab.flights.any fun f => f.core == e.core && f.peer == e.peer && f.target == e.target && f.lease == e.lease
    && f.line == e.line

/-- An entry drains as one masked line write, or is dropped (R166). -/
def State.drainEntry (s : State) (e : WcEntry) : State :=
  let s := { s with fab := { s.fab with wcb := s.fab.wcb.filter fun x => x != e } }
  let p := s.peer e.part e.peer
  if field p 63 62 ≠ 2 ∨ field p 57 48 ≠ e.lease then
    let s := { s with fab := { s.fab with dropped := s.fab.dropped + 1 } }
    s.aer e.ctx { va := e.line * 128, bytes := popCount 128 e.mask.toNat, peer := e.peer, target := e.target
                  kind := if field p 63 62 ≠ 2 then 1 else 2 }
  else
    let id := s.fab.nextId
    let f : Flight := { id := id, core := e.core, peer := e.peer, target := e.target, lease := e.lease, line := e.line
                        bytes := popCount 128 e.mask.toNat, ctx := e.ctx }
    let s := { s with fab := { s.fab with nextId := id + 1, flights := s.fab.flights ++ [f] } }
    s.send (.lineWrite id e.peer e.target e.lease (e.line * 128) e.data e.mask 0 (Config.plane id).val)

/-- The entries of a list drain, oldest first, but for those whose key is in flight (R167). -/
def State.drainAll (s : State) : List WcEntry → State
  | [] => s
  | e :: rest => if s.keyInFlight e then s.drainAll rest else (s.drainEntry e).drainAll rest

/-- Every entry of a core that can leave drains (R166). -/
def State.drainCore (s : State) (core : Nat) : State := s.drainAll (s.fab.wcb.filter fun e => e.core == core)

/-- A core has no remote write buffered or unacknowledged (R137, R166). -/
def State.wcbQuiet (s : State) (core : Nat) : Bool :=
  !(s.fab.wcb.any fun e => e.core == core) && !(s.fab.flights.any fun f => f.core == core)

end Sys2Proof.Machine
end

