-- ==== Sys2Proof/Machine/Release.lean ====
section
/-! DEFINITION. The release and acquire parts of fences, ordered accesses, sync blocks and barriers (R137-R143). -/

namespace Sys2Proof.Machine

/-- Scope numbers (R117): course and wider, package and wider, system. -/
def scopeNum : Scope → Nat := Scope.code

/-- The merged signature state of a core's cluster, and its four L1s clean (R138). -/
def State.snapshot (s : State) (core : Nat) : Sig × State :=
  let sig := (clusterCores core).foldl (fun a c => Sig.merge s.tick a (s.core c).sigOf)
    { sig := 0, count := 0, full := false, floor := (s.core core).wfloor }
  (sig, (clusterCores core).foldl (fun s c => s.l1Clean c) s)

/-- The address of the read that a flush of the core's host writes makes (R474). -/
def flushPa : Nat := 0x10000000000000

/-- A read of the host has returned behind every host write that the core had made when it was sent (R137, R474): writes
of other warps that left later wait for a read of their own. -/
def State.hostFlush (s : State) (wi core : Nat) : Except Stop State :=
  let c := s.core core
  match s.fab.hostReqs.find? fun r => r.warp == wi && r.thread == none && r.pa == flushPa with
  | some r =>
    if r.answer.isSome then .ok ((s.hostDone r).setCore core { c with flushed := max c.flushed r.mark })
    else .error (.park .release s)
  | none => if c.posted ≤ c.flushed then .ok s else .error (.park .release (s.hostAsk wi none flushPa 8 0 c.posted))

/-- A remote write of a core that a warp's workgroup was saved from is not acknowledged yet (R154, R430). -/
def State.oldFlights (s : State) (wi : Nat) : Bool :=
  match s.warp? wi with
  | some w => (s.wgOf w).store.flights.any fun id => s.fab.flights.any fun f => f.id == id
  | none => false

/-- What a system-scope release waits for beside the rest: the write-combining buffer drained, every remote write
acknowledged, those of cores its workgroup was saved from among them, and a host read returned behind the core's host
writes (R137, R154, R166, R474). -/
def State.systemQuiet (s : State) (wi core : Nat) : Except Stop State := do
  let s := s.drainCore core
  need (s.wcbQuiet core && !s.oldFlights wi) (.park .release s)
  s.hostFlush wi core

/-- No home holds a write of the device back: every write that has left an L1 is performed (R39, R59, R137). -/
def State.writesDone (s : State) : Bool := s.xlat.heldWrites.all fun h => h.host.isSome

/-- The accesses that a warp's lane blocks have made are performed towards a scope (R210, R340): at course scope and wider
the lines they left dirty are written back to L2, and at system scope what they sent to peers and to the host is
acknowledged. -/
def State.lanePerformed (s : State) (wi core scope : Nat) : Except Stop State :=
  match s.warp? wi with
  | none => .ok s
  | some w => do
    let s := if 4 ≤ scope then w.laneLines.foldl (fun s l => s.l1WriteBack core l) s else s
    if 3 ≤ scope ∧ w.laneLines ≠ [] then need s.writesDone (.park .release s)
    let s ← if scope = 6 ∧ w.laneSent then s.systemQuiet wi core else .ok s
    return s.modWarp wi fun w => { w with laneLines := if 4 ≤ scope then [] else w.laneLines, laneSent := w.laneSent && scope != 6 }

/-- The release part at a scope (R137): the interval closed; at course scope and wider the cluster's snapshot and
write-back; at system scope the fabric and host waited for. With State.acquireSig and State.orderedLoadMem it is what gives a
race-free program the reads that R122 and R124 allow. -/
def State.releasePart (s : State) (wi core scope : Nat) : Except Stop (Sig × State) := do
  let s := s.closeInterval core
  if scope ≤ 3 then
    if scope = 3 then need s.writesDone (.park .release s)
    return ((s.core core).sigOf, s)
  let (snap, s) := s.snapshot core
  need s.writesDone (.park .release s)
  let s ← if scope = 6 then s.systemQuiet wi core else .ok s
  return (snap, s)

/-- The core's state after a package-scope release: what the snapshot held is removed (R138). -/
def State.releaseDone (s : State) (core scope : Nat) : State :=
  if scope ≤ 4 then s
  else s.setCore core { s.core core with wsig := 0, wcount := 0, wfull := false, wfloor := s.tick % 2 ^ 43 }

/-- A release without a sync block (R142). -/
def State.release (s : State) (wi core scope : Nat) : Except Stop State := do
  let (_, s) ← s.releasePart wi core scope
  return s.releaseDone core scope

/-- An acquire without a sync block: at course scope and wider the whole L1 is written back and invalidated (R142). -/
def State.acquire (s : State) (core scope : Nat) : State := if scope ≤ 3 then s else (s.count core 6 1).l1Flush core

/-- An order's release part: .REL, .AR and .SC. -/
def releases : MemOrd → Bool
  | .rel | .ar | .sc => true
  | _ => false

/-- An order's acquire part: .ACQ, .AR and .SC. -/
def acquires : MemOrd → Bool
  | .acq | .ar | .sc => true
  | _ => false

/-- The release part of an order. -/
def State.releaseOrd (s : State) (wi core : Nat) (o : MemOrd) (scope : Nat) : Except Stop State :=
  if releases o then s.release wi core scope else .ok s

/-- The acquire part of an order. -/
def State.acquireOrd (s : State) (core : Nat) (o : MemOrd) (scope : Nat) : State :=
  if acquires o then s.acquire core scope else s

/-- A sync block by its fields (R130, R131); `reserved` when a reserved byte or value is found. -/
structure SyncBlk where
  value : Nat
  gen : Nat
  sig : Sig
  scope : Nat
  releaser : Nat
  deriving DecidableEq, Repr

/-- A sync block read from its 512 bytes; none when a reserved byte or field value is not legal (R129, R131). -/
def SyncBlk.parse (x : Nat) : Option SyncBlk :=
  let bytes (lo n : Nat) := x / 2 ^ (8 * lo) % 2 ^ (8 * n)
  let st := bytes 16 8
  if bytes 24 40 ≠ 0 ∨ bytes 320 192 ≠ 0 ∨ 384 < st / 2 ^ 12 % 2 ^ 9 ∨ st / 2 ^ 8 % 8 = 7 then none
  else some { value := bytes 0 8, gen := bytes 8 8
              sig := { sig := BitVec.ofNat 2048 (bytes 64 256), count := st / 2 ^ 12 % 2 ^ 9,
                       full := st / 2 ^ 11 % 2 == 1, floor := st / 2 ^ 21 }
              scope := st / 2 ^ 8 % 8, releaser := st % 256 }

/-- The 512 bytes of a sync block. -/
def SyncBlk.pack (b : SyncBlk) : Nat :=
  let st := b.releaser % 256 + b.scope * 2 ^ 8 + b.sig.full.toNat * 2 ^ 11 + b.sig.count * 2 ^ 12 + b.sig.floor % 2 ^ 43 * 2 ^ 21
  b.value % 2 ^ 64 + b.gen % 2 ^ 64 * 2 ^ 64 + st * 2 ^ 128 + b.sig.sig.toNat * 2 ^ 512

/-- The update of a sync block by REL or REL.ADD (R138). -/
def SyncBlk.update (b : SyncBlk) (now : Nat) (v : Word) (add : Bool) (core scope : Nat) (snap : Sig) : SyncBlk :=
  { value := (if add then b.value + v.toNat else v.toNat) % 2 ^ 64
    gen := (b.gen + 1) % 2 ^ 64
    sig := if scope ≤ 3 then b.sig else if add then Sig.merge now b.sig snap else snap
    scope := scope, releaser := core }

/-- What ACQ does to its core at course scope and wider: the lines that may be older than the release's are dropped, so that no
read returns a write that happens-before order hides (R122, R124, R139). -/
def State.acquireSig (s : State) (core scope : Nat) (b : Sig) : State :=
  if scope ≤ 3 then s
  else
    let stale (line : Nat) : Bool := b.full || sigHits b.sig (line * 128) ||
      decide (floorPos s.tick (s.mem.l1At core line).tick ≤ floorPos s.tick b.floor + 1)
    let s := if b.full then s.count core 6 1 else s
    let s := ((s.mem.l1Lines core).filter stale).foldl (fun s l => s.l1Drop core l) s
    s.setCore core ((s.core core).withSig (Sig.merge s.tick (s.core core).sigOf b))

end Sys2Proof.Machine
end

