-- ==== Sys2Proof/Machine/Kiln.lean ====
section
/-! DEFINITION. Kiln page entries (R91), who may touch them (R100), the transitions of R96 with their closures (R98),
and the witness records they go with (R444, R445). -/

namespace Sys2Proof.Machine

/-- A checkpoint is under way: the IO dies hold inbound writes without acknowledging them (R109). -/
def State.checkpointing (s : State) : Bool := match s.host.copying with | some c => !c.restore | none => false

/-- From step 3 of a checkpoint on, kiln transitions are deferred: an event that makes one does not take place yet (R109). -/
def State.kilnDeferred (s : State) : Bool := match s.host.copying with | some c => !c.restore && c.time.isSome | none => false

/-- The event that is taking place is a kiln transition, or a write that the IO dies hold, which a checkpoint puts off:
the step that brings it puts it among those that are made in order of arrival when the checkpoint ends (R109). -/
def State.defer (s : State) : State :=
  { s with host := { s.host with copying := s.host.copying.map fun c => { c with puttingOff := true } } }

/-- An event that was put off takes its place (R109). -/
def State.keepDeferred (s : State) (i : Instr) : State :=
  { s with host := { s.host with copying := s.host.copying.map fun c =>
      if c.puttingOff then { c with deferred := c.deferred ++ [i], puttingOff := false } else c } }

/-- A kiln page entry (R91). -/
def State.kpage (s : State) (i : Nat) : BitVec 128 := Tab.get 0 s.kiln.pages i

/-- A kiln page entry written. -/
def State.setKpage (s : State) (i : Nat) (e : BitVec 128) : State :=
  { s with kiln := { s.kiln with pages := Tab.set 0 s.kiln.pages i e } }

/-- Fields of a kiln page entry (R91). -/
def kVersion (e : BitVec 128) : Nat := field e 127 96
def kWitness (e : BitVec 128) : Nat := field e 95 64
def kFirst (e : BitVec 128) : Nat := field e 63 45
def kCount (e : BitVec 128) : Nat := field e 44 32
def kHolders (e : BitVec 128) : Nat := field e 31 20
def kPart (e : BitVec 128) : Nat := field e 11 8
def kFailed (e : BitVec 128) : Bool := bit e 3
def kSt (e : BitVec 128) : Nat := field e 2 0

/-- Every page of the binding that starts at `first` changed at once (R90). -/
def State.modBinding (s : State) (first : Nat) (f : BitVec 128 → BitVec 128) : State :=
  (List.range (kCount (s.kpage first))).foldl (fun s i => s.setKpage (first + i) (f (s.kpage (first + i)))) s

/-- The first pages of the bindings of a partition that are not FREE. -/
def State.bindings (s : State) : List Nat :=
  (s.kiln.pages.filter fun e => kSt e.2 != 0 && kFirst e.2 == e.1).map fun e => e.1

/-- The binding that bears a version of a partition. -/
def State.findVersion (s : State) (part version : Nat) : Option Nat :=
  s.bindings.find? fun f => kPart (s.kpage f) == part && kVersion (s.kpage f) == version

/-- The bindings a witness record's attempt produced. -/
def State.outputsOf (s : State) (id : Nat) : List Nat := s.bindings.filter fun f => kWitness (s.kpage f) == id

/-- HOLDERS of a binding changed (R95). -/
def State.hold (s : State) (first : Nat) (d : Int) : State :=
  s.modBinding first fun e => setField e 31 20 ((kHolders e : Int) + d).toNat

/-- Bytes of a witness record (R444). -/
def recGet (r : BitVec 2048) (lo n : Nat) : Nat := field r (8 * (lo + n) - 1) (8 * lo)

/-- Bytes of a witness record written. -/
def recSet (r : BitVec 2048) (lo n v : Nat) : BitVec 2048 := setField r (8 * (lo + n) - 1) (8 * lo) v

/-- A live witness record (R444). -/
def State.record? (s : State) (id : Nat) : Option (BitVec 2048) :=
  let r := Tab.get 0 s.cert.records id
  if id ≠ 0 ∧ recGet r 0 4 = id then some r else none

/-- A witness record written. -/
def State.setRecord (s : State) (id : Nat) (r : BitVec 2048) : State :=
  { s with cert := { s.cert with records := Tab.set 0 s.cert.records id r } }

/-- A witness record changed. -/
def State.modRecord (s : State) (id : Nat) (f : BitVec 2048 → BitVec 2048) : State :=
  match s.record? id with
  | some r => s.setRecord id (f r)
  | none => s

/-- RSTATE of a record (R444). -/
def rState (r : BitVec 2048) : Nat := recGet r 7 1 % 8

/-- RSTATE written. -/
def setRState (r : BitVec 2048) (v : Nat) : BitVec 2048 := recSet r 7 1 (recGet r 7 1 / 8 * 8 + v)

/-- The versions of kiln inputs a record lists (R444): version 0 is ordinary memory. -/
def recInputs (r : BitVec 2048) : List Nat :=
  ((List.range (recGet r 6 1 % 16)).map fun i => recGet r (32 + 8 * i + 4) 4).filter fun v => v != 0

/-- The versions of outputs a record lists. -/
def recOutputs (r : BitVec 2048) : List Nat :=
  (List.range (recGet r 6 1 / 16 % 8)).map fun i => recGet r (96 + 8 * i + 4) 4

/-- The partition of a record. -/
def recPart (r : BitVec 2048) : Nat := recGet r 9 1 % 16

/-- The live records, by number. -/
def State.liveRecords (s : State) : List Nat := s.cert.records.map fun e => recGet e.2 0 4

/-- A record leaves with the records of the earlier attempts of its operator, whose outputs it has taken over (R444). -/
def State.dropRecords (s : State) : Nat → Nat → State
  | 0, _ => s
  | fuel + 1, id =>
    match s.record? id with
    | none => s
    | some r =>
      let c := s.cert
      { s with cert := { c with records := Tab.set 0 c.records id 0
                                kernelCores := Tab.set [] c.kernelCores id []
                                regions := Tab.set (0, 0) c.regions id (0, 0)
                                classes := Tab.set 0 c.classes id 0 } }.dropRecords fuel (recGet r 24 4)

/-- A record retires with its stored copy (R444, R454) once each output is RELEASED, or FREE after FAILED. -/
def State.retireRecord (s : State) (id : Nat) : State :=
  match s.record? id with
  | none => s
  | some r =>
    let done := (recOutputs r).all fun v => match s.findVersion (recPart r) v with
      | some f => kSt (s.kpage f) == 4
      | none => true
    if done && (rState r == 3 || bit r 61) then
      let s := { s with cert := { s.cert with stored := s.cert.stored.filter fun x => x.witness != id } }
      s.dropRecords (s.cert.records.length + 1) id
    else s

/-- A PASSED binding whose inputs are all RELEASED becomes RELEASED (R96). An input version that no binding bears any
more was RELEASED when it was freed, or its taint would have reached this record. -/
def State.inputsReleased (s : State) (r : BitVec 2048) : Bool :=
  (recInputs r).all fun v => match s.findVersion (recPart r) v with
    | some f => kSt (s.kpage f) == 4
    | none => true

/-- The releases that follow from a pass or another release, record by record (R96). -/
def State.releaseKiln (s : State) : Nat → List Nat → State
  | 0, _ => s
  | _, [] => s
  | fuel + 1, id :: rest =>
    match s.record? id with
    | none => s.releaseKiln fuel rest
    | some r =>
      let outs := (s.outputsOf id).filter fun f => kSt (s.kpage f) == 3
      if outs.isEmpty || !s.inputsReleased r then s.releaseKiln fuel rest
      else
        let s := outs.foldl (fun s f =>
          let s := s.modBinding f fun e => setField e 2 0 4
          { s with cert := { s.cert with releaseTick := Tab.set 0 s.cert.releaseTick f s.tick
                                         released := Tab.set 0 s.cert.released f r } }) s
        let vs := outs.map fun f => kVersion (s.kpage f)
        let next := s.liveRecords.filter fun q => match s.record? q with
          | some x => recPart x == recPart r && (recInputs x).any fun v => vs.contains v
          | none => false
        (s.retireRecord id).releaseKiln fuel (rest ++ next)

/-- A version passes: its binding and what follows (R96). -/
def State.passRecord (s : State) (id : Nat) : State :=
  let s := (s.outputsOf id).foldl (fun s f =>
    if kSt (s.kpage f) = 2 then s.modBinding f fun e => setField e 2 0 3 else s) s
  s.releaseKiln (s.cert.records.length * (s.cert.records.length + 1) + 1) [id]

/-- The closure of a taint over the records that list a tainted version as input (R98). -/
def State.taintClosure (s : State) : Nat → List (Nat × Nat) → State
  | 0, _ => s
  | _, [] => s
  | fuel + 1, (p, v) :: rest =>
    let ids := s.liveRecords.filter fun q => match s.record? q with
      | some x => recPart x == p && (recInputs x).contains v
      | none => false
    let (s, new) := ids.foldl (fun (a : State × List (Nat × Nat)) id =>
      let s := a.1
      let s := s.modRecord id fun r => if rState r ≤ 2 then setRState r 5 else r
      let outs := (s.outputsOf id).filter fun f => kSt (s.kpage f) != 5 && kSt (s.kpage f) != 4
      (outs.foldl (fun s f => s.modBinding f fun e => setField e 2 0 5) s,
       a.2 ++ outs.map fun f => (kPart (s.kpage f), kVersion (s.kpage f)))) (s, [])
    s.taintClosure fuel (rest ++ new)

/-- The outputs of an attempt become TAINTED where they are in one of the given states, with the closure (R96, R98). -/
def State.taintRecord (s : State) (id : Nat) (states : List Nat) (failed : Bool) : State :=
  let outs := (s.outputsOf id).filter fun f => states.contains (kSt (s.kpage f))
  let vs := outs.map fun f => (kPart (s.kpage f), kVersion (s.kpage f))
  let s := outs.foldl (fun s f => s.modBinding f fun e =>
    let e := setField e 2 0 5
    if failed then setBit e 3 true else e) s
  s.taintClosure (s.kiln.pages.length + vs.length + 1) vs

/-- An operator reported failed, and every TAINTED descendant that waits on its versions with it (R96, R453). -/
def State.failOperator (s : State) : Nat → List Nat → State
  | 0, _ => s
  | _, [] => s
  | fuel + 1, id :: rest =>
    match s.record? id with
    | none => s.failOperator fuel rest
    | some r =>
      if bit r 61 then s.failOperator fuel rest
      else
        let outs := (s.outputsOf id).filter fun f => kSt (s.kpage f) == 5
        let vs := outs.map fun f => kVersion (s.kpage f)
        let s := outs.foldl (fun s f => s.modBinding f fun e => setBit e 3 true) s
        let s := s.modRecord id fun r => setBit r 61 true
        let s := (s.logEvent 12 4 (recPart r) (BitVec.ofNat 64 id)).send (.msix 0)
        let next := s.liveRecords.filter fun q => match s.record? q with
          | some x => recPart x == recPart r && ((recInputs x).any fun v => vs.contains v) &&
              (s.outputsOf q).any fun f => kSt (s.kpage f) == 5
          | none => false
        s.failOperator fuel (rest ++ next)

/-- An operator reported failed (R453). -/
def State.operatorFailed (s : State) (id : Nat) : State :=
  s.failOperator (s.cert.records.length * (s.cert.records.length + 1) + 1) [id]

/-- The certified launch's record when one of its workgroups is aborted other than by LAUNCH_END or CTX_END (R96,
R445): its OPEN outputs are TAINTED and the record CANCELLED. -/
def State.cancelAttempt (s : State) (id : Nat) : State :=
  match s.record? id with
  | some r =>
    if rState r = 0 then (s.setRecord id (setRState r 5)).taintRecord id [1] false else s
  | none => s

/-- The record when its launch is ended by LAUNCH_END or with its context (R96, R419, R445). One that is CANCELLED by then
stays so, and its operator is not tried again: it is reported failed (R453). -/
def State.endAttempt (s : State) (id : Nat) : State :=
  match s.record? id with
  | some r =>
    if rState r = 0 then
      let s := (s.setRecord id (setRState r 4)).taintRecord id [1] true
      s.operatorFailed id
    else if rState r = 5 ∧ s.cert.stored.any (fun x => x.witness == id) then s.operatorFailed id
    else s
  | none => s

/-- What an issuer may do with a version (R100): the launch's record, or the record its witness kernel checks. -/
def State.kilnAllows (s : State) (g : Workgroup) (page : Nat) (write : Bool) : Bool :=
  let e := s.kpage page
  let l := s.launch? g.launch
  let own := match l with | some l => l.witness | none => none
  let producer := g.cert && kWitness e != 0 && own == some (kWitness e)
  let lists (id : Option Nat) : Bool := match id with
    | some id => match s.record? id with
      | some r => recPart r == kPart e && (recInputs r).contains (kVersion e)
      | none => false
    | none => false
  let consumer := g.cert && lists own
  let witness := !write && (match g.witness with
    | some id => kWitness e == id || lists (some id)
    | none => false)
  kPart e == g.part && match kSt e with
    | 1 => producer
    | 2 => !write && (consumer || witness)
    | 3 => !write && (consumer || witness)
    | 4 => !write
    | 5 => producer || (!write && (consumer || witness))
    | _ => false

end Sys2Proof.Machine
end

