-- ==== Sys2Proof/Machine/Landing.lean ====
section
/-! DEFINITION. Landing handles and landing words (R359-R363). -/

namespace Sys2Proof.Machine

/-- Where a landing word lies. -/
inductive LandLoc where
  | nowhere
  | cell (c : Nat)
  | mem (t : Trans)
  deriving DecidableEq, Repr

/-- A handle that names a scratchpad address (R359). -/
def landIsSp (h : Word) : Bool := bit h 63 && field h 62 32 == 0

/-- A handle that names a global word. -/
def landIsGlobal (h : Word) : Bool := h != 0 && !landIsSp h

/-- A handle of an 8- or 16-byte word resolved and checked (R359): a workgroup's scratchpad, or a global word. -/
def State.landing (s : State) (g : Workgroup) (h : Word) (n : Nat) (kind : AccKind) (p : Perm) :
    Except Stop (LandLoc × State) := do
  need (field h 31 0 % n == 0) (alignment h)
  if landIsSp h then
    let c ← s.spCell g (BitVec.ofNat 64 (field h 31 0)) n
    return (.cell c, s)
  else
    let (t, s) ← s.translate (s.whoOf g) kind p false h
    s.keep do
    need (t.kind.isMem && t.cache ≤ 1) (alignment h)
    return (.mem t, s)

/-- The word at a location as its port or home holds it; the cluster's L1s write back and drop the line first. -/
def State.landRead (s : State) (core : Nat) (l : LandLoc) (n : Nat) : Nat × State :=
  match l with
  | .nowhere => (0, s)
  | .cell c => (readN s.mem.sp c n, s)
  | .mem t =>
    let s := s.l1DropAll (clusterCores core) (t.pa / 128)
    (s.readDev t.pa n, s)

/-- The word at a location written indivisibly (R359). -/
def State.landWrite (s : State) (core : Nat) (l : LandLoc) (n x : Nat) : State :=
  match l with
  | .nowhere => s
  | .cell c => s.spStore c n x
  | .mem t => ((s.l1DropAll (clusterCores core) (t.pa / 128)).insertSig core t).writePa t.pa n x core

/-- A landing word's fields (R360). -/
structure LandWord where
  phase : Nat
  expected : Nat
  pending : Nat
  sectors : Nat
  status : Nat
  deriving DecidableEq, Repr

/-- The fields of the 16 bytes of a landing word; reserved bits are not looked at (R360). -/
def LandWord.ofNat (x : Nat) : LandWord :=
  { phase := x % 2 ^ 4, expected := x / 2 ^ 4 % 2 ^ 16, pending := x / 2 ^ 20 % 2 ^ 16, sectors := x / 2 ^ 36 % 2 ^ 40
    status := x / 2 ^ 76 % 2 ^ 16 }

/-- The 16 bytes of a landing word, reserved bits zero (R360). -/
def LandWord.pack (l : LandWord) : Nat :=
  l.phase % 2 ^ 4 + l.expected % 2 ^ 16 * 2 ^ 4 + l.pending % 2 ^ 16 * 2 ^ 20 + l.sectors % 2 ^ 40 * 2 ^ 36
    + l.status % 2 ^ 16 * 2 ^ 76

/-- An operation's end: its status and its arrival, which may complete the phase (R362). -/
def LandWord.arrive (l : LandWord) (status : Nat) : LandWord :=
  let l := { l with status := l.status ||| status }
  if l.pending = 0 then l
  else if l.pending = 1 then { l with phase := (l.phase + 1) % 16, pending := l.expected }
  else { l with pending := l.pending - 1 }

/-- Sectors posted (R362). -/
def LandWord.post (l : LandWord) (n : Nat) : LandWord := { l with sectors := (l.sectors + n) % 2 ^ 40 }

/-- The landing-word update of a location. -/
def State.landUpdate (s : State) (core : Nat) (l : LandLoc) (f : LandWord → LandWord) : State :=
  let (x, s) := s.landRead core l 16
  s.landWrite core l 16 (f (LandWord.ofNat x)).pack

/-- Sectors that have landed (R362). A word reset since with fewer sectors counted takes a free value: the spec states
no result there (entry 20). -/
def State.landSectors (s : State) (core : Nat) (l : LandLoc) (n : Nat) : State :=
  let (x, s) := s.landRead core l 16
  let w := LandWord.ofNat x
  if n ≤ w.sectors then s.landWrite core l 16 { w with sectors := w.sectors - n }.pack
  else
    let (f, s) := s.free Config.freeWord
    s.landWrite core l 16 { w with sectors := f.toNat % 2 ^ 40 }.pack

/-- The operations that still write into a workgroup's scratchpad, a conditional copy's VERSION word among it, or its tiles
and accumulators (R31, R375). -/
def State.pendingInto (s : State) (g : Nat) : Bool :=
  (s.eng.ops.any fun o => o.wg == g && (match o.kind with
      | .gather => true
      | .post => field o.req 515 514 == 1
      | .cond => field o.req 515 514 == 1 || landIsSp (BitVec.ofNat 64 (field o.req 639 576))
      | _ => false)) || s.eng.mx.any fun o => o.wg == g

/-- A workgroup's core resources are its own: it runs there, or its scratchpad is held (R31, R292). -/
def State.occupies (s : State) (i : Nat) : Bool :=
  let g := s.wg i
  g.saved.isNone && !g.away && (g.live || (g.exited && (s.pendingInto i ||
    (match g.cluster with
      | some c => (List.range s.wgs.length).any fun j =>
          (s.wg j).cluster == some c && ((s.wg j).live || s.pendingInto j)
      | none => false))))

/-- Where a posted operation's landing word lies now: a scratchpad word of a freed allocation is counted nowhere
(R375); a global word is translated again, and its fault stops the operation's queue (R44). -/
def State.landAt (s : State) (gi ctx core : Nat) (h : Word) (w : Who) (kind : AccKind) :
    Except Stop (LandLoc × State) :=
  if h = 0 then .ok (.nowhere, s)
  else if landIsSp h then
    if s.occupies gi then
      match s.spCell (s.wg gi) (BitVec.ofNat 64 (field h 31 0)) 16 with
      | .ok c => .ok (.cell c, s)
      | .error _ => .ok (.nowhere, s)
    else .ok (.nowhere, s)
  else do
    let (t, s) ← s.translate { w with ctx := ctx } kind .rw false h
    return (if t.kind.isMem && t.cache ≤ 1 then .mem t else .nowhere, s)

/-- A workgroup is switched out, or was when it ended (R148). -/
def Workgroup.out (g : Workgroup) : Bool := g.saved.isSome || g.away

/-- What an operation's end leaves in its context's sticky word: the arithmetic flags of its STATUS (R202), and all of it
when its workgroup is switched out (R148, R362). -/
def State.lateStatus (s : State) (gi ctx status : Nat) : State :=
  let bits := if (s.wg gi).out then status % 2 ^ 14 else status / 2 ^ 9 % 32 * 2 ^ 9
  if bits = 0 then s else s.sticky ctx bits

end Sys2Proof.Machine
end

