-- ==== Sys2Proof/Machine/Abort.lean ====
section
/-! DEFINITION. The end of a warp and of a workgroup: gangs dissolved (R228), mappings unmapped (R69), the exit of the
last warp (R292), and the abort of a workgroup (R235, R237, R411). -/

namespace Sys2Proof.Machine

/-- A gang dissolved: its members set none, its arrivals dropped; a member parked in the latch then finds no gang
(R228). -/
def State.dissolve (s : State) (gi gang : Nat) : State :=
  let s := { s with warps := s.warps.map fun (w : Warp) =>
    match w.gang with
    | some x => if w.wg = gi ∧ x.g = gang then { w with gang := none } else w
    | none => w }
  let g := s.wg gi
  s.setWg gi { g with arrivals := g.arrivals.filter fun a => a.1 != gang || a.2.bad }

/-- A mapped line's row written back to memory through its home, bytes, tags and poison (R69). It changes no byte as agents
see it, and so nothing that is derived from the line. -/
def State.unmapLine (s : State) (line cell : Nat) : State :=
  let m := s.mem
  let bytes := writeMasked m.bytes (line * 128) 128 (2 ^ 128 - 1) (readN m.sp cell 128)
  let tags := (List.range 8).foldl (fun t i => Tab.set false t (line * 8 + i)
    (decide (line * 128 < 0xC000000000) && Tab.get false m.spTags (cell / 16 + i))) m.tags
  let poison := (List.range 4).foldl (fun t i => Tab.set false t (line * 4 + i) (Tab.get false m.spPoison (cell / 32 + i))) m.poison
  let s := { s with mem := { m with bytes := bytes, tags := tags, poison := poison, dir := Tab.set .uncached m.dir line .uncached } }
  s.wakeLine line

/-- A mapping unmapped whole (R69, R373). -/
def State.unmap (s : State) (x : Mapping) : State :=
  let s := { s with mem := { s.mem with maps := s.mem.maps.filter fun y => y != x } }.idleFrom x.core
  (List.range x.lines.length).foldl (fun s i => s.unmapLine (x.lines.getD i 0) (x.row + 128 * i)) s

/-- Every mapping of a workgroup unmapped (R69). -/
def State.unmapAll (s : State) (gi : Nat) : State :=
  (s.mem.maps.filter fun x => x.wg == gi).foldl (fun s x => s.unmap x) s

/-- A launch changed by its number. -/
def State.modLaunch (s : State) (n : Nat) (f : Launch → Launch) : State :=
  { s with sched := { s.sched with
    launches := s.sched.launches.map fun (l : Launch) => if l.num = n then f l else l } }

/-- trap_cause after a machine check (R236, R465): its cause and reason; no handler runs. -/
def checkWord (reason : Nat) : Word := setBit (Trap.word { cause := 0x21, reason := reason }) 56 false

/-- A warp ends: nothing of it issues again. Its slot, base block and holding stay counted while an access of it is out
(R222). -/
def Warp.ended (w : Warp) : Warp := { w with live := false, lane := false, mon := none, gang := none, park := .run }

/-- The accesses of a warp that are out and may still write one of its registers (R221, R222). -/
def State.regsOut (s : State) (wi : Nat) : List Nat :=
  ((s.fab.remotes.filter fun r => r.warp == wi).map fun r => r.id) ++
    (s.fab.hostReqs.filter fun r => r.warp == wi && r.pa != flushPa).map fun r => r.id

/-- What has been answered of a warp that has ended is dropped: its write has landed in registers nothing reads, and the
slot's count of it ends (R222). -/
def State.dropAnswered (s : State) : State :=
  let gone (wi : Nat) : Bool := match s.warp? wi with | some w => !w.live | none => false
  { s with fab := { s.fab with remotes := s.fab.remotes.filter fun r => r.answer.isNone || !gone r.warp
                               hostReqs := s.fab.hostReqs.filter fun r => r.answer.isNone || !gone r.warp } }

/-- A warp's slot, base block and holding count as occupied: it is live, or an access of it is out (R222). -/
def State.occupiesSlot (s : State) (wi : Nat) (w : Warp) : Bool := w.live || !(s.regsOut wi).isEmpty

/-- The register blocks that count as a warp's: those it holds, and those it gave up while an access, or a lane instruction,
that may write them is still out (R221, R222). -/
def State.blocksOf (s : State) (wi : Nat) (w : Warp) : Nat :=
  let owes := (w.owed.2.any (s.regsOut wi).contains) || (w.live && (w.queue ++ w.hblock.toList).any fun b => b.owes)
  (if s.occupiesSlot wi w then w.held else 0) + (if owes then w.owed.1 else 0)

/-- A request for register blocks withdrawn (R221). -/
def State.dropGrow (s : State) (wi : Nat) : State :=
  { s with eng := { s.eng with grow := s.eng.grow.filter fun x => x.2.1 != wi } }

/-- An MX queue entry with nothing in it. -/
def MxOp.blank : MxOp :=
  { id := 0, core := 0, kind := .emit, wg := 0, ctx := 0, d := 0, a := 0, b := 0, off := 0, tid := 0, entry := 0,
    rtid := 0, rentry := 0, shA := 0, shB := 0, mode := 0, dctl := 0, dres := 0, dland := 0, key := 0, rnd := 0,
    warp := 0, done := 0, status := 0, park := none, abort := 0, carry := [], bad := [] }

/-- The emits a workgroup's slots owe at its exit join its MX queue (R408). -/
def State.queueEmits (s : State) (gi : Nat) : State :=
  let g := s.wg gi
  (List.range 2).foldl (fun s i =>
    if (g.slots.getD i {}).bound = 0 ∧ !(s.eng.mx.any fun o => o.wg == gi) then s
    else
      let o : MxOp := { MxOp.blank with id := s.eng.nextId, core := g.core, kind := .emit, wg := gi, ctx := g.ctx, d := i }
      { s with eng := { s.eng with mx := s.eng.mx ++ [o], nextId := s.eng.nextId + 1 } }) s

/-- The workgroup counts as exited for its launch's join counter (R292, R423). -/
def State.leave (s : State) (gi : Nat) : State :=
  let g := s.wg gi
  let s := s.setWg gi { g with live := false, exited := true }
  let s := (s.wgs.filter fun x => x.cluster.isSome && x.cluster == g.cluster).foldl (fun s x => s.idleFrom x.core)
    (s.idleFrom g.core)
  s.modLaunch g.launch fun l => { l with join := l.join - 1 }

/-- A warp ends (R292); the last one of its workgroup takes the workgroup with it. -/
def State.exitWarp (s : State) (wi : Nat) : State :=
  match s.warp? wi with
  | none => s
  | some w =>
    let s := match w.gang with | some x => s.dissolve w.wg x.g | none => s
    let s := (s.modWarp wi Warp.ended).dropGrow wi
    if (s.warpsOf w.wg).isEmpty then
      let s := s.unmapAll w.wg
      let s := s.queueEmits w.wg
      s.leave w.wg
    else s

/-- The workgroups of a launch that are placed or saved and have not exited. -/
def State.liveWgs (s : State) (n : Nat) : List Nat :=
  (List.range s.wgs.length).filter fun i => (s.wg i).live && (s.wg i).launch == n

/-- A workgroup is aborted (R237): all its warps stop, its gangs are dissolved, its queued tensor instructions are abandoned
(R411), its launch records the first cause and places no further workgroup; the outputs of a certified launch follow R96. A
save slot it has, or was to have, is freed. `cause` 0 stands for an end by system software (R419), which decides the
launch's code itself. -/
def State.abortWg (s : State) (gi cause : Nat) (reason : Nat := 0) : State :=
  let g := s.wg gi
  if !g.live then s
  else
    let retry := cause == 0x30 && !g.cert
    let out := g.saved.isSome
    let s := s.dropGrains (s.warpsOf gi)
    let s := { s with warps := s.warps.map fun (w : Warp) =>
      if w.wg = gi ∧ w.live then { w.ended with trapCause := if cause = 0x21 ∧ reason ≠ 1 then checkWord reason else w.trapCause }
      else w }
    let grow := s.eng.grow.filter fun x => match s.warp? x.2.1 with | some w => w.wg != gi | none => false
    let ops := s.eng.ops.map fun (o : EngOp) =>
      if o.wg = gi then { o with poisoned := o.poisoned || retry, ended := o.ended || cause == 0 } else o
    let mx := (s.eng.mx.filter fun (o : MxOp) => o.wg != gi || (match o.kind with
        | .drain => true
        | .fence _ => !out
        | _ => false)).map fun (o : MxOp) => if o.wg = gi then { o with abort := if retry && o.done != 0 then 2 else 1 } else o
    let sends := s.fab.sends.map fun (x : BulkSend) => if x.wg = gi then { x with poisoned := x.poisoned || retry } else x
    let cut := cause == 0 && ((s.eng.ops.any fun o => o.wg == gi && (match o.kind with | .fence _ => false | _ => true))
      || s.eng.mx.any fun o => o.wg == gi && (match o.kind with | .ldt | .lds | .drain => true | _ => false))
    let s := if cut then s.setWg gi { g with mxcr := Tab.set 0 g.mxcr 0x071 (Tab.get 0 g.mxcr 0x071 ||| 0x10) } else s
    let s := if cut && out then s.sticky g.ctx 1 else s
    let s := { s with eng := { s.eng with grow := grow, ops := ops, mx := mx }, fab := { s.fab with sends := sends } }
    let s := s.unmapAll gi
    let slot := if g.cluster.isNone ∨ g.saved.isSome then g.saved.or g.stopping else none
    let s := match slot with | some n => s.freeSlot g.ctx n | none => s
    let stopping := if slot.isSome then none else g.stopping
    let g : Workgroup := { s.wg gi with arrivals := [], slots := [], saved := none, away := out, stopping := stopping, store := {} }
    let s := s.setWg gi g
    let s := if cause = 0x21 then s.logEvent 3 0 g.core (BitVec.ofNat 64 (cause + 256 * reason)) else s
    let s := if g.cert ∧ cause ≠ 0 then
        match s.launch? g.launch with
        | some { witness := some id, .. } => s.cancelAttempt id
        | _ => s
      else s
    let s := match s.launch? g.launch with
      | some { kernelOf := some id, .. } => s.modRecord id fun r => if rState r = 2 then setRState r 1 else r
      | _ => s
    let s := s.leave gi
    let n := (s.liveWgs g.launch).length
    let s := s.modLaunch g.launch fun l =>
      { l with join := n, nextOrd := l.count, code := if l.code = 0 ∧ cause ≠ 0 then 0x30 else l.code
               cause := if l.code = 0 ∧ cause ≠ 0 then cause else l.cause }
    { s with sched := { s.sched with work := s.sched.work.filter fun r => r.launch != g.launch || r.resume != [] } }.dropAnswered

end Sys2Proof.Machine
end

