-- ==== Sys2Proof/Machine/Ops.lean ====
section
/-! DEFINITION. The named operations every instruction is made of: taking a trap and returning from it (R231-R236,
R290, R291), fetching, the order between a warp's two streams (R210), and the frame of a scalar instruction and of a
lane instruction (R252, R261, R263, R298, R300). -/

namespace Sys2Proof.Machine

/-- The other stream is inside an instruction that a trap must let finish first (R231): the lane stream past its first
thread or with accesses out, or the scalar stream with an access out. -/
def State.midway (s : State) (wi : Nat) (t : Trap) (w : Warp) : Bool :=
  let out (lane : Bool) : Bool := (s.fab.remotes.any fun r => r.warp == wi && r.thread.isSome == lane) ||
    (s.fab.hostReqs.any fun r => r.warp == wi && r.thread.isSome == lane)
  if t.thread.isSome then out false
  else out true || (match w.blocks with | b :: _ => b.stage == .running || b.thread != 0 | [] => false)

/-- The number that stands for a warp's LAUNCH among the readers of the host window, 2^32 below its entries'. -/
def launchTag (wi : Nat) : Nat := 2 ^ 40 + wi

/-- A trapped member's arrival leaves its gang's latch: it arrives again when it has returned, and the others stay parked
(R228). One that owes GANG_MISMATCH still does. -/
def State.leaveLatch (s : State) (wi : Nat) : State :=
  match s.warp? wi with
  | some w =>
    let g := s.wg w.wg
    s.setWg w.wg { g with arrivals := g.arrivals.filter fun a => a.2.warp != wi || a.2.bad }
  | none => s

/-- The accesses of a warp that are out are forgotten: their responses are discarded (R163). -/
def State.dropRemotes (s : State) (wi : Nat) : State :=
  { s with fab := { s.fab with remotes := s.fab.remotes.filter fun r => r.warp != wi
                               hostReqs := s.fab.hostReqs.filter fun r =>
                                 r.warp != wi && r.warp != 2 ^ 32 + launchTag wi } }

/-- Taking a user-level trap (R234, R235): the trap registers written, the lane queue set aside by ACTIVE, the scalar
stream at trap_vec; or the workgroup aborted. `pc` is where the scalar stream stopped. While the other stream is inside
an instruction the trap waits, and its instruction issues again (R231). -/
def State.trap (s : State) (wi : Nat) (t : Trap) (pc : Word) : State :=
  match s.warp? wi with
  | none => s
  | some w =>
    if w.trapVec = 0 ∨ w.active then s.abortWg w.wg t.cause
    else if s.midway wi t w then s
    else
      let lpc := match w.queue with | b :: _ => b.lpc | [] => 0
      (((s.leaveLatch wi).dropGrow wi).dropRemotes wi).setWarp wi
        { w with trapCause := t.word, trapAddr := t.addr, trapPc := pc, trapLpc := lpc, lpcWritten := false
                 hblock := none, qfence := none, record := none, pc := w.trapVec, park := .run }

/-- Returning from a trap (R291): the lane queue restored, its head where the trap left it or at a written trap_lpc;
the scalar stream at trap_pc; ACTIVE cleared. -/
def Warp.trapReturn (w : Warp) : Warp :=
  let queue := match w.queue with
    | b :: r =>
      let moved := { b with lpc := w.trapLpc, thread := 0, seg := 0, running := none, stage := .fresh, fault := none }
      (if w.lpcWritten then moved else b) :: r
    | [] => []
  { w with queue := queue, pc := w.trapPc, trapCause := setBit w.trapCause 56 false, park := .run }

/-- The record of a warp's faulting access (R44), and its count (R488). -/
def State.faulted (s : State) (wi : Nat) (k : FaultKey) (reason level : Nat) (va : Word) : State :=
  (match s.warp? wi with | some w => s.count (s.wgOf w).core 8 1 | none => s).joinFault k reason level va

/-- What follows from a stop of the scalar stream: a trap, a parked access with its fault record (R44), an abort (R465), or a
wait. -/
def State.stopped (s : State) (wi : Nat) (pc : Word) : Stop → State
  | .trap t => s.trap wi t pc
  | .fault k reason level va => (s.faulted wi k reason level va).modWarp wi fun w => { w with park := .fault k }
  | .check reason =>
    match s.warp? wi with
    | some w => (s.modWarp wi fun w => { w with trapCause := checkWord reason }).abortWg w.wg 0x21 reason
    | none => s
  | .park p t => t.modWarp wi fun w => { w with park := p }
  | .late t e => t.stopped wi pc e

/-- A trap of a lane instruction records its thread (R236). -/
def Stop.atThread (i : Nat) : Stop → Stop
  | .trap t => .trap { t with thread := some i }
  | .late s e => .late s (e.atThread i)
  | e => e

/-- One instruction word fetched through the context's translation (R272). -/
def State.fetchWord (s : State) (wi : Nat) (va : Word) : Except Stop (Nat × State) :=
  match s.warp? wi with
  | none => .ok (0, s)
  | some w => do
    let g := s.wgOf w
    let (t, s) ← s.translate (s.whoOf g) .fetch .x false va
    s.keep do
    match t.kind with
    | .ctl => return s.ctlRead t.pa 4
    | .host =>
      need (!g.cert) (kilnAccess kEgress va)
      s.hostLoad wi none t.pa 4
    | _ =>
      need (!s.mem.poisoned t.pa 4) poisonConsumed
      return (s.mem.readCoh t.pa 4, s)

/-- The scalar and affine registers an instruction or a block reads and writes; `unknown` where its code cannot be
read yet. -/
structure RegUse where
  reads : List Nat := []
  writes : List Nat := []
  aff : List Nat := []
  unknown : Bool := false
  deriving DecidableEq, Repr

/-- Two uses together. -/
def RegUse.join (a b : RegUse) : RegUse :=
  { reads := a.reads ++ b.reads, writes := a.writes ++ b.writes, aff := a.aff ++ b.aff, unknown := a.unknown || b.unknown }

/-- The registers an operand names. -/
def operandUse : Operand → RegUse
  | .s n => { reads := [n.val] }
  | .a n => { aff := [n.val] }
  | _ => {}

/-- The scalar and affine registers a lane instruction reads and writes; a stochastic conversion's key may be the
register after B (R314). -/
def laneUse (f : LaneFields) : RegUse :=
  let d : RegUse := match f.dest with | .s n => { writes := [n.val] } | _ => {}
  let k : RegUse := match f.opb with | .s n => if f.rnd = 4 then { reads := [n.val + 1] } else {} | _ => {}
  (d.join k).join ((operandUse f.opa).join ((operandUse f.opb).join (operandUse f.opc)))

/-- A code word as the device finds it ahead of its fetch; none where it does not translate. -/
def State.peek (s : State) (w : Who) (va : Word) : Option Nat :=
  match s.walk w .x false va with
  | .ok t => if t.kind.isMem then some (s.mem.readCoh t.pa 4) else none
  | .error _ => none

/-- The uses of a block's instructions from an address to its L.END. -/
def State.codeUse (s : State) (w : Who) : Nat → Word → RegUse
  | 0, _ => { unknown := true }
  | fuel + 1, va =>
    match s.peek w va, s.peek w (va + 4), s.peek w (va + 8) with
    | some w0, some w1, some w2 =>
      if w0 / 2 ^ 22 = 0x0CF then {}
      else match decodeLaneFields w0 w1 w2 with
        | .ok (_, f) => (laneUse f).join (s.codeUse w fuel (va + 12))
        | .error _ => s.codeUse w fuel (va + 12)
    | _, _, _ => { unknown := true }

/-- The longest run of lane code looked ahead at. -/
def scanFuel : Nat := 65536

/-- Where a block may still read: its lane PC, or the start of a loop it is in that lies before it (R317). -/
def blockStart (b : Block) : Word :=
  b.stack.foldl (fun a e =>
    if e.kind = .loop ∧ (e.start.toNat * 4 : Nat) < a.toNat then BitVec.ofNat 64 (e.start.toNat * 4) else a) b.lpc

/-- The uses of the blocks that may run now. -/
def State.queueUse (s : State) (w : Warp) : RegUse :=
  w.blocks.foldl (fun u b => u.join (s.codeUse (s.whoOf (s.wgOf w)) scanFuel (blockStart b))) {}

/-- Two lists of registers meet. -/
def meets (a b : List Nat) : Bool := a.any fun x => b.contains x

/-- A scalar instruction waits for the queued blocks (R210, R280): `u.aff` are the affine registers it writes. -/
def State.blocked (s : State) (w : Warp) (u : RegUse) : Bool :=
  if w.blocks.isEmpty then false
  else
    let q := s.queueUse w
    meets u.writes q.reads || meets u.writes q.writes || meets u.reads q.writes || meets u.aff q.aff ||
      (q.unknown && !(u.reads.isEmpty && u.writes.isEmpty && u.aff.isEmpty))

/-- An instruction of the warp in focus. -/
def onWarp (s : State) (k : Warp → State) : Host.Outcome State Fault Refusal :=
  match s.warp? s.cur with
  | some w => if w.live then .next (k w) else .fault .noWarp
  | none => .fault .noWarp

/-- The warp goes on past a scalar instruction (R261). -/
def Warp.advance (w : Warp) : Warp := { w with pc := w.pc + 4, park := .run }

/-- The warp in focus goes on past a scalar instruction. -/
def State.advance (s : State) : State := s.modWarp s.cur Warp.advance

/-- The frame of a scalar instruction that decides itself where the scalar stream goes on. -/
def State.issue (s : State) (u : RegUse) (w : Warp) (body : Workgroup → Except Stop State) : State :=
  if s.blocked w u then s.modWarp s.cur fun w => { w with park := .laneQueue }
  else match body (s.wgOf w) with
    | .ok t => t
    | .error e => s.stopped s.cur w.pc e

/-- The frame of a scalar instruction that goes on at the next one. -/
def scalarOp (s : State) (u : RegUse) (body : Warp → Workgroup → Except Stop State) :
    Host.Outcome State Fault Refusal :=
  onWarp s fun w => s.issue u w fun g => (body w g).map State.advance

/-- The frame of a scalar instruction that transfers control. -/
def controlOp (s : State) (u : RegUse) (body : Warp → Workgroup → Except Stop State) :
    Host.Outcome State Fault Refusal :=
  onWarp s fun w => s.issue u w (body w)

/-- A scalar instruction with a scope waits until the lane queue is empty and its blocks' accesses are performed towards
the scope (R210, R340). -/
def State.drained (s : State) (w : Warp) (scope : Nat) : Except Stop State := do
  need w.blocks.isEmpty (.park .laneQueue s)
  s.lanePerformed s.cur (s.wgOf w).core scope

/-- A scalar result written with the check of s62 (R276) to the warp in focus. -/
def State.putS (s : State) (d : SReg) (x : Word) : Except Stop State :=
  match s.warp? s.cur with
  | some w => (w.writeS d x).map fun w => s.setWarp s.cur w
  | none => .ok s

/-- A scalar instruction that computes one register from others (R261, R276). -/
def alu (s : State) (d : SReg) (srcs : List SReg) (f : Warp → Word) : Host.Outcome State Fault Refusal :=
  scalarOp s { reads := srcs.map Fin.val, writes := [d.val] } fun w _ => s.putS d (f w)

/-- A block popped from the head; blocks with an empty mask behind it complete with it (R286). -/
def dropEmpty : List Block → List Block
  | b :: r => if b.mask = 0 then dropEmpty r else b :: r
  | [] => []

/-- The warp's head block completes and its lane is freed (R213, R286). -/
def Warp.popBlock (w : Warp) : Warp :=
  if w.active then { w with hblock := none, lane := false }
  else { w with queue := dropEmpty w.queue.tail, lane := false }

/-- The active mask of a block (R212). -/
def Block.active (b : Block) : BitVec 32 :=
  match b.stack with
  | e :: _ => e.active
  | [] => b.mask

/-- The threads that participate in an instruction (R298). -/
def participants (w : Warp) (b : Block) (f : LaneFields) : BitVec 32 :=
  b.active &&& (if f.pneg then ~~~(w.pget f.pred) else w.pget f.pred)

/-- The lane registers an instruction names, with the second of a pair or the four of a butterfly (R194, R220). -/
def maxReg (op : Nat) (f : LaneFields) : Nat :=
  let span := if f.sweep then 0 else if op = 0x184 then 3 else if f.ty.width = 64 then 1 else 0
  let o (x : Operand) : Nat := match x with | .v n => n.val | _ => 0
  let d := match f.dest with | .v n => n.val + span | _ => 0
  Nat.max d (Nat.max (o f.opa) (Nat.max (o f.opb) (o f.opc)))

/-- The head block of the warp in focus, changed. -/
def State.modHead (s : State) (k : Block → Block) : State :=
  s.modWarp s.cur fun w => match w.blocks with
    | b :: _ => w.setHead (some (k b))
    | [] => w

/-- The lane stream goes on past a lane instruction. -/
def Block.advance (b : Block) : Block :=
  { b with lpc := b.lpc + 12, thread := 0, seg := 0, running := none, started := true, stage := .fresh, owes := false
           fault := none, stopAt := none }

/-- The lane stream of the warp in focus goes on past a lane instruction. -/
def State.laneAdvance (s : State) : State := s.modHead Block.advance

/-- The thread at which a lane instruction stops before any of its own checks: the first active one, or where it has come
to (R44). -/
def Block.firstThread (b : Block) : Nat := if b.thread = 0 then lowest b.active else b.thread

/-- How far a stop leaves a lane instruction: a trap's issues again, every other goes on from where it is. -/
def Stop.stage : Stop → Issue
  | .trap _ => .fresh
  | .late _ e => e.stage
  | _ => .running

/-- What follows from a stop of the lane stream at a thread, which the block keeps with how far its instruction has come
(R231, R300): a trap, a fault that parks the block's instruction with its record (R44), an abort (R465), a mismatch that parks
the warp (R461), or a wait. -/
def State.laneHalt (s : State) (i : Nat) (stage : Block → Issue) : Stop → State
  | .fault k reason level va =>
    ((s.modHead fun b => { b with thread := i, stage := stage b }).faulted s.cur k reason level va).modHead fun b =>
      { b with fault := some k }
  | .park .pipeline t =>
    ({ t with rel := { t.rel with retry := t.rel.retry ++ [t.cur] } }.modHead fun b =>
      { b with thread := i, stage := stage b, stopAt := none }).modWarp t.cur fun w => { w with park := .pipeline }
  | .park _ t => t.modHead fun b => { b with thread := i, stage := stage b }
  | .late t e => t.laneHalt i stage e
  | e =>
    match s.warp? s.cur with
    | none => s
    | some w => (s.modHead fun b => { b with thread := i, stage := stage b }).stopped s.cur w.pc (e.atThread i)

/-- A lane instruction that has issued stops at a thread. -/
def State.laneStop (s : State) (i : Nat) (e : Stop) : State := s.laneHalt i (fun _ => e.stage) e

/-- The fetch of a lane instruction stops. -/
def State.laneFetchStop (s : State) (b : Block) (e : Stop) : State :=
  s.laneHalt b.firstThread (fun b => if e.stage = .fresh then .fresh else b.stage) e

/-- The frame of a lane instruction: the head block, the encoding checks at issue (R252), the holding check (R220),
then the body for the participating threads. -/
def laneOpFrame (s : State) (op : Nat) (f : LaneFields) (body : Warp → Block → BitVec 32 → State) :
    Host.Outcome State Fault Refusal :=
  onWarp s fun w => match w.blocks with
    | [] => s
    | b :: _ =>
      if !laneLegal op f then s.laneStop b.firstThread illegal
      else if b.stage = .fresh ∧ 64 * (1 + w.held) ≤ maxReg op f then s.laneStop b.firstThread (regRange 1)
      else body w b (participants w b f)

/-- A checker mismatch strikes at a thread of the head lane instruction (R461). -/
def State.mismatch (s : State) (i : Nat) : Bool :=
  match s.warp? s.cur with
  | some w => (match w.blocks with | b :: _ => b.stopAt == some i | [] => false)
  | none => false

/-- The frame of a lane instruction that acts for all its threads together: a mismatch at one of them stops it before it has
had any effect. -/
def laneAtOnce (s : State) (op : Nat) (f : LaneFields) (body : Warp → Block → BitVec 32 → State) :
    Host.Outcome State Fault Refusal :=
  laneOpFrame s op f fun w b part =>
    match (threads part).find? s.mismatch with
    | some i => s.laneStop i (.park .pipeline s)
    | none => body w b part

/-- A per-thread body over a list of threads: the state it leaves, and the thread and stop that ended it. A mismatch at a
thread stops it there: threads before it keep their results (R461). -/
def perThread (k : State → Nat → Except Stop State) : List Nat → State → State × Option (Nat × Stop)
  | [], s => (s, none)
  | i :: r, s =>
    match if s.mismatch i then .error (.park .pipeline s) else k s i with
    | .ok t => perThread k r t
    | .error e => (s, some (i, e))

/-- The threads still to do: the participating ones from where the block stopped. -/
def todo (b : Block) (part : BitVec 32) : List Nat := (threads part).filter fun i => b.thread ≤ i

/-- A lane instruction made thread by thread in ascending order (R298, R300). -/
def laneEach (s : State) (op : Nat) (f : LaneFields) (k : State → Nat → Except Stop State) :
    Host.Outcome State Fault Refusal :=
  laneOpFrame s op f fun _ b part =>
    match perThread k (todo b part) s with
    | (t, none) => t.laneAdvance
    | (t, some (i, e)) => t.laneStop i e

end Sys2Proof.Machine
end

