-- ==== Sys2Proof/Machine/Flags.lean ====
section
/-! DEFINITION. The flags of lane arithmetic and the ARITHMETIC trap (R200, R201). -/

namespace Sys2Proof.Machine

/-- FLAGS of arith_ctl with more flags set (R200). -/
def Warp.setFlags (w : Warp) (fl : Nat) : Warp := { w with arithCtl := w.arithCtl ||| BitVec.ofNat 32 (fl % 32) }

/-- A raised flag has its TRAP_EN bit set (R201). -/
def Warp.trapsOn (w : Warp) (fl : Nat) : Bool := fl % 32 &&& field w.arithCtl 12 8 != 0

/-- The ARITHMETIC trap (R233). -/
def arithmetic (fl : Nat) : Stop := .trap { cause := 0x02, detail := fl % 32 }

/-- A thread's flags raised (R201): with one enabled, they are set and the trap is raised before any result is written. -/
def State.raise (s : State) (fl : Nat) : Except Stop State :=
  let t := s.modWarp s.cur fun w => w.setFlags fl
  match s.warp? s.cur with
  | some w => if w.trapsOn fl then .error (.late t (arithmetic fl)) else .ok t
  | none => .ok t

/-- The rounding mode of an RND code 0 to 3 or 5 (R195): 5 is DRM. -/
def Warp.mode (w : Warp) (rnd : BitVec 3) : Mode := modeOf (if rnd = 5 then field w.arithCtl 18 16 else rnd.toNat)

end Sys2Proof.Machine
end

