-- ==== Sys2Proof/Machine/Operands.lean ====
section
/-! DEFINITION. The operands of lane instructions (R246, R247, R299), their destinations (R298, R299), and the frames of
a per-thread computation and of a sweep (R298-R301, R336-R338). -/

namespace Sys2Proof

/-- The format of an IEEE type; of one half for a paired type (R192, R194). -/
def LType.ieee : LType → Option Machine.FFmt
  | .f16 | .f16x2 => some Machine.fmtF16
  | .bf16 | .bf16x2 => some Machine.fmtBf16
  | .f32 => some Machine.fmtF32
  | .f64 => some Machine.fmtF64
  | _ => none

/-- A paired type (R194). -/
def LType.paired : LType → Bool
  | .f16x2 | .bf16x2 => true
  | _ => false

end Sys2Proof

namespace Sys2Proof.Machine

/-- Two equal halves of a 32-bit value. -/
def both (x : Nat) : Nat := x + x * 2 ^ 16

/-- An inline constant as a value of a type (R247). The rule has no row for the NF types, which only CVT reads: the constant
truncated to the width is taken as the code (DESIGN CHOICE, entry 68). -/
def inlineVal (ty : LType) (c : BitVec 7) : Nat :=
  match ty.ieee with
  | some f =>
    let x := (f.finish .rne false (fpOf false (c.toInt : Rat))).1
    if ty.paired then both x else x
  | none => truncI ty.width c.toInt

/-- A W2 immediate as a value of a type (R247): a binary32 NaN is widened exactly too, so that a signalling one still
signals. -/
def w2Val (ty : LType) (x : BitVec 32) : Nat :=
  match ty with
  | .s64 | .n64 | .mod64 => truncI 64 x.toInt
  | .f64 =>
    match fmtF32.decode x.toNat with
    | .nan _ => fmtF64.sign (x.getLsbD 31) + fmtF64.infCode false + x.toNat % 2 ^ 23 * 2 ^ 29
    | v => (fmtF64.finish .rne false v).1
  | _ => x.toNat % 2 ^ ty.width

/-- A lane, uniform or affine operand of `n` bits for a thread (R299). -/
def Warp.source (w : Warp) (n t : Nat) : Operand → Nat
  | .v r => (if n = 64 then (w.vget64 r.val t).toNat else (w.vget r.val t).toNat) % 2 ^ n
  | .s r => (w.sget r).toNat % 2 ^ n
  | .a r => (w.affine r t).toNat % 2 ^ n
  | .p r => ((w.pget r).getLsbD t).toNat
  | .inl _ | .w2 => 0

/-- An operand of a type for a thread (R247, R299). -/
def Warp.operand (w : Warp) (f : LaneFields) (ty : LType) (t : Nat) (o : Operand) : Nat :=
  match o with
  | .inl c => inlineVal ty c
  | .w2 => w2Val ty f.w2
  | o => w.source ty.width t o

/-- A predicate operand's bits. -/
def Warp.predOf (w : Warp) : Operand → BitVec 32
  | .p n => w.pget n
  | _ => 0

/-- A result of a type as its 32-bit or 64-bit register value (R299). -/
def extendTo (ty : LType) (x : Nat) : Nat :=
  match ty with
  | .s8 => truncI 32 (signed 8 x)
  | .s16 => truncI 32 (signed 16 x)
  | _ => x % 2 ^ ty.width

/-- A lane destination of a type written for a thread (R298, R299). -/
def Warp.putLane (w : Warp) (n : VReg) (ty : LType) (t x : Nat) : Warp :=
  let y := extendTo ty x
  let w := w.vset n.val t (BitVec.ofNat 32 y)
  if ty.width = 64 then w.vset (n.val + 1) t (BitVec.ofNat 32 (y / 2 ^ 32)) else w

/-- A destination written for a thread: a lane register, or the thread's bit of a predicate. -/
def Warp.putDest (w : Warp) (f : LaneFields) (t x : Nat) : Warp :=
  match f.dest with
  | .v n => w.putLane n f.ty t x
  | .p n => w.pset n (BitVec.ofNat 32 (2 ^ t)) (BitVec.ofNat 32 (x % 2 * 2 ^ t))
  | _ => w

/-- A result and the flags it raised for the warp in focus (R201). -/
def State.putResult (s : State) (f : LaneFields) (t : Nat) (r : Nat × Nat) : Except Stop State := do
  let s ← s.raise r.2
  return s.modWarp s.cur fun w => w.putDest f t r.1

/-- What a computation reads: the warp, the thread, its sweep segment, and the values of A, B and C. -/
structure LaneIn where
  w : Warp
  t : Nat
  g : Nat
  a : Nat
  b : Nat
  c : Nat

/-- The types operands A, B and C are read at. -/
structure OpTypes where
  a : LType
  b : LType
  c : LType
  deriving DecidableEq, Repr

/-- All three operands of the instruction's own type. -/
def OpTypes.same (f : LaneFields) : OpTypes := { a := f.ty, b := f.ty, c := f.ty }

/-- The bytes of an element of a type in scratchpad (R336). -/
def elemBytes (ty : LType) : Nat := (ty.width + 7) / 8

/-- A sweep step field (R250). -/
def sweepStep (f : LaneFields) (lo : Nat) : Int := signed 6 (field f.w2 (lo + 5) lo)

/-- The number of segments of a sweep (R250). -/
def sweepCount (f : LaneFields) : Nat := field f.w2 31 20

/-- An address of a sweep's segment (R337). -/
def sweepAddr (w : Warp) (t g : Nat) (n : VReg) (step : Int) : Int := (w.vget n.val t).toNat + 16 * step * g

/-- A sweep address checked (R337): within 32 bits, aligned to its element, and a scratchpad place. -/
def State.sweepCell (s : State) (wg : Workgroup) (x : Int) (n : Nat) : Except Stop Nat := do
  let a := BitVec.ofInt 64 x
  need (decide (0 ≤ x) && decide (x < 2 ^ 32)) (spRange a)
  need (decide (x % n = 0)) (alignment a)
  s.spCell wg a n

/-- An opcode's operand B is one that it reads: a conversion's names its format word, and other forms have none (R251,
R313). -/
def readsB (op : Nat) : Bool :=
  match (laneDesc op).b with
  | .unused | .cvtB => false
  | _ => true

/-- One thread of one segment of a sweep (R337); `inB` where the opcode reads an operand B. -/
def State.sweepThread (s : State) (f : LaneFields) (inB : Bool) (tys : OpTypes) (k : LaneIn → Except Stop (Nat × Nat)) (g t : Nat) :
    Except Stop State :=
  match s.warp? s.cur, f.dest, f.opa with
  | some w, .v d, .v a => do
    let wg := s.wgOf w
    let dst ← s.sweepCell wg (sweepAddr w t g d (sweepStep f 12)) (elemBytes f.ty)
    let src ← s.sweepCell wg (sweepAddr w t g a (sweepStep f 6)) (elemBytes tys.a)
    let srb ← match inB, f.opb with
      | true, .v b => (s.sweepCell wg (sweepAddr w t g b (sweepStep f 0)) (elemBytes tys.b)).map some
      | _, _ => .ok none
    let x ← s.spLoad src (elemBytes tys.a)
    let y ← match srb with
      | some c => s.spLoad c (elemBytes tys.b)
      | none => .ok (w.operand f tys.b t f.opb)
    let r ← k { w := w, t := t, g := g, a := x % 2 ^ tys.a.width, b := y % 2 ^ tys.b.width, c := w.operand f tys.c t f.opc }
    let s ← s.raise r.2
    return s.spStore dst (elemBytes f.ty) (r.1 % 2 ^ f.ty.width)
  | _, _, _ => .ok s

/-- One segment of a sweep from where the block stands; the next step takes the next segment (R337, R338). -/
def sweepOp (s : State) (op : Nat) (f : LaneFields) (tys : OpTypes) (k : LaneIn → Except Stop (Nat × Nat)) :
    Host.Outcome State Fault Refusal :=
  laneOpFrame s op f fun _ b part =>
    match perThread (fun s t => s.sweepThread f (readsB op) tys k b.seg t) (todo b part) s with
    | (t, some (i, e)) => t.laneStop i e
    | (t, none) =>
      if b.seg + 1 < sweepCount f then t.modHead fun b => { b with seg := b.seg + 1, thread := 0, stage := .between }
      else t.laneAdvance

/-- One thread of a computation in registers. -/
def computeThread (f : LaneFields) (tys : OpTypes) (k : LaneIn → Except Stop (Nat × Nat)) (s : State) (t : Nat) :
    Except Stop State :=
  match s.warp? s.cur with
  | none => .ok s
  | some w => do
    let r ← k { w := w, t := t, g := 0, a := w.operand f tys.a t f.opa, b := w.operand f tys.b t f.opb
                c := w.operand f tys.c t f.opc }
    s.putResult f t r

/-- A computation made thread by thread, in registers or as a sweep over scratchpad (R298, R336). -/
def laneCompute (s : State) (op : Nat) (f : LaneFields) (tys : OpTypes) (k : LaneIn → Except Stop (Nat × Nat)) :
    Host.Outcome State Fault Refusal :=
  if f.sweep then sweepOp s op f tys k else laneEach s op f (computeThread f tys k)

/-- A computation with no check of its own. -/
def lanePure (s : State) (op : Nat) (f : LaneFields) (k : LaneIn → Nat × Nat) : Host.Outcome State Fault Refusal :=
  laneCompute s op f (OpTypes.same f) fun x => .ok (k x)

end Sys2Proof.Machine
end

