-- ==== Sys2Proof/Machine/LaneInt.lean ====
section
/-! DEFINITION. Lane integer instructions: arithmetic (R303, R304), bit operations (R305), bit fields (R306) and compares
(R307). -/

namespace Sys2Proof.Machine

/-- A value of an integer type read as its type says (R299). -/
def intOf (ty : LType) (x : Nat) : Int := if ty.isS then signed ty.width x else (x % 2 ^ ty.width : Nat)

/-- The least value of an integer type. -/
def intLo (ty : LType) : Int := if ty.isS then -(2 ^ (ty.width - 1)) else 0

/-- The greatest value of an integer type. -/
def intHi (ty : LType) : Int := if ty.isS then 2 ^ (ty.width - 1) - 1 else 2 ^ ty.width - 1

/-- An exact result clamped to a type's range. -/
def clampI (ty : LType) (x : Int) : Int := max (intLo ty) (min x (intHi ty))

/-- An exact result written at a type, wrapping or saturating (R199, R303). -/
def intResult (ty : LType) (sat : Bool) (x : Int) : Nat := truncI ty.width (if sat then clampI ty x else x)

/-- An integer form whose exact result a function gives (R303). -/
def intForm (s : State) (op : Nat) (f : LaneFields) (k : Int → Int → Int → Int) : Host.Outcome State Fault Refusal :=
  lanePure s op f fun x => (intResult f.ty f.sat (k (intOf f.ty x.a) (intOf f.ty x.b) (intOf f.ty x.c)), 0)

/-- A bit form on the values of width w (R305). -/
def bitForm (s : State) (op : Nat) (f : LaneFields) (k : Nat → Nat → Nat → Nat) : Host.Outcome State Fault Refusal :=
  lanePure s op f fun x => (k f.ty.width x.a x.b % 2 ^ f.ty.width, 0)

/-- The quotient of R265 at a type, with DZ for a zero divisor (R304). -/
def laneDiv (ty : LType) (a b : Nat) : Nat × Nat :=
  if b = 0 then (2 ^ ty.width - 1, fDZ) else (truncI ty.width ((intOf ty a).tdiv (intOf ty b)), 0)

/-- The remainder of R265 at a type, with DZ for a zero divisor (R304). -/
def laneRem (ty : LType) (a b : Nat) : Nat × Nat :=
  if b = 0 then (a, fDZ)
  else (truncI ty.width (intOf ty a - intOf ty b * (intOf ty a).tdiv (intOf ty b)), 0)

/-- BFX (R306). -/
def bitExtract (ty : LType) (a b c : Nat) : Nat :=
  let w := ty.width
  let pos := b % 256
  let len := min (c % 256) (w - pos)
  if w ≤ pos ∨ c % 256 = 0 then 0
  else
    let f := a / 2 ^ pos % 2 ^ len
    if ty.isS then truncI w (signed len f) else f

/-- BFI (R306). -/
def bitInsert (ty : LType) (a b c : Nat) : Nat :=
  let w := ty.width
  let pos := c % 256
  let len := min (c / 256 % 256) (w - pos)
  if w ≤ pos ∨ c / 256 % 256 = 0 then b
  else b - b / 2 ^ pos % 2 ^ len * 2 ^ pos + a % 2 ^ len * 2 ^ pos

/-- A compare into a predicate (R307). -/
def intSet (s : State) (op : Nat) (f : LaneFields) (k : Int → Int → Bool) : Host.Outcome State Fault Refusal :=
  lanePure s op f fun x => ((k (intOf f.ty x.a) (intOf f.ty x.b)).toNat, 0)

/-- IADD (R303). -/
def execIadd (f : LaneFields) (s : State) : Host.Outcome State Fault Refusal :=
  intForm s 0x000 f fun a b _ => a + b

/-- ISUB (R303). -/
def execIsub (f : LaneFields) (s : State) : Host.Outcome State Fault Refusal :=
  intForm s 0x001 f fun a b _ => a - b

/-- IMUL (R303). -/
def execImul (f : LaneFields) (s : State) : Host.Outcome State Fault Refusal :=
  intForm s 0x002 f fun a b _ => a * b

/-- IMULH (R303). -/
def execImulh (f : LaneFields) (s : State) : Host.Outcome State Fault Refusal :=
  intForm s 0x003 f fun a b _ => a * b / 2 ^ f.ty.width

/-- IMAD (R303). -/
def execImad (f : LaneFields) (s : State) : Host.Outcome State Fault Refusal :=
  intForm s 0x004 f fun a b c => a * b + c

/-- IDIV (R304). -/
def execIdiv (f : LaneFields) (s : State) : Host.Outcome State Fault Refusal :=
  lanePure s 0x005 f fun x => laneDiv f.ty x.a x.b

/-- IREM (R304). -/
def execIrem (f : LaneFields) (s : State) : Host.Outcome State Fault Refusal :=
  lanePure s 0x006 f fun x => laneRem f.ty x.a x.b

/-- IMIN (R303). -/
def execImin (f : LaneFields) (s : State) : Host.Outcome State Fault Refusal :=
  intForm s 0x007 f fun a b _ => min a b

/-- IMAX (R303). -/
def execImax (f : LaneFields) (s : State) : Host.Outcome State Fault Refusal :=
  intForm s 0x008 f fun a b _ => max a b

/-- IABS (R303). -/
def execIabs (f : LaneFields) (s : State) : Host.Outcome State Fault Refusal :=
  intForm s 0x009 f fun a _ _ => if a < 0 then -a else a

/-- INEG (R303). -/
def execIneg (f : LaneFields) (s : State) : Host.Outcome State Fault Refusal :=
  intForm s 0x00A f fun a _ _ => -a

/-- AND (R305). -/
def execLaneAnd (f : LaneFields) (s : State) : Host.Outcome State Fault Refusal :=
  bitForm s 0x00B f fun _ a b => a &&& b

/-- OR (R305). -/
def execLaneOr (f : LaneFields) (s : State) : Host.Outcome State Fault Refusal :=
  bitForm s 0x00C f fun _ a b => a ||| b

/-- XOR (R305). -/
def execLaneXor (f : LaneFields) (s : State) : Host.Outcome State Fault Refusal :=
  bitForm s 0x00D f fun _ a b => a ^^^ b

/-- NOT (R305). -/
def execNot (f : LaneFields) (s : State) : Host.Outcome State Fault Refusal :=
  bitForm s 0x00E f fun w a _ => 2 ^ w - 1 - a

/-- SHL (R305). -/
def execLaneShl (f : LaneFields) (s : State) : Host.Outcome State Fault Refusal :=
  bitForm s 0x00F f fun w a b => a * 2 ^ (b % w)

/-- SHR: arithmetic for S types (R305). -/
def execLaneShr (f : LaneFields) (s : State) : Host.Outcome State Fault Refusal :=
  lanePure s 0x010 f fun x => (truncI f.ty.width (intOf f.ty x.a / 2 ^ (x.b % f.ty.width)), 0)

/-- ROL (R305). -/
def execRol (f : LaneFields) (s : State) : Host.Outcome State Fault Refusal :=
  bitForm s 0x011 f fun w a b => a * 2 ^ (b % w) + a / 2 ^ (w - b % w)

/-- POPC (R305). -/
def execLanePopc (f : LaneFields) (s : State) : Host.Outcome State Fault Refusal :=
  bitForm s 0x012 f fun w a _ => popCount w a

/-- CLZ (R305). -/
def execLaneClz (f : LaneFields) (s : State) : Host.Outcome State Fault Refusal :=
  bitForm s 0x013 f fun w a _ => clz w a

/-- BREV (R305). -/
def execBrev (f : LaneFields) (s : State) : Host.Outcome State Fault Refusal :=
  bitForm s 0x014 f fun w a _ => bitRev w a

/-- BFX (R306). -/
def execBfx (f : LaneFields) (s : State) : Host.Outcome State Fault Refusal :=
  lanePure s 0x015 f fun x => (bitExtract f.ty x.a x.b x.c, 0)

/-- BFI (R306). -/
def execBfi (f : LaneFields) (s : State) : Host.Outcome State Fault Refusal :=
  lanePure s 0x016 f fun x => (bitInsert f.ty x.a x.b x.c, 0)

/-- MOV (R305). -/
def execMov (f : LaneFields) (s : State) : Host.Outcome State Fault Refusal :=
  bitForm s 0x017 f fun _ a _ => a

/-- ISET.EQ (R307). -/
def execIsetEq (f : LaneFields) (s : State) : Host.Outcome State Fault Refusal :=
  intSet s 0x018 f fun a b => a == b

/-- ISET.NE (R307). -/
def execIsetNe (f : LaneFields) (s : State) : Host.Outcome State Fault Refusal :=
  intSet s 0x019 f fun a b => a != b

/-- ISET.LT (R307). -/
def execIsetLt (f : LaneFields) (s : State) : Host.Outcome State Fault Refusal :=
  intSet s 0x01A f fun a b => decide (a < b)

/-- ISET.LE (R307). -/
def execIsetLe (f : LaneFields) (s : State) : Host.Outcome State Fault Refusal :=
  intSet s 0x01B f fun a b => decide (a ≤ b)

/-- ISET.GT (R307). -/
def execIsetGt (f : LaneFields) (s : State) : Host.Outcome State Fault Refusal :=
  intSet s 0x01C f fun a b => decide (b < a)

/-- ISET.GE (R307). -/
def execIsetGe (f : LaneFields) (s : State) : Host.Outcome State Fault Refusal :=
  intSet s 0x01D f fun a b => decide (b ≤ a)

end Sys2Proof.Machine
end

