-- ==== Sys2Proof/Machine/LoadStore.lean ====
section
/-! DEFINITION. Plain, ordered and atomic scalar accesses (R273-R275, R343-R345) and fences (R346). -/

namespace Sys2Proof.Machine

/-- The bytes of a SIZE code (R241). -/
def sizeBytes : MemSize → Nat
  | .n8 | .s8 => 1 | .n16 | .s16 => 2 | .n32 | .s32 => 4 | .n64 => 8

/-- A loaded value extended as its SIZE says (R274). -/
def extend (z : MemSize) (x : Nat) : Word :=
  match z with
  | .s8 => sextN 8 x | .s16 => sextN 16 x | .s32 => sextN 32 x
  | _ => BitVec.ofNat 64 x

/-- The address of a plain access (R273). -/
def plainAddr (w : Warp) (a : SReg) (off : BitVec 11) : Word := w.sget a + off.signExtend 64

/-- A global address checked before a release part is performed (R345). -/
def State.precheck (s : State) (g : Workgroup) (kind : AccKind) (p : Perm) (va : Word) (n : Nat) :
    Except Stop State := do
  let (t, s) ← s.translate (s.whoOf g) kind p false va
  s.keep do
  s.confine g t (p != .r) va n
  return s

/-- LD (R273-R275). -/
def execLd (d a : SReg) (size : MemSize) (off : BitVec 11) (s : State) : Host.Outcome State Fault Refusal :=
  scalarOp s { reads := [a.val], writes := [d.val] } fun w g => do
    let va := plainAddr w a off
    aligned va (sizeBytes size)
    let (x, t) ← s.gLoad s.cur none g va (sizeBytes size)
    t.keep (t.putS d (extend size x))

/-- ST (R273-R275). -/
def execSt (d a : SReg) (size : MemSize) (off : BitVec 11) (s : State) : Host.Outcome State Fault Refusal :=
  scalarOp s { reads := [a.val, d.val] } fun w g => do
    need (storeSizeOk size) illegal
    let va := plainAddr w a off
    aligned va (sizeBytes size)
    s.gStore s.cur g va (sizeBytes size) (w.sget d).toNat

/-- LDS (R273, R274). -/
def execLds (d a : SReg) (size : MemSize) (off : BitVec 11) (s : State) : Host.Outcome State Fault Refusal :=
  scalarOp s { reads := [a.val], writes := [d.val] } fun w g => do
    let va := plainAddr w a off
    aligned va (sizeBytes size)
    let c ← s.spCell g va (sizeBytes size)
    let x ← s.spLoad c (sizeBytes size)
    s.putS d (extend size x)

/-- STS (R273, R274). -/
def execSts (d a : SReg) (size : MemSize) (off : BitVec 11) (s : State) : Host.Outcome State Fault Refusal :=
  scalarOp s { reads := [a.val, d.val] } fun w g => do
    need (storeSizeOk size) illegal
    let va := plainAddr w a off
    aligned va (sizeBytes size)
    let c ← s.spCell g va (sizeBytes size)
    return s.spStore c (sizeBytes size) (w.sget d).toNat

/-- LD.ord (R343). -/
def execLdOrd (d a : SReg) (scope : Scope) (ord : MemOrd) (size : MemSize) (s : State) :
    Host.Outcome State Fault Refusal :=
  scalarOp s { reads := [a.val], writes := [d.val] } fun w g => do
    need (loadOrdOk ord) illegal
    let s ← s.drained w scope.code
    let va := w.sget a
    aligned va (sizeBytes size)
    let (x, t) ← s.gLoadOrd s.cur none g va (sizeBytes size)
    t.keep do
    let t ← t.putS d (extend size x)
    return t.acquire g.core scope.code

/-- ST.ord (R343). -/
def execStOrd (d a : SReg) (scope : Scope) (ord : MemOrd) (size : MemSize) (s : State) :
    Host.Outcome State Fault Refusal :=
  scalarOp s { reads := [a.val, d.val] } fun w g => do
    need (storeOrdOk ord && storeSizeOk size) illegal
    let s ← s.drained w scope.code
    let va := w.sget a
    aligned va (sizeBytes size)
    let t ← s.precheck g .write .w va (sizeBytes size)
    let t ← t.release s.cur g.core scope.code
    t.gStoreOrd t.cur g va (sizeBytes size) (w.sget d).toNat

/-- On the scratchpad forms scopes 4 to 6 act as 3 (R342). -/
def spScope (c : Scope) : Nat := Nat.min 3 c.code

/-- LD.ord.SP (R342, R343). -/
def execLdOrdSp (d a : SReg) (scope : Scope) (ord : MemOrd) (size : MemSize) (s : State) :
    Host.Outcome State Fault Refusal :=
  scalarOp s { reads := [a.val], writes := [d.val] } fun w g => do
    need (loadOrdOk ord) illegal
    let s ← s.drained w (spScope scope)
    let va := w.sget a
    aligned va (sizeBytes size)
    let c ← s.spCell g va (sizeBytes size)
    let x ← s.spLoad c (sizeBytes size)
    let t ← s.putS d (extend size x)
    return t.acquire g.core (spScope scope)

/-- ST.ord.SP (R342, R343). -/
def execStOrdSp (d a : SReg) (scope : Scope) (ord : MemOrd) (size : MemSize) (s : State) :
    Host.Outcome State Fault Refusal :=
  scalarOp s { reads := [a.val, d.val] } fun w g => do
    need (storeOrdOk ord && storeSizeOk size) illegal
    let s ← s.drained w (spScope scope)
    let va := w.sget a
    aligned va (sizeBytes size)
    let c ← s.spCell g va (sizeBytes size)
    let t ← s.release s.cur g.core (spScope scope)
    return t.spStore c (sizeBytes size) (w.sget d).toNat

/-- The operations of an atomic (R344). -/
inductive AtomOp where
  | add | sub | min | minn | max | maxn | and | or | xor | xchg | cas
  deriving DecidableEq, Repr

/-- The value an atomic of `n` bytes writes, none for a CAS that fails (R344, R345). -/
def atomNew (op : AtomOp) (n old x y : Nat) : Option Nat :=
  let m := 2 ^ (8 * n)
  let sl (a b : Nat) : Bool := decide (signed (8 * n) a < signed (8 * n) b)
  match op with
  | .add => some ((old + x) % m)
  | .sub => some ((old + m - x % m) % m)
  | .min => some (if sl x old then x else old)
  | .minn => some (Nat.min old x)
  | .max => some (if sl old x then x else old)
  | .maxn => some (Nat.max old x)
  | .and => some (old &&& x)
  | .or => some (old ||| x)
  | .xor => some (old ^^^ x)
  | .xchg => some x
  | .cas => if old = x then some y else none

/-- The second data register of a CAS (R344). -/
def nextReg (d : SReg) : SReg := Fin.ofNat 64 (d.val + 1)

/-- The low `n` bytes of a register. -/
def lowBytes (x : Word) (n : Nat) : Nat := x.toNat % 2 ^ (8 * n)

/-- The registers an atomic reads and writes. -/
def atomUse (op : AtomOp) (d a : SReg) : RegUse :=
  { reads := [a.val, d.val] ++ (if op = .cas then [(nextReg d).val] else []), writes := [d.val] }

/-- A global atomic (R345). -/
def atomGlobal (op : AtomOp) (d a : SReg) (scope : Scope) (ord : MemOrd) (size : MemSize) (s : State) :
    Host.Outcome State Fault Refusal :=
  scalarOp s (atomUse op d a) fun w g => do
    need (atomOk ord size && (op != .cas || d != 63)) illegal
    let s ← s.drained w scope.code
    let va := w.sget a
    let n := sizeBytes size
    aligned va n
    let t ← s.precheck g .atomic .rw va n
    let t ← t.releaseOrd s.cur g.core ord scope.code
    let (old, t) ← t.gAtomic s.cur none g va n fun old =>
      atomNew op n old (lowBytes (w.sget d) n) (lowBytes (w.sget (nextReg d)) n)
    let t ← t.putS d (BitVec.ofNat 64 old)
    return t.acquireOrd g.core ord scope.code

/-- A scratchpad atomic (R342, R345). -/
def atomSp (op : AtomOp) (d a : SReg) (scope : Scope) (ord : MemOrd) (size : MemSize) (s : State) :
    Host.Outcome State Fault Refusal :=
  scalarOp s (atomUse op d a) fun w g => do
    need (atomOk ord size && (op != .cas || d != 63)) illegal
    let s ← s.drained w (spScope scope)
    let va := w.sget a
    let n := sizeBytes size
    aligned va n
    let c ← s.spCell g va n
    let t ← s.releaseOrd s.cur g.core ord (spScope scope)
    let (old, t) ← t.spAtomic c n fun old =>
      atomNew op n old (lowBytes (w.sget d) n) (lowBytes (w.sget (nextReg d)) n)
    let t ← t.putS d (BitVec.ofNat 64 old)
    return t.acquireOrd g.core ord (spScope scope)

/-- ATOM.ADD (R344). -/
def execAtomAdd (d a : SReg) (scope : Scope) (ord : MemOrd) (size : MemSize) (s : State) :
    Host.Outcome State Fault Refusal :=
  atomGlobal .add d a scope ord size s

/-- ATOM.SUB (R344). -/
def execAtomSub (d a : SReg) (scope : Scope) (ord : MemOrd) (size : MemSize) (s : State) :
    Host.Outcome State Fault Refusal :=
  atomGlobal .sub d a scope ord size s

/-- ATOM.MIN (R344). -/
def execAtomMin (d a : SReg) (scope : Scope) (ord : MemOrd) (size : MemSize) (s : State) :
    Host.Outcome State Fault Refusal :=
  atomGlobal .min d a scope ord size s

/-- ATOM.MINN (R344). -/
def execAtomMinn (d a : SReg) (scope : Scope) (ord : MemOrd) (size : MemSize) (s : State) :
    Host.Outcome State Fault Refusal :=
  atomGlobal .minn d a scope ord size s

/-- ATOM.MAX (R344). -/
def execAtomMax (d a : SReg) (scope : Scope) (ord : MemOrd) (size : MemSize) (s : State) :
    Host.Outcome State Fault Refusal :=
  atomGlobal .max d a scope ord size s

/-- ATOM.MAXN (R344). -/
def execAtomMaxn (d a : SReg) (scope : Scope) (ord : MemOrd) (size : MemSize) (s : State) :
    Host.Outcome State Fault Refusal :=
  atomGlobal .maxn d a scope ord size s

/-- ATOM.AND (R344). -/
def execAtomAnd (d a : SReg) (scope : Scope) (ord : MemOrd) (size : MemSize) (s : State) :
    Host.Outcome State Fault Refusal :=
  atomGlobal .and d a scope ord size s

/-- ATOM.OR (R344). -/
def execAtomOr (d a : SReg) (scope : Scope) (ord : MemOrd) (size : MemSize) (s : State) :
    Host.Outcome State Fault Refusal :=
  atomGlobal .or d a scope ord size s

/-- ATOM.XOR (R344). -/
def execAtomXor (d a : SReg) (scope : Scope) (ord : MemOrd) (size : MemSize) (s : State) :
    Host.Outcome State Fault Refusal :=
  atomGlobal .xor d a scope ord size s

/-- ATOM.XCHG (R344). -/
def execAtomXchg (d a : SReg) (scope : Scope) (ord : MemOrd) (size : MemSize) (s : State) :
    Host.Outcome State Fault Refusal :=
  atomGlobal .xchg d a scope ord size s

/-- ATOM.CAS (R344). -/
def execAtomCas (d a : SReg) (scope : Scope) (ord : MemOrd) (size : MemSize) (s : State) :
    Host.Outcome State Fault Refusal :=
  atomGlobal .cas d a scope ord size s

/-- ATOM.ADD.SP (R344). -/
def execAtomAddSp (d a : SReg) (scope : Scope) (ord : MemOrd) (size : MemSize) (s : State) :
    Host.Outcome State Fault Refusal :=
  atomSp .add d a scope ord size s

/-- ATOM.SUB.SP (R344). -/
def execAtomSubSp (d a : SReg) (scope : Scope) (ord : MemOrd) (size : MemSize) (s : State) :
    Host.Outcome State Fault Refusal :=
  atomSp .sub d a scope ord size s

/-- ATOM.MIN.SP (R344). -/
def execAtomMinSp (d a : SReg) (scope : Scope) (ord : MemOrd) (size : MemSize) (s : State) :
    Host.Outcome State Fault Refusal :=
  atomSp .min d a scope ord size s

/-- ATOM.MINN.SP (R344). -/
def execAtomMinnSp (d a : SReg) (scope : Scope) (ord : MemOrd) (size : MemSize) (s : State) :
    Host.Outcome State Fault Refusal :=
  atomSp .minn d a scope ord size s

/-- ATOM.MAX.SP (R344). -/
def execAtomMaxSp (d a : SReg) (scope : Scope) (ord : MemOrd) (size : MemSize) (s : State) :
    Host.Outcome State Fault Refusal :=
  atomSp .max d a scope ord size s

/-- ATOM.MAXN.SP (R344). -/
def execAtomMaxnSp (d a : SReg) (scope : Scope) (ord : MemOrd) (size : MemSize) (s : State) :
    Host.Outcome State Fault Refusal :=
  atomSp .maxn d a scope ord size s

/-- ATOM.AND.SP (R344). -/
def execAtomAndSp (d a : SReg) (scope : Scope) (ord : MemOrd) (size : MemSize) (s : State) :
    Host.Outcome State Fault Refusal :=
  atomSp .and d a scope ord size s

/-- ATOM.OR.SP (R344). -/
def execAtomOrSp (d a : SReg) (scope : Scope) (ord : MemOrd) (size : MemSize) (s : State) :
    Host.Outcome State Fault Refusal :=
  atomSp .or d a scope ord size s

/-- ATOM.XOR.SP (R344). -/
def execAtomXorSp (d a : SReg) (scope : Scope) (ord : MemOrd) (size : MemSize) (s : State) :
    Host.Outcome State Fault Refusal :=
  atomSp .xor d a scope ord size s

/-- ATOM.XCHG.SP (R344). -/
def execAtomXchgSp (d a : SReg) (scope : Scope) (ord : MemOrd) (size : MemSize) (s : State) :
    Host.Outcome State Fault Refusal :=
  atomSp .xchg d a scope ord size s

/-- ATOM.CAS.SP (R344). -/
def execAtomCasSp (d a : SReg) (scope : Scope) (ord : MemOrd) (size : MemSize) (s : State) :
    Host.Outcome State Fault Refusal :=
  atomSp .cas d a scope ord size s

/-- FENCE (R346). -/
def execFence (scope : Scope) (ord : MemOrd) (s : State) : Host.Outcome State Fault Refusal :=
  scalarOp s {} fun w g => do
    need (fenceOk ord) illegal
    let s ← s.drained w scope.code
    let t ← s.releaseOrd s.cur g.core ord scope.code
    return t.acquireOrd g.core ord scope.code

end Sys2Proof.Machine
end

