-- ==== Sys2Proof/Machine/Tensor.lean ====
section
/-! DEFINITION. Tensor table entries (R35, R36, R377-R379) and the kiln rules of an access through a TID (R100-R103,
R328). -/

namespace Sys2Proof.Machine

/-- Bytes [lo, lo + n) of a 64-byte record. -/
def rec64 (x : BitVec 512) (lo n : Nat) : Nat := x.toNat / 2 ^ (8 * lo) % 2 ^ (8 * n)

/-- Fields of a tensor table entry (R377). -/
def teBase (e : BitVec 512) : Word := BitVec.ofNat 64 (rec64 e 0 8)
def tePitch (e : BitVec 512) : Nat := rec64 e 8 8
def teRows (e : BitVec 512) : Nat := rec64 e 16 4
def teCols (e : BitVec 512) : Nat := rec64 e 20 4
def teAux (e : BitVec 512) : Nat := rec64 e 24 8
def teMeta (e : BitVec 512) : Nat := rec64 e 32 8
def teAuxPitch (e : BitVec 512) : Nat := rec64 e 40 4
def teDesc (e : BitVec 512) : Nat := rec64 e 44 2
def teFormat (e : BitVec 512) : Nat := rec64 e 46 1 % 16
def teSparse (e : BitVec 512) : Bool := rec64 e 47 1 % 2 == 1
def teBlock (e : BitVec 512) : Nat := 16 * 2 ^ (rec64 e 47 1 / 2 % 4)
def teGen (e : BitVec 512) : Nat := rec64 e 48 2
def teValid (e : BitVec 512) : Bool := rec64 e 50 1 % 2 == 1

/-- Stored elements of a row: half of COLS when SPARSE (R378). -/
def teStored (e : BitVec 512) : Nat := if teSparse e then teCols e / 2 else teCols e

/-- The last byte of a tensor's range past its BASE (R378). -/
def teSpan (e : BitVec 512) : Nat := (teRows e - 1) * tePitch e + (teStored e * fmtBits (teFormat e) + 7) / 8 - 1

/-- The physical address of a tensor table slot (R35). -/
def State.ttSlot (s : State) (ctx slot : Nat) : Nat := field (s.ctxDesc ctx) 103 64 * 4096 + 64 * slot

/-- The number of slots of a context's tensor table (R19). -/
def State.ttSlots (s : State) (ctx : Nat) : Nat := 2 ^ field (s.ctxDesc ctx) 108 104

/-- A tensor table entry as its home holds it (R381). -/
def State.ttEntry (s : State) (ctx slot : Nat) : BitVec 512 := BitVec.ofNat 512 (s.readDev (s.ttSlot ctx slot) 64)

/-- The entry a TID resolves to (R36). -/
def State.resolve (s : State) (ctx : Nat) (tid : Nat) : Option (BitVec 512) :=
  let slot := tid % 2 ^ 16
  let e := s.ttEntry ctx slot
  if slot ≠ 0 ∧ slot < s.ttSlots ctx ∧ teValid e ∧ teGen e = tid / 2 ^ 16 then some e else none

/-- The fields of an image pass the entry check (R379). -/
def imageOk (e : BitVec 512) : Bool :=
  let f := teFormat e
  let lay := rec64 e 47 1
  let bl := lay / 2 % 4
  let sp := teSparse e
  let blk := fmtBlock f
  decide (1 ≤ teRows e) && decide (1 ≤ teCols e) && rec64 e 46 1 / 16 == 0 && decide (lay / 8 = 0) && rec64 e 51 13 == 0
    && (if blk then bl != 3 else bl == 0)
    && (if fmtNarrow f then nfLegal (fmtBits f) (teDesc e) else teDesc e == 0)
    && (if blk then teAux e != 0 && teAux e % 4 == 0 else if f == 14 then legalQ (teAux e) else teAux e == 0)
    && (if sp then teMeta e != 0 else teMeta e == 0)
    && (blk || sp || teAuxPitch e == 0)
    && (!blk || teCols e % teBlock e == 0) && (!(f == 1 || f == 4) || teCols e % 4 == 0)
    && (!sp || ((f == 0 || f == 2 || (decide (6 ≤ f) && decide (f ≤ 11))) && teCols e % 4 == 0))

/-- The leaf a pointer maps to, whatever it permits. -/
def State.leafAt (s : State) (w : Who) (va : Word) : Except WalkFault Trans :=
  match s.walk w .r true va with
  | .error { reason := 2, .. } =>
    match s.walk w .w true va with
    | .error { reason := 2, .. } => s.walk w .x true va
    | r => r
  | r => r

/-- The directory has what the walks of such lookups read (R38). -/
def State.looks (s : State) (w : Who) (vas : List Word) : State :=
  vas.foldl (fun s va => s.enterLines (srcDie w.src) (match s.leafAt w va with
    | .ok t => t.used.map (· / 128) ++ s.leafLines t
    | .error f => s.faultLines w.ctx f.reason va)) s

/-- The kiln page a tensor's BASE lies on, none for a tensor that is no kiln tensor (R328). -/
def State.tensorKiln (s : State) (w : Who) (kind : AccKind) (base : Word) : Except Stop (Option Nat) :=
  match s.leafAt w base with
  | .ok t => .ok (if t.kiln then some (t.pa / 2 ^ 21) else none)
  | .error f => .error (.fault (w.key kind base) f.reason f.level base)

/-- Whether a kiln page lies in the binding that holds another (R90, R328). -/
def State.sameBinding (s : State) (base page : Nat) : Bool :=
  let e := s.kpage base
  page == base || (decide (kFirst e ≤ page) && decide (page < kFirst e + kCount e))

/-- An access through a TID translated and checked (R100-R103, R328): a kiln access bypasses L1. -/
def State.tidAccess (s : State) (g : Workgroup) (base : Word) (kind : AccKind) (p : Perm) (write : Bool) (va : Word)
    (n : Nat) : Except Stop (Trans × State) := do
  let k ← s.tensorKiln (s.whoOf g) kind base
  let (t, s) ← (s.looks (s.whoOf g) [base]).translate (s.whoOf g) kind p true va
  s.keep do
  match k with
  | none =>
    need (!t.kiln) (kilnAccess kMixed va)
    s.confine g t write va n
    return (t, s)
  | some b =>
    need (t.kiln && s.sameBinding b (t.pa / 2 ^ 21)) (kilnAccess kMixed va)
    need (s.kilnAllows g (t.pa / 2 ^ 21) write) (kilnAccess kState va)
    return ({ t with cache := 1 }, s)

end Sys2Proof.Machine
end

