-- ==== Sys2Proof/Machine/LaneMem.lean ====
section
/-! DEFINITION. Lane accesses to global memory, scratchpad and tensors, and lane atomics (R327-R331, R333). -/

namespace Sys2Proof.Machine

/-- ORDER of a memory form (R249). -/
def memOrder (f : LaneFields) : MemOrd := (decodeOrd (f.w2.toNat / 2 ^ 29)).getD .plain

/-- The byte offset of a memory form (R249). -/
def memOffset (f : LaneFields) : Int := signed 29 f.w2.toNat

/-- The bytes of a type (R327). -/
def typeBytes (ty : LType) : Nat := ty.width / 8

/-- The frame of a memory form (R329): the release part once before the first access, the threads in order, the acquire
part once after the last. A block's segment marks that the release part is done. -/
def memFrame (s : State) (op : Nat) (f : LaneFields) (rel acq : Bool) (sp : Bool)
    (k : Warp → Workgroup → State → Nat → Except Stop State) : Host.Outcome State Fault Refusal :=
  laneOpFrame s op f fun w b part =>
    let g := s.wgOf w
    let scope := if sp then Nat.min 3 f.rnd.toNat else f.rnd.toNat
    let first := if rel && b.seg == 0 then (s.release s.cur g.core scope).map fun s => s.modHead fun b => { b with seg := 1 }
      else .ok s
    match first with
    | .error e => s.laneStop (lowest part) e
    | .ok s =>
      match perThread (k w g) (todo b part) s with
      | (t, some (i, e)) => t.laneStop i e
      | (t, none) => (if acq then t.acquire g.core scope else t).laneAdvance

/-- The warp in focus as an earlier thread has left it, for the operands of the next one. -/
def State.focus (s : State) (w : Warp) : Warp := (s.warp? s.cur).getD w

/-- A lane destination written for a thread of the warp in focus. -/
def State.putThread (s : State) (f : LaneFields) (i x : Nat) : State := s.modWarp s.cur fun w => w.putDest f i x

/-- The global address of a thread (R328). -/
def globalAddr (f : LaneFields) (w : Warp) (i : Nat) : Word :=
  BitVec.ofNat 64 (w.operand f .n64 i f.opa) + BitVec.ofInt 64 (memOffset f)

/-- The scratchpad address of a thread, checked, and its cell (R328). -/
def State.laneCell (s : State) (g : Workgroup) (f : LaneFields) (w : Warp) (i : Nat) : Except Stop Nat := do
  let x : Int := (w.operand f .n32 i f.opa : Nat) + memOffset f
  let a := BitVec.ofInt 64 x
  need (decide (0 ≤ x) && decide (x < 2 ^ 32)) (spRange a)
  aligned a (typeBytes f.ty)
  s.spCell g a (typeBytes f.ty)

/-- L.LD (R327-R330). -/
def execLLd (f : LaneFields) (s : State) : Host.Outcome State Fault Refusal :=
  let ord := memOrder f != .plain
  memFrame s 0x140 f false ord false fun w0 g s i => do
    let va := globalAddr f (s.focus w0) i
    aligned va (typeBytes f.ty)
    let (x, s) ← s.gRead s.cur (some i) g ord va (typeBytes f.ty)
    return s.putThread f i x

/-- L.ST (R327-R330). -/
def execLSt (f : LaneFields) (s : State) : Host.Outcome State Fault Refusal :=
  let ord := memOrder f != .plain
  memFrame s 0x141 f ord false false fun w0 g s i => do
    let w := s.focus w0
    let va := globalAddr f w i
    aligned va (typeBytes f.ty)
    s.gWrite s.cur (some i) g ord va (typeBytes f.ty) (w.operand f f.ty i f.opb)

/-- L.LDS (R327-R330). -/
def execLLds (f : LaneFields) (s : State) : Host.Outcome State Fault Refusal :=
  memFrame s 0x142 f false (memOrder f != .plain) true fun w0 g s i => do
    let c ← s.laneCell g f (s.focus w0) i
    let x ← s.spLoad c (typeBytes f.ty)
    return s.putThread f i x

/-- L.STS (R327-R330). -/
def execLSts (f : LaneFields) (s : State) : Host.Outcome State Fault Refusal :=
  memFrame s 0x143 f (memOrder f != .plain) false true fun w0 g s i => do
    let w := s.focus w0
    let c ← s.laneCell g f w i
    return s.spStore c (typeBytes f.ty) (w.operand f f.ty i f.opb)

/-- The tensor a thread names and its address (R36, R328). -/
def State.laneTensor (s : State) (g : Workgroup) (f : LaneFields) (w : Warp) (i : Nat) :
    Except Stop (BitVec 512 × Word) :=
  match s.resolve g.ctx (w.operand f .n32 i f.opa) with
  | none => .error (staleTid 0)
  | some e => do
    let va := teBase e + BitVec.ofNat 64 (w.operand f .n64 i f.opb) + BitVec.ofInt 64 (memOffset f)
    aligned va (typeBytes f.ty)
    return (e, va)

/-- L.LDT (R327-R330). -/
def execLLdt (f : LaneFields) (s : State) : Host.Outcome State Fault Refusal :=
  let ord := memOrder f != .plain
  memFrame s 0x144 f false ord false fun w0 g s i => do
    let (e, va) ← s.laneTensor g f (s.focus w0) i
    let (t, s) ← s.tidAccess g (teBase e) .read .r false va (typeBytes f.ty)
    s.keep do
    let (x, s) ← s.loadAt s.cur (some i) g.core t ord va (typeBytes f.ty)
    return s.putThread f i x

/-- L.STT (R327-R330). -/
def execLStt (f : LaneFields) (s : State) : Host.Outcome State Fault Refusal :=
  let ord := memOrder f != .plain
  memFrame s 0x145 f ord false false fun w0 g s i => do
    let w := s.focus w0
    let (e, va) ← s.laneTensor g f w i
    let (t, s) ← s.tidAccess g (teBase e) .write .w true va (typeBytes f.ty)
    s.keep (s.storeAt s.cur (some i) g.core t ord va (typeBytes f.ty) (w.operand f f.ty i f.opc))

/-- The lane atomics (R331). -/
inductive LaneAtom where
  | add | min | max | and | or | xor | xchg | cas
  deriving DecidableEq, Repr

/-- The value a lane atomic writes: MIN and MAX signed for S types; CAS writes b when the old value is c (R331). -/
def laneAtomNew (k : LaneAtom) (ty : LType) (old b c : Nat) : Option Nat :=
  let n := typeBytes ty
  match k with
  | .add => atomNew .add n old b c
  | .min => atomNew (if ty.isS then .min else .minn) n old b c
  | .max => atomNew (if ty.isS then .max else .maxn) n old b c
  | .and => atomNew .and n old b c
  | .or => atomNew .or n old b c
  | .xor => atomNew .xor n old b c
  | .xchg => atomNew .xchg n old b c
  | .cas => atomNew .cas n old c b

/-- A lane atomic to global memory (R331). -/
def laneAtomic (s : State) (op : Nat) (f : LaneFields) (k : LaneAtom) : Host.Outcome State Fault Refusal :=
  let o := memOrder f
  memFrame s op f (releases o) (acquires o) false fun w0 g s i => do
    let w := s.focus w0
    let va := globalAddr f w i
    aligned va (typeBytes f.ty)
    let (old, s) ← s.gAtomic s.cur (some i) g va (typeBytes f.ty) fun old =>
      laneAtomNew k f.ty old (w.operand f f.ty i f.opb) (w.operand f f.ty i f.opc)
    return s.putThread f i old

/-- A lane atomic to scratchpad (R331). -/
def laneAtomicSp (s : State) (op : Nat) (f : LaneFields) (k : LaneAtom) : Host.Outcome State Fault Refusal :=
  let o := memOrder f
  memFrame s op f (releases o) (acquires o) true fun w0 g s i => do
    let w := s.focus w0
    let c ← s.laneCell g f w i
    let (old, s) ← s.spAtomic c (typeBytes f.ty) fun old =>
      laneAtomNew k f.ty old (w.operand f f.ty i f.opb) (w.operand f f.ty i f.opc)
    return s.putThread f i old

/-- L.ATOM.ADD (R331). -/
def execLAtomAdd (f : LaneFields) (s : State) : Host.Outcome State Fault Refusal :=
  laneAtomic s 0x148 f .add

/-- L.ATOM.MIN (R331). -/
def execLAtomMin (f : LaneFields) (s : State) : Host.Outcome State Fault Refusal :=
  laneAtomic s 0x149 f .min

/-- L.ATOM.MAX (R331). -/
def execLAtomMax (f : LaneFields) (s : State) : Host.Outcome State Fault Refusal :=
  laneAtomic s 0x14A f .max

/-- L.ATOM.AND (R331). -/
def execLAtomAnd (f : LaneFields) (s : State) : Host.Outcome State Fault Refusal :=
  laneAtomic s 0x14B f .and

/-- L.ATOM.OR (R331). -/
def execLAtomOr (f : LaneFields) (s : State) : Host.Outcome State Fault Refusal :=
  laneAtomic s 0x14C f .or

/-- L.ATOM.XOR (R331). -/
def execLAtomXor (f : LaneFields) (s : State) : Host.Outcome State Fault Refusal :=
  laneAtomic s 0x14D f .xor

/-- L.ATOM.XCHG (R331). -/
def execLAtomXchg (f : LaneFields) (s : State) : Host.Outcome State Fault Refusal :=
  laneAtomic s 0x14E f .xchg

/-- L.ATOM.CAS (R331). -/
def execLAtomCas (f : LaneFields) (s : State) : Host.Outcome State Fault Refusal :=
  laneAtomic s 0x14F f .cas

/-- L.SATOM.ADD (R331). -/
def execLSatomAdd (f : LaneFields) (s : State) : Host.Outcome State Fault Refusal :=
  laneAtomicSp s 0x150 f .add

/-- L.SATOM.MIN (R331). -/
def execLSatomMin (f : LaneFields) (s : State) : Host.Outcome State Fault Refusal :=
  laneAtomicSp s 0x151 f .min

/-- L.SATOM.MAX (R331). -/
def execLSatomMax (f : LaneFields) (s : State) : Host.Outcome State Fault Refusal :=
  laneAtomicSp s 0x152 f .max

/-- L.SATOM.AND (R331). -/
def execLSatomAnd (f : LaneFields) (s : State) : Host.Outcome State Fault Refusal :=
  laneAtomicSp s 0x153 f .and

/-- L.SATOM.OR (R331). -/
def execLSatomOr (f : LaneFields) (s : State) : Host.Outcome State Fault Refusal :=
  laneAtomicSp s 0x154 f .or

/-- L.SATOM.XOR (R331). -/
def execLSatomXor (f : LaneFields) (s : State) : Host.Outcome State Fault Refusal :=
  laneAtomicSp s 0x155 f .xor

/-- L.SATOM.XCHG (R331). -/
def execLSatomXchg (f : LaneFields) (s : State) : Host.Outcome State Fault Refusal :=
  laneAtomicSp s 0x156 f .xchg

/-- L.SATOM.CAS (R331). -/
def execLSatomCas (f : LaneFields) (s : State) : Host.Outcome State Fault Refusal :=
  laneAtomicSp s 0x157 f .cas

end Sys2Proof.Machine
end

