-- ==== Sys2Proof/Machine/Remote.lean ====
section
/-! DEFINITION. Capabilities (R158-R161, R356, R357), and the remote loads, stores and atomics of both streams
(R162-R169, R332, R354, R355). -/

namespace Sys2Proof.Machine

/-- Fields of a capability (R158). -/
def capBase (c : BitVec 128) : Nat := field c 127 71
def capLength (c : BitVec 128) : Nat := field c 70 31
def capPeer (c : BitVec 128) : Nat := field c 30 22
def capTarget (c : BitVec 128) : Nat := field c 21 14
def capLease (c : BitVec 128) : Nat := field c 9 0

/-- The permission bits of a capability by place (R158). -/
def capREAD : Nat := 13
def capWRITE : Nat := 12
def capATOM : Nat := 11
def capPULL : Nat := 10

/-- A capability is well-formed (R158). -/
def capOk (c : BitVec 128) : Bool :=
  decide (capBase c + capLength c ≤ 2 ^ 57) && (!bit c capATOM || (bit c capREAD && bit c capWRITE))
    && (!bit c capPULL || bit c capWRITE)

/-- A capability register's value with its tag. -/
structure Cap where
  bits : BitVec 128
  tag : Bool
  deriving DecidableEq, Repr

/-- A capability register. -/
def Warp.cap (w : Warp) (k : KReg) : Cap := { bits := w.kget k, tag := w.ktag k }

/-- The target address of an access at offset `x` of a capability, computed exactly (R332, R354). -/
def Cap.at (c : Cap) (x : Int) : Int := capBase c.bits + x

/-- Tag, bounds and permission of an access of `n` bytes (R161). -/
def Cap.check (c : Cap) (x : Int) (n : Nat) (perm : Nat) : Except Stop Unit := do
  let a := c.at x
  let va := BitVec.ofInt 64 a
  need c.tag (capability 1 va)
  need (decide (0 ≤ x) && decide (a + n ≤ capBase c.bits + capLength c.bits)) (capability 2 va)
  need (bit c.bits perm) (capability 3 va)

/-- The peer entry's STATE and then its LEASE (R161). -/
def State.peerCheck (s : State) (part : Nat) (c : Cap) (va : Word) : Except Stop Unit := do
  need (s.peerActive part (capPeer c.bits)) (noPeer va)
  need (field (s.peer part (capPeer c.bits)) 57 48 == capLease c.bits) (capability 4 va)

/-- No workgroup of a certified launch makes a remote access or uses a capability (R161). -/
def Workgroup.egress (g : Workgroup) (va : Word) : Except Stop Unit := need (!g.cert) (kilnAccess kEgress va)

/-- What a remote access asks for. -/
structure RemAcc where
  op : RemOp
  size : Nat
  x : Word := 0
  y : Word := 0
  deriving DecidableEq, Repr

/-- The permission a remote access needs (R158). -/
def remPerm : RemOp → Nat
  | .load => capREAD
  | _ => capATOM

/-- The request a warp or one of its threads has out. -/
def State.request? (s : State) (wi : Nat) (th : Option Nat) : Option RemReq :=
  s.fab.remotes.find? fun r => r.warp == wi && r.thread == th

/-- The write-combining entry of a key. -/
def State.wcEntry? (s : State) (core : Nat) (c : Cap) (line : Nat) : Option WcEntry :=
  s.fab.wcb.find? fun e => e.core == core && e.peer == capPeer c.bits && e.target == capTarget c.bits
    && e.lease == capLease c.bits && e.line == line

/-- A write of a core to a peer's line is unacknowledged (R162: lease apart). -/
def State.lineInFlight (s : State) (core : Nat) (c : Cap) (line : Nat) : Bool :=
  s.fab.flights.any fun f => f.core == core && f.peer == capPeer c.bits && f.target == capTarget c.bits
    && f.line == line

/-- Every entry of the buffer for a peer, target context and line drains where it can (R162, R166). -/
def State.drainLine (s : State) (core : Nat) (c : Cap) (line : Nat) : State :=
  s.drainAll (s.fab.wcb.filter fun e => e.core == core && e.peer == capPeer c.bits && e.target == capTarget c.bits
    && e.line == line)

/-- A remote load or atomic checked and sent (R161, R162): it waits for the buffered writes of its line. -/
def State.remoteSend (s : State) (wi : Nat) (th : Option Nat) (g : Workgroup) (c : Cap) (x : Int) (r : RemAcc) :
    Except Stop State := do
  let a := c.at x
  let va := BitVec.ofInt 64 a
  g.egress va
  c.check x r.size (remPerm r.op)
  need (decide (a % r.size = 0)) (capability 7 va)
  s.peerCheck g.part c va
  let line := a.toNat / 128
  let s := s.drainLine g.core c line
  need (!(s.lineInFlight g.core c line || s.fab.wcb.any fun e => e.core == g.core && e.peer == capPeer c.bits
    && e.target == capTarget c.bits && e.line == line)) (.park .response s)
  let id := s.fab.nextId
  let q : RemReq := { id := id, warp := wi, thread := th, peer := capPeer c.bits, part := g.part, sent := s.tick
                      answer := none }
  let s := { s with fab := { s.fab with nextId := id + 1, remotes := s.fab.remotes ++ [q] } }
  return s.send (.remote id (capPeer c.bits) (capTarget c.bits) (capLease c.bits) a.toNat r.op r.size r.x r.y)

/-- A request taken off the list. -/
def State.dropRequest (s : State) (id : Nat) : State :=
  { s with fab := { s.fab with remotes := s.fab.remotes.filter fun r => r.id != id } }

/-- A remote load or atomic of a warp or thread: sent once, waited for, and answered with its data or REMOTE_FAULT
(R162-R164). -/
def State.remote (s : State) (wi : Nat) (th : Option Nat) (g : Workgroup) (c : Cap) (x : Int) (r : RemAcc) :
    Except Stop (Nat × State) :=
  match s.request? wi th with
  | some { id := id, answer := some (.data w), .. } => .ok (w.toNat % 2 ^ (8 * r.size), s.dropRequest id)
  | some { answer := some (.fault reason detail), .. } =>
    .error (remoteFault reason detail (BitVec.ofInt 64 (c.at x)))
  | some { answer := none, .. } => .error (.park .response s)
  | none => do
    let s ← s.remoteSend wi th g c x r
    .error (.park .response s)

/-- An entry of the buffer with the bytes of a store merged in; it drains when its mask is full (R165, R166). -/
def State.wcMerge (s : State) (e : WcEntry) (o n : Nat) (x : Word) : State :=
  let k := byteMask o n
  let e' := { e with data := mergeLine e.data (lineAt o n x.toNat) k, mask := e.mask ||| k }
  let s := { s with fab := { s.fab with wcb := s.fab.wcb.map fun y => if y = e then e' else y } }
  if e'.mask = BitVec.allOnes 128 then s.drainAll [e'] else s

/-- A plain remote store (R161, R165). -/
def State.remoteStore (s : State) (g : Workgroup) (c : Cap) (x : Int) (n : Nat) (v : Word) : Except Stop State := do
  let a := c.at x
  let va := BitVec.ofInt 64 a
  g.egress va
  c.check x n capWRITE
  need (decide (a % n = 0)) (capability 7 va)
  let line := a.toNat / 128
  match s.wcEntry? g.core c line with
  | some e => return s.wcMerge e (a.toNat % 128) n v
  | none =>
    let mine := s.fab.wcb.filter fun e => e.core == g.core
    let s := if mine.length < 64 then s else s.drainAll (mine.take 1)
    need (decide ((s.fab.wcb.filter fun e => e.core == g.core).length < 64)) (.park .response s)
    let e : WcEntry := { core := g.core, peer := capPeer c.bits, target := capTarget c.bits, lease := capLease c.bits
                         line := line, data := 0, mask := 0, tick := s.tick, part := g.part, ctx := g.ctx }
    return { s with fab := { s.fab with wcb := s.fab.wcb ++ [e] } }.wcMerge e (a.toNat % 128) n v

/-- A scalar remote load or atomic: SIZE, then the access through the capability. -/
def remoteOp (op : RemOp) (d a : SReg) (k : KReg) (size : MemSize) (s : State) : Host.Outcome State Fault Refusal :=
  let n := sizeBytes size
  let data := if op = .load then [] else if op = .cas then [d.val, d.val + 1] else [d.val]
  scalarOp s { reads := a.val :: data, writes := [d.val] } fun w g => do
    need (op == .load || ((size == .n32 || size == .n64) && (op != .cas || d != 63))) illegal
    let low (r : SReg) : Word := BitVec.ofNat 64 (lowBytes (w.sget r) n)
    let (x, t) ← s.remote s.cur none g (w.cap k) (w.sget a).toNat
      { op := op, size := n, x := if op = .load then 0 else low d, y := if op = .cas then low (nextReg d) else 0 }
    t.putS d (if op = .load then extend size x else BitVec.ofNat 64 x)

/-- RLD (R354, R355). -/
def execRld (d a : SReg) (k : KReg) (size : MemSize) (s : State) : Host.Outcome State Fault Refusal :=
  remoteOp .load d a k size s

/-- RATOM.ADD (R354, R355). -/
def execRatomAdd (d a : SReg) (k : KReg) (size : MemSize) (s : State) : Host.Outcome State Fault Refusal :=
  remoteOp .add d a k size s

/-- RATOM.AND (R354, R355). -/
def execRatomAnd (d a : SReg) (k : KReg) (size : MemSize) (s : State) : Host.Outcome State Fault Refusal :=
  remoteOp .and d a k size s

/-- RATOM.OR (R354, R355). -/
def execRatomOr (d a : SReg) (k : KReg) (size : MemSize) (s : State) : Host.Outcome State Fault Refusal :=
  remoteOp .or d a k size s

/-- RATOM.XOR (R354, R355). -/
def execRatomXor (d a : SReg) (k : KReg) (size : MemSize) (s : State) : Host.Outcome State Fault Refusal :=
  remoteOp .xor d a k size s

/-- RATOM.XCHG (R354, R355). -/
def execRatomXchg (d a : SReg) (k : KReg) (size : MemSize) (s : State) : Host.Outcome State Fault Refusal :=
  remoteOp .xchg d a k size s

/-- RATOM.CAS (R354, R355): compare in sD, new value in s(D+1). -/
def execRatomCas (d a : SReg) (k : KReg) (size : MemSize) (s : State) : Host.Outcome State Fault Refusal :=
  remoteOp .cas d a k size s

/-- RST (R165, R354). -/
def execRst (d a : SReg) (k : KReg) (size : MemSize) (s : State) : Host.Outcome State Fault Refusal :=
  scalarOp s { reads := [a.val, d.val] } fun w g => do
    need (storeSizeOk size) illegal
    s.remoteStore g (w.cap k) (w.sget a).toNat (sizeBytes size) (w.sget d)

/-- The store of RST.REL.SYS sent on its own once the release is done; a peer entry that is not ACTIVE with an equal
LEASE drops it as at a drain (R166, R169). -/
def State.releaseStore (s : State) (wi : Nat) (g : Workgroup) (c : Cap) (a n : Nat) (x : Word) : Except Stop State := do
  let p := s.peer g.part (capPeer c.bits)
  let line := a / 128
  if field p 63 62 ≠ 2 ∨ field p 57 48 ≠ capLease c.bits then
    let s := { s with fab := { s.fab with dropped := s.fab.dropped + 1 } }
    return s.aer g.ctx { va := line * 128, bytes := n, peer := capPeer c.bits, target := capTarget c.bits
                         kind := if field p 63 62 ≠ 2 then 1 else 2 }
  else
    let id := s.fab.nextId
    let f : Flight := { id := id, core := g.core, peer := capPeer c.bits, target := capTarget c.bits
                        lease := capLease c.bits, line := line, bytes := n, ctx := g.ctx }
    let q : RemReq := { id := id, warp := wi, thread := none, peer := capPeer c.bits, part := g.part, sent := s.tick
                        answer := none }
    let s := { s with fab := { s.fab with nextId := id + 1, flights := s.fab.flights ++ [f]
                                          remotes := s.fab.remotes ++ [q] } }
    .error (.park .response (s.send (.lineWrite id (capPeer c.bits) (capTarget c.bits) (capLease c.bits) (line * 128)
      (lineAt (a % 128) n x.toNat) (byteMask (a % 128) n) 1
      (Config.plane id).val)))

/-- The number of scope system (R117). -/
def scopeSystem : Nat := 6

/-- RST.REL.SYS (R169, R354): the checks, a system-scope release, then the store, awaited. -/
def execRstRelSys (d a : SReg) (k : KReg) (size : MemSize) (s : State) : Host.Outcome State Fault Refusal :=
  scalarOp s { reads := [a.val, d.val] } fun w g => do
    need (storeSizeOk size) illegal
    let s ← s.drained w scopeSystem
    match s.request? s.cur none with
    | some { id := id, answer := some _, .. } => return s.dropRequest id
    | some { answer := none, .. } => .error (.park .response s)
    | none =>
      let c := w.cap k
      let n := sizeBytes size
      let x : Int := (w.sget a).toNat
      g.egress (BitVec.ofInt 64 (c.at x))
      c.check x n capWRITE
      need (decide (c.at x % n = 0)) (capability 7 (BitVec.ofInt 64 (c.at x)))
      let t ← s.release s.cur g.core 6
      t.releaseStore s.cur g c (c.at x).toNat n (w.sget d)

/-- The capability register and the offset of a lane remote form (R332). -/
def laneCap (f : LaneFields) (w : Warp) : Cap := w.cap (Fin.ofNat 8 (field f.w2 28 26))

/-- The offset from BASE of a thread's remote access, exact (R332). -/
def laneRemOff (f : LaneFields) (w : Warp) (i : Nat) : Int :=
  (w.operand f .n64 i f.opa : Nat) + signed 26 f.w2.toNat

/-- Requests of the threads of a load sent in thread order, up to the first that a check or a buffered write stops
(R163). -/
def sendThreads (k : State → Nat → Except Stop State) : List Nat → State → State
  | [], s => s
  | i :: r, s =>
    match k s i with
    | .ok t => sendThreads k r t
    | .error (.park _ t) => t
    | .error _ => s

/-- L.RLD (R163, R332): every thread's load is sent before the first response is taken. -/
def execLRld (f : LaneFields) (s : State) : Host.Outcome State Fault Refusal :=
  laneOpFrame s 0x160 f fun w0 b part =>
    let g := s.wgOf w0
    let acc : RemAcc := { op := .load, size := typeBytes f.ty }
    let s := sendThreads (fun s i => match s.request? s.cur (some i) with
      | some _ => .ok s
      | none => s.remoteSend s.cur (some i) g (laneCap f w0) (laneRemOff f w0 i) acc) (todo b part) s
    match perThread (fun s i => do
        let w := s.focus w0
        let (x, s) ← s.remote s.cur (some i) g (laneCap f w) (laneRemOff f w i) acc
        return s.putThread f i x) (todo b part) s with
    | (t, none) => t.laneAdvance
    | (t, some (i, e)) => t.laneStop i e

/-- L.RST (R165, R332). -/
def execLRst (f : LaneFields) (s : State) : Host.Outcome State Fault Refusal :=
  laneEach s 0x161 f fun s i => match s.warp? s.cur with
    | none => .ok s
    | some w => do
      let s ← s.remoteStore (s.wgOf w) (laneCap f w) (laneRemOff f w i) (typeBytes f.ty)
        (BitVec.ofNat 64 (w.operand f f.ty i f.opb))
      return s.modWarp s.cur fun w => { w with laneSent := true }

/-- A lane remote atomic: one thread at a time (R163). -/
def laneRemAtom (s : State) (op : Nat) (f : LaneFields) (r : Warp → Nat → RemAcc) :
    Host.Outcome State Fault Refusal :=
  laneEach s op f fun s i => match s.warp? s.cur with
    | none => .ok s
    | some w => do
      let (x, s) ← s.remote s.cur (some i) (s.wgOf w) (laneCap f w) (laneRemOff f w i) (r w i)
      return s.putThread f i x

/-- L.RATOM.ADD (R332). -/
def execLRatomAdd (f : LaneFields) (s : State) : Host.Outcome State Fault Refusal :=
  laneRemAtom s 0x162 f fun w i =>
    { op := .add, size := typeBytes f.ty, x := BitVec.ofNat 64 (w.operand f f.ty i f.opb) }

/-- L.RATOM.CAS: B the new value, C the compare (R332). -/
def execLRatomCas (f : LaneFields) (s : State) : Host.Outcome State Fault Refusal :=
  laneRemAtom s 0x163 f fun w i =>
    { op := .cas, size := typeBytes f.ty, x := BitVec.ofNat 64 (w.operand f f.ty i f.opc)
      y := BitVec.ofNat 64 (w.operand f f.ty i f.opb) }

/-- The two 8-byte reads of a 16-byte load from the host window, both asked for before either is taken (R474). -/
def State.hostLoad16 (s : State) (wi : Nat) (pa : Nat) : Except Stop (Nat × State) :=
  match s.hostLoad wi none pa 8, s.hostLoad wi none (pa + 8) 8 with
  | .ok (lo, t), .ok _ => do
    let (hi, t) ← t.hostLoad wi none (pa + 8) 8
    return (lo + hi * 2 ^ 64, t)
  | .error (.park p t), .error (.park _ _) =>
    match t.hostLoad wi none (pa + 8) 8 with
    | .error (.park _ u) => .error (.park p u)
    | _ => .error (.park p t)
  | _, _ => .error (.park .response s)

/-- The bytes and tag of a granule at the cluster's slice (R159, R357). -/
def State.capLoad (s : State) (wi : Nat) (g : Workgroup) (t : Trans) (va : Word) : Except Stop (Nat × Bool × State) :=
  match t.kind with
  | .ctl =>
    let (lo, s) := s.ctlRead t.pa 8
    let (hi, s) := s.ctlRead (t.pa + 8) 8
    .ok (lo + hi * 2 ^ 64, false, s)
  | .host => do
    let (x, s) ← s.hostLoad16 wi t.pa
    return (x, false, s)
  | _ => do
    s.checkGrain g.core t va
    let s := s.l1WriteBackAll (clusterCores g.core) (t.pa / 128)
    let s ← s.homeReady (t.pa / 128) (clusterOf g.core) false
    need (!s.mem.poisoned t.pa 16) poisonConsumed
    let s := s.sliceRead g.core (t.pa / 128)
    return (s.mem.readCoh t.pa 16, s.mem.tagAt t.pa, s)

/-- The tag of a granule set (R159); the far tier keeps none (R87). -/
def Mem.setTag (m : Mem) (pa : Nat) : Mem :=
  if 0xC000000000 ≤ pa then m
  else match m.mapCell (pa / 128) with
    | some c => { m with spTags := Tab.set false m.spTags (c / 16 + pa % 128 / 16) true }
    | none => { m with tags := Tab.set false m.tags (pa / 16) true }

/-- A granule written with its tag at the cluster's slice (R159, R357). -/
def State.capStore (s : State) (g : Workgroup) (t : Trans) (va : Word) (c : Cap) : Except Stop State :=
  match t.kind with
  | .ctl => .ok s
  | .host =>
    if s.hostLocked s.cur none t.pa 16 then .error (.park .response s)
    else .ok ((s.hostStore g.core t.pa 8 (c.bits.toNat % 2 ^ 64)).hostStore g.core (t.pa + 8) 8 (c.bits.toNat / 2 ^ 64))
  | _ => do
    let s ← if t.checked then s.registerGrain g.core t.pa va else .ok s
    let s := (s.insertSig g.core t).l1DropAll (clusterCores g.core) (t.pa / 128)
    let s ← s.homeReady (t.pa / 128) (clusterOf g.core) true
    let o := t.pa % 128
    let s := s.sliceWrite g.core (t.pa / 128) ((2 ^ 16 - 1) * 2 ^ o) (c.bits.toNat * 2 ^ (8 * o))
    return if c.tag then { s with mem := s.mem.setTag t.pa } else s

/-- CAP.LD (R356, R357). -/
def execCapLd (d : KReg) (a : SReg) (s : State) : Host.Outcome State Fault Refusal :=
  scalarOp s { reads := [a.val] } fun w g => do
    let va := w.sget a
    g.egress va
    need (va.toNat % 16 == 0) (capability 7 va)
    let (t, s) ← s.translate (s.whoOf g) .read .r false va
    s.keep do
    let (x, tag, s) ← s.capLoad s.cur g t va
    return s.modWarp s.cur fun w => w.kset d (BitVec.ofNat 128 x) tag

/-- CAP.ST (R356, R357). -/
def execCapSt (a : SReg) (b : KReg) (s : State) : Host.Outcome State Fault Refusal :=
  scalarOp s { reads := [a.val] } fun w g => do
    let va := w.sget a
    g.egress va
    need (va.toNat % 16 == 0) (capability 7 va)
    let (t, s) ← s.translate (s.whoOf g) .write .w false va
    s.keep (s.capStore g t va (w.cap b))

/-- CAP.MINT (R160, R356). -/
def execCapMint (d : KReg) (a : SReg) (s : State) : Host.Outcome State Fault Refusal :=
  scalarOp s { reads := [a.val, a.val + 1] } fun w g => do
    need (a != 63) illegal
    g.egress 0
    let c : BitVec 128 := w.sget (nextReg a) ++ w.sget a
    let p := s.peer g.part (capPeer c)
    need (s.ctxSys g.ctx && capOk c && field p 63 62 == 2 && field p 57 48 == capLease c) (capability 6 0)
    return s.modWarp s.cur fun w => w.kset d c true

/-- CAP.BOUND (R160, R356, R357). -/
def execCapBound (d a : KReg) (b : SReg) (s : State) : Host.Outcome State Fault Refusal :=
  scalarOp s { reads := [b.val, b.val + 1] } fun w g => do
    need (b != 63) illegal
    g.egress 0
    let c := w.cap a
    need c.tag (capability 1 0)
    let base := (w.sget b).toNat
    let len := (w.sget (nextReg b)).toNat % 2 ^ 40
    need (decide (capBase c.bits ≤ base) && decide (base < 2 ^ 57) && decide (base + len ≤ capBase c.bits + capLength c.bits))
      (capability 5 0)
    return s.modWarp s.cur fun w => w.kset d (setField (setField c.bits 127 71 base) 70 31 len) true

/-- The permission bits CAP.PERM leaves: READ, WRITE, ATOM and PULL and b[3:0], with ATOM and PULL cleared beside what
they require (R356). -/
def capPerms (c : BitVec 128) (b : Word) : BitVec 128 :=
  let r := bit c capREAD && bit b 3
  let w := bit c capWRITE && bit b 2
  let x := setBit (setBit c capREAD r) capWRITE w
  setBit (setBit x capATOM (bit c capATOM && bit b 1 && r && w)) capPULL (bit c capPULL && bit b 0 && w)

/-- CAP.PERM (R356, R357). -/
def execCapPerm (d a : KReg) (b : SReg) (s : State) : Host.Outcome State Fault Refusal :=
  scalarOp s { reads := [b.val] } fun w g => do
    g.egress 0
    let c := w.cap a
    need c.tag (capability 1 0)
    return s.modWarp s.cur fun x => x.kset d (capPerms c.bits (w.sget b)) true

/-- CAP.READ (R356): an untagged register reads too (R357). -/
def execCapRead (d : SReg) (a : KReg) (n : Fin 64) (s : State) : Host.Outcome State Fault Refusal :=
  scalarOp s { writes := [d.val] } fun w g => do
    need (decide (n.val ≤ 2)) illegal
    g.egress 0
    let c := w.cap a
    s.putS d (if n.val = 0 then c.bits.setWidth 64 else if n.val = 1 then (c.bits >>> 64).setWidth 64
      else BitVec.ofNat 64 c.tag.toNat)

/-- CAP.MOV (R356): the tag goes with the value (R357). -/
def execCapMov (d a : KReg) (s : State) : Host.Outcome State Fault Refusal :=
  scalarOp s {} fun w g => do
    g.egress 0
    return s.modWarp s.cur fun x => x.kset d (w.kget a) (w.ktag a)

end Sys2Proof.Machine
end

