-- ==== Sys2Proof/Machine/Engine.lean ====
section
/-! DEFINITION. Posting to the engine queues (R358, R364-R371), landing-word instructions (R359-R363) and scratchpad
mappings (R66-R69, R372, R373). -/

namespace Sys2Proof.Machine

/-- Bytes [lo, lo + n) of an engine request (R364, R369). -/
def reqGet (r : BitVec 1024) (lo n : Nat) : Nat := lineBytes r lo n

/-- A signed 64-bit field of a request. -/
def reqInt (r : BitVec 1024) (lo : Nat) : Int := signed 64 (reqGet r lo 8)

/-- SOURCE_KIND and DEST_KIND of a copy request (R364). -/
def srcKind (r : BitVec 1024) : Nat := reqGet r 64 1 % 4
def dstKind (r : BitVec 1024) : Nat := reqGet r 64 1 / 4 % 4

/-- ROW_BYTES and ROWS of a copy request (R364). -/
def rowBytes (r : BitVec 1024) : Nat := reqGet r 32 4
def rowCount (r : BitVec 1024) : Nat := reqGet r 36 4

/-- The address a copy's row starts at: exact for a scratchpad address, truncated for any other (R366). -/
def rowAddr (kind base : Nat) (pitch : Int) (k : Nat) : Int :=
  if kind = 1 then (base % 2 ^ 32 : Nat) + k * pitch else ((base : Int) + k * pitch) % 2 ^ 64

/-- The first address of a side of a copy: by VA, scratchpad address, or BASE and offset of its tensor (R366). -/
def sideBase (kind addr off : Nat) (e : BitVec 512) : Nat :=
  if kind = 2 then ((teBase e).toNat + off) % 2 ^ 64 else addr

/-- The address of row `k` of a copy's source. -/
def srcRow (r : BitVec 1024) (e : BitVec 512) (k : Nat) : Int :=
  rowAddr (srcKind r) (sideBase (srcKind r) (reqGet r 0 8) (reqGet r 8 8) e) (reqInt r 40) k

/-- The address of row `k` of a copy's destination. -/
def dstRow (r : BitVec 1024) (e : BitVec 512) (k : Nat) : Int :=
  rowAddr (dstKind r) (sideBase (dstKind r) (reqGet r 16 8) (reqGet r 24 8) e) (reqInt r 48) k

/-- A copy request is malformed, its version word apart (R364, R365). -/
def copyBad (r : BitVec 1024) : Bool :=
  srcKind r == 3 || dstKind r == 3 || reqGet r 64 1 / 16 != 0 || reqGet r 65 7 != 0 || reqGet r 96 32 != 0
    || rowBytes r == 0 || decide (2 ^ 24 < rowBytes r) || rowCount r == 0 || decide (65535 < rowCount r)
    || (srcKind r != 2 && reqGet r 8 8 != 0) || (dstKind r != 2 && reqGet r 24 8 != 0)

/-- A bulk request is malformed, given its capability's BASE (R364, R368). -/
def bulkBad (r : BitVec 1024) (base : Nat) : Bool :=
  let ones := 2 ^ 64 - 1
  reqGet r 64 1 != 0 || reqGet r 8 8 != 0 || reqGet r 24 32 != 0 || reqGet r 65 7 != 0 || decide (8 ≤ reqGet r 72 1)
    || decide (4 ≤ reqGet r 73 1) || reqGet r 74 6 != 0 || reqGet r 112 16 != 0
    || reqGet r 104 8 == 0 || reqGet r 104 8 % 32 != 0
    || (reqGet r 88 8 != ones && (base + reqGet r 88 8) % 8 != 0)
    || (reqGet r 80 8 != ones && (base + reqGet r 80 8) % 16 != 0)

/-- A gather request is malformed (R369). -/
def gatherBad (r : BitVec 1024) : Bool :=
  let ctl := reqGet r 56 1
  let rb := reqGet r 28 4
  decide (4 ≤ ctl) || reqGet r 57 7 != 0 || reqGet r 24 4 == 0 || decide (65535 < reqGet r 24 4) || decide (rb < 4)
    || decide (4096 < rb) || rb % 4 != 0 || (ctl % 2 == 0 && reqGet r 8 8 != 0)
    || reqGet r 16 4 % (if ctl / 2 % 2 = 1 then 8 else 4) != 0 || reqGet r 20 4 % 4 != 0

/-- A check made for every item of a list. -/
def forAll {α : Type} (k : α → Except Stop Unit) : List α → Except Stop Unit
  | [] => .ok ()
  | x :: r =>
    match k x with
    | .ok _ => forAll k r
    | .error e => .error e

/-- A scratchpad row at an exact address decoded (R365, R366). -/
def State.spRow (s : State) (g : Workgroup) (x : Int) (n : Nat) : Except Stop Nat := do
  need (decide (0 ≤ x) && decide (x < 2 ^ 32)) (spRange (BitVec.ofInt 64 x))
  s.spCell g (BitVec.ofInt 64 x) n

/-- The parts of [a, a + n) that lie in one 64 KiB page each: first address and bytes, wrapping at 2^64. -/
def pageParts (a n : Nat) : List (Nat × Nat) :=
  (List.range ((a % 0x10000 + n + 0xFFFF) / 0x10000)).map fun i =>
    let p := if i = 0 then a else (a / 0x10000 + i) * 0x10000
    (p % 2 ^ 64, Nat.min (a + n) ((p / 0x10000 + 1) * 0x10000) - p)

/-- The pages of a TID's range against R100-R102 (R365): `first` is the kind and page of the first leaf. -/
def State.tidPages (s : State) (g : Workgroup) (kind : AccKind) (write : Bool) :
    Option (Option Nat) → List (Nat × Nat) → Except Stop (Option Nat)
  | first, [] => .ok (first.getD none)
  | first, (a, n) :: rest => do
    let va := BitVec.ofNat 64 a
    match s.leafAt (s.whoOf g) va with
    | .error f => .error (.fault ((s.whoOf g).key kind va) f.reason f.level va)
    | .ok t =>
      let page := t.pa / 2 ^ 21
      let k := first.getD (if t.kiln then some page else none)
      need (k.isSome == t.kiln && (match k with | some b => s.sameBinding b page | none => true)) (kilnAccess kMixed va)
      need (!t.kiln || s.kilnAllows g page write) (kilnAccess kState va)
      need (t.kiln || !write || !g.cert || s.inStack g a n) (kilnAccess kConfined va)
      need (!g.cert || t.kind != .host) (kilnAccess kEgress va)
      s.tidPages g kind write (some k) rest

/-- The range of a TID over rows of `n` bytes (R365). -/
def State.tidRange (s : State) (g : Workgroup) (kind : AccKind) (write : Bool) (rows : List Nat) (n : Nat) :
    Except Stop (Option Nat) :=
  s.tidPages g kind write none (rows.flatMap fun a => pageParts a n)

/-- A certified workgroup reads nothing of the host window by VA (R102): of a range that translates, each page. -/
def State.hostBarred (s : State) (g : Workgroup) (parts : List (Nat × Nat)) : Except Stop Unit :=
  if g.cert then
    forAll (fun p => match s.leafAt (s.whoOf g) (BitVec.ofNat 64 p.1) with
      | .ok t => need (t.kind != .host) (kilnAccess kEgress (BitVec.ofNat 64 p.1))
      | .error _ => .ok ()) parts
  else .ok ()

/-- A handle in a request that names a scratchpad word of `n` bytes, decoded (R359, R365). -/
def State.handleCell (s : State) (g : Workgroup) (h : Word) (n : Nat) : Except Stop Unit :=
  if landIsSp h then (s.spCell g (BitVec.ofNat 64 (field h 31 0)) n).map fun _ => () else .ok ()

/-- The distinct sectors of [a, a + n) (R362). -/
def sectorsOf (a n : Nat) : Nat := (a + n - 1) / 32 - a / 32 + 1

/-- An engine operation with nothing in it. -/
def EngOp.blank : EngOp :=
  { id := 0, core := 0, q := 0, kind := .malformed, req := 0, src := 0, dst := 0, cap := 0, wg := 0, ctx := 0
    part := 0, launch := 0, cert := false, land := 0, done := 0, status := 0, park := none, kiln := false
    poisoned := false, sent := false, ended := false }

/-- The entries of an engine queue of a core. -/
def State.queueLen (s : State) (core q : Nat) : Nat := (s.eng.ops.filter fun o => o.core == core && o.q == q).length

/-- The entries an engine queue holds (R358). -/
def queueCap (q : Nat) : Nat := if q = 4 then 32 else 64

/-- An entry added at the end of an engine queue. -/
def State.addOp (s : State) (o : EngOp) : State := { s with eng := { s.eng with ops := s.eng.ops ++ [o] } }

/-- A landing handle an instruction or request names: none, or its word checked and translated as an atomic. -/
def State.landOpt (s : State) (g : Workgroup) (h : Word) : Except Stop (LandLoc × State) :=
  if h = 0 then .ok (.nowhere, s) else s.landing g h 16 .atomic .rw

/-- The end of a post (R365): the landing word, room in the queue, the release, the sectors, the entry. -/
def State.post (s : State) (g : Workgroup) (wi : Nat) (o : EngOp) (sectors : Nat) : Except Stop State := do
  let (loc, s) ← s.landOpt g o.land
  need (decide (s.queueLen g.core o.q < queueCap o.q)) (.park .engine s)
  let s ← s.release wi g.core 3
  let s := s.landUpdate g.core loc fun l => l.post sectors
  let s := s.addOp { o with id := s.eng.nextId }
  return { s with eng := { s.eng with nextId := s.eng.nextId + 1 } }

/-- The operation a warp posts. -/
def newOp (w : Warp) (g : Workgroup) (q : Nat) (kind : EngKind) (r : BitVec 1024) (land : Word) : EngOp :=
  { EngOp.blank with core := g.core, q := q, kind := kind, req := r, wg := w.wg, ctx := g.ctx, part := g.part
                     launch := g.launch, cert := g.cert, land := land }

/-- A request of `n` bytes read at the port (R364, R365, R369). -/
def State.request (s : State) (g : Workgroup) (a : Word) (n : Nat) : Except Stop (BitVec 1024) := do
  let c ← s.spCell g a n
  aligned a n
  let x ← s.spLoad c n
  return BitVec.ofNat 1024 x

/-- A tensor a request names by TID (R36). -/
def State.needTid (s : State) (g : Workgroup) (tid : Nat) : Except Stop (BitVec 512) :=
  match s.resolve g.ctx (tid % 2 ^ 32) with
  | some e => .ok e
  | none => .error (staleTid 0)

/-- The rows of a side of a copy: scratchpad rows decoded, TID ranges checked; the kiln page of a kiln tensor (R365). -/
def State.sideCheck (s : State) (g : Workgroup) (side : Nat) (row : Nat → Int) (rows n : Nat) (write : Bool) :
    Except Stop (Option Nat) :=
  if side = 1 then do
    forAll (fun k => (s.spRow g (row k) n).map fun _ => ()) (List.range rows)
    return none
  else if side = 0 then do
    if !write then s.hostBarred g ((List.range rows).flatMap fun k => pageParts (row k).toNat n)
    return none
  else if side = 2 then
    s.tidRange g (if write then .copyWrite else .copyRead) write ((List.range rows).map fun k => (row k).toNat) n
  else .ok none

/-- The directory has what sideCheck's lookups of a side's pages read (R38). -/
def State.sideLooks (s : State) (g : Workgroup) (side : Nat) (row : Nat → Int) (rows n : Nat) (write : Bool) : State :=
  if side = 2 ∨ (side = 0 ∧ !write ∧ g.cert) then
    s.looks (s.whoOf g) (((List.range rows).flatMap fun k => pageParts (row k).toNat n).map fun p => BitVec.ofNat 64 p.1)
  else s

/-- Two runs of bytes meet. -/
def overlaps (a n b m : Nat) : Bool := decide (a < b + m) && decide (b < a + n)

/-- The version word of a conditional copy lies in its destination (R367). -/
def State.versionInside (s : State) (g : Workgroup) (r : BitVec 1024) : Bool :=
  let v := BitVec.ofNat 64 (reqGet r 72 8)
  let n := rowBytes r
  let e := if dstKind r = 2 then (s.resolve g.ctx (reqGet r 16 4)).getD 0 else 0
  if landIsSp v then
    dstKind r == 1 && (match s.spCell g (BitVec.ofNat 64 (field v 31 0)) 8 with
      | .ok c => (List.range (rowCount r)).any fun k => match s.spRow g (dstRow r e k) n with
        | .ok d => overlaps d n c 8
        | .error _ => false
      | .error _ => false)
  else dstKind r != 1 && (List.range (rowCount r)).any fun k => overlaps (dstRow r e k).toNat n v.toNat 8

/-- XFER.POST and XFER.COND (R364-R367). -/
def copyPost (cond : Bool) (a : SReg) (q : Fin 4) (s : State) : Host.Outcome State Fault Refusal :=
  scalarOp s { reads := [a.val] } fun w g => do
    let r ← s.request g (w.sget a) 128
    let land := BitVec.ofNat 64 (reqGet r 56 8)
    let ver := BitVec.ofNat 64 (reqGet r 72 8)
    need (!g.cert || dstKind r != 0) (kilnAccess kConfined (BitVec.ofNat 64 (reqGet r 16 8)))
    need (!g.cert || !cond || !landIsGlobal ver) (kilnAccess kConfined ver)
    need (!g.cert || !landIsGlobal land) (kilnAccess kConfined land)
    if copyBad r || (cond && (decide (4096 < rowBytes r * rowCount r) || s.versionInside g r)) then
      s.post g s.cur (newOp w g q.val .malformed r land) 0
    else
      let rows := rowCount r
      let n := rowBytes r
      if srcKind r = 1 then forAll (fun k => (s.spRow g (srcRow r 0 k) n).map fun _ => ()) (List.range rows)
      if dstKind r = 1 then forAll (fun k => (s.spRow g (dstRow r 0 k) n).map fun _ => ()) (List.range rows)
      s.handleCell g land 16
      if cond then s.handleCell g ver 8
      let src ← if srcKind r = 2 then s.needTid g (reqGet r 0 4) else .ok 0
      let dst ← if dstKind r = 2 then s.needTid g (reqGet r 16 4) else .ok 0
      let k ← s.sideCheck g (srcKind r) (srcRow r src) rows n false
      let _ ← s.sideCheck g (dstKind r) (dstRow r dst) rows n true
      let s := (s.sideLooks g (srcKind r) (srcRow r src) rows n false).sideLooks g (dstKind r) (dstRow r dst) rows n true
      let (_, t) ← if cond then do
          let (_, s) ← s.landOpt g land
          need (ver != 0) (alignment ver)
          s.landing g ver 8 .atomic .rw
        else .ok (.nowhere, s)
      let sectors := (List.range rows).foldl (fun x k => x + sectorsOf (dstRow r dst k).toNat n) 0
      t.post g s.cur { newOp w g q.val (if cond then .cond else .post) r land with src := src, dst := dst
                                                                                   kiln := k.isSome } sectors

/-- XFER.POST (R364-R366). -/
def execXferPost (a : SReg) (q : Fin 4) (s : State) : Host.Outcome State Fault Refusal := copyPost false a q s

/-- XFER.COND (R364, R365, R367). -/
def execXferCond (a : SReg) (q : Fin 4) (s : State) : Host.Outcome State Fault Refusal := copyPost true a q s

/-- XFER.BULK (R176, R364, R365, R368). -/
def execXferBulk (a : SReg) (q : Fin 4) (s : State) : Host.Outcome State Fault Refusal :=
  scalarOp s { reads := [a.val] } fun w g => do
    let r ← s.request g (w.sget a) 128
    let land := BitVec.ofNat 64 (reqGet r 56 8)
    let c := w.cap (Fin.ofNat 8 (reqGet r 72 1))
    g.egress (BitVec.ofInt 64 (c.at (reqGet r 16 8)))
    if bulkBad r (capBase c.bits) then s.post g s.cur (newOp w g q.val .malformed r land) 0
    else
      s.handleCell g land 16
      let len := reqGet r 104 8
      let ones := 2 ^ 64 - 1
      let dest : Int := reqGet r 16 8
      c.check dest len capWRITE
      need (decide (len ≤ 8192) || bit c.bits capPULL) (capability 3 (BitVec.ofInt 64 (c.at dest)))
      if reqGet r 88 8 ≠ ones then c.check (reqGet r 88 8) 8 capWRITE
      if reqGet r 80 8 ≠ ones then c.check (reqGet r 80 8) 16 capWRITE
      s.post g s.cur { newOp w g q.val .bulk r land with cap := c.bits } (len / 32)

/-- GATHER.POST (R369, R370). -/
def execGatherPost (a : SReg) (s : State) : Host.Outcome State Fault Refusal :=
  scalarOp s { reads := [a.val] } fun w g => do
    let r ← s.request g (w.sget a) 64
    let land := BitVec.ofNat 64 (reqGet r 48 8)
    need (!g.cert || !landIsGlobal land) (kilnAccess kConfined land)
    if gatherBad r then s.post g s.cur (newOp w g 4 .malformed r land) 0
    else
      let count := reqGet r 24 4
      let n := reqGet r 28 4
      let width := if reqGet r 56 1 / 2 % 2 = 1 then 8 else 4
      let _ ← s.spCell g (BitVec.ofNat 64 (reqGet r 16 4)) (count * width)
      let _ ← s.spCell g (BitVec.ofNat 64 (reqGet r 20 4)) (count * n)
      s.handleCell g land 16
      let tid := reqGet r 56 1 % 2 == 1
      let src ← if tid then s.needTid g (reqGet r 0 4) else .ok 0
      let side := if tid then 2 else 0
      let base := sideBase side (reqGet r 0 8) (reqGet r 8 8) src
      let rows := (List.range (reqGet r 32 8)).map fun x => (rowAddr side base (reqInt r 40) x).toNat
      let parts := rows.flatMap fun a => pageParts a n
      let k ← if tid then s.tidRange g .gather false rows n else .ok none
      if !tid then s.hostBarred g parts
      let s := if tid ∨ g.cert then s.looks (s.whoOf g) (parts.map fun p => BitVec.ofNat 64 p.1) else s
      let sectors := (List.range count).foldl (fun x j => x + sectorsOf (reqGet r 20 4 + j * n) n) 0
      s.post g s.cur { newOp w g 4 .gather r land with src := src, kiln := k.isSome } sectors

/-- The entries of a core's MX operand queue. -/
def State.mxLen (s : State) (core : Nat) : Nat := (s.eng.mx.filter fun o => o.core == core).length

/-- The capacity of an MX operand queue (R390). -/
def mxCap : Nat := 64

/-- A fence entry appended to the named queues that have room; the queues still to come (R371). -/
def State.addFence (s : State) (w : Warp) (g : Workgroup) (id : Nat) (m rest : BitVec 6) : State × BitVec 6 :=
  (List.range 6).foldl (fun (a : State × BitVec 6) i =>
    let s := a.1
    if !bit a.2 i then a
    else if i = 5 then
      if s.mxLen g.core < mxCap then
        let o : MxOp := { MxOp.blank with id := id, core := g.core, kind := .fence m, wg := w.wg, ctx := g.ctx }
        ({ s with eng := { s.eng with mx := s.eng.mx ++ [o] } }, setBit a.2 i false)
      else a
    else if s.queueLen g.core i < queueCap i then
      (s.addOp { newOp w g i (.fence m) 0 0 with id := id }, setBit a.2 i false)
    else a) (s, rest)

/-- QFENCE (R371). -/
def execQfence (m : BitVec 6) (s : State) : Host.Outcome State Fault Refusal :=
  scalarOp s {} fun w g => do
    need (m != 0) illegal
    let (id, rest) := w.qfence.getD (s.eng.nextId, m)
    let s := if w.qfence.isSome then s else { s with eng := { s.eng with nextId := s.eng.nextId + 1 } }
    let (s, left) := s.addFence w g id m rest
    if left = 0 then return s.modWarp s.cur fun w => { w with qfence := none }
    else .error (.park .engine (s.modWarp s.cur fun w => { w with qfence := some (id, left) }))

/-- LW.INIT (R359, R363). -/
def execLwInit (a b : SReg) (s : State) : Host.Outcome State Fault Refusal :=
  scalarOp s { reads := [a.val, b.val] } fun w g => do
    let h := w.sget a
    need (h != 0 && field h 31 0 % 16 == 0) (alignment h)
    need (!g.cert || !landIsGlobal h) (kilnAccess kConfined h)
    let (l, t) ← s.landing g h 16 .atomic .rw
    let n := (w.sget b).toNat % 2 ^ 16
    return t.landUpdate g.core l fun x => { x with expected := n, pending := n, sectors := 0, status := 0 }

/-- A landing word read by a warp, with the poison check of R464. -/
def State.landLook (s : State) (g : Workgroup) (h : Word) : Except Stop (LandWord × State) := do
  need (h != 0) (alignment h)
  let (l, t) ← s.landing g h 16 .read .r
  t.keep do
  need (match l with
    | .cell c => !t.mem.spPoisoned c 16
    | .mem x => !t.mem.poisoned x.pa 16
    | .nowhere => true) poisonConsumed
  let (x, t) := t.landRead g.core l 16
  return (LandWord.ofNat x, t)

/-- LW.WAIT (R363): its acquire is at cluster scope. -/
def execLwWait (a b : SReg) (s : State) : Host.Outcome State Fault Refusal :=
  scalarOp s { reads := [a.val, b.val] } fun w g => do
    let p := (w.sget b).toNat % 16
    let (l, t) ← s.landLook g (w.sget a)
    need (l.phase != p) (.park (.landing (w.sget a) p) t)
    return t.acquire g.core 3

/-- What LW.READ returns (R363). -/
def LandWord.read (l : LandWord) : Word :=
  BitVec.ofNat 64 (l.status * 2 ^ 48 + l.pending * 2 ^ 32 + l.phase * 2 ^ 28 + Nat.min l.sectors 0xFFFFFFF)

/-- LW.READ (R363). -/
def execLwRead (d a : SReg) (s : State) : Host.Outcome State Fault Refusal :=
  scalarOp s { reads := [a.val], writes := [d.val] } fun w g => do
    let (l, t) ← s.landLook g (w.sget a)
    (t.acquire g.core 3).putS d l.read

/-- A line's row filled from its home, which marks the line MAPPED (R60, R67); its monitors have their wake (R152). -/
def State.mapLine (s : State) (core line cell : Nat) : State :=
  let s := ((s.l1DropAll (clusterCores core) line).homeTake line).dirRoom line
  let m := s.mem
  let tags := (List.range 8).foldl (fun t i => Tab.set false t (cell / 16 + i) (m.tagAt (line * 128 + 16 * i))) m.spTags
  let poison := (List.range 4).foldl (fun t i => Tab.set false t (cell / 32 + i) (Tab.get false m.poison (line * 4 + i)))
    m.spPoison
  let m := { m with sp := writeN m.sp cell 128 (m.readCoh (line * 128) 128), spTags := tags, spPoison := poison
                    dir := Tab.set .uncached m.dir line (.mapped core) }
  ({ s with mem := m }.wakeLine line).wakeCells cell 128

/-- A line added to a mapping of a workgroup that begins at a VA and row. -/
def State.addMapping (s : State) (wi : Nat) (g : Workgroup) (va row line : Nat) : State :=
  let is (x : Mapping) : Bool := x.wg == wi && x.va == va && x.row == row
  let maps := if s.mem.maps.any is then s.mem.maps.map fun x => if is x then { x with lines := x.lines ++ [line] } else x
    else s.mem.maps ++ [{ wg := wi, core := g.core, va := va, row := row, lines := [line] }]
  { s with mem := { s.mem with maps := maps } }

/-- Mapping stops at line `i` for now, with the lines before it mapped (R372). -/
def State.mapStop (s : State) (i : Nat) : Stop → Stop
  | .park p t => .park p (t.modWarp s.cur fun w => { w with mapped := some i })
  | e => .late (s.modWarp s.cur fun w => { w with mapped := some i }) e

/-- Lines mapped in order from line `i` of the mapping, `k` still to do: how many are mapped when mapping stops, or the
fault that parks it with the lines before it mapped (R66, R67, R372). The spec has mapping stop at a line MAPPED by another
core and says nothing of one that this core has mapped already: the model stops there too (DESIGN CHOICE, entry 61). -/
def State.mapLines (s : State) (wgi : Nat) (g : Workgroup) (va row : Nat) : Nat → Nat → Except Stop (Nat × State)
  | 0, i => .ok (i, s)
  | k + 1, i =>
    let a := BitVec.ofNat 64 (va + 128 * i)
    match s.translate (s.whoOf g) .atomic .rw false a with
    | .error (.fault key reason level x) =>
      if reason = 7 ∧ i ≠ 0 then .ok (i, s)
      else .error (s.mapStop i (.fault key reason level x))
    | .error e => .error (s.mapStop i e)
    | .ok (t, s) =>
      let line := t.pa / 128
      if t.cache ≠ 0 ∨ t.checked ∨ (s.mem.mapCell line).isSome then .ok (i, s)
      else match (s.l1DropAll (clusterCores g.core) line).homeReady line 128 true with
        | .error e => .error (s.mapStop i e)
        | .ok s =>
          if s.dirAwaited line then .error (s.mapStop i (.park .response s))
          else ((s.mapLine g.core line (row + 128 * i)).addMapping wgi g va row line).mapLines wgi g va row k (i + 1)

/-- SP.MAP (R66, R67, R372). -/
def execSpMap (d a b : SReg) (s : State) : Host.Outcome State Fault Refusal :=
  scalarOp s { reads := [a.val, b.val], writes := [d.val] } fun w g => do
    let va := w.sget a
    let x := w.sget b
    let row := field x 31 0
    let count := field x 44 32
    aligned va 128
    aligned (BitVec.ofNat 64 row) 128
    need (field x 63 45 == 0 && decide (1 ≤ count) && decide (count ≤ 4096) && decide (row + 128 * count ≤ g.spBytes))
      (spRange (BitVec.ofNat 64 row))
    need (!g.cert) (kilnAccess kConfined va)
    let cell := g.cell row
    let taken := s.mem.maps.any fun m => m.core == g.core && overlaps m.row (128 * m.lines.length) cell (128 * count)
    let full := decide (16 ≤ (s.mem.maps.filter fun m => m.core == g.core).length)
    let i := w.mapped.getD 0
    if i = 0 ∧ (taken || full) then (s.modWarp s.cur fun w => { w with mapped := none }).putS d 0
    else
      let (n, t) ← s.mapLines w.wg g va.toNat cell (count - i) i
      (t.modWarp s.cur fun w => { w with mapped := none }).putS d (BitVec.ofNat 64 n)

/-- SP.UNMAP (R69, R373). -/
def execSpUnmap (a : SReg) (s : State) : Host.Outcome State Fault Refusal :=
  scalarOp s { reads := [a.val] } fun w _ => do
    match s.mem.maps.find? fun m => m.wg == w.wg && m.va == (w.sget a).toNat with
    | some m => return s.unmap m
    | none => return s

end Sys2Proof.Machine
end

