-- ==== Sys2Proof/Machine/Copy.lean ====
section
/-! DEFINITION. What the copy and gather engines do with a queued operation: pieces, conditional commits, gathers and
queue fences (R144-R148, R366, R367, R370, R371), with the egress filter (R104-R106) and poison (R464). -/

namespace Sys2Proof.Machine

/-- The poisoned runs of [pa, pa + n), by offset from pa; bytes of a mapped line have its row's poison. -/
def State.poisonRuns (s : State) (pa n : Nat) : Poison :=
  ((List.range ((pa + n - 1) / 32 + 1 - pa / 32)).map fun i =>
    let lo := Nat.max pa ((pa / 32 + i) * 32)
    let hi := Nat.min (pa + n) ((pa / 32 + i + 1) * 32)
    (lo - pa, hi - lo)).filter fun r => s.mem.poisoned (pa + r.1) r.2 || s.homeIn [4] (pa + r.1)

/-- The poisoned runs of scratchpad [c, c + n). -/
def State.spPoisonRuns (s : State) (c n : Nat) : Poison :=
  ((List.range ((c + n - 1) / 32 + 1 - c / 32)).map fun i =>
    let lo := Nat.max c ((c / 32 + i) * 32)
    let hi := Nat.min (c + n) ((c / 32 + i + 1) * 32)
    (lo - c, hi - lo)).filter fun r => s.mem.spPoisoned (c + r.1) r.2

/-- What was read with what follows it. -/
def EngData.append (a b : EngData) : EngData :=
  { len := a.len + b.len, x := a.x + b.x * 2 ^ (8 * a.len)
    poison := a.poison ++ b.poison.map fun r => (r.1 + a.len, r.2)
    kept := a.kept ++ b.kept.map fun r => (r.1 + a.len, r.2)
    host := a.host ++ b.host.map fun r => (r.1 + a.len, r.2), wait := a.wait || b.wait }

/-- Bytes [off, off + n) of what was read. -/
def EngData.part (d : EngData) (off n : Nat) : EngData :=
  let cut (p : Poison) : Poison := (p.filter fun r => decide (r.1 < off + n) && decide (off < r.1 + r.2)).map fun r =>
    (Nat.max r.1 off - off, Nat.min (r.1 + r.2) (off + n) - Nat.max r.1 off)
  { len := n, x := d.x / 2 ^ (8 * off) % 2 ^ (8 * n), poison := cut d.poison, kept := cut d.kept, host := cut d.host, wait := d.wait }

/-- The number under which an engine operation's host reads stand among those of warps. -/
def engTag (id : Nat) : Nat := 2 ^ 32 + id

/-- A host read of an engine: its answer when it has come, asked for once (R474). -/
def State.engHost (s : State) (id pa n : Nat) : EngData × State :=
  match s.fab.hostReqs.find? fun r => r.warp == engTag id && r.pa == pa with
  | some { answer := some x, .. } => ({ len := n, x := x.toNat % 2 ^ (8 * n) }, s)
  | some { answer := none, .. } => ({ len := n, wait := true }, s)
  | none =>
    match s.hostLoad (engTag id) none pa n with
    | .error (.park _ t) => ({ len := n, wait := true }, t)
    | _ => ({ len := n, wait := true }, s)

/-- An engine operation's host reads are used up. -/
def State.engHostDone (s : State) (id : Nat) : State :=
  { s with fab := { s.fab with hostReqs := s.fab.hostReqs.filter fun r => r.warp != engTag id } }

/-- What the egress filter says of a line that an engine reads: a kiln page not RELEASED, or a held frame (R104, R106). -/
def State.lineKept (s : State) (t : Trans) (pa : Nat) : Bool :=
  (t.kiln && kSt (s.kpage (pa / 2 ^ 21)) != 4) || Tab.get 0 s.xlat.heldBy (ownerIndex pa) != 0

/-- An engine read of [t.pa, t.pa + n) within one page, in units of at most a sector; lines dirty in the posting
cluster's L1s are snooped (R146). A tile load's MX cluster `mx` reads as any cluster does and keeps a copy (R62). -/
def State.engReadAt (s : State) (id core : Nat) (t : Trans) (mx : Option Nat) : Nat → Nat → Nat → EngData → EngData × State
  | 0, _, _, d => (d, s)
  | f + 1, off, n, d =>
    if n = 0 then (d, s)
    else
      let pa := t.pa + off
      let (k, e, s) := match t.kind with
        | .ctl =>
          let k := Nat.min n (8 - pa % 8)
          let (x, s) := s.ctlRead pa k
          (k, ({ len := k, x := x } : EngData), s)
        | .host =>
          let k := Nat.min n (8 - pa % 8)
          let (e, s) := s.engHost id pa k
          (k, { e with host := [(0, k)] }, s)
        | _ =>
          let k := Nat.min n (32 - pa % 32)
          let s := s.l1WriteBackAll (clusterCores core) (pa / 128)
          match s.homeReady (pa / 128) (mx.getD 128) false with
          | .error (.park _ s) => (k, { len := k, wait := true }, s)
          | .error _ => (k, { len := k, wait := true }, s)
          | .ok s =>
            let s := match mx with
              | some c => if t.cache ≤ 1 then s.readForSlice c (pa / 128) else s.homeLoad (pa / 128)
              | none => s.homeLoad (pa / 128)
            (k, { len := k, x := s.mem.readCoh pa k, poison := s.poisonRuns pa k, kept := if s.lineKept t pa then [(0, k)] else [] }, s)
      s.engReadAt id core t mx f (off + k) (n - k) (d.append e)

/-- An engine read by VA, page by page. For a certified launch nothing is read of the host window (R102). -/
def State.engRead (s : State) (w : Who) (id core : Nat) (kind : AccKind) (tid : Bool) (mx : Option Nat := none)
    (cert : Bool := false) : List (Nat × Nat) → EngData → Except Stop (EngData × State)
  | [], d => .ok (d, s)
  | (a, n) :: rest, d => do
    let (t, s) ← s.translate w kind .r tid (BitVec.ofNat 64 a)
    let (e, s) := if cert && t.kind == .host then ({ len := n, host := [(0, n)] }, s) else s.engReadAt id core t mx n 0 n {}
    s.engRead w id core kind tid mx cert rest (d.append e)

/-- Poison set on the sectors of memory that a run of bytes touches. -/
def State.poisonRange (s : State) (pa n : Nat) : State :=
  if n = 0 then s
  else (List.range ((pa + n - 1) / 32 + 1 - pa / 32)).foldl (fun s i => s.poisonSector (pa / 32 + i)) s

/-- Poison set on the sectors of scratchpad that a run of bytes touches. -/
def State.spPoisonRange (s : State) (c n : Nat) : State :=
  if n = 0 then s
  else
    let t := (List.range ((c + n - 1) / 32 + 1 - c / 32)).foldl
      (fun t i => Tab.set false t (c / 32 + i) true) s.mem.spPoison
    { s with mem := { s.mem with spPoison := t } }.wakeCells c n

/-- The lines that a run of bytes touches. -/
def linesOf (pa n : Nat) : List Nat := if n = 0 then [] else (List.range ((pa + n - 1) / 128 + 1 - pa / 128)).map (pa / 128 + ·)

/-- An engine write whose bytes are not good: its sectors poisoned in place of the bytes, with all that a write does beside
(R146, R462): L1 copies of the posting cluster dropped, every copy taken, the core's signature, the monitors. -/
def State.engSpoil (s : State) (core : Nat) (t : Trans) (n : Nat) : State :=
  let s := (linesOf t.pa n).foldl (fun s l =>
    (((s.l1DropAll (clusterCores core) l).homeTake l).insertSig core { t with pa := l * 128 }).wakeLine l) s
  s.poisonRange t.pa n

/-- An engine write to memory line by line: L1 copies of the posting cluster go first, and the core's signature takes
the line (R146). `k` lines at most. -/
def State.engWriteMem (s : State) (core : Nat) (t : Trans) : Nat → Nat → Nat → Nat → State
  | 0, _, _, _ => s
  | k + 1, off, n, x =>
    if n = 0 then s
    else
      let pa := t.pa + off
      let here := Nat.min n (128 - pa % 128)
      let s := (s.l1DropAll (clusterCores core) (pa / 128)).insertSig core { t with pa := pa }
      (s.writePa pa here x core).engWriteMem core t k (off + here) (n - here) (x / 2 ^ (8 * here))

/-- Bytes [off, off + n) of what was read, as a number. -/
def EngData.bytes (d : EngData) (off n : Nat) : Nat := d.x / 2 ^ (8 * off) % 2 ^ (8 * n)

/-- A byte of [off, off + n) lies in one of the runs. -/
def runsMeet (p : Poison) (off n : Nat) : Bool := p.any fun r => overlaps r.1 r.2 off n

/-- An engine write to the host window in units of at most 8 bytes, in ascending order (R474). -/
def State.engWriteHost (s : State) (core pa : Nat) (d : EngData) : Nat → Nat → State
  | 0, _ => s
  | f + 1, off =>
    if d.len ≤ off then s
    else
      let a := pa + off
      let here := Nat.min (d.len - off) (8 - a % 8)
      (s.hostStore core a here (d.bytes off here) (runsMeet d.poison off here)).engWriteHost core pa d f (off + here)

/-- An engine write within one page: the bytes with their poison, or, for an operation poisoned by a failed retry,
poison in place of the bytes (R462, R464). -/
def State.engWriteAt (s : State) (core : Nat) (t : Trans) (d : EngData) (spoil : Bool) : State :=
  match t.kind with
  | .ctl => s
  | .host => s.engWriteHost core t.pa (if spoil then { d with poison := [(0, d.len)] } else d) d.len 0
  | _ =>
    if spoil then s.engSpoil core t d.len
    else
      let s := s.engWriteMem core t d.len 0 d.len d.x
      d.poison.foldl (fun s r => s.poisonRange (t.pa + r.1) r.2) s

/-- An engine write to scratchpad. -/
def State.engWriteSp (s : State) (c : Nat) (d : EngData) (spoil : Bool) : State :=
  if spoil then s.spPoisonRange c d.len
  else d.poison.foldl (fun s r => s.spPoisonRange (c + r.1) r.2) (s.spStore c d.len d.x)

/-- The identity of an operation's accesses. -/
def EngOp.who (o : EngOp) : Who :=
  { ctx := o.ctx, src := clusterOf o.core, hold := if o.cert then o.launch + 1 else 0 }

/-- Where a piece of an operation's destination lies: a scratchpad cell, or a translation. -/
def State.engPlace (s : State) (o : EngOp) (side : Nat) (a : Int) (n : Nat) : Except Stop (LandLoc × State) :=
  if side = 1 then do
    let c ← s.spRow (s.wg o.wg) a n
    return (.cell c, s)
  else do
    let (t, s) ← s.translate o.who .copyWrite .w (side == 2) (BitVec.ofInt 64 a)
    return (.mem t, s)

/-- The bytes of a piece of an operation's source. -/
def State.engFrom (s : State) (o : EngOp) (side : Nat) (a : Int) (n : Nat) : Except Stop (EngData × State) :=
  if side = 1 then do
    let c ← s.spRow (s.wg o.wg) a n
    return ({ len := n, x := readN s.mem.sp c n, poison := s.spPoisonRuns c n }, s)
  else s.engRead o.who o.id o.core .copyRead (side == 2) none o.cert (pageParts a.toNat n) {}

/-- An engine's write may be performed now: its lines' homes can take it (R59, R39, R475), no atomic keeps the host's
bytes (R345). It waits otherwise. -/
def State.engReady (s : State) (id : Nat) (n : Nat) : LandLoc → Except Stop State
  | .mem t => match t.kind with
    | .ctl => .ok s
    | .host => if s.hostLocked (engTag id) none t.pa n then .error (.park .response s) else .ok s
    | _ => s.homesReady t.pa n 128 true
  | _ => .ok s

/-- A piece written at the place it lies. -/
def State.engTo (s : State) (o : EngOp) (l : LandLoc) (d : EngData) : State :=
  match l with
  | .cell c => s.engWriteSp c d o.poisoned
  | .mem t => s.engWriteAt o.core t d o.poisoned
  | .nowhere => s

/-- A place some bytes further on. -/
def LandLoc.plus (l : LandLoc) (n : Nat) : LandLoc :=
  match l with
  | .cell c => .cell (c + n)
  | .mem t => .mem { t with pa := t.pa + n }
  | .nowhere => .nowhere

/-- A place outside HBM to which the egress filter lets no unreleased kiln line (R106). -/
def LandLoc.outside : LandLoc → Bool
  | .mem t => t.kind == .host || t.kind == .far
  | _ => false

/-- The STATUS bits of R361. -/
def stAborted : BitVec 16 := 0x001
def stStale : BitVec 16 := 0x002
def stEgress : BitVec 16 := 0x004
def stOrphaned : BitVec 16 := 0x008
def stRefused : BitVec 16 := 0x010
def stCondFail : BitVec 16 := 0x020
def stRange : BitVec 16 := 0x040
def stPoison : BitVec 16 := 0x080
def stMalformed : BitVec 16 := 0x100

/-- What an engine does after a part of an operation. -/
inductive EngNext where
  /-- the operation goes on -/
  | more (o : EngOp)
  /-- a response is still to come -/
  | wait
  /-- the operation has ended -/
  | finish (o : EngOp)
  deriving DecidableEq, Repr

/-- Bytes left in the 64 KiB page of a place of a kind. -/
def pageRoom (side : Nat) (a : Int) : Nat := if side = 1 then 0x10000 else 0x10000 - a.toNat % 0x10000

/-- Sectors of a row of `n` bytes at `d` that have landed once its first `e` bytes have (R362). -/
def landedBy (d n e : Nat) : Nat := if n ≤ e then sectorsOf d n else (d + e) / 32 - d / 32

/-- Refused lines counted by the egress filter of an IO die (R107). -/
def State.countRefused (s : State) (die n : Nat) : State :=
  if die = 0 then { s with kiln := { s.kiln with refused0 := s.kiln.refused0 + BitVec.ofNat 64 n } }
  else { s with kiln := { s.kiln with refused1 := s.kiln.refused1 + BitVec.ofNat 64 n } }

/-- The IO die that a path out of the package passes. The spec does not say how the ports stand on the two dies: the host
port is taken to be on die 0, far-memory port p on die p / 8 and fabric port n on die n / 32 (DESIGN CHOICE, entry 64). -/
def State.pathDie (s : State) : LandLoc → Nat
  | .mem t => if t.kind = .far then (match s.host.farPlace (List.range 16) (t.pa - farBase) with
      | some (p, _) => p / 8
      | none => 0) else 0
  | _ => 0

/-- The parts of a piece of `m` bytes that the egress filter looks at: those in one line of the source each (R105). -/
def srcParts (a m : Nat) : List (Nat × Nat) :=
  (List.range ((a % 128 + m + 127) / 128)).map fun i =>
    let lo := i * 128 - a % 128
    (lo, Nat.min m ((i + 1) * 128 - a % 128) - lo)

/-- The egress filter refuses a part of a piece (R106). -/
def partKept (dst : LandLoc) (d : EngData) (p : Nat × Nat) : Bool := dst.outside && runsMeet d.kept p.1 p.2

/-- A part of a piece is not sent: it is refused at egress, or a certified launch may not read it (R102, R106). -/
def partStops (o : EngOp) (dst : LandLoc) (d : EngData) (p : Nat × Nat) : Bool :=
  partKept dst d p || (o.cert && runsMeet d.host p.1 p.2)

/-- The line of the source that ends a piece, where the egress filter refuses it. -/
def lastKept (dst : LandLoc) (d : EngData) (a : Nat) : Option Nat :=
  ((srcParts a d.len).getLast?.filter fun p => partKept dst d p).map fun p => (a + p.1) / 128

/-- A piece written, with its status and the sectors that have landed with it: `row` is where its row of `n` bytes begins at
the destination, and it stands at byte `off` of the row, whose source is at `a`. Of the lines of the source each is checked
on its own; a refused one is counted once in a row, also where two pieces share it (R105-R107). A sector has landed when
the last of its bytes in the row has. -/
def State.engPiece (s : State) (o : EngOp) (dst : LandLoc) (d : EngData) (a row n off : Nat) : State × BitVec 16 × Nat :=
  let parts := srcParts a d.len
  let landed (lo m : Nat) : Nat := landedBy row n (off + lo + m) - landedBy row n (off + lo)
  let bad : BitVec 16 := if d.poison.isEmpty && !o.poisoned then 0 else stPoison
  if parts.any (partStops o dst d) then
    parts.foldl (fun (x : State × BitVec 16 × Nat) p =>
      if partStops o dst d p then
        let new := partKept dst d p && (off + p.1 == 0 || (a + p.1) % 128 == 0 || o.keptLine != some ((a + p.1) / 128))
        ((if new then x.1.countRefused (x.1.pathDie dst) 1 else x.1), x.2.1 ||| stEgress, x.2.2)
      else (x.1.engTo o (dst.plus p.1) (d.part p.1 p.2), x.2.1 ||| bad, x.2.2 + landed p.1 p.2)) (s, 0, 0)
  else (s.engTo o dst d, bad, landed 0 d.len)

/-- The bytes of a copy's next piece: at most 512, in the row and in one page of the destination, and ending at an 8-byte
boundary of it or with the row, so that no aligned 8 bytes of it are written in two pieces (R115, R366, entry 63). -/
def pieceLen (side : Nat) (da : Int) (left : Nat) : Nat :=
  let m := Nat.min (Nat.min 512 left) (pageRoom side da)
  if m = left then m else m - (da.toNat + m) % 8

/-- The bytes of the source that a piece of `m` bytes at `sa` reads past its end, of `left` that follow it in the row: to the
next 8-byte boundary, so that no aligned 8 bytes of the source are read in two pieces (R115); none where the row's source
and destination overlap, since R366 has a piece read after the one before it is written (entry 63). -/
def readAhead (r : BitVec 1024) (sa : Int) (src dst : Int) (m left : Nat) : Nat :=
  if srcKind r = dstKind r ∧ overlaps src.toNat (rowBytes r) dst.toNat (rowBytes r) then 0
  else Nat.min left ((8 - (sa.toNat + m) % 8) % 8)

/-- The next piece of a copy (R366). -/
def State.copyPiece (s : State) (o : EngOp) : Except Stop (EngNext × State) := do
  let r := o.req
  let n := rowBytes r
  if rowCount r * n ≤ o.done then return (.finish o, s)
  let k := o.done / n
  let off := o.done % n
  let (loc, s) ← s.landAt o.wg o.ctx o.core o.land o.who .copyWrite
  let sa := (srcRow r o.src k + off) % (2 ^ 64 : Int)
  let da := (dstRow r o.dst k + off) % (2 ^ 64 : Int)
  let m := pieceLen (dstKind r) da (n - off)
  let more := readAhead r sa (srcRow r o.src k) (dstRow r o.dst k) m (n - off - m)
  let (e, s) ← s.engFrom o (srcKind r) ((sa + o.ahead.len) % (2 ^ 64 : Int)) (m + more - o.ahead.len)
  let (dst, s) ← s.engPlace o (dstKind r) da m
  if e.wait then return (.wait, s)
  let s ← s.engReady o.id m dst
  let all := o.ahead.append e
  let d := all.part 0 m
  let (s, st, landed) := (s.engHostDone o.id).engPiece o dst d sa.toNat (dstRow r o.dst k).toNat n off
  return (.more { o with done := o.done + m, status := o.status ||| st, ahead := if more = 0 then {} else all.part m more
                         keptLine := if off + m = n then none else lastKept dst d sa.toNat }, s.landSectors o.core loc landed)

/-- The pieces of a conditional copy: row, offset and length, cut at source lines and pages. -/
def condPieces (r : BitVec 1024) (src dst : BitVec 512) : Nat → Nat → List (Nat × Nat × Nat)
  | 0, _ => []
  | f + 1, done =>
    let n := rowBytes r
    if rowCount r * n ≤ done then []
    else
      let k := done / n
      let off := done % n
      let sa := (srcRow r src k + off) % (2 ^ 64 : Int)
      let da := (dstRow r dst k + off) % (2 ^ 64 : Int)
      let m := Nat.min (Nat.min (128 - sa.toNat % 128) (n - off)) (pageRoom (dstKind r) da)
      (k, off, m) :: condPieces r src dst f (done + m)

/-- The whole source of a conditional copy read, piece by piece (R367). -/
def State.condRead (s : State) (o : EngOp) : List (Nat × Nat × Nat) → Except Stop (List EngData × State)
  | [] => .ok ([], s)
  | (k, off, m) :: rest => do
    let (d, s) ← s.engFrom o (srcKind o.req) ((srcRow o.req o.src k + off) % (2 ^ 64 : Int)) m
    let (l, s) ← s.condRead o rest
    return (d :: l, s)

/-- The places of a conditional copy's destination, whose lines' homes can all take a write (R367). -/
def State.condPlaces (s : State) (o : EngOp) : List (Nat × Nat × Nat) → Except Stop (List LandLoc × State)
  | [] => .ok ([], s)
  | (k, off, m) :: rest => do
    let (p, s) ← s.engPlace o (dstKind o.req) ((dstRow o.req o.dst k + off) % (2 ^ 64 : Int)) m
    let s ← s.engReady o.id m p
    let (l, s) ← s.condPlaces o rest
    return (p :: l, s)

/-- The version word of a conditional copy: its place. -/
def State.versionAt (s : State) (o : EngOp) : Except Stop (LandLoc × State) :=
  let v := BitVec.ofNat 64 (reqGet o.req 72 8)
  if landIsSp v then do
    let c ← s.spCell (s.wg o.wg) (BitVec.ofNat 64 (field v 31 0)) 8
    return (.cell c, s)
  else do
    let (t, s) ← s.translate o.who .copyWrite .rw false v
    return (.mem t, s)

/-- A conditional copy (R367): compared and committed at once. -/
def State.condCopy (s : State) (o : EngOp) : Except Stop (EngNext × State) := do
  let r := o.req
  if o.done ≠ 0 then return (.finish o, s)
  let (loc, s) ← s.landAt o.wg o.ctx o.core o.land o.who .copyWrite
  let pieces := condPieces r o.src o.dst 4096 0
  let (data, s) ← s.condRead o pieces
  if data.any fun d => d.wait then return (.wait, s)
  let (ver, s) ← s.versionAt o
  let (places, s) ← s.condPlaces o pieces
  let s ← s.engReady o.id 8 ver
  let s := s.engHostDone o.id
  let (old, s) := s.landRead o.core ver 8
  if old ≠ reqGet r 80 8 then
    return (.more { o with done := 1, status := o.status ||| stCondFail }, s)
  else
    let (s, p, landed) := (pieces.zip (data.zip places)).foldl (fun (a : State × EngOp × Nat) x =>
      let sa := ((srcRow r o.src x.1.1 + x.1.2.1) % (2 ^ 64 : Int)).toNat
      let (s, st, n) := a.1.engPiece a.2.1 x.2.2 x.2.1 sa (dstRow r o.dst x.1.1).toNat (rowBytes r) x.1.2.1
      (s, { a.2.1 with status := a.2.1.status ||| st, keptLine := lastKept x.2.2 x.2.1 sa }, a.2.2 + n)) (s, o, 0)
    let s := s.landWrite o.core ver 8 (reqGet r 88 8)
    return (.more { p with done := 1, keptLine := none }, s.landSectors o.core loc landed)

/-- The next row of a gather (R370). A poisoned index is data read: the row it would have named is not known, and the row is
written poisoned in place of its bytes (R464, DEDUCED, entry 40). -/
def State.gatherRow (s : State) (o : EngOp) : Except Stop (EngNext × State) := do
  let r := o.req
  let n := reqGet r 28 4
  let j := o.done
  if reqGet r 24 4 ≤ j then return (.finish o, s)
  let (loc, s) ← s.landAt o.wg o.ctx o.core o.land o.who .gather
  let width := if reqGet r 56 1 / 2 % 2 = 1 then 8 else 4
  let tid := reqGet r 56 1 % 2 == 1
  let ci ← s.spCell (s.wg o.wg) (BitVec.ofNat 64 (reqGet r 16 4 + j * width)) width
  let cd ← s.spCell (s.wg o.wg) (BitVec.ofNat 64 (reqGet r 20 4 + j * n)) n
  let x := readN s.mem.sp ci width
  let idle := x == 2 ^ (8 * width) - 1
  let out := !idle && decide (reqGet r 32 8 ≤ x)
  let base := sideBase (if tid then 2 else 0) (reqGet r 0 8) (reqGet r 8 8) o.src
  if s.mem.spPoisoned ci width then
    return (.more { o with done := j + 1, status := o.status ||| stPoison },
      (s.engWriteSp cd { len := n } true).landSectors o.core loc (sectorsOf (reqGet r 20 4 + j * n) n))
  let (d, s) ← if idle || out then .ok (({ len := n } : EngData), s)
    else s.engRead o.who o.id o.core .gather tid none o.cert (pageParts (rowAddr 0 base (reqInt r 40) x).toNat n) {}
  if d.wait then return (.wait, s)
  let s := s.engHostDone o.id
  if o.cert ∧ d.host ≠ [] then return (.more { o with done := j + 1, status := o.status ||| stEgress }, s)
  let s := s.engWriteSp cd d o.poisoned
  let st := if out then o.status ||| stRange else o.status
  let st := if d.poison.isEmpty && !o.poisoned then st else st ||| stPoison
  return (.more { o with done := j + 1, status := st }, s.landSectors o.core loc (sectorsOf (reqGet r 20 4 + j * n) n))

/-- An engine operation put back by its number. -/
def State.setOp (s : State) (o : EngOp) : State :=
  { s with eng := { s.eng with ops := s.eng.ops.map fun x => if x.id = o.id ∧ x.q = o.q ∧ x.core = o.core then o else x } }

/-- An engine operation taken off its queue. -/
def State.dropOp (s : State) (o : EngOp) : State :=
  { s with eng := { s.eng with ops := s.eng.ops.filter fun x => !(x.id == o.id && x.q == o.q && x.core == o.core) } }.idleFrom o.core

/-- A TID slot the operation took a snapshot of was rewritten (R36). -/
def State.staleOp (s : State) (o : EngOp) : Bool :=
  let changed (lo : Nat) (e : BitVec 512) : Bool := s.ttEntry o.ctx (reqGet o.req lo 2) != e
  match o.kind with
  | .post | .cond => (srcKind o.req == 2 && changed 0 o.src) || (dstKind o.req == 2 && changed 16 o.dst)
  | .gather => reqGet o.req 56 1 % 2 == 1 && changed 0 o.src
  | _ => false

/-- What follows when an engine operation stops: a parked queue with its fault record, or, for an operation whose launch
was ended, its end (R44, R45, R419). `drop`: the landing word itself could not be reached. -/
def State.engStop (s : State) (o : EngOp) : Stop → State
  | .fault k reason level va => (s.joinFault k reason level va).setOp { o with park := some k }
  | .park _ t => t
  | .late t e => t.engStop o e
  | _ => s

/-- The end of an operation: its STATUS and arrival in the landing word (R362); one that a failed retry has poisoned says so
whatever was left of it (R462). -/
def State.endOp (s : State) (o : EngOp) : State :=
  let st := if s.staleOp o then o.status ||| stStale else o.status
  let st := if o.poisoned then st ||| stPoison else st
  match s.landAt o.wg o.ctx o.core o.land o.who .copyWrite with
  | .ok (loc, t) => ((t.landUpdate o.core loc fun l => l.arrive st.toNat).lateStatus o.wg o.ctx st.toNat).dropOp o
  | .error (.park _ t) => t
  | .error e => if o.ended then s.dropOp o else s.engStop o e

/-- What an operation has done, or why it stopped. -/
def State.engDo (s : State) (o : EngOp) : Except Stop (EngNext × State) → State
  | .ok (.more o', t) => t.setOp o'
  | .ok (.wait, t) => t
  | .ok (.finish o', t) => t.endOp o'
  | .error (.fault k reason level va) =>
    if o.ended then s.endOp { o with status := o.status ||| stAborted } else s.engStop o (.fault k reason level va)
  | .error e => s.engStop o e

/-- The head entry of an engine queue. -/
def State.headOp (s : State) (core q : Nat) : Option EngOp := s.eng.ops.find? fun o => o.core == core && o.q == q

/-- The head entry of an MX operand queue. -/
def State.headMx (s : State) (core : Nat) : Option MxOp := s.eng.mx.find? fun o => o.core == core

/-- A fence passes once every queue it names has reached it (R144, R371). -/
def State.passFence (s : State) (id : Nat) : State :=
  let entries := s.eng.ops.filter fun o => o.id == id
  let mx := s.eng.mx.filter fun o => o.id == id
  let ready := entries.all (fun o => match s.headOp o.core o.q with | some h => h.id == id | none => false)
    && mx.all (fun o => match s.headMx o.core with | some h => h.id == id | none => false)
    && !(s.warps.any fun w => w.live && (match w.qfence with | some (i, _) => i == id | none => false))
  if ready then
    { s with eng := { s.eng with ops := s.eng.ops.filter fun o => o.id != id, mx := s.eng.mx.filter fun o => o.id != id } }
  else s

/-- GATHER_OPERATION (R370): the head of a core's gather queue reads its next index and row. -/
def execGatherOperation (core : Nat) (s : State) : Host.Outcome State Fault Refusal :=
  .next (match s.headOp core 4 with
    | none => s
    | some o =>
      if o.park.isSome then s
      else match o.kind with
        | .fence _ => s.passFence o.id
        | .gather => s.engDo o (s.gatherRow o)
        | _ => s.endOp { o with status := stMalformed })

end Sys2Proof.Machine
end

