-- ==== Sys2Proof/Machine/Inbound.lean ====
section
/-! DEFINITION. What the fabric brings to an IO die (R164, R168, R170-R174) and what comes back to the issuer (R162-R169,
R175). -/

namespace Sys2Proof.Machine

/-- The IO die at which a message from a peer arrives: fabric port n serves plane n (R3), and the planes are taken to be
divided evenly between the two dies. Which plane brings a message is the fabric's choice (DESIGN CHOICE, entry 64). -/
def ioDie (id peer : Nat) : Nat := (Config.plane (512 * id + peer)).val / 32

/-- The identity of an inbound access: SOURCE 129 or 130, by its IO die (R47). -/
def ioWho (ctx die : Nat) : Who := { ctx := ctx, src := 129 + die, hold := 0 }

/-- The acceptance check of an inbound access (R164). -/
def State.accepts (s : State) (ctx peer srcPart lease : Nat) : Bool :=
  let e := s.peer (s.ctxPart ctx) peer
  s.ctxValid ctx && field e 63 62 == 2 && field e 61 58 == srcPart && field e 57 48 == lease

/-- The walk of an address comes to a leaf into the control space or the host window, whatever the leaf permits. -/
def State.leafOutside (s : State) (ctx : Nat) (va : Word) : Bool :=
  let l := s.tableEntries (field va 56 0) walkLevels (field (s.ctxDesc ctx) 51 12 * 4096)
  let e := BitVec.ofNat 64 (s.mem.readCoh (l.getLastD 0) 8)
  canonical va && (!bit va 56 || s.ctxSys ctx) && decide (3 ≤ l.length) && bit e 0 && bit e 1
    && (match s.leafKind e (5 - l.length) with
      | .ctl | .host => true
      | _ => false)

/-- An inbound access translated: HBM and the far tier only, and a leaf that leads elsewhere is BAD_PA whatever its bits and
the context's (R164). -/
def State.ioTranslate (s : State) (ctx die : Nat) (kind : AccKind) (p : Perm) (va : Nat) : Except Stop (Trans × State) :=
  let v := BitVec.ofNat 64 va
  match s.translate (ioWho ctx die) kind p false v with
  | .ok (t, u) => if t.kind.isMem then .ok (t, u) else .error (.fault ((ioWho ctx die).key kind v) 8 0 v)
  | .error (.fault k reason level a) => .error (.fault k (if s.leafOutside ctx v then 8 else reason) level a)
  | .error e => .error e

/-- An inbound access of `n` bytes waits: for a course reset to end, for a held write of a table it walks, or for its lines'
homes (R39, R59, R469, R475). What it leaves meanwhile; the event that brings it does not take place yet. -/
def State.ioHeld (s : State) (ctx die : Nat) (kind : AccKind) (p : Perm) (va n : Nat) : Option State :=
  match s.ioTranslate ctx die kind p va with
  | .error (.park _ t) => some t
  | .ok (t, u) => match u.homesReady t.pa n 128 (p != .r) with
    | .error (.park _ v) => some v
    | _ => none
  | .error _ => none

/-- The store-fault log block of a partition (R170): records' address, size, HEAD, TAIL and DONE; none when malformed. -/
structure LogBlock where
  block : Nat
  pa : Nat
  log2 : Nat
  head : Nat
  tail : Nat
  done : Nat
  deriving DecidableEq, Repr

/-- The store-fault log block as the device reads it. HEAD is read-only to software: the device goes by its own count. -/
def State.logBlock (s : State) (p : Nat) : Option LogBlock :=
  let b := s.faultRing p + 512
  let rd (o : Nat) := s.mem.readCoh (b + o) 8
  let pa := rd 32
  let log2 := rd 24 % 256
  if pa % 256 ≠ 0 ∨ 2 ^ 52 ≤ pa ∨ log2 < 4 ∨ 16 < log2 ∨ rd 24 / 256 ≠ 0 ∨ s.mem.readCoh (b + 40) 472 ≠ 0 then none
  else some { block := b, pa := pa, log2 := log2, head := Tab.get 0 s.xlat.logHead p, tail := rd 8, done := rd 16 }

/-- A store-fault record (R171). -/
def logRecord (x : Inbound) (n log2 : Nat) : Nat :=
  (x.data.toNat &&& maskBits 128 x.mask.toNat) + x.mask.toNat * 2 ^ 1024 + x.va % 2 ^ 57 * 2 ^ 1152
    + (n + 1) % 2 ^ 64 * 2 ^ 1216 + x.peer * 2 ^ 1280 + x.ctx % 256 * 2 ^ 1296 + x.reason * 2 ^ 1304 + x.kind * 2 ^ 1312
    + (if n / 2 ^ log2 % 2 = 0 then 2 ^ 2047 else 0)

/-- A faulting write logged, its acknowledgement withheld (R168, R171, R172). -/
def State.logWrite (s : State) (p : Nat) (b : LogBlock) (x : Inbound) : State :=
  let s := s.writeRun (b.pa + 256 * (b.head % 2 ^ b.log2)) 256 (logRecord x b.head b.log2) 3
  let s := s.writePa b.block 8 (b.head + 1)
  let r : LogRec := { part := p, seq := b.head + 1, id := x.id, peer := x.peer, tick := s.tick, bulk := x.bulk }
  { s with fab := { s.fab with logs := s.fab.logs ++ [r] }
           xlat := { s.xlat with logHead := Tab.set 0 s.xlat.logHead p (b.head + 1) } }.send (.msix (p + 1))

/-- Waiting writes logged in order of arrival while there is room (R173). -/
def State.flushLogs (s : State) : List Inbound → State
  | [] => s
  | x :: rest =>
    let p := s.ctxPart x.ctx
    match s.logBlock p with
    | some b =>
      if b.head < b.tail + 2 ^ b.log2 then
        ({ s with fab := { s.fab with logWait := s.fab.logWait.filter fun y => y != x } }.logWrite p b x).flushLogs rest
      else s.flushLogs rest
    | none => s.flushLogs rest

/-- How a line write ended (R168). -/
inductive LineEnd where
  | performed | refused | logged
  deriving DecidableEq, Repr

/-- A replayable fault of an inbound write: to the store-fault log, or refused when its block is malformed (R168, R170,
R173). -/
def State.logFault (s : State) (x : Inbound) : LineEnd × State :=
  let p := s.ctxPart x.ctx
  match s.logBlock p with
  | none => (.refused, s.logEvent 11 4 p 0)
  | some b =>
    if b.head < b.tail + 2 ^ b.log2 ∧ !(s.fab.logWait.any fun y => s.ctxPart y.ctx == p) then
      (.logged, s.logWrite p b x)
    else (.logged, { s with fab := { s.fab with logWait := s.fab.logWait ++ [x] } })

/-- An accepted line write performed at its home, refused and counted, or logged (R107, R164, R168). -/
def State.landLine (s : State) (die : Nat) (x : Inbound) : LineEnd × State :=
  match s.ioTranslate x.ctx die .write .w x.va with
  | .ok (t, s) => (.performed, s.writeLine (t.pa / 128) x.mask.toNat x.data.toNat)
  | .error (.fault _ reason _ _) =>
    match if reason ≤ 2 then s.logFault { x with reason := reason } else (.refused, s) with
    | (.refused, t) => (.refused, t.countRefused die 1)
    | r => r
  | .error _ => (.refused, s.countRefused die 1)

/-- The acknowledgement of a line write, or of a line of a bulk prefix: 0 performed, 1 REFUSED, 2 LOST (R168, R172). Bytes
of a prefix that were refused or lost never land, so the flag of their send is never stored (R181); the spec does not say
how such a request ends, and the model ends it REFUSED (DESIGN CHOICE, entry 41). -/
def State.ackWrite (s : State) (id peer : Nat) (bulk : Option (Nat × Nat × Nat)) (code : Nat) : State :=
  match bulk with
  | none => s.send (.writeAck id peer code)
  | some (req, off, n) =>
    let s := s.send (.tokenAck id peer req off n code)
    if code = 0 then
      { s with fab := { s.fab with reqs := s.fab.reqs.map fun (r : BulkReq) =>
        if r.num = req then { r with left := r.left - n } else r } }
    else match s.fab.reqs.find? fun (r : BulkReq) => r.num == req with
      | some r => { s with fab := { s.fab with reqs := s.fab.reqs.filter fun (y : BulkReq) => y.num != req } }.send
          (.bulkEnd r.send r.peer r.left false)
      | none => s

/-- INBOUND_LINE_WRITE (R164, R168). -/
def execInboundLineWrite (id peer srcPart ctx lease va : Nat) (data : BitVec 1024) (mask : BitVec 128) (release : Bool)
    (s : State) : Host.Outcome State Fault Refusal :=
  let x : Inbound := { id := id, peer := peer, ctx := ctx, va := va / 128 * 128, data := data, mask := mask
                       kind := release.toNat, reason := 0, tick := s.tick, bulk := none }
  .next (if !s.accepts ctx peer srcPart lease then (s.countRefused (ioDie id peer) 1).ackWrite id peer none 1
    else if s.checkpointing then s.defer
    else match s.ioHeld ctx (ioDie id peer) .write .w x.va 128 with
    | some t => t
    | none => match s.landLine (ioDie id peer) x with
      | (.performed, t) => t.ackWrite id peer none 0
      | (.refused, t) => t.ackWrite id peer none 1
      | (.logged, t) => t)

/-- The value a remote atomic writes (R344, R355). -/
def remNew (op : RemOp) (n old : Nat) (x y : Word) : Option Nat :=
  let a := x.toNat % 2 ^ (8 * n)
  match op with
  | .load => none
  | .add => atomNew .add n old a 0
  | .and => atomNew .and n old a 0
  | .or => atomNew .or n old a 0
  | .xor => atomNew .xor n old a 0
  | .xchg => atomNew .xchg n old a 0
  | .cas => atomNew .cas n old a (y.toNat % 2 ^ (8 * n))

/-- The KIND of an inbound load or atomic (R47). -/
def remKind : RemOp → AccKind
  | .load => .read
  | _ => .atomic

/-- What a remote load or atomic needs of its leaf. -/
def remNeeds (op : RemOp) : Perm := if op = .load then .r else .rw

/-- An accepted remote load or atomic performed at the line's home, or parked, or answered with a fault (R164). At a home
that is gone for good it finds poison (R469). -/
def State.inRemote (s : State) (x : InRemote) : State :=
  let answer (s : State) (a : RemAnswer) : State := s.send (.remoteAnswer x.id x.peer a)
  match s.ioTranslate x.ctx (ioDie x.id x.peer) (remKind x.op) (remNeeds x.op) x.va with
  | .error (.fault k reason level va) =>
    if reason ≤ 2 then
      let s := s.joinFault k reason level va
      { s with fab := { s.fab with inRemote := s.fab.inRemote ++ [{ x with key := k, tick := s.tick }] } }
    else answer s (.fault 2 reason)
  | .error (.check _) => answer s (.fault 5 0)
  | .error _ => s
  | .ok (t, s) =>
    if s.mem.poisoned t.pa x.size then answer s (.fault 5 0)
    else
      let line := t.pa / 128
      let s := if x.op = .load then s.homeLoad line else s.homeTake line
      let old := s.mem.readCoh t.pa x.size
      let s := match remNew x.op x.size old x.x x.y with
        | some v => s.writePa t.pa x.size v
        | none => s
      answer s (.data (BitVec.ofNat 64 old))

/-- A remote load or atomic of a peer waits so. -/
def State.remHeld (s : State) (id peer ctx va : Nat) (op : RemOp) (size : Nat) : Option State :=
  s.ioHeld ctx (ioDie id peer) (remKind op) (remNeeds op) va size

/-- INBOUND_REMOTE_ACCESS (R164). A checkpoint holds writes, an atomic among them (R109). -/
def execInboundRemoteAccess (id peer srcPart ctx lease va : Nat) (op : RemOp) (size : Nat) (x y : BitVec 64) (s : State) :
    Host.Outcome State Fault Refusal :=
  .next (if !s.accepts ctx peer srcPart lease then s.send (.remoteAnswer id peer (.fault 1 0))
    else if s.checkpointing ∧ op ≠ .load then s.defer
    else match s.remHeld id peer ctx va op size with
    | some t => t
    | none => s.inRemote { id := id, peer := peer, ctx := ctx, va := va, op := op, size := size, x := x, y := y
                           key := (ioWho ctx (ioDie id peer)).key (remKind op) (BitVec.ofNat 64 va), tick := s.tick })

/-- A fault whose record was written 10 ms ago and that the stored REPLAY does not cover (R48, R164). -/
def State.replayLate (s : State) (e : FaultEntry) : Bool :=
  match e.seq with
  | some n => decide (e.tick + 10000 ≤ s.tick) && (match s.ringBlock (s.ctxPart e.key.ctx) with
      | some b => decide (b.replay < n)
      | none => true)
  | none => false

/-- REMOTE_FAULT_TIMEOUT (R164): 10 ms from the fault's record without a replay. -/
def execRemoteFaultTimeout (id peer : Nat) (s : State) : Host.Outcome State Fault Refusal :=
  .next (match s.fab.inRemote.find? fun x => x.id == id && x.peer == peer with
    | some x =>
      if s.xlat.faults.any fun e => e.key == x.key && s.replayLate e then
        { s with fab := { s.fab with inRemote := s.fab.inRemote.filter fun y => y != x } }.send
          (.remoteAnswer id peer (.fault 3 0))
      else s
    | none => s)

/-- A request out answered. -/
def State.answerRequest (s : State) (id : Nat) (a : RemAnswer) : State :=
  { s with fab := { s.fab with remotes := s.fab.remotes.map fun (r : RemReq) =>
      if r.id = id ∧ r.answer = none then { r with answer := some a } else r } : State }.dropAnswered

/-- A request is a release store's (R169), which only its acknowledgement answers. -/
def State.awaitsAck (s : State) (id : Nat) : Bool := s.fab.flights.any fun f => f.id == id

/-- REMOTE_RESPONSE (R162-R164): `reason` 0 brings data. -/
def execRemoteResponse (id reason detail : Nat) (data : BitVec 64) (s : State) : Host.Outcome State Fault Refusal :=
  .next (if s.awaitsAck id then s else s.answerRequest id (if reason = 0 then .data data else .fault reason detail))

/-- REMOTE_TIMEOUT (R164): 15 ms of sending without a response. -/
def execRemoteTimeout (id : Nat) (s : State) : Host.Outcome State Fault Refusal :=
  .next (if !s.awaitsAck id && s.fab.remotes.any fun r => r.id == id && decide (r.sent + 15000 ≤ s.tick) then
      s.answerRequest id (.fault 4 0)
    else s)

/-- LINE_WRITE_ACK (R168, R175): code 0 performed, 1 REFUSED, 2 LOST. -/
def execLineWriteAck (id code : Nat) (s : State) : Host.Outcome State Fault Refusal :=
  .next (match s.fab.flights.find? fun f => f.id == id with
    | none => s
    | some f =>
      let s := { s with fab := { s.fab with flights := s.fab.flights.filter fun g => g.id != id } }
      let s := if code = 0 then s
        else s.aer f.ctx { va := f.line * 128, bytes := f.bytes, peer := f.peer, target := f.target
                           kind := if code = 1 then 3 else 4 }
      s.answerRequest id (.data 0))

/-- WRITE_COMBINING_DRAIN (R166): the entries of a core at 2 µs of age, or full since an earlier write of theirs was
still out. -/
def execWriteCombiningDrain (core : Nat) (s : State) : Host.Outcome State Fault Refusal :=
  .next (s.drainAll (s.fab.wcb.filter fun e =>
    e.core == core && (decide (e.tick + 2 ≤ s.tick) || e.mask == BitVec.allOnes 128)))

/-- A withheld acknowledgement sent (R172). -/
def State.ackLog (s : State) (r : LogRec) (code : Nat) : State :=
  { s with fab := { s.fab with logs := s.fab.logs.filter fun x => x != r } }.ackWrite r.id r.peer r.bulk code

/-- What the device does with DONE as it stands: the withheld acknowledgements of the records it covers, in order; waiting
writes take the room that TAIL now leaves (R172, R173). -/
def State.readDone (s : State) (part : Nat) : State :=
  match s.logBlock part with
  | none => s
  | some b =>
    let s := (s.fab.logs.filter fun r => r.part == part && decide (r.seq ≤ b.done)).foldl (fun s r => s.ackLog r 0) s
    s.flushLogs (s.fab.logWait.filter fun x => s.ctxPart x.ctx == part)

/-- DONE (R172). -/
def execDone (part : Nat) (s : State) : Host.Outcome State Fault Refusal := .next (s.readDone part)

/-- STORE_FAULT_TIMEOUT (R172): a record that DONE has not covered within 10 ms is dropped and acknowledged LOST. -/
def execStoreFaultTimeout (part seq : Nat) (s : State) : Host.Outcome State Fault Refusal :=
  let t := s.readDone part
  .next (match t.fab.logs.find? fun r => r.part == part && r.seq == seq with
    | some r => if r.tick + 10000 ≤ s.tick then t.ackLog r 2 else t
    | none => t)

/-- STORE_FAULT_LOG_FULL_TIMEOUT (R173): a write that has found no room within 10 ms is dropped and acknowledged LOST. -/
def execStoreFaultLogFullTimeout (id peer : Nat) (s : State) : Host.Outcome State Fault Refusal :=
  let t := s.flushLogs s.fab.logWait
  .next (match t.fab.logWait.find? fun x => x.id == id && x.peer == peer with
    | some x =>
      if x.tick + 10000 ≤ s.tick then
        { t with fab := { t.fab with logWait := t.fab.logWait.filter fun y => y != x } }.ackWrite id peer x.bulk 2
      else t
    | none => t)

end Sys2Proof.Machine
end

