-- ==== Sys2Proof/Machine/Bulk.lean ====
section
/-! DEFINITION. Bulk transfers: the sender's side with the copy queue's event (R176, R177, R180-R182, R366), and the
receiver's requests, tokens and timers (R177-R179, R181). -/

namespace Sys2Proof.Machine

/-- A run of bytes less another. -/
def cutRun (a : Nat × Nat) (b : Nat × Nat) : List (Nat × Nat) :=
  if overlaps a.1 a.2 b.1 b.2 then
    (if a.1 < b.1 then [(a.1, b.1 - a.1)] else []) ++
      (if b.1 + b.2 < a.1 + a.2 then [(b.1 + b.2, a.1 + a.2 - (b.1 + b.2))] else [])
  else [a]

/-- Runs less other runs. -/
def cutRuns (a : List (Nat × Nat)) : List (Nat × Nat) → List (Nat × Nat)
  | [] => a
  | b :: r => cutRuns (a.flatMap fun x => cutRun x b) r

/-- A run put among runs by offset, one with those that it adjoins. -/
def addRun (a : Nat × Nat) : List (Nat × Nat) → List (Nat × Nat)
  | [] => [a]
  | x :: r =>
    if x.1 + x.2 = a.1 then addRun (x.1, x.2 + a.2) r
    else if a.1 + a.2 = x.1 then (a.1, a.2 + x.2) :: r
    else if a.1 < x.1 then a :: x :: r
    else x :: addRun a r

/-- The bytes of a list of runs. -/
def runBytes (l : List (Nat × Nat)) : Nat := l.foldl (fun n r => n + r.2) 0

/-- The bytes of a send's prefix (R177). -/
def prefixBytes (total : Nat) : Nat := Nat.min total 8192

/-- A bulk send by its number. -/
def State.bulkSend? (s : State) (id : Nat) : Option BulkSend := s.fab.sends.find? fun x => x.id == id

/-- A bulk send put back. -/
def State.setSend (s : State) (x : BulkSend) : State :=
  { s with fab := { s.fab with sends := s.fab.sends.map fun y => if y.id = x.id then x else y } }

/-- A bulk send forgotten. -/
def State.dropSend (s : State) (id : Nat) : State :=
  { s with fab := { s.fab with sends := s.fab.sends.filter fun y => y.id != id } }

/-- The bytes not yet landed, and the lowest offset not yet landed (R180). -/
def BulkSend.left (x : BulkSend) : Nat := x.total - runBytes x.got
def BulkSend.next (x : BulkSend) : Nat := match cutRuns [(0, x.total)] x.got with | r :: _ => r.1 | [] => x.total

/-- The identity of a send's reads. -/
def BulkSend.who (x : BulkSend) : Who :=
  { ctx := x.ctx, src := clusterOf x.core, hold := if x.cert then x.launch + 1 else 0 }

/-- The sender landing word's update; a word that cannot be reached now is left as it is. -/
def State.sendLand (s : State) (x : BulkSend) (f : State → LandLoc → State) : State :=
  match s.landAt x.wg x.ctx x.core x.land x.who .copyWrite with
  | .ok (loc, t) => f t loc
  | .error _ => s

/-- A landing word whose home is on a course that is being reset, or that lies in the scratchpad of a saved workgroup: the
event that updates it does not take place yet (R432, R469). -/
def State.landWaits (s : State) (gi ctx core : Nat) (h : Word) (w : Who) : Bool :=
  (landIsSp h && (s.wg gi).saved.isSome) || match s.landAt gi ctx core h w .copyWrite with
  | .error (.park _ _) => true
  | _ => false

/-- The landing word of a send waits so. -/
def State.sendWaits (s : State) (x : BulkSend) : Bool := s.landWaits x.wg x.ctx x.core x.land x.who

/-- The landing word of a send can be updated, or what stops that: its translation's fault (R44), or a wait. -/
def State.sendReach (s : State) (x : BulkSend) : Except Stop State :=
  if landIsSp x.land ∧ (s.wg x.wg).saved.isSome then .error (.park .response s)
  else match s.landAt x.wg x.ctx x.core x.land x.who .copyWrite with
    | .error (.fault k reason level va) => .error (.fault k reason level va)
    | .error (.park p t) => .error (.park p t)
    | _ => .ok s

/-- The pending sectors of a send's landing word fall as its bytes have landed, from `a` of them to `b` (R181). -/
def State.sendSectors (s : State) (x : BulkSend) (a b : Nat) : State :=
  if b / 32 ≤ a / 32 then s else s.sendLand x fun s l => s.landSectors x.core l (b / 32 - a / 32)

/-- The arrival of a send in its landing word with its STATUS (R181, R182, R362). -/
def State.sendArrive (s : State) (x : BulkSend) (st : BitVec 16) : State :=
  let st := st ||| x.status ||| (if x.poisoned then stPoison else 0)
  (s.sendLand x fun s l => s.landUpdate x.core l fun w => w.arrive st.toNat).lateStatus x.wg x.ctx st.toNat

/-- The asynchronous error entry of a send that ended (R175, R182). -/
def State.sendError (s : State) (x : BulkSend) (left kind : Nat) : State :=
  s.aer x.ctx { va := capBase x.cap + x.dest, bytes := left, peer := capPeer x.cap, target := capTarget x.cap
                kind := kind }

/-- Source lines of a send read as they are sent, page by page (R176). `old`: through a translation made before its frames
were held, so that the egress filter meets the hold (R32, R40, R106). -/
def State.sendParts (s : State) (x : BulkSend) (old : Bool) : List (Nat × Nat) → EngData → Except Stop (EngData × State)
  | [], d => .ok (d, s)
  | (a, n) :: rest, d =>
    let held := s.xlat.heldBy
    let u := if old then { s with xlat := { s.xlat with heldBy := [] } } else s
    match u.translate x.who .copyRead .r false (BitVec.ofNat 64 a) with
    | .ok (t, u) =>
      let (e, s) := { u with xlat := { u.xlat with heldBy := held } }.engReadAt x.op x.core t none n 0 n {}
      s.sendParts x old rest (d.append e)
    | .error (.park p _) => .error (.park p s)
    | .error e => .error e

/-- A run of a send's source read; a read that still waits for a response goes on waiting. -/
def State.sendRead (s : State) (x : BulkSend) (old : Bool) (off n : Nat) : Except Stop (EngData × State) := do
  let (d, s) ← s.sendParts x old (pageParts ((x.src + off) % 2 ^ 64) n) {}
  if d.wait then .error (.park .response s)
  return (d, s.engHostDone x.op)

/-- The prefix of a send read. Where its frames are held by other work, its translation may have been made before the hold
(R40): whether it was is a free value. -/
def State.prefixRead (s : State) (x : BulkSend) (n : Nat) : Except Stop (EngData × State) :=
  match s.sendRead x false 0 n with
  | .error (.fault k reason level va) =>
    match s.sendRead x true 0 n with
    | .ok (d, t) =>
      let (c, t) := t.free Config.freeChoice
      if c % 2 = 1 ∧ d.kept ≠ [] then .ok (d, t) else .error (.fault k reason level va)
    | .error _ => .error (.fault k reason level va)
  | r => r

/-- A launch that LAUNCH_END or CTX_END has ended (R419). -/
def State.endedLaunch (s : State) (num : Nat) : Bool :=
  match s.launch? num with
  | some l => l.code == 5 || l.code == 6
  | none => false

/-- A fault of a send parks its queue (R44, R106), or ends the send when its launch was ended (R419). -/
def State.sendStop (s : State) (x : BulkSend) : Stop → State
  | .fault k reason level va =>
    if s.endedLaunch x.launch then (s.sendArrive x stAborted).dropSend x.id
    else (s.joinFault k reason level va).setSend { x with fault := some k }
  | .park _ t => t.setSend x
  | .late t e => t.sendStop x e
  | _ => s

/-- An event that updates a send's landing word: `go` once the word can be reached. -/
def State.sendEvent (s : State) (x : BulkSend) (go : State) : State :=
  match s.sendReach x with
  | .ok _ => go
  | .error (.fault k reason level va) => if x.fault = some k then s else s.sendStop x (.fault k reason level va)
  | .error _ => s

/-- What was read as it goes out: an operation poisoned by a failed retry sends poison (R462). -/
def BulkSend.out (x : BulkSend) (d : EngData) : EngData := if x.poisoned then { d with poison := [(0, d.len)] } else d

/-- The send ends at the sender: a source line was refused, on the IO die whose plane it would have taken (R107, R182). -/
def State.sendEgress (s : State) (x : BulkSend) : State :=
  if x.egress then s
  else ((s.countRefused ((Config.plane x.id).val / 32) 1).sendArrive x stEgress).setSend { x with egress := true }

/-- The bytes before the first line that the egress filter refuses: no line after it is sent (R182). -/
def EngData.good (d : EngData) : Nat := match d.kept with | r :: _ => r.1 | [] => d.len

/-- The request and the prefix leave, up to a line that is refused, or the prefix's read stops (R177, R182). Of a send that
has ended at egress the request goes alone. -/
def State.sendPrefix (s : State) (x : BulkSend) : Except Stop State := do
  let (d, s) ← if x.egress then .ok (({} : EngData), s) else s.prefixRead x (prefixBytes x.total)
  if !d.kept.isEmpty then let _ ← s.sendReach x
  let d := x.out d
  let st := if d.poison.isEmpty then x.status else x.status ||| stPoison
  let x := { x with status := st, busy := none, fault := none }
  let s := (s.setSend x).send (.bulkRequest x.id (capPeer x.cap) (capTarget x.cap) (capLease x.cap) (capBase x.cap)
    (capBase x.cap + x.dest) x.total x.prio x.flag x.rxLand d.good (d.bytes 0 d.good) d.poison)
  return if d.kept.isEmpty then s else s.sendEgress x

/-- A token served: its lines read and sent, up to one that is refused at egress, or the send parked (R182). -/
def State.serveToken (s : State) (x : BulkSend) (req : TokenRef) (off n : Nat) (old : Bool) : State :=
  match s.sendRead x old off n with
  | .error e => s.sendStop { x with held := x.held ++ [(req, off, n)] } e
  | .ok (d, t) =>
    let d := x.out d
    match if d.kept.isEmpty then .ok t else t.sendReach x with
    | .error e => t.sendStop { x with held := x.held ++ [(req, off, n)] } e
    | .ok t =>
    let x := { x with status := if d.poison.isEmpty then x.status else x.status ||| stPoison }
    let t := t.setSend x
    let t := if d.good = 0 then t
      else t.send (.bulkData x.id (capPeer x.cap) req off d.good (d.bytes 0 d.good) d.poison)
    if d.kept.isEmpty then t else t.sendEgress x

/-- The send a bulk operation becomes as it leaves the core: its peer entry is checked (R176). -/
def State.bulkStart (s : State) (o : EngOp) : State :=
  let r := o.req
  let opt (v : Nat) : Option Nat := if v = 2 ^ 64 - 1 then none else some v
  let x : BulkSend :=
    { id := s.fab.nextId, op := o.id, core := o.core, q := o.q, wg := o.wg, ctx := o.ctx, part := o.part, launch := o.launch
      cert := o.cert, cap := o.cap, src := reqGet r 0 8, dest := reqGet r 16 8, total := reqGet r 104 8, got := []
      land := o.land, flag := (opt (reqGet r 88 8)).map fun f => (f, BitVec.ofNat 64 (reqGet r 96 8))
      rxLand := opt (reqGet r 80 8), prio := reqGet r 73 1 % 4, request := none, busy := none, parked := false
      fault := none, egress := false, poisoned := o.poisoned, status := 0, held := [] }
  let p := s.peer o.part (capPeer o.cap)
  if field p 63 62 ≠ 2 ∨ field p 57 48 ≠ capLease o.cap then
    match s.sendReach x with
    | .error (.fault k reason level va) =>
      if o.ended then ((s.dropOp o).sendArrive x stRefused).sendError x x.total 6
      else s.engStop o (.fault k reason level va)
    | .error _ => s
    | .ok _ => ((s.dropOp o).sendArrive x stRefused).sendError x x.total 6
  else
    match { s with fab := { s.fab with nextId := s.fab.nextId + 1, sends := s.fab.sends ++ [x] } }.sendPrefix x with
    | .ok t => t.dropOp o
    | .error (.fault k reason level va) =>
      if o.ended ∨ s.endedLaunch o.launch then s.endOp { o with status := o.status ||| stAborted }
      else (s.joinFault k reason level va).setOp { o with park := some k }
    | .error (.park _ t) => t.dropSend x.id
    | .error _ => s

/-- COPY_QUEUE_OPERATION (R144, R366, R367): the head of a copy queue goes on by one part; a queue whose send is parked
on a fault, or still has a token to serve, does that first. -/
def execCopyQueueOperation (core q : Nat) (s : State) : Host.Outcome State Fault Refusal :=
  .next (match s.fab.sends.find? fun x => x.core == core && x.q == q && (x.fault.isSome || !x.held.isEmpty) with
    | some x =>
      match x.fault, x.held with
      | none, (req, off, n) :: rest => s.serveToken { x with held := rest } req off n false
      | _, _ => s
    | none =>
      if 4 ≤ q then s
      else match s.headOp core q with
        | none => s
        | some o =>
          if o.park.isSome then s
          else match o.kind with
            | .fence _ => s.passFence o.id
            | .post => s.engDo o (s.copyPiece o)
            | .cond => s.engDo o (s.condCopy o)
            | .bulk => s.bulkStart o
            | _ => s.endOp { o with status := stMalformed })

/-- BULK_REQUEST_RETRY (R177): the BUSY answer is noted, and 20 µs later the request goes again. -/
def execBulkRequestRetry (send : Nat) (s : State) : Host.Outcome State Fault Refusal :=
  .next (match s.bulkSend? send with
    | some x =>
      if x.request.isSome ∨ x.fault.isSome then s
      else match x.busy with
        | none => s.setSend { x with busy := some s.tick }
        | some t =>
          if t + 20 ≤ s.tick then
            match s.sendPrefix x with
            | .ok t => t
            | .error e => s.sendStop x e
          else s
    | none => s)

/-- TOKEN_ARRIVAL (R182): a token reaches the sender; a parked or ended send answers none. -/
def execTokenArrival (send : Nat) (req : TokenRef) (off n : Nat) (old : Bool) (s : State) : Host.Outcome State Fault Refusal :=
  .next (match s.bulkSend? send with
    | some x =>
      let x := { x with request := some req.req }
      if x.parked ∨ x.egress then s.setSend x
      else if x.fault.isSome ∨ x.held ≠ [] then s.setSend { x with held := x.held ++ [(req, off, n)] }
      else s.serveToken x req off n old
    | none => s)

/-- TOKEN_ACKNOWLEDGEMENT (R181): bytes of a send have landed, code 0, or a line of its prefix was REFUSED, 1, or LOST, 2
(R168, R175). -/
def execTokenAcknowledgement (send req off n code : Nat) (s : State) : Host.Outcome State Fault Refusal :=
  .next (match s.bulkSend? send with
    | some x =>
      let y := { x with request := some req, got := if code = 0 then addRun (off, n) x.got else x.got }
      if code = 0 then
        s.sendEvent x (let s := (s.setSend y).sendSectors y (runBytes x.got) (runBytes y.got)
          if y.egress ∧ y.left = 0 then s.dropSend send else s)
      else (s.setSend y).aer x.ctx
                       { va := (capBase x.cap + x.dest + off) / 128 * 128, bytes := n, peer := capPeer x.cap, target := capTarget x.cap
                         kind := if code = 1 then 3 else 4 }
    | none => s)

/-- FINAL_ACKNOWLEDGEMENT (R181): the send's arrival. Where some token's acknowledgement is still to come, the send waits for
that. -/
def execFinalAcknowledgement (send : Nat) (s : State) : Host.Outcome State Fault Refusal :=
  .next (match s.bulkSend? send with
    | some x =>
      if x.egress then (if x.left = 0 then s.dropSend send else s)
      else s.sendEvent x (let s := s.sendArrive x 0
        if x.left = 0 then s.dropSend send else s.setSend { x with egress := true })
    | none => s)

/-- FINAL_RESPONSE (R182): the request ended ORPHANED or REFUSED with `left` bytes, which stay as pending sectors. -/
def execFinalResponse (send left : Nat) (orphaned : Bool) (s : State) : Host.Outcome State Fault Refusal :=
  .next (match s.bulkSend? send with
    | some x =>
      if x.egress then s.dropSend send
      else s.sendEvent x ((((s.sendSectors x (runBytes x.got) (x.total - left)).sendArrive x
        (if orphaned then stOrphaned else stRefused)).sendError x left (if orphaned then 5 else 6)).dropSend send)
    | none => s)

/-- A received request by its number. -/
def State.bulkReq? (s : State) (num : Nat) : Option BulkReq := s.fab.reqs.find? fun r => r.num == num

/-- A received request put back. -/
def State.setReq (s : State) (r : BulkReq) : State :=
  { s with fab := { s.fab with reqs := s.fab.reqs.map fun y => if y.num = r.num then r else y } }

/-- A received request's table entry freed. -/
def State.dropReq (s : State) (num : Nat) : State :=
  { s with fab := { s.fab with reqs := s.fab.reqs.filter fun y => y.num != num } }

/-- A request that tokens and timers still serve (R179). -/
def BulkReq.live (r : BulkReq) : Bool :=
  match r.state with
  | .waiting | .granted => true
  | _ => false

/-- The IO die that serves a request. -/
def BulkReq.die (r : BulkReq) : Nat := ioDie r.send r.peer

/-- The AGE of a request (R178): the time in WAITING and GRANTED. -/
def BulkReq.ageAt (r : BulkReq) (now : Nat) : Nat := if r.live then r.age + (now - r.since) else r.age

/-- An accepted request ended REFUSED (R178). -/
def State.refuseReq (s : State) (r : BulkReq) : State := (s.send (.bulkEnd r.send r.peer r.left false)).dropReq r.num

/-- A word of a request's receiver that its IO die may write now: its translation. -/
def State.rxPlace (s : State) (r : BulkReq) (p : Perm) (va n : Nat) : Except Stop (Trans × State) := do
  let (t, s) ← s.ioTranslate r.ctx r.die .copyWrite p va
  let s ← s.homesReady t.pa n 128 true
  return (t, s)

/-- The receiver landing word updated (R179, R181). -/
def State.rxUpdate (s : State) (r : BulkReq) (f : LandWord → LandWord) : Except Stop State :=
  match r.rxLand with
  | none => .ok s
  | some off => do
    let (t, s) ← s.rxPlace r .rw (r.base + off) 16
    return s.writePa t.pa 16 (f (LandWord.ofNat (s.mem.readCoh t.pa 16))).pack

/-- The completion flag stored (R181). -/
def State.storeFlag (s : State) (r : BulkReq) : Except Stop State :=
  match r.flag with
  | none => .ok s
  | some (off, v) => do
    let (t, s) ← s.rxPlace r .w (r.base + off) 8
    return s.writePa t.pa 8 v.toNat

/-- A request that a fault stops at the receiver: parked when it may be replayed, else ended REFUSED (R178). -/
def State.reqStop (s : State) (r : BulkReq) : Stop → State
  | .fault k reason level va =>
    if reason ≤ 2 then (s.joinFault k reason level va).setReq { r with park := some k } else s.refuseReq r
  | .park _ t => t.setReq r
  | _ => s.setReq r

/-- The last byte has landed: the flag, the receiver landing word, the final acknowledgement; the entry is DONE (R179,
R181). -/
def State.completeReq (s : State) (r : BulkReq) : State :=
  match s.storeFlag r with
  | .error e => s.reqStop r e
  | .ok t =>
    match t.rxUpdate r fun w => w.arrive 0 with
    | .error e => t.reqStop { r with flag := none } e
    | .ok u => (u.send (.finalAck r.send r.peer)).setReq { r with state := .done, answered := true }

/-- Bytes landed at a run of pages in the target context, line by line (R178). -/
def State.landPages (s : State) (ctx die : Nat) (d : EngData) : List (Nat × Nat) → Nat → Except Stop State
  | [], _ => .ok s
  | (a, n) :: rest, off => do
    let (t, s) ← s.ioTranslate ctx die .copyWrite .w a
    let s := s.writeRun t.pa n (d.bytes off n) (n / 128 + 2)
    let s := (d.poison.filter fun r => overlaps r.1 r.2 off n).foldl (fun s r =>
      let lo := Nat.max r.1 off
      s.poisonRange (t.pa + lo - off) (Nat.min (r.1 + r.2) (off + n) - lo)) s
    s.landPages ctx die d rest (off + n)

/-- The parts of [a, a + n) that lie in one line each. -/
def lineParts (a n : Nat) : List (Nat × Nat) :=
  (List.range (if n = 0 then 0 else (a % 128 + n + 127) / 128)).map fun i =>
    let p := if i = 0 then a else (a / 128 + i) * 128
    (p, Nat.min (a + n) ((p / 128 + 1) * 128) - p)

/-- A bulk prefix written at the receiver like remote line writes, faults to the store-fault log with KIND 2 (R177): whether
a line was refused, and every other line with its own end (R168). -/
def State.landPrefix (s : State) (r : BulkReq) (d : EngData) (bad : Bool) : List (Nat × Nat) → Bool × State
  | [] => (bad, s)
  | (a, n) :: rest =>
    let off := a - r.dest
    let x : Inbound := { id := r.send, peer := r.peer, ctx := r.ctx, va := a / 128 * 128
                         data := lineAt (a % 128) n (d.bytes off n), mask := byteMask (a % 128) n, kind := 2, reason := 0
                         tick := s.tick, bulk := some (r.num, off, n) }
    match s.landLine r.die x with
      | (.performed, t) =>
        let t := match t.ioTranslate r.ctx r.die .write .w a with
          | .ok (p, u) => (d.poison.filter fun (q : Nat × Nat) => overlaps q.1 q.2 off n).foldl (fun (u : State) (q : Nat × Nat) =>
              let lo := Nat.max q.1 off
              u.poisonRange (p.pa + lo - off) (Nat.min (q.1 + q.2) (off + n) - lo)) u
          | .error _ => t
        (t.ackWrite r.send r.peer x.bulk 0).landPrefix r d bad rest
      | (.refused, t) => (t.send (.tokenAck r.send r.peer r.num off n 1)).landPrefix r d true rest
      | (.logged, t) => t.landPrefix r d bad rest

/-- The lines of a prefix whose acceptance check failed: each is refused, counted and acknowledged so (R164, R168). -/
def State.refusePrefix (s : State) (send peer dest len : Nat) : State :=
  (lineParts dest len).foldl (fun s p =>
    (s.countRefused (ioDie send peer) 1).send (.tokenAck send peer 0 (p.1 - dest) p.2 1)) s

/-- The first of some inbound accesses of `n` bytes each that waits. -/
def State.anyHeldBack (s : State) (ctx die : Nat) (kind : AccKind) : List (Nat × Nat) → Option State
  | [] => none
  | (a, n) :: rest => match s.ioHeld ctx die kind .w a n with
    | some t => some t
    | none => s.anyHeldBack ctx die kind rest

/-- BULK_REQUEST (R177): a prefix of `len` bytes and its request arrive; a full table answers BUSY. -/
def execBulkRequest (send peer srcPart ctx lease base dest total prio : Nat) (flag : Option (Nat × BitVec 64))
    (rxLand : Option Nat) (len data : Nat) (poison : List (Nat × Nat)) (s : State) :
    Host.Outcome State Fault Refusal :=
  .next (if 4096 ≤ s.fab.reqs.length then s.send (.bulkBusy send peer)
    else if !s.accepts ctx peer srcPart lease then
      (s.refusePrefix send peer dest (Nat.min len (prefixBytes total))).send (.bulkEnd send peer total false)
    else if s.checkpointing then s.defer
    else match s.anyHeldBack ctx (ioDie send peer) .write (lineParts dest (Nat.min len (prefixBytes total))) with
    | some t => t
    | none =>
      let head := prefixBytes total
      let r : BulkReq :=
        { num := s.fab.nextId, peer := peer, send := send, ctx := ctx, base := base, dest := dest
          todo := if head < total then [(head, total - head)] else [], left := total, level := prio % 4, age := 0
          since := s.tick, expiries := 0, second := none, heard := s.tick, data := false, state := .waiting, tokens := []
          rxLand := rxLand, flag := flag, park := none }
      let s := { s with fab := { s.fab with nextId := s.fab.nextId + 1, reqs := s.fab.reqs ++ [r] } }
      let n := Nat.min len head
      let r := if n < head then { r with todo := addRun (n, head - n) r.todo } else r
      let s := s.setReq r
      let (bad, s) := s.landPrefix r { len := n, x := data, poison := poison } false (lineParts dest n)
      match s.bulkReq? r.num with
      | some r => if bad then s.refuseReq r else if r.left = 0 then s.completeReq r else s
      | none => s)

/-- Tokens that a request may still hold (R178). -/
def State.tokensOut (s : State) : Nat := s.fab.reqs.foldl (fun n r => n + r.tokens.length) 0

/-- A request that may be granted a token (R178). -/
def BulkReq.grantable (r : BulkReq) : Bool := r.live && !r.todo.isEmpty && decide (r.tokens.length < 16) && r.park.isNone

/-- The request the scheduler serves next (R178): the lowest level, its senders in turn, each sender's first. -/
def State.nextReq (s : State) : Option BulkReq :=
  let c := s.fab.reqs.filter BulkReq.grantable
  let level := c.foldl (fun n r => Nat.min n r.level) 4
  let c := c.filter fun r => r.level == level
  let last := Tab.get 512 s.fab.lastPeer level
  let key (r : BulkReq) : Nat := if last < 512 ∧ r.peer ≤ last then r.peer + 512 else r.peer
  c.foldl (fun (b : Option BulkReq) r => match b with
    | none => some r
    | some x => if key r < key x ∨ (key r = key x ∧ r.num < x.num) then some r else b) none

/-- The final response of an entry has been acknowledged, which frees it (R179). No event of the package shows it: whether
it has been by now is a free value. -/
def State.freeAnswered (s : State) : State :=
  match s.fab.reqs.find? fun r => r.answered with
  | some r => let (c, s) := s.free Config.freeChoice; if c % 2 = 1 then s.dropReq r.num else s
  | none => s

/-- The planes a token names for its data, eight at the most: the device's choice (R3, R178). -/
def tokenPlanes (n : Nat) : List Nat := ((List.range 8).map fun i => (Config.plane (n + i)).val).eraseDups

/-- A token for the first run of a request that is not granted. That a grant "follows data" (R179) is taken to mean that
data has landed since the last grant or expiry (DESIGN CHOICE, entry 61). -/
def State.grantToken (s : State) (r : BulkReq) : State :=
  match r.todo with
  | [] => s
  | (off, n) :: rest =>
    let len := Nat.min n 16384
    let s := { s with fab := { s.fab with lastPeer := Tab.set 512 s.fab.lastPeer r.level r.peer } }
    let walk := (pageParts (r.dest + off) len).foldl (fun (a : Except Stop State) p => match a with
      | .ok s => (s.ioTranslate r.ctx r.die .copyWrite .w p.1).map fun x => x.2
      | e => e) (.ok s)
    match walk with
    | .error e => s.reqStop r e
    | .ok t =>
      let todo := if len < n then (off + len, n - len) :: rest else rest
      let (planes, t) := t.free tokenPlanes
      let tok : Token := { num := t.fab.nextId, off := off, len := len, tick := s.tick, landed := [], planes := planes }
      let fresh := r.data && r.state == .waiting
      let r := { r with todo := todo, tokens := r.tokens ++ [tok], state := .granted
                        expiries := if fresh then 0 else r.expiries
                        second := if fresh then none else r.second, data := false }
      let t := { t with fab := { t.fab with nextId := t.fab.nextId + 1 } }
      (t.setReq r).send (.token r.send r.peer ⟨r.num, tok.num⟩ off len planes)

/-- A request whose last byte has landed and which has not completed (R179). -/
def BulkReq.landed (r : BulkReq) : Bool :=
  r.left == 0 && r.park.isNone && (match r.state with
    | .waiting | .granted | .parked => true
    | _ => false)

/-- TOKEN_GRANT (R178): the next request in order is granted one token, parked, or ended; a request whose last byte has
landed completes first (R179, R181). -/
def execTokenGrant (s : State) : Host.Outcome State Fault Refusal :=
  let s := s.freeAnswered
  .next (match s.fab.reqs.find? BulkReq.landed with
    | some r => s.completeReq r
    | none =>
      match s.nextReq with
      | none => s
      | some r => if 256 ≤ s.tokensOut then s else s.grantToken r)

/-- The state of a request after its tokens changed (R179). -/
def BulkReq.settle (r : BulkReq) : BulkReq :=
  match r.state with
  | .granted => if r.tokens.isEmpty ∧ r.left ≠ 0 then { r with state := .waiting } else r
  | _ => r

/-- A token of a request gives its unlanded bytes back (R179). -/
def BulkReq.expire (r : BulkReq) (t : Token) : BulkReq :=
  let back := cutRuns [(t.off, t.len)] t.landed
  { r with tokens := r.tokens.filter fun x => x != t, todo := back.foldl (fun l x => addRun x l) r.todo }

/-- Data that no token allows (R179). -/
def State.discard (s : State) (n : Nat) : State := { s with fab := { s.fab with discarded := s.fab.discarded + n } }

/-- An ORPHANED request answered (R179). -/
def State.answerOrphan (s : State) (r : BulkReq) : State :=
  (s.send (.bulkEnd r.send r.peer r.left true)).setReq { r with answered := true }

/-- TOKEN_DATA_LAND (R179): data under the token that it names lands; under one that has expired it is discarded. -/
def execTokenDataLand (req : TokenRef) (off n data : Nat) (poison : List (Nat × Nat)) (s : State) :
    Host.Outcome State Fault Refusal :=
  .next (match s.bulkReq? req.req with
    | none => s.discard n
    | some r =>
      if s.checkpointing then s.defer
      else
      let r := { r with heard := s.tick }
      let s := s.setReq r
      if r.state = .orphaned then (s.discard n).answerOrphan r
      else match r.tokens.find? fun t => t.num == req.tok && decide (t.off ≤ off ∧ off + n ≤ t.off + t.len)
          && !(t.landed.any fun x => overlaps x.1 x.2 off n) with
        | none => s.discard n
        | some t =>
          match s.anyHeldBack r.ctx r.die .copyWrite (pageParts (r.dest + off) n),
              s.landPages r.ctx r.die { len := n, x := data, poison := poison } (pageParts (r.dest + off) n) 0 with
          | some t, _ => t
          | none, .error _ => s.discard n
          | none, .ok u =>
            let t' := { t with landed := addRun (off, n) t.landed }
            let whole := decide (runBytes t'.landed = t.len)
            let ends := whole && r.state == .granted
            let tokens := if whole then r.tokens.filter fun x => x != t
              else r.tokens.map fun x => if x = t then t' else x
            let r := { r with tokens := tokens, left := r.left - n, data := true
                              expiries := if ends then 0 else r.expiries
                              second := if ends then none else r.second }
            let r := r.settle
            let u := (u.setReq r).send (.tokenAck r.send r.peer r.num off n 0)
            if r.left = 0 then u.completeReq r else u)

/-- TOKEN_EXPIRY (R179): 20 µs after its grant. -/
def execTokenExpiry (req off : Nat) (s : State) : Host.Outcome State Fault Refusal :=
  .next (match s.bulkReq? req with
    | none => s
    | some r =>
      match r.tokens.find? fun t => t.off == off with
      | none => s
      | some t =>
        if t.tick + 20 ≤ s.tick then
          let e := r.expiries + 1
          s.setReq { (r.expire t) with expiries := e, data := false, second := if e = 2 then some s.tick else r.second
                                       state := if r.live then .waiting else r.state }
        else s)

/-- ORPHAN (R179): 1 ms of silence since the second expiry. -/
def execOrphan (req : Nat) (s : State) : Host.Outcome State Fault Refusal :=
  .next (match s.bulkReq? req with
    | none => s
    | some r =>
      match r.second with
      | none => s
      | some t =>
        let waits := match r.rxLand with
          | some off => (s.ioHeld r.ctx r.die .copyWrite .rw (r.base + off) 16).isSome
          | none => false
        if r.live ∧ 2 ≤ r.expiries ∧ t + 1000 ≤ s.tick ∧ r.heard ≤ t ∧ !waits then
          let r := { (r.tokens.foldl BulkReq.expire r) with age := r.ageAt s.tick, state := .orphaned }
          let s := s.setReq r
          let s := match s.rxUpdate r fun w => { w with sectors := r.left / 32 }.arrive stOrphaned.toNat with
            | .ok u => u
            | .error _ => s
          s.aer r.ctx { va := r.dest, bytes := r.left, peer := r.peer, target := r.ctx, kind := 5 }
        else s)

/-- AGE_PROMOTION (R178): at 200 µs of AGE a request moves up one level, and AGE returns to zero. -/
def execAgePromotion (req : Nat) (s : State) : Host.Outcome State Fault Refusal :=
  .next (match s.bulkReq? req with
    | none => s
    | some r =>
      if r.live ∧ 200 ≤ r.ageAt s.tick then s.setReq { r with level := r.level - 1, age := 0, since := s.tick } else s)

/-- PARK (R179, R180): a request's tokens expire, and its AGE and level freeze. -/
def execPark (req : Nat) (s : State) : Host.Outcome State Fault Refusal :=
  .next (match s.bulkReq? req with
    | none => s
    | some r =>
      if r.live then
        s.setReq { (r.tokens.foldl BulkReq.expire r) with age := r.ageAt s.tick, heard := s.tick, state := .parked }
      else s.setReq { r with heard := s.tick })

/-- RESUME (R179): a parked request is WAITING again; an orphaned one is answered. -/
def execResume (req : Nat) (s : State) : Host.Outcome State Fault Refusal :=
  .next (match s.bulkReq? req with
    | none => s
    | some r =>
      match r.state with
      | .parked => s.setReq { r with since := s.tick, heard := s.tick, state := .waiting }
      | .orphaned => s.answerOrphan r
      | _ => s.setReq { r with heard := s.tick })

end Sys2Proof.Machine
end

