-- ==== Sys2Proof/Machine/Homes.lean ====
section
/-! DEFINITION. The events of the homes and of translation: walks and the directory of translations (R22, R37-R42),
replay (R48), requests at a home slice (R57-R60), open grains (R70-R72) and the host's answers (R474, R475). -/

namespace Sys2Proof.Machine

/-- A line of HBM or the far tier: a line with a home (R57). -/
def State.hasHome (s : State) (line : Nat) : Bool := (s.paKind (line * 128)).isMem

/-- What a record's KIND needs of a leaf (R25, R47). -/
def kindPerm : Nat → Perm
  | 1 => .w | 2 => .rw | 3 => .x | 5 => .w | 7 => .w | _ => .r

/-- The access kind of a record's KIND (R47). -/
def kindOf : Nat → AccKind
  | 0 => .read | 1 => .write | 2 => .atomic | 3 => .fetch | 4 => .copyRead | 5 => .copyWrite | 6 => .mxFetch
  | 7 => .mxDrain | _ => .gather

/-- PAGE_WALK (R22, R26, R38, R44): a walk of die `die` for an access of the given source, context and KIND. A walk that
reads a line with a held write waits behind it, and one whose requests cannot pass waits too (R467). -/
def execPageWalk (die src ctx hold kind : Nat) (tensor : Bool) (va : BitVec 64) (s : State) :
    Host.Outcome State Fault Refusal :=
  let w : Who := { ctx := ctx, src := src, hold := hold }
  .next (if 11 ≤ die ∨ !s.ctxValid ctx then s
    else match s.walk w (kindPerm kind) tensor va with
      | .ok t =>
        if (t.used.any fun a => s.lineBusy (a / 128)) || s.asksAway die w va t then s
        else (s.markUsed t (kindPerm kind)).cacheWalk die w va t
      | .error f =>
        if f.used.any fun a => s.lineBusy (a / 128) || s.homeAway (some die) (a / 128) then s
        else s.joinFault (w.key (kindOf kind) va) f.reason f.level va)

/-- The die that keeps a tracked line and sends its invalidations: its home's, and the plumb for the lines of the owner and
held tables and for what stands for a context descriptor (R37, R39). -/
def State.homeDie (s : State) (line : Nat) : Nat := if 2 ^ 46 ≤ line then 8 else s.homeCourse line

/-- TRANSLATION_INVALIDATION (R39, R41, R42): a die that can be reached drops what it derived from a line and
acknowledges. -/
def execTranslationInvalidation (die line : Nat) (s : State) : Host.Outcome State Fault Refusal :=
  let x := s.xlat
  .next (if 11 ≤ die ∨ !s.reaches (s.homeDie line) die then s
    else { s with xlat := { x with
      tlb := x.tlb.filter fun e => !(e.die == die && e.lines.contains line)
      tdir := Tab.set 0 x.tdir line (Tab.get 0 x.tdir line &&& ~~~(BitVec.ofNat 11 (2 ^ die)))
      heldWrites := x.heldWrites.map fun h =>
        if h.line = line then { h with waiting := h.waiting.filter fun d => d != die } else h } })

/-- TRACKED_WRITE_PERFORM (R39, R59, R63, R467, R475): the first held write of a line is performed when every die that has read
the line as a table, and the host, have acknowledged, and nothing else holds it. -/
def execTrackedWritePerform (line : Nat) (s : State) : Host.Outcome State Fault Refusal :=
  .next (match s.xlat.heldWrites.find? fun h => h.line == line with
    | some h =>
      let t := { s with xlat := { s.xlat with heldWrites := s.xlat.heldWrites.filter fun x => x.line != line } }
      if h.waiting.isEmpty && !t.writeHeld line (h.slice.getD 128) then
        let s := { s with xlat := { s.xlat with heldWrites := s.xlat.heldWrites.erase h } }.performWrite h.slice line h.mask h.data
        match h.host with
        | some pa => s.send (.hostWritten pa)
        | none => s
      else s
    | none => s)

/-- What a request leaves: served, or waiting at the home. -/
def State.served (k : State → State) : Except Stop State → State → State
  | .ok t, _ => k t
  | .error (.park _ t), _ => t
  | .error _, s => s

/-- HOME_READ (R57-R60): a read by a package cluster. -/
def execHomeRead (cluster line victim : Nat) (s : State) : Host.Outcome State Fault Refusal :=
  .next (if 128 ≤ cluster ∨ !s.hasHome line then s
    else State.served (fun t => t.homeRead cluster line (some victim)) (s.homeReady line cluster false) s)

/-- HOME_OWNERSHIP (R59, R60, R467, R475): a cluster asks to own a line; a line the host may hold is called back first. -/
def execHomeOwnership (cluster line victim : Nat) (s : State) : Host.Outcome State Fault Refusal :=
  .next (if 128 ≤ cluster ∨ !s.hasHome line ∨ s.homeAway (askDie cluster) line then s
    else if s.mem.snoop.contains line && !s.lineBusy line && Tab.get 0 s.xlat.tdir line == 0 then
      { s.askHost line with mem := { s.mem with snoopWait := s.mem.snoopWait ++ [(line, cluster)] } }
    else State.served (fun t => t.homeOwn cluster line (some victim)) (s.homeReady line cluster true) s)

/-- BISNP_RESPONSE (R475): the host has given a line up; the ownership that waited completes, and a write or atomic at the
home may go on. -/
def execBisnpResponse (line : Nat) (s : State) : Host.Outcome State Fault Refusal :=
  let m := s.mem
  let t := { s with mem := { m with snoop := m.snoop.filter fun l => l != line, snoopWait := m.snoopWait.filter fun x => x.1 != line }
                    xlat := { s.xlat with heldWrites := s.xlat.heldWrites.map fun h =>
                      if h.line = line then { h with waiting := h.waiting.filter fun d => d != 11 } else h } }
  .next (match m.snoopWait.find? fun e => e.1 == line with
    | some e =>
      if e.2 < 128 ∧ t.snoopsReach line e.2 true ∧ !t.homeAway (askDie e.2) line ∧ !t.roomAwaited e.2 line then t.homeOwn e.2 line
      else t
    | none => t)

/-- CLEAN_EVICTION_NOTICE (R59). -/
def execCleanEvictionNotice (cluster line : Nat) (s : State) : Host.Outcome State Fault Refusal :=
  .next (if s.lineBusy line then s else match s.mem.dirOf line with
    | .shared _ _ => s.leaveLine cluster line
    | _ => s)

/-- OWNER_WRITEBACK (R59). -/
def execOwnerWriteback (cluster line : Nat) (s : State) : Host.Outcome State Fault Refusal :=
  .next (if s.lineBusy line then s else match s.mem.dirOf line with
    | .owned _ => s.leaveLine cluster line
    | _ => s)

/-- INVALIDATION (R59, R152): a sharer that can be reached drops its copy, or an owner writes its dirty bytes back first. -/
def execInvalidation (cluster line : Nat) (s : State) : Host.Outcome State Fault Refusal :=
  .next (if s.reaches (s.homeCourse line) (clusterDie cluster) then s.leaveLine cluster line else s)

/-- GRAIN_REGISTER (R71, R72): the home takes up a registration whose store has waited for room, or refuses it now that
another core has the grain open. -/
def execGrainRegister (core pa : Nat) (s : State) : Host.Outcome State Fault Refusal :=
  let gone : State := { s with mem := { s.mem with grainWait := s.mem.othersWait core (pa / 512) } }
  .next (match s.mem.grainWait.find? fun e => e.1 == core && e.2.1 == pa / 512 with
    | some (_, grain, w) =>
      let waits := match s.warp? w with
        | some x => x.live && x.park == .response
        | none => false
      if waits && (s.grainOwner grain).isNone then s.enterGrain core grain w (some w) else gone
    | none => s)

/-- The state once the line at a region's WATERMARK is the new home's (R81). -/
def State.pastWatermark (s : State) (region : Nat) : State :=
  let r := s.region region
  let w := field r 87 64 + 1
  s.setRegion region (setField r 87 64 w)

/-- The set that the open grain of the line at a region's WATERMARK, its first line, is to move into, where its ways are all
taken (R70, R81). -/
def State.moveMates (s : State) (region : Nat) : List OpenGrain :=
  let line := region * 2 ^ 23 + field (s.region region) 87 64
  if line % 4 ≠ 0 ∨ (s.grainOwner (line / 4)).isNone then []
  else
    let mates := (s.pastWatermark region).grainSetMates (line / 4)
    if mates.length < 8 then [] else mates

/-- A registration, or a region's move, waits on a full set whose least recently registered entry is a core's (R72, R81). -/
def State.closeDue (s : State) (core : Nat) : Bool :=
  let first (set : List OpenGrain) : Bool := decide (8 ≤ set.length) && (match set with
    | (g : OpenGrain) :: _ => g.core == core && !g.closing
    | [] => false)
  (s.mem.grainWait.any fun e => first (s.grainSetMates e.2.1)) ||
    ((s.rel.regions.filter fun e => bit e.2 126).any fun e => first (s.moveMates e.1))

/-- FORCED_CLOSE (R72, R352): a full table set makes the home ask the core of its least recently registered entry to close
its interval; the core sends a clear for each of its open grains, and its monitors have their wake. -/
def execForcedClose (core : Nat) (s : State) : Host.Outcome State Fault Refusal :=
  .next (if s.closeDue core then
      let s := s.count core 5 1
      { s with mem := { s.mem with grains := s.mem.grains.map fun (g : OpenGrain) =>
        if g.core = core then { g with closing := true } else g } }.wakeIf fun x _ => (s.wg x.wg).core == core
    else s)

/-- GRAIN_CLEAR (R72): the home clears one open grain of a core whose interval is closing, and acknowledges. -/
def execGrainClear (core grain : Nat) (s : State) : Host.Outcome State Fault Refusal :=
  .next { s with mem := { s.mem with grains := s.mem.grains.filter fun g => !(g.core == core && g.grain == grain && g.closing) } }

/-- A parked access walks again (R44, R48): its entry is freed, or it has none and an entry of its table is. -/
def wakesFault (left freed : List FaultEntry) (k : FaultKey) : Bool :=
  (freed.any fun e => e.key == k) ||
    (!(left.any fun e => e.key == k) && freed.any fun e => e.key.source == k.source)

/-- The parked accesses that walk again. -/
def State.unpark (s : State) (wakes : FaultKey → Bool) : State :=
  let on (p : Option FaultKey) : Option FaultKey := p.filter fun k => !wakes k
  let block (b : Block) : Block := { b with fault := on b.fault }
  let warps := s.warps.map fun (w : Warp) =>
    { w with queue := w.queue.map block, hblock := w.hblock.map block
             park := match w.park with | .fault k => if wakes k then .run else w.park | p => p }
  let ops := s.eng.ops.map fun (o : EngOp) => { o with park := on o.park }
  let mx := s.eng.mx.map fun (o : MxOp) => { o with park := on o.park }
  let sends := s.fab.sends.map fun (x : BulkSend) => { x with fault := on x.fault }
  let reqs := s.fab.reqs.map fun (r : BulkReq) => { r with park := on r.park }
  let launches := s.sched.launches.map fun (l : Launch) => { l with park := on l.park }
  let again := s.fab.inRemote.filter fun x => wakes x.key && (s.remHeld x.id x.peer x.ctx x.va x.op x.size).isNone
  let s := { s with warps := warps, eng := { s.eng with ops := ops, mx := mx }
                    fab := { s.fab with sends := sends, reqs := reqs, inRemote := s.fab.inRemote.filter fun x => !again.contains x }
                    sched := { s.sched with launches := launches } }
  again.foldl (fun s x => s.inRemote x) s

/-- The entries of a set of keys freed, and what they let walk again (R44, R48). -/
def State.freeFaults (s : State) (p : FaultEntry → Bool) : State :=
  let freed := s.xlat.faults.filter p
  let left := s.xlat.faults.filter fun e => !p e
  if freed.isEmpty then s
  else { s with xlat := { s.xlat with faults := left } }.unpark (wakesFault left freed)

/-- Records written for the entries that wait for ring room (R46). -/
def State.flushAllFaults (s : State) : State := s.flushFaults (s.xlat.faults.filter fun e => e.seq.isNone)

/-- REPLAY (R48): what system software stored into a partition's REPLAY is acted on. -/
def execReplay (part : Nat) (s : State) : Host.Outcome State Fault Refusal :=
  .next (match s.ringBlock part with
    | none => s
    | some b =>
      if b.replay < Tab.get 0 s.xlat.replay part then s.flushAllFaults
      else
        let s := { s with xlat := { s.xlat with replay := Tab.set 0 s.xlat.replay part b.replay } }
        (s.freeFaults fun e => s.ctxPart e.key.ctx == part && (match e.seq with
          | some n => decide (n ≤ b.replay)
          | none => false)).flushAllFaults)

/-- HOST_WINDOW_RESPONSE (R474): the host's completion of a read. -/
def execHostWindowResponse (id : Nat) (data : BitVec 64) (s : State) : Host.Outcome State Fault Refusal :=
  .next { s with fab := { s.fab with hostReqs := s.fab.hostReqs.map fun (r : HostReq) =>
    if r.id = id ∧ r.answer = none then { r with answer := some data } else r } : State }.dropAnswered

end Sys2Proof.Machine
end

