-- ==== Sys2Proof/Machine/Registers.lean ====
section
/-! DEFINITION. Affine registers (R279, R280), control registers (R281-R285, R382-R389), lane blocks (R286), register
holdings (R221, R288), hints (R289), the stack check (R277), TRAP and its return (R290, R291), EXIT (R292) and
SYS.WBINV (R296). -/

namespace Sys2Proof.Machine

/-- A write of an affine register of the warp in focus (R279). -/
def affineOp (s : State) (d : AReg) (srcs : List SReg) (f : Warp → Warp) : Host.Outcome State Fault Refusal :=
  scalarOp s { reads := srcs.map Fin.val, aff := [d.val] } fun _ _ => .ok (s.modWarp s.cur f)

/-- AMOV (R279). -/
def execAmov (d : AReg) (a b : SReg) (s : State) : Host.Outcome State Fault Refusal :=
  affineOp s d [a, b] fun w => w.aset d (w.sget a) ((w.sget b).setWidth 32)

/-- ABASE (R279). -/
def execAbase (d : AReg) (a : SReg) (s : State) : Host.Outcome State Fault Refusal :=
  affineOp s d [a] fun w => w.aset d (w.sget a) (w.stride d)

/-- ASTRIDE (R279). -/
def execAstride (d : AReg) (a : SReg) (s : State) : Host.Outcome State Fault Refusal :=
  affineOp s d [a] fun w => w.aset d (w.aget d) ((w.sget a).setWidth 32)

/-- AADD (R279). -/
def execAadd (d : AReg) (a : SReg) (s : State) : Host.Outcome State Fault Refusal :=
  affineOp s d [a] fun w => w.aset d (w.aget d + w.sget a) (w.stride d)

/-- AREAD (R279). -/
def execAread (d : SReg) (a : AReg) (s : State) : Host.Outcome State Fault Refusal :=
  alu s d [] fun w => w.aget a

/-- ASREAD (R279). -/
def execAsread (d : SReg) (a : AReg) (s : State) : Host.Outcome State Fault Refusal :=
  alu s d [] fun w => (w.stride a).signExtend 64

/-- The control registers of R282 and R382. -/
inductive Cr where
  | wid | coreId | ctxId | laneBase | laneStat | ctxDesc (n : Nat) | arithCtl | modQ | stackLim | trapCause | trapPc
  | trapLpc | trapAddr | trapVec | splitFirst | splitEnd | splitFix | tshape (n : Nat) | tq (n : Nat) | cmode (n : Nat)
  | dctl (n : Nat) | dres (n : Nat) | dland (n : Nat) | mxKey | mxStat | cycles | ticks | schedSlip | perfCnt (n : Nat)
  | perfSel (n : Nat)
  deriving DecidableEq, Repr

/-- The register a number names; none for a number that R282 and R382 do not assign. -/
def crOf (c : Nat) : Option Cr :=
  if c = 0x000 then some .wid else if c = 0x001 then some .coreId else if c = 0x002 then some .ctxId
  else if c = 0x003 then some .laneBase else if c = 0x004 then some .laneStat else if c = 0x008 then some .arithCtl
  else if c = 0x009 then some .modQ else if c = 0x010 then some .stackLim else if c = 0x018 then some .trapCause
  else if c = 0x019 then some .trapPc else if c = 0x01A then some .trapLpc else if c = 0x01B then some .trapAddr
  else if c = 0x01C then some .trapVec else if 0x020 ≤ c ∧ c < 0x028 then some (.ctxDesc (c - 0x020))
  else if c = 0x030 then some .splitFirst else if c = 0x031 then some .splitEnd else if c = 0x032 then some .splitFix
  else if 0x040 ≤ c ∧ c < 0x050 then some (.tshape (c - 0x040))
  else if 0x050 ≤ c ∧ c < 0x060 then some (.tq (c - 0x050))
  else if 0x060 ≤ c ∧ c < 0x064 then some (.cmode (c - 0x060))
  else if 0x064 ≤ c ∧ c < 0x068 then some (.dctl (c - 0x064))
  else if 0x068 ≤ c ∧ c < 0x06C then some (.dres (c - 0x068))
  else if 0x06C ≤ c ∧ c < 0x070 then some (.dland (c - 0x06C))
  else if c = 0x070 then some .mxKey else if c = 0x071 then some .mxStat
  else if c = 0x100 then some .cycles else if c = 0x101 then some .ticks else if c = 0x102 then some .schedSlip
  else if 0x110 ≤ c ∧ c < 0x118 then some (.perfCnt (c - 0x110))
  else if 0x810 ≤ c ∧ c < 0x818 then some (.perfSel (c - 0x810))
  else none

/-- A system-only register (R282). -/
def Cr.system : Cr → Bool
  | .perfSel _ => true
  | _ => false

/-- A register MTCR may name (R282, R382). -/
def Cr.writable : Cr → Bool
  | .arithCtl | .modQ | .stackLim | .trapPc | .trapLpc | .tshape _ | .tq _ | .dctl _ | .dres _ | .dland _ | .mxKey
  | .mxStat | .perfSel _ => true
  | _ => false

/-- The tile or accumulator register a name's number must lie within (R382). -/
def Cr.allocated (g : Workgroup) : Cr → Bool
  | .tshape n | .tq n => decide (n < g.tiles)
  | .cmode n | .dctl n | .dres n | .dland n => decide (n < g.accs)
  | _ => true

/-- A register of the MX core's control file, by CRN (R382). -/
def Workgroup.mxr (g : Workgroup) (c : Nat) : Word := Tab.get 0 g.mxcr c

/-- A register of the MX core's control file written. -/
def Workgroup.setMxr (g : Workgroup) (c : Nat) (x : Word) : Workgroup := { g with mxcr := Tab.set 0 g.mxcr c x }

/-- The workgroup of a warp changed. -/
def State.modWg (s : State) (i : Nat) (f : Workgroup → Workgroup) : State := s.setWg i (f (s.wg i))

/-- A clock or event counter that timing decides, moved on by a free amount (R285, entry 8). -/
def State.clock (s : State) (t : Tab Word) (k : Nat) : Word × Tab Word × State :=
  let (n, s) := s.free Config.freeWord
  let x := Tab.get 0 t k + n
  (x, Tab.set 0 t k x, s)

/-- core_id (R283). -/
def coreIdWord (w : Warp) (g : Workgroup) : Word := BitVec.ofNat 64 (g.core + w.slot * 2 ^ 10 + g.slot * 2 ^ 16)

/-- ctx_id (R283). -/
def State.ctxIdWord (s : State) (c : Nat) : Word :=
  BitVec.ofNat 64 (c + s.ctxPart c * 2 ^ 8 + (s.ctxSys c).toNat * 2 ^ 12 + (s.ctxWitness c).toNat * 2 ^ 13)

/-- lane_stat (R283). -/
def laneStatWord (w : Warp) : Word := BitVec.ofNat 64 (w.queue.length + (if w.hblock.isSome then 32 else 0))

/-- A control register read (R281-R285, R382-R389). -/
def State.readCr (s : State) (w : Warp) (g : Workgroup) : Cr → Word × State
  | .wid => (w.wid, s)
  | .coreId => (coreIdWord w g, s)
  | .ctxId => (s.ctxIdWord g.ctx, s)
  | .laneBase => (w.laneBase, s)
  | .laneStat => (laneStatWord w, s)
  | .ctxDesc n => (BitVec.ofNat 64 (dwordOf (s.ctxDesc g.ctx) n), s)
  | .arithCtl => (w.arithCtl.setWidth 64, s)
  | .modQ => (w.modQ, s)
  | .stackLim => (w.stackLim, s)
  | .trapCause => (w.trapCause, s)
  | .trapPc => (w.trapPc, s)
  | .trapLpc => (w.trapLpc, s)
  | .trapAddr => (w.trapAddr, s)
  | .trapVec => (w.trapVec, s)
  | .splitFirst => (g.splitFirst, s)
  | .splitEnd => (g.splitEnd, s)
  | .splitFix => (g.splitFix, s)
  | .tshape n => (g.mxr (0x040 + n), s)
  | .tq n => (g.mxr (0x050 + n), s)
  | .cmode n => (g.mxr (0x060 + n), s)
  | .dctl n => (g.mxr (0x064 + n), s)
  | .dres n => (g.mxr (0x068 + n), s)
  | .dland n => (g.mxr (0x06C + n), s)
  | .mxKey => (g.mxr 0x070, s)
  | .mxStat => (g.mxr 0x071, s)
  | .cycles => let (x, t, s) := s.clock s.cycles (coreCourse g.core); (x, { s with cycles := t })
  | .ticks => (BitVec.ofNat 64 (s.tick % 2 ^ 43), s)
  | .schedSlip => let (x, t, s) := s.clock s.slips (clusterOf g.core); (x, { s with slips := t })
  | .perfCnt n =>
    let c := s.core g.core
    let e := (Tab.get 0 c.perfSel n).toNat
    if e = 7 then
      let (x, t, s) := s.clock c.perfCnt n
      (x, s.setCore g.core { c with perfCnt := t })
    else (Tab.get 0 c.perfCnt n, s)
  | .perfSel n => ((Tab.get 0 (s.core g.core).perfSel n).setWidth 64, s)

/-- arith_ctl written field by field (R200): a DRM of 4 to 7 leaves the field. -/
def arithWrite (old : BitVec 32) (x : Word) : BitVec 32 :=
  let drm := if field x 18 16 ≤ 3 then field x 18 16 else field old 18 16
  BitVec.ofNat 32 (field x 4 0 + field x 12 8 * 2 ^ 8 + drm * 2 ^ 16)

/-- A tile shape an MTCR may write (R384). -/
def shapeOk (x : Word) : Bool :=
  let f := field x 3 0
  let rows := field x 39 32
  let cols := field x 55 44
  let blk := field x 57 56
  (rows == 0 || (decide (rows ≤ 128) && decide (1 ≤ cols) && decide (rows * cols * fmtBits f ≤ 262144)))
    && (!(f == 1 || f == 4) || cols % 4 == 0)
    && (if fmtBlock f then blk != 3 && cols % (16 * 2 ^ blk) == 0 else blk == 0)
    && (if fmtNarrow f then nfLegal (fmtBits f) (field x 31 16) else field x 31 16 == 0)

/-- The fields of tshape, without its reserved bits (R384, R11). -/
def shapeMask : Word := BitVec.ofNat 64 (3 * 2 ^ 56 + 0xFFF * 2 ^ 44 + 0xFF * 2 ^ 32 + 0xFFFF * 2 ^ 16 + 0xF)

/-- The fields of mx_stat (R389). -/
def mxStatMask : Word := 0x1F1E

/-- A control register written (R281-R285, R382-R389). -/
def State.writeCr (s : State) (w : Warp) (g : Workgroup) (x : Word) : Cr → Except Stop State
  | .arithCtl => do
    need w.blocks.isEmpty (.park .laneQueue s)
    return s.modWarp s.cur fun w => { w with arithCtl := arithWrite w.arithCtl x }
  | .modQ => do
    need (x == 0 || legalQ x.toNat) badFormat
    need w.blocks.isEmpty (.park .laneQueue s)
    return s.modWarp s.cur fun w => { w with modQ := x }
  | .stackLim => .ok (s.modWarp s.cur fun w => { w with stackLim := setField x 3 0 0 })
  | .trapPc => .ok (s.modWarp s.cur fun w => { w with trapPc := setField x 1 0 0 })
  | .trapLpc => .ok (s.modWarp s.cur fun w => { w with trapLpc := setField x 1 0 0, lpcWritten := true })
  | .tshape n => do
    need (shapeOk x) badFormat
    return s.modWg w.wg fun g => g.setMxr (0x040 + n) (x &&& shapeMask)
  | .tq n => do
    let q := setField x 63 62 0
    need (q == 0 || legalQ q.toNat) badFormat
    return s.modWg w.wg fun g => g.setMxr (0x050 + n) q
  | .dctl n => .ok (s.modWg w.wg fun g => g.setMxr (0x064 + n) (setField x 63 48 0))
  | .dres n => .ok (s.modWg w.wg fun g => g.setMxr (0x068 + n) x)
  | .dland n => .ok (s.modWg w.wg fun g => g.setMxr (0x06C + n) x)
  | .mxKey => .ok (s.modWg w.wg fun g => g.setMxr 0x070 x)
  | .mxStat => .ok (s.modWg w.wg fun g => g.setMxr 0x071 (g.mxr 0x071 &&& ~~~(x &&& mxStatMask)))
  | .perfSel n =>
    let c := s.core g.core
    .ok (s.setCore g.core { c with perfSel := Tab.set 0 c.perfSel n (x.setWidth 16), perfCnt := Tab.set 0 c.perfCnt n 0 })
  | _ => .error illegal

/-- The checks of R263 a control-register move makes before its own. -/
def State.crCheck (s : State) (g : Workgroup) (crn : BitVec 12) (write : Bool) : Except Stop Cr :=
  match crOf crn.toNat with
  | none => .error illegal
  | some c => do
    need (!write || c.writable) illegal
    need (!c.system || s.ctxSys g.ctx) privileged
    need (c.allocated g) (regRange 3)
    return c

/-- MFCR (R281): arith_ctl waits for the lane queue, mx_stat for the workgroup's tensor instructions (R284, R383). -/
def execMfcr (d : SReg) (crn : BitVec 12) (s : State) : Host.Outcome State Fault Refusal :=
  scalarOp s { writes := [d.val] } fun w g => do
    let c ← s.crCheck g crn false
    need (c != .arithCtl || w.blocks.isEmpty) (.park .laneQueue s)
    need (c != .mxStat || !(s.eng.mx.any fun o => o.wg == w.wg)) (.park .engine s)
    let (x, t) := s.readCr w g c
    t.putS d x

/-- MTCR (R281). -/
def execMtcr (d : SReg) (crn : BitVec 12) (s : State) : Host.Outcome State Fault Refusal :=
  scalarOp s { reads := [d.val] } fun w g => do
    let c ← s.crCheck g crn true
    s.writeCr w g (w.sget d) c

/-- The block a LANE.RUN appends (R212, R286). -/
def newBlock (w : Warp) (loff : BitVec 20) (mask : BitVec 32) : Block :=
  { lpc := w.laneBase + BitVec.ofNat 64 (4 * loff.toNat), mask := mask, stack := [{ active := mask }] }

/-- A block appended to a warp's lane queue, or put into the handler slot; a block with no thread that would stand at
the head completes at once (R234, R286). -/
def Warp.append (w : Warp) (b : Block) : Warp :=
  if w.active then (if b.mask = 0 then w else { w with hblock := some b })
  else { w with queue := dropEmpty (w.queue ++ [b]) }

/-- The slot LANE.RUN appends to is full (R209, R234). -/
def Warp.slotFull (w : Warp) : Bool := if w.active then w.hblock.isSome else decide (16 ≤ w.queue.length)

/-- LANE.RUN (R286). -/
def execLaneRun (a : SReg) (loff : BitVec 20) (s : State) : Host.Outcome State Fault Refusal :=
  scalarOp s { reads := [a.val] } fun w _ => do
    need (!w.slotFull) (.park .laneQueue s)
    return s.modWarp s.cur fun w => w.append (newBlock w loff ((w.sget a).setWidth 32))

/-- EXIT (R292): not a release. It waits for its blocks' accesses as a cluster-scope release does (R137, R210). -/
def execExit (s : State) : Host.Outcome State Fault Refusal :=
  controlOp s {} fun w _ => do
    let s ← s.drained w 3
    return s.exitWarp s.cur

/-- A request for register blocks put among those that wait, by issue time and then as they came (R221). -/
def growInsert (r : Nat × Nat × Nat) : List (Nat × Nat × Nat) → List (Nat × Nat × Nat)
  | [] => [r]
  | x :: l => if r.1 < x.1 then r :: x :: l else x :: growInsert r l

/-- REG.GROW (R221, R288): the request joins the core's order and the warp parks. -/
def execRegGrow (n : Fin 4) (s : State) : Host.Outcome State Fault Refusal :=
  controlOp s {} fun w _ => do
    need (n != 0) illegal
    need (w.held == 0) (regRange 2)
    let t := match w.growTick with
      | some (t, pc) => if pc = w.pc then t else s.tick
      | none => s.tick
    let s := if s.eng.grow.any fun x => x.2.1 == s.cur then s
      else { s with eng := { s.eng with grow := growInsert (t, s.cur, n.val) s.eng.grow } }
    return s.modWarp s.cur fun w => { w with growTick := some (t, w.pc), park := .grow }

/-- REG.SHRINK (R221, R288): the warp loses the holding at once; the pool has it back when no access that may write it is
out. -/
def execRegShrink (s : State) : Host.Outcome State Fault Refusal :=
  scalarOp s {} fun w _ =>
    let owed := if w.held = 0 then w.owed else (s.blocksOf s.cur w, w.owed.2 ++ s.regsOut s.cur)
    let mark (b : Block) : Block := if w.held ≠ 0 ∧ b.stage = .running then { b with owes := true } else b
    .ok (s.modWarp s.cur fun w =>
      { w with held := 0, owed := owed, queue := w.queue.map mark, hblock := w.hblock.map mark })

/-- The blocks of a core's pool that warps hold (R218). -/
def State.blocksHeld (s : State) (core : Nat) : Nat :=
  (List.range s.warps.length).foldl (fun n i => match s.warp? i with
    | some w => if (s.wgOf w).core == core && (s.wgOf w).saved.isNone then n + s.blocksOf i w else n
    | none => n) 0

/-- REG_GROW_GRANT (R221): the head request of a core is granted zeroed blocks when they fit. -/
def execRegGrowGrant (core : Nat) (s : State) : Host.Outcome State Fault Refusal :=
  match s.eng.grow.find? fun x => match s.warp? x.2.1 with | some w => (s.wgOf w).core == core | none => false with
  | none => .next s
  | some (_, wi, n) =>
    match s.warp? wi with
    | none => .next s
    | some w =>
      if w.park = .grow ∧ s.blocksHeld core + n ≤ 128 then
        .next ((s.dropGrow wi).setWarp wi { w.advance with held := n, growTick := none
                                                           v := Tab.filterKeys w.v fun k => k < 64 * 32 })
      else .next s

/-- STK.CHK (R277). -/
def execStkChk (a : SReg) (s : State) : Host.Outcome State Fault Refusal :=
  scalarOp s { reads := [a.val, 62] } fun w _ => do
    let f := (w.sget a).toNat
    let sp := (w.sget 62).toNat
    need (decide (f ≤ sp) && decide (w.limit ≤ sp - f)) stackLimit
    return s

/-- IPF (R289): a hint to the instruction cache, which the model does not keep. -/
def execIpf (a : SReg) (s : State) : Host.Outcome State Fault Refusal :=
  scalarOp s { reads := [a.val] } fun _ _ => .ok s

/-- PFD (R289): the line into the L1, or into the cluster's slice; dropped where the walk fails or would wait at a home, the set
is full or the line is poisoned. -/
def execPfd (a : SReg) (s : State) : Host.Outcome State Fault Refusal :=
  scalarOp s { reads := [a.val] } fun w g =>
    let die := srcDie (s.whoOf g).src
    match s.walk (s.whoOf g) .r false (w.sget a) with
    | .error f => .ok (if f.used.any fun a => s.lineBusy (a / 128) then s else s.enterLines die (f.used.map (· / 128)))
    | .ok t =>
      if (t.used.any fun a => s.lineBusy (a / 128)) || s.asksAway die (s.whoOf g) (w.sget a) t then .ok s else
      let s := (s.markUsed t .r).cacheWalk die (s.whoOf g) (w.sget a) t
      let line := t.pa / 128
      let set := (s.mem.l1Lines g.core).filter fun l => Config.l1Set l == Config.l1Set line
      if !t.kind.isMem || t.cache == 2 || s.mem.poisoned (line * 128) 128 || s.lineBusy line then .ok s
      else if t.cache = 1 then .ok (s.sliceRead g.core line)
      else if s.ownRow g.core line || (!set.contains line && decide (8 ≤ set.length)) then .ok s
      else
        let s := s.l1WriteBackAll (peers g.core) line
        .ok ((List.range 4).foldl (fun s i =>
          if (s.mem.l1At g.core line).valid.getLsbD i then s else s.l1Fill g.core line i) s)

/-- TRAP n (R290): trap_pc is the following instruction. -/
def execTrap (n : BitVec 8) (s : State) : Host.Outcome State Fault Refusal :=
  controlOp s {} fun w _ => .ok (s.trap s.cur { cause := 7, reason := n.toNat } (w.pc + 4))

/-- TRAP.RET (R291). -/
def execTrapRet (s : State) : Host.Outcome State Fault Refusal :=
  controlOp s {} fun w _ => do
    need w.active illegal
    need w.hblock.isNone (.park .laneQueue s)
    return s.modWarp s.cur Warp.trapReturn

/-- SYS.WBINV (R296): complete when every write-back has been performed. -/
def execSysWbinv (s : State) : Host.Outcome State Fault Refusal :=
  scalarOp s {} fun _ g => do
    need (s.ctxSys g.ctx) privileged
    let s := s.l1Flush g.core
    need s.writesDone (.park .response s)
    return s

end Sys2Proof.Machine
end

