-- ==== Sys2Proof/Machine/Submit.lean ====
section
/-! DEFINITION. LAUNCH (R293, R414, R415) and SYS.MBOX (R295, R477). -/

namespace Sys2Proof.Machine

/-- A queue block's fields (R414). -/
structure QBlock where
  tail : Nat
  head : Nat
  ring : Nat
  size : Nat
  level : Nat
  producer : Nat
  work : Nat
  workLog : Nat
  rejected : Nat
  deriving DecidableEq, Repr

/-- A queue block as its home holds it; none when it is malformed (R11, R414). -/
def State.queueBlock (s : State) (b : Nat) : Option QBlock :=
  let x := s.mem.readCoh b 512
  let f (lo n : Nat) : Nat := x / 2 ^ (8 * lo) % 2 ^ (8 * n)
  if f 8 120 ≠ 0 ∨ f 156 4 ≠ 0 ∨ f 169 7 ≠ 0 ∨ f 184 328 ≠ 0 ∨ f 155 1 / 4 ≠ 0 ∨ f 152 1 < 4 ∨ 16 < f 152 1 ∨ f 168 1 < 8
      ∨ 20 < f 168 1 ∨ 7 < f 153 1 ∨ 1 < f 154 1 ∨ 2 ^ 52 ≤ f 144 8 ∨ f 144 8 % (128 * 2 ^ f 152 1) ≠ 0
      ∨ 2 ^ 52 ≤ f 160 8 ∨ f 160 8 % (32 * 2 ^ f 168 1) ≠ 0 then none
  else some { tail := f 0 8, head := f 136 8, ring := f 144 8, size := f 152 1, level := f 153 1, producer := f 154 1
              work := f 160 8, workLog := f 168 1, rejected := f 176 8 }

/-- A registered queue: partition × 8 + level (R413). -/
def State.queue (s : State) (k : Nat) : Queue := Tab.get Queue.none s.sched.queues k

/-- A registered queue put back. -/
def State.setQueue (s : State) (k : Nat) (q : Queue) : State :=
  { s with sched := { s.sched with queues := Tab.set Queue.none s.sched.queues k q } }

/-- The registered queue whose block stands at an address (R413); a key from 128 on is a registration that has ended. -/
def State.queueAt (s : State) (b : Nat) : Option Nat :=
  (s.sched.queues.find? fun e => e.2.block == b && decide (e.1 < 128)).map fun e => e.1

/-- The device's fields of a queue block rewritten (R414). -/
def State.writeQueue (s : State) (k : Nat) : State :=
  let q := s.queue k
  if q.block = 0 then s
  else
    let s := s.writePa (q.block + 128) 8 q.taken
    let s := s.writePa (q.block + 136) 8 q.head
    let s := s.writePa (q.block + 155) 1 q.qerr.toNat
    s.writePa (q.block + 176) 8 q.rejected

/-- A LAUNCH that a host-pushed queue turns away is counted (R415). -/
def State.rejectLaunch (s : State) (b : Nat) (old : Nat) : State :=
  match s.queueAt b with
  | some k =>
    let q := s.queue k
    (s.setQueue k { q with rejected := (q.rejected + 1) % 2 ^ 64 }).writeQueue k
  | none => s.writePa (b + 176) 8 (old + 1)

/-- A run of bytes written at its homes by a core: L1 copies of its cluster go first, and its signature takes the line. -/
def State.coreWrite (s : State) (core : Nat) (t : Trans) (pa n x : Nat) : State :=
  ((s.l1DropAll (clusterCores core) (pa / 128)).insertSig core { t with pa := pa }).writePa pa n x core

/-- A LAUNCH that has read its record keeps it while it waits (R293). -/
def keepRecord (img cur : Nat) : Stop → Stop
  | .park p t => .park p (t.modWarp cur fun w => { w with record := some (BitVec.ofNat 1024 img) })
  | e => e

/-- The lines of a 512-byte block leave the L1s of a core's cluster before an atomic at their home (R55). -/
def State.l1DropBlock (s : State) (core pa : Nat) : State :=
  (List.range 4).foldl (fun s i => s.l1DropAll (clusterCores core) (pa / 128 + i)) s

/-- LAUNCH (R293, R415). Of a queue block in control space or the host window the rules name no outcome: the instruction
completes and writes nothing (DESIGN CHOICE, entry 68). -/
def execLaunch (a b : SReg) (s : State) : Host.Outcome State Fault Refusal :=
  scalarOp s { reads := [a.val, b.val] } fun w g => do
    let s ← s.drained w 5
    aligned (w.sget a) 512
    aligned (w.sget b) 128
    need (!g.cert) (kilnAccess kConfined (w.sget a))
    let (ta, s) ← s.translate (s.whoOf g) .atomic .rw false (w.sget a)
    let (tb, s) ← s.translate (s.whoOf g) .read .r false (w.sget b)
    s.keep do
    let s ← s.release s.cur g.core 5
    need (w.record.isSome || !tb.kind.isMem || !s.mem.poisoned tb.pa 128) poisonConsumed
    let id := launchTag s.cur
    let (d, s) := match w.record with
      | some r => (({ len := 128, x := r.toNat } : EngData), s)
      | none => s.engReadAt id g.core tb none 128 0 128 {}
    need (!d.wait) (.park .response s)
    let img := d.x
    let s := (s.engHostDone id).modWarp s.cur fun w => { w with record := none }
    if !ta.kind.isMem then return s
    let s := s.l1DropBlock g.core ta.pa
    let s ← (s.homesReady ta.pa 512 128 true).mapError (keepRecord img s.cur)
    match s.queueBlock ta.pa with
    | none => return s
    | some q =>
      if q.producer = 1 then return s.rejectLaunch ta.pa q.rejected
      else if q.tail < q.head + 2 ^ q.size then
        let s ← (s.homesReady (q.ring + 128 * (q.tail % 2 ^ q.size)) 128 128 true).mapError (keepRecord img s.cur)
        let s := s.coreWrite g.core ta (q.ring + 128 * (q.tail % 2 ^ q.size)) 128 img
        return s.coreWrite g.core ta ta.pa 8 (q.tail + 1)
      else .error (.park .ring (s.modWarp s.cur fun w => { w with record := some (BitVec.ofNat 1024 img) }))

/-- The partition a command counts against: its issuer's (R295). -/
def State.issuerPart (s : State) : Issuer → Nat
  | .host => 16
  | .ctx c => s.ctxPart c

/-- The commands of system contexts that are not answered: those posted, and those that have begun and not ended (R295). -/
def State.unanswered (s : State) : List Pending :=
  s.host.pending ++ (s.xlat.zero.filterMap fun j => j.cmd) ++ (s.host.copying.map fun c => c.cmd).toList
    ++ (s.host.dieReset.map fun d => d.1).toList

/-- SYS.MBOX (R295). -/
def execSysMbox (d a : SReg) (s : State) : Host.Outcome State Fault Refusal :=
  scalarOp s { reads := [a.val], writes := [d.val] } fun w g => do
    need (s.ctxSys g.ctx) privileged
    let s ← s.drained w 5
    aligned (w.sget a) 512
    let (t, s) ← s.translate (s.whoOf g) .write .w false (w.sget a)
    s.keep do
    let s ← s.release s.cur g.core 5
    let s ← if t.cache = 2 then .ok s else s.homesReady t.pa 512 (clusterOf g.core) false
    if t.cache = 2 ∨ s.mem.readCoh (t.pa + 3) 1 ≠ 0 then s.putS d 2
    else if 16 ≤ (s.unanswered.filter fun p => p.issuer != .host && s.issuerPart p.issuer == s.ctxPart g.ctx).length then
      s.putS d 1
    else
      let p : Pending := { issuer := .ctx g.ctx, addr := t.pa, block := BitVec.ofNat 4096 (s.mem.readCoh t.pa 512) }
      ({ s with host := { s.host with pending := s.host.pending ++ [p] } }).putS d 0

end Sys2Proof.Machine
end

