-- ==== Sys2Proof/Machine/Reply.lean ====
section
/-! DEFINITION. The management mailbox (R477-R480): a command's arguments, who may issue it, and its answer. -/

namespace Sys2Proof.Machine

/-- Bytes of a command block as posted (R477). -/
def Pending.arg (p : Pending) (lo n : Nat) : Nat := field p.block (8 * (lo + n) - 1) (8 * lo)

/-- The codes of STATUS (R477). -/
def mbDone : Nat := 1
def mbMalformed : Nat := 2
def mbNotPermitted : Nat := 3
def mbRefused : Nat := 4
def mbAbandoned : Nat := 5

/-- The detail of a refusal that concerns no single byte (R480). -/
def noByte : Nat := 0xFFFFFFFF

/-- `n` bytes of a number, little-endian (R7). -/
def bytesOf : Nat → Nat → List Byte
  | 0, _ => []
  | n + 1, x => BitVec.ofNat 8 x :: bytesOf n (x / 256)

/-- A pending command answered (R477, R480): ISSUER, the detail and the reply from byte 260 on, and STATUS last; for the
host then MSI-X vector 0 (R483), and a slot of mbox_free returns (R476). -/
def State.answer (s : State) (p : Pending) (status detail reply : Nat) : State :=
  let r := detail % 2 ^ 32 + reply % 2 ^ (8 * 252) * 2 ^ 32
  match p.issuer with
  | .host =>
    let low := p.block.toNat % 2 ^ 16 + status * 2 ^ 32 + p.arg 8 248 * 2 ^ 64
    let s := (s.send (.hostBytes p.addr (bytesOf 512 (low + r * 2 ^ 2048)))).send (.msix 0)
    { s with host := { s.host with mboxFree := s.host.mboxFree + 1 } }
  | .ctx _ => (((s.writePa (p.addr + 2) 1 1).writeRun (p.addr + 256) 256 r 3)).writePa (p.addr + 4) 4 status

/-- A pending command left ABANDONED (R477). -/
def State.abandon (s : State) (p : Pending) : State :=
  match p.issuer with
  | .host => s.send (.hostBytes (p.addr + 4) (bytesOf 4 mbAbandoned))
  | .ctx _ => s.performWrite none (p.addr / 128) (15 * 2 ^ ((p.addr + 4) % 128)) (mbAbandoned * 2 ^ (8 * ((p.addr + 4) % 128)))

/-- The fields of a command's ARGS (R480), as offset and bytes; none for a code R479 does not name. -/
def mbFields : Nat → Option (List (Nat × Nat))
  | 0x01 => some [(16, 1), (32, 32)]
  | 0x02 => some [(16, 1), (64, 64)]
  | 0x03 => some [(16, 1)]
  | 0x04 => some [(16, 8), (24, 4)]
  | 0x05 => some [(16, 1), (17, 1), (24, 8)]
  | 0x06 => some [(16, 4)]
  | 0x07 => some [(16, 1), (17, 1), (24, 8)]
  | 0x08 => some [(16, 1), (18, 2), (24, 8)]
  | 0x09 => some [(24, 8), (32, 8)]
  | 0x0A => some [(24, 8), (32, 8)]
  | 0x0B => some [(24, 8)]
  | 0x0C => some [(16, 1)]
  | 0x0D => some [(16, 4), (24, 8)]
  | 0x0E => some [(24, 8), (32, 8)]
  | 0x0F => some [(24, 8), (32, 8)]
  | 0x10 => some [(24, 8)]
  | 0x11 => some [(24, 8)]
  | 0x12 => some [(24, 8)]
  | 0x13 => some [(16, 16)]
  | 0x14 => some [(24, 8)]
  | _ => none

/-- The issuers of a command (R478, R479). -/
inductive MbWho where
  | host | priv | any
  deriving DecidableEq, Repr

/-- Who may issue a command (R479). -/
def mbWho (code : Nat) : MbWho :=
  if [0x01, 0x08, 0x0F, 0x13].contains code then .host
  else if [0x0A, 0x0B, 0x0C, 0x0E, 0x10, 0x11, 0x12, 0x14].contains code then .priv
  else .any

/-- The first byte of ARGS that is not zero and belongs to no field (R480). -/
def Pending.stray (p : Pending) (fields : List (Nat × Nat)) : Option Nat :=
  ((List.range 240).map (16 + ·)).find? fun i => p.arg i 1 != 0 && !fields.any fun f => decide (f.1 ≤ i ∧ i < f.1 + f.2)

/-- The first byte of a field from `base` on that a set bit of `x` lies in. -/
def firstByte (base x : Nat) : Nat := base + ctz 2048 x / 8

/-- A condition of a command: its STATUS and detail where it fails. -/
def mbNeed (c : Bool) (status detail : Nat) : Except (Nat × Nat) Unit := if c then .ok () else .error (status, detail)

/-- The checks of every command (R477-R480). -/
def State.mbCheck (s : State) (p : Pending) : Except (Nat × Nat) Unit := do
  let code := p.arg 0 2
  mbNeed (p.arg 3 1 == 0) mbMalformed noByte
  match mbFields code with
  | none => .error (mbMalformed, noByte)
  | some fields =>
    match p.stray fields with
    | some i => .error (mbMalformed, i)
    | none =>
      match p.issuer with
      | .host => .ok ()
      | .ctx c =>
        mbNeed (s.ctxValid c && s.ctxSys c) mbNotPermitted noByte
        mbNeed (mbWho code == .any || (mbWho code == .priv && s.ctxPart c == 0)) mbNotPermitted noByte

/-- A system context acts on its own partition only (R478). -/
def State.mbOwn (s : State) (p : Pending) (part off : Nat) : Except (Nat × Nat) Unit :=
  match p.issuer with
  | .host => .ok ()
  | .ctx c => mbNeed (s.ctxPart c == part) mbNotPermitted off

/-- The TDI of a partition is CONFIG_LOCKED or RUN (R484). -/
def State.tdiLocked (s : State) (part : Nat) : Bool :=
  match Tab.get .unlocked s.host.tdi part with
  | .locked | .run => true
  | _ => false

/-- The host may not change a partition whose TDI is locked (R484). -/
def State.mbUnlocked (s : State) (p : Pending) (part off : Nat) : Except (Nat × Nat) Unit :=
  mbNeed (p.issuer != .host || !s.tdiLocked part) mbNotPermitted off

/-- A command is under way that later ones wait for (R478): they are performed one at a time. -/
def State.mbBusy (s : State) : Bool :=
  s.host.copying.isSome || s.host.dieReset.isSome || s.xlat.zero.any fun j => j.cmd.isSome

/-- What a command answers: STATUS and detail of one turned away, or its reply, none while it has not ended. -/
abbrev Ans := Except (Nat × Nat) (Option Nat × State)

/-- A command that something must come before stays posted, the next of its issuer. -/
def State.repost (s : State) (p : Pending) : Ans :=
  .ok (none, { s with host := { s.host with pending := p :: s.host.pending } })

/-- The homes of a context's command block are ready for its answer, so that STATUS is written last (R477). -/
def State.answerReady (s : State) (p : Pending) : Except Stop State :=
  match p.issuer with
  | .host => .ok s
  | .ctx _ => s.homesReady p.addr 512 128 true

/-- A command's end, once its answer can be written; until then only what its homes ask for is done. -/
def State.atAnswer (s : State) (p : Pending) (k : State → State) : State :=
  match s.answerReady p with
  | .ok t => k t
  | .error (.park _ t) => t
  | .error _ => s

/-- The frame of a command (R477, R478): the pending command `n`, the first of its issuer, is performed and answered, or
stays posted while it waits. A block with a code R479 does not name is answered by any command's event. -/
def State.command (s : State) (n code : Nat) (body : Pending → State → Ans) : State :=
  match s.host.pending[n]? with
  | none => s
  | some p =>
    let c := p.arg 0 2
    if s.host.devState ≠ 5 ∨ s.mbBusy ∨ (s.host.pending.take n).any (fun q => q.issuer == p.issuer)
        ∨ (c ≠ code ∧ (mbFields c).isSome) then s
    else s.atAnswer p fun s =>
      let s := { s with host := { s.host with pending := s.host.pending.eraseIdx n } }
      let r : Ans := do
        s.mbCheck p
        body p s
      match r with
      | .ok (some reply, t) => t.answer p mbDone 0 reply
      | .ok (none, t) => t
      | .error (status, detail) => s.answer p status detail 0

/-- What ends the reset of a course takes place once the DIE_RESET that asked for it can be answered. -/
def State.atDieReset (s : State) (course : Nat) (k : State → State) : State :=
  match s.host.dieReset with
  | some (p, c) => if c = course then s.atAnswer p k else k s
  | none => k s

/-- A DIE_RESET whose course has rejoined, or has been declared failed, is answered (R468, R478). -/
def State.endDieReset (s : State) (course : Nat) : State :=
  match s.host.dieReset with
  | some (p, k) =>
    if k = course then { s with host := { s.host with dieReset := none } }.answer p mbDone 0 0 else s
  | none => s

end Sys2Proof.Machine
end

