-- ==== Sys2Proof/Machine/Sync.lean ====
section
/-! DEFINITION. Sync blocks (R129-R141, R347, R348), barriers (R349, R350), monitors (R351, R352), quiescence (R353) and
LANE.SYNC (R287). -/

namespace Sys2Proof.Machine

/-- Where a sync block lies. -/
inductive BlkLoc where
  | cell (c : Nat)
  | mem (t : Trans)
  deriving DecidableEq, Repr

/-- The L1 copies of a block's four lines leave the cluster (R55, R64). -/
def State.dropBlock (s : State) (core pa : Nat) : State :=
  (List.range 4).foldl (fun s i => s.l1DropAll (clusterCores core) (pa / 128 + i)) s

/-- A sync block found and checked (R129, R347): the block, and the state with what the walk and the snoop left. -/
def State.blkAt (s : State) (g : Workgroup) (sp acq : Bool) (va : Word) (scope : Nat) :
    Except Stop (SyncBlk × BlkLoc × State) := do
  need (va.toNat % 512 == 0) (syncBlock va)
  if sp then
    need (decide (scope ≤ 3)) (syncBlock va)
    let c ← s.spCell g va 512
    let x ← s.spLoad c 512
    match SyncBlk.parse x with
    | some b => return (b, .cell c, s)
    | none => .error (syncBlock va)
  else
    let (t, s) ← s.translate (s.whoOf g) (if acq then .read else .atomic) (if acq then .r else .rw) false va
    s.keep do
    need (decide (t.cache ≤ 1)) (syncBlock va)
    let s1 := s.dropBlock g.core t.pa
    let s1 ← s1.homesReady t.pa 512 (if acq then clusterOf g.core else 128) (!acq)
    need (!s1.mem.poisoned t.pa 512) poisonConsumed
    match SyncBlk.parse (s1.mem.readCoh t.pa 512) with
    | some b =>
      need (acq || !g.cert) (kilnAccess kConfined va)
      return (b, .mem t, s1)
    | none => .error (syncBlock va)

/-- The updated block written indivisibly at its home or port (R138). -/
def State.blkWrite (s : State) (core : Nat) (b : SyncBlk) : BlkLoc → State
  | .cell c => s.spStore c 512 b.pack
  | .mem t => (s.dropBlock core t.pa).writeRun t.pa 512 b.pack 4 core

/-- A release into a sync block (R138, R348). -/
def relBlock (sp add : Bool) (d a : SReg) (scope : Scope) (s : State) : Host.Outcome State Fault Refusal :=
  scalarOp s { reads := [a.val, d.val] } fun w g => do
    let s ← s.drained w scope.code
    let va := w.sget a
    let (b, l, t) ← s.blkAt g sp false va scope.code
    let (snap, t) ← t.releasePart s.cur g.core scope.code
    let t := t.blkWrite g.core (b.update t.tick (w.sget d) add g.core scope.code snap) l
    return t.releaseDone g.core scope.code

/-- An acquire from a sync block (R139, R348). -/
def acqBlock (sp : Bool) (d a : SReg) (scope : Scope) (s : State) : Host.Outcome State Fault Refusal :=
  scalarOp s { reads := [a.val], writes := [d.val, d.val + 1] } fun w g => do
    need (d != 63) illegal
    let s ← s.drained w scope.code
    let va := w.sget a
    let (b, l, t) ← s.blkAt g sp true va scope.code
    t.keep do
    let t := match l with
      | .mem x => (List.range 4).foldl (fun (t : State) i => t.sliceRead g.core (x.pa / 128 + i)) t
      | .cell _ => t
    let w := (t.warp? s.cur).getD w
    let w ← w.writeS d (BitVec.ofNat 64 b.value)
    let w ← w.writeS (Fin.ofNat 64 (d.val + 1)) (BitVec.ofNat 64 b.gen)
    return (t.setWarp s.cur w).acquireSig g.core scope.code b.sig

/-- REL (R347, R348). -/
def execRel (d a : SReg) (scope : Scope) (s : State) : Host.Outcome State Fault Refusal :=
  relBlock false false d a scope s

/-- REL.ADD (R347, R348). -/
def execRelAdd (d a : SReg) (scope : Scope) (s : State) : Host.Outcome State Fault Refusal :=
  relBlock false true d a scope s

/-- ACQ (R347, R348). -/
def execAcq (d a : SReg) (scope : Scope) (s : State) : Host.Outcome State Fault Refusal :=
  acqBlock false d a scope s

/-- REL.SP (R347, R348). -/
def execRelSp (d a : SReg) (scope : Scope) (s : State) : Host.Outcome State Fault Refusal :=
  relBlock true false d a scope s

/-- REL.ADD.SP (R347, R348). -/
def execRelAddSp (d a : SReg) (scope : Scope) (s : State) : Host.Outcome State Fault Refusal :=
  relBlock true true d a scope s

/-- ACQ.SP (R347, R348). -/
def execAcqSp (d a : SReg) (scope : Scope) (s : State) : Host.Outcome State Fault Refusal :=
  acqBlock true d a scope s

/-- A barrier word's fields (R349). -/
structure BarWord where
  pending : Nat
  expected : Nat
  phase : Nat
  deriving DecidableEq, Repr

/-- A barrier word read from its 8 bytes; none when an arrival finds it malformed (R350). -/
def BarWord.parse (x : Nat) : Option BarWord :=
  let b : BarWord := { pending := x % 2 ^ 16, expected := x / 2 ^ 16 % 2 ^ 16, phase := x / 2 ^ 48 % 2 ^ 16 }
  if x / 2 ^ 32 % 2 ^ 16 ≠ 0 ∨ b.expected = 0 ∨ 64 < b.expected ∨ b.pending = 0 ∨ b.expected < b.pending then none
  else some b

/-- The 8 bytes of a barrier word. -/
def BarWord.pack (b : BarWord) : Nat := b.pending + b.expected * 2 ^ 16 + b.phase * 2 ^ 48

/-- An arrival's update (R350). -/
def BarWord.arrive (b : BarWord) : BarWord :=
  if b.pending = 1 then { b with pending := b.expected, phase := (b.phase + 1) % 2 ^ 16 }
  else { b with pending := b.pending - 1 }

/-- The wake of every warp parked on a barrier word whose phase is no longer its record's: the wait completes, and its
acquire, at cluster scope or narrower, invalidates nothing (R143, R350). -/
def State.wakeBarrier (s : State) (cell phase : Nat) : State :=
  { s with warps := s.warps.map fun (w : Warp) =>
      match w.bar with
      | some r =>
        if w.live ∧ w.park = .barrier ∧ r.cell = cell ∧ r.phase.toNat ≠ phase then
          { w with bar := none, pc := w.pc + 4, park := .run }
        else w
      | none => w }

/-- The address of a barrier form: aligned, with a legal scope, in scratchpad (R350, R351). -/
def State.barCell (s : State) (g : Workgroup) (va : Word) (scope : Scope) : Except Stop Nat := do
  aligned va 8
  need (decide (scope.code ≤ 3)) (syncBlock va)
  s.spCell g va 8

/-- An arrival (R350). -/
def State.barArrive (s : State) (core cell : Nat) (va : Word) (scope : Scope) (sync : Bool) : Except Stop State := do
  let t ← s.release s.cur core scope.code
  let x ← t.spLoad cell 8
  match BarWord.parse x with
  | none => .error (syncBlock va)
  | some b =>
    let t := t.modWarp s.cur fun w =>
      { w with bar := some { cell := cell, phase := BitVec.ofNat 16 b.phase, sync := sync } }
    let n := b.arrive
    return (t.spStore cell 8 n.pack).wakeBarrier cell n.phase

/-- An address names a barrier word: the word is its allocation and offset, not the address as written (R350). -/
def State.namesWord (s : State) (g : Workgroup) (va : Word) (cell : Nat) : Bool :=
  match s.spCell g va 8 with
  | .ok c => c == cell
  | .error _ => false

/-- The wait for a recorded phase (R350): no record, or an address that does not name its word, is SYNC_BLOCK. -/
def State.barWait (s : State) (g : Workgroup) (va : Word) (scope : Scope) : Except Stop State := do
  need (decide (scope.code ≤ 3)) (syncBlock va)
  match (s.warp? s.cur).bind Warp.bar with
  | none => .error (syncBlock va)
  | some r =>
    need (s.namesWord g va r.cell) (syncBlock va)
    let x ← s.spLoad r.cell 8
    need (x / 2 ^ 48 != r.phase.toNat) (.park .barrier s)
    return (s.modWarp s.cur fun w => { w with bar := none }).acquire g.core scope.code

/-- BAR.ARR (R350). -/
def execBarArr (a : SReg) (scope : Scope) (s : State) : Host.Outcome State Fault Refusal :=
  scalarOp s { reads := [a.val] } fun w g => do
    let s ← s.drained w scope.code
    let c ← s.barCell g (w.sget a) scope
    s.barArrive g.core c (w.sget a) scope false

/-- BAR.WAIT (R350). -/
def execBarWait (a : SReg) (scope : Scope) (s : State) : Host.Outcome State Fault Refusal :=
  scalarOp s { reads := [a.val] } fun w g => do
    let s ← s.drained w scope.code
    s.barWait g (w.sget a) scope

/-- BAR.SYNC: a warp whose record says it arrived through a BAR.SYNC on the word performs the wait part only (R350). -/
def execBarSync (a : SReg) (scope : Scope) (s : State) : Host.Outcome State Fault Refusal :=
  scalarOp s { reads := [a.val] } fun w g => do
    let s ← s.drained w scope.code
    let c ← s.barCell g (w.sget a) scope
    let t ← match w.bar with
      | some { cell := r, phase := _, sync := true } =>
        if r = c then .ok s else s.barArrive g.core c (w.sget a) scope true
      | _ => s.barArrive g.core c (w.sget a) scope true
    t.barWait g (w.sget a) scope

/-- MON.ARM (R352): the cluster's slice takes the line as a watching sharer. -/
def execMonArm (a : SReg) (s : State) : Host.Outcome State Fault Refusal :=
  scalarOp s { reads := [a.val] } fun w g => do
    let va := w.sget a
    let (t, s) ← s.translate (s.whoOf g) .read .r false va
    s.keep do
    s.confine g t false va 1
    let line := t.pa / 128
    let s ← if t.kind.isMem then s.homeReady line (clusterOf g.core) false else .ok s
    let s := if t.kind.isMem then s.sliceRead g.core line else s
    return s.modWarp s.cur fun w => { w with mon := some { watch := .line line, hit := false } }

/-- MON.ARM.SP (R352). -/
def execMonArmSp (a : SReg) (s : State) : Host.Outcome State Fault Refusal :=
  scalarOp s { reads := [a.val] } fun w g => do
    let va := w.sget a
    aligned va 4
    let c ← s.spCell g va 4
    return s.modWarp s.cur fun w => { w with mon := some { watch := .word c, hit := false } }

/-- The tick from which a timeout of so many clocks may have expired, counted from issue; none for no timeout (R351, R352).
A die's clock runs at 3.0 GHz at most (R4), so a wait that heat slows ends later than this (entry 16). -/
def monDue (tick : Nat) (clocks : Word) : Option Nat := if clocks = 0 then none else some (tick + clocks.toNat / 3000)

/-- MON.WAIT (R152, R352): a wake that has come is used up; with no watch armed it returns at once. -/
def execMonWait (a : SReg) (s : State) : Host.Outcome State Fault Refusal :=
  scalarOp s { reads := [a.val] } fun w _ =>
    match w.mon with
    | none => .ok s
    | some m =>
      if m.hit then .ok (s.modWarp s.cur fun w => { w with mon := some { m with hit := false } })
      else .error (.park (.monitor (monDue s.tick (w.sget a))) s)

/-- QUIESCE.WAIT parks; QUIESCE_IDLE completes it (R353). -/
def execQuiesceWait (scope : Scope) (s : State) : Host.Outcome State Fault Refusal :=
  scalarOp s {} fun w _ => do
    need (scope == .course || scope == .package) illegal
    let s ← s.drained w scope.code
    match w.park with
    | .quiesce n t => .error (.park (.quiesce n t) s)
    | _ => .error (.park (.quiesce scope.code none) s)

/-- LANE.SYNC (R287): every access of a completed block is performed in L1, in scratchpad or at L2, as a cluster-scope
release requires, whatever the scope. -/
def execLaneSync (_scope : Scope) (s : State) : Host.Outcome State Fault Refusal :=
  scalarOp s {} fun w _ => s.drained w 3

/-- A warp is parked in a wait whose event has not happened (R353). -/
def State.waiting (s : State) (w : Warp) : Bool :=
  match w.park with
  | .barrier => (match w.bar with
      | some r => readN s.mem.sp r.cell 8 / 2 ^ 48 == r.phase.toNat
      | none => false)
  | .monitor _ => (match w.mon with | some m => !m.hit | none => false)
  | .landing h p =>
    (match s.landing (s.wgOf w) h 16 .read .r with
      | .ok (l, _) => (s.landRead (s.wgOf w).core l 16).1 % 16 == p
      | .error _ => false)
  | .quiesce _ _ | .grow | .laneQueue => true
  | _ => false

/-- The agents of a core are idle (R353): every warp parked in a wait with no lane block to run, nothing queued in its
engines, no remote write buffered or unacknowledged. -/
def State.coreIdle (s : State) (c : Nat) : Bool :=
  (List.range s.warps.length).all (fun i => match s.warps[i]? with
    | some w => !w.live || (s.wgOf w).core != c || (s.wgOf w).saved.isSome || (w.blocks.isEmpty && s.waiting w)
    | none => true)
  && !(s.eng.ops.any fun o => o.core == c) && !(s.eng.mx.any fun o => o.core == c) && !(s.fab.sends.any fun x => x.core == c && !x.parked)
  && s.wcbQuiet c

/-- A QUIESCE.WAIT of a workgroup counts a core (R353): it is within its scope and on a cluster that its partition owns. -/
def State.quiesceCounts (s : State) (g : Workgroup) (scope core : Nat) : Bool :=
  (scope == 5 || coreCourse core == coreCourse g.core) && s.partOwns g.part (clusterOf core)

/-- The cores a QUIESCE.WAIT counts. -/
def State.quiesceCores (s : State) (g : Workgroup) (scope : Nat) : List Nat :=
  (List.range 256).filter (s.quiesceCounts g scope)

/-- A write of an agent that a QUIESCE.WAIT counts is held at its home (R353). -/
def State.quiesceHeld (s : State) (g : Workgroup) (scope : Nat) : Bool :=
  s.xlat.heldWrites.any fun h => match h.slice, h.core with
    | some c, _ => s.quiesceCounts g scope (4 * c)
    | none, some c => s.quiesceCounts g scope c
    | none, none => false

/-- An instruction issues on a core: the idle tree of every QUIESCE.WAIT that counts the core has not held (R353). -/
def State.stir (s : State) (core : Nat) : State :=
  { s with warps := s.warps.map fun (w : Warp) => match w.park with
      | .quiesce n (some _) => if s.quiesceCounts (s.wgOf w) n core then { w with park := .quiesce n none } else w
      | _ => w }

/-- MONITOR_WAKE (R152): a spurious wake of a parked warp; a write's wake is part of the write. -/
def execMonitorWake (w : Nat) (s : State) : Host.Outcome State Fault Refusal :=
  .next (s.modWarp w fun x => match x.park, x.mon with
    | .monitor _, some m => { x with mon := some { m with hit := true } }
    | _, _ => x)

/-- MON_TIMEOUT (R152, R352): the timeout of a MON.WAIT expires, not before its clocks have passed. -/
def execMonTimeout (w : Nat) (s : State) : Host.Outcome State Fault Refusal :=
  .next (s.modWarp w fun x => match x.park, x.mon with
    | .monitor (some due), some m => if due ≤ s.tick then { x with mon := some { m with hit := true } } else x
    | _, _ => x)

/-- The ticks for which the idle tree must have held at a scope (R353). -/
def transitBound (scope : Nat) : Nat := if scope = 4 then 2 else 5

/-- QUIESCE_IDLE (R353): the idle tree is looked at. From the first look that finds every agent idle, and no write of one held
at a home, the hold is timed; an issue on a counted core ends it. When it has held for the transit bound the wait ends as an
acquire. -/
def execQuiesceIdle (w : Nat) (s : State) : Host.Outcome State Fault Refusal :=
  match s.warp? w with
  | some x =>
    match x.park with
    | .quiesce n since =>
      if !x.live then .next s
      else if !((s.quiesceCores (s.wgOf x) n).all s.coreIdle && !s.quiesceHeld (s.wgOf x) n) then
        .next (s.modWarp w fun y => { y with park := .quiesce n none })
      else match since with
        | none => .next (s.modWarp w fun y => { y with park := .quiesce n (some s.tick) })
        | some t =>
          if t + transitBound n ≤ s.tick then .next ((s.acquire (s.wgOf x).core n).modWarp w Warp.advance)
          else .next s
    | _ => .next s
  | none => .next s

end Sys2Proof.Machine
end

