-- ==== Sys2Proof/Machine/Fetch.lean ====
section
/-! DEFINITION. Fetching and issuing an instruction of either stream (R208, R231, R252, R272), and placing one
instruction where the next step fetches it (entry 11). -/

namespace Sys2Proof.Machine

/-- A package stopped at 110 °C acts no more until it is reset, but for answering the host's reads of BAR0, where dev_state
reads OVERTEMP (R476, R487). -/
def awake (s : State) : Act → Bool
  | .event .packageReset => true
  | .event (.hostMemRead (.bar0 _) _ _) => true
  | _ => s.host.devState != 6

/-- An operation or event: an instruction without an encoding. -/
def isEvent (i : Instr) : Bool := (encodeScalar i).isNone && (laneParts i).isNone

/-- A stream of a warp is parked on a translation fault (R44). -/
def Warp.faulted (w : Warp) (lane : Bool) : Bool :=
  if lane then (match w.blocks with | b :: _ => b.fault.isSome | [] => false)
  else match w.park with | .fault _ => true | _ => false

/-- A stream of a warp is inside an instruction that completes before a save (R297, R338, R339): it has an access out, or is
inside a lane instruction, or at a later thread of one, on its lane, and that is not parked on a translation fault. -/
def State.inside (s : State) (wi : Nat) (w : Warp) (lane : Bool) : Bool :=
  (s.fab.remotes.any fun r => r.warp == wi && r.thread.isSome == lane) ||
    (s.fab.hostReqs.any fun r => r.warp == wi && r.thread.isSome == lane) ||
    (lane && w.lane && !w.faulted true &&
      (match w.blocks with | b :: _ => b.stage == .running || b.thread != 0 | [] => false))

/-- A stream of a warp does not issue: the warp is not there, it waits for a replay or a retry, or its workgroup is saved
or being saved (R44, R430, R461). A fault of one stream stops the other where it is not inside an instruction (R44). -/
def State.held (s : State) (wi : Nat) (w : Warp) (lane : Bool) : Bool :=
  let g := s.wgOf w
  !w.live || g.saved.isSome || w.park == .pipeline || w.faulted lane
    || ((g.stopping.isSome || w.faulted !lane) && !s.inside wi w lane)

/-- The trap of a word that does not decode (R252, R263: PRIVILEGED comes first for major 0x24). -/
def State.undecoded (s : State) (w : Warp) (x : Nat) : Stop :=
  if x / 2 ^ 26 = 0x24 ∧ !s.ctxSys (s.wgOf w).ctx then privileged else illegal

/-- A scalar instruction issues, or a wait that goes on is looked at again (R353). -/
def State.issues (s : State) (w : Warp) : State := if s.waiting w then s else s.stir (s.wgOf w).core

/-- The scalar stream of a warp issues its next instruction. -/
def stepScalar (s : State) (wi : Nat) (run : Instr → State → Host.Outcome State Fault Refusal) :
    Host.Outcome State Fault Refusal :=
  match s.warp? wi with
  | none => .next s
  | some w =>
    let s := { s with cur := wi }
    if s.held wi w false then .next s
    else
    let s := s.issues w
    match s.fetchWord wi w.pc with
      | .error e => .next (s.stopped wi w.pc e)
      | .ok (x, t) =>
        match decodeScalar x with
        | .ok i => run i (if w.park = .run then t.count (s.wgOf w).core 1 1 else t)
        | .error _ => .next (t.stopped wi w.pc (s.undecoded w x))

/-- The three words of a lane instruction fetched. -/
def State.fetchLane (s : State) (wi : Nat) (va : Word) : Except Stop (Nat × Nat × Nat × State) := do
  let (w0, s) ← s.fetchWord wi va
  let (w1, s) ← s.fetchWord wi (va + 4)
  let (w2, s) ← s.fetchWord wi (va + 8)
  return (w0, w1, w2, s)

/-- The instruction-threads of a lane instruction counted when it has completed (R488). -/
def State.countLane (s : State) (wi : Nat) (w : Warp) (b : Block) (i : Instr) : State :=
  let now := match s.warp? wi with
    | some x => if w.active then x.hblock else if x.queue.length = w.queue.length then x.queue.head? else none
    | none => none
  match laneParts i with
  | some (_, f) =>
    if now.map Block.lpc = some b.lpc then s
    else s.count (s.wgOf w).core 2 (popCount 32 (participants w b f).toNat)
  | none => s

/-- The lane stream of a warp that holds a lane issues its next instruction (R213). -/
noncomputable def stepLane (s : State) (wi : Nat) (run : Instr → State → Host.Outcome State Fault Refusal) :
    Host.Outcome State Fault Refusal :=
  match s.warp? wi with
  | none => .next s
  | some w =>
    let s := { s with cur := wi }
    match w.blocks with
    | [] => .next s
    | b :: _ =>
      if s.held wi w true || !w.lane then .next s
      else
      let s := s.stir (s.wgOf w).core
      match s.fetchLane wi b.lpc with
        | .error e => .next (s.laneFetchStop b e)
        | .ok (w0, w1, w2, t) =>
          match decodeLane w0 w1 w2 with
          | .ok i =>
            match run i t with
            | .next u => .next (u.countLane wi w b i)
            | o => o
          | .error _ => .next (t.laneStop b.firstThread illegal)

/-- The tables that map the 64 KiB page at VA 0x1_0000 to frame 2, and the frame's bytes: addresses and values. -/
def placeCells (w : Nat) : List (Nat × Nat × Nat) :=
  [(0x1000, 8, 0x2001), (0x2000, 8, 0x3001), (0x3000, 8, 0x4001), (0x4000, 8, 0x5001), (0x5008, 8, 0x20017),
   (0x20000, 12, w)]

/-- The state whose next step fetches and runs the instruction with bits `w`: context 0 a system context of partition
0, one page mapped and owned, a workgroup of one warp resident on core 0, and for a lane instruction a block that
stands at it (entry 11). -/
def placeWord (s : State) (nbits w : Nat) : State :=
  let lane := 32 < nbits
  let wi := s.warps.length
  let gi := s.wgs.length
  let block : Block := { lpc := 0x10000, mask := BitVec.allOnes 32
                         stack := [{ active := BitVec.allOnes 32 }], started := true }
  let warp : Warp := { Warp.blank with live := true, wg := gi, pc := 0x10000, lane := lane
                                       queue := if lane then [block] else [] }
  let wg : Workgroup := { Workgroup.none with live := true }
  let s := (placeCells (w % 2 ^ nbits)).foldl (fun s c => s.writePa c.1 c.2.1 c.2.2) s
  let x := s.xlat
  { s with agenda := if lane then [.lane wi] else [], cur := wi, warps := s.warps ++ [warp], wgs := s.wgs ++ [wg]
           xlat := { x with ctxTab := Tab.set 0 x.ctxTab 0 (BitVec.ofNat 512 (2 ^ 63 + 2 ^ 62 + 0x1000))
                            partTab := Tab.set 0 x.partTab 0 (BitVec.ofNat 256 (2 ^ 192))
                            owner := Tab.set 0 x.owner 2 (BitVec.ofNat 32 (2 ^ 31))
                            heldBy := Tab.set 0 x.heldBy 2 0 }
           host := { s.host with devState := 5 } }

end Sys2Proof.Machine
end

