-- ==== Sys2Proof/Machine/LaneMask.lean ====
section
/-! DEFINITION. Predicate logic (R316), the mask stack (R317, R318), L.NOP and L.END (R319). -/

namespace Sys2Proof.Machine

/-- A predicate form: the participating threads' bits of pD (R316). -/
def predForm (s : State) (op : Nat) (f : LaneFields) (k : BitVec 32 → BitVec 32 → BitVec 32) :
    Host.Outcome State Fault Refusal :=
  laneAtOnce s op f fun w _ part =>
    match f.dest with
    | .p d => (s.modWarp s.cur fun x => x.pset d part (k (w.predOf f.opa) (w.predOf f.opb))).laneAdvance
    | _ => s.laneAdvance

/-- PAND (R316). -/
def execPand (f : LaneFields) (s : State) : Host.Outcome State Fault Refusal :=
  predForm s 0x0C0 f (· &&& ·)

/-- POR (R316). -/
def execPor (f : LaneFields) (s : State) : Host.Outcome State Fault Refusal :=
  predForm s 0x0C1 f (· ||| ·)

/-- PXOR (R316). -/
def execPxor (f : LaneFields) (s : State) : Host.Outcome State Fault Refusal :=
  predForm s 0x0C2 f (· ^^^ ·)

/-- PNOT (R316). -/
def execPnot (f : LaneFields) (s : State) : Host.Outcome State Fault Refusal :=
  predForm s 0x0C3 f fun a _ => ~~~a

/-- The entries a mask stack holds at most (R317). -/
def maskDepth : Nat := 32

/-- A mask instruction (R318): it acts once for the warp on the head block, or raises MASK_STACK. -/
def maskForm (s : State) (op : Nat) (f : LaneFields) (k : Warp → Block → Option Block) :
    Host.Outcome State Fault Refusal :=
  laneAtOnce s op f fun w b _ =>
    match k w b with
    | some x => s.laneAdvance.modHead fun y => { y with stack := x.stack, lpc := x.lpc }
    | none => s.laneStop (lowest b.active) maskStack

/-- The block past its instruction with another stack. -/
def Block.next (b : Block) (st : List MaskEntry) : Block := { b with stack := st, lpc := b.lpc + 12 }

/-- M.IF (R318). -/
def maskIf (m : BitVec 32) (b : Block) : Option Block :=
  if maskDepth ≤ b.stack.length then none
  else some (b.next ({ active := b.active &&& m, elseMask := b.active &&& ~~~m, kind := .ifArm } :: b.stack))

/-- M.ELSE (R318). -/
def maskElse (b : Block) : Option Block :=
  match b.stack with
  | e :: r => if e.kind = .ifArm then some (b.next ({ e with active := e.elseMask, elseMask := 0, kind := .elseArm } :: r)) else none
  | [] => none

/-- M.ENDIF (R318). -/
def maskEndif (b : Block) : Option Block :=
  match b.stack with
  | e :: r => if e.kind = .ifArm ∨ e.kind = .elseArm then some (b.next r) else none
  | [] => none

/-- M.LOOP (R318). -/
def maskLoop (b : Block) : Option Block :=
  if maskDepth ≤ b.stack.length then none
  else some (b.next ({ active := b.active, kind := .loop, start := BitVec.ofNat 62 ((b.lpc + 12).toNat / 4) } :: b.stack))

/-- Threads removed from the entries down to the nearest LOOP; none where there is no LOOP (R318). -/
def dropThreads (m : BitVec 32) : List MaskEntry → Option (List MaskEntry)
  | [] => none
  | e :: r =>
    let x := { e with active := e.active &&& ~~~m, elseMask := e.elseMask &&& ~~~m }
    if e.kind = .loop then some (x :: r) else (dropThreads m r).map fun l => x :: l

/-- M.BRK (R318). -/
def maskBrk (m : BitVec 32) (b : Block) : Option Block := (dropThreads (b.active &&& m) b.stack).map b.next

/-- M.NEXT (R318). -/
def maskNext (b : Block) : Option Block :=
  match b.stack with
  | e :: r =>
    if e.kind = .loop then
      (if e.active = 0 then some (b.next r) else some { b with lpc := BitVec.ofNat 64 (e.start.toNat * 4) })
    else none
  | [] => none

/-- M.IF (R318). -/
def execMIf (f : LaneFields) (s : State) : Host.Outcome State Fault Refusal :=
  maskForm s 0x0C8 f fun w b => maskIf (w.predOf f.opa) b

/-- M.ELSE (R318). -/
def execMElse (f : LaneFields) (s : State) : Host.Outcome State Fault Refusal :=
  maskForm s 0x0C9 f fun _ b => maskElse b

/-- M.ENDIF (R318). -/
def execMEndif (f : LaneFields) (s : State) : Host.Outcome State Fault Refusal :=
  maskForm s 0x0CA f fun _ b => maskEndif b

/-- M.LOOP (R318). -/
def execMLoop (f : LaneFields) (s : State) : Host.Outcome State Fault Refusal :=
  maskForm s 0x0CB f fun _ b => maskLoop b

/-- M.BRK (R318). -/
def execMBrk (f : LaneFields) (s : State) : Host.Outcome State Fault Refusal :=
  maskForm s 0x0CC f fun w b => maskBrk (w.predOf f.opa) b

/-- M.NEXT (R318). -/
def execMNext (f : LaneFields) (s : State) : Host.Outcome State Fault Refusal :=
  maskForm s 0x0CD f fun _ b => maskNext b

/-- L.NOP (R319). -/
def execLNop (f : LaneFields) (s : State) : Host.Outcome State Fault Refusal :=
  laneAtOnce s 0x0CE f fun _ _ _ => s.laneAdvance

/-- L.END (R212, R319): the stack must hold the base entry alone; the lane is freed and the block completes. -/
def execLEnd (f : LaneFields) (s : State) : Host.Outcome State Fault Refusal :=
  laneAtOnce s 0x0CF f fun _ b _ =>
    if b.stack.length = 1 then s.modWarp s.cur Warp.popBlock
    else s.laneStop (lowest b.active) maskStack

/-- LANE_GRANT (R213): a free lane of a core goes to the oldest warp with a runnable block that holds none. A warp's age
is its place among the warps started on the core. -/
def State.laneGrant (s : State) (core : Nat) : State :=
  let here (w : Warp) : Bool := w.live && (s.wgOf w).core == core && (s.wgOf w).saved.isNone
  let used := (s.warps.filter fun w => here w && w.lane).length
  let ready (i : Nat) : Bool := match s.warp? i with
    | some w => here w && !w.lane && !w.blocks.isEmpty && (s.wgOf w).stopping.isNone
    | none => false
  if 32 ≤ used then s
  else
    let age (i : Nat) : Nat := match s.warp? i with | some w => (s.wgOf w).age * 16 + w.idx | none => 0
    match ((List.range s.warps.length).filter ready).foldl
        (fun (best : Option Nat) i => match best with
          | none => some i
          | some j => if age i < age j then some i else some j) none with
    | some i => s.modWarp i fun w => { w with lane := true }
    | none => s

/-- LANE_GRANT (R213). -/
def execLaneGrant (core : Nat) (s : State) : Host.Outcome State Fault Refusal := .next (s.laneGrant core)

end Sys2Proof.Machine
end

