-- ==== Sys2Proof/Machine/Special.lean ====
section
/-! DEFINITION. The special functions (R311): the device's own mapping wherever it lies within the accuracy the spec
states, the function's value rounded to binary32 otherwise (entry 14). -/

namespace Sys2Proof.Machine

/-- The special functions in opcode order (R311). -/
inductive SpecialFn where
  | rcp | rsq | exp2 | log2 | sin | cos | tanh
  deriving DecidableEq, Repr

/-- The number of a function in Config. -/
def SpecialFn.index : SpecialFn → Nat
  | .rcp => 0 | .rsq => 1 | .exp2 => 2 | .log2 => 3 | .sin => 4 | .cos => 5 | .tanh => 6

/-- π, 320 bits after the point. -/
def piRat : Rat := (6710401180212168915155840974220003240804194089427148950727106424351713218671805380099500388914039 : Rat) / (2 ^ 320 : Nat)

/-- The natural logarithm of 2, 200 bits after the point. -/
def ln2Rat : Rat := (1113844574712631719546256151097547306333272293549090750737802 : Rat) / (2 ^ 200 : Nat)

/-- A number cut to 160 bits after the point. -/
def cut (x : Rat) : Rat := (ratFloor (x * (2 ^ 160 : Nat)) : Rat) / (2 ^ 160 : Nat)

/-- Terms of a power series: `t` is the next term, `step k` the factor from term k - 1 to term k. -/
def series (step : Nat → Rat) : Nat → Nat → Rat → Rat
  | 0, _, _ => 0
  | n + 1, k, t => t + series step n (k + 1) (cut (t * step k))

/-- e to a power between -1 and 1. -/
def expSmall (y : Rat) : Rat := series (fun k => y / (k : Rat)) 40 1 1

/-- 2 to a power. -/
def exp2Rat (a : Rat) : Rat :=
  let n := ratFloor (a + 1 / 2)
  pow2 n * expSmall (cut ((a - (n : Rat)) * ln2Rat))

/-- The base-2 logarithm of a positive number. -/
def log2Rat (a : Rat) : Rat :=
  let e := log2Floor a
  let m := a / pow2 e
  let (m, e) := if 4 / 3 < m then (m / 2, e + 1) else (m, e)
  let z := (m - 1) / (m + 1)
  let odd := (List.range 40).foldl (fun (acc : Rat × Rat) k =>
    (acc.1 + acc.2 / ((2 * k + 1 : Nat) : Rat), cut (acc.2 * z * z * (2 ^ 64 : Nat)) / (2 ^ 64 : Nat))) (0, z)
  (e : Rat) + 2 * odd.1 / ln2Rat

/-- The sine of a number, reduced to within half a turn first; `shift` quarter turns are added. -/
def sinRat (shift : Nat) (a : Rat) : Rat :=
  let x := a + (shift : Rat) * piRat / 2
  let k := ratFloor (x / (2 * piRat) + 1 / 2)
  let r := cut (x - (k : Rat) * 2 * piRat)
  series (fun k => -(r * r) / ((2 * k * (2 * k + 1) : Nat) : Rat)) 30 1 r

/-- The hyperbolic tangent. -/
def tanhRat (a : Rat) : Rat :=
  if 20 < a then 1 else if a < -20 then -1
  else
    let e := exp2Rat (2 * a / ln2Rat)
    (e - 1) / (e + 1)

/-- The unit in the last place of binary32 at a number. -/
def ulpF32 (x : Rat) : Rat :=
  if x = 0 then pow2 (-149) else pow2 (max (log2Floor (if x < 0 then -x else x)) (-126) - 23)

/-- The value of a function at a finite operand, close to 2⁻⁶⁴ of it, and the error R311 allows it. -/
def specialValue (fn : SpecialFn) (a : Rat) : Rat × Rat :=
  match fn with
  | .rcp => let v := 1 / a; (v, ulpF32 v)
  | .rsq => let v := 1 / ratSqrt a; (v, 2 * ulpF32 v)
  | .exp2 => let v := exp2Rat a; (v, 2 * ulpF32 v)
  | .log2 => let v := log2Rat a; (v, 2 * ulpF32 v)
  | .sin => (sinRat 0 a, pow2 (-21))
  | .cos => (sinRat 1 a, pow2 (-21))
  | .tanh => (tanhRat a, pow2 (-22))

/-- A candidate code for a finite value is within the allowed error; the width of the computed value's own error is
allowed beside it. -/
def specialOk (v err : Rat) (code : BitVec 32) : Bool :=
  match fmtF32.decode code.toNat with
  | .fin neg u =>
    let d := signedRat neg u - v
    let slack := (if v < 0 then -v else v) * pow2 (-60) + pow2 (-200)
    decide (d ≤ err + slack) && decide (-d ≤ err + slack)
  | .inf neg => decide (pow2 128 ≤ signedRat neg (v + signedRat neg err))
  | .nan _ => false

/-- The binary32 result at a finite operand within the function's domain, with OF and UF as R309 gives them; NX is
never raised. -/
def specialFin (fn : SpecialFn) (bits : Nat) (a : Rat) : Nat × Nat :=
  let (v, err) := specialValue fn a
  let c := Config.specialF32 fn.index (BitVec.ofNat 32 bits)
  let r := (fmtF32.finish .rne false (fpOf (decide (2 ^ 31 ≤ bits)) v)).1
  let code := if specialOk v err c then c.toNat else r
  match fmtF32.decode code with
  | .inf _ => (code, fOF)
  | .fin _ u => (code, if u < pow2 (-126) ∧ u ≠ (if v < 0 then -v else v) then fUF else 0)
  | .nan _ => (code, 0)

/-- A special function of a binary32 code (R311). -/
def specialF32 (fn : SpecialFn) (bits : Nat) : Nat × Nat :=
  let nan := (fmtF32.nanCode, fNV)
  match fmtF32.decode bits with
  | .nan s => (fmtF32.nanCode, if s then fNV else 0)
  | .inf neg =>
    match fn with
    | .rcp => (fmtF32.sign neg, 0)
    | .rsq => if neg then nan else (0, 0)
    | .exp2 => if neg then (0, 0) else (fmtF32.infCode false, fOF)
    | .log2 => if neg then nan else (fmtF32.infCode false, 0)
    | .sin | .cos => nan
    | .tanh => (fmtF32.sign neg + 0x3F800000, 0)
  | .fin neg u =>
    match fn with
    | .rcp => if u = 0 then (fmtF32.infCode neg, fDZ) else specialFin fn bits (signedRat neg u)
    | .rsq =>
      if u = 0 then (fmtF32.infCode neg, fDZ) else if neg then nan else specialFin fn bits u
    | .exp2 =>
      let a := signedRat neg u
      if 128 < a then (fmtF32.infCode false, fOF) else if a < -150 then (0, fUF) else specialFin fn bits a
    | .log2 =>
      if u = 0 then (fmtF32.infCode true, fDZ) else if neg then nan else specialFin fn bits u
    | .sin | .cos | .tanh => specialFin fn bits (signedRat neg u)

/-- A special function of a binary16 or binary32 code: the former through the latter (R311). -/
def special (fn : SpecialFn) (half : Bool) (bits : Nat) : Nat × Nat :=
  if half then
    let x := fmtF16.decode bits
    let (r, fl) := specialF32 fn (fmtF32.finish .rne false x).1
    let (c, g) := fmtF16.finish .rne false (fmtF32.decode r)
    (c, sigFlag [x] ||| fl ||| (g &&& (fOF ||| fUF)))
  else specialF32 fn bits

end Sys2Proof.Machine
end

