-- ==== Sys2Proof/Machine/LaneFloat.lean ====
section
/-! DEFINITION. Lane floating instructions: arithmetic (R308, R309), compares (R310), special functions (R311), conversions
(R198, R312-R314) and rounding to an integral value (R315). -/

namespace Sys2Proof.Machine

/-- A computation on the elements of an IEEE type: one, or the two halves of a paired type with their flags ORed (R194,
R309). -/
def onElements (ty : LType) (k : FFmt → Nat → Nat → Nat → Nat × Nat) (a b c : Nat) : Nat × Nat :=
  match ty.ieee with
  | none => (0, 0)
  | some f =>
    if ty.paired then
      let lo := k f (a % 2 ^ 16) (b % 2 ^ 16) (c % 2 ^ 16)
      let hi := k f (a / 2 ^ 16) (b / 2 ^ 16) (c / 2 ^ 16)
      (lo.1 + hi.1 * 2 ^ 16, lo.2 ||| hi.2)
    else k f a b c

/-- A floating form: the exact result rounded once (R308). -/
def floatForm (s : State) (op : Nat) (f : LaneFields) (k : Mode → Fp → Fp → Fp → Fp × Nat) :
    Host.Outcome State Fault Refusal :=
  lanePure s op f fun x =>
    let md := x.w.mode f.rnd
    onElements f.ty (fun m a b c =>
      let (v, fl) := k md (m.decode a) (m.decode b) (m.decode c)
      let (r, g) := m.finish md false v
      (r, fl ||| g)) x.a x.b x.c

/-- FABS and FNEG: a sign changed, NaN to the default NaN, nothing rounded (R308, R309). -/
def signForm (s : State) (op : Nat) (f : LaneFields) (k : Fp → Fp) : Host.Outcome State Fault Refusal :=
  lanePure s op f fun x => onElements f.ty (fun m a _ _ => m.finish .rne false (k (m.decode a))) x.a x.b x.c

/-- A floating compare into a predicate (R310). -/
def floatSet (s : State) (op : Nat) (f : LaneFields) (k : Fp → Fp → Bool) : Host.Outcome State Fault Refusal :=
  lanePure s op f fun x => onElements f.ty (fun m a b _ =>
    ((k (m.decode a) (m.decode b)).toNat, sigFlag [m.decode a, m.decode b])) x.a x.b x.c

/-- A special function (R311). -/
def specialForm (s : State) (op : Nat) (f : LaneFields) (fn : SpecialFn) : Host.Outcome State Fault Refusal :=
  lanePure s op f fun x => special fn (f.ty == .f16) x.a

/-- A floating value without its sign. -/
def fpAbs : Fp → Fp
  | .fin _ x => .fin false x
  | .inf _ => .inf false
  | .nan s => .nan s

/-- The format word of a conversion is well formed (R313): the type that is NF, and the word. -/
def formatWordOk (ty : LType) (x : Word) : Bool :=
  field x 63 52 == 0 && field x 31 16 == 0 && nfLegal ty.width (field x 15 0) && (ty.isNfBlock || field x 51 32 == 0)

/-- A source element's value (R198, R312, R313): an integer, or a floating value. -/
def cvtValue (src : LType) (word : Word) (a : Nat) : Fp :=
  match src.ieee with
  | some m => m.decode a
  | none =>
    if src.isNf then
      match nfDesc src.width (field word 15 0) with
      | some d =>
        let v := d.decode (a % 2 ^ src.width)
        (if src.isNfBlock then scaled (field word 51 32) v else v).fp
      | none => .fin false 0
    else fpOf false (intOf src a : Rat)

/-- A value scaled down by a block's SCALE before it is converted (R313); none for a zero or NaN scale. -/
def unscaled (scale : Nat) (x : Fp) : Option Fp :=
  match scaleVal scale with
  | none => none
  | some v =>
    if v = 0 then none
    else match x with
      | .fin n u => some (.fin n (u / v))
      | x => some x

/-- CVT's result and flags (R198, R312, R313). -/
def convert (src dst : LType) (md : Mode) (sat : Bool) (word : Word) (a : Nat) : Nat × Nat :=
  if src.isInt ∧ dst.isInt then (intResult dst sat (intOf src a), 0)
  else
    let x := cvtValue src word a
    match dst.ieee with
    | some m => m.finish md sat x
    | none =>
      if dst.isNf then
        match nfDesc dst.width (field word 15 0) with
        | none => (0, 0)
        | some d =>
          if dst.isNfBlock then
            match unscaled (field word 51 32) x with
            | some y => d.convert md y
            | none => (0, 0)
          else d.convert md x
      else
        let (v, fl) := fpToInt md (intLo dst) (intHi dst) x
        (truncI dst.width v, fl)

/-- The uniform register operand B of a CVT names. -/
def cvtReg (f : LaneFields) : Nat := match f.opb with | .s n => n.val | _ => 0

/-- The draw of a stochastic conversion (R197, R314). -/
def srDraw (f : LaneFields) (w : Warp) (t g : Nat) : Nat :=
  let key := w.sget (Fin.ofNat 64 (cvtReg f + if f.ty.isNf then 1 else 0))
  (ch64 key (w.wid + BitVec.ofNat 64 (t + g * 2 ^ 48))).toNat % 2 ^ 16

/-- The rounding mode of a CVT for a thread (R312, R314). -/
def cvtMode (f : LaneFields) (w : Warp) (t g : Nat) : Mode :=
  if f.rnd = 4 then .sr (srDraw f w t g) else w.mode f.rnd

/-- The types CVT's operands are read at. -/
def cvtTypesOf (f : LaneFields) : OpTypes := { a := f.cvtSrc, b := .n64, c := .n64 }

/-- CVT (R312-R314): a bad format word is raised at issue with the lowest participating thread (R313);
with none the rule names no thread to raise it, and the instruction completes (DESIGN CHOICE, entry 68). -/
def execCvt (f : LaneFields) (s : State) : Host.Outcome State Fault Refusal :=
  let nf := if f.ty.isNf then f.ty else f.cvtSrc
  let word := match s.warp? s.cur with | some w => w.sget (Fin.ofNat 64 (cvtReg f)) | none => 0
  if nf.isNf && !formatWordOk nf word then
    laneOpFrame s 0x080 f fun _ _ part => if part = 0 then s.laneAdvance else s.laneStop (lowest part) badFormat
  else
    laneCompute s 0x080 f (cvtTypesOf f) fun x =>
      .ok (convert f.cvtSrc f.ty (cvtMode f x.w x.t x.g) f.sat word x.a)

/-- FRND (R315). -/
def execFrnd (f : LaneFields) (s : State) : Host.Outcome State Fault Refusal :=
  lanePure s 0x081 f fun x => onElements f.ty (fun m a _ _ =>
    let (v, fl) := fpIntegral (x.w.mode f.rnd) (m.decode a)
    ((m.finish .rne false v).1, fl)) x.a x.b x.c

/-- FADD (R308). -/
def execFadd (f : LaneFields) (s : State) : Host.Outcome State Fault Refusal :=
  floatForm s 0x040 f fun md a b _ => fpAdd md a b

/-- FSUB (R308). -/
def execFsub (f : LaneFields) (s : State) : Host.Outcome State Fault Refusal :=
  floatForm s 0x041 f fun md a b _ => fpAdd md a b.negate

/-- FMUL (R308). -/
def execFmul (f : LaneFields) (s : State) : Host.Outcome State Fault Refusal :=
  floatForm s 0x042 f fun _ a b _ => fpMul a b

/-- FMA (R308). -/
def execFma (f : LaneFields) (s : State) : Host.Outcome State Fault Refusal :=
  floatForm s 0x043 f fun md a b c => fpFma md a b c

/-- FDIV (R308). -/
def execFdiv (f : LaneFields) (s : State) : Host.Outcome State Fault Refusal :=
  floatForm s 0x044 f fun _ a b _ => fpDiv a b

/-- FSQRT (R308). -/
def execFsqrt (f : LaneFields) (s : State) : Host.Outcome State Fault Refusal :=
  floatForm s 0x045 f fun _ a _ _ => fpSqrt a

/-- FMIN (R308). -/
def execFmin (f : LaneFields) (s : State) : Host.Outcome State Fault Refusal :=
  floatForm s 0x046 f fun _ a b _ => fpMin a b

/-- FMAX (R308). -/
def execFmax (f : LaneFields) (s : State) : Host.Outcome State Fault Refusal :=
  floatForm s 0x047 f fun _ a b _ => fpMax a b

/-- FABS (R308). -/
def execFabs (f : LaneFields) (s : State) : Host.Outcome State Fault Refusal :=
  signForm s 0x048 f fpAbs

/-- FNEG (R308). -/
def execFneg (f : LaneFields) (s : State) : Host.Outcome State Fault Refusal :=
  signForm s 0x049 f Fp.negate

/-- FSET.EQ (R310). -/
def execFsetEq (f : LaneFields) (s : State) : Host.Outcome State Fault Refusal :=
  floatSet s 0x04A f fpEq

/-- FSET.NE (R310). -/
def execFsetNe (f : LaneFields) (s : State) : Host.Outcome State Fault Refusal :=
  floatSet s 0x04B f fun a b => !fpEq a b

/-- FSET.LT (R310). -/
def execFsetLt (f : LaneFields) (s : State) : Host.Outcome State Fault Refusal :=
  floatSet s 0x04C f fpLt

/-- FSET.LE (R310). -/
def execFsetLe (f : LaneFields) (s : State) : Host.Outcome State Fault Refusal :=
  floatSet s 0x04D f fun a b => fpLt a b || fpEq a b

/-- FSET.UN (R310). -/
def execFsetUn (f : LaneFields) (s : State) : Host.Outcome State Fault Refusal :=
  floatSet s 0x04E f fun a b => a.isNan || b.isNan

/-- FRCP (R311). -/
def execFrcp (f : LaneFields) (s : State) : Host.Outcome State Fault Refusal :=
  specialForm s 0x050 f .rcp

/-- FRSQ (R311). -/
def execFrsq (f : LaneFields) (s : State) : Host.Outcome State Fault Refusal :=
  specialForm s 0x051 f .rsq

/-- FEXP2 (R311). -/
def execFexp2 (f : LaneFields) (s : State) : Host.Outcome State Fault Refusal :=
  specialForm s 0x052 f .exp2

/-- FLOG2 (R311). -/
def execFlog2 (f : LaneFields) (s : State) : Host.Outcome State Fault Refusal :=
  specialForm s 0x053 f .log2

/-- FSIN (R311). -/
def execFsin (f : LaneFields) (s : State) : Host.Outcome State Fault Refusal :=
  specialForm s 0x054 f .sin

/-- FCOS (R311). -/
def execFcos (f : LaneFields) (s : State) : Host.Outcome State Fault Refusal :=
  specialForm s 0x055 f .cos

/-- FTANH (R311). -/
def execFtanh (f : LaneFields) (s : State) : Host.Outcome State Fault Refusal :=
  specialForm s 0x056 f .tanh

end Sys2Proof.Machine
end

