-- ==== Sys2Proof/Machine/Matrix.lean ====
section
/-! DEFINITION. Tensor table instructions (R380, R381), what tensor instructions check and take at issue (R383-R399,
R405, R409), and gangs (R226-R228, R397, R398). -/

namespace Sys2Proof.Machine

/-- Bytes of a launch record (R417). -/
def lrec (r : BitVec 1024) (lo n : Nat) : Nat := lineBytes r lo n

/-- The TID in a 64-bit register resolved (R36, R380): bits [63:32] must be zero. -/
def State.needTid64 (s : State) (g : Workgroup) (a : Word) : Except Stop (BitVec 512) := do
  need (field a 63 32 == 0) (staleTid 0)
  s.needTid g a.toNat

/-- TT.SET (R379, R380): the image checked and installed with the slot's next generation. -/
def execTtSet (d a b : SReg) (s : State) : Host.Outcome State Fault Refusal :=
  scalarOp s { reads := [a.val, b.val], writes := [d.val] } fun w g => do
    let slot := (w.sget a).toNat
    need (decide (0 < slot) && decide (slot < s.ttSlots g.ctx) && decide (slot < 2 ^ 16)) badFormat
    aligned (w.sget b) 64
    let c ← s.spCell g (w.sget b) 64
    let x ← s.spLoad c 64
    need (!g.cert) (kilnAccess kConfined (w.sget b))
    let img := BitVec.ofNat 512 x
    need (imageOk img) badFormat
    let gen := (teGen (s.ttEntry g.ctx slot) + 1) % 2 ^ 16
    let entry := x % 2 ^ (8 * 48) + gen * 2 ^ (8 * 48) + 2 ^ (8 * 50)
    (s.writePa (s.ttSlot g.ctx slot) 64 entry g.core).putS d (BitVec.ofNat 64 (gen * 2 ^ 16 + slot))

/-- TT.CLR (R380). -/
def execTtClr (a : SReg) (s : State) : Host.Outcome State Fault Refusal :=
  scalarOp s { reads := [a.val] } fun w g => do
    let e ← s.needTid64 g (w.sget a)
    need (!g.cert) (kilnAccess kConfined 0)
    let slot := (w.sget a).toNat % 2 ^ 16
    return s.writePa (s.ttSlot g.ctx slot + 50) 1 (rec64 e 50 1 / 2 * 2) g.core

/-- TT.READ (R380). -/
def execTtRead (a b : SReg) (s : State) : Host.Outcome State Fault Refusal :=
  scalarOp s { reads := [a.val, b.val] } fun w g => do
    let e ← s.needTid64 g (w.sget a)
    aligned (w.sget b) 64
    let c ← s.spCell g (w.sget b) 64
    return s.spStore c 64 e.toNat

/-- The fields of a tile shape (R384). -/
def shRows (x : Word) : Nat := field x 39 32
def shCols (x : Word) : Nat := field x 55 44
def shFmt (x : Word) : Nat := field x 3 0
def shDesc (x : Word) : Nat := field x 31 16
def shBlock (x : Word) : Nat := field x 57 56

/-- A tile or accumulator lies in the workgroup's allocation (R382). -/
def needTile (g : Workgroup) (t : TReg) : Except Stop Unit := need (decide (t.val < g.tiles)) (regRange 3)
def needAcc (g : Workgroup) (c : CReg) : Except Stop Unit := need (decide (c.val < g.accs)) (regRange 3)

/-- The row and the bit offset within it that a byte offset names (R391). -/
def tileOff (e : BitVec 512) (off : Nat) : Nat × Nat :=
  if tePitch e = 0 then (0, 8 * off) else (off / tePitch e, off % tePitch e * 8)

/-- The address of byte `x` of a tensor's stored row (R378). -/
def rowVa (e : BitVec 512) (row x : Nat) : Nat := ((teBase e).toNat + row * tePitch e + x) % 2 ^ 64

/-- A tensor instruction enters the MX queue (R390): room, the cluster-scope release, what it changes at issue. -/
def State.enqueue (s : State) (wi wgi : Nat) (g : Workgroup) (o : MxOp) (fx : State → State) : Except Stop State := do
  need (decide (s.mxLen g.core < mxCap)) (.park .engine s)
  let s ← s.release wi g.core 3
  let s := fx s
  let o := { o with id := s.eng.nextId, core := g.core, wg := wgi, ctx := g.ctx, warp := wi }
  return { s with eng := { s.eng with mx := s.eng.mx ++ [o], nextId := s.eng.nextId + 1 } }

/-- The kiln rules for rows of `n` bytes of a tensor (R100-R102, R328), against the kind of leaf its BASE maps. -/
def State.tileRows (s : State) (g : Workgroup) (kind : AccKind) (write : Bool) (base : Word) (rows : List Nat)
    (n : Nat) : Except Stop Unit := do
  let w := s.whoOf g
  let k ← s.tensorKiln w kind base
  forAll (fun (p : Nat × Nat) => do
    let va := BitVec.ofNat 64 p.1
    match s.leafAt w va with
    | .error f => .error (.fault (w.key kind va) f.reason f.level va)
    | .ok t =>
      match k with
      | none =>
        need (!t.kiln) (kilnAccess kMixed va)
        s.confine g t write va p.2
      | some b =>
        need (t.kiln && s.sameBinding b (t.pa / 2 ^ 21)) (kilnAccess kMixed va)
        need (s.kilnAllows g (t.pa / 2 ^ 21) write) (kilnAccess kState va)) (rows.flatMap fun a => pageParts a n)

/-- The addresses whose leaves tileRows looks up: the tensor's BASE, and the pages of its rows. -/
def tileVas (base : Word) (rows : List Nat) (n : Nat) : List Word :=
  base :: (rows.flatMap fun a => pageParts a n).map fun p => BitVec.ofNat 64 p.1

/-- MX.LDT (R391). -/
def execMxLdt (d : TReg) (a b : SReg) (s : State) : Host.Outcome State Fault Refusal :=
  scalarOp s { reads := [a.val, b.val] } fun w g => do
    let e ← s.needTid64 g (w.sget a)
    needTile g d
    let sh := g.mxr (0x040 + d.val)
    let f := shFmt sh
    need (shRows sh != 0 && teFormat e == f) badFormat
    need (!teSparse e || shCols sh % 4 == 0) badFormat
    need (!fmtBlock f || rec64 e 47 1 / 2 % 4 == shBlock sh) badFormat
    let (row0, x) := tileOff e (w.sget b).toNat
    need (x % fmtBits f == 0) (alignment (w.sget b))
    let col0 := x / fmtBits f * (if teSparse e then 2 else 1)
    need ((!teSparse e || col0 % 4 == 0) && (!fmtBlock f || col0 % teBlock e == 0)) (alignment (w.sget b))
    let stored := if teSparse e then shCols sh / 2 else shCols sh
    let rows := (List.range (shRows sh)).map fun i => rowVa e (row0 + i) (x / 8)
    let n := (stored * fmtBits f + 7) / 8
    s.tileRows g .mxFetch false (teBase e) rows n
    let s := s.looks (s.whoOf g) (tileVas (teBase e) rows n)
    let o := { MxOp.blank with kind := .ldt, d := d.val, off := w.sget b, tid := (w.sget a).setWidth 32, entry := e, shA := sh }
    s.enqueue s.cur w.wg g o fun s => s.modWg w.wg fun g =>
      (g.setMxr (0x040 + d.val) (setField (g.mxr (0x040 + d.val)) 31 16 (teDesc e))).setMxr (0x050 + d.val)
        (if f = 14 then BitVec.ofNat 64 (teAux e) else 0)

/-- Bytes from one tile row to the next in scratchpad, and of one row's scales (R393). -/
def ldsRow (sh : Word) : Nat := ((shCols sh * fmtBits (shFmt sh) + 7) / 8 + 15) / 16 * 16
def ldsScales (sh : Word) : Nat :=
  if fmtBlock (shFmt sh) then (4 * ((shCols sh + 16 * 2 ^ shBlock sh - 1) / (16 * 2 ^ shBlock sh)) + 15) / 16 * 16 else 0

/-- MX.LDS (R393). -/
def execMxLds (d : TReg) (a : SReg) (s : State) : Host.Outcome State Fault Refusal :=
  scalarOp s { reads := [a.val] } fun w g => do
    aligned (w.sget a) 16
    needTile g d
    let sh := g.mxr (0x040 + d.val)
    need (shRows sh != 0) badFormat
    let _ ← s.spCell g (w.sget a) (shRows sh * (ldsRow sh + ldsScales sh))
    s.enqueue s.cur w.wg g { MxOp.blank with kind := .lds, d := d.val, off := w.sget a, shA := sh } id

/-- MX.ZERO of a tile (R395). -/
def execMxZeroT (d : TReg) (s : State) : Host.Outcome State Fault Refusal :=
  scalarOp s {} fun w g => do
    needTile g d
    s.enqueue s.cur w.wg g { MxOp.blank with kind := .zeroT, d := d.val } id

/-- MODE of a cmode register (R386). -/
def cMode (x : Word) : Bool := bit x 62

/-- Q of a cmode register (R386). -/
def cQ (x : Word) : Nat := field x 61 0

/-- A cmode register's value (R386). -/
def cmodeWord (mode : Bool) (q : Nat) : Word := BitVec.ofNat 64 (mode.toNat * 2 ^ 62 + q % 2 ^ 62)

/-- MX.ZERO of an accumulator (R395). -/
def execMxZeroC (d : CReg) (s : State) : Host.Outcome State Fault Refusal :=
  scalarOp s {} fun w g => do
    needAcc g d
    s.enqueue s.cur w.wg g { MxOp.blank with kind := .zeroC, d := d.val } fun s =>
      s.modWg w.wg fun g => g.setMxr (0x060 + d.val) (cmodeWord (cMode (g.mxr (0x060 + d.val))) 0)

/-- MX.MODE (R395). -/
def execMxMode (d : CReg) (n : Fin 64) (s : State) : Host.Outcome State Fault Refusal :=
  scalarOp s {} fun w g => do
    need (decide (n.val ≤ 1)) illegal
    needAcc g d
    s.enqueue s.cur w.wg g { MxOp.blank with kind := .mode, d := d.val } fun s =>
      s.modWg w.wg fun g => g.setMxr (0x060 + d.val) (cmodeWord (n.val == 1) 0)

/-- The checks of a multiply, with the tile shapes and the modulus it takes (R396). -/
def mmaCheck (g : Workgroup) (d : CReg) (a b : TReg) : Except Stop (Word × Word × Word) := do
  needAcc g d
  needTile g a
  needTile g b
  let sa := g.mxr (0x040 + a.val)
  let sb := g.mxr (0x040 + b.val)
  let m := g.mxr (0x060 + d.val)
  need (shRows sa != 0 && shRows sb != 0) badFormat
  need (shFmt sa == shFmt sb && shCols sa == shRows sb) badFormat
  if shFmt sa = 14 then
    let q := g.mxr (0x050 + a.val)
    need (cMode m && q != 0 && g.mxr (0x050 + b.val) == q && decide (shCols sb ≤ 96)) badFormat
    need (cQ m == 0 || cQ m == q.toNat) badFormat
    return (sa, sb, q)
  else
    need (!cMode m && decide (shCols sb ≤ 192)) badFormat
    return (sa, sb, 0)

/-- A multiply enters the queue (R396); its modulus becomes the accumulator's at issue. -/
def State.queueMma (s : State) (wi wgi : Nat) (g : Workgroup) (d a b : Nat) (x : Word × Word × Word) :
    Except Stop State :=
  let o := { MxOp.blank with kind := .mma, d := d, a := a, b := b, shA := x.1, shB := x.2.1, mode := x.2.2 }
  s.enqueue wi wgi g o fun s =>
    if x.2.2 = 0 then s else s.modWg wgi fun g => g.setMxr (0x060 + d) (cmodeWord true x.2.2.toNat)

/-- MX.MMA (R396). -/
def execMxMma (d : CReg) (a b : TReg) (s : State) : Host.Outcome State Fault Refusal :=
  scalarOp s {} fun w g => do
    let x ← mmaCheck g d a b
    s.queueMma s.cur w.wg g d.val a.val b.val x

/-- MX.GANG (R226, R397). -/
def execMxGang (g n m : Fin 64) (s : State) : Host.Outcome State Fault Refusal :=
  scalarOp s {} fun w _ => do
    need (decide (g.val ≤ 3 ∧ 2 ≤ n.val ∧ n.val ≤ 6 ∧ m.val < n.val)) illegal
    let other (i : Nat) : Bool := match s.warp? i with
      | some x => i != s.cur && (match x.gang with
        | some y => y.g == g.val && (y.m == m.val || y.n != n.val)
        | none => false)
      | none => false
    need (!((s.warpsOf w.wg).any other)) gangMismatch
    let s := match w.gang with
      | some x => s.dissolve w.wg x.g
      | none => s
    return s.modWarp s.cur fun w => { w with gang := some { g := g.val, n := n.val, m := m.val, seq := 0 } }

/-- The arrivals of a gang at its latch (R226). -/
def Workgroup.latch (g : Workgroup) (gang : Nat) : List Arrival :=
  (g.arrivals.filter fun a => a.1 == gang && !a.2.bad).map fun a => a.2

/-- The rendezvous of a gang whose members have all arrived (R227): the multiply queued once and every member past its
instruction, or GANG_MISMATCH owed by each. -/
def State.rendezvous (s : State) (wgi gang : Nat) (l : List Arrival) : Except Stop State := do
  match l.getLast? with
  | none => return s
  | some x =>
    if l.all fun y => y.ops == x.ops then
      let s ← s.queueMma x.warp wgi (s.wg wgi) x.ops.1 x.ops.2.1 x.ops.2.2 x.shapes
      let s := s.modWg wgi fun g => { g with arrivals := g.arrivals.filter fun a => a.1 != gang || a.2.bad }
      return l.foldl (fun s y => s.modWarp y.warp fun w =>
        { w.advance with gang := w.gang.map fun z => { z with seq := z.seq + 1 } }) s
    else return s.modWg wgi fun g => { g with arrivals := g.arrivals.map fun a =>
        if a.1 = gang then (a.1, { a.2 with bad := true }) else a }

/-- A member that has arrived is still parked at its MX.MMAG, or is the one that issues (R227): one whose trap handler
runs is not (R228). -/
def State.atLatch (s : State) (x : Arrival) : Bool :=
  x.warp == s.cur || (match s.warp? x.warp with
    | some w => w.live && w.park == .latch
    | none => false)

/-- A gang is complete (R226, R227): as many members as it has have arrived, and all are at the latch. -/
def State.gangComplete (s : State) (n : Nat) (l : List Arrival) : Bool := decide (n ≤ l.length) && l.all s.atLatch

/-- MX.MMAG (R227, R228, R398): a member that has arrived waits in the latch until it completes or the gang is gone. -/
def execMxMmag (d : CReg) (a b : TReg) (s : State) : Host.Outcome State Fault Refusal :=
  controlOp s {} fun w g => do
    let here := g.arrivals.find? fun x => x.2.warp == s.cur
    if here.any fun x => x.2.bad then
      need (!s.midway s.cur { cause := 0x05 } w || w.trapVec == 0 || w.active) (.park .latch s)
      let t := s.modWg w.wg fun g => { g with arrivals := g.arrivals.filter fun y => y.2.warp != s.cur }
      .error (.late t gangMismatch)
    else
    match w.gang, here with
    | some z, some _ =>
      if s.gangComplete z.n (g.latch z.g) then s.rendezvous w.wg z.g (g.latch z.g)
      else .error (.park .latch s)
    | none, _ =>
      need (w.park != .latch) gangOrphan
      let _ ← mmaCheck g d a b
      .error gangOrphan
    | some z, none =>
      let x ← mmaCheck g d a b
      let y : Arrival := { warp := s.cur, m := z.m, seq := z.seq, ops := (d.val, a.val, b.val), shapes := x, bad := false }
      let t := (s.modWg w.wg fun g => { g with arrivals := g.arrivals ++ [(z.g, y)] }).modWarp s.cur fun w =>
        { w with park := .latch }
      let l := g.latch z.g ++ [y]
      if t.gangComplete z.n l then
        match t.rendezvous w.wg z.g l with
        | .ok t => return t
        | .error (.park _ t) => return t.modWarp s.cur fun w => { w with park := .latch }
        | .error e => .error e
      else return t

/-- The fields of dctl (R387). -/
structure Dctl where
  rows : Nat
  cols : Nat
  out : Nat
  raw : Bool
  src : Bool
  rnd : Nat
  sat : Bool
  resid : Bool
  drop : Bool
  add : Bool
  proj : Bool
  slot : Nat
  clear : Bool
  dropT : Nat
  deriving DecidableEq, Repr

/-- The fields of a dctl register. -/
def dctlOf (x : Word) : Dctl :=
  { rows := field x 47 40, cols := field x 39 32, out := field x 31 28, raw := bit x 27, src := bit x 26, rnd := field x 25 23
    sat := bit x 22, resid := bit x 21, drop := bit x 20, add := bit x 19, proj := bit x 18, slot := field x 17 17
    clear := bit x 16, dropT := field x 15 0 }

/-- The class a projecting drain sets (R406): 1 INT, 2 MOD64, 3 FLOAT, as the save slot names them (R435). -/
def projClass (mode : Bool) (c : Dctl) : Nat := if mode then 2 else if c.raw || fmtInt c.out then 1 else 3

/-- The control and format checks of a drain (R387, R399); RAW and SRC are ignored when MODE = 1. -/
def drainOk (c : Dctl) (x : Word) (mode : Bool) (q : Nat) (e : BitVec 512) (r : Option (BitVec 512)) : Bool :=
  let narrow := fmtNarrow c.out
  teFormat e == c.out && !teSparse e
    && (if mode then c.out == 14 else !(decide (6 ≤ c.out) && decide (c.out ≤ 9)) && c.out != 15)
    && field x 63 48 == 0 && decide (1 ≤ c.rows) && decide (c.rows ≤ 128) && decide (1 ≤ c.cols)
    && decide (c.cols ≤ (if mode then 96 else 192)) && decide (c.rnd ≤ 5)
    && (mode || !c.raw || (c.src && c.out == 12))
    && (!mode || (teAux e == q && c.rnd == 0 && !c.sat && !c.drop))
    && (!c.drop || mode || (!c.src && !c.raw)) && (!c.add || !fmtBlock c.out)
    && (c.rnd != 4 || narrow || c.out == 10 || c.out == 11) && (!c.sat || !narrow)
    && (match r with
      | some e => !teSparse e && (teFormat e != 14 || (mode && teAux e == q))
      | none => true)

/-- A projection slot of a workgroup. -/
def Workgroup.pslot (g : Workgroup) (i : Nat) : ProjSlot := g.slots.getD i {}

/-- A projection slot changed. -/
def Workgroup.setSlot (g : Workgroup) (i : Nat) (p : ProjSlot) : Workgroup :=
  { g with slots := if i = 0 then [p, g.pslot 1] else [g.pslot 0, p] }

/-- The operator kind of a certified workgroup's launch is GEMM (R417). -/
def State.isGemm (s : State) (g : Workgroup) : Bool :=
  g.cert && (match s.launch? g.launch with | some l => lrec l.record 62 1 % 8 == 0 | none => false)

/-- The TID of an input of a workgroup's launch record (R417). -/
def State.inputTid (s : State) (g : Workgroup) (i : Nat) : Nat :=
  match s.launch? g.launch with
  | some l => if i < lrec l.record 63 1 % 16 then lrec l.record (72 + 4 * i) 4 else 0
  | none => 0

/-- The witness record of a workgroup's launch. -/
def State.recordOf (s : State) (g : Workgroup) : Nat :=
  match s.launch? g.launch with
  | some l => l.witness.getD 0
  | none => 0

/-- The version rule of R409 for a drain whose destination starts on a kiln page: an output of the launch needs a slot
bound to it. -/
def State.projRule (s : State) (g : Workgroup) (c : Dctl) (e : BitVec 512) : Except Stop Unit := do
  need (!c.proj || s.isGemm g) (kilnAccess kState 0)
  if s.isGemm g then
    match ← s.tensorKiln (s.whoOf g) .mxDrain (teBase e) with
    | some page =>
      let id := s.recordOf g
      need (kWitness (s.kpage page) != id || id == 0 || (c.proj && (g.pslot c.slot).issued == id)) (kilnAccess kConfined 0)
    | none => .ok ()

/-- A certified launch's own rules for a drain (R102, R449): no dropout, the residual of a GEMM only INPUT2, scales
only where it may write. -/
def State.certDrain (s : State) (g : Workgroup) (c : Dctl) (e : BitVec 512) (dres : Word) (row0 col0 : Nat) :
    Except Stop Unit := do
  if g.cert then
    need (!c.drop) (kilnAccess kConfined 0)
    need (!c.resid || !s.isGemm g || (field dres 31 0 == s.inputTid g 2 && field dres 31 0 != 0)) (kilnAccess kConfined 0)
    if fmtBlock c.out then
      let n := 4 * ((c.cols + teBlock e - 1) / teBlock e)
      need ((List.range c.rows).all fun i =>
        s.inStack g ((teAux e + (row0 + i) * teAuxPitch e + 4 * (col0 / teBlock e)) % 2 ^ 64) n) (kilnAccess kConfined 0)

/-- Bytes of a row of `n` elements of `w` bits that starts at a byte. -/
def rowLen (n w : Nat) : Nat := (n * w + 7) / 8

/-- MX.DRAIN (R399). -/
def execMxDrain (d : CReg) (a b : SReg) (s : State) : Host.Outcome State Fault Refusal :=
  scalarOp s { reads := [a.val, b.val] } fun w g => do
    needAcc g d
    let x := g.mxr (0x064 + d.val)
    let c := dctlOf x
    let dres := g.mxr (0x068 + d.val)
    let land := g.mxr (0x06C + d.val)
    let cm := g.mxr (0x060 + d.val)
    let e ← s.needTid64 g (w.sget a)
    let r ← if c.resid then (s.needTid g (field dres 31 0)).map some else .ok none
    need (drainOk c x (cMode cm) (cQ cm) e r) badFormat
    let cls := projClass (cMode cm) c
    let slot := g.pslot c.slot
    need (!c.proj || slot.issued == 0 || slot.issuedCls == 0 || slot.issuedCls == cls) badFormat
    let (row0, xb) := tileOff e (w.sget b).toNat
    let width := fmtBits c.out
    need (xb % width == 0 && (!fmtBlock c.out || xb / width % teBlock e == 0)) (alignment (w.sget b))
    let re := r.getD 0
    let (rrow, rx) := tileOff re (field dres 63 32)
    need (r.isNone || rx % fmtBits (teFormat re) == 0) (alignment dres)
    need (land == 0 || field land 31 0 % 16 == 0) (alignment land)
    let rows := (List.range c.rows).map fun i => rowVa e (row0 + i) (xb / 8)
    let (loc, s) ← if g.cert && landIsGlobal land then .ok (.nowhere, s) else s.landOpt g land
    s.tileRows g .mxDrain true (teBase e) rows (rowLen c.cols width)
    let rrows := (List.range c.rows).map fun i => rowVa re (rrow + i) (rx / 8)
    let rn := rowLen c.cols (fmtBits (teFormat re))
    if r.isSome then
      s.tileRows g .mxFetch false (teBase re) rrows rn
    s.projRule g c e
    s.certDrain g c e dres row0 (xb / width)
    need (!g.cert || !landIsGlobal land) (kilnAccess kConfined land)
    let s := s.looks (s.whoOf g) (tileVas (teBase e) rows (rowLen c.cols width) ++
      if r.isSome then tileVas (teBase re) rrows rn else [])
    let rnd := if c.rnd = 5 then field w.arithCtl 18 16 else c.rnd
    let o := { MxOp.blank with kind := .drain, d := d.val, off := w.sget b, tid := (w.sget a).setWidth 32, entry := e
                               rtid := BitVec.ofNat 32 (field dres 31 0), rentry := re, mode := cm, dctl := x, dres := dres
                               dland := land, key := g.mxr 0x070, rnd := BitVec.ofNat 3 rnd }
    s.enqueue s.cur w.wg g o fun s =>
      let s := s.landUpdate g.core loc fun l =>
        l.post (rows.foldl (fun n va => n + sectorsOf va (rowLen c.cols width)) 0)
      if c.proj ∧ slot.issued ≠ 0 then
        s.modWg w.wg fun g => g.setSlot c.slot { g.pslot c.slot with issuedCls := cls }
      else s

/-- The kiln pages of a tensor's range, one for each 2 MiB of it; none where a leaf is not a kiln leaf or the range is
longer than any binding (R93, R378). -/
def State.kilnPages (s : State) (w : Who) (kind : AccKind) (e : BitVec 512) : Except Stop (Option (List Nat)) :=
  let b := (teBase e).toNat
  let n := (b % 2 ^ 21 + teSpan e) / 2 ^ 21 + 1
  if 8192 < n then .ok none
  else (List.range n).foldl (fun acc i => do
    match ← acc with
    | none => return none
    | some l =>
      let va := BitVec.ofNat 64 ((b / 2 ^ 21 + i) * 2 ^ 21)
      match s.leafAt w (if i = 0 then teBase e else va) with
      | .error f => .error (.fault (w.key kind va) f.reason f.level va)
      | .ok t => return if t.kiln then some (l ++ [t.pa / 2 ^ 21]) else none) (.ok (some []))

/-- The addresses whose leaves kilnPages looks up, in a range no longer than any binding. -/
def kilnVas (e : BitVec 512) : List Word :=
  let b := (teBase e).toNat
  let n := Nat.min 8192 ((b % 2 ^ 21 + teSpan e) / 2 ^ 21 + 1)
  (List.range n).map fun i => if i = 0 then teBase e else BitVec.ofNat 64 ((b / 2 ^ 21 + i) * 2 ^ 21)

/-- The range of a tensor is exactly one binding: its first page (R90, R405). -/
def State.bindingOf (s : State) (pages : Option (List Nat)) : Option Nat :=
  match pages with
  | some (p :: r) =>
    let e := s.kpage p
    if kSt e ≠ 0 ∧ kFirst e = p ∧ p :: r = (List.range (kCount e)).map (fun i => p + i) then some p else none
  | _ => none

/-- WIT.SEED (R405). -/
def execWitSeed (a : SReg) (s : State) : Host.Outcome State Fault Refusal :=
  scalarOp s { reads := [a.val] } fun w g => do
    let x := w.sget a
    need (field x 31 1 == 0) badFormat
    need (g.accs != 0) (regRange 3)
    need (s.isGemm g) (kilnAccess kState 0)
    let e ← s.needTid g (field x 63 32)
    let pages ← s.kilnPages (s.whoOf g) .mxDrain e
    let id := s.recordOf g
    match s.bindingOf pages with
    | some p => need (id != 0 && kWitness (s.kpage p) == id) (kilnAccess kState (teBase e))
    | none => .error (kilnAccess kState (teBase e))
    let i := field x 0 0
    let s := s.looks (s.whoOf g) (kilnVas e)
    s.enqueue s.cur w.wg g { MxOp.blank with kind := .seed, d := i, off := BitVec.ofNat 64 id } fun s =>
      s.modWg w.wg fun g => g.setSlot i { g.pslot i with issued := id, issuedCls := 0 }

/-- WIT.EMIT (R405). -/
def execWitEmit (a : SReg) (s : State) : Host.Outcome State Fault Refusal :=
  scalarOp s { reads := [a.val] } fun w g => do
    need (field (w.sget a) 63 1 == 0) badFormat
    s.enqueue s.cur w.wg g { MxOp.blank with kind := .emit, d := field (w.sget a) 0 0 } id

end Sys2Proof.Machine
end

