-- ==== Sys2Proof/Machine/MxQueue.lean ====
section
/-! DEFINITION. What an MX core does with the entries of its operand queue: tile loads, zeroing, multiplies, drains and
projection emits (R184-R207, R376-R411). -/

namespace Sys2Proof.Machine

/-- `n` bits from bit `b` of the stream that starts at a byte (R185). -/
def bitsGet (m : Tab Byte) (base b n : Nat) : Nat := readN m (base + b / 8) ((b % 8 + n + 7) / 8) / 2 ^ (b % 8) % 2 ^ n

/-- `n` bits written from bit `b` of the stream that starts at a byte (R185). -/
def bitsSet (m : Tab Byte) (base b n x : Nat) : Tab Byte :=
  let k := (b % 8 + n + 7) / 8
  let old := readN m (base + b / 8) k
  writeN m (base + b / 8) k
    (old % 2 ^ (b % 8) + x % 2 ^ n * 2 ^ (b % 8) + old / 2 ^ (b % 8 + n) * 2 ^ (b % 8 + n))

/-- The tile register of the MX core that a workgroup's tile stands in. -/
def Workgroup.tileKey (g : Workgroup) (t : Nat) : Nat := g.core * 16 + g.tileMap.getD t 0

/-- The accumulator of the MX core that a workgroup's accumulator stands in. -/
def Workgroup.accKey (g : Workgroup) (c : Nat) : Nat := g.core * 4 + g.accMap.getD c 0

/-- The number of a cell among those of all MX cores. -/
def Workgroup.cellKey (g : Workgroup) (c i j : Nat) : Nat := g.accKey c * 24576 + i * 192 + j

/-- A cell: 32 bits, or a pair of them when MODE = 1 (R386). -/
def State.cell (s : State) (g : Workgroup) (c : Nat) (mode : Bool) (i j : Nat) : Nat :=
  if mode then (Tab.get 0 s.mx.acc (g.cellKey c i (2 * j))).toNat
      + (Tab.get 0 s.mx.acc (g.cellKey c i (2 * j + 1))).toNat * 2 ^ 32
  else (Tab.get 0 s.mx.acc (g.cellKey c i j)).toNat

/-- A cell written in a table of accumulators. -/
def setCell (t : Tab (BitVec 32)) (g : Workgroup) (c : Nat) (mode : Bool) (i j x : Nat) : Tab (BitVec 32) :=
  if mode then Tab.set 0 (Tab.set 0 t (g.cellKey c i (2 * j)) (BitVec.ofNat 32 x)) (g.cellKey c i (2 * j + 1))
      (BitVec.ofNat 32 (x / 2 ^ 32))
  else Tab.set 0 t (g.cellKey c i j) (BitVec.ofNat 32 x)

/-- The poison of a cell. -/
def State.cellPoison (s : State) (g : Workgroup) (c : Nat) (mode : Bool) (i j : Nat) : Bool :=
  Tab.get false s.mx.accPoison (g.cellKey c i (if mode then 2 * j else j))

/-- An element's integer value (R191, R193). -/
def elemInt (f q code : Nat) : Int :=
  if f = 6 then signed 8 code else if f = 8 then signed 4 code else if f = 13 then signed 16 code
  else if f = 14 then (code % q : Nat) else if f = 15 then (if code % 2 = 1 then -1 else 1) else (code : Nat)

/-- An element's exact value (R187, R189, R191, R192). -/
def elemFp (f desc q scale code : Nat) : Fp :=
  if fmtNarrow f then
    match nfDesc (fmtBits f) desc with
    | some d => (if fmtBlock f then scaled scale (d.decode code) else d.decode code).fp
    | none => .fin false 0
  else if f = 10 then fmtF16.decode code else if f = 11 then fmtBf16.decode code else if f = 12 then fmtF32.decode code
  else fpOf false (elemInt f q code : Rat)

/-- An element of a tile: row `i`, column `k` of its shape. -/
def State.tileCode (s : State) (g : Workgroup) (t : Nat) (sh : Word) (i k : Nat) : Nat :=
  let w := fmtBits (shFmt sh)
  bitsGet s.mx.tile (g.tileKey t * 32768) (w * (i * shCols sh + k)) w

/-- The scale of an element of a tile (R391). -/
def State.tileScale (s : State) (g : Workgroup) (t : Nat) (sh : Word) (i k : Nat) : Nat :=
  let bl := 16 * 2 ^ shBlock sh
  (Tab.get 0 s.mx.scale (g.tileKey t * 4096 + i * (shCols sh / bl) + k / bl)).toNat

/-- The exact value of an element of a tile. -/
def State.tileFp (s : State) (g : Workgroup) (t : Nat) (sh : Word) (i k : Nat) : Fp :=
  elemFp (shFmt sh) (shDesc sh) 0 (s.tileScale g t sh i k) (s.tileCode g t sh i k)

/-- A row of a tile filled: its elements, its poison (R394). -/
def State.fillRow (s : State) (g : Workgroup) (t : Nat) (sh : Word) (i x : Nat) (poison : Bool) : State :=
  let w := fmtBits (shFmt sh) * shCols sh
  { s with mx := { s.mx with tile := bitsSet s.mx.tile (g.tileKey t * 32768) (w * i) w x
                             tilePoison := Tab.set false s.mx.tilePoison (g.tileKey t * 128 + i) poison } }

/-- The scales of a row of a tile filled from 32-bit words, of which bits [31:20] are ignored (R189, R391). -/
def State.fillScales (s : State) (g : Workgroup) (t : Nat) (sh : Word) (i x : Nat) : State :=
  let n := shCols sh / (16 * 2 ^ shBlock sh)
  { s with mx := { s.mx with scale := (List.range n).foldl (fun m b =>
      Tab.set 0 m (g.tileKey t * 4096 + i * n + b) (BitVec.ofNat 20 (x / 2 ^ (32 * b)))) s.mx.scale } }

/-- Stored values put in place by their 2:4 indices, `nib` the index of the first group in its low bits (R392): the row,
and whether a group held idx0 ≥ idx1. -/
def unsparse (w st nib : Nat) : Nat → Nat × Bool
  | 0 => (0, false)
  | n + 1 =>
    let (row, bad) := unsparse w st nib n
    let x := nib / 16 ^ n % 16
    let at' (k i : Nat) : Nat := st / 2 ^ (w * (2 * n + k)) % 2 ^ w * 2 ^ (w * (4 * n + i))
    if x % 4 < x / 4 then (row + at' 0 (x % 4) + at' 1 (x / 4), bad) else (row, true)

/-- The identity of an MX core's accesses: its package cluster is the one bonded above the VS cluster (R47). -/
def State.mxWho (s : State) (o : MxOp) : Who :=
  let g := s.wg o.wg
  { ctx := o.ctx, src := 64 + clusterOf o.core, hold := if g.cert then g.launch + 1 else 0 }

/-- mx_stat.META as it stands in an entry's status: STICKY's own bit (R389, R434). -/
def stMeta : BitVec 16 := 0x4000

/-- What an MX core does after a part of an entry. -/
inductive MxNext where
  /-- the entry goes on -/
  | more (o : MxOp)
  /-- a response is still to come -/
  | wait
  /-- the entry has been performed -/
  | finish (o : MxOp)
  deriving DecidableEq, Repr

/-- The next row of a tile load (R378, R391, R392, R394). -/
def State.ldtRow (s : State) (o : MxOp) : Except Stop (MxNext × State) := do
  let g := s.wg o.wg
  let e := o.entry
  let sh := o.shA
  if shRows sh ≤ o.done then return (.finish o, s)
  let w := fmtBits (shFmt sh)
  let (row0, x) := tileOff e o.off.toNat
  let row := row0 + o.done
  let sp := teSparse e
  let stored := if sp then shCols sh / 2 else shCols sh
  let col0 := x / w * (if sp then 2 else 1)
  let who := s.mxWho o
  let read (s : State) (tid : Bool) (a n : Nat) :=
    s.engRead who o.id o.core .mxFetch tid (some who.src) false (pageParts (a % 2 ^ 64) n) {}
  let (d, s) ← read s true (rowVa e row (x / 8)) (rowLen stored w)
  let g0 := col0 / 4
  let groups := shCols sh / 4
  let (m, s) ← if sp then read s false (teMeta e + row * teAuxPitch e + g0 / 2) ((g0 + groups - 1) / 2 - g0 / 2 + 1)
    else .ok (({} : EngData), s)
  let bl := teBlock e
  let (c, s) ← if fmtBlock (shFmt sh) then read s false (teAux e + row * teAuxPitch e + 4 * (col0 / bl)) (4 * (shCols sh / bl))
    else .ok (({} : EngData), s)
  if d.wait || m.wait || c.wait then return (.wait, s)
  let s := s.engHostDone o.id
  let (bits, bad) := if sp then unsparse w d.x (m.x / 16 ^ (g0 % 2)) groups else (d.x % 2 ^ (w * stored), false)
  let poison := !(d.poison.isEmpty && m.poison.isEmpty && c.poison.isEmpty)
  let s := s.fillRow g o.d sh o.done bits poison
  let s := if fmtBlock (shFmt sh) then s.fillScales g o.d sh o.done c.x else s
  let st := (if poison then stPoison else 0) ||| (if bad then stMeta else 0)
  return (.more { o with done := o.done + 1, status := o.status ||| st }, s)

/-- The next row of a tile load from scratchpad (R393, R394). -/
def State.ldsRowLoad (s : State) (o : MxOp) : Except Stop (MxNext × State) := do
  let g := s.wg o.wg
  let sh := o.shA
  if shRows sh ≤ o.done then return (.finish o, s)
  let c ← s.spCell g o.off (shRows sh * (ldsRow sh + ldsScales sh))
  let a := c + o.done * ldsRow sh
  let b := c + shRows sh * ldsRow sh + o.done * ldsScales sh
  let w := fmtBits (shFmt sh) * shCols sh
  let poison := s.mem.spPoisoned a ((w + 7) / 8) || (ldsScales sh != 0 && s.mem.spPoisoned b (ldsScales sh))
  let s := s.fillRow g o.d sh o.done (readN s.mem.sp a ((w + 7) / 8)) poison
  let s := if fmtBlock (shFmt sh) then s.fillScales g o.d sh o.done (readN s.mem.sp b (ldsScales sh)) else s
  return (.more { o with done := o.done + 1, status := o.status ||| (if poison then stPoison else 0) }, s)

/-- A tile's elements and scales zeroed (R395). -/
def State.zeroTile (s : State) (key : Nat) : State :=
  { s with mx := { s.mx with tile := Tab.fill 0 s.mx.tile (key * 32768) 32768 0
                             scale := Tab.fill 0 s.mx.scale (key * 4096) 4096 0
                             tilePoison := Tab.fill false s.mx.tilePoison (key * 128) 128 false } }

/-- An accumulator's cells zeroed (R395). -/
def State.zeroAcc (s : State) (key : Nat) : State :=
  { s with mx := { s.mx with acc := Tab.fill 0 s.mx.acc (key * 24576) 24576 0
                             accPoison := Tab.fill false s.mx.accPoison (key * 24576) 24576 false } }

/-- The magnitude of a finite value. -/
def Fp.mag : Fp → Rat
  | .fin _ x => x
  | _ => 0

/-- A finite value with its sign; 0 for another. -/
def Fp.rat : Fp → Rat
  | .fin n x => signedRat n x
  | _ => 0

/-- The sum of a list of values. -/
def ratSum (l : List Rat) : Rat := l.foldl (· + ·) 0

/-- The sums of up to 128 terms each, in order (R205). -/
def chunkSums : Nat → List Rat → List Rat
  | 0, _ => []
  | f + 1, l => if l.isEmpty then [] else ratSum (l.take 128) :: chunkSums f (l.drop 128)

/-- R205's bound on the error of a cell, for the values that enter its sum and the sums formed from them: its last term
applies only where one of these is subnormal. -/
def mmaBound (products sums : List Rat) (cin : Rat) : Rat :=
  let chunks : Rat := ((products.length + 127) / 128 + 1 : Nat)
  let mag (x : Rat) : Rat := if x < 0 then -x else x
  let tiny := (cin :: products ++ sums).any fun x => x ≠ 0 ∧ mag x < pow2 (-126)
  pow2 (-23) * chunks * (ratSum (products.map mag) + mag cin) + (if tiny then chunks * pow2 (-149) else 0)

/-- Some order of summing may leave the finite range of FP32 (R205). -/
def mayOverflow (l : List Rat) : Bool :=
  let top := pow2 128 - pow2 104
  decide (top < ratSum (l.filter fun x => 0 < x)) || decide (ratSum (l.filter fun x => x < 0) < -top)

/-- A floating cell (R205, R206). The candidate is what the device's order of summing gives: it stands where R205 allows
it, and where partial sums may leave the finite range; elsewhere the sum rounded once (entry 15). -/
def floatCell (free : BitVec 32) (terms : List (Fp × Fp)) (cin : Fp) : Nat :=
  let products := terms.map fun t => (fpMul t.1 t.2).1
  match products.foldl (fun a p => (fpAdd .rne a p).1) cin with
  | .nan _ => fmtF32.nanCode
  | .inf n => fmtF32.infCode n
  | .fin neg x =>
    let r := (fmtF32.round .rne false neg x).1
    let ps := products.map Fp.rat
    let cand := fmtF32.decode free.toNat
    if r = fmtF32.infCode neg then r
    else if mayOverflow (cin.rat :: ps) then (if cand.isNan then fmtF32.nanCode else free.toNat)
    else match cand with
      | .fin n y =>
        let e := signedRat n y - signedRat neg x
        if (if e < 0 then -e else e) ≤ mmaBound ps (signedRat neg x :: chunkSums ps.length ps) cin.rat then free.toNat else r
      | _ => r

/-- A cell of an integer or modular multiply (R207). -/
def intCell (f q : Nat) (terms : List (Nat × Nat)) (cin : Nat) : Nat :=
  let sum := terms.foldl (fun (a : Int) t => a + elemInt f q t.1 * elemInt f q t.2) 0
  if f = 14 then ((cin : Int) + sum).toNat % q else truncI 32 (signed 32 cin + sum)

/-- c += A · B over the window (R396); poison spreads to every cell it feeds. -/
def State.multiply (s : State) (o : MxOp) : State :=
  let g := s.wg o.wg
  let (sa, sb) := (o.shA, o.shB)
  let (rows, mid, cols) := (shRows sa, shCols sa, shCols sb)
  let f := shFmt sa
  let q := o.mode.toNat
  let mode := f == 14
  let ks := List.range mid
  let bPoison := ks.any fun k => Tab.get false s.mx.tilePoison (g.tileKey o.b * 128 + k)
  let cell (i j : Nat) : Nat :=
    let cin := s.cell g o.d mode i j
    if fmtFloat f then
      floatCell (Config.mmaCell (s.freeCtr + i * cols + j)) (ks.map fun k => (s.tileFp g o.a sa i k, s.tileFp g o.b sb k j))
        (fmtF32.decode cin)
    else intCell f q (ks.map fun k => (s.tileCode g o.a sa i k, s.tileCode g o.b sb k j)) cin
  let acc := (List.range rows).foldl (fun t i => (List.range cols).foldl (fun t j =>
    setCell t g o.d mode i j (cell i j)) t) s.mx.acc
  let poison := (List.range rows).foldl (fun t i =>
    if bPoison || Tab.get false s.mx.tilePoison (g.tileKey o.a * 128 + i) then
      (List.range cols).foldl (fun t j => Tab.set false t (g.cellKey o.d i (if mode then 2 * j else j)) true) t
    else t) s.mx.accPoison
  { s with freeCtr := s.freeCtr + (if fmtFloat f then rows * cols else 0), mx := { s.mx with acc := acc, accPoison := poison } }

/-- The smallest BS20 scale of at least `y`, from 0x0_0001 to 0xF_FFFE (R190). -/
def scaleAtLeast (y : Rat) : Nat :=
  if y ≤ pow2 (-127) then 1
  else
    let e := log2Floor y
    let m := -ratFloor (-((y / pow2 e - 1) * 4096))
    Nat.min 0xFFFFE ((e + 127) * 4096 + m).toNat

/-- The scale of a block (R190). -/
def blockScale (d : NfDesc) (vs : List Fp) : Nat :=
  if vs.any Fp.isNan then 0xFFFFF
  else if vs.any fun v => (match v with | .inf _ => true | _ => false) then 0xFFFFE
  else
    let top := vs.foldl (fun (m : Rat) v => if m < v.mag then v.mag else m) 0
    if top = 0 then 0 else scaleAtLeast (top / d.limit)

/-- A value under a block's scale converted (R190, R198); a signalling NaN raises NV as everywhere (R192). -/
def underScale (d : NfDesc) (md : Mode) (scale : Nat) (v : Fp) : Nat × Nat :=
  match unscaled scale v with
  | some y => d.convert md y
  | none => (0, sigFlag [v])

/-- A whole number of a value. -/
def Fp.whole : Fp → Option Int
  | .fin n x => if x.den = 1 then some (if n then -x.num else x.num) else none
  | _ => none

/-- The code a drain writes for a value, with its flags (R198, R400); a block format takes its block's scale. Where
the spec states no residue or 32-bit integer for a value, or no conversion into MOD64 (OUT = 14 with MODE = 0), `free`
stands (entries 4 and 42). -/
def drainCode (c : Dctl) (mode : Bool) (q desc scale : Nat) (md : Mode) (free : Nat) (v : Fp) : Nat × Nat :=
  if mode then (match v.whole with | some x => (x % (q : Int)).toNat | none => free % q, 0)
  else if c.raw then (match v.whole with | some x => truncI 32 x | none => free % 2 ^ 32, 0)
  else if fmtNarrow c.out then
    match nfDesc (fmtBits c.out) desc with
    | some d => if fmtBlock c.out then underScale d md scale v else d.convert md v
    | none => (0, 0)
  else if c.out = 10 then fmtF16.finish md c.sat v
  else if c.out = 11 then fmtBf16.finish md c.sat v
  else if c.out = 12 then fmtF32.finish md c.sat v
  else if c.out = 14 then (free % 2 ^ 64, 0)
  else match c.src, v.whole with
    | true, some x => (truncI 16 (if c.sat then (if x < -32768 then -32768 else if 32767 < x then 32767 else x) else x), 0)
    | _, _ =>
      let (x, fl) := fpToInt md (-32768) 32767 v
      (truncI 16 x, fl)

/-- The value a written code stands for, for the projection (R406), and for the old element of an ADD drain (R400). -/
def drainDecode (c : Dctl) (mode : Bool) (q desc scale code : Nat) : Fp :=
  if !mode && c.raw then fpOf false (signed 32 code : Rat)
  else elemFp c.out desc q scale code

/-- An element's value before it is converted, with the flags that forming it raises (R192, R400). -/
def drainValue (c : Dctl) (mode : Bool) (key ctr : Word) (cell : Nat) (res old : Option Fp) : Fp × Nat :=
  let v := if mode then fpOf false (cell : Rat) else if c.src then fpOf false (signed 32 cell : Rat) else fmtF32.decode cell
  let add (v : Fp × Nat) (x : Option Fp) : Fp × Nat := match x with
    | some r => ((fpAdd .rne v.1 r).1, v.2 ||| (fpAdd .rne v.1 r).2)
    | none => v
  let v := add (v, 0) res
  let v := if c.drop && !mode then
      (if (ch64 key ctr).toNat % 2 ^ 16 < c.dropT then (.fin false 0, v.2)
       else
        let m := fpMul v.1 (.fin false (65536 / ((65536 - c.dropT : Nat) : Rat)))
        (m.1, v.2 ||| m.2))
    else v
  add v old

/-- The seed `p` of a witness record's epoch (R442). -/
def State.seedOf (s : State) (id p : Nat) : Word :=
  match s.record? id with
  | some r => Tab.get 0 s.cert.seeds (2 * recGet r 12 4 + p)
  | none => 0

/-- The unit 2^−320 of a FLOAT entry (R407). -/
def projUnit : Rat := pow2 320

/-- A projection term added to a slot's sum `p` of a row (R406); a term or a sum of a FLOAT entry that is no multiple of
2^−320 or leaves the range makes the entry UNREP (R407). -/
def ProjSlot.term (t : ProjSlot) (seed : Word) (row p col : Nat) (x : Fp) : ProjSlot :=
  let k := 2 * (row - t.window.getD 0) + p
  let r := wr16 seed col
  let old := Tab.get 0 t.sums k
  let spoil : ProjSlot := { t with unrep := if t.unrep.contains k then t.unrep else t.unrep ++ [k] }
  if t.cls = 3 then
    match x with
    | .fin n y =>
      let z := signedRat n y * (r : Rat) * projUnit
      let v := old + z.num
      let inRange (i : Int) : Bool := decide (-(2 ^ 503 : Int) ≤ i ∧ i < 2 ^ 503)
      if z.den = 1 ∧ inRange z.num ∧ inRange v then { t with sums := Tab.set 0 t.sums k v } else spoil
    | _ => spoil
  else
    match x.whole with
    | some y =>
      let v := old + y * r
      { t with sums := Tab.set 0 t.sums k (if t.cls = 2 then v % (t.q : Int) else v % 2 ^ 32) }
    | none => spoil

/-- The bytes of a projection entry of a class (R406). -/
def entryBytes (cls : Nat) : Nat := if cls = 3 then 64 else if cls = 2 then 8 else 4

/-- Where the entry of a row and projection stands in a record's value region (R404); none for a record that has no
region. -/
def State.entryAt (s : State) (id cls row p : Nat) : Option Nat :=
  let r := Tab.get (0, 0) s.cert.regions id
  let k := (2 * row + p) * entryBytes cls
  if k + entryBytes cls ≤ r.2 then some (r.1 + k) else none

/-- The sum that an entry holds (R407). -/
def entrySum (cls x : Nat) : Int := if cls = 3 then signed 504 (x % 2 ^ 504) else x

/-- An entry is UNREP (R407). -/
def entryUnrep (cls x : Nat) : Bool := cls == 3 && x.testBit 504

/-- An entry with a partial sum of its class added, or with UNREP set where the sum leaves the range or the part is
UNREP (R406-R408). -/
def entryAdd (cls q x : Nat) (add : Int) (unrep : Bool) : Nat :=
  let v := entrySum cls x + add
  if cls = 3 then
    if unrep ∨ entryUnrep cls x ∨ v < -(2 ^ 503 : Int) ∨ (2 ^ 503 : Int) ≤ v then x % 2 ^ 504 + 2 ^ 504 else truncI 504 v
  else if cls = 2 then (v % (q : Int)).toNat
  else truncI 32 v

/-- A slot's sums added into its region and zeroed, its window unset (R408). -/
def State.emitSlot (s : State) (gi i : Nat) : State :=
  let t := (s.wg gi).pslot i
  if t.bound = 0 then s
  else
    let w := t.window.getD 0
    let s := ((t.sums.map (·.1) ++ t.unrep).eraseDups).foldl (fun s k =>
      match s.entryAt t.bound t.cls (w + k / 2) (k % 2) with
      | some a => s.writePa a (entryBytes t.cls)
          (entryAdd t.cls t.q (s.readDev a (entryBytes t.cls)) (Tab.get 0 t.sums k) (t.unrep.contains k)) (s.wg gi).core
      | none => s) s
    let classes := if Tab.get 0 s.cert.classes t.bound = 0 then Tab.set 0 s.cert.classes t.bound t.cls else s.cert.classes
    let s := { s with cert := { s.cert with classes := classes } }
    s.modWg gi fun g => g.setSlot i { t with window := none, sums := [], unrep := [] }

/-- A projecting drain begins: its slot's class, and an emit where its rows leave the window (R406, R408). -/
def State.beginProj (s : State) (o : MxOp) (c : Dctl) (row0 : Nat) : State :=
  let t := (s.wg o.wg).pslot c.slot
  if !c.proj || t.bound == 0 then s
  else
    let inside := match t.window with | some w => decide (w ≤ row0 ∧ row0 + c.rows ≤ w + 128) | none => false
    let s := if inside then s else s.emitSlot o.wg c.slot
    s.modWg o.wg fun g =>
      let t := g.pslot c.slot
      g.setSlot c.slot { t with window := if inside then t.window else some row0
                                cls := if t.cls = 0 then projClass (cMode o.mode) c else t.cls
                                q := if cMode o.mode then cQ o.mode else t.q }

/-- What a drain has formed for the elements that begin in a segment. -/
structure Formed where
  bits : Nat := 0
  flags : Nat := 0
  poison : Bool := false
  bad : List (Nat × Nat) := []
  scales : List Nat := []
  slot : ProjSlot := {}

/-- What the elements of a drained row are formed from. -/
structure DrainRow where
  c : Dctl
  mode : Bool
  q : Nat
  desc : Nat
  w : Nat
  /-- the row's first logical column and its tensor row -/
  col0 : Nat
  row : Nat
  /-- 8 × VA of the tensor row -/
  ctr0 : Nat
  key : Word
  rnd : Nat
  seeds : Word × Word
  cell : Nat → Nat
  cellBad : Nat → Bool
  res : Nat → Option Fp
  resBad : Nat → Bool
  old : Nat → Option Fp
  oldBad : Nat → Bool
  free : Nat → Nat

/-- The counter of an element's draws (R400). -/
def DrainRow.ctr (d : DrainRow) (j : Nat) : Word := BitVec.ofNat 64 (d.ctr0 + d.w * (d.col0 + j))

/-- An element's value. -/
def DrainRow.value (d : DrainRow) (j : Nat) : Fp × Nat := drainValue d.c d.mode d.key (d.ctr j) (d.cell j) (d.res j) (d.old j)

/-- An element's rounding mode (R400). -/
def DrainRow.roundMode (d : DrainRow) (j : Nat) : Mode :=
  if d.rnd = 4 then .sr ((ch64 (d.key ^^^ BitVec.allOnes 64) (d.ctr j)).toNat % 2 ^ 16) else modeOf d.rnd

/-- One element formed under a scale, its bit 0 at bit `w * (j - c0)` of what is formed. -/
def DrainRow.element (d : DrainRow) (scale c0 : Nat) (a : Formed) (j : Nat) : Formed :=
  let v := d.value j
  let (code, fl) := drainCode d.c d.mode d.q d.desc scale (d.roundMode j) (d.free j) v.1
  let bad := d.cellBad j || d.resBad j || d.oldBad j
  let slot := if a.slot.bound = 0 then a.slot
    else
      let x := drainDecode d.c d.mode d.q d.desc scale code
      let x := match d.old j with | some y => (fpAdd .rne x y.negate).1 | none => x
      (a.slot.term d.seeds.1 d.row 0 (d.col0 + j) x).term d.seeds.2 d.row 1 (d.col0 + j) x
  { a with bits := a.bits + code * 2 ^ (d.w * (j - c0)), flags := a.flags ||| v.2 ||| fl, poison := a.poison || bad, slot := slot
           bad := if bad then a.bad ++ [(d.w * j / 8, (d.w * j + d.w + 7) / 8 - d.w * j / 8)] else a.bad }

/-- The elements of columns [c0, c1) formed, unit by unit: a block, or one element. -/
def DrainRow.form (d : DrainRow) (u c0 c1 : Nat) (slot : ProjSlot) : Formed :=
  (List.range ((c1 - c0 + u - 1) / u)).foldl (fun a k =>
    let lo := c0 + k * u
    let js := (List.range (Nat.min u (c1 - lo))).map fun i => lo + i
    let scale := if fmtBlock d.c.out then
        match nfDesc (fmtBits d.c.out) d.desc with
        | some n => blockScale n (js.map fun j => (d.value j).1)
        | none => 0
      else 0
    let a := { a with scales := a.scales ++ [scale] }
    js.foldl (d.element scale c0) a) { slot := slot }

/-- The places that bytes by VA lie in, in the pages they lie in, once all of them can be written now. -/
def State.mxPlaces (s : State) (w : Who) (id : Nat) (tid : Bool) : List (Nat × Nat) → Except Stop (List (Trans × Nat) × State)
  | [] => .ok ([], s)
  | (a, n) :: rest => do
    let (t, s) ← s.translate w .mxDrain .w tid (BitVec.ofNat 64 a)
    let s ← s.engReady id n (.mem t)
    let (l, s) ← s.mxPlaces w id tid rest
    return ((t, n) :: l, s)

/-- Bytes written at places, the first at the low end. -/
def State.mxWrite (s : State) (core : Nat) (d : EngData) (l : List (Trans × Nat)) : State :=
  (l.foldl (fun (x : State × Nat) p => (x.1.engWriteAt core p.1 (d.part x.2 p.2) false, x.2 + p.2)) (s, 0)).1

/-- A segment of a drain (R402): `m` bytes of row `row` from byte `off` of the row, in one line. -/
structure DrainAt where
  row : Nat
  off : Nat
  /-- address of the row's first drained byte, and the row's length -/
  va : Nat
  len : Nat
  m : Nat
  deriving DecidableEq, Repr

/-- The address of a segment. -/
def DrainAt.at (d : DrainAt) : Nat := d.va + d.off

/-- The segments of a row of `len` bytes at an address, in `k` lines at most. -/
def rowSegments (row va len : Nat) : Nat → Nat → List DrainAt
  | 0, _ => []
  | k + 1, off =>
    if len ≤ off then []
    else
      let m := Nat.min (len - off) (128 - (va + off) % 128)
      { row := row, off := off, va := va, len := len, m := m } :: rowSegments row va len k (off + m)

/-- A segment put among those in ascending address order, behind those at its own address. -/
def segInsert (d : DrainAt) : List DrainAt → List DrainAt
  | [] => [d]
  | x :: l => if d.at < x.at then d :: x :: l else x :: segInsert d l

/-- The segments of a drain in the order they are written (R399, R402): ascending by address, and row by row with
PITCH = 0. Of two rows' segments at one address the lower row's goes first (DEDUCED, entry 65). -/
def drainSegments (o : MxOp) : List DrainAt :=
  let c := dctlOf o.dctl
  let (row0, x) := tileOff o.entry o.off.toNat
  let len := rowLen c.cols (fmtBits c.out)
  let l := (List.range c.rows).flatMap fun i => rowSegments i (rowVa o.entry (row0 + i) (x / 8)) len (len / 128 + 2) 0
  if tePitch o.entry = 0 ∨ len ≤ tePitch o.entry then l else l.foldl (fun a d => segInsert d a) []

/-- The residual of a drained row for columns [c0, c1): its bytes from a byte of the row, and its scales (R400). -/
def State.residual (s : State) (o : MxOp) (c : Dctl) (i c0 c1 : Nat) : Except Stop (EngData × EngData × State) := do
  if !c.resid || c1 ≤ c0 then return ({}, {}, s)
  let e := o.rentry
  let w := fmtBits (teFormat e)
  let (row0, x) := tileOff e (field o.dres 63 32)
  let lo := w * c0 / 8
  let who := s.mxWho o
  let mx := some who.src
  let (d, s) ← s.engRead who o.id o.core .mxFetch true mx false (pageParts (rowVa e (row0 + i) (x / 8 + lo)) ((w * c1 + 7) / 8 - lo)) {}
  let first := (x / w + c0) / teBlock e
  let (b, s) ← if fmtBlock (teFormat e) then
      s.engRead who o.id o.core .mxFetch false mx false (pageParts ((teAux e + (row0 + i) * teAuxPitch e + 4 * first) % 2 ^ 64)
        (4 * ((x / w + c1 - 1) / teBlock e - first + 1))) {}
    else .ok (({} : EngData), s)
  return (d, b, s)

/-- The bytes of a drained row that a step writes, as offsets from the row's start: those of its segment, or with ADD = 1
the whole elements that begin in it, so that each is updated in one step (R402). -/
def drainSpan (c : Dctl) (w : Nat) (d : DrainAt) (c0 c1 : Nat) : Nat × Nat :=
  if c.add then (if c0 < c1 then (w * c0 / 8, (w * c1 + 7) / 8) else (d.off, d.off)) else (d.off, d.off + d.m)

/-- The next segment of a drain (R399-R403). Nothing is changed before all it reads has come and all it writes can be
written. -/
def State.drainSegment (s : State) (o : MxOp) : Except Stop (MxNext × State) := do
  let c := dctlOf o.dctl
  let e := o.entry
  match (drainSegments o)[o.done]? with
  | none => return (.finish o, s)
  | some d =>
  let g := s.wg o.wg
  let mode := cMode o.mode
  let (row0, x) := tileOff e o.off.toNat
  let w := fmtBits c.out
  let (loc, s) ← s.landAt o.wg o.ctx o.core o.dland (s.mxWho o) .mxDrain
  let who := s.mxWho o
  let u := if fmtBlock c.out then teBlock e else 1
  let k0 := (8 * d.off + u * w - 1) / (u * w)
  let k1 := Nat.min ((c.cols + u - 1) / u) ((8 * (d.off + d.m) + u * w - 1) / (u * w))
  let c0 := Nat.min (k0 * u) c.cols
  let c1 := Nat.min (k1 * u) c.cols
  let (rd, rs, s) ← s.residual o c d.row c0 c1
  let (lo, hi) := drainSpan c w d c0 c1
  let parts := if lo < hi then pageParts ((d.va + lo) % 2 ^ 64) (hi - lo) else []
  let (places, s) ← s.mxPlaces who o.id true parts
  let have' := Nat.min (8 * (hi - lo)) ((if c.add then w * c1 else w * c.cols) - 8 * lo)
  let (old, s) := if !c.add && have' == 8 * (hi - lo) then (({} : EngData), s)
    else places.foldl (fun (a : EngData × State) p =>
      let (b, s) := a.2.engReadAt o.id o.core p.1 none p.2 0 p.2 {}
      (a.1.append b, s)) (({} : EngData), s)
  let scaleAt := (teAux e + (row0 + d.row) * teAuxPitch e + 4 * (x / w / u + k0)) % 2 ^ 64
  let (scales, s) ← if fmtBlock c.out && decide (k0 < k1) then s.mxPlaces who o.id false (pageParts scaleAt (4 * (k1 - k0)))
    else .ok ([], s)
  if rd.wait || rs.wait || old.wait then return (.wait, s)
  let s := s.engHostDone o.id
  let s := if o.done = 0 then s.beginProj o c row0 else s
  let re := o.rentry
  let rw := fmtBits (teFormat re)
  let rlo := rw * c0 / 8
  let rcol := (tileOff re (field o.dres 63 32)).2 / rw
  let rblk (j : Nat) : Nat := (rcol + j) / teBlock re - (rcol + c0) / teBlock re
  let row : DrainRow :=
    { c := c, mode := mode, q := cQ o.mode, desc := teDesc e, w := w, col0 := x / w, row := row0 + d.row
      ctr0 := 8 * rowVa e (row0 + d.row) 0, key := o.key, rnd := o.rnd.toNat
      seeds := (s.seedOf ((s.wg o.wg).pslot c.slot).bound 0, s.seedOf ((s.wg o.wg).pslot c.slot).bound 1)
      cell := fun j => s.cell g o.d mode d.row j, cellBad := fun j => s.cellPoison g o.d mode d.row j
      res := fun j => if c.resid then some (elemFp (teFormat re) (teDesc re) (teAux re) (rs.x / 2 ^ (32 * rblk j))
          (rd.x / 2 ^ (rw * j - 8 * rlo) % 2 ^ rw)) else none
      resBad := fun j => c.resid && (runsMeet rd.poison (rw * j / 8 - rlo) ((rw * j + rw + 7) / 8 - rw * j / 8)
        || runsMeet rs.poison (4 * rblk j) 4)
      old := fun j => if c.add then some (drainDecode c mode (cQ o.mode) (teDesc e) 0 (old.x / 2 ^ (w * j - 8 * lo) % 2 ^ w)) else none
      oldBad := fun j => c.add && runsMeet old.poison (w * j / 8 - lo) ((w * j + w + 7) / 8 - w * j / 8)
      free := fun j => (Config.freeWord (s.freeCtr + j)).toNat }
  let f := row.form u c0 c1 (if c.proj then (s.wg o.wg).pslot c.slot else {})
  let s := { s with freeCtr := s.freeCtr + c.cols }
  let s := if scales.isEmpty then s
    else s.mxWrite o.core { len := 4 * (k1 - k0), x := f.scales.foldr (fun v acc => v + 2 ^ 32 * acc) 0 } scales
  let first := w * c0 - 8 * lo
  let kept := if c.add then old.x % 2 ^ first else Tab.get 0 o.carry d.row
  let stream := kept + f.bits * 2 ^ first
  let data := stream % 2 ^ have' + old.x / 2 ^ have' * 2 ^ have'
  let bad := Tab.get [] o.bad d.row ++ f.bad
  let here := (bad.filter fun r => overlaps r.1 r.2 lo (hi - lo)).map fun r =>
    (Nat.max r.1 lo - lo, Nat.min (r.1 + r.2) hi - Nat.max r.1 lo)
  let s := s.mxWrite o.core { len := hi - lo, x := data, poison := here } places
  let s := if c.proj then s.modWg o.wg fun g => (if f.slot.bound = 0 then g else g.setSlot c.slot f.slot) else s
  let s := if c.clear then
      let cs := (List.range (c1 - c0)).map fun i => c0 + i
      { s with mx := { s.mx with acc := cs.foldl (fun m j => setCell m g o.d mode d.row j 0) s.mx.acc
                                 accPoison := cs.foldl (fun m j =>
                                   Tab.set false m (g.cellKey o.d d.row (if mode then 2 * j else j)) false) s.mx.accPoison } }
    else s
  let landed := landedBy d.va d.len (d.off + d.m) - landedBy d.va d.len d.off
  let s := if landed = 0 then s else s.landSectors o.core loc landed
  let st := BitVec.ofNat 16 (f.flags % 32 * 2 ^ 9) ||| (if f.poison then stPoison else 0)
  let carry := if c.add then 0 else stream / 2 ^ (8 * d.m)
  return (.more { o with status := o.status ||| st, done := o.done + 1, carry := Tab.set 0 o.carry d.row carry
                         bad := Tab.set [] o.bad d.row bad }, s)

/-- A segment that an abandoned drain writes as poisoned (R411, R462). -/
def State.spoilSegment (s : State) (o : MxOp) : Except Stop (MxNext × State) := do
  match (drainSegments o)[o.done]? with
  | none => return (.finish { o with status := o.status ||| stPoison }, s)
  | some d =>
    let (t, s) ← s.translate (s.mxWho o) .mxDrain .w true (BitVec.ofNat 64 d.at)
    let s ← s.engReady o.id d.m (.mem t)
    return (.more { o with done := o.done + 1 }, s.engWriteAt o.core t { len := d.m } true)

/-- A projection slot bound (R405): what it holds is emitted first. -/
def State.bindSlot (s : State) (o : MxOp) : State :=
  let s := s.emitSlot o.wg o.d
  s.modWg o.wg fun g => g.setSlot o.d
    { g.pslot o.d with bound := o.off.toNat, cls := 0, q := 0, window := none, sums := [], unrep := [] }

/-- An MX queue entry put back by its number. -/
def State.setMx (s : State) (o : MxOp) : State :=
  { s with eng := { s.eng with mx := s.eng.mx.map fun x => if x.id = o.id ∧ x.core = o.core then o else x } }

/-- An MX queue entry taken off its queue. -/
def State.dropMx (s : State) (o : MxOp) : State :=
  { s with eng := { s.eng with mx := s.eng.mx.filter fun x => !(x.id == o.id && x.core == o.core) } }.idleFrom o.core

/-- A tensor table slot an entry took a snapshot of was rewritten (R36, R394, R403). -/
def State.staleMx (s : State) (o : MxOp) : Bool :=
  let changed (tid : BitVec 32) (e : BitVec 512) : Bool := s.ttEntry o.ctx (tid.toNat % 2 ^ 16) != e
  match o.kind with
  | .ldt => changed o.tid o.entry
  | .drain => changed o.tid o.entry || (bit o.dctl 21 && changed o.rtid o.rentry)
  | _ => false

/-- mx_stat's bits for an entry's status (R389). -/
def mxStatOf (st : BitVec 16) : Word :=
  BitVec.ofNat 64 (field st 13 9 * 2 ^ 8 + field st 0 0 * 2 ^ 4 + field st 14 14 * 2 ^ 3 + field st 7 7 * 2 ^ 2 + field st 1 1 * 2)

/-- An entry has been performed, or a drain abandoned: mx_stat, and for a drain its arrival (R389, R403, R411). -/
def State.endMx (s : State) (o : MxOp) : State :=
  let st := if s.staleMx o then o.status ||| stStale else o.status
  let done (s : State) : State :=
    let s := s.modWg o.wg fun g => g.setMxr 0x071 (g.mxr 0x071 ||| mxStatOf st)
    let late := if (s.wg o.wg).out then st.toNat % 2 ^ 15 else field st 13 9 * 2 ^ 9
    let s := if late = 0 then s else s.sticky o.ctx late
    s.dropMx o
  match o.kind with
  | .drain =>
    match s.landAt o.wg o.ctx o.core o.dland (s.mxWho o) .mxDrain with
    | .ok (loc, t) => done (t.landUpdate o.core loc fun l => l.arrive (st.toNat % 2 ^ 14))
    | .error (.fault k reason level va) =>
      if o.abort ≠ 0 then done s else (s.joinFault k reason level va).setMx { o with park := some k }
    | .error (.park _ _) => s
    | .error _ => done s
  | _ => done s

/-- What an MX core has done, or why its queue stopped (R44, R390). -/
def State.mxDo (s : State) (o : MxOp) : Except Stop (MxNext × State) → State
  | .ok (.more o', t) => t.setMx o'
  | .ok (.wait, t) => t
  | .ok (.finish o', t) => t.endMx o'
  | .error (.fault k reason level va) => (s.joinFault k reason level va).setMx { o with park := some k }
  | .error (.late t (.fault k reason level va)) => (t.joinFault k reason level va).setMx { o with park := some k }
  | .error (.park _ t) => t
  | .error _ => s.endMx o

/-- MX_QUEUE_ENTRY (R390): the head of an MX core's queue goes on by a row, a segment or whole. -/
def execMxQueueEntry (core : Nat) (s : State) : Host.Outcome State Fault Refusal :=
  .next (match s.headMx core with
    | none => s
    | some o =>
      if o.abort ≠ 0 ∧ o.kind = .drain then
        if o.abort = 2 ∧ o.park.isNone then
          match s.spoilSegment o with
          | .ok (.finish o', t) => t.endMx { o' with status := o'.status ||| stAborted }
          | r => s.mxDo o r
        else if o.abort = 2 then s
        else s.endMx { o with status := o.status ||| stAborted }
      else if o.park.isSome ∨ 256 ≤ core then s
      else match o.kind with
        | .ldt => s.mxDo o (s.ldtRow o)
        | .lds => s.mxDo o (s.ldsRowLoad o)
        | .zeroT => (s.zeroTile ((s.wg o.wg).tileKey o.d)).dropMx o
        | .zeroC | .mode => (s.zeroAcc ((s.wg o.wg).accKey o.d)).dropMx o
        | .mma => (s.multiply o).dropMx o
        | .drain => s.mxDo o (s.drainSegment o)
        | .seed => (s.bindSlot o).dropMx o
        | .emit => (s.emitSlot o.wg o.d).dropMx o
        | .fence _ => s.passFence o.id)

end Sys2Proof.Machine
end

