-- ==== Sys2Proof/Machine/Open.lean ====
section
/-! DEFINITION. The open of a certified launch: its checks in the order of R505 (R93, R94, R437-R441), the versions,
holders and witness record it takes (R92, R95, R444), and the stack frames it holds (R32). -/

namespace Sys2Proof.Machine

/-- A VS core's pair is retired (R457). -/
def State.retired (s : State) (c : Nat) : Bool := bit (Tab.get 0 s.cert.health c) 31

/-- A VS cluster with an unretired core. -/
def State.clusterGood (s : State) (n : Nat) : Bool := (clusterCores (4 * n)).any fun c => !s.retired c

/-- PLACE admits a VS cluster of the partition (R417, R422). -/
def State.admits (s : State) (part : Nat) (place : BitVec 64) (n : Nat) : Bool :=
  s.partOwns part n && (place == 0 || bit place n)

/-- The admitted, unretired VS clusters of a course (R441). -/
def State.goodOn (s : State) (part : Nat) (place : BitVec 64) (course : Nat) : Nat :=
  ((List.range 16).filter fun i => s.admits part place (16 * course + i) && s.clusterGood (16 * course + i)).length

/-- The course with the most admitted, unretired VS clusters among those not excluded, the lowest of equals (R441). -/
def State.bestCourse (s : State) (part : Nat) (place : BitVec 64) (out : List Nat) : Option Nat :=
  ((List.range 4).filter fun c => !out.contains c && decide (0 < s.goodOn part place c)).foldl
    (fun (b : Option Nat) c => match b with
      | none => some c
      | some x => if s.goodOn part place x < s.goodOn part place c then some c else some x) none

/-- The witness context of a partition (R440): the lowest-numbered. -/
def State.witnessCtx (s : State) (part : Nat) : Option Nat :=
  (List.range 256).find? fun c => s.ctxValid c && s.ctxSys c && s.ctxWitness c && s.ctxPart c == part

/-- Who makes the translations of the scheduler and the plumb for a launch (R47). -/
def plumbWho (ctx : Nat) : Who := { ctx := ctx, src := 128, hold := 0 }

/-- Why a certified launch does not open: refused with a code, or held unopened, for tainted bindings or for room. -/
inductive OpenStop where
  | refuse (code : Nat)
  | wait (hold : List Nat)
  deriving DecidableEq, Repr

/-- A condition of an open. -/
def openNeed (c : Bool) (code : Nat) : Except OpenStop Unit := if c then .ok () else .error (.refuse code)

/-- Two tensors of one shape. -/
def sameShape (a b : BitVec 512) : Bool := teRows a == teRows b && teCols a == teCols b

/-- A TAU parameter (R438). -/
def tauOk (p : Nat) : Bool := p / 2 ^ 9 == 0

/-- ρ of a bound class (R439). -/
def rhoOf (cls : Nat) : Rat :=
  match cls with
  | 0 => 0 | 1 => pow2 (-24) | 2 => pow2 (-23) | 3 => pow2 (-11) | 4 => pow2 (-10) | 5 => pow2 (-8) | 6 => pow2 (-7)
  | n => pow2 (8 - (n : Int))

/-- τ of a TAU parameter (R438). -/
def tauOf (p : Nat) : Rat := if p / 256 % 2 = 1 then pow2 (signed 8 p) else 0

/-- A bound class and τ that a launch may declare for an output (R439): ρ at least the unit roundoff of the output's
format under RN, and for fixed-point codes τ at least half a step. The rounding mode of the drains is not known at open, so
that RN's smaller bounds are what is checked (DEDUCED, entry 66); a GEMM whose output is FP32 may be of RAW drains, which
are exact. -/
def boundOk (kind cls p : Nat) (o : BitVec 512) : Bool :=
  let f := teFormat o
  let atLeast (n : Int) : Bool := decide (pow2 (-n) ≤ rhoOf cls)
  if fmtNarrow f then
    match nfDesc (fmtBits f) (teDesc o) with
    | some d => if d.e = 0 then decide (pow2 (-d.bias - d.m) ≤ tauOf p) else atLeast (d.m + 1)
    | none => true
  else if f = 10 then atLeast 11 else if f = 11 then atLeast 8 else if f = 12 then kind == 0 && cls == 0 || atLeast 24
  else true

/-- The rows of R437, with the bound classes of R437 and R439, for tensors `i` and `o` and parameter `p`. -/
def kindOk (kind cls p : Nat) (i o : List (BitVec 512)) : Bool :=
  cls != 7 && match kind, i, o with
  | 0, a :: b :: res, [c] =>
    decide (res.length ≤ 1) && teFormat a == teFormat b && teCols a == teRows b && teRows c == teRows a
      && teCols c == teCols b && res.all (sameShape c) && tauOk p && boundOk kind cls p c
  | 1, [x], [y] =>
    cls == 0 && teFormat x == teFormat y && teRows x * teCols x == teRows y * teCols y && decide (p ≤ 1)
  | 2, [x], [y] => sameShape x y && tauOk p && boundOk kind cls p y
  | 3, [a, b], [x] =>
    cls == 0 && teRows a == teCols a && teRows b == teRows a && sameShape b x
      && [a, b, x].all (fun e => [10, 11, 12].contains (teFormat e))
      && decide (0 < p) && decide (p < 0x7FF0000000000000)
  | 4, [x], [y] =>
    let q := teAux x
    let n := teCols x
    cls == 0 && teFormat x == 14 && teFormat y == 14 && teAux y == q && sameShape x y
      && (List.range 24).any (fun k => n == 2 ^ (k + 1)) && decide (0 < p) && decide (p < q)
      && powMod q 64 p n == 1 % q && powMod q 64 p (n / 2) != 1 % q
  | 5, [x], [y] => teRows y == teRows x && teCols y == 1 && tauOk p && boundOk kind cls p y
  | 6, i, o =>
    cls == 0 && decide (1 ≤ i.length) && decide (i.length ≤ 4) && i.length == o.length && p == 0
      && (i.zip o).all fun e => sameShape e.1 e.2 && teFormat e.1 == teFormat e.2 && teDesc e.1 == teDesc e.2
          && teAux e.1 == teAux e.2 && rec64 e.1 47 1 == rec64 e.2 47 1
  | _, _, _ => false

/-- A launch record's input and output TIDs (R417). -/
def recTids (r : BitVec 1024) : List Nat × List Nat :=
  ((List.range (lrec r 63 1 % 16)).map fun i => lrec r (72 + 4 * i) 4,
   (List.range (lrec r 63 1 / 16 % 8)).map fun i => lrec r (104 + 4 * i) 4)

/-- The context of a launch record. -/
def recCtx (r : BitVec 1024) : Nat := lrec r 60 1

/-- The grid extents E3, E4 and E5 (R417). -/
def recExtent (r : BitVec 1024) (i : Nat) : Nat := lrec r 16 8 / 2 ^ (20 * i) % 2 ^ 20

/-- Fields of WIDTHS (R420): w1 to w5. -/
def hdrWidth (h : BitVec 512) : Nat → Nat
  | 1 => hdr h 44 4 / 2 ^ 18 % 8
  | 2 => hdr h 44 4 / 2 ^ 21 % 4
  | 3 => hdr h 44 4 % 64
  | 4 => hdr h 44 4 / 2 ^ 6 % 64
  | _ => hdr h 44 4 / 2 ^ 12 % 64

/-- The workgroups of a launch (R423). -/
def launchCount (r : BitVec 1024) (h : BitVec 512) : Nat :=
  recExtent r 0 * recExtent r 1 * recExtent r 2 * 2 ^ hdrWidth h 2

/-- The pages of an output at an open (R93): first page and count; none where R93 answers KILN_BUSY. -/
def State.outputRun (s : State) (w : Who) (e : BitVec 512) : Option (Nat × Nat) :=
  match s.kilnPages w .read e with
  | .ok (some (p :: r)) =>
    let n := r.length + 1
    if n ≤ 4096 ∧ p :: r = (List.range n).map (fun i => p + i) ∧ (p :: r).all (fun q => kSt (s.kpage q) == 0) then some (p, n)
    else none
  | _ => none

/-- What an input binds to (R94): version, first page and count, all 0 for ordinary memory; for a tainted binding the
number after its first page, with count 0. -/
def State.inputBind (s : State) (w : Who) (hold : List Nat) (e : BitVec 512) : Except OpenStop (Nat × Nat × Nat) :=
  match s.leafAt w (teBase e) with
  | .error _ => .error (.refuse 0x21)
  | .ok t =>
    if !t.kiln then .ok (0, 0, 0)
    else
      let b := s.kpage (t.pa / 2 ^ 21)
      let first := kFirst b
      match s.kilnPages w .read e with
      | .ok (some ps) =>
        if kSt b = 0 ∨ !ps.all (fun q => s.sameBinding first q) then .error (.refuse 0x21)
        else if kSt b = 1 then (if hold.contains first then .error (.wait hold) else .error (.refuse 0x21))
        else if kSt b = 5 then (if kFailed b then .error (.refuse 0x21) else .ok (0, first + 1, 0))
        else .ok (kVersion b, first, kCount b)
      | _ => .error (.refuse 0x21)

/-- The pages of the stack regions a header assigns (R421). -/
def stackPages (r : BitVec 1024) (h : BitVec 512) : List Nat :=
  let regions := (List.range (launchCount r h)).flatMap fun o => (List.range (hdrWarps h)).map fun j => stackRegion h o j
  regions.flatMap fun g => if g.2 = 0 then []
    else (List.range ((g.1 + g.2 - 1) / 65536 + 1 - g.1 / 65536)).map fun i => (g.1 / 65536 + i) * 65536

/-- The directory has what the lookups of an open read: the pages of its tensors and of its stack regions (R38, R93, R94,
R421). -/
def State.openLooks (s : State) (r : BitVec 1024) (h : BitVec 512) (entries : List (BitVec 512)) : State :=
  s.looks (plumbWho (recCtx r)) (entries.flatMap kilnVas ++ (stackPages r h).map (BitVec.ofNat 64))

/-- The frames of the stack regions a header assigns (R32, R421), whoever holds them; none where one cannot be held. -/
def State.stackFrames (s : State) (ctx : Nat) (r : BitVec 1024) (h : BitVec 512) : Option (List Nat) :=
  let t := { s with xlat := { s.xlat with heldBy := [] } }
  (stackPages r h).foldl (fun (acc : Option (List Nat)) va => match acc with
    | none => none
    | some l => match t.leafAt (plumbWho ctx) (BitVec.ofNat 64 va) with
      | .ok x =>
        let e := s.ownerOf x.pa
        if x.kind.isMem ∧ !bit e 27 ∧ !bit e 26 ∧ !bit e 24 then
          some (if l.contains (ownerIndex x.pa) then l else l ++ [ownerIndex x.pa])
        else none
      | .error _ => none) (some [])

/-- The lowest gap of `n` among used runs. -/
def lowestGap (used : List (Nat × Nat)) (n : Nat) : Nat :=
  let free (b : Nat) : Bool := !used.any fun u => decide (u.1 < b + n) && decide (b < u.1 + u.2)
  ((0 :: used.map fun u => u.1 + u.2).filter free).foldl Nat.min (used.foldl (fun m u => Nat.max m (u.1 + u.2)) 0)

/-- The bytes of the value region of a GEMM (R404): one pair of entries of the largest class for each row of its output. -/
def regionBytes (kind : Nat) (c : BitVec 512) : Nat := if kind = 0 then 128 * teRows c else 0

/-- The value region that a record takes (R82, R404): the lowest gap of the plumb region; none while it has none. The spec
does not say where in the plumb region one lies (DESIGN CHOICE, entry 67). -/
def State.newRegion (s : State) (n : Nat) : Option Nat :=
  let b := lowestGap (s.cert.regions.map fun e => (e.2.1 - 0xBF00000000, e.2.2)) n
  if b + n ≤ 2 ^ 32 then some (0xBF00000000 + b) else none

/-- What an open takes once every check has passed. -/
structure OpenPlan where
  course : Nat
  entries : List (BitVec 512)
  /-- version, first page and count of each input -/
  ins : List (Nat × Nat × Nat)
  outs : List (Nat × Nat)
  frames : List Nat
  deriving DecidableEq, Repr

/-- The bindings an attempt holds (R95): each version once. -/
def holdSet (ins : List (Nat × Nat)) (outs : List (Nat × Nat)) : List Nat :=
  ((ins.filter fun i => i.2 != 0).map (·.1) ++ outs.map (·.1)).eraseDups

/-- Two outputs share a page. -/
def runsShare (l : List (Nat × Nat)) : Bool :=
  (List.range l.length).any fun i => (List.range i).any fun j =>
    let a := l.getD i (0, 0)
    let b := l.getD j (0, 0)
    decide (a.1 < b.1 + b.2 ∧ b.1 < a.1 + a.2)

/-- The checks of R505 from step 3 on. -/
def State.certChecks (s : State) (l : Launch) (h : BitVec 512) : Except OpenStop OpenPlan := do
  let r := l.record
  let ctx := recCtx r
  let w := plumbWho ctx
  let (ti, outTids) := recTids r
  let ins := ti.filterMap (s.resolve ctx)
  let outs := outTids.filterMap (s.resolve ctx)
  openNeed (ins.length == ti.length && outs.length == outTids.length) 0x22
  openNeed (kindOk (lrec r 62 1 % 8) (lrec r 62 1 / 16) (lrec r 120 8) ins outs) 0x02
  openNeed (s.witnessCtx l.part).isSome 0x03
  let place := BitVec.ofNat 64 (lrec r 64 8)
  let course := s.bestCourse l.part place []
  openNeed (course.isSome && (List.range 4).any fun c => course != some c && decide (0 < s.goodOn l.part 0 c)) 0x04
  let runs := outs.filterMap (s.outputRun w)
  openNeed (runs.length == outs.length && !runsShare runs) 0x20
  let binds ← ins.mapM (s.inputBind w l.hold)
  let hold := (binds.filter fun b => b.2.1 != 0 && b.2.2 == 0).map (·.2.1 - 1)
  if !hold.isEmpty then .error (.wait hold)
  match s.stackFrames ctx r h with
  | none => .error (.refuse 0x01)
  | some frames =>
    openNeed (frames.all fun f => Tab.get 0 s.xlat.heldBy f == 0) 0x01
    let holders := holdSet (binds.map (·.2)) []
    let room := (s.newRegion (regionBytes (lrec r 62 1 % 8) (outs.getD 0 0))).isSome && s.framesUntracked frames
    if !room ∨ 65536 ≤ s.cert.records.length ∨ holders.any (fun f => 4095 ≤ kHolders (s.kpage f)) then .error (.wait [])
    return { course := course.getD 0, entries := ins ++ outs, ins := binds, outs := runs, frames := frames }

/-- The number after a version (R92). -/
def nextVersion (v : Nat) : Nat := if v = 2 ^ 32 - 1 then 1 else v + 1

/-- The first number from `v` on that is not in use. -/
def skipUsed (used : List Nat) (next : Nat → Nat) : Nat → Nat → Nat
  | 0, v => v
  | fuel + 1, v => if used.contains v then skipUsed used next fuel (next v) else v

/-- A fresh version of a partition (R92). -/
def State.freshVersion (s : State) (part : Nat) : Nat × State :=
  let used := 0 :: ((s.bindings.filter fun f => kPart (s.kpage f) == part).map fun f => kVersion (s.kpage f))
  let v := skipUsed used nextVersion (used.length + 1) (Tab.get 1 s.kiln.version part)
  (v, { s with kiln := { s.kiln with version := Tab.set 1 s.kiln.version part (nextVersion v) } })

/-- A fresh WITNESS_ID (R444). -/
def State.freshWitness (s : State) : Nat × State :=
  let used := 0 :: (s.liveRecords ++ s.cert.stored.map (·.witness) ++ s.bindings.map fun f => kWitness (s.kpage f))
  let next (v : Nat) : Nat := (v + 1) % 2 ^ 32
  let v := skipUsed used next (used.length + 1) s.cert.nextId
  (v, { s with cert := { s.cert with nextId := next v } })

/-- A kiln page entry as it enters OPEN (R91, R93). -/
def openEntry (version id first count ctx part course tries : Nat) : BitVec 128 :=
  BitVec.ofNat 128 (1 + tries * 2 ^ 4 + course * 2 ^ 6 + part * 2 ^ 8 + ctx * 2 ^ 12 + 2 ^ 20 + count * 2 ^ 32 + first * 2 ^ 45
    + id * 2 ^ 64 + version * 2 ^ 96)

/-- Output bindings opened (R93), each with a fresh version: the versions. -/
def State.openOutputs (s : State) (id ctx part course tries : Nat) : List (Nat × Nat) → List Nat × State
  | [] => ([], s)
  | (first, count) :: rest =>
    let (v, s) := s.freshVersion part
    let e := openEntry v id first count ctx part course tries
    let s := (List.range count).foldl (fun s i => s.setKpage (first + i) e) s
    let (vs, s) := s.openOutputs id ctx part course tries rest
    (v :: vs, s)

/-- The bytes of a list of fields of a record. -/
def recFields (r : BitVec 2048) (l : List (Nat × Nat × Nat)) : BitVec 2048 :=
  l.foldl (fun r f => recSet r f.1 f.2.1 f.2.2) r

/-- Every check has passed: versions are bound, holders counted, the record, its stored copy and the holds made (R93-R95,
R32, R444, R454), and the value region zeroed (R404). The address of the witness kernel's region is a free value. -/
def State.commitOpen (s : State) (num : Nat) (p : OpenPlan) (tries prev : Nat) : State :=
  match s.launch? num with
  | none => s
  | some l =>
    let r := l.record
    let ctx := recCtx r
    let (id, s) := s.freshWitness
    let (vs, s) := s.openOutputs id ctx l.part p.course tries p.outs
    let ins := p.ins.map (·.2)
    let s := (holdSet ins []).foldl (fun s f => s.hold f 1) s
    let (ti, outTids) := recTids r
    let n := regionBytes (lrec r 62 1 % 8) (p.entries.getD ti.length 0)
    let base := (s.newRegion n).getD 0
    let s := if n = 0 then s else
      { s with cert := { s.cert with regions := Tab.set (0, 0) s.cert.regions id (base, n) } }.zeroRun base n
    let (fk, s) := s.free Config.freeWord
    let rec0 := recFields 0 ([(0, 4, id), (4, 1, lrec r 62 1), (5, 1, p.course), (6, 1, lrec r 63 1), (7, 1, tries * 8),
      (8, 1, ctx), (9, 1, l.part), (12, 4, s.cert.epoch), (16, 8, lrec r 120 8), (24, 4, prev),
      (128, 8, if n = 0 then 0 else base), (136, 8, fk.toNat)]
      ++ (List.range ti.length).flatMap (fun i =>
        [(32 + 8 * i, 4, ti.getD i 0), (36 + 8 * i, 4, (p.ins.getD i (0, 0, 0)).1)])
      ++ (List.range outTids.length).flatMap fun i => [(96 + 8 * i, 4, outTids.getD i 0), (100 + 8 * i, 4, vs.getD i 0)])
    let s := s.setRecord id rec0
    let courses := match s.cert.stored.find? fun (x : Stored) => x.witness == prev && prev != 0 with
      | some x => x.courses ++ [p.course]
      | none => [p.course]
    let st : Stored := { witness := id, part := l.part, level := l.level, record := r, header := l.header, tries := tries
                         courses := courses, entries := p.entries, ins := ins, outs := p.outs, vers := p.ins.map (·.1) }
    let c := s.cert
    let s := { s with cert := { c with stored := (c.stored.filter fun (x : Stored) => prev == 0 || x.witness != prev) ++ [st] } }
    let s := (s.holdFrames num p.frames).modLaunch num fun l => { l with witness := some id, hold := [] }
    s.openLooks r l.header p.entries

end Sys2Proof.Machine
end

