-- ==== Sys2Proof/Machine/Sched.lean ====
section
/-! DEFINITION. The scheduler: records taken from the queues (R413-R418), launches opened (R420-R423, R505), expanded into
work records (R425, R427), placed (R426, R31) and completed (R424). -/

namespace Sys2Proof.Machine

/-- The codes of STATE in STATUS (R418). -/
def LState.code : LState → Nat
  | .queued => 0 | .waiting => 1 | .running => 2 | .done => 3 | .refused => 4 | .aborted => 5

/-- A launch has ended (R416). -/
def LState.ended : LState → Bool
  | .done | .refused | .aborted => true
  | _ => false

/-- The STATUS of a launch as its fields stand (R418). -/
def Launch.status (l : Launch) : Nat := l.state.code * 2 ^ 24 + l.code * 2 ^ 16 + l.cause * 2 ^ 8

/-- STATUS stored into a launch's slot; a re-execution or a witness kernel has none (R418, R454). -/
def State.storeStatus (s : State) (num : Nat) : State :=
  match s.launch? num with
  | some l =>
    match l.slot with
    | some n =>
      let q := s.queue l.queue
      s.writePa (q.ring + 128 * (n % 2 ^ q.size) + 56) 4 l.status
    | none => s
  | none => s

/-- A queue error (R415): nothing more is taken until QUEUE_SET, and the host is told (R483). -/
def State.queueError (s : State) (k : Nat) (bits : Nat) : State :=
  let q := s.queue k
  ((s.setQueue k { q with qerr := q.qerr ||| BitVec.ofNat 8 bits }).writeQueue k).send (.msix 0)

/-- The checks of a record when it is taken (R417, R418): the code, 0 where it passes. -/
def State.recordCode (s : State) (part : Nat) (r : BitVec 1024) : Nat :=
  let cert := lrec r 61 1 % 2 == 1
  let ni := lrec r 63 1 % 16
  let no := lrec r 63 1 / 16 % 8
  let zeros (lo n : Nat) : Bool := lrec r lo n == 0
  let ok := zeros 56 4 && lrec r 16 8 / 2 ^ 60 == 0 && lrec r 61 1 / 4 == 0 && lrec r 0 8 % 64 == 0
    && lrec r 24 8 % 8 == 0 && lrec r 32 8 % 8 == 0 && lrec r 40 8 % 8 == 0
    && (if cert then
        lrec r 62 1 / 8 % 2 == 0 && lrec r 62 1 % 8 != 7 && lrec r 63 1 / 128 == 0 && decide (ni ≤ 8) && decide (1 ≤ no)
          && decide (no ≤ 4) && zeros (72 + 4 * ni) (4 * (8 - ni)) && zeros (104 + 4 * no) (4 * (4 - no))
      else zeros 62 2 && zeros 72 56)
  if !ok then 2 else if s.ctxValid (recCtx r) ∧ s.ctxPart (recCtx r) = part then 0 else 3

/-- A launch as its record is taken. -/
def newLaunch (num part level : Nat) (r : BitVec 1024) : Launch :=
  { num := num, part := part, level := level, queue := 8 * part + level, slot := none, record := r, header := 0
    state := .waiting, code := 0, cause := 0, opened := false, join := 0, count := 0, nextOrd := 0, place := 0
    witness := none, kernelOf := none, hold := [], cores := [], step := 0, park := none }

/-- The launch table has room for a launch of a partition (R416). -/
def State.launchRoom (s : State) (part : Nat) : Bool :=
  decide (s.sched.launches.length < 1024) && decide ((s.sched.launches.filter fun l => l.part == part).length < 256)

/-- A launch added to the launch table. -/
def State.addLaunch (s : State) (l : Launch) : State :=
  { s with sched := { s.sched with launches := s.sched.launches ++ [l], nextLaunch := s.sched.nextLaunch + 1 } }

/-- TAKE_LAUNCH_RECORD (R415-R418): the scheduler looks at a queue's block and takes its next record. A block or a record
that reads poisoned is malformed. -/
def execTakeLaunchRecord (part level : Nat) (s : State) : Host.Outcome State Fault Refusal :=
  let k := 8 * part + level
  let q := s.queue k
  .next (if 16 ≤ part ∨ 8 ≤ level ∨ q.block = 0 ∨ q.qerr ≠ 0 then s
    else match (if s.mem.poisoned q.block 512 then none else s.queueBlock q.block) with
      | none => s.queueError k 2
      | some b =>
        if b.level ≠ level then s.queueError k 2
        else if b.tail < q.taken ∨ q.head + 2 ^ b.size < b.tail then s.queueError k 1
        else
          let q := { q with ring := b.ring, size := b.size, work := b.work, workLog := b.workLog }
          let s := s.setQueue k q
          if b.tail ≤ q.taken ∨ !s.launchRoom part then s
          else
            let pa := b.ring + 128 * (q.taken % 2 ^ b.size)
            let r := BitVec.ofNat 1024 (s.mem.readCoh pa 128)
            let code := if s.mem.poisoned pa 128 then 2 else s.recordCode part r
            let l := newLaunch s.sched.nextLaunch part level r
            let s := s.addLaunch { l with slot := some q.taken, code := code, state := if code = 0 then .waiting else .refused }
            let s := (s.setQueue k { q with taken := q.taken + 1 }).writeQueue k
            if code = 0 then s.storeStatus l.num else s)

/-- The number that stands for a launch's scheduler among the readers of the host window. -/
def schedTag (num : Nat) : Nat := 2 ^ 48 + num

/-- The 8 bytes of a counter in a launch's context (R422, R424), where its translation leads; `write` when they are to be
replaced in the same access. -/
def State.counterRead (s : State) (num : Nat) (t : Trans) (write : Bool) : Except Stop (Nat × State) :=
  match t.kind with
  | .ctl => .ok (s.ctlRead t.pa 8)
  | .host => s.hostLoad (schedTag num) none t.pa 8 (if write then 8 else 0)
  | _ => do
    let s ← s.homeReady (t.pa / 128) 128 write
    need (!s.mem.poisoned t.pa 8) poisonConsumed
    return (s.mem.readCoh t.pa 8, { s with mem := s.mem.homeLoad (t.pa / 128) })

/-- A launch refused (R418, R422): it completes with no workgroups. -/
def State.refuseLaunch (s : State) (num code : Nat) : State :=
  s.modLaunch num fun l => { l with state := .refused, code := code }

/-- WAIT_CTR read (R422): ready, or the state that the wait or the refusal leaves. A poisoned word does not read 0. -/
def State.waitCounter (s : State) (l : Launch) : Except State State :=
  let va := BitVec.ofNat 64 (lrec l.record 24 8)
  if va = 0 then .ok s
  else
    let r : Except Stop (Nat × State) := do
      let (t, s) ← s.translate (plumbWho (recCtx l.record)) .read .r false va
      s.counterRead l.num t false
    match r with
    | .ok (0, t) => .ok t
    | .ok (_, t) => .error t
    | .error (.fault k reason level va) =>
      let s := s.joinFault k reason level va
      .error (if reason ≤ 2 then s.modLaunch l.num fun l => { l with park := some k } else s.refuseLaunch l.num 2)
    | .error (.park _ t) => .error t
    | .error _ => .error s

/-- A header as R420 wants it for a record. -/
def headerOk (h : BitVec 512) (r : BitVec 1024) : Bool :=
  let w := hdrWidth h
  hdr h 0 8 % 4 == 0 && hdr h 8 8 % 4 == 0 && hdr h 16 8 % 4 == 0 && hdr h 32 8 % 16 == 0 && hdr h 40 4 % 16 == 0
    && hdr h 44 4 / 2 ^ 23 == 0 && decide (hdr h 48 1 ≤ 128) && decide (hdr h 49 1 ≤ 16) && decide (hdr h 50 1 ≤ 4)
    && hdr h 51 13 == 0 && decide (5 + w 1 + w 2 + w 3 + w 4 + w 5 ≤ 64) && w 2 != 1 && w 2 != 3 && decide (w 1 ≤ 4)
    && decide (recExtent r 0 ≤ 2 ^ w 3) && decide (recExtent r 1 ≤ 2 ^ w 4) && decide (recExtent r 2 ≤ 2 ^ w 5)

/-- What the read of a launch's header has come to. -/
inductive HeaderRead where
  /-- its address faults, or it reads poisoned -/
  | bad (s : State)
  /-- its line, or the host's answer, is still to come -/
  | wait (s : State)
  | got (h : BitVec 512) (s : State)

/-- A launch's header read in its context's translation (R420), wherever its address leads. -/
def State.readHeader (s : State) (l : Launch) : HeaderRead :=
  let w := plumbWho (recCtx l.record)
  let va := BitVec.ofNat 64 (lrec l.record 0 8)
  match s.translate w .read .r false va with
  | .error (.park _ s) => .wait s
  | .error (.fault _ reason _ _) => .bad (s.enterLines (srcDie w.src) (s.faultLines w.ctx reason va))
  | .error _ => .bad s
  | .ok (t, s) =>
    if t.kind.isMem then
      match s.homeReady (t.pa / 128) 128 false with
      | .error (.park _ s) => .wait s
      | .error _ => .wait s
      | .ok s => if s.mem.poisoned t.pa 64 then .bad s else .got (BitVec.ofNat 512 (s.mem.readCoh t.pa 64)) s
    else
      let id := 2 ^ 47 + l.num
      let (d, s) := s.engReadAt id 0 t none 64 0 64 {}
      if d.wait then .wait s else .got (BitVec.ofNat 512 d.x) (s.engHostDone id)

/-- A launch becomes RUNNING (R422, R423) with its header and the VS clusters it may use. -/
def State.runLaunch (s : State) (num : Nat) (h : BitVec 512) (place : BitVec 64) : State :=
  (s.modLaunch num fun l =>
    let n := launchCount l.record h
    { l with state := .running, header := h, opened := true, join := n, count := n, nextOrd := 0, place := place }).storeStatus num

/-- The admitted VS clusters as bits, on one course or on all. -/
def State.placeBits (s : State) (part : Nat) (place : BitVec 64) (ok : Nat → Bool) : BitVec 64 :=
  (List.range 64).foldl (fun b n => if s.admits part place n && ok n then b ||| BitVec.ofNat 64 (2 ^ n) else b) 0

/-- LAUNCH_OPEN (R422, R505). -/
def execLaunchOpen (num : Nat) (s : State) : Host.Outcome State Fault Refusal :=
  .next (match s.launch? num with
    | none => s
    | some l =>
      if l.state ≠ .waiting ∨ l.park.isSome ∨ l.code ≠ 0 then s
      else if lrec l.record 61 1 % 2 = 1 ∧ s.kilnDeferred then s.defer
      else match s.waitCounter l with
        | .error t => t
        | .ok s =>
          match s.readHeader l with
          | .bad s => s.refuseLaunch num 1
          | .wait t => t
          | .got h s =>
            let place := BitVec.ofNat 64 (lrec l.record 64 8)
            if !headerOk h l.record then s.refuseLaunch num 1
            else if !(List.range 64).any (s.admits l.part place) then s.refuseLaunch num 4
            else if lrec l.record 61 1 % 2 = 0 then s.runLaunch num h (s.placeBits l.part place fun _ => true)
            else match s.certChecks l h with
              | .error (.refuse c) =>
                let (ins, outs) := recTids l.record
                (s.openLooks l.record h ((ins ++ outs).filterMap (s.resolve (recCtx l.record)))).refuseLaunch num c
              | .error (.wait hold) => s.modLaunch num fun l => { l with hold := hold }
              | .ok p =>
                let s := s.modLaunch num fun l => { l with header := h }
                (s.commitOpen num p 0 0).runLaunch num h (s.placeBits l.part place fun n => n / 16 == p.course))

/-- WIDBASE of a workgroup (R215, R421, R425): fields 2 to 5 of the work ID. -/
def widBase (r : BitVec 1024) (h : BitVec 512) (ordinal : Nat) : Nat :=
  let w := hdrWidth h
  let m := ordinal % 2 ^ w 2
  let g := ordinal / 2 ^ w 2
  let g3 := g % recExtent r 0
  let g4 := g / recExtent r 0 % recExtent r 1
  let g5 := g / recExtent r 0 / recExtent r 1
  let b2 := 5 + w 1
  m * 2 ^ b2 + g3 * 2 ^ (b2 + w 2) + g4 * 2 ^ (b2 + w 2 + w 3) + g5 * 2 ^ (b2 + w 2 + w 3 + w 4)

/-- A work record (R425). -/
def workImage (l : Launch) (ordinal : Nat) : Nat :=
  hdr l.header 0 8 + lrec l.record 8 8 * 2 ^ 64 + l.num % 2 ^ 32 * 2 ^ 128
    + widBase l.record l.header ordinal % 2 ^ 64 * 2 ^ 192

/-- The workgroups of a unit: one, or the four members of a cluster launch (R217, R425). -/
def Launch.unit (l : Launch) : Nat := 2 ^ hdrWidth l.header 2

/-- The first work-ring index still in use (R425). -/
def State.oldestWork (s : State) (k : Nat) : Nat :=
  s.sched.work.foldl (fun n r => if r.queue = k then (match r.ring with | some i => Nat.min n i | none => n) else n)
    (s.queue k).written

/-- WORK_RECORD_WRITE (R425): the next unit of a launch goes into its level's work ring when there is space. A launch of a
level without a queue keeps its record in the device alone. -/
def execWorkRecordWrite (num : Nat) (s : State) : Host.Outcome State Fault Refusal :=
  .next (match s.launch? num with
    | none => s
    | some l =>
      if l.state ≠ .running ∨ l.code ≠ 0 ∨ l.count ≤ l.nextOrd then s
      else
        let q := s.queue l.queue
        let k := l.unit
        let r : WorkRec := { part := l.part, level := l.level, launch := num, queue := l.queue, ring := none
                             ordinals := (List.range k).map fun i => l.nextOrd + i, resume := [], tick := s.tick }
        let s := s.modLaunch num fun l => { l with nextOrd := l.nextOrd + k }
        let add (s : State) (r : WorkRec) : State := { s with sched := { s.sched with work := s.sched.work ++ [r] } }
        if q.block = 0 then add s r
        else if s.oldestWork l.queue + 2 ^ q.workLog < q.written + k then s.modLaunch num fun l => { l with nextOrd := l.nextOrd - k }
        else
          let s := (List.range k).foldl (fun s i =>
            s.writePa (q.work + 32 * ((q.written + i) % 2 ^ q.workLog)) 32 (workImage l (l.nextOrd + i))) s
          add (s.setQueue l.queue { q with written := q.written + k }) { r with ring := some q.written })

/-- What of a core's resources is in use (R31, R218): a workgroup's scratchpad, and its tiles and accumulators. -/
def State.holdsSp (s : State) (c i : Nat) : Bool := (s.wg i).core == c && s.occupies i
def State.holdsMx (s : State) (c i : Nat) : Bool :=
  let g := s.wg i
  g.core == c && g.saved.isNone && (g.live || (g.exited && s.pendingInto i))

/-- The numbers of the workgroups in the state. -/
def State.wgIds (s : State) : List Nat := List.range s.wgs.length

/-- The warps whose slots on a core are occupied (R218, R222). -/
def State.warpsOn (s : State) (c : Nat) : List Nat :=
  (List.range s.warps.length).filter fun i => match s.warp? i with
    | some w => s.occupiesSlot i w && (s.wgOf w).core == c && (s.wgOf w).saved.isNone
    | none => false

/-- What a workgroup needs of a core. -/
structure Needs where
  warps : Nat
  sp : Nat
  tiles : Nat
  accs : Nat
  /-- blocks of the extended register pool that its warps hold -/
  blocks : Nat := 0
  deriving DecidableEq, Repr

/-- The needs of a new workgroup (R420). -/
def hdrNeeds (h : BitVec 512) : Needs :=
  { warps := hdrWarps h, sp := hdr h 48 1 * 4096, tiles := hdr h 49 1, accs := hdr h 50 1 }

/-- The needs of a saved workgroup; one that has exited stays for its scratchpad alone (R292). -/
def State.wgNeeds (s : State) (i : Nat) : Needs :=
  let g := s.wg i
  { warps := (s.warpsOf i).length, sp := g.spBytes, tiles := g.tiles, accs := g.accs
    blocks := (s.warpsOf i).foldl (fun n w => n + ((s.warp? w).map (·.held)).getD 0) 0 }

/-- A core takes a workgroup, workgroups `out` apart (R218), its scratchpad in one run (R50). -/
def State.roomBut (s : State) (out : List Nat) (c : Nat) (n : Needs) : Bool :=
  let on (p : Nat → Bool) : List Nat := s.wgIds.filter fun i => !out.contains i && p i
  let sum (l : List Nat) (f : Workgroup → Nat) : Nat := l.foldl (fun n i => n + f (s.wg i)) 0
  let wgs := on fun i => (s.wg i).live && (s.wg i).core == c && (s.wg i).saved.isNone
  let warps := (s.warpsOn c).filter fun i => match s.warp? i with | some w => !out.contains w.wg | none => false
  decide (wgs.length < 16) && decide (warps.length + n.warps ≤ 64)
    && decide (warps.foldl (fun m i => m + ((s.warp? i).map (s.blocksOf i)).getD 0) n.blocks ≤ 128)
    && decide (lowestGap ((on (s.holdsSp c)).map fun i => ((s.wg i).spBase, (s.wg i).spBytes)) n.sp + n.sp ≤ 524288)
    && decide (sum (on (s.holdsMx c)) (·.tiles) + n.tiles ≤ 16) && decide (sum (on (s.holdsMx c)) (·.accs) + n.accs ≤ 4)

/-- A core is offered to placement: awake, unretired, on a course that places (R456, R466, R468). -/
def State.offered (s : State) (c : Nat) : Bool :=
  !s.retired c && (s.core c).gate == .ready && !s.sched.stopped.contains (coreCourse c)

/-- A core has room for a workgroup (R426). -/
def State.room (s : State) (c : Nat) (n : Needs) : Bool := s.offered c && s.roomBut [] c n

/-- A work record is admissible on a core (R426). -/
def State.admissible (s : State) (r : WorkRec) (c : Nat) : Bool :=
  match s.launch? r.launch with
  | some l => s.partOwns r.part (c / 4) && bit l.place (c / 4)
  | none => false

/-- The workgroups a record places, as needs by member. -/
def State.recNeeds (s : State) (r : WorkRec) : List Needs :=
  if r.resume.isEmpty then
    match s.launch? r.launch with
    | some l => r.ordinals.map fun _ => hdrNeeds l.header
    | none => []
  else r.resume.map s.wgNeeds

/-- The cores a record takes when it goes to core `c`: that core, or the cluster's four, by member (R217). -/
def unitCores (n c : Nat) : List Nat := if n = 4 then clusterCores c else [c]

/-- A record fits on a core, or on its cluster. -/
def State.fits (s : State) (r : WorkRec) (c : Nat) : Bool :=
  let ns := s.recNeeds r
  (unitCores ns.length c).zip ns |>.all fun e => s.room e.1 e.2

/-- The records of a level in the order they are placed: resumed workgroups first (R426). -/
def State.levelWork (s : State) (level : Nat) : List WorkRec :=
  let l := s.sched.work.filter fun r => r.level == level
  (l.filter fun r => !r.resume.isEmpty) ++ l.filter fun r => r.resume.isEmpty

/-- The runs of a save slot with `warps` warps and `bulks` bulk send records that must be zero (R11, R180, R425, R435, R436):
offset and length. -/
def slotZeros (warps bulks : Nat) : List (Nat × Nat) :=
  [(0x34, 0xCC), (0x237860, 0x7A0), (5, 3), (0x1C, 4)] ++ ((List.range bulks).flatMap fun j =>
      [(0x200 + 96 * j + 71, 1), (0x200 + 96 * j + 88, 7)]) ++ ((List.range 2).map fun i => (0x237809 + 16 * i, 7))
    ++ ((List.range 4).flatMap fun i => [(0x237823 + 16 * i, 1), (0x237828 + 16 * i, 8)])
    ++ (List.range warps).flatMap fun j =>
      ([(0x510, 0xF0), (0xA40, 0x5C0)] ++ (List.range 16).map fun i => (0x20C + 16 * i, 4)).map fun (r : Nat × Nat) =>
        (0x6200 + 0x9000 * j + r.1, r.2)

/-- The bits of single bytes that must be zero too: LAUNCH [39:35] (R435) and CAP_TAG [7:1] of each bulk send record
(R180). -/
def slotHigh (bulks : Nat) : List (Nat × Nat) := (4, 0xF8) :: (List.range bulks).map fun j => (0x200 + 96 * j + 95, 0xFE)

/-- A saved workgroup's slot is malformed: a bit of it that must be zero is not (R11). -/
def State.slotBad (s : State) (i : Nat) : Bool :=
  let g := s.wg i
  match g.saved with
  | none => false
  | some n =>
    let pa := s.slotPa g.ctx n
    let bulks := (s.fab.sends.filter fun x => x.wg == i && x.parked).length
    let runs := slotZeros ((s.launch? g.launch).map (fun l => hdrWarps l.header) |>.getD 0) bulks
    let set (a : Nat) : Bool := (runs.any fun r => decide (pa + r.1 ≤ a ∧ a < pa + r.1 + r.2)) && s.mem.byteAt a != 0
    (s.mem.bytes.any fun e => set e.1) || (s.mem.slice.any fun e => (List.range 128).any fun k => set (128 * e.1 + k))
      || (slotHigh bulks).any fun r => (s.mem.byteAt (pa + r.1)).toNat &&& r.2 != 0

/-- The record a core takes (R426): of the highest level whose oldest admissible record fits. A workgroup whose save slot is
malformed is not resumed (R11, entry 46). -/
def State.pick (s : State) (c : Nat) : Option WorkRec :=
  if s.host.devState ≠ 5 ∨ s.sched.frozen then none
  else (List.range 8).findSome? fun level =>
    match (s.levelWork level).find? fun r => s.admissible r c && !r.resume.any s.slotBad with
    | some r => if s.fits r c then some r else none
    | none => none

/-- A unit must be zeroed for its next holder (R31). -/
def mustZero (h : Option Holder) (ctx : Nat) (cert : Option Nat) : Bool :=
  match h with
  | none => false
  | some h => h.ctx != ctx || (h.cert.isSome && h.cert != cert)

/-- A 4 KiB unit of scratchpad taken, zeroed where R31 says. -/
def State.claimSp (s : State) (ctx : Nat) (cert : Option Nat) (unit : Nat) : State :=
  let z := mustZero (Tab.get none s.mx.spHolder unit) ctx cert
  let m := s.mem
  let out (size k : Nat) : Bool := k * size / 4096 != unit
  { s with mx := { s.mx with spHolder := Tab.set none s.mx.spHolder unit (some { ctx := ctx, cert := cert }) }
           mem := if z then { m with sp := Tab.filterKeys m.sp (out 1), spTags := Tab.filterKeys m.spTags (out 16)
                                     spPoison := Tab.filterKeys m.spPoison (out 32) } else m }

/-- A tile register taken, zeroed where R31 says. -/
def State.claimTile (s : State) (ctx : Nat) (cert : Option Nat) (key : Nat) : State :=
  let z := mustZero (Tab.get none s.mx.tileHolder key) ctx cert
  let s := if z then s.zeroTile key else s
  { s with mx := { s.mx with tileHolder := Tab.set none s.mx.tileHolder key (some { ctx := ctx, cert := cert }) } }

/-- An accumulator taken, zeroed where R31 says. -/
def State.claimAcc (s : State) (ctx : Nat) (cert : Option Nat) (key : Nat) : State :=
  let z := mustZero (Tab.get none s.mx.accHolder key) ctx cert
  let s := if z then s.zeroAcc key else s
  { s with mx := { s.mx with accHolder := Tab.set none s.mx.accHolder key (some { ctx := ctx, cert := cert }) } }

/-- The lowest `n` numbers below `total` that are not used. -/
def lowestFree (used : List Nat) (total n : Nat) : List Nat := ((List.range total).filter fun i => !used.contains i).take n

/-- A workgroup's allocations on a core, taken and zeroed as R31 says (R218). -/
def State.allocate (s : State) (i c : Nat) : State :=
  let g := s.wg i
  let others (p : Nat → Bool) : List Nat := s.wgIds.filter fun j => j != i && p j
  let base := lowestGap ((others (s.holdsSp c)).map fun j => ((s.wg j).spBase, (s.wg j).spBytes)) g.spBytes
  let tiles := lowestFree ((others (s.holdsMx c)).flatMap fun j => (s.wg j).tileMap) 16 g.tiles
  let accs := lowestFree ((others (s.holdsMx c)).flatMap fun j => (s.wg j).accMap) 4 g.accs
  let slots := (others fun j => (s.wg j).core == c && (s.wg j).live && (s.wg j).saved.isNone).map fun j => (s.wg j).slot
  let g := { g with core := c, slot := (lowestFree slots 16 1).headD 0, spBase := base, tileMap := tiles, accMap := accs }
  let cert := if g.cert then some g.launch else none
  let s := s.setWg i g
  let s := (List.range (g.spBytes / 4096)).foldl (fun s u => s.claimSp g.ctx cert ((c * spStride + base) / 4096 + u)) s
  let s := tiles.foldl (fun s t => s.claimTile g.ctx cert (c * 16 + t)) s
  accs.foldl (fun s a => s.claimAcc g.ctx cert (c * 4 + a)) s

/-- A new warp as R224 starts it. -/
def newWarp (l : Launch) (gi ordinal idx slot : Nat) (wid : Word) : Warp :=
  let h := l.header
  let b := hdr h 40 4
  let (lo, n) := stackRegion h ordinal idx
  let w := { Warp.blank with live := true, wg := gi, idx := idx, slot := slot, pc := BitVec.ofNat 64 (hdr h 0 8)
                             trapVec := BitVec.ofNat 64 (hdr h 16 8), laneBase := BitVec.ofNat 64 (hdr h 8 8), wid := wid
                             stackLim := if b = 0 then 0 else BitVec.ofNat 64 lo }
  let w := (w.sset 0 (BitVec.ofNat 64 (lrec l.record 8 8))).sset 62 (if b = 0 then 0 else BitVec.ofNat 64 (lo + n))
  w.aset 0 wid 1

/-- The split registers of a workgroup (R427): first, end and flags. -/
def splitOf (r : BitVec 1024) (count k : Nat) : Nat × Nat × Nat :=
  let i := lrec r 52 4
  let n := lrec r 48 4 * i
  let first := k * n / count
  let last := (k + 1) * n / count
  let b (c : Bool) (v : Nat) : Nat := if c then v else 0
  if lrec r 61 1 / 2 % 2 = 0 then (0, 0, 0)
  else (first, last, b (first == last) 4 + b (i != 0 && last % i != 0) 2 + b (i != 0 && first % i != 0) 1)

/-- A workgroup started on a core with its warps (R224, R426). -/
def State.startWg (s : State) (l : Launch) (ordinal c : Nat) : State :=
  let h := l.header
  let n := hdrNeeds h
  let gi := s.wgs.length
  let w2 := hdrWidth h 2
  let (first, last, fix) := splitOf l.record l.count ordinal
  let wid := BitVec.ofNat 64 (widBase l.record h ordinal)
  let g : Workgroup :=
    { Workgroup.none with
        live := true, launch := l.num, core := c, ctx := recCtx l.record, part := l.part, level := l.level
        ordinal := ordinal, member := ordinal % 2 ^ w2
        cluster := if w2 = 2 then some (l.num * 2 ^ 64 + ordinal / 4) else none
        cert := l.witness.isSome, witness := l.kernelOf, age := s.tick, code := BitVec.ofNat 64 (hdr h 0 8)
        frame := BitVec.ofNat 64 (lrec l.record 8 8), widBase := wid, spBytes := n.sp, tiles := n.tiles, accs := n.accs
        splitFirst := BitVec.ofNat 64 first, splitEnd := BitVec.ofNat 64 last, splitFix := BitVec.ofNat 64 fix }
  let slots := lowestFree ((s.warpsOn c).filterMap fun i => (s.warp? i).map (·.slot)) 64 n.warps
  let s := { s with wgs := s.wgs ++ [g] }
  let s := s.allocate gi c
  let ws := (List.range n.warps).map fun j => newWarp l gi ordinal j (slots.getD j 0) (wid + BitVec.ofNat 64 (j * 32))
  let s := { s with warps := s.warps ++ ws }
  s.modLaunch l.num fun l => { l with cores := if l.cores.contains c then l.cores else l.cores ++ [c] }

/-- A work record taken from its ring. -/
def State.dropWork (s : State) (r : WorkRec) : State :=
  { s with sched := { s.sched with work := s.sched.work.erase r } }

/-- A work ring holds a record as the device wrote it (R425). -/
def State.workIntact (s : State) (l : Launch) (r : WorkRec) : Bool :=
  let q := s.queue r.queue
  match r.ring with
  | none => true
  | some i => (List.range r.ordinals.length).all fun j =>
      s.mem.readCoh (q.work + 32 * ((i + j) % 2 ^ q.workLog)) 32 == workImage l (r.ordinals.getD j 0)

/-- PLACE_WORKGROUP (R426): a core, or the cluster of one, takes the record it has room for. A record altered in its ring
is not acted on (R425). -/
def execPlaceWorkgroup (core : Nat) (s : State) : Host.Outcome State Fault Refusal :=
  .next (if 256 ≤ core then s
    else match s.pick core with
      | none => s
      | some r =>
        match s.launch? r.launch with
        | none => s
        | some l =>
          if !r.resume.isEmpty then s
          else if !s.workIntact l r then s.queueError r.queue 2
          else ((unitCores r.ordinals.length core).zip r.ordinals).foldl (fun s e => s.startWg l e.2 e.1) (s.dropWork r))

/-- Nothing of a launch is still under way (R423, R424). -/
def State.launchQuiet (s : State) (l : Launch) : Bool :=
  l.join == 0 && (s.liveWgs l.num).isEmpty && !(s.sched.work.any fun r => r.launch == l.num)
    && !(s.eng.ops.any fun o => o.launch == l.num && (match o.kind with | .fence _ => false | _ => true))
    && !(s.eng.mx.any fun o => (s.wg o.wg).launch == l.num && (match o.kind with | .fence _ => false | _ => true))
    && !(s.fab.sends.any fun x => x.launch == l.num)

/-- The kernel boundary of an ending launch (R133, R149): every L1 of the device written back and invalidated, every
interval closed, the signatures of the cores it ran on cleared. -/
def State.kernelBoundary (s : State) (cores : List Nat) : State :=
  let holders := (s.mem.l1.map fun e => e.1 / 2 ^ 45).eraseDups
  let s := holders.foldl (fun s c => s.l1Flush c) s
  let s := { s with mem := { s.mem with grains := [] } }
  cores.foldl (fun s c => s.setCore c
    { s.core c with wsig := 0, wcount := 0, wfull := false, wfloor := s.tick % 2 ^ 43 }) s

/-- The system-scope releases before STATUS (R137, R418). -/
def State.releaseCores (s : State) (num : Nat) : List Nat → Except Stop State
  | [] => .ok s
  | c :: rest => do
    let s ← s.systemQuiet (schedTag num) c
    s.releaseCores num rest

/-- The seal of a completed attempt's outputs and its holders' end (R95, R97, R445). -/
def State.sealLaunch (s : State) (l : Launch) : State :=
  match l.witness with
  | none => s
  | some id =>
    match s.cert.stored.find? fun (x : Stored) => x.witness == id, s.record? id with
    | some st, some r =>
      let s := (s.outputsOf id).foldl (fun s f =>
        if kSt (s.kpage f) = 1 then s.modBinding f fun e => setField e 2 0 2 else s) s
      let s := (holdSet st.ins st.outs).foldl (fun s f => s.hold f (-1)) s
      let course := recGet r 5 1 % 4
      let cores := l.cores.foldl (fun b c => if c / 64 = course then b ||| 2 ^ (c % 64) else b) 0
      let all := (s.outputsOf id).all fun f => kSt (s.kpage f) == 2
      s.modRecord id fun r =>
        let r := recSet r 160 8 cores
        if rState r = 0 ∧ all then recSet (setRState r 1) 144 8 s.tick else r
    | _, _ => s

/-- A witness kernel's end (R95, R446): its holds end; unless it was aborted its values stand delivered, and the cores
that ran the first one are noted (R452). -/
def State.kernelEnd (s : State) (l : Launch) : State :=
  match l.kernelOf with
  | none => s
  | some id =>
    let s := l.hold.foldl (fun s f => s.hold f (-1)) s
    match s.record? id with
    | some r =>
      if l.code ≠ 0 then s
      else
        let c := s.cert
        { s with cert := { c with
            delivered := c.delivered ++ [id]
            kernelCores := if bit r 45 then c.kernelCores else Tab.set [] c.kernelCores id l.cores } }
    | none => s

/-- CONTEXT has ended: a launch's decrements are skipped (R424). -/
def State.noSignal (s : State) (l : Launch) : Bool :=
  !s.ctxValid (recCtx l.record) || s.ctxPart (recCtx l.record) != l.part || l.code == 6

/-- A dependant's counter decremented (R424); a counter that cannot be reached for good is left. -/
def State.signal (s : State) (l : Launch) (va : Nat) : Except State State :=
  let ctx := recCtx l.record
  if va = 0 ∨ va % 8 ≠ 0 ∨ s.noSignal l then .ok s
  else
    let r : Except Stop State := do
      let (t, s) ← s.translate (plumbWho ctx) .atomic .rw false (BitVec.ofNat 64 va)
      let (x, s) ← s.counterRead l.num t true
      let y := (x + 2 ^ 64 - 1) % 2 ^ 64
      match t.kind with
      | .ctl => return s
      | .host => return s.send (.hostWrite (t.pa - 0x8000000000000) 8 (BitVec.ofNat 64 y) false)
      | _ => return s.writePa t.pa 8 y
    match r with
    | .ok t => .ok t
    | .error (.fault k reason level va) =>
      let s := s.joinFault k reason level va
      if reason ≤ 2 then .error (s.modLaunch l.num fun l => { l with park := some k }) else .ok s
    | .error (.park _ t) => .error t
    | .error _ => .ok s

/-- Slots retire in ring order, and HEAD advances over them (R416). -/
def State.retireSlots (s : State) (k : Nat) : Nat → State
  | 0 => s
  | fuel + 1 =>
    let q := s.queue k
    match s.sched.launches.find? fun l => l.queue == k && l.slot == some q.head && l.step == 3 with
    | some l =>
      let s := { s with sched := { s.sched with launches := s.sched.launches.filter fun x => x.num != l.num } }
      (s.setQueue k { q with head := q.head + 1 }).retireSlots k fuel
    | none => s

/-- A launch leaves the table, or waits for the slots before its own (R416, R454). -/
def State.retireLaunch (s : State) (l : Launch) : State :=
  match l.slot with
  | none => { s with sched := { s.sched with launches := s.sched.launches.filter fun x => x.num != l.num } }
  | some _ =>
    let s := s.modLaunch l.num fun l => { l with step := 3 }
    let s := s.retireSlots l.queue (s.sched.launches.length + 1)
    if l.queue < 128 then s.writeQueue l.queue else s

/-- Steps 4 and 5 of R424. -/
def State.signalLaunch (s : State) (num : Nat) : State :=
  match s.launch? num with
  | none => s
  | some l =>
    let sig (i : Nat) : Nat := if l.slot.isSome then lrec l.record (32 + 8 * i) 8 else 0
    let second (s : State) : State := match s.signal l (sig 1) with
      | .error t => t
      | .ok t => t.retireLaunch l
    if l.step = 2 then second s
    else match s.signal l (sig 0) with
      | .error t => t
      | .ok t => second (t.modLaunch num fun l => { l with step := 2 })

/-- LAUNCH_COMPLETE (R424): the steps of a finished launch, up to one that must wait. -/
def execLaunchComplete (num : Nat) (s : State) : Host.Outcome State Fault Refusal :=
  .next (match s.launch? num with
    | none => s
    | some l =>
      if l.step = 3 ∨ (l.park.isSome ∧ !(l.step ≠ 0 ∧ s.noSignal l)) then s
      else if l.step ≠ 0 then (s.modLaunch num fun l => { l with park := none }).signalLaunch num
      else if (l.witness.isSome ∨ l.kernelOf.isSome) ∧ s.kilnDeferred then s.defer
      else
        let finished := match l.state with
          | .refused => true
          | .running => s.launchQuiet l && decide (l.count ≤ l.nextOrd)
          | .waiting => l.code != 0
          | _ => false
        let held := (s.xlat.heldBy.filter fun e => e.2 == num + 1).map fun e => e.1
        if !finished then s
        else if !s.framesReady held then s.askFrames held
        else match s.releaseCores num l.cores with
          | .error (.park _ t) => t
          | .error _ => s
          | .ok s =>
            let s := s.kernelBoundary l.cores
            if !s.writesDone then s
            else
            let s := ((s.sealLaunch l).kernelEnd l).dropFrames held
            let s := s.modLaunch num fun l =>
              { l with step := 1, state := match l.state with
                  | .refused => .refused
                  | _ => if l.code = 0 then .done else .aborted }
            (s.storeStatus num).signalLaunch num)

end Sys2Proof.Machine
end

