-- ==== Sys2Proof/Machine/Preempt.lean ====
section
/-! DEFINITION. Pre-emption (R429-R432): the choice of victims, saving a workgroup to a slot with its image (R435, R436)
and the liveness tables that pick its registers (R259, R260), and resuming it. -/

namespace Sys2Proof.Machine

/-- The part of a table from `a`, `n` keys long, moved to begin at `b`. -/
def Tab.lift {α : Type} (m : Tab α) (a n b : Nat) : Tab α :=
  (m.filter fun e => decide (a ≤ e.1 ∧ e.1 < a + n)).map fun e => (e.1 - a + b, e.2)

/-- The keys [b, b + n) of a table replaced by the part of another from `a`. -/
def Tab.graft {α : Type} [DecidableEq α] (d : α) (m src : Tab α) (a n b : Nat) : Tab α :=
  (Tab.lift src a n b).foldl (fun m e => Tab.set d m e.1 e.2) (Tab.filterKeys m fun k => k < b || b + n ≤ k)

/-- The workgroups saved together with one (R429): the members of its cluster launch that still hold their place. -/
def State.saveGroup (s : State) (i : Nat) : List Nat :=
  match (s.wg i).cluster with
  | some c => s.wgIds.filter fun j =>
      let g := s.wg j
      g.cluster == some c && g.saved.isNone && (g.live || s.occupies j)
  | none => [i]

/-- The groups of workgroups on some cores that may be saved for a record of a level, each once. -/
def State.victims (s : State) (cores : List Nat) (level : Nat) : List (List Nat) :=
  let on := s.wgIds.filter fun i =>
    let g := s.wg i
    g.live && g.saved.isNone && g.stopping.isNone && cores.contains g.core && decide (level < g.level)
  ((on.map s.saveGroup).eraseDups).filter fun l => !l.any fun j => (s.wg j).stopping.isSome

/-- The sublists of a list. -/
def subsets {α : Type} : List α → List (List α)
  | [] => [[]]
  | x :: r => subsets r ++ (subsets r).map fun l => x :: l

/-- Free save slots suffice for the workgroups of a choice (R429, R433). -/
def State.slotsFor (s : State) (gone : List Nat) : Bool :=
  gone.all fun i =>
    let c := (s.wg i).ctx
    decide ((gone.filter fun j => (s.wg j).ctx == c).length ≤ (s.freeSlots c).length)

/-- One choice of workgroups to save is preferred to another (R429): fewer, then lower priority, then younger. -/
def State.betterChoice (s : State) (a b : List Nat) : Bool :=
  let levels (l : List Nat) : Nat := l.foldl (fun n i => n + (s.wg i).level) 0
  let ages (l : List Nat) : Nat := l.foldl (fun n i => n + (s.wg i).age) 0
  if a.length ≠ b.length then decide (a.length < b.length)
  else if levels a ≠ levels b then decide (levels b < levels a)
  else decide (ages b < ages a)

/-- The choices that make room for a record, core by core or cluster by cluster. -/
def State.choices (s : State) (r : WorkRec) : List (List Nat) :=
  let ns := s.recNeeds r
  let starts := (List.range 256).filter fun c => s.admissible r c && (ns.length != 4 || c % 4 == 0)
  starts.flatMap fun c =>
    let cores := unitCores ns.length c
    if !cores.all s.offered then []
    else ((subsets (s.victims cores r.level)).map List.flatten).filter fun gone =>
      !gone.isEmpty && s.slotsFor gone && (cores.zip ns).all fun e => s.roomBut gone e.1 e.2

/-- The saves of a choice begin: each workgroup stops with a free slot set aside for it (R430). -/
def State.beginSave (s : State) (gone : List Nat) : State :=
  gone.foldl (fun s i =>
    let g := s.wg i
    match s.freeSlots g.ctx with
    | n :: _ => (s.markSlot g.ctx n true).setWg i { g with stopping := some n }
    | [] => s) s

/-- A record starts a pre-emption (R429). -/
def State.startPreemption (s : State) (r : WorkRec) : State :=
  let us := field (Tab.get 0 s.sched.cfg (16 * r.part)) 15 0
  let some' := (List.range 256).filter (s.admissible r)
  if s.host.devState ≠ 5 ∨ s.sched.frozen ∨ us = 0 ∨ s.tick ≤ r.tick + us ∨ some'.isEmpty ∨ some'.any (s.fits r) then s
  else
    let best := (s.choices r).foldl (fun (b : Option (List Nat)) l => match b with
      | none => some l
      | some x => if s.betterChoice l x then some l else some x) none
    match best with
    | none => s
    | some gone =>
      let s := { s with sched := { s.sched with work := s.sched.work.map fun (x : WorkRec) =>
                   if x = r then { x with tick := s.tick } else x } }
      s.beginSave gone

/-- The registers a liveness entry keeps (R259): scalar, lane, predicate, capability and affine, as bits. -/
structure LiveSet where
  s : Nat
  v : Nat
  p : Nat
  k : Nat
  a : Nat
  deriving DecidableEq, Repr

/-- Every register. -/
def LiveSet.all : LiveSet := { s := 2 ^ 64 - 1, v := 2 ^ 256 - 1, p := 255, k := 255, a := 65535 }

/-- Two live sets together. -/
def LiveSet.union (x y : LiveSet) : LiveSet := { s := x.s ||| y.s, v := x.v ||| y.v, p := x.p ||| y.p, k := x.k ||| y.k, a := x.a ||| y.a }

/-- An entry of a liveness table (R259). -/
structure LiveEntry where
  start : Nat
  stop : Nat
  lane : Bool
  set : LiveSet
  deriving DecidableEq, Repr

/-- An entry's 64 bytes read; none when it is malformed (R11). -/
def LiveEntry.parse (x : Nat) : Option LiveEntry :=
  let f (lo n : Nat) : Nat := x / 2 ^ (8 * lo) % 2 ^ (8 * n)
  if f 4 4 ≤ f 0 4 ∨ f 0 4 % 4 ≠ 0 ∨ f 4 4 % 4 ≠ 0 ∨ 1 < f 8 1 ∨ f 9 7 ≠ 0 ∨ f 60 4 ≠ 0 then none
  else some { start := f 0 4, stop := f 4 4, lane := f 8 1 == 1
              set := { s := f 16 8, v := f 24 32, p := f 56 1, k := f 57 1, a := f 58 2 } }

/-- The entries of one stream are sorted and do not overlap (R259). -/
def sortedEntries : List LiveEntry → Bool
  | a :: b :: r => decide (a.stop ≤ b.start) && sortedEntries (b :: r)
  | _ => true

/-- `n` bytes of a context's memory as the device finds them; none where they do not translate or read poisoned. -/
def State.peekRun (s : State) (ctx va n : Nat) : Option Nat :=
  (pageParts va n).foldl (fun (acc : Option (Nat × Nat)) p => match acc with
    | none => none
    | some (x, o) => match s.walk (plumbWho ctx) .r false (BitVec.ofNat 64 p.1) with
      | .ok t =>
        if t.kind.isMem ∧ !s.mem.poisoned t.pa p.2 then some (x + s.mem.readCoh t.pa p.2 * 2 ^ (8 * o), o + p.2) else none
      | .error _ => none) (some (0, 0)) |>.map fun e => e.1

/-- A launch's liveness table; none when it has none or it is ignored as a whole (R260). -/
def State.liveTable (s : State) (ctx va : Nat) : Option (List LiveEntry) := do
  let h ← if va = 0 then none else s.peekRun ctx va 16
  if h % 2 ^ 32 ≠ 1 ∨ h / 2 ^ 64 ≠ 0 then none
  let n := h / 2 ^ 32 % 2 ^ 32
  let l ← (List.range n).mapM fun i => (s.peekRun ctx (va + 16 + 64 * i) 64).bind LiveEntry.parse
  if sortedEntries (l.filter fun e => !e.lane) ∧ sortedEntries (l.filter fun e => e.lane) then some l else none

/-- The pages that a lookup of a liveness table reads: its header's, and its entries' where it has a header. -/
def State.tablePages (s : State) (ctx va : Nat) : List Word :=
  if va = 0 then []
  else
    let n := ((s.peekRun ctx va 16).getD 0) / 2 ^ 32 % 2 ^ 32
    (List.range ((va + 15 + 64 * n) / 65536 + 1 - va / 65536)).map fun i => BitVec.ofNat 64 ((va / 65536 + i) * 65536)

/-- The live set at a PC of a stream, by its offset from the section base. -/
def liveAt (l : List LiveEntry) (lane : Bool) (off : Nat) : Option LiveSet :=
  (l.find? fun e => e.lane == lane && decide (e.start ≤ off ∧ off < e.stop)).map (·.set)

/-- The liveness table that a save of a workgroup looks into is ignored as malformed (R260). -/
def State.badTable (s : State) (g : Workgroup) : Bool :=
  match s.launch? g.launch with
  | none => false
  | some l =>
    let va := hdr l.header 24 8
    va != 0 && (s.peekRun g.ctx va 16).isSome && (s.liveTable g.ctx va).isNone

/-- The registers of a warp that a save keeps (R260): by its PC, by the lane PC at which the head block resumes, which for
one that a trap set aside is trap_lpc (R291), and by the handler block's. -/
def State.liveOf (s : State) (g : Workgroup) (w : Warp) : LiveSet :=
  match s.launch? g.launch with
  | none => LiveSet.all
  | some l => match s.liveTable g.ctx (hdr l.header 24 8) with
    | none => LiveSet.all
    | some t =>
      let off (pc base : Word) : Nat := (pc - base).toNat
      let head := w.queue.head?.map fun b => if w.active then w.trapLpc else b.lpc
      let lpcs := head.toList ++ (if w.active then (w.hblock.map (·.lpc)).toList else [])
      let sets := liveAt t false (off w.pc g.code) :: lpcs.map fun a => liveAt t true (off a w.laneBase)
      if sets.all Option.isSome then sets.foldl (fun a x => a.union (x.getD LiveSet.all)) { s := 0, v := 0, p := 0, k := 0, a := 0 }
      else LiveSet.all

/-- A warp whose registers that were not saved read zero (R260). -/
def Warp.prune (w : Warp) (l : LiveSet) : Warp :=
  { w with s := Tab.filterKeys w.s fun i => l.s.testBit i, v := Tab.filterKeys w.v fun i => l.v.testBit (i / 32)
           p := Tab.filterKeys w.p fun i => l.p.testBit i, k := Tab.filterKeys w.k fun i => l.k.testBit i
           kTag := w.kTag &&& BitVec.ofNat 8 l.k, aBase := Tab.filterKeys w.aBase fun i => l.a.testBit i
           aStride := Tab.filterKeys w.aStride fun i => l.a.testBit i }

/-- A mask-stack entry as it is saved (R317). -/
def MaskEntry.pack (e : MaskEntry) : Nat :=
  e.active.toNat + e.elseMask.toNat * 2 ^ 32
    + (match e.kind with | .base => 0 | .ifArm => 1 | .elseArm => 2 | .loop => 3) * 2 ^ 64 + e.start.toNat * 2 ^ 66

/-- A block's mask stack, base first, from an offset of the image, and its stopped instruction behind it (R436). -/
def blockCells (o stop : Nat) (b : Option Block) : List (Nat × Nat × Nat) :=
  match b with
  | none => [(o, 512, 0), (stop, 32, 0)]
  | some b =>
    (o, 512, 0) :: ((List.range b.stack.length).map fun i => (o + 16 * i, 16, (b.stack.reverse.getD i { active := 0 }).pack))
      ++ [(stop, 32, b.thread + b.seg * 2 ^ 32 + (b.running.getD 0).toNat * 2 ^ 64 + b.fault.isSome.toNat * 2 ^ 128)]

/-- A warp record (R436) as offset, bytes and value of each run it writes; `flags` are what stands in the flags of the
queue entries, which the spec does not lay out. -/
def warpCells (w : Warp) (l : LiveSet) (bar : Nat) (flags : Nat) : List (Nat × Nat × Nat) :=
  let regs (n : Nat) (live : Nat) : List Nat := (List.range n).filter fun i => live.testBit i
  let gang := match w.gang with
    | some z => z.g + z.n * 2 ^ 4 + z.m * 2 ^ 8 + 2 ^ 15 + z.seq % 2 ^ 32 * 2 ^ 32
    | none => 0
  let phase := match w.bar with | some b => b.phase.toNat | none => 0
  let grow := w.park = .grow
  ((regs 64 l.s).map fun i => (8 * i, 8, (Tab.get 0 w.s i).toNat))
    ++ ((regs 16 l.a).map fun i => (0x200 + 16 * i, 16, (Tab.get 0 w.aBase i).toNat + (Tab.get 0 w.aStride i).toNat * 2 ^ 64))
    ++ ((regs 8 l.k).map fun i => (0x300 + 16 * i, 16, (Tab.get 0 w.k i).toNat))
    ++ [(0x380, 1, w.kTag.toNat &&& l.k), (0x381, 1, w.held + (if grow then 128 else 0)),
        (0x382, 6, if grow then ((w.growTick.map (·.1)).getD 0) % 2 ^ 43 else 0), (0x388, 8, gang), (0x390, 4, 0)]
    ++ ((regs 8 l.p).filterMap fun i => if i = 0 then none else some (0x390 + 4 * i, 4, (Tab.get 0 w.p i).toNat))
    ++ ((List.range 10).map fun i => (0x3B0 + 8 * i, 8, ([w.pc.toNat, w.arithCtl.toNat, w.modQ.toNat, w.stackLim.toNat,
        w.trapCause.toNat, w.trapPc.toNat, w.trapLpc.toNat, w.trapAddr.toNat, bar, phase]).getD i 0))
    ++ ((List.range 17).map fun i => match (w.queue ++ w.hblock.toList)[i]? with
        | some b => (0x400 + 16 * i, 16, b.lpc.toNat + b.mask.toNat * 2 ^ 64 + flags % 2 ^ 32 * 2 ^ 96)
        | none => (0x400 + 16 * i, 16, 0))
    ++ [(0x510, 0xF0, 0), (0xA40, 0x5C0, 0)]
    ++ blockCells 0x600 0x800 w.queue.head?
    ++ blockCells 0x820 0xA20 (if w.active then w.hblock else none)
    ++ ((regs (64 * (1 + w.held)) l.v).flatMap fun r => (List.range 32).map fun t =>
        (0x1000 + 128 * r + 4 * t, 4, (Tab.get 0 w.v (32 * r + t)).toNat))

/-- A bulk send record (R180). -/
def bulkCells (o : Nat) (x : BulkSend) : List (Nat × Nat × Nat) :=
  let opt (v : Option Nat) : Nat := v.getD (2 ^ 64 - 1)
  let got (i : Nat) : Bool := x.got.any fun r => decide (r.1 ≤ i ∧ i < r.1 + r.2)
  let next := ((0 :: x.got.map fun r => r.1 + r.2).filter fun i => !got i).foldl Nat.min x.total
  let left := x.total - x.got.foldl (fun n r => n + r.2) 0
  [(o, 16, x.cap.toNat), (o + 16, 8, x.src), (o + 24, 8, x.land.toNat), (o + 32, 8, opt (x.flag.map fun f => f.1)),
   (o + 40, 8, (x.flag.map fun f => f.2.toNat).getD 0), (o + 48, 8, left), (o + 56, 8, next), (o + 64, 4, x.request.getD 0),
   (o + 68, 2, capPeer x.cap), (o + 70, 2, x.prio % 4), (o + 72, 8, x.total), (o + 80, 8, opt x.rxLand), (o + 88, 8, 2 ^ 56)]

/-- The latch of a gang as it is saved (R435). -/
def State.gangImage (s : State) (i gang : Nat) : Nat :=
  let ms := (s.warpsOf i).filterMap fun w => ((s.warp? w).bind Warp.gang).filter fun z => z.g == gang
  let came := (s.wg i).latch gang
  match ms with
  | [] => 0
  | z :: _ =>
    let seq := match came with | a :: _ => a.seq | [] => z.seq
    let bits (l : List Nat) : Nat := l.foldl (fun b m => b ||| 2 ^ m) 0
    z.n + bits (ms.map (·.m)) * 2 ^ 8 + bits (came.map (·.m)) * 2 ^ 16 + seq % 2 ^ 32 * 2 ^ 32

/-- The scratchpad address of a cell for a workgroup: its own, or a member's window (R33, R34). -/
def State.spAddr (s : State) (i cell : Nat) : Nat :=
  let own (g : Workgroup) : Bool := decide (g.cell 0 ≤ cell ∧ cell < g.cell 0 + g.spBytes)
  let g := s.wg i
  if own g ∨ g.cluster.isNone then cell - g.cell 0
  else match s.wgs.find? fun (x : Workgroup) => x.cluster == g.cluster && own x with
    | some x => 0x1000000 + x.member * 0x80000 + (cell - x.cell 0)
    | none => cell - g.cell 0

/-- The runs of a save slot that lie outside memory copied as it is (R435). -/
def State.slotCells (s : State) (i : Nat) (sends : List BulkSend) (flags : Nat) : List (Nat × Nat × Nat) :=
  let g := s.wg i
  let maps := g.store.maps
  let ws := (s.warpsOf i).filterMap fun w => s.warp? w
  match s.launch? g.launch with
  | none => []
  | some l =>
    [(0, 8, l.num % 2 ^ 32 + g.level * 2 ^ 32), (8, 32, workImage l g.ordinal), (0x28, 8, g.age), (0x30, 1, hdrWarps l.header),
     (0x31, 1, maps.length), (0x32, 2, sends.length), (0x34, 0xCC, 0)]
      ++ ((List.range maps.length).map fun j =>
          let m := maps.getD j (0, 0, 0)
          (0x100 + 16 * j, 16, m.1 + (m.2.1 + m.2.2 * 2 ^ 32) * 2 ^ 64))
      ++ ((List.range sends.length).flatMap fun j => match sends[j]? with
          | some x => bulkCells (0x200 + 96 * j) x
          | none => [])
      ++ (ws.flatMap fun w =>
          let bar := match w.bar with | some b => b.cell + b.sync.toNat | none => 0
          (warpCells w (s.liveOf g w) bar flags).map fun c => (0x6200 + 0x9000 * w.idx + c.1, c.2.1, c.2.2))
      ++ ((List.range 256).map fun c => (0x237000 + 8 * c, 8, if c < 50 then (g.mxr (0x40 + c)).toNat else 0))
      ++ ((List.range 2).map fun j =>
          let p := g.slots.getD j {}
          (0x237800 + 16 * j, 16, p.bound + (if p.bound = 0 then 0 else p.cls) * 2 ^ 64))
      ++ ((List.range 4).map fun j => (0x237820 + 16 * j, 16, s.gangImage i j)) ++ [(0x237860, 0x7A0, 0)]

/-- A workgroup's arrays lifted out of its core (R430 step 7), with the mappings it had. -/
def State.liftArrays (s : State) (g : Workgroup) (maps : List (Nat × Nat × Nat)) : SavedArrays :=
  let c := g.cell 0
  let each {α : Type} (n : Nat) (m : Tab α) (size : Nat) (key : Nat → Nat) : Tab α :=
    (List.range n).flatMap fun t => Tab.lift m (key t * size) size (t * size)
  { sp := Tab.lift s.mem.sp c g.spBytes 0, spPoison := Tab.lift s.mem.spPoison (c / 32) (g.spBytes / 32) 0
    spTags := Tab.lift s.mem.spTags (c / 16) (g.spBytes / 16) 0
    tile := each g.tiles s.mx.tile 32768 g.tileKey, scale := each g.tiles s.mx.scale 4096 g.tileKey
    tilePoison := each g.tiles s.mx.tilePoison 128 g.tileKey, acc := each g.accs s.mx.acc 24576 g.accKey
    accPoison := each g.accs s.mx.accPoison 24576 g.accKey, maps := maps }

/-- A workgroup's arrays put back into the core it now stands on. -/
def State.putArrays (s : State) (g : Workgroup) (a : SavedArrays) : State :=
  let c := g.cell 0
  let each {α : Type} [DecidableEq α] (d : α) (n : Nat) (m src : Tab α) (size : Nat) (key : Nat → Nat) : Tab α :=
    (List.range n).foldl (fun m t => Tab.graft d m src (t * size) size (key t * size)) m
  { s with mem := { s.mem with sp := Tab.graft 0 s.mem.sp a.sp 0 g.spBytes c
                               spPoison := Tab.graft false s.mem.spPoison a.spPoison 0 (g.spBytes / 32) (c / 32)
                               spTags := Tab.graft false s.mem.spTags a.spTags 0 (g.spBytes / 16) (c / 16) }
           mx := { s.mx with tile := each 0 g.tiles s.mx.tile a.tile 32768 g.tileKey
                             scale := each 0 g.tiles s.mx.scale a.scale 4096 g.tileKey
                             tilePoison := each false g.tiles s.mx.tilePoison a.tilePoison 128 g.tileKey
                             acc := each 0 g.accs s.mx.acc a.acc 24576 g.accKey
                             accPoison := each false g.accs s.mx.accPoison a.accPoison 24576 g.accKey } }

/-- The arrays written into a slot (R435): elements, 32-bit scales and cells; a poisoned scratchpad sector is written
poisoned, and tags go where memory keeps them. -/
def State.writeArrays (s : State) (g : Workgroup) (pa : Nat) : State :=
  let a := g.store
  let s := s.writeRun (pa + 0x97000) g.spBytes (readN a.sp 0 g.spBytes) (g.spBytes / 128 + 1)
  let s := a.spPoison.foldl (fun s e => s.poisonSector ((pa + 0x97000) / 32 + e.1)) s
  let s := if pa < 0xC000000000 then
      { s with mem := { s.mem with tags := a.spTags.foldl (fun t e => Tab.set false t ((pa + 0x97000) / 16 + e.1) e.2) s.mem.tags } }
    else s
  let words {w : Nat} (t : Tab (BitVec w)) (from' n : Nat) : Nat :=
    (List.range n).foldl (fun x i => x + (Tab.get 0 t (from' + i)).toNat * 2 ^ (32 * i)) 0
  let s := (List.range g.tiles).foldl (fun s t =>
    let b := pa + 0x117000 + 49152 * t
    (s.writeRun b 32768 (readN a.tile (32768 * t) 32768) 257).writeRun (b + 32768) 16384 (words a.scale (4096 * t) 4096) 129) s
  (List.range g.accs).foldl (fun s c => s.writeRun (pa + 0x1D7000 + 98304 * c) 98304 (words a.acc (24576 * c) 24576) 769) s

/-- A workgroup that has stopped can be saved now (R430 steps 1 to 5): no stream inside an instruction, every engine
operation that touches its scratchpad has landed, no bulk send waits to start, its tensor instructions are performed up
to a parked one, and its core's write-combining entries have gone. -/
def State.saveReady (s : State) (i : Nat) : Bool :=
  let g := s.wg i
  ((s.warpsOf i).all fun wi => match s.warp? wi with
    | some w => !s.inside wi w false && !s.inside wi w true && w.park != .pipeline
    | none => true)
  && !(s.eng.ops.any fun o => o.wg == i && (match o.kind with
      | .fence _ => false
      | .post => srcKind o.req == 1 || dstKind o.req == 1 || landIsSp o.land
      | .cond => srcKind o.req == 1 || dstKind o.req == 1 || landIsSp o.land || landIsSp (BitVec.ofNat 64 (reqGet o.req 72 8))
      | _ => true))
  && (match s.eng.mx.find? fun o => o.wg == i && (match o.kind with | .fence _ => false | _ => true) with
      | some o => o.park.isSome
      | none => true)
  && !((s.drainCore g.core).fab.wcb.any fun e => e.core == g.core)
  && (match g.stopping with
      | some n => !g.cert || s.framesUntracked (s.slotFrames g.ctx n)
      | none => true)

/-- The core of a saved workgroup's tensor instructions: no MX core. -/
def awayCore (i : Nat) : Nat := 2 ^ 16 + i

/-- What is left in a slot's and the model's hands once a workgroup is saved (R430 steps 4 to 8, R150, R410). -/
def State.saveWg (s : State) (i : Nat) : State :=
  let g := s.wg i
  match g.stopping with
  | none => s
  | some n =>
    let parked := s.eng.mx.any fun (o : MxOp) => o.wg == i && (match o.kind with | .fence _ => false | _ => true)
    let mx := s.eng.mx.map fun (o : MxOp) => if o.wg = i ∧ parked then { o with core := awayCore i } else o
    let s := { s with eng := { s.eng with mx := mx } }
    let s := (s.emitSlot i 0).emitSlot i 1
    let sends := s.fab.sends.filter fun x => x.wg == i && !x.egress
    let away := s.fab.sends.map fun (x : BulkSend) => if sends.contains x then { x with parked := true, held := [] } else x
    let s := { s with fab := { s.fab with sends := away } }
    let s := sends.foldl (fun s x => s.send (.parkSend x.id (capPeer x.cap))) s
    let s := s.drainCore g.core
    let maps := (s.mem.maps.filter fun m => m.wg == i).map fun m => (m.va, m.row - g.cell 0, m.lines.length)
    let s := s.unmapAll i
    let g := { s.wg i with tiles := if g.live then g.tiles else 0, accs := if g.live then g.accs else 0 }
    let asked := s.eng.grow.filter fun x => (s.warpsOf i).contains x.2.1
    let c := s.core g.core
    let owed := (s.fab.flights.filter fun f => f.core == g.core || g.store.flights.contains f.id).map fun f => f.id
    let s := s.setWg i { g with store := { s.liftArrays g maps with
      grow := asked, flights := owed, hosted := decide (c.flushed < c.posted) } }
    let s := ((s.warpsOf i).foldl (fun s wi => s.dropGrow wi) s).dropGrains (s.warpsOf i)
    let s := (s.warpsOf i).foldl (fun s wi => (s.dropRemotes wi).modWarp wi fun w =>
      { w with mon := none, qfence := none, record := none, lane := false
               bar := w.bar.map fun b => { b with cell := s.spAddr i b.cell } }) s
    let (flags, s) := s.free Config.freeWord
    let pa := s.slotPa g.ctx n
    let s := (s.slotCells i sends flags.toNat).foldl (fun s c => s.writeRun (pa + c.1) c.2.1 c.2.2 (c.2.1 / 128 + 2)) s
    let s := s.writeArrays (s.wg i) pa
    let s := if g.cert then s.holdFrames g.launch (s.slotFrames g.ctx n) else s
    let s := (s.warpsOf i).foldl (fun s wi => s.modWarp wi fun w =>
      { w.prune (s.liveOf g w) with
          park := match w.park with | .latch => .latch | .grow => .grow | _ => .run
          queue := w.queue.map fun b => { b with fault := none }, hblock := w.hblock.map fun b => { b with fault := none } }) s
    let s := if s.badTable g then
        { s with sched := { s.sched with badTables := s.sched.badTables + (s.warpsOf i).length } } else s
    let s := match s.launch? g.launch with
      | some l => s.looks (plumbWho g.ctx) (s.tablePages g.ctx (hdr l.header 24 8))
      | none => s
    (s.idleFrom g.core).modWg i fun g => { g with saved := some n, stopping := none }

/-- A save that cannot take effect any more frees its slots: every workgroup of it has ended (R430). -/
def State.dropSave (s : State) (l : List Nat) : State :=
  l.foldl (fun s i => match (s.wg i).stopping with
    | some n => (s.freeSlot (s.wg i).ctx n).modWg i fun g => { g with stopping := none }
    | none => s) s

/-- The workgroups stopped together with one. -/
def State.stoppedWith (s : State) (i : Nat) : List Nat :=
  match (s.wg i).cluster with
  | some c => s.wgIds.filter fun j => (s.wg j).cluster == some c && (s.wg j).stopping.isSome
  | none => if (s.wg i).stopping.isSome then [i] else []

/-- Every warp of workgroups to be saved performs its package-scope release (R150, R430 step 5). -/
def State.saveReleases (s : State) (l : List Nat) : State :=
  l.foldl (fun s i => (s.warpsOf i).foldl (fun s wi => match s.release wi (s.wg i).core 5 with
    | .ok t => t
    | .error (.park _ t) => t
    | .error _ => s) s) s

/-- A stopped workgroup, with the members of its cluster launch, is saved once every step can be made, and its resume
record joins its level (R430, R432). -/
def State.finishSave (s : State) (i : Nat) : State :=
  let l := s.stoppedWith i
  if l.isEmpty then s
  else if !(l.any fun j => (s.wg j).live) then s.dropSave l
  else if !l.all s.saveReady then s
  else
    let s := s.saveReleases l
    if !s.writesDone then s else
    let s := l.foldl (fun s j => s.saveWg j) s
    let g := s.wg i
    let r : WorkRec := { part := g.part, level := g.level, launch := g.launch
                         queue := ((s.launch? g.launch).map (·.queue)).getD 128, ring := none, ordinals := []
                         resume := l.mergeSort fun a b => decide ((s.wg a).member ≤ (s.wg b).member), tick := s.tick }
    { s with sched := { s.sched with work := s.sched.work ++ [r] } }

/-- PREEMPTION (R429, R430): work record `r` starts a pre-emption, or workgroup `r`, stopped for a save, is saved. -/
def execPreemption (r : Nat) (finish : Bool) (s : State) : Host.Outcome State Fault Refusal :=
  .next (if finish then s.finishSave r
    else match s.sched.work[r]? with
      | some x => s.startPreemption x
      | none => s)

/-- The scratchpad cell an address named when it was saved. -/
def State.spCellOf (s : State) (i a : Nat) : Nat :=
  let g := s.wg i
  if a < 0x1000000 then g.cell a
  else match s.member g (a / 0x80000 % 4) with
    | some t => t.cell (a % 0x80000)
    | none => g.cell (a % 0x80000)

/-- A mapping made again, line by line as far as R67 lets it (R432). -/
def State.remap (s : State) (i va row : Nat) : Nat → Nat → State
  | 0, _ => s
  | k + 1, n =>
    let g := s.wg i
    match s.translate (s.whoOf g) .atomic .rw false (BitVec.ofNat 64 (va + 128 * n)) with
    | .ok (t, s) =>
      let line := t.pa / 128
      if !t.kind.isMem ∨ t.cache ≠ 0 ∨ t.checked ∨ (s.mem.mapCell line).isSome then s
      else ((s.mapLine g.core line (g.cell row + 128 * n)).addMapping i g va (g.cell row) line).remap i va row k (n + 1)
    | .error _ => s

/-- A saved workgroup starts again on a core (R432): its arrays, warps, tensor instructions and bulk sends. -/
def State.restoreWg (s : State) (i c : Nat) : State :=
  let g := s.wg i
  match g.saved with
  | none => s
  | some n =>
    let slots := lowestFree ((s.warpsOn c).filterMap fun w => (s.warp? w).map (·.slot)) 64 16
    let ws := s.warpsOf i
    let s := s.allocate i c
    let s := s.putArrays (s.wg i) g.store
    let k := s.core c
    let s := if g.store.hosted then s.setCore c { k with posted := k.posted + 1 } else s
    let named := (s.launch? g.launch).bind (·.witness)
    let s := s.modWg i fun g =>
      let live (id : Nat) : Bool := id != 0 && named == some id && (s.record? id).isSome
      { g with saved := none, slots := g.slots.map fun p =>
          let issued := if live p.issued then p.issued else 0
          if live p.bound then { p with issued := issued } else { issued := issued, issuedCls := if issued = 0 then 0 else p.issuedCls } }
    let s := (List.range ws.length).foldl (fun s j => s.modWarp (ws.getD j 0) fun w => { w with slot := slots.getD j 0 }) s
    let s := { s with eng := { s.eng with
      mx := s.eng.mx.map fun (o : MxOp) => if o.wg = i ∧ o.core = awayCore i then { o with core := c, park := none } else o
      grow := g.store.grow.foldl (fun l r => growInsert r l) s.eng.grow } }
    let live := s.fab.sends.filter fun x => x.wg == i && x.parked
    let back := s.fab.sends.map fun (x : BulkSend) => if x.wg = i then { x with parked := false, fault := none, core := c } else x
    let s := { s with fab := { s.fab with sends := back } }
    let s := live.foldl (fun s x => s.send (.resumeSend x.id (capPeer x.cap))) s
    let s := s.freeSlot g.ctx n
    s.modLaunch g.launch fun l => { l with cores := if l.cores.contains c then l.cores else l.cores ++ [c] }

/-- The lines that the mappings of a saved workgroup name can be taken from their homes now, or the state in which that is
waited for (R59, R432). -/
def State.remapReady (s : State) (core i : Nat) : Except Stop State :=
  let w : Who := s.whoOf (s.wg i)
  ((s.wg i).store.maps.flatMap fun m => (List.range m.2.2).map fun k => m.1 + 128 * k).foldlM (fun s va =>
    match s.leafAt w (BitVec.ofNat 64 va) with
    | .ok t =>
      if t.kind.isMem then do
        let s ← (s.l1DropAll (clusterCores core) (t.pa / 128)).homeReady (t.pa / 128) 128 true
        need (!s.dirAwaited (t.pa / 128)) (.park .response s)
        return s
      else .ok s
    | .error _ => .ok s) s

/-- RESUME_WORKGROUP (R432): a core, or a cluster, takes the resume record it has room for. -/
def execResumeWorkgroup (core : Nat) (s : State) : Host.Outcome State Fault Refusal :=
  .next (if 256 ≤ core then s
    else match s.pick core with
      | none => s
      | some r =>
        if r.resume.isEmpty then s
        else match ((unitCores r.resume.length core).zip r.resume).foldlM (fun s e => s.remapReady e.1 e.2) s with
        | .error (.park _ t) => t
        | .error _ => s
        | .ok s =>
          let l := (unitCores r.resume.length core).zip r.resume
          let s := l.foldl (fun s e => s.restoreWg e.2 e.1) (s.dropWork r)
          l.foldl (fun s e =>
            let i := e.2
            let maps := match s.wgs[i]? with | some g => g.store.maps | none => []
            let s := maps.foldl (fun s m => s.remap i m.1 m.2.1 m.2.2 0) s
            let s := s.modWg i fun g => { g with store := {} }
            let s := (s.warpsOf i).foldl (fun s wi => s.modWarp wi fun w =>
              { w with bar := w.bar.map fun b => { b with cell := s.spCellOf i b.cell } }) s
            s.acquire e.1 5) s)

end Sys2Proof.Machine
end

