-- ==== Sys2Proof/Machine/Retire.lean ====
section
/-! DEFINITION. Failure counts, the withdrawal of core pairs and courses (R456, R457, R463) and the 24-hour window. -/

namespace Sys2Proof.Machine

/-- 24 hours of device ticks (R135, R456). -/
def dayTicks : Nat := 86400000000

/-- A tick lies within the last 24 hours. -/
def State.recent (s : State) (t : Nat) : Bool := decide (s.tick < t + dayTicks)

/-- Charges of a kind to a core within the last 24 hours. -/
def State.chargesOf (s : State) (core kind : Nat) : Nat :=
  (s.cert.charges.filter fun e => e.core == core && e.kind == kind && s.recent e.tick).length

/-- A core's health entry (R457). -/
def State.health (s : State) (c : Nat) : BitVec 32 := Tab.get 0 s.cert.health c

/-- A core's health entry written. -/
def State.setHealth (s : State) (c : Nat) (x : BitVec 32) : State :=
  { s with cert := { s.cert with health := Tab.set 0 s.cert.health c x } }

/-- The two counts of a core's health entry as they stand (R457). -/
def State.recount (s : State) (c : Nat) : State :=
  s.setHealth c (setField (setField (s.health c) 15 8 (Nat.min 255 (s.chargesOf c 0))) 7 0 (Nat.min 255 (s.chargesOf c 1)))

/-- The workgroups on some cores are told to stop for a save where every member has a slot (R429, R456, R468). -/
def State.saveCores (s : State) (cores : List Nat) (p : Workgroup → Bool) : State :=
  let on := s.wgIds.filter fun i =>
    let g := s.wg i
    g.live && g.saved.isNone && g.stopping.isNone && cores.contains g.core && p g
  ((on.map s.saveGroup).eraseDups).foldl (fun s l =>
    if s.slotsFor l && !l.any fun j => (s.wg j).stopping.isSome then s.beginSave l else s) s

/-- A core pair is retired (R456): fused, recorded, and its workgroups saved where they can be. -/
def State.retireCore (s : State) (c why : Nat) : State :=
  if s.retired c then s
  else
    let s := s.setHealth c (setBit (setField (s.health c) 30 27 why) 31 true)
    let s := { s with rel := { s.rel with fuseCore := Tab.set false s.rel.fuseCore c true } }
    (s.logEvent 6 0 c (BitVec.ofNat 64 why)).saveCores [c] fun _ => true

/-- The VS cores of a course (R3). -/
def courseCores (k : Nat) : List Nat := (List.range 64).map fun i => 64 * k + i

/-- A course is retired with its core pairs (R456); its homes keep serving memory. -/
def State.retireCourse (s : State) (k : Nat) : State :=
  if Tab.get false s.rel.fuseCourse k then s
  else
    let s := { s with rel := { s.rel with fuseCourse := Tab.set false s.rel.fuseCourse k true } }
    (courseCores k).foldl (fun s c => s.retireCore c 4) (s.logEvent 6 1 k 4)

/-- A charge to a core, with the retirement that its limit brings (R456, R463). -/
def State.charge (s : State) (c kind record limit why : Nat) : State :=
  let e : Charge := { core := c, kind := kind, tick := s.tick, record := record }
  let s := { s with cert := { s.cert with charges := s.cert.charges ++ [e] } }
  let s := s.recount c
  if limit ≤ s.chargesOf c kind then s.retireCore c why else s

/-- A failed record charged to cores, and to their courses (R452, R456). -/
def State.chargeWitness (s : State) (cores : List Nat) (id : Nat) : State :=
  let s := cores.foldl (fun s c =>
    (s.logEvent 5 0 c (BitVec.ofNat 64 id)).charge c 0 id (field s.cert.cfg 39 32) 1) s
  (cores.map coreCourse).eraseDups.foldl (fun s k =>
    let s := { s with cert := { s.cert with courseFails := s.cert.courseFails ++ [(k, s.tick, id)] } }
    let n := (s.cert.courseFails.filter fun e => e.1 == k && s.recent e.2.1).length
    if field s.cert.cfg 47 40 ≤ n then s.retireCourse k else s) s

/-- FAILURE_WINDOW_EXPIRY (R456): what is older than 24 hours leaves the counts. -/
def execFailureWindowExpiry (s : State) : Host.Outcome State Fault Refusal :=
  let c := s.cert
  let old := (c.charges.filter fun e => !s.recent e.tick).map (·.core)
  let s := { s with cert := { c with charges := c.charges.filter fun e => s.recent e.tick
                                     courseFails := c.courseFails.filter fun e => s.recent e.2.1 } }
  .next (old.eraseDups.foldl (fun s c => s.recount c) s)

end Sys2Proof.Machine
end

