-- ==== Sys2Proof/Machine/WitKernel.lean ====
section
/-! DEFINITION. What the firmware's witness kernels deliver: the quantities that R448 and R450 define from a record's
tensors and seeds, its floating quantities computed in FP64 (R447, entry 58). -/

namespace Sys2Proof.Machine

/-- `n` bytes of a context's memory as a witness kernel finds them, kiln pages among them; none where they do not
translate, are no memory or read poisoned. -/
def State.kernelBytes (s : State) (ctx va n : Nat) : Option Nat :=
  (pageParts (va % 2 ^ 64) n).foldr (fun (p : Nat × Nat) acc => do
    let rest ← acc
    match s.leafAt (plumbWho ctx) (BitVec.ofNat 64 p.1) with
    | .ok t => if t.kind.isMem ∧ !s.mem.poisoned t.pa p.2 then some (s.mem.readCoh t.pa p.2 + rest * 2 ^ (8 * p.2)) else none
    | .error _ => none) (some 0)

/-- An element as it is stored: its bits, and the scale word of its block (R378). -/
structure Elem where
  code : Nat
  scale : Nat := 0
  deriving DecidableEq, Repr

/-- The elements of a row of a tensor, by logical column (R185, R378, R392). -/
def State.tensorRow (s : State) (ctx : Nat) (e : BitVec 512) (row : Nat) : Option (List Elem) := do
  let f := teFormat e
  let w := fmtBits f
  let n := teCols e
  let stored := if teSparse e then n / 2 else n
  let x ← s.kernelBytes ctx (rowVa e row 0) (rowLen stored w)
  let m ← if teSparse e then s.kernelBytes ctx (teMeta e + row * teAuxPitch e) ((n / 4 + 1) / 2) else some 0
  let bits := if teSparse e then (unsparse w x m (n / 4)).1 else x
  let sc ← if fmtBlock f then s.kernelBytes ctx (teAux e + row * teAuxPitch e) (4 * ((n + teBlock e - 1) / teBlock e)) else some 0
  return (List.range n).map fun i =>
    { code := bits / 2 ^ (w * i) % 2 ^ w, scale := if fmtBlock f then sc / 2 ^ (32 * (i / teBlock e)) % 2 ^ 20 else 0 }

/-- The elements of a tensor, row by row. -/
def State.tensorRows (s : State) (ctx : Nat) (e : BitVec 512) : Option (List (List Elem)) :=
  (List.range (teRows e)).mapM (s.tensorRow ctx e)

/-- The exact value of an element of a tensor; none for a NaN or an infinity. -/
def elemRat (e : BitVec 512) (x : Elem) : Option Rat :=
  match elemFp (teFormat e) (teDesc e) (teAux e) x.scale x.code with
  | .fin n y => some (signedRat n y)
  | _ => none

/-- The values of a tensor's elements. -/
def ratRows (e : BitVec 512) (l : List (List Elem)) : List (List (Option Rat)) := l.map fun r => r.map (elemRat e)

/-- A whole number. -/
def ratInt (x : Rat) : Option Int := if x.den = 1 then some x.num else none

/-- An absolute value. -/
def ratAbs (x : Rat) : Rat := if x < 0 then -x else x

/-- A finite FP64 value (R447). -/
def ratOf (x : Word) : Option Rat :=
  match fmtF64.decode x.toNat with
  | .fin n y => some (signedRat n y)
  | _ => none

/-- A result as a kernel forms it: rounded to FP64, none where that is an infinity (R447), or exact. -/
def kRound (fp : Bool) (md : Mode) (x : Rat) : Option Rat :=
  if fp then ratOf (BitVec.ofNat 64 (fmtF64.finish md false (fpOf false x)).1) else some x

/-- A sum of exact terms, each addition rounded in turn (R447); none where a term is none. -/
def kSum (fp : Bool) (md : Mode) (l : List (Option Rat)) : Option Rat :=
  l.foldl (fun acc x => do kRound fp md ((← acc) + (← x))) (some 0)

/-- A value's sum, to the nearest, and a magnitude's, toward +∞ (R447). -/
def kVal (fp : Bool) : List (Option Rat) → Option Rat := kSum fp .rne
def kMag (fp : Bool) : List (Option Rat) → Option Rat := kSum fp .rup

/-- A value at a place of a matrix. -/
def matAt (m : List (List (Option Rat))) (i j : Nat) : Option Rat := ((m[i]?).bind fun r => r[j]?).join

/-- What a test of a record compares: its kind, class, bound class, PARAM, tensor entries and seeds. -/
structure TestOf where
  id : Nat
  ctx : Nat
  kind : Nat
  cls : Nat
  bound : Nat
  param : Nat
  ins : List (BitVec 512)
  outs : List (BitVec 512)
  seed : List Word

/-- A test's values are FP64 numbers (R447); those of the other tests are whole. -/
def TestOf.floats (t : TestOf) : Bool := t.kind == 3 || (t.cls == 3 && (t.kind == 0 || t.kind == 2 || t.kind == 5))

/-- The modulus of a test's output (R193). -/
def TestOf.q (t : TestOf) : Nat := teAux (t.outs.getD 0 0)

/-- The shape of the first input and the first output. -/
def TestOf.a (t : TestOf) : BitVec 512 := t.ins.getD 0 0
def TestOf.c (t : TestOf) : BitVec 512 := t.outs.getD 0 0

/-- The random entry r_{p,j} of a test (R447, R450). -/
def TestOf.r (t : TestOf) (p j : Nat) : Rat := (wr16 (t.seed.getD p 0) (j % 2 ^ 32) : Rat)

/-- z_p (R450). -/
def mersenne61 : Nat := 2 ^ 61 - 1
def TestOf.z (t : TestOf) (p : Nat) : Nat := (ch64 (t.seed.getD p 0) (BitVec.ofNat 64 t.id)).toNat % mersenne61

/-- A whole number as a value, reduced: mod q for MOD64, else mod 2^n; what is no whole number stays as it is. -/
def TestOf.reduce (t : TestOf) (n : Nat) (x : Rat) : Rat :=
  match ratInt x with
  | some k => if t.cls = 2 then ((k % (t.q : Int) : Int) : Rat) else ((k % (2 ^ n : Int) : Int) : Rat)
  | none => x

/-- p_{p,R} and Q_{p,R} of a GEMM (R448), in the order a kernel delivers them: for a FLOAT test each with its magnitude.
Its chain of additions is the one R447 counts: N, then K, then one. -/
def gemmValues (t : TestOf) (fp : Bool) (a b : List (List (Option Rat))) (res : Option (List (List (Option Rat)))) : List (Option Rat) :=
  let (m, k, n) := (teRows t.c, teCols t.a, teCols t.c)
  let rs (i j : Nat) : Option Rat := match res with | some x => matAt x i j | none => some 0
  let br (p : Nat) : List (Option Rat) := (List.range k).map fun i =>
    kVal fp ((List.range n).map fun j => (matAt b i j).map (· * t.r p j))
  let brs := [br 0, br 1]
  (List.range m).flatMap fun i => (List.range 2).flatMap fun p =>
    let v : Option Rat := do
      let x ← kVal fp ((List.range k).map fun l => do return (← matAt a i l) * (← ((brs.getD p [])[l]?).join))
      let y ← kVal fp ((List.range n).map fun j => (rs i j).map (· * t.r p j))
      kRound fp .rne (x + y)
    let mag : Option Rat := kMag fp ((List.range n).map fun j => do
      let x ← kMag fp ((List.range k).map fun l => do return ratAbs ((← matAt a i l) * (← matAt b l j)))
      return ratAbs (t.r p j) * (← kMag fp [some x, (rs i j).map ratAbs]))
    if t.cls = 3 then [v, mag] else [v]

/-- The order key of an element's bits (R450): two's complement for INT formats, the bits for NAT, MOD64 and BIN1, sign and
magnitude (IEEE totalOrder) for floating and NF codes, which for an unsigned NF format is the bits. -/
def orderKey (e : BitVec 512) (code : Nat) : Int :=
  let f := teFormat e
  let w := fmtBits f
  if f = 6 ∨ f = 8 ∨ f = 13 then signed w code
  else if f = 7 ∨ f = 9 ∨ f = 14 ∨ f = 15 then code
  else
    let sgn := if fmtNarrow f then (match nfDesc w (teDesc e) with | some d => d.sgn | none => false) else true
    if sgn ∧ code.testBit (w - 1) then -((code % 2 ^ (w - 1) : Nat) : Int) - 1 else code

/-- Adjacent pairs out of order. -/
def disorder (down : Bool) : List Int → Nat
  | x :: y :: r => (if (if down then x < y else y < x) then 1 else 0) + disorder down (y :: r)
  | _ => 0

/-- Π (z − bits(x) mod P) mod P (R450). -/
def polyProduct (z : Nat) (l : List Nat) : Nat :=
  l.foldl (fun a x => a * ((z + mersenne61 - x % mersenne61) % mersenne61) % mersenne61) 1

/-- Σ (bits(x_j) mod P) · z^j mod P (R450). -/
def polySum (z : Nat) (l : List Nat) : Nat := l.foldr (fun x a => (x % mersenne61 + a * z) % mersenne61) 0

/-- Extended Euclid: with `a ≡ u·x` and `b ≡ v·x` mod q, the gcd of `a` and `b` and a multiplier that gives it. -/
def euclid : Nat → Nat → Nat → Int → Int → Nat × Int
  | 0, a, _, u, _ => (a, u)
  | f + 1, a, b, u, v => if b = 0 then (a, u) else euclid f b (a % b) v (u - (a / b : Nat) * v)

/-- The inverse of x modulo q, where there is one. -/
def invMod? (q x : Nat) : Option Nat :=
  let (g, u) := euclid 200 (x % q) q 1 0
  if g = 1 then some (u % (q : Int)).toNat else none

/-- L_p and E_p of a row of an NTT at a point t; none where t is no point for it (R450). -/
def nttAt (q n root t : Nat) (xs ys : List Nat) : Option (Nat × Nat) :=
  let tn := powMod q 64 t n
  if tn = 1 % q then none
  else do
    let (_, sum) ← xs.foldlM (fun (a : Nat × Nat) x => do
      let i ← invMod? q ((a.1 * t + q - 1) % q)
      return (a.1 * root % q, (a.2 + x * i) % q)) (1 % q, 0)
    let l := ys.foldr (fun y a => (y + a * t) % q) 0
    return (l, (tn + q - 1) % q * sum % q)

/-- L_p and E_p of a row at the first point that serves, from `t` on. -/
def nttRow (q n root : Nat) (xs ys : List Nat) : Nat → Nat → Nat × Nat
  | 0, _ => (0, 0)
  | f + 1, t => match nttAt q n root (t % q) xs ys with
    | some v => v
    | none => nttRow q n root xs ys f (t + 1)

/-- The values that a witness kernel's rules define for a record (R448, R450), their floating quantities computed in FP64
(R447), or exact; none where a tensor cannot be read. -/
def State.kernelValues (s : State) (t : TestOf) (fp : Bool) : Option (List (Option Rat)) := do
  let ins ← t.ins.mapM (s.tensorRows t.ctx)
  let outs ← t.outs.mapM (s.tensorRows t.ctx)
  let x := ratRows t.a (ins.getD 0 [])
  let y := ratRows t.c (outs.getD 0 [])
  let codes (l : List (List Elem)) : List Nat := l.flatten.map Elem.code
  let nat (n : Nat) : Option Rat := some (n : Rat)
  let w := fmtBits (teFormat t.c)
  match t.kind with
  | 0 =>
    let b := ratRows (t.ins.getD 1 0) (ins.getD 1 [])
    return gemmValues t fp x b (ins[2]?.map (ratRows (t.ins.getD 2 0)))
  | 1 =>
    let (i, o) := (codes (ins.getD 0 []), codes (outs.getD 0 []))
    return nat (disorder (t.param % 2 == 1) (o.map (orderKey t.c)))
      :: [nat (polyProduct (t.z 0) i), nat (polyProduct (t.z 0) o), nat (polyProduct (t.z 1) i), nat (polyProduct (t.z 1) o)]
  | 2 =>
    let n := teCols t.c
    let part (p : Nat) : List (Option Rat) :=
      let terms : List (Option (Rat × Rat)) := (List.range (teRows t.c)).flatMap fun i => (List.range n).map fun j => do
        let a ← matAt y i j
        let b ← if j = 0 then some 0 else matAt y i (j - 1)
        let c ← matAt x i j
        let r := t.r p (i * n + j)
        let d ← kVal fp [some a, some (-b), some (-c)]
        let m ← kMag fp [some (ratAbs a), some (ratAbs b), some (ratAbs c)]
        return (r * (if t.cls = 3 then d else t.reduce w d), ratAbs r * m)
      let v := kVal fp (terms.map fun e => e.map (·.1))
      if t.cls = 3 then [v, kMag fp (terms.map fun e => e.map (·.2))] else [v.map (t.reduce 32)]
    return part 0 ++ part 1
  | 3 =>
    let b := ratRows (t.ins.getD 1 0) (ins.getD 1 [])
    let n := teCols t.a
    return (List.range (teRows t.c)).flatMap fun i => (List.range (teCols t.c)).flatMap fun c =>
      let terms := (List.range n).map fun k => do return (← matAt x i k) * (← matAt y k c)
      [kVal fp (terms ++ [(matAt b i c).map fun x => -x]), kMag fp (terms.map (fun e => e.map ratAbs) ++ [(matAt b i c).map ratAbs])]
  | 4 =>
    return (List.range (teRows t.c)).flatMap fun i => (List.range 2).flatMap fun p =>
      let row (l : List (List Elem)) : List Nat := (l.getD i []).map fun e => e.code % t.q
      let first := (ch64 (t.seed.getD p 0) (BitVec.ofNat 64 (t.id * 2 ^ 32 + i))).toNat % t.q
      let (l, e) := nttRow t.q (teCols t.c) t.param (row (ins.getD 0 [])) (row (outs.getD 0 [])) t.q first
      [nat l, nat e]
  | 5 =>
    let part (p : Nat) : List (Option Rat) :=
      let terms : List (Option (Rat × Rat)) := (List.range (teRows t.a)).map fun i => do
        let row := (List.range (teCols t.a)).map fun j => matAt x i j
        let a ← matAt y i 0
        let d ← kRound fp .rne (a - (← kVal fp row))
        let r := t.r p i
        return (r * (if t.cls = 3 then d else t.reduce w d),
          ratAbs r * (← kMag fp (row.map (fun e => e.map ratAbs) ++ [some (ratAbs a)])))
      let v := kVal fp (terms.map fun e => e.map (·.1))
      if t.cls = 3 then [v, kMag fp (terms.map fun e => e.map (·.2))] else [v.map (t.reduce 32)]
    return part 0 ++ part 1
  | _ =>
    return (ins.zip outs).flatMap fun e => (List.range 2).flatMap fun p =>
      [nat (polySum (t.z p) (codes e.1)), nat (polySum (t.z p) (codes e.2))]

end Sys2Proof.Machine
end

