-- ==== Sys2Proof/Machine/Witness.lean ====
section
/-! DEFINITION. The plumb's part of certified execution: seed epochs (R442, R443), witness kernels (R446), the exact tests
(R447-R450), failure and recheck (R452, R453) and re-execution (R99, R454). -/

namespace Sys2Proof.Machine

/-- Seed epochs that a live record names (R443). -/
def State.liveEpochs (s : State) : List Nat := (s.cert.records.map fun e => recGet e.2 12 4).eraseDups

/-- A new epoch's seeds drawn (R442). -/
def State.drawSeeds (s : State) (epoch : Nat) : State :=
  let c := s.cert
  let keep := c.seeds.filter fun e => s.liveEpochs.contains (e.1 / 2)
  let t := Tab.set 0 (Tab.set 0 keep (2 * epoch) (Config.seed s.host.seedState (2 * epoch))) (2 * epoch + 1)
    (Config.seed s.host.seedState (2 * epoch + 1))
  { s with cert := { c with epoch := epoch, epochTick := s.tick, seeds := t } }

/-- SEED_EPOCH (R442, R443): at its length's end the epoch changes, unless 4,096 are live. -/
def execSeedEpoch (s : State) : Host.Outcome State Fault Refusal :=
  .next (if s.tick < s.cert.epochTick + field s.cert.cfg 23 0 ∨ 4096 ≤ (s.cert.epoch :: s.liveEpochs).eraseDups.length then s
    else s.drawSeeds (s.cert.epoch + 1))

/-- A course's reset state (R470). -/
def State.courseState (s : State) (k : Nat) : Nat := field (Tab.get 0 s.rel.courseReg k) 2 0

/-- The courses a witness kernel for a record may not use (R446): the producer's, and for a recheck the first witness's. -/
def kernelExcluded (r : BitVec 2048) (recheck : Bool) : List Nat :=
  recGet r 5 1 % 4 :: (if recheck then [recGet r 5 1 / 4 % 4] else [])

/-- The courses that could take a kernel of a partition but for a reset under way. -/
def State.kernelCourses (s : State) (part : Nat) (out : List Nat) : List Nat :=
  (List.range 4).filter fun k => !out.contains k && decide (0 < s.goodOn part 0 k) && s.courseState k != 4

/-- The descendants of an operator that wait on its versions are reported failed with it, or the operator may be tried
again (R453). -/
def State.afterFailure (s : State) (id : Nat) : State :=
  match s.record? id with
  | some r => if 2 ≤ recGet r 7 1 / 8 % 4 ∨ !s.ctxValid (recGet r 8 1) then s.operatorFailed id else s
  | none => s

/-- A record becomes FAILED (R445, R452, R453): its outputs are tainted and what can be charged is. -/
def State.failRecord (s : State) (id : Nat) (charged : List Nat) : State :=
  match s.record? id with
  | none => s
  | some r =>
    let s := (s.setRecord id (setRState r 4)).taintRecord id [2] false
    (s.chargeWitness charged id).afterFailure id

/-- The cores in a record's CORES (R444). -/
def recCores (r : BitVec 2048) : List Nat :=
  (courseCores (recGet r 5 1 % 4)).filter fun c => (recGet r 160 8).testBit (c % 64)

/-- Kiln versions a kernel holds while it runs (R95): the record's inputs and outputs that their pages still bear. -/
def State.kernelHolds (s : State) (id : Nat) (r : BitVec 2048) : List Nat :=
  (s.outputsOf id ++ (recInputs r).filterMap (s.findVersion (recPart r))).eraseDups

/-- WITNESS_PLACE (R446): the firmware's kernel for a record is placed on a course, or the record fails because no course
can take it. -/
def execWitnessPlace (id course : Nat) (record : BitVec 1024) (header : BitVec 512) (s : State) :
    Host.Outcome State Fault Refusal :=
  .next (match s.record? id with
    | none => s
    | some r =>
      let part := recPart r
      let testing := rState r == 2
      let recheck := bit r 45 || testing
      let busy := s.sched.launches.any (fun l => l.kernelOf == some id) || s.cert.delivered.contains id
      if busy ∨ s.sched.frozen ∨ !(rState r == 1 || (testing && !bit r 45)) then s
      else
        let out := kernelExcluded r recheck
        let able := s.kernelCourses part out
        if able.isEmpty then s.failRecord id (if recheck then recCores r else [])
        else
          let holds := s.kernelHolds id r
          let ok := able.contains course && s.courseState course == 0 && s.witnessCtx part == some (recCtx record)
            && s.recordCode part record == 0 && lrec record 61 1 % 2 == 0 && headerOk header record && s.launchRoom part
            && holds.all fun f => decide (kHolders (s.kpage f) < 4095)
          if !ok then s
          else
            let l := newLaunch s.sched.nextLaunch part 0 record
            let s := s.addLaunch { l with kernelOf := some id, hold := holds }
            let s := holds.foldl (fun s f => s.hold f 1) s
            let s := s.modRecord id fun r =>
              let x := recGet r 5 1
              let x := if recheck then x % 32 + 32 else x % 4 + course * 4 + 16
              setRState (recSet r 5 1 x) 2
            s.runLaunch l.num header (s.placeBits part 0 fun n => n / 16 == course && s.clusterGood n))

/-- δ of a quantity (R447). -/
def deltaOf (l : Nat) (q : Rat) : Rat := ((l + 4 : Nat) : Rat) * pow2 (-52) * q

/-- The sum of |WR16| over indices below `n` (R447). -/
def absSum (seed : Word) (n : Nat) : Rat := (((List.range n).foldl (fun t j => t + (wr16 seed j).natAbs) 0 : Nat) : Rat)

/-- A FLOAT test of a delivered value and magnitude: |x| ≤ a·Q + b + δ; a NaN or an infinity fails (R447). -/
def floatTest (x q : Option Rat) (shift a b : Rat) (l : Nat) : Bool :=
  match x, q with
  | some x, some q => decide (ratAbs (shift - x) ≤ a * q + b + deltaOf l q)
  | _, _ => false

/-- The class of a test (R447): 1 INT, 2 MOD64, 3 FLOAT. -/
def testClass (out : BitVec 512) : Nat := if teFormat out = 14 then 2 else if fmtInt (teFormat out) then 1 else 3

/-- A record's test; none when its stored copy is gone. -/
def State.testOf (s : State) (id : Nat) (r : BitVec 2048) : Option TestOf :=
  match s.cert.stored.find? fun (x : Stored) => x.witness == id with
  | none => none
  | some st =>
    let n := recGet r 6 1 % 16
    let outs := st.entries.drop n
    let set := Tab.get 0 s.cert.classes id
    let own := testClass (outs.getD 0 0)
    some { id := id, ctx := recGet r 8 1, kind := recGet r 4 1 % 8, cls := if recGet r 4 1 % 8 = 0 ∧ set ≠ 0 then set else own, bound := recGet r 4 1 / 16
           param := recGet r 16 8, ins := st.entries.take n, outs := outs, seed := [s.seedOf id 0, s.seedOf id 1] }

/-- How many values a kernel delivers for a test (R448, R450). -/
def TestOf.count (t : TestOf) : Nat :=
  match t.kind with
  | 0 => teRows t.c * (if t.cls = 3 then 4 else 2)
  | 1 => 5
  | 3 => 2 * (teRows t.c * teCols t.c)
  | 4 => 4 * teRows t.c
  | 6 => 4 * t.ins.length
  | _ => if t.cls = 3 then 4 else 2

/-- The two projections of a comparison. -/
def bothSeeds (f : Nat → Bool) : Bool := f 0 && f 1

/-- The entry of a GEMM's record as its value region holds it, for row `i` and projection `p` (R404). -/
def State.projEntry (s : State) (t : TestOf) (i p : Nat) : Nat :=
  match s.entryAt t.id t.cls i p with
  | some a => s.readDev a (entryBytes t.cls)
  | none => 0

/-- Row `i` of a GEMM's test against the projection entries (R448). -/
def State.gemmRow (s : State) (t : TestOf) (v : Nat → Option Rat) (i : Nat) : Bool :=
  let k := teCols t.a
  bothSeeds fun p =>
    let e := entrySum t.cls (s.projEntry t i p)
    if t.cls = 3 then
      let c : Rat := (((k + 127) / 128 + 1 : Nat) : Rat)
      let g := pow2 (-23) * c
      let rho := rhoOf t.bound
      let w := absSum (t.seed.getD p 0) (teCols t.c)
      floatTest (v (4 * i + 2 * p)) (v (4 * i + 2 * p + 1)) ((e : Rat) / projUnit) (g + rho + g * rho)
        ((tauOf t.param + c * pow2 (-149)) * w) (k + teCols t.c + 1)
    else
      let q : Int := if t.cls = 2 then t.q else 2 ^ 32
      match (v (2 * i + p)).bind ratInt with
      | some x => decide (e % q = x % q)
      | none => false

/-- A comparison of one index of a test (R448, R450). -/
def State.testAt (s : State) (t : TestOf) (v : Nat → Option Rat) (i : Nat) : Bool :=
  let rho := rhoOf t.bound
  let zero (p : Nat) : Bool := match (v p).bind ratInt with
    | some x => x % (if t.cls = 2 then (t.q : Int) else 2 ^ 32) == 0
    | none => false
  let same (m : Option Nat) (a b : Nat) : Bool := match (v a).bind ratInt, (v b).bind ratInt with
    | some x, some y => (match m with | some q => x % (q : Int) == y % (q : Int) | none => x == y)
    | _, _ => false
  match t.kind with
  | 0 => s.gemmRow t v i
  | 1 => v 0 == some 0 && same none 1 2 && same none 3 4
  | 2 =>
    let j := teRows t.c * teCols t.c
    bothSeeds fun p =>
      if t.cls = 3 then floatTest (v (2 * p)) (v (2 * p + 1)) 0 rho ((tauOf t.param + pow2 (-149)) * absSum (t.seed.getD p 0) j) (j + 2)
      else zero p
  | 3 => match ratOf (BitVec.ofNat 64 t.param), v (2 * i), v (2 * i + 1) with
    | some tol, some e, some q => decide (ratAbs e + deltaOf (teRows t.a + 1) q ≤ tol)
    | _, _, _ => false
  | 4 => bothSeeds fun p => same (some t.q) (4 * i + 2 * p) (4 * i + 2 * p + 1)
  | 5 =>
    let n := teCols t.a
    bothSeeds fun p =>
      if t.cls = 3 then
        floatTest (v (2 * p)) (v (2 * p + 1)) 0 ((n : Rat) * rho)
          ((tauOf t.param + (n : Rat) * pow2 (-149)) * absSum (t.seed.getD p 0) (teRows t.a)) (teRows t.a + n + 1)
      else zero p
  | _ => bothSeeds fun p => same none (4 * i + 2 * p) (4 * i + 2 * p + 1)

/-- A delivered 64-bit value. -/
def TestOf.value (t : TestOf) (x : Word) : Option Rat := if t.floats then ratOf x else some (x.toNat : Rat)

/-- The indices a test compares. -/
def TestOf.indices (t : TestOf) : Nat :=
  match t.kind with
  | 0 | 4 => teRows t.c
  | 3 => teRows t.c * teCols t.c
  | 6 => t.ins.length
  | _ => 1

/-- An index of a test whose projection entries are UNREP (R407): the plumb fails it. -/
def State.unrepAt (s : State) (t : TestOf) (i : Nat) : Bool :=
  t.kind == 0 && !bothSeeds fun p => !entryUnrep t.cls (s.projEntry t i p)

/-- A test's first failing index; none where it passes. -/
def State.runTest (s : State) (t : TestOf) (values : List (Option Rat)) : Option Nat :=
  (List.range t.indices).find? fun i => s.unrepAt t i || !s.testAt t (fun k => (values[k]?).join) i

/-- One count of cert_count (R457): failed tests in the high word. -/
def State.countTest (s : State) (failed : Bool) : State :=
  let x := s.cert.count
  let lo := if failed then 32 else 0
  { s with cert := { s.cert with count := setField x (lo + 31) lo (field x (lo + 31) lo + 1) } }

/-- Every magnitude sum among delivered values bounds the exact one from above (R447); in a FLOAT test each second value
is one. A NaN or an infinity fails the test on its own. -/
def State.magnitudesBound (s : State) (t : TestOf) (l : List (Option Rat)) : Bool :=
  !t.floats || match s.kernelValues t false with
    | none => true
    | some exact => (l.zip exact).zipIdx.all fun e => match e with
      | ((some q, some x), i) => i % 2 == 0 || decide (x ≤ q)
      | _ => true

/-- The values that a kernel delivered for a record: those named, whose magnitudes must bound the exact ones, or where
none are named those that R448 and R450 define (R447, entry 58). -/
def State.delivered (s : State) (t : TestOf) (values : List (BitVec 64)) : Option (List (Option Rat)) :=
  if values.isEmpty then s.kernelValues t t.floats
  else if values.length = t.count ∧ s.magnitudesBound t (values.map t.value) then some (values.map t.value) else none

/-- WITNESS_TEST (R447-R450, R452): the values a kernel delivered for a record are tested. Results for a cancelled record
are discarded (R445). -/
def execWitnessTest (id : Nat) (values : List (BitVec 64)) (s : State) : Host.Outcome State Fault Refusal :=
  .next (if !s.cert.delivered.contains id then s
    else if s.kilnDeferred then s.defer
    else match s.record? id with
      | none => { s with cert := { s.cert with delivered := s.cert.delivered.filter fun x => x != id } }
      | some r =>
        let gone := { s with cert := { s.cert with delivered := s.cert.delivered.filter fun x => x != id } }
        if rState r ≠ 2 then gone
        else match s.testOf id r with
          | none => s
          | some t =>
            match s.delivered t values with
            | none => s
            | some l =>
              match s.runTest t l with
              | none =>
                let u := (gone.countTest false).setRecord id (setRState (recSet r 152 8 s.tick) 3)
                let u := if bit r 45 then u.chargeWitness (Tab.get [] u.cert.kernelCores id) id else u
                u.passRecord id
              | some i =>
                let r := recSet (recSet r 152 8 s.tick) 28 4 i
                let u := (gone.countTest true).setRecord id r
                if bit r 45 then u.failRecord id (recCores r) else u)

/-- A stored copy's inputs as they stand: none where one is freed or failed, so that the operator fails; `wait` where
one has no sealed version yet (R99). -/
inductive InputsNow where
  | failed
  | wait
  | ready (ins : List (Nat × Nat × Nat))
  deriving DecidableEq, Repr

/-- The inputs of a re-execution (R99). -/
def State.inputsNow (s : State) (st : Stored) : InputsNow :=
  let one (v : Nat) : InputsNow :=
    if v = 0 then .ready [(0, 0, 0)]
    else match s.findVersion st.part v with
      | none => .failed
      | some f =>
        let e := s.kpage f
        if kSt e = 5 then (if kFailed e then .failed else .wait) else if kSt e = 1 then .wait else .ready [(v, f, kCount e)]
  (st.vers.map one).foldl (fun a x => match a, x with
    | .failed, _ => .failed
    | _, .failed => .failed
    | .wait, _ => .wait
    | _, .wait => .wait
    | .ready l, .ready m => .ready (l ++ m)) (.ready [])

/-- The course of a re-execution (R441). -/
def State.retryCourse (s : State) (st : Stored) : Option Nat :=
  let place := BitVec.ofNat 64 (lrec st.record 64 8)
  match s.bestCourse st.part place st.courses with
  | some c => some c
  | none => s.bestCourse st.part place (st.courses.drop (st.courses.length - 1))

/-- New versions take the place of the old ones in the stored copies of their consumers (R99). -/
def State.rebind (s : State) (part : Nat) (news : List (Nat × Nat)) : State :=
  let sub (v : Nat) : Nat := match news.find? fun e => e.1 == v && v != 0 with | some e => e.2 | none => v
  { s with cert := { s.cert with stored := s.cert.stored.map fun (x : Stored) =>
      if x.part = part then { x with vers := x.vers.map sub } else x } }

/-- REEXECUTE (R99, R453, R454): a tainted operator is opened again from its stored copy, or reported failed, or waits. -/
def execReexecute (id : Nat) (s : State) : Host.Outcome State Fault Refusal :=
  .next (match s.record? id, s.cert.stored.find? fun (x : Stored) => x.witness == id with
    | some r, some st =>
      let outs := st.outs.map (·.1)
      let ours := outs.all fun f => kWitness (s.kpage f) == id && kSt (s.kpage f) == 5
      if !(rState r == 4 || rState r == 5 || (rState r == 3 && ours)) ∨ bit r 61 then s
      else if s.kilnDeferred then s.defer
      else if 2 ≤ st.tries ∨ !s.ctxValid (recCtx st.record) then s.operatorFailed id
      else match s.inputsNow st with
        | .failed => s.operatorFailed id
        | .wait => s
        | .ready ins =>
          if !ours ∨ outs.any fun f => kHolders (s.kpage f) != 0 then s
          else match s.stackFrames (recCtx st.record) st.record st.header, s.retryCourse st with
            | none, _ => s.operatorFailed id
            | _, none => s.operatorFailed id
            | some frames, some course =>
              let holders := holdSet (ins.map (·.2)) []
              let room := (s.newRegion (regionBytes (lrec st.record 62 1 % 8) (st.entries.getD (recTids st.record).1.length 0))).isSome
              let runs := st.outs.map fun o => (o.1 * 0x200000, o.2 * 0x200000)
              if runs.any fun p => s.runHeld p.1 p.2 then runs.foldl (fun s p => s.askRun p.1 p.2) s
              else if !room ∨ !s.framesUntracked frames ∨ frames.any (fun f => Tab.get 0 s.xlat.heldBy f != 0)
                  ∨ 65536 ≤ s.cert.records.length ∨ !s.launchRoom st.part
                  ∨ holders.any (fun f => 4095 ≤ kHolders (s.kpage f)) then s
              else
                let s := st.outs.foldl (fun s o => s.zeroRun (o.1 * 0x200000) (o.2 * 0x200000)) s
                let l := newLaunch s.sched.nextLaunch st.part st.level st.record
                let s := s.addLaunch { l with header := st.header }
                let p : OpenPlan := { course := course, entries := st.entries, ins := ins, outs := st.outs, frames := frames }
                let olds := recOutputs r
                let s := s.commitOpen l.num p (st.tries + 1) id
                let news := st.outs.map fun o => kVersion (s.kpage o.1)
                let s := s.rebind st.part (olds.zip news)
                let place := BitVec.ofNat 64 (lrec st.record 64 8)
                s.runLaunch l.num st.header (s.placeBits st.part place fun n => n / 16 == course)
    | _, _ => s)

end Sys2Proof.Machine
end

