-- ==== Sys2Proof/Machine/Reliab.lean ====
section
/-! DEFINITION. Faults and reliability: the device tick (R135), scrubbing, codes and re-striping (R77-R83), pipeline errors
(R461), uncorrectable core errors (R464), power gating (R466), links (R467), course reset (R468-R470), heat (R487). -/

namespace Sys2Proof.Machine

/-- DEVICE_TICK (R135): the count goes up; what waits for room in a ring or a log looks again, and the dies of a fenced
course are in reset from here on (R468 step 4). -/
def execDeviceTick (s : State) : Host.Outcome State Fault Refusal :=
  let regs := s.rel.courseReg.map fun e => (e.1, if field e.2 2 0 = 2 then setField e.2 2 0 3 else e.2)
  let s := { s with tick := s.tick + 1, rel := { s.rel with courseReg := regs } }.flushAllFaults
  .next (s.flushLogs s.fab.logWait)

/-- L1_AGE_INVALIDATE (R135): a line older than 2^40 ticks is written back and invalidated. -/
def execL1AgeInvalidate (core line : Nat) (s : State) : Host.Outcome State Fault Refusal :=
  let x := s.mem.l1At core line
  .next (if x ≠ L1Line.none ∧ 2 ^ 40 < ticksBack (s.tick % 2 ^ 43) x.tick then s.l1Drop core line else s)

/-- A bank's status entry (R85). -/
def State.bank (s : State) (b : Nat) : BitVec 32 := Tab.get 0 s.rel.banks b

/-- A bank's status entry written. -/
def State.setBank (s : State) (b : Nat) (x : BitVec 32) : State :=
  { s with rel := { s.rel with banks := Tab.set 0 s.rel.banks b x } }

/-- HOURLY_COUNTER_CLEAR (R77). -/
def execHourlyCounterClear (s : State) : Host.Outcome State Fault Refusal :=
  .next (if s.tick % 3600000000 ≠ 0 then s
    else s.rel.banks.foldl (fun s e => s.setBank e.1 (setField e.2 23 0 0)) s)

/-- The hash regions whose frames are backed no more, which read VALID = 0 (R80, R82). -/
def State.dropRegions (s : State) : State :=
  ((List.range 768).filter fun n => s.unbacked (n * 2 ^ 30) && s.unbacked (n * 2 ^ 30 + (2 ^ 30 - 1))).foldl
    (fun s n => s.setRegion n (setBit (setBit (s.region n) 127 false) 126 false)) s

/-- A code change or a drop takes effect (R77, R79, R80, R82): reserve consumed, and a new hash version defined, which
leaves a dropped bank out. -/
def State.bankDo (s : State) (b : Nat) (drop : Bool) : State :=
  let need := if drop then 16 else 1
  let s := s.setBank b (setField (s.bank b) 31 30 (if drop then 3 else 2))
  let r := s.rel
  let out := Tab.get [] r.hashOut r.hashVersion
  let v := (r.hashVersion + 1) % 65536
  let s := { s with rel := { r with reserve := setField r.reserve 15 0 (s.reserveLeft - need)
                                    hashVersion := v
                                    hashOut := Tab.set [] r.hashOut v (if drop then out ++ [b] else out)
                                    waiting := r.waiting.filter fun e => e.1 != b } }
  s.dropRegions.logEvent 9 2 b (BitVec.ofNat 64 (b / 65536))

/-- The reserve boundary moves down over released frames for a bank that waits, and its event is carried out (R83). How
far is left open: by the MiB that the event lacks, where all of those frames are free (DESIGN CHOICE, entry 61). -/
def State.retryReserve (s : State) : List (Nat × Bool) → State
  | [] => s
  | (b, drop) :: rest =>
    let lack := (if drop then 16 else 1) - s.reserveLeft
    let k := 16 * lack
    let free := (List.range k).all fun i =>
      let e := Tab.get 0 s.xlat.owner (s.boundary - 1 - i)
      !bit e 31 && !bit e 30
    if k ≤ s.boundary ∧ free then
      let r := setField (setField s.rel.reserve 51 16 (s.boundary - k)) 15 0 (s.reserveLeft + lack)
      ({ s with rel := { s.rel with reserve := r } }.bankDo b drop).retryReserve rest
    else s.retryReserve rest

/-- A code change or a drop that is due (R77, R79): carried out, or a capacity event where the reserve lacks; then
it waits for frames to be released, and those at the top that already are count (R83). -/
def State.bankEvent (s : State) (b : Nat) (drop : Bool) : State :=
  if (if drop then 16 else 1) ≤ s.reserveLeft then s.bankDo b drop
  else if s.rel.waiting.contains (b, drop) then s
  else
    let s := { s with rel := { s.rel with waiting := s.rel.waiting ++ [(b, drop)] } }
    let s := (s.logEvent 10 2 b (BitVec.ofNat 64 (b / 65536))).send (.msix 0)
    s.retryReserve s.rel.waiting

/-- What a code makes of an error in a sector (R76): `symbols` of its 8-bit symbols are wrong, `pin` where they are the bits
of one data pin. `none`: more than the code detects, for which the spec states no result. -/
def codeOutcome (strong : Bool) (symbols : Nat) (pin : Bool) : Option Nat :=
  if symbols = 0 then some 0
  else if symbols ≤ (if strong then 2 else 1) ∨ (strong ∧ pin) then some 1
  else if symbols ≤ (if strong then 3 else 2) then some 2
  else none

/-- A corrected error counted at its bank, which changes code or is dropped at its threshold (R77, R79). -/
def State.bankCorrected (s : State) (b : Nat) : State :=
  let x := s.bank b
  let n := Nat.min 0xFFFF (field x 15 0 + 1)
  let s := s.setBank b (setField x 15 0 n)
  if field x 31 30 = 0 ∧ field s.rel.hbmCfg 15 0 ≤ n then s.bankEvent b false
  else if field x 31 30 = 1 ∧ field s.rel.hbmCfg 31 16 ≤ n then s.bankEvent b true
  else s

/-- An error that cannot be corrected counted at its bank, which is dropped at its threshold (R79). -/
def State.bankFailed (s : State) (b : Nat) : State :=
  let x := s.bank b
  let n := Nat.min 255 (field x 23 16 + 1)
  let s := s.setBank b (setField x 23 16 n)
  if field x 31 30 ≠ 3 ∧ field s.rel.hbmCfg 39 32 ≤ n then s.bankEvent b true else s

/-- A sector of HBM as memory holds it set poisoned (R78). -/
def State.poisonStored (s : State) (sec : Nat) : State :=
  { s with mem := { s.mem with poison := Tab.set false s.mem.poison sec true } }

/-- A sector with an error that its code need not detect: whether it is detected, and its 32 bytes where it is not, are free
values (R76, entry 49). -/
def State.beyondCode (s : State) (sec : Nat) : State :=
  let (n, s) := s.free Config.freeChoice
  if n % 2 = 0 then (s.poisonStored sec).bankFailed (s.bankOf (sec / 4))
  else
    (List.range 4).foldl (fun s i =>
      let (x, s) := s.free Config.freeWord
      { s with mem := { s.mem with bytes := writeMasked s.mem.bytes (sec * 32 + 8 * i) 8 0xFF x.toNat } }) s

/-- The code of a line's row: the one it was last written under (R77). Every row of a bank under the strong code has been
re-encoded; of one that is being re-encoded, or was dropped, those that had been by then. -/
def State.rowStrong (s : State) (line : Nat) : Bool :=
  let b := s.bankOf line
  field (s.bank b) 31 30 == 1 || decide ((Config.bankRow (s.hashVersionOf line) (line / 4)).val < Tab.get 0 s.rel.strongRows b)

/-- SCRUB (R76-R79): a read of a sector of HBM, by the scrubber or another reader, that meets `symbols` wrong symbols, all on
one data pin where `pin`. Its row's code corrects the error or not. A sector of the far tier has no code: any error is an
expander's poisoned response (R87). -/
def execScrub (sec symbols : Nat) (pin : Bool) (s : State) : Host.Outcome State Fault Refusal :=
  let b := s.bankOf (sec / 4)
  .next (match s.paKind (sec * 32) with
    | .hbm => match codeOutcome (s.rowStrong (sec / 4)) symbols pin with
      | some 0 => s
      | some 1 => s.bankCorrected b
      | some _ => (s.poisonStored sec).bankFailed b
      | none => s.beyondCode sec
    | .far => if symbols = 0 then s else s.poisonStored sec
    | _ => s)

/-- Every backed region has moved to the newest hash version (R80). -/
def State.striped (s : State) : Bool :=
  (List.range 768).all fun n =>
    !bit (s.region n) 127 || (!bit (s.region n) 126 && field (s.region n) 15 0 == s.rel.hashVersion)

/-- The rows of a bank that are under the strong code put. -/
def State.setStrong (s : State) (bank n : Nat) : State :=
  { s with rel := { s.rel with strongRows := Tab.set 0 s.rel.strongRows bank n } }

/-- REENCODE_ROW (R77): the next row of a bank re-encoded, once the re-stripe has freed its rows; with the last one all of
them are, and the bank is under the strong code. -/
def execReencodeRow (bank : Nat) (last : Bool) (s : State) : Host.Outcome State Fault Refusal :=
  .next (if field (s.bank bank) 31 30 ≠ 2 ∨ !s.striped then s
    else if last then (s.setStrong bank (2 ^ 20)).setBank bank (setField (s.bank bank) 31 30 1)
    else s.setStrong bank (Nat.min (2 ^ 20) (Tab.get 0 s.rel.strongRows bank + 1)))

/-- The line at a region's WATERMARK moves to its new home, with its directory entry and open grain, in one step (R81);
those of its sectors in `bad` are found to be past correction as they are read, and move poisoned (R79). -/
def State.moveLine (s : State) (region : Nat) (bad : List Nat) : State :=
  let r := s.region region
  let line := region * 2 ^ 23 + field r 87 64
  let s := (bad.filter fun i => decide (i < 4)).foldl (fun s i => (s.poisonStored (4 * line + i)).bankFailed (s.bankOf line)) s
  let d := s.mem.dirOf line
  let s := ({ s with mem := s.mem.setDir line .uncached } : State).pastWatermark region
  let r := s.region region
  let s := if field r 87 64 = 0x800000 then s.setRegion region (setBit (setField r 15 0 (field r 47 32)) 126 false) else s
  let s := if d = .uncached then s else s.dirRoom line
  { s with mem := s.mem.setDir line d }

/-- The line at a region's WATERMARK finds no room yet at its new home: in the open-grain table, or in the directory (R60,
R63, R70). -/
def State.moveAwaited (s : State) (region : Nat) : Bool :=
  let line := region * 2 ^ 23 + field (s.region region) 87 64
  let t : State := { s with mem := s.mem.setDir line .uncached }
  !(s.moveMates region).isEmpty || (s.mem.dirOf line != .uncached && (t.pastWatermark region).dirAwaited line)

/-- MIGRATE_LINE (R80, R81): a region that lags begins its move, one at a time per VS die, or the line at its WATERMARK
moves. A move from or to a home whose course is fenced waits (R469), and so does one into a full set of the new home's
open-grain table or, while no entry can give way, of its directory (R60, R63, R70). -/
def execMigrateLine (move : LineMove) (s : State) : Host.Outcome State Fault Refusal :=
  let region := move.region
  let r := s.region region
  let line := region * 2 ^ 23 + field r 87 64
  let fenced (v : Nat) : Bool := [2, 3].contains (s.courseState (stackCourse (grainChannel v (line / 4) / 64)))
  .next (if 768 ≤ region ∨ !bit r 127 then s
    else if !bit r 126 then
      let busy := (List.range 768).filter fun n => bit (s.region n) 126
      if field r 15 0 = s.rel.hashVersion ∨ 4 ≤ busy.length then s
      else s.setRegion region (setBit (setField (setField r 87 64 0) 47 32 s.rel.hashVersion) 126 true)
    else if fenced (field r 15 0) || fenced (field r 47 32) || s.moveAwaited region then s
    else s.moveLine region move.bad)

/-- PIPELINE_ERROR (R461): a checker mismatch parks the warp at its scalar instruction; or it strikes a thread of the lane
instruction that the warp is at, which performs the threads before it and parks the warp there. One at a thread that the
instruction does not perform, or at a warp with no lane instruction, strikes nothing. -/
def execPipelineError (w : PipeAt) (s : State) : Host.Outcome State Fault Refusal :=
  .next (match s.warp? w.warp with
    | some x =>
      if !x.live ∨ (s.wgOf x).saved.isSome ∨ x.park = .pipeline then s
      else match w.thread with
        | none => { s with rel := { s.rel with retry := s.rel.retry ++ [w.warp] } }.modWarp w.warp fun x => { x with park := .pipeline }
        | some i => s.modWarp w.warp fun x => match x.lane, x.blocks with
            | true, b :: _ => x.setHead (some { b with stopAt := some i })
            | _, _ => x
    | none => s)

/-- PIPELINE_RETRY (R461): the authorised retry passes, and the instruction issues again, or fails, and the workgroup is
aborted. -/
def execPipelineRetry (w : Nat) (passed : Bool) (s : State) : Host.Outcome State Fault Refusal :=
  .next (match s.warp? w with
    | some x =>
      if x.park ≠ .pipeline ∨ !s.rel.retry.contains w then s
      else
        let c := (s.wgOf x).core
        let s := { s with rel := { s.rel with retry := s.rel.retry.filter fun i => i != w } }.count c 9 1
        if passed then (s.logEvent 1 0 c 0x30).modWarp w fun x => { x with park := .run }
        else
          let s := (s.logEvent 2 0 c 0x30).charge c 1 0 (field s.rel.faultCfg 31 24) 2
          s.abortWg x.wg 0x30
    | none => s)

/-- A line is poisoned in memory, every sector of it (R63, R469). -/
def State.poisonWhole (s : State) (line : Nat) : State := (List.range 4).foldl (fun s i => s.poisonSector (4 * line + i)) s

/-- A line whose copy in a slice, or whose directory entry, is lost is poisoned at its home, and no cluster holds it any
more (R63, R464). -/
def State.poisonLine (s : State) (line : Nat) : State :=
  if !s.hasHome line then s
  else (s.homeTake line).poisonWhole line

/-- CORE_UE (R52, R464, R465): an uncorrectable error in a core pair's state aborts the workgroups that hold it, one in its
cluster's slice poisons the lines it struck, and errors of one bit have been corrected in place. -/
def execCoreUe (core : Nat) (hit : CoreHit) (s : State) : Host.Outcome State Fault Refusal :=
  let lost := hit.wgs.filter fun i => (s.wg i).live && (s.wg i).core == core && (s.wg i).saved.isNone
  .next (if 256 ≤ core then s
    else
      let s := { s with rel := { s.rel with corrected := s.rel.corrected + hit.single } }
      let s := hit.lines.foldl (fun s l => s.poisonLine l) s
      if lost.isEmpty then s
      else (lost.foldl (fun s i => s.abortWg i 0x21 2) s).charge core 2 0 (field s.rel.faultCfg 23 16) 2)

/-- A core pair's arrays zeroed and its last holders forgotten (R31, R466). -/
def State.zeroPair (s : State) (c : Nat) : State :=
  let out (size k : Nat) : Bool := k < c * size || (c + 1) * size ≤ k
  let m := s.mem
  let x := s.mx
  { s with mem := { m with sp := Tab.filterKeys m.sp (out spStride), spTags := Tab.filterKeys m.spTags (out (spStride / 16))
                           spPoison := Tab.filterKeys m.spPoison (out (spStride / 32)) }
           mx := { x with tile := Tab.filterKeys x.tile (out (16 * 32768)), scale := Tab.filterKeys x.scale (out (16 * 4096))
                          tilePoison := Tab.filterKeys x.tilePoison (out (16 * 128)), acc := Tab.filterKeys x.acc (out (4 * 24576))
                          accPoison := Tab.filterKeys x.accPoison (out (4 * 24576))
                          spHolder := Tab.filterKeys x.spHolder (out (spStride / 4096))
                          tileHolder := Tab.filterKeys x.tileHolder (out 16), accHolder := Tab.filterKeys x.accHolder (out 4) } }

/-- A core pair holds no workgroup, no engine operation, no mapping and no remote write (R466). -/
def State.pairEmpty (s : State) (c : Nat) : Bool :=
  !(s.wgIds.any fun i => (s.wg i).core == c && s.occupies i) && !(s.eng.ops.any fun o => o.core == c)
    && !(s.eng.mx.any fun o => o.core == c) && !(s.mem.maps.any fun m => m.core == c) && s.wcbQuiet c

/-- POWER_GATE (R456, R466): a pair idle for GATE_IDLE_US, or a retired one, is gated. -/
def execPowerGate (core : Nat) (s : State) : Host.Outcome State Fault Refusal :=
  let us := field s.rel.faultCfg 15 0
  let c := s.core core
  .next (if 256 ≤ core ∨ c.gate ≠ .ready ∨ !s.pairEmpty core ∨ !(s.retired core || (us != 0 && decide (c.idleSince + us ≤ s.tick))) then s
    else
      let s := (s.l1Flush core).zeroPair core
      s.setCore core { s.core core with gate := .gated })

/-- CORE_WAKE (R466): a gated pair begins its power ramp. -/
def execCoreWake (core : Nat) (s : State) : Host.Outcome State Fault Refusal :=
  let c := s.core core
  .next (if core < 256 ∧ c.gate = .gated ∧ !s.retired core then s.setCore core { c with gate := .waking s.tick } else s)

/-- SELF_TEST_DONE (R466): the pair is offered to placement, or retired. -/
def execSelfTestDone (core : Nat) (pass : Bool) (s : State) : Host.Outcome State Fault Refusal :=
  let c := s.core core
  let due := match c.gate with
    | .waking t => decide (t + 44 ≤ s.tick)
    | .testing => true
    | _ => false
  .next (if 256 ≤ core ∨ !due then s
    else if pass then s.setCore core { c with gate := if s.retired core then .gated else .ready, idleSince := s.tick }
    else ((s.setCore core { c with gate := .gated }).logEvent 4 0 core 3).retireCore core 3)

/-- A link's state put. -/
def State.setLink (s : State) (a b : Nat) (l : Link) : State :=
  { s with rel := { s.rel with links := Tab.set .awake s.rel.links (a * 11 + b) l } }

/-- LINK_LOW_POWER_ENTRY (R467). -/
def execLinkLowPowerEntry (a b : Nat) (s : State) : Host.Outcome State Fault Refusal :=
  .next (if a < 11 ∧ b < 11 ∧ a ≠ b ∧ s.link a b = .awake then s.setLink a b .lowPower else s)

/-- LINK_WAKE (R467): a message makes the link leave its low-power state. -/
def execLinkWake (a b : Nat) (s : State) : Host.Outcome State Fault Refusal :=
  .next (if s.link a b = .lowPower then s.setLink a b (.waking s.tick) else s)

/-- LINK_TRAINED (R467). -/
def execLinkTrained (a b : Nat) (s : State) : Host.Outcome State Fault Refusal :=
  .next (match s.link a b with
    | .waking _ | .silent _ => s.setLink a b .awake
    | _ => s)

/-- LINK_WAKE_TIMEOUT (R467): the wake bound has passed, or an awake link leaves a message unanswered beyond its bound. -/
def execLinkWakeTimeout (a b : Nat) (s : State) : Host.Outcome State Fault Refusal :=
  .next (if 11 ≤ a ∨ 11 ≤ b ∨ a = b then s
    else match s.link a b with
      | .waking t => if t + 3 ≤ s.tick then s.setLink a b (.silent s.tick) else s
      | .awake => s.setLink a b (.silent s.tick)
      | _ => s)

/-- The package clusters of a course's two dies (R3). -/
def courseClusters (k : Nat) : List Nat := (List.range 16).map (16 * k + ·) ++ (List.range 16).map (64 + 16 * k + ·)

/-- The package clusters of a die. -/
def dieClusters (d : Nat) : List Nat :=
  if d < 4 then (List.range 16).map (16 * d + ·) else if d < 8 then (List.range 16).map (64 + 16 * (d - 4) + ·) else []

/-- The copies of a line that some clusters hold are treated as destroyed: an owner's dirty bytes are lost, and its home
poisons the line (R63). Its monitors there have their wake. -/
def State.destroyLine (s : State) (clusters : List Nat) (line : Nat) : State :=
  let t := s.wakeHolders clusters line
  match s.mem.dirOf line with
  | .owned c =>
    if !clusters.contains c then s
    else
      let dirty := Tab.get SliceLine.none s.mem.slice line ≠ SliceLine.none
      let m := { s.mem with slice := Tab.set SliceLine.none s.mem.slice line SliceLine.none }.setDir line .uncached
      let t := { t with mem := m }
      if dirty then t.poisonWhole line else t
  | .shared v l =>
    let l' := l.filter fun c => !clusters.contains c
    if l' = l then s else { t with mem := s.mem.setDir line (if l'.isEmpty then .uncached else .shared v l') }
  | _ => s

/-- What a die's translation caches and slices hold of the lines that some homes keep is treated as destroyed, and nothing
waits for the die on their account any more (R42, R63). -/
def State.destroyDie (s : State) (d : Nat) (at' : Nat → Bool) : State :=
  let x := s.xlat
  let keep := BitVec.allOnes 11 ^^^ BitVec.ofNat 11 (2 ^ d)
  let tdir := (x.tdir.map fun (e : Nat × BitVec 11) => if at' e.1 then (e.1, e.2 &&& keep) else e).filter
    fun (e : Nat × BitVec 11) => e.2 != 0
  let held := x.heldWrites.map fun (h : HeldWrite) =>
    if at' h.line then { h with waiting := h.waiting.filter fun y => y != d } else h
  let s := { s with xlat := { x with tlb := x.tlb.filter (fun e => e.die != d || !e.lines.any at')
                                     tdir := tdir, heldWrites := held } }
  ((s.mem.dir.map fun e => e.1).filter at').foldl (fun s l => s.destroyLine (dieClusters d) l) s

/-- A course's reset register (R470). -/
def State.setCourse (s : State) (k : Nat) (f : Word → Word) : State :=
  { s with rel := { s.rel with courseReg := Tab.set 0 s.rel.courseReg k (f (Tab.get 0 s.rel.courseReg k)) } }

/-- A workgroup stands on a course. -/
def State.onCourse (s : State) (k i : Nat) : Bool :=
  let g := s.wg i
  g.live && g.saved.isNone && coreCourse g.core == k

/-- A witness kernel ends without its values because its course is reset (R445, R446): no further workgroup of it is placed,
and its record awaits another. -/
def State.resetKernel (s : State) (l : Launch) (id : Nat) : State :=
  let s := (s.liveWgs l.num).foldl (fun s i => s.abortWg i 0x21 3) s
  let s := s.modRecord id fun r => if rState r = 2 then setRState r 1 else r
  let s := s.modLaunch l.num fun l =>
    { l with join := 0, nextOrd := l.count, code := if l.code = 0 then 0x30 else l.code, cause := if l.code = 0 then 0x21 else l.cause }
  { s with sched := { s.sched with work := s.sched.work.filter fun r => r.launch != l.num } }

/-- What a reset of course `k` makes of the witness records (R96, R108, R445): one whose launch runs there, wherever its
workgroups stand by now, is CANCELLED with its OPEN outputs TAINTED, and one whose witness kernel has its place there
awaits another. -/
def State.resetRecords (s : State) (k : Nat) : State :=
  let ids := s.liveRecords.filter fun id => match s.record? id with
    | some r => rState r == 0 && recGet r 5 1 % 4 == k
    | none => false
  let s := ids.foldl (fun s id => s.cancelAttempt id) s
  (s.sched.launches.filter fun l => l.state == .running && (List.range 16).any fun i => l.place.getLsbD (16 * k + i)).foldl
    (fun s l => match l.kernelOf with
      | some id => s.resetKernel l id
      | none => s) s

/-- A course reset starts (R468 step 1): placement stops, certified work and witness kernels are aborted, and other
workgroups are saved where they can be. -/
def State.startReset (s : State) (k reason : Nat) : State :=
  if 4 ≤ k ∨ s.courseState k ≠ 0 then s
  else
    let s := s.setCourse k fun x =>
      setField (setField (setField x 47 32 (Nat.min 0xFFFF (field x 47 32 + 1))) 27 24 reason) 2 0 1
    let r : CourseReset := { course := k, start := s.tick, phase := 1 }
    let s := { s with sched := { s.sched with stopped := s.sched.stopped ++ [k] }
                      rel := { s.rel with resets := s.rel.resets ++ [r] } }
    let s := s.logEvent 7 1 k (BitVec.ofNat 64 reason)
    let gone := s.wgIds.filter fun i => s.onCourse k i && ((s.wg i).cert || (s.wg i).witness.isSome)
    let s := gone.foldl (fun s i => s.abortWg i 0x21 3) s
    let s := s.resetRecords k
    s.saveCores (courseCores k) fun _ => true

/-- INTERCONNECT_UE (R464, R468): an uncorrectable error in a course's interconnect or directory logic; `lines` are those
whose directory entry or data it struck (R63). -/
def execInterconnectUe (course : Nat) (lines : List Nat) (s : State) : Host.Outcome State Fault Refusal :=
  .next ((lines.foldl (fun s l => s.poisonLine l) s).startReset course 3)

/-- LINK_FENCE_TIMEOUT (R467, R468): a link SILENT for 250 µs is FENCED, the far die's copies of what the near die homes are
destroyed (R42, R63), and its course is reset. -/
def execLinkFenceTimeout (a b : Nat) (s : State) : Host.Outcome State Fault Refusal :=
  .next (match s.link a b with
    | .silent t =>
      if s.tick < t + 250 then s
      else
        let s := ((s.setLink a b .fenced).destroyDie b fun l => s.homeDie l == a).logEvent 8 3 (a * 11 + b) 0
        if b < 8 then s.startReset (b % 4) 2 else if a < 8 then s.startReset (a % 4) 2 else s
    | _ => s)

/-- Every link of a course's dies put in a state. One to a course that is itself fenced, in reset or failed leaves FENCED only
by that course's own rejoin (R467, R468). -/
def State.setLinks (s : State) (k : Nat) (l : Link) : State :=
  let stays (o : Nat) : Bool := l == .awake && decide (o < 8) && o % 4 != k && [2, 3, 4].contains (s.courseState (o % 4))
  [k, 4 + k].foldl (fun s d => (List.range 11).foldl (fun s o =>
    if o = d ∨ stays o then s else (s.setLink d o l).setLink o d l) s) s

/-- A link between a course's VS die and the home of a line is FENCED: what its cores hold dirty of the line cannot be written
back any more (R467, R469). -/
def State.fencedOff (s : State) (k line : Nat) : Bool :=
  let h := s.homeCourse line
  h != k && (s.link k h == .fenced || s.link h k == .fenced)

/-- The lines that the L1s of a course hold dirty bytes of. -/
def State.courseDirty (s : State) (k : Nat) : List Nat :=
  (s.mem.l1.filter fun e => e.2.dirty != 0 && (courseCores k).contains (e.1 / 2 ^ 45)).map fun e => e.1 % 2 ^ 45

/-- Bytes of lines that a course held dirty in its L1s, or had sent to a home it cannot reach, are lost: the lines are poisoned
(R469). What a home holds of the course's writes it goes on to perform itself. -/
def State.loseDirty (s : State) (k : Nat) (lost : List Nat) : State :=
  let cores := courseCores k
  let dirty := (s.courseDirty k).filter fun l => lost.contains l
  let mine (h : HeldWrite) : Bool := match h.slice with
    | some c => (courseClusters k).contains c
    | none => false
  let sent := (s.xlat.heldWrites.filter fun h => mine h && (lost.contains h.line || s.fencedOff k h.line)).map fun h => h.line
  let held := (s.xlat.heldWrites.filter fun h => !(mine h && sent.contains h.line)).map fun (h : HeldWrite) =>
    if mine h then { h with slice := none } else h
  let s := { s with xlat := { s.xlat with heldWrites := held }
                    mem := { s.mem with l1 := Tab.filterKeys s.mem.l1 fun key =>
                      !(cores.contains (key / 2 ^ 45) && lost.contains (key % 2 ^ 45)) } }
  (dirty ++ sent).eraseDups.foldl (fun s l => s.poisonWhole l) s

/-- A mapping of a course unmapped; the rows of lost lines are not written back, and those lines are poisoned (R468, R469). -/
def State.unmapDrained (s : State) (lost : List Nat) (x : Mapping) : State :=
  let s := { s with mem := { s.mem with maps := s.mem.maps.filter fun y => y != x } }
  (List.range x.lines.length).foldl (fun s i =>
    let l := x.lines.getD i 0
    if lost.contains l then ({ s with mem := s.mem.setDir l .uncached } : State).poisonWhole l else s.unmapLine l (x.row + 128 * i)) s

/-- The drain's work (R468 step 2): but for what was lost, caches written back, mappings unmapped, lines homed there made
UNCACHED and their translations invalidated. Of `lost`, a line homed there that another die's slice holds has not been
recalled in time: it stays there until the rejoin (R469). -/
def State.drainCourse (s : State) (k : Nat) (lost : List Nat) : State :=
  let cores := courseCores k
  let lost := lost ++ (s.courseDirty k).filter (s.fencedOff k)
  let s := s.loseDirty k lost
  let s := lost.foldl (fun s l => s.destroyLine (courseClusters k) l) s
  let s := cores.foldl (fun s c => (s.l1Flush c).closeInterval c) s
  let s := (s.mem.maps.filter fun m => cores.contains m.core).foldl (fun s m => s.unmapDrained lost m) s
  let lines := s.mem.dir.map fun e => e.1
  let s := lines.foldl (fun s l =>
    let own : Bool := match s.mem.dirOf l with | .owned c => (courseClusters k).contains c | _ => false
    if lost.contains l then s
    else if s.homedOn k l ∨ own then s.homeTake l
    else s.destroyLine (courseClusters k) l) s
  let s := { s with mem := { s.mem with grains := s.mem.grains.filter fun g => !s.homedOn k (g.grain * 4) } }
  let here (l : Nat) : Bool := decide (l < 2 ^ 46) && s.homedOn k l
  let held := s.xlat.heldWrites.map fun (h : HeldWrite) =>
    if here h.line then { h with waiting := h.waiting.filter fun d => d == 11 } else h
  ((s.xlat.tdir.map fun e => e.1).filter here).foldl (fun s l => s.untrack l) { s with xlat := { s.xlat with heldWrites := held } }

/-- The dies of a course reset (R468 steps 3 and 4): links fenced, cores, engines and translation caches empty. -/
def State.resetDies (s : State) (k : Nat) : State :=
  let cores := courseCores k
  let on (c : Nat) : Bool := cores.contains c
  let s := (s.setLinks k .fenced).setCourse k fun x => setField x 2 0 2
  let s := (s.destroyDie k fun _ => true).destroyDie (4 + k) fun _ => true
  let e := s.eng
  let f := s.fab
  let s := { s with eng := { e with ops := e.ops.filter fun o => !on o.core, mx := e.mx.filter fun o => !on o.core }
                    fab := { f with wcb := f.wcb.filter fun x => !on x.core, sends := f.sends.filter fun x => x.parked || !on x.core }
                    cycles := Tab.set 0 s.cycles k 0
                    rel := { s.rel with resets := s.rel.resets.map fun r => if r.course = k then { r with phase := 3 } else r } }
  cores.foldl (fun s c => (s.zeroPair c).setCore c { Core.fresh with gate := .testing, wfloor := s.tick % 2 ^ 43 }) s

/-- COURSE_DRAIN_DONE (R468): every workgroup has left the course and its engines are empty. -/
def execCourseDrainDone (course : Nat) (s : State) : Host.Outcome State Fault Refusal :=
  let cores := courseCores course
  let sent (l : Nat) : Bool := s.fencedOff course l || !s.homeAway (some course) l
  .next (if s.courseState course ≠ 1 ∨ s.wgIds.any (s.onCourse course) ∨ !cores.all s.pairEmpty ∨ !(s.courseDirty course).all sent
      ∨ s.fab.sends.any (fun x => cores.contains x.core && !x.parked) then s
    else (s.drainCourse course []).resetDies course)

/-- COURSE_DRAIN_DEADLINE (R468, R469): at 250 µs what is left is aborted; `lost` are the lines whose dirty bytes had not
been written back. -/
def execCourseDrainDeadline (course : Nat) (lost : List Nat) (s : State) : Host.Outcome State Fault Refusal :=
  .next (match s.rel.resets.find? fun r => r.course == course && r.phase == 1 with
    | none => s
    | some r =>
      if s.tick < r.start + 250 then s
      else
        let s := (s.wgIds.filter (s.onCourse course)).foldl (fun s i => s.abortWg i 0x21 3) s
        (s.drainCourse course lost).resetDies course)

/-- COURSE_REJOIN (R468 step 5): every pair has been tested; links are AWAKE, dirty bytes kept for lines homed there are
written back, and placement resumes. -/
def execCourseRejoin (course : Nat) (s : State) : Host.Outcome State Fault Refusal :=
  let tested := (courseCores course).all fun c => (s.core c).gate != .testing
  .next (if s.courseState course ≠ 3 ∨ !tested then s
    else s.atDieReset course fun s =>
      let s := (s.setLinks course .awake).setCourse course fun x => setField x 2 0 0
      let s := (s.mem.dir.map fun e => e.1).foldl (fun s l => if s.homedOn course l then s.homeTake l else s) s
      { s with sched := { s.sched with stopped := s.sched.stopped.filter fun k => k != course }
               rel := { s.rel with resets := s.rel.resets.filter fun r => r.course != course } }.endDieReset course)

/-- COURSE_FAILED (R469): a course that has not rejoined 10 ms after its reset began is declared failed; requests that
wait for its homes complete poisoned, and its pairs are retired. -/
def execCourseFailed (course : Nat) (s : State) : Host.Outcome State Fault Refusal :=
  .next (match s.rel.resets.find? fun r => r.course == course with
    | none => s
    | some r =>
      if s.tick < r.start + 10000 then s
      else s.atDieReset course fun s =>
        let s := s.setCourse course fun x => setField (setField x 27 24 4) 2 0 4
        let s := { s with rel := { s.rel with resets := s.rel.resets.filter fun r => r.course != course } }
        (((s.logEvent 7 1 course 4).send (.msix 0)).retireCourse course).endDieReset course)

/-- THROTTLE (R487): the arithmetic clock falls by 100 MHz, or rises again when neither limit is passed any more. -/
def execThrottle (lower : Bool) (s : State) : Host.Outcome State Fault Refusal :=
  let h := s.host
  .next (if lower then (if 100 < h.mhz then { s with host := { h with mhz := h.mhz - 100 } } else s)
    else if h.mhz < 3000 then { s with host := { h with mhz := h.mhz + 100 } } else s)

end Sys2Proof.Machine
end

