-- ==== Sys2Proof/Machine/Frames.lean ====
section
/-! DEFINITION. Frames and who owns them (R27-R30, R89): FRAME_ASSIGN, KILN_ASSIGN and the zeroing that ends them, KILN_FREE;
contexts and partitions set up (R18-R21, R35, R37). -/

namespace Sys2Proof.Machine

/-- The owner-table indexes of a block (R27). -/
def blockFrames (pa len : Nat) : List Nat := (List.range (len / frameBytes pa)).map (ownerIndex pa + ·)

/-- The kiln pages a block of HBM covers; none for one below 2 MiB, or of the far tier (R89). -/
def blockPages (pa len : Nat) : List Nat := if farBase ≤ pa then [] else (List.range (len / 0x200000)).map (pa / 0x200000 + ·)

/-- Fields of an owner entry (R27). -/
def oPart (e : BitVec 32) : Nat := field e 15 12
def oCtx (e : BitVec 32) : Nat := field e 7 0
def oKiln (e : BitVec 32) : Bool := bit e 26
def oShared (e : BitVec 32) : Bool := bit e 27

/-- An owner entry by its index. -/
def State.ownerAt (s : State) (i : Nat) : BitVec 32 := Tab.get 0 s.xlat.owner i

/-- A list of frames no longer with their old holders (R29). -/
def Xlat.forget (x : Xlat) (frames : List Nat) : Xlat :=
  let cut (t : Tab (List Nat)) : Tab (List Nat) :=
    (t.map fun e => (e.1, e.2.filter fun f => !frames.contains f)).filter fun e => !e.2.isEmpty
  { x with oldCtx := cut x.oldCtx, oldPart := cut x.oldPart }

/-- A page index names a kiln page (R89). -/
def State.isKiln (s : State) (page : Nat) : Bool :=
  let e := s.ownerOf (page * 0x200000)
  decide (page < 393216) && bit e 31 && oKiln e

/-- A block's owner entries written (R29); pages that become kiln pages are FREE, and pages that stop being kiln pages have
no entry any more (R89, R91). -/
def State.placeOwner (s : State) (pa len : Nat) (e : BitVec 32) : State :=
  let frames := blockFrames pa len
  let changed := (blockPages pa len).filter fun i => s.isKiln i != oKiln e
  let s := frames.foldl (fun s f => s.setOwner f e) { s with xlat := s.xlat.forget frames }
  changed.foldl (fun s i => s.setKpage i (if oKiln e then BitVec.ofNat 128 (oPart e * 2 ^ 8) else 0)) s

/-- What an assignment must keep of every entry to skip the zeroing (R29). -/
def sameOwner (a b : BitVec 32) : Bool :=
  bit a 31 && !bit a 30 && oPart a == oPart b && oShared a == oShared b && oKiln a == oKiln b && bit a 24 == bit b 24
    && (oShared b || oCtx a == oCtx b)

/-- A frame still counts to a holder that has ended (R29). -/
def State.oldHeld (s : State) (f : Nat) : Bool :=
  (s.xlat.oldCtx.any fun e => e.2.contains f) || s.xlat.oldPart.any fun e => e.2.contains f

/-- Frames that have been released: the events that wait for reserve look again (R83). -/
def State.released (s : State) : State := s.retryReserve s.rel.waiting

/-- A block assigned, or with VALID = 0 unassigned with its bytes left in place (R29): done at once, or when the zeroing
has ended. The plumb's stores to the owner table wait until no die holds a translation derived from those lines (R39). -/
def State.assign (s : State) (p : Pending) (pa len : Nat) (e : BitVec 32) : Ans :=
  let frames := blockFrames pa len
  if !s.framesUntracked frames then s.repost p
  else if !bit e 31 then .ok (some 0, (s.placeOwner pa len 0).released)
  else if frames.all fun f => sameOwner (s.ownerAt f) e && !s.oldHeld f then .ok (some 0, s.placeOwner pa len e)
  else
    let s := frames.foldl (fun s f => s.setOwner f (setBit (s.ownerAt f) 30 true)) s
    let j : ZeroJob := { pa := pa, len := len, owner := e, cmd := some p }
    .ok (none, { s with xlat := { s.xlat with zero := s.xlat.zero ++ [j] } })

/-- The frames of freed save slots zeroed and let go, and the slots marked free, where nothing of them is still waited for
(R32, R433). -/
def State.zeroDrops (s : State) : List (Nat × Nat × List Nat) → State
  | [] => s
  | d :: rest =>
    if s.framesReady d.2.2 then
      let s := { s with xlat := { s.xlat with drops := s.xlat.drops.erase d } }.dropFrames d.2.2
      (if s.ctxValid d.1 && s.saveOk d.1 then s.markSlot d.1 d.2.1 false else s).zeroDrops rest
    else (s.askFrames d.2.2).zeroDrops rest

/-- A block zeroed, once the host holds none of its lines and no translation derives from them or from its owner entries;
then the plumb writes its new owner, and the command is answered (R29, R30, R39). -/
def State.zeroJob (s : State) (j : ZeroJob) (rest : List ZeroJob) : State :=
  if s.runHeld j.pa j.len then s.askRun j.pa j.len
  else if !s.framesUntracked (blockFrames j.pa j.len) then s
  else
    let place (s : State) : State :=
      ({ s with xlat := { s.xlat with zero := rest } }.zeroRun j.pa j.len).placeOwner j.pa j.len j.owner
    match j.cmd with
    | some p => s.atAnswer p fun s => (place s).answer p mbDone 0 0
    | none => place s

/-- ZEROING (R29, R30, R32): what the zeroing engines have under way goes on. -/
def execZeroing (s : State) : Host.Outcome State Fault Refusal :=
  let s := s.zeroDrops s.xlat.drops
  .next (match s.xlat.zero with
    | [] => s
    | j :: rest => s.zeroJob j rest)

/-- The checks that FRAME_ASSIGN and KILN_ASSIGN share of a block: `off` is its address in ARGS, and `part` its new
partition with that field's byte. An assignment is of whole blocks (R29): a part of a larger block is refused. -/
def State.blockCheck (s : State) (p : Pending) (pa len off : Nat) (part : Option (Nat × Nat)) : Except (Nat × Nat) Unit := do
  let frames := blockFrames pa len
  let olds := (frames.map s.ownerAt).filter fun e => bit e 31
  mbNeed (pa % len == 0) mbMalformed off
  mbNeed (decide (pa + len ≤ s.boundary * 0x10000) || (s.paKind pa == .far && s.paKind (pa + len - 1) == .far)) mbRefused off
  mbNeed (frames.all fun f => Tab.get 0 s.xlat.heldBy f == 0) mbRefused off
  mbNeed (part.isNone || !s.host.ckpts.any fun c => decide (c.1 < pa + len ∧ pa < c.1 + c.2)) mbRefused off
  mbNeed (olds.all fun e => decide (spanBytes (field e 29 28) ≤ len)) mbRefused off
  match p.issuer with
  | .host => .ok ()
  | .ctx c => mbNeed (olds.length == frames.length && olds.all fun e => oPart e == s.ctxPart c) mbNotPermitted off
  match part with
  | some (n, b) =>
    s.mbOwn p n b
    mbNeed (s.partValid n) mbRefused b
    mbNeed (!(s.tdiLocked n && (olds.length != frames.length || olds.any fun e => oPart e != n))) mbNotPermitted off
    mbNeed (olds.all fun e => oPart e == n || !s.tdiLocked (oPart e)) mbNotPermitted off
  | none => mbNeed (olds.all fun e => !s.tdiLocked (oPart e)) mbNotPermitted off

/-- Every kiln page of a block is FREE (R89). -/
def State.pagesFree (s : State) (pa len : Nat) : Bool := (blockPages pa len).all fun i => kSt (s.kpage i) == 0

/-- The bits of an owner image that must be zero: the reserved ones, and ZEROING and HELD, which the plumb alone sets. -/
def ownerReserved : Nat := 2 ^ 30 + 2 ^ 25 + 0xFF0000 + 0xF00

/-- FRAME_ASSIGN (R27, R29, R89, R480, R484); kiln frames come by KILN_ASSIGN alone. -/
def State.frameAssign (s : State) (p : Pending) : Ans := do
  let pa := p.arg 16 8
  let e := BitVec.ofNat 32 (p.arg 24 4)
  let bad := e.toNat &&& ownerReserved
  mbNeed (bad == 0) mbMalformed (firstByte 24 bad)
  let span := field e 29 28
  mbNeed (span != 3 && !(oKiln e && (!oShared e || span == 0)) && !(bit e 24 && (oShared e || oKiln e))
    && !(decide (farBase ≤ pa) && span == 0)) mbMalformed 27
  mbNeed (!oKiln e) mbRefused 27
  let len := spanBytes span
  let valid := bit e 31
  s.blockCheck p pa len 16 (if valid then some (oPart e, 25) else none)
  mbNeed (s.pagesFree pa len) mbRefused 16
  let s := if valid then s
    else { s with host := { s.host with ckpts := s.host.ckpts.filter fun c => !decide (c.1 < pa + len ∧ pa < c.1 + c.2) } }
  s.assign p pa len e

/-- FRAME_ASSIGN. -/
def execFrameAssign (n : Nat) (s : State) : Host.Outcome State Fault Refusal :=
  .next (s.command n 0x04 fun p s => s.frameAssign p)

/-- The owner entry of a kiln block (R27, R89). -/
def kilnOwner (span part : Nat) : BitVec 32 := BitVec.ofNat 32 (2 ^ 31 + span * 2 ^ 28 + 2 ^ 27 + 2 ^ 26 + part * 2 ^ 12)

/-- KILN_ASSIGN (R89): HBM only, in blocks of SPAN 1 or 2. Over frames that are kiln frames already the rule says nothing: it
is REFUSED, and they are given up by FRAME_ASSIGN first (DESIGN CHOICE, entry 68). -/
def State.kilnAssign (s : State) (p : Pending) : Ans := do
  let part := p.arg 16 1
  let span := p.arg 17 1
  let pa := p.arg 24 8
  mbNeed (decide (part < 16)) mbMalformed 16
  mbNeed (span == 1 || span == 2) mbMalformed 17
  mbNeed (decide (pa < farBase)) mbRefused 24
  s.blockCheck p pa (spanBytes span) 24 (some (part, 16))
  mbNeed ((blockFrames pa (spanBytes span)).all fun f => !oKiln (s.ownerAt f)) mbRefused 24
  s.assign p pa (spanBytes span) (kilnOwner span part)

/-- KILN_ASSIGN. -/
def execKilnAssign (n : Nat) (s : State) : Host.Outcome State Fault Refusal :=
  .next (s.command n 0x05 fun p s => s.kilnAssign p)

/-- A binding's pages zeroed and FREE again (R91, R96, R99); a record that waited for it retires (R444). -/
def State.freeBinding (s : State) (first : Nat) : State :=
  let id := kWitness (s.kpage first)
  let n := kCount (s.kpage first)
  let s := s.zeroRun (first * 0x200000) (n * 0x200000)
  let s := s.modBinding first fun e => BitVec.ofNat 128 (kVersion e * 2 ^ 96 + kPart e * 2 ^ 8)
  let c := s.cert
  let s := { s with cert := { c with releaseTick := Tab.set 0 c.releaseTick first 0, released := Tab.set 0 c.released first 0 } }
  s.retireRecord id

/-- KILN_FREE (R96): of a RELEASED binding, or one that failed, without holders; of a FREE page it has no effect (R479). -/
def State.kilnFree (s : State) (p : Pending) : Ans := do
  let page := p.arg 16 4
  let e := s.kpage page
  mbNeed (s.isKiln page) mbRefused 16
  s.mbOwn p (kPart e) 16
  if kSt e = 0 then return (some 0, s)
  mbNeed (kFirst e == page && kHolders e == 0 && (kSt e == 4 || (kSt e == 5 && kFailed e))) mbRefused 16
  let (pa, n) := (page * 0x200000, kCount e * 0x200000)
  if s.runHeld pa n then (s.askRun pa n).repost p else return (some 0, s.freeBinding page)

/-- KILN_FREE. -/
def execKilnFree (n : Nat) (s : State) : Host.Outcome State Fault Refusal :=
  .next (s.command n 0x06 fun p s => s.kilnFree p)

/-- The frames that a context, or with `shared` a partition, owns by the owner table (R29). -/
def State.framesOf (s : State) (p : BitVec 32 → Bool) : List Nat :=
  (s.xlat.owner.filter fun (e : Nat × BitVec 32) => bit e.2 31 && p e.2).map fun (e : Nat × BitVec 32) => e.1

/-- The reserved bits of a partition descriptor (R20). -/
def partReserved : Nat := (2 ^ 63 - 1) * 2 ^ 193 + 0xFFF * 2 ^ 180 + 0x1FF * 2 ^ 128

/-- The first three counts of a ring or log block set to zero (R46, R170). -/
def State.clearRing (s : State) (b : Nat) : State :=
  if (s.paKind b).isMem then s.writeRun b 24 0 1 else s

/-- What PART_SET does as it makes a partition VALID (R46, R92, R155, R170). -/
def State.startPartition (s : State) (n : Nat) : State :=
  let out (k : Nat) : Bool := k < 512 * n || 512 * (n + 1) ≤ k
  let s := { s with fab := { s.fab with peers := Tab.filterKeys s.fab.peers out }
                    kiln := { s.kiln with version := Tab.set 1 s.kiln.version n 1 }
                    xlat := { s.xlat with replay := Tab.set 0 s.xlat.replay n 0, ringHead := Tab.set 0 s.xlat.ringHead n 0
                                          logHead := Tab.set 0 s.xlat.logHead n 0 } }
  (s.clearRing (s.faultRing n)).clearRing (s.faultRing n + 512)

/-- The package clusters on which work of a partition stands or is under way (R21). -/
def State.busyClusters (s : State) (n : Nat) : List Nat :=
  (s.wgIds.filter fun i => (s.wg i).part == n && s.occupies i).map fun i => (s.wg i).core / 4

/-- PART_SET (R20, R21, R29, R480, R484). -/
def State.partSet (s : State) (p : Pending) : Ans := do
  let n := p.arg 16 1
  let d := BitVec.ofNat 256 (p.arg 32 32)
  mbNeed (decide (n < 16)) mbMalformed 16
  let bad := d.toNat &&& partReserved
  mbNeed (bad == 0) mbMalformed (firstByte 32 bad)
  mbNeed (field d 63 0 == field d 127 64) mbMalformed 32
  s.mbUnlocked p n 16
  let valid := bit d 192
  let was := s.partValid n
  let meets (m : Nat) : Bool := m != n && s.partValid m && ((s.partDesc m).toNat &&& d.toNat) % 2 ^ 128 != 0
  mbNeed (!valid || !(List.range 16).any meets) mbRefused 32
  mbNeed ((s.busyClusters n).all fun c => valid && bit d c) mbRefused 32
  mbNeed (was || !valid || (Tab.get [] s.xlat.oldPart n).isEmpty) mbRefused 16
  let old := if was ∧ !valid then s.framesOf fun e => oPart e == n else Tab.get [] s.xlat.oldPart n
  let s := { s with xlat := { s.xlat with partTab := Tab.set 0 s.xlat.partTab n d, oldPart := Tab.set [] s.xlat.oldPart n old } }
  return (some 0, if valid ∧ !was then s.startPartition n else s)

/-- PART_SET. -/
def execPartSet (n : Nat) (s : State) : Host.Outcome State Fault Refusal :=
  .next (s.command n 0x01 fun p s => s.partSet p)

/-- The reserved bits of a context descriptor (R19). -/
def ctxReserved : Nat := (2 ^ 344 - 1) * 2 ^ 168 + (2 ^ 19 - 1) * 2 ^ 109 + 0xF * 2 ^ 52 + 0xFFF

/-- A run of physical memory lies wholly in frames whose owner entries meet a condition. -/
def State.inFrames (s : State) (pa n : Nat) (p : BitVec 32 → Bool) : Bool :=
  (List.range ((pa + n - 1) / 0x10000 + 1 - pa / 0x10000)).all fun i =>
    let a := (pa / 0x10000 + i) * 0x10000
    let e := s.ownerOf a
    (s.paKind a).isMem && bit e 31 && !bit e 30 && p e

/-- Every die has discarded what it has translated for a context: its descriptor may be written (R37). -/
def State.ctxClear (s : State) (ctx : Nat) : Bool := Tab.get 0 s.xlat.tdir (ctxLine ctx) == 0

/-- A context has work placed or queued (R21). -/
def State.ctxBusy (s : State) (ctx : Nat) : Bool :=
  (s.wgIds.any fun i => (s.wg i).ctx == ctx && ((s.wg i).live || s.occupies i))
    || s.sched.launches.any fun l => recCtx l.record == ctx && decide (l.step = 0)

/-- CTX_SET (R19, R21, R29, R35, R37, R480, R484): a context ends by CTX_END alone, so an image with VALID = 0 is malformed.
Whether a VALID context may be set anew is left open: its number stays with its old holder, so the model lets it, and
refuses a change of PARTITION while the context has work, which would run on clusters its partition does not own
(DESIGN CHOICE, entry 61). -/
def State.ctxSet (s : State) (p : Pending) : Ans := do
  let n := p.arg 16 1
  let d := BitVec.ofNat 512 (p.arg 64 64)
  let bad := d.toNat &&& ctxReserved
  mbNeed (bad == 0) mbMalformed (firstByte 64 bad)
  mbNeed (bit d 63 && (!bit d 61 || bit d 62)) mbMalformed 71
  let lg := field d 108 104
  mbNeed (decide (8 ≤ lg ∧ lg ≤ 16)) mbMalformed 77
  let part := field d 59 56
  s.mbOwn p part 71
  s.mbUnlocked p part 71
  if s.ctxValid n then
    s.mbOwn p (s.ctxPart n) 16
    s.mbUnlocked p (s.ctxPart n) 16
  mbNeed (s.partValid part) mbRefused 71
  mbNeed (s.ctxValid n || (Tab.get [] s.xlat.oldCtx n).isEmpty) mbRefused 16
  mbNeed (!s.ctxValid n || s.ctxPart n == part || !s.ctxBusy n) mbRefused 71
  mbNeed (s.inFrames (field d 103 64 * 4096) (64 * 2 ^ lg) fun e =>
    bit e 24 && !oShared e && oCtx e == n && oPart e == part) mbRefused 72
  if !s.ctxClear n then s.repost p
  else return (some 0, { s with xlat := { s.xlat with ctxTab := Tab.set 0 s.xlat.ctxTab n d } })

/-- CTX_SET. -/
def execCtxSet (n : Nat) (s : State) : Host.Outcome State Fault Refusal :=
  .next (s.command n 0x02 fun p s => s.ctxSet p)

end Sys2Proof.Machine
end

