-- ==== Sys2Proof/Machine/Mailbox.lean ====
section
/-! DEFINITION. Mailbox commands (R479): queues (R413-R415), peers (R155-R157), launches and contexts ended (R419), result
certificates (R458), the fault record (R471), the register commands and course resets (R84, R457, R463, R468, R486, R487). -/

namespace Sys2Proof.Machine

/-- The number under which an ended registration is kept for its launches. -/
def State.endedQueue (s : State) : Nat := (s.sched.queues.foldl (fun n e => Nat.max n e.1) 127) + 1

/-- A level's registration ends (R413); the launches and work records that came from it keep its rings. -/
def State.endQueue (s : State) (k : Nat) : State :=
  let q := s.queue k
  let n := s.endedQueue
  let used := s.sched.launches.any (fun l => l.queue == k) || s.sched.work.any fun r => r.queue == k
  let s := if q.block ≠ 0 ∧ used then s.setQueue n q else s
  let s := s.setQueue k Queue.none
  { s with sched := { s.sched with
      launches := s.sched.launches.map fun (l : Launch) => if l.queue = k then { l with queue := n } else l
      work := s.sched.work.map fun (r : WorkRec) => if r.queue = k then { r with queue := n } else r } }

/-- The runs of memory that a queue block names as its ring and work ring, whatever its other fields hold; none of a size that
is not legal, which spans no run (R413, R414). -/
def State.rawRings (s : State) (b : Nat) : List (Nat × Nat) :=
  let f (lo n : Nat) : Nat := s.mem.readCoh (b + lo) n
  (if 4 ≤ f 152 1 ∧ f 152 1 ≤ 16 then [(f 144 8, 128 * 2 ^ f 152 1)] else [])
    ++ (if 8 ≤ f 168 1 ∧ f 168 1 ≤ 20 then [(f 160 8, 32 * 2 ^ f 168 1)] else [])

/-- QUEUE_SET (R413-R415, R480): a block that is malformed is registered, and the scheduler finds it so. -/
def State.queueSet (s : State) (p : Pending) : Ans := do
  let part := p.arg 16 1
  let level := p.arg 17 1
  let b := p.arg 24 8
  mbNeed (decide (part < 16)) mbMalformed 16
  mbNeed (decide (level < 8)) mbMalformed 17
  mbNeed (b % 512 == 0) mbMalformed 24
  mbNeed (decide (b < 2 ^ 52)) mbMalformed 30
  s.mbOwn p part 16
  s.mbUnlocked p part 16
  let k := 8 * part + level
  let reg (s : State) (x : Nat) : State :=
    { s with sched := { s.sched with cfg := Tab.set 0 s.sched.cfg (16 * part + 1 + level) (BitVec.ofNat 64 x) } }
  if b = 0 then return (some 0, reg (s.endQueue k) 0)
  let shared (a n : Nat) : Bool := s.inFrames a n fun e => oShared e && !oKiln e && oPart e == part
  mbNeed (shared b 512) mbRefused 24
  mbNeed ((s.rawRings b).all fun r => shared r.1 r.2) mbRefused 24
  let q := s.queueBlock b
  let tail := s.mem.readCoh b 8
  let new : Queue := { Queue.none with block := b, taken := tail, head := tail }
  let new := match q with
    | some q => { new with ring := q.ring, size := q.size, work := q.work, workLog := q.workLog }
    | none => new
  return (some tail, reg (((s.endQueue k).setQueue k new).writeQueue k) (b + 1))

/-- QUEUE_SET. -/
def execQueueSet (n : Nat) (s : State) : Host.Outcome State Fault Refusal :=
  .next (s.command n 0x07 fun p s => s.queueSet p)

/-- Every VS core and IO die can be told to discard its copy of a peer entry, a fenced die's counting as destroyed: the plumb,
die 8, changes no entry before (R42, R157). -/
def State.peersReached (s : State) : Bool := ([0, 1, 2, 3, 9, 10] : List Nat).all fun d => s.reaches 8 d

/-- PEER_SET (R155-R157): a move to ACTIVE must change LEASE; as an entry leaves ACTIVE, what is outstanding to the peer is
answered UNREACHABLE (R162). -/
def State.peerSet (s : State) (p : Pending) : Ans := do
  let part := p.arg 16 1
  let n := p.arg 18 2
  let e := BitVec.ofNat 64 (p.arg 24 8)
  mbNeed (decide (part < 16)) mbMalformed 16
  mbNeed (decide (n < 512)) mbMalformed 18
  mbNeed (field e 47 0 == 0) mbMalformed (firstByte 24 (field e 47 0))
  mbNeed (field e 63 62 != 3) mbMalformed 31
  s.mbUnlocked p part 16
  let old := s.peer part n
  let active (x : BitVec 64) : Bool := field x 63 62 == 2
  mbNeed (!active e || active old || field e 57 48 != field old 57 48) mbRefused 24
  let f := s.fab
  let gone := active old && !active e
  let hit (r : RemReq) : Bool :=
    gone && r.part == part && r.peer == n && r.answer == none && !f.flights.any fun x => x.id == r.id
  let remotes := f.remotes.map fun (r : RemReq) => if hit r then { r with answer := some (.fault 4 0) } else r
  if !s.peersReached then s.repost p
  else return (some 0, { s with fab := { f with peers := Tab.set 0 f.peers (512 * part + n) e, remotes := remotes } })

/-- PEER_SET. -/
def execPeerSet (n : Nat) (s : State) : Host.Outcome State Fault Refusal :=
  .next (s.command n 0x08 fun p s => s.peerSet p)

/-- What waits on a fault of a launch's, or a context's: an operation, a drain or a send (R419). -/
structure Stuck where
  ops : List EngOp
  mx : List MxOp
  sends : List BulkSend
  deriving DecidableEq, Repr

/-- What of a launch is parked on a fault or in its receiver (R419). -/
def State.stuckOf (s : State) (num : Nat) : Stuck :=
  { ops := s.eng.ops.filter fun o => o.launch == num && o.park.isSome
    mx := s.eng.mx.filter fun o => (s.wg o.wg).launch == num && o.park.isSome
    sends := s.fab.sends.filter fun x => x.launch == num && !x.egress && (x.fault.isSome || x.parked) }

/-- All that a context has at the engines (R419). -/
def State.postedBy (s : State) (ctx : Nat) : Stuck :=
  { ops := s.eng.ops.filter fun o => o.ctx == ctx && (match o.kind with | .fence _ => false | _ => true)
    mx := s.eng.mx.filter fun o => o.ctx == ctx && (match o.kind with | .fence _ => false | _ => true)
    sends := s.fab.sends.filter fun x => x.ctx == ctx }

/-- A landing word that an abandoned operation must reach cannot be updated yet; words in scratchpads are (R419). -/
def State.stuckWaits (s : State) (x : Stuck) : Bool :=
  (x.ops.any fun o => !landIsSp o.land && s.landWaits o.wg o.ctx o.core o.land o.who)
    || (x.mx.any fun o => !landIsSp o.dland && s.landWaits o.wg o.ctx o.core o.dland (s.mxWho o))
    || x.sends.any fun x => !landIsSp x.land && s.sendWaits x

/-- They are abandoned: each counts its arrival with ABORTED (R419). -/
def State.abandonStuck (s : State) (x : Stuck) : State :=
  let s := x.ops.foldl (fun s o => s.endOp { o with ended := true, park := none, status := o.status ||| stAborted }) s
  let s := x.mx.foldl (fun s o => s.endMx { o with abort := 1, park := none, status := o.status ||| stAborted }) s
  x.sends.foldl (fun s x => (if x.egress then s else s.sendArrive x stAborted).dropSend x.id) s

/-- What of a launch is queued at the engines is abandoned where it is parked; the rest is as soon as it meets a fault
(R419). -/
def State.abandonEngines (s : State) (num : Nat) : State :=
  let s := s.abandonStuck (s.stuckOf num)
  let e := s.eng
  { s with eng := { e with ops := e.ops.map fun (o : EngOp) => if o.launch = num then { o with ended := true } else o } }

/-- The save slots of a launch's workgroups that have exited are freed (R419, R432). -/
def State.freeExited (s : State) (num : Nat) : State :=
  (s.wgIds.filter fun i => (s.wg i).launch == num && (s.wg i).exited).foldl (fun s i =>
    let g := s.wg i
    match g.saved with
    | some n => (s.freeSlot g.ctx n).setWg i { g with saved := none, away := true, store := {} }
    | none => s) s

/-- A launch ended by system software (R419): its workgroups aborted, what is parked abandoned, no further workgroup
placed; it completes with the code given, ENDED or CTX_ENDED. One that has ended, or is ending so, stays as it is. -/
def State.endLaunch (s : State) (num code : Nat) : State :=
  match s.launch? num with
  | none => s
  | some l =>
    if l.state.ended ∨ l.step ≠ 0 ∨ l.code = 5 ∨ l.code = 6 then s
    else
      let s := s.modLaunch num fun l => { l with code := code, cause := 0, park := none }
      let s := match l.witness with | some id => s.endAttempt id | none => s
      let s := (s.liveWgs num).foldl (fun s i => s.abortWg i 0) s
      let s := (s.freeExited num).abandonEngines num
      let s := s.modLaunch num fun l => { l with code := code, cause := 0, join := 0, nextOrd := l.count }
      { s with sched := { s.sched with work := s.sched.work.filter fun r => r.launch != num } }

/-- A launch's STATUS after LAUNCH_END: what it has, or is about to have, stored (R418, R480). -/
def Launch.endStatus (l : Launch) : Nat :=
  if l.state.ended ∨ l.code = 0 then l.status else ({ l with state := .aborted } : Launch).status

/-- LAUNCH_END (R419, R480): of a launch that has ended it has no effect. -/
def State.launchEnd (s : State) (p : Pending) : Ans := do
  match s.queueAt (p.arg 24 8) with
  | none => .error (mbRefused, 24)
  | some k =>
    s.mbOwn p (k / 8) 24
    let n := p.arg 32 8
    mbNeed (decide (n < (s.queue k).taken)) mbRefused 32
    match s.sched.launches.find? fun l => l.queue == k && l.slot == some n with
    | none => return (some (s.mem.readCoh ((s.queue k).ring + 128 * (n % 2 ^ (s.queue k).size) + 56) 4), s)
    | some l =>
      if s.stuckWaits (s.stuckOf l.num) then s.repost p
      else
      let t := s.endLaunch l.num 5
      return (some ((t.launch? l.num).map Launch.endStatus |>.getD 0), t)

/-- LAUNCH_END. -/
def execLaunchEnd (n : Nat) (s : State) : Host.Outcome State Fault Refusal :=
  .next (s.command n 0x09 fun p s => s.launchEnd p)

/-- A context may be ended: its translations are discarded (R37), and what it has posted can be abandoned (R419). -/
def State.ctxEnds (s : State) (n : Nat) : Bool := !s.ctxValid n || (s.ctxClear n && !s.stuckWaits (s.postedBy n))

/-- A context ended (R419): its launches with it, its TAINTED versions FAILED (R96), what it has posted abandoned, its
descriptor cleared; its launches that are completing signal no more (R424), and its number is free again once its frames
are (R29). -/
def State.endContext (s : State) (n : Nat) : State :=
  if !s.ctxValid n then s
  else
    let ids := (s.sched.launches.filter fun l => recCtx l.record == n).map (·.num)
    let s := ids.foldl (fun s l => s.endLaunch l 6) s
    let tainted := s.liveRecords.filter fun id => match s.record? id with
      | some r => recGet r 8 1 == n && (s.outputsOf id).any fun f => kSt (s.kpage f) == 5 && !kFailed (s.kpage f)
      | none => false
    let s := tainted.foldl (fun s id => s.operatorFailed id) s
    let s := s.abandonStuck (s.postedBy n)
    let mute (l : Launch) : Launch :=
      if recCtx l.record = n then { l with record := setField l.record 383 256 0, park := none } else l
    let s := { s with sched := { s.sched with launches := s.sched.launches.map mute } }
    let old := s.framesOf fun e => !oShared e && oCtx e == n && oPart e == s.ctxPart n
    let x := s.xlat
    { s with xlat := { x with ctxTab := Tab.set 0 x.ctxTab n 0, oldCtx := Tab.set [] x.oldCtx n old } }

/-- CTX_END (R419, R479). -/
def State.ctxEnd (s : State) (p : Pending) : Ans := do
  let n := p.arg 16 1
  if !s.ctxValid n then return (some 0, s)
  s.mbOwn p (s.ctxPart n) 16
  if !s.ctxEnds n then s.repost p else return (some 0, s.endContext n)

/-- CTX_END. -/
def execCtxEnd (n : Nat) (s : State) : Host.Outcome State Fault Refusal :=
  .next (s.command n 0x03 fun p s => s.ctxEnd p)

/-- A register command (R84, R457, R463, R487): its reserved bits, and the fields with their bounds as low bit, width, least
and greatest value. -/
def regImage (p : Pending) (reserved : Nat) (fields : List (Nat × Nat × Nat × Nat)) : Except (Nat × Nat) Word := do
  let x := BitVec.ofNat 64 (p.arg 24 8)
  let bad := x.toNat &&& reserved
  mbNeed (bad == 0) mbMalformed (firstByte 24 bad)
  match fields.find? fun f =>
      let v := x.toNat / 2 ^ f.1 % 2 ^ f.2.1
      decide (v < f.2.2.1 ∨ f.2.2.2 < v) with
  | some f => .error (mbMalformed, 24 + f.1 / 8)
  | none => return x

/-- REL_SET (R84). -/
def execRelSet (n : Nat) (s : State) : Host.Outcome State Fault Refusal :=
  .next (s.command n 0x10 fun p s => do
    let x ← regImage p (0xFF * 2 ^ 56) [(0, 16, 1, 65535), (16, 16, 1, 65535), (32, 8, 1, 255), (40, 16, 50, 2000)]
    return (some 0, { s with rel := { s.rel with hbmCfg := x } }))

/-- CERT_SET (R457). -/
def execCertSet (n : Nat) (s : State) : Host.Outcome State Fault Refusal :=
  .next (s.command n 0x11 fun p s => do
    let x ← regImage p (0xFFFF * 2 ^ 48 + 0xFF * 2 ^ 24) [(0, 24, 100, 100000), (32, 8, 1, 255), (40, 8, 1, 255)]
    return (some 0, { s with cert := { s.cert with cfg := x } }))

/-- FAULT_SET (R463). -/
def execFaultSet (n : Nat) (s : State) : Host.Outcome State Fault Refusal :=
  .next (s.command n 0x12 fun p s => do
    let x ← regImage p (0xFFFFFFFF * 2 ^ 32) [(16, 8, 1, 255), (24, 8, 1, 255)]
    return (some 0, { s with rel := { s.rel with faultCfg := x } }))

/-- POWER_SET (R487). -/
def execPowerSet (n : Nat) (s : State) : Host.Outcome State Fault Refusal :=
  .next (s.command n 0x14 fun p s => do
    let x ← regImage p ((2 ^ 48 - 1) * 2 ^ 16) [(0, 16, 1500, 4600)]
    return (some 0, { s with host := { s.host with powerCap := x } }))

/-- FAR_SET (R86, R486): a set number, or 0xFF, for each port. -/
def State.setFar (s : State) (p : Pending) : Ans := do
  let set (i : Nat) : Nat := p.arg (16 + i) 1
  let ports := List.range 16
  let first (q : Nat → Bool) : Option Nat := ports.find? q
  match first fun i => decide (15 < set i) && set i != 0xFF with
  | some i => .error (mbMalformed, 16 + i)
  | none =>
    let owned := s.xlat.owner.any fun (e : Nat × BitVec 32) => decide (12582912 ≤ e.1) && bit e.2 31
    mbNeed (!owned && s.host.ckpts.isEmpty) mbRefused noByte
    let cap (i : Nat) : Nat := Tab.get 0 s.host.farPort i
    let bad (i : Nat) : Bool :=
      let set' := ports.filter fun j => set j == set i
      set i != 0xFF && (cap i == 0 || !(([1, 2, 4, 8, 16] : List Nat).contains set'.length) || set'.any fun j => cap j != cap i)
    match first bad with
    | some i => .error (mbRefused, 16 + i)
    | none =>
      let t := ports.foldl (fun t i => Tab.set 0xFF t i (set i)) ([] : Tab Nat)
      return (some 0, { s with host := { s.host with farSet := t } })

/-- FAR_SET. -/
def execFarSet (n : Nat) (s : State) : Host.Outcome State Fault Refusal :=
  .next (s.command n 0x13 fun p s => s.setFar p)

/-- DIE_RESET (R468, R478): answered when the course has rejoined; of a course that is in reset, or has been declared
failed, it has no effect. -/
def execDieReset (n : Nat) (s : State) : Host.Outcome State Fault Refusal :=
  .next (s.command n 0x0C fun p s => do
    let k := p.arg 16 1
    mbNeed (decide (k < 4)) mbMalformed 16
    if s.courseState k ≠ 0 then return (some 0, s)
    let s := { s with host := { s.host with dieReset := some (p, k) } }
    return (none, s.startReset k 1))

/-- `n` bytes of memory as their homes serve them. -/
def Mem.run (m : Mem) (pa n : Nat) : List Byte := (List.range n).map fun i => m.byteAt (pa + i)

/-- A signature over the low `n` bytes of a number under a key of the plumb, with a fresh nonce (R459). -/
def State.sign (s : State) (key : BitVec 384) (n x : Nat) : Nat × State :=
  let (g, s) := s.free fun k => Config.signature key k (bytesOf n x)
  (g.toNat, s)

/-- The checkpoint keys with which this device has signed, in this boot and before (R459). -/
def Keys.signing (k : Keys) : List (BitVec 384) := k.checkpoint :: k.old

/-- A signature over a message that a key has made, with a nonce it has used. -/
def State.madeBy (s : State) (key : BitVec 384) (message : List Byte) (g : BitVec 768) : Bool :=
  (List.range s.freeCtr).any fun k => Config.signature key k message == g

/-- A checkpoint's signature verifies under a chain that ends at the vendor root (R113): one of another making, or one that
this device has made. -/
def State.verifies (s : State) (message : List Byte) (g : BitVec 768) : Bool :=
  Config.verifies message g || s.host.keys.signing.any fun key => s.madeBy key message g

/-- A signature verifies under the key that a certificate names, whose chain ends at this device's identity key (R471): a
key of this device with its own certificate, or one that another making of the chain certifies. -/
def State.certified (s : State) (cert : BitVec 8192) (message : List Byte) (g : BitVec 768) : Bool :=
  let id := s.host.keys.identity
  Config.certifies id cert message g || s.host.keys.signing.any fun key => Config.certificate id key == cert && s.madeBy key message g

/-- Bytes written to the buffer a command names (R480): host memory for the host, a VA of the issuing context otherwise. -/
def State.putBuffer (s : State) (p : Pending) (a n x off : Nat) : Except (Nat × Nat) State :=
  match p.issuer with
  | .host => .ok (s.send (.hostBytes a (bytesOf n x)))
  | .ctx c =>
    let parts := pageParts a n
    let go (acc : Except (Nat × Nat) (State × Nat)) (q : Nat × Nat) : Except (Nat × Nat) (State × Nat) := do
      let (s, o) ← acc
      match s.translate (plumbWho c) .write .w false (BitVec.ofNat 64 q.1) with
      | .ok (t, s) =>
        mbNeed t.kind.isMem mbRefused off
        return (s.writeRun t.pa q.2 (x / 2 ^ (8 * o)) (q.2 / 128 + 2), o + q.2)
      | .error _ => .error (mbRefused, off)
    (parts.foldl go (.ok (s, 0))).map fun e => e.1

/-- A result certificate (R458) of a binding, as its 256 bytes. -/
def State.certificate (s : State) (first : Nat) : Nat × State :=
  let e := s.kpage first
  let r := Tab.get 0 s.cert.released first
  let rd := (Config.sha384 (bytesOf 256 r.toNat)).toNat
  let dd := (Config.sha384 (s.mem.run (first * 0x200000) (kCount e * 0x200000))).toNat
  let x := 1 + kVersion e * 2 ^ 32 + recGet r 0 4 * 2 ^ 64 + recGet r 4 1 * 2 ^ 96 + kPart e * 2 ^ 104
    + Tab.get 0 s.cert.releaseTick first * 2 ^ 128 + recGet r 16 8 * 2 ^ 192 + rd * 2 ^ 256 + dd * 2 ^ 640
  let (g, s) := s.sign s.host.keys.result 128 x
  (x + g * 2 ^ 1024, s)

/-- CERTIFY (R458): of a RELEASED version that this boot's plumb has released. -/
def State.certify (s : State) (p : Pending) : Ans := do
  let page := p.arg 16 4
  let e := s.kpage page
  if s.isKiln page then s.mbOwn p (kPart e) 16
  mbNeed (s.isKiln page && kSt e == 4 && Tab.get 0 s.cert.released (kFirst e) != 0) mbRefused 16
  let (x, s) := s.certificate (kFirst e)
  return (some 0, ← s.putBuffer p (p.arg 24 8) 256 x 24)

/-- CERTIFY. -/
def execCertify (n : Nat) (s : State) : Host.Outcome State Fault Refusal :=
  .next (s.command n 0x0D fun p s => s.certify p)

/-- An entry of the fault record as its 32 bytes (R471). -/
def FaultRec.pack (e : FaultRec) : Nat :=
  e.tick % 2 ^ 64 + e.boot % 2 ^ 32 * 2 ^ 64 + e.kind % 256 * 2 ^ 96 + e.unitType % 256 * 2 ^ 104 + e.unit % 65536 * 2 ^ 112
    + e.detail.toNat * 2 ^ 128

/-- An entry read from its bytes. -/
def FaultRec.parse (x : Nat) : FaultRec :=
  { tick := x % 2 ^ 64, boot := x / 2 ^ 64 % 2 ^ 32, kind := x / 2 ^ 96 % 256, unitType := x / 2 ^ 104 % 256
    unit := x / 2 ^ 112 % 65536, detail := BitVec.ofNat 64 (x / 2 ^ 128) }

/-- Values of a given size joined, the first lowest. -/
def packList (size : Nat) : List Nat → Nat
  | [] => 0
  | x :: r => x % 2 ^ (8 * size) + packList size r * 2 ^ (8 * size)

/-- MAGIC of an exported fault record (R471). -/
def faultMagic : Nat := 0x445243455254_4C46

/-- The image of an exported fault record (R471), with the certificate of the checkpoint key that signs it. -/
def State.faultImage (s : State) : Nat × State :=
  let r := s.rel
  let n := r.entries.length
  let body := packList 32 (r.entries.map FaultRec.pack)
  let head := faultMagic + 2 ^ 64 + n * 2 ^ 96 + r.dropped % 2 ^ 64 * 2 ^ 128 + r.boots % 2 ^ 64 * 2 ^ 192
    + (Config.sha384 (bytesOf (32 * n) body)).toNat * 2 ^ 256 + (Config.identity s.host.keys.identity).toNat * 2 ^ 640
  let (g, s) := s.sign s.host.keys.checkpoint 128 head
  let cert := (Config.certificate s.host.keys.identity s.host.keys.checkpoint).toNat
  (head + g * 2 ^ 1024 + cert * 2 ^ 2048 + body * 2 ^ (8 * 1280), s)

/-- FAULT_EXPORT (R471). -/
def execFaultExport (n : Nat) (s : State) : Host.Outcome State Fault Refusal :=
  .next (s.command n 0x0E fun p s => do
    let size := 1280 + 32 * s.rel.entries.length
    mbNeed (decide (size ≤ p.arg 32 8)) mbRefused 32
    let (x, s) := s.faultImage
    return (some size, ← s.putBuffer p (p.arg 24 8) size x 24))

/-- The oldest entries other than retirements make room for the newest (R471). -/
def trimRecord : Nat → List FaultRec → Nat × List FaultRec
  | 0, l => (0, l)
  | fuel + 1, l =>
    if l.length ≤ 65536 then (0, l)
    else
      let i := match l.findIdx? fun x => x.kind != 6 with | some i => i | none => 0
      let (n, l) := trimRecord fuel (l.eraseIdx i)
      (n + 1, l)

/-- An imported image meets every condition of R471. -/
def State.importOk (s : State) (image : List Byte) : Bool :=
  let x := image.foldr (fun b n => b.toNat + 256 * n) 0
  let f (lo n : Nat) : Nat := x / 2 ^ (8 * lo) % 2 ^ (8 * n)
  let n := f 12 4
  f 0 8 == faultMagic && f 8 4 == 1 && f 224 32 == 0 && decide (1280 + 32 * n ≤ image.length)
    && s.certified (BitVec.ofNat 8192 (f 256 1024)) (image.take 128) (BitVec.ofNat 768 (f 128 96))
    && f 80 48 == (Config.identity s.host.keys.identity).toNat
    && f 32 48 == (Config.sha384 ((image.drop 1280).take (32 * n))).toNat

/-- FAULT_IMPORT (R471): `image` is what the host's buffer holds. An accepted record goes before this boot's entries; one
that fails a check is discarded, and an empty history begins. -/
def execFaultImport (n : Nat) (image : List (BitVec 8)) (s : State) : Host.Outcome State Fault Refusal :=
  .next (match s.host.pending[n]? with
    | some p =>
      if image.length ≠ p.arg 32 8 then s
      else s.command n 0x0F fun _ s =>
        let x := image.foldr (fun b n => b.toNat + 256 * n) 0
        let f (lo n : Nat) : Nat := x / 2 ^ (8 * lo) % 2 ^ (8 * n)
        if s.importOk image then
          let old := (List.range (f 12 4)).map fun i => FaultRec.parse (f (1280 + 32 * i) 32)
          let l := old ++ s.rel.entries
          let (cut, l) := trimRecord (l.length - 65536) l
          .ok (some (1280 + 32 * f 12 4), { s with rel := { s.rel with
            entries := l, dropped := s.rel.dropped + f 16 8 + cut, boots := Nat.max s.rel.boots (f 24 8 + 1) } })
        else .ok (some image.length, { s with rel := { s.rel with entries := [], dropped := 0 } }.logEvent 13 5 0 0)
    | none => s)

end Sys2Proof.Machine
end

