-- ==== Sys2Proof/Machine/Checkpoint.lean ====
section
/-! DEFINITION. Checkpoint and restore (R109-R113). -/

namespace Sys2Proof.Machine

/-- A size rounded up to a grain. -/
def grainUp (n : Nat) : Nat := (n + 511) / 512 * 512

/-- The assigned blocks of HBM in order of address: address, bytes and owner entry (R109, R111). -/
def State.ckptBlocks (s : State) : List (Nat × Nat × BitVec 32) :=
  let firsts := (s.xlat.owner.filter fun (e : Nat × BitVec 32) => decide (e.1 < 12582912) && bit e.2 31).map
    fun (e : Nat × BitVec 32) => e.1 * 0x10000 / spanBytes (field e.2 29 28) * spanBytes (field e.2 29 28)
  firsts.eraseDups.map fun a =>
    let e := s.ownerOf a
    (a, spanBytes (field e 29 28), setBit e 30 false)

/-- The FREE kiln pages of a block: their bytes are not copied, and read as zero in its digest (R109). -/
def State.freePages (s : State) (pa len : Nat) (e : BitVec 32) : List Nat :=
  if oKiln e then (blockPages pa len).filter fun i => kSt (s.kpage i) == 0 else []

/-- The kiln list (R111). -/
def State.kilnList (s : State) : List Nat :=
  (s.kiln.pages.filter fun (e : Nat × BitVec 128) => kSt e.2 != 0).map
    fun (e : Nat × BitVec 128) => e.1 + (setField e.2 31 20 0).toNat * 2 ^ 64

/-- The metadata list (R111): the sectors of HBM with a tag or poison, in order. -/
def State.metaList (s : State) : List Nat :=
  let m := s.mem
  let secs := (m.poison.map fun (e : Nat × Bool) => (e.1, true)).foldl (fun (t : Tab Bool) e => Tab.set false t e.1 true)
    (m.tags.foldl (fun (t : Tab Bool) (e : Nat × Bool) => Tab.set false t (e.1 / 2) true) [])
  (secs.filter fun (e : Nat × Bool) => decide (e.1 < 0xC000000000 / 32)).map fun (e : Nat × Bool) =>
    let b (c : Bool) (v : Nat) : Nat := if c then v else 0
    e.1 * 2 ^ 9 + b (Tab.get false m.poison e.1) 4 + b (Tab.get false m.tags (2 * e.1 + 1)) 2 + b (Tab.get false m.tags (2 * e.1)) 1

/-- The layout of an image (R110): where its lists and the images begin, and how long it is. -/
structure CkptPlan where
  kiln : List Nat
  metas : List Nat
  blocks : List (Nat × Nat × BitVec 32)
  metaAt : Nat
  blockAt : Nat
  imageAt : Nat
  total : Nat
  deriving DecidableEq, Repr

/-- The layout of a checkpoint of the state as it stands. -/
def State.ckptPlan (s : State) : CkptPlan :=
  let k := s.kilnList
  let m := s.metaList
  let b := s.ckptBlocks
  let metaAt := 512 + grainUp (24 * k.length)
  let blockAt := metaAt + grainUp (8 * m.length)
  let imageAt := blockAt + grainUp (96 * b.length)
  { kiln := k, metas := m, blocks := b, metaAt := metaAt, blockAt := blockAt, imageAt := imageAt
    total := imageAt + b.foldl (fun n e => n + e.2.1) 0 }

/-- The bytes of a run with some 2 MiB pages taken as zero. -/
def zeroPages (free : List Nat) (pa : Nat) (bytes : List Byte) : List Byte :=
  if free.isEmpty then bytes else bytes.mapIdx fun i b => if free.contains ((pa + i) / 0x200000) then 0 else b

/-- Block images copied and their list entries (R110, R111): `at'` is the offset of the next image. -/
def State.copyBlocks (s : State) (base : Nat) : List (Nat × Nat × BitVec 32) → Nat → List Nat × State
  | [], _ => ([], s)
  | (pa, len, e) :: rest, at' =>
    let free := s.freePages pa len e
    let digest := Config.sha384 (zeroPages free pa (s.mem.run pa len))
    let x := pa + at' * 2 ^ 64 + len * 2 ^ 128 + e.toNat * 2 ^ 192 + digest.toNat * 2 ^ 256
    let keep := Tab.filterKeys s.mem.bytes fun k => !free.contains (k / 0x200000)
    let lo := (base + at') / 32
    let s := { s with mem := { s.mem with bytes := Tab.graft 0 s.mem.bytes keep pa len (base + at')
                                          poison := Tab.filterKeys s.mem.poison fun k => k < lo || lo + len / 32 ≤ k } }
    let (xs, s) := s.copyBlocks base rest (at' + len)
    (x :: xs, s)

/-- Every dirty byte of the package written back (R109 step 2). -/
def State.writeBackAll (s : State) : State :=
  let holders := (s.mem.l1.map fun e => e.1 / 2 ^ 45).eraseDups
  let s := holders.foldl (fun s c => s.l1Clean c) s
  (s.mem.slice.map fun e => e.1).foldl (fun s l => { s with mem := s.mem.homeTake l }) s

/-- The package is quiescent (R109 step 2, R353): no workgroup runs, and no engine, buffer or home has anything queued or
under way. -/
def State.allQuiet (s : State) : Bool :=
  !(s.wgIds.any fun i => (s.wg i).live && (s.wg i).saved.isNone) && s.eng.ops.isEmpty && s.eng.mx.isEmpty && s.mem.maps.isEmpty
    && s.fab.wcb.isEmpty && s.fab.flights.isEmpty && s.fab.sends.isEmpty && s.xlat.heldWrites.isEmpty && s.mem.snoopWait.isEmpty

/-- A range of the far tier whose frames nobody owns (R109). -/
def State.farFree (s : State) (base len : Nat) : Bool :=
  decide (0 < len) && base % 0x200000 == 0 && s.paKind base == .far && s.paKind (base + len - 1) == .far
    && !(s.xlat.owner.any fun (e : Nat × BitVec 32) =>
        decide (ownerIndex base ≤ e.1 ∧ e.1 ≤ ownerIndex (base + len - 1)) && (bit e.2 31 || bit e.2 30))
    && !s.host.ckpts.any fun c => decide (c.1 < base + len ∧ base < c.1 + c.2)

/-- CHECKPOINT steps 1 (R109): placement stops, running workgroups are saved where they can be, and the plumb takes the
range. -/
def State.checkpoint (s : State) (p : Pending) : Ans := do
  let base := p.arg 24 8
  let len := p.arg 32 8
  mbNeed (s.farFree base len) mbRefused 24
  mbNeed (decide (s.ckptPlan.total ≤ len)) mbRefused 32
  let c : Copying := { restore := false, cmd := p, base := base, len := len, time := none }
  let s := { s with sched := { s.sched with frozen := true }
                    host := { s.host with copying := some c, ckpts := s.host.ckpts ++ [(base, len)] } }
  return (none, s.saveCores (List.range 256) fun _ => true)

/-- CHECKPOINT (R109): the command, and once the package is quiescent the write-back, after which kiln transitions are
deferred and the copy begins. A write-back that its home holds is waited for. -/
def execCheckpoint (n : Nat) (s : State) : Host.Outcome State Fault Refusal :=
  .next (match s.host.copying with
    | some c =>
      if c.restore ∨ c.time.isSome ∨ !s.allQuiet then s
      else
        let s := s.writeBackAll
        if !s.xlat.heldWrites.isEmpty then s
        else { s with host := { s.host with copying := some { c with time := some s.tick } } }
    | none => s.command n 0x0A fun p s => s.checkpoint p)

/-- A host write of bytes of one line at its home, acknowledged once it is performed: the host's own copy needs no recall
(R475). -/
def State.hostWrite (s : State) (pa n data : Nat) : State :=
  let s := { s with mem := { s.mem with snoop := s.mem.snoop.filter fun l => l != pa / 128 } }
  s.writeVia none (pa / 128) ((2 ^ n - 1) * 2 ^ (pa % 128)) (data % 2 ^ (8 * n) * 2 ^ (8 * (pa % 128))) (some pa)

/-- The host writes that the IO dies hold are performed in order, what was put off takes place next in order of arrival, and
placement resumes (R109 step 6). -/
def State.thaw (s : State) : State :=
  let held := s.host.held
  let put := match s.host.copying with | some c => c.deferred | none => []
  let s := { s with agenda := put.map Act.event ++ s.agenda, sched := { s.sched with frozen := false }
                    host := { s.host with copying := none, held := [] } }
  held.foldl (fun s h => s.hostWrite h.pa h.len h.data) s

/-- MAGIC of a checkpoint header (R110). -/
def ckptMagic : Nat := 0x313054504B434257

/-- The lists and the signed header written at a range (R110, R111). -/
def State.writeLists (s : State) (base time seq : Nat) (p : CkptPlan) (blocks : List Nat) : State :=
  let k := packList 24 p.kiln
  let lists := k + packList 8 p.metas * 2 ^ (8 * (p.metaAt - 512)) + packList 96 blocks * 2 ^ (8 * (p.blockAt - 512))
  let n := p.imageAt - 512
  let head := ckptMagic + 2 ^ 64 + p.blocks.length * 2 ^ 96 + p.kiln.length * 2 ^ 128 + p.metas.length * 2 ^ 192 + seq * 2 ^ 256
    + time * 2 ^ 320 + (Config.sha384 (bytesOf n lists)).toNat * 2 ^ 384
  let (g, s) := s.sign s.host.keys.checkpoint 96 head
  (s.writeRun (base + 512) n lists (n / 128 + 1)).writeRun base 512 (head + g * 2 ^ 768) 5

/-- CHECKPOINT_COMPLETE (R109 steps 4 to 6): images, lists and header stand in the range, and the command is answered; an
image that has outgrown its range is turned away. -/
def execCheckpointComplete (s : State) : Host.Outcome State Fault Refusal :=
  .next (match s.host.copying with
    | some { restore := false, cmd := cmd, base := base, len := len, time := some t, .. } =>
      s.atAnswer cmd fun s =>
      let p := s.ckptPlan
      if len < p.total then
        let h := s.host
        ({ s with host := { h with ckpts := h.ckpts.filter fun c => c.1 != base } }.thaw).answer cmd mbRefused 32 0
      else
        let seq := s.host.ckptSeq + 1
        let (blocks, s) := s.copyBlocks base p.blocks p.imageAt
        let s := s.writeLists base t seq p blocks
        let s := { s with host := { s.host with ckptSeq := seq } }.thaw
        s.answer cmd mbDone 0 (seq % 2 ^ 64 + p.total * 2 ^ 64)
    | _ => s)

/-- A block list entry as read back (R111). -/
structure BlockEntry where
  pa : Nat
  image : Nat
  len : Nat
  owner : BitVec 32
  digest : BitVec 384
  deriving DecidableEq, Repr

/-- Entries of `size` bytes read from a list. -/
def State.listAt (s : State) (pa size n : Nat) : List Nat := (List.range n).map fun i => s.mem.readCoh (pa + size * i) size

/-- A checkpoint as its header and lists say (R110, R111). -/
structure CkptRead where
  kiln : List Nat
  metas : List Nat
  blocks : List BlockEntry
  deriving DecidableEq, Repr

/-- A checkpoint range read and checked (R113): none where its header, signature or digest fails. -/
def State.readCkpt (s : State) (base : Nat) : Option CkptRead :=
  let h := s.mem.readCoh base 512
  let f (lo n : Nat) : Nat := h / 2 ^ (8 * lo) % 2 ^ (8 * n)
  let (nb, nk, nm) := (f 12 4, f 16 4, f 24 8)
  let metaAt := 512 + grainUp (24 * nk)
  let blockAt := metaAt + grainUp (8 * nm)
  let size := blockAt + grainUp (96 * nb) - 512
  if s.paKind base ≠ .far ∨ s.paKind (base + size + 511) ≠ .far ∨ f 0 8 ≠ ckptMagic ∨ f 8 4 ≠ 1 ∨ f 20 4 ≠ 0 ∨ f 192 320 ≠ 0
      ∨ s.mem.poisoned base (size + 512) ∨ !s.verifies (s.mem.run base 96) (BitVec.ofNat 768 (f 96 96))
      ∨ f 48 48 ≠ (Config.sha384 (s.mem.run (base + 512) size)).toNat then none
  else
    let block (x : Nat) : BlockEntry :=
      { pa := x % 2 ^ 64, image := x / 2 ^ 64 % 2 ^ 64, len := x / 2 ^ 128 % 2 ^ 64, owner := BitVec.ofNat 32 (x / 2 ^ 192)
        digest := BitVec.ofNat 384 (x / 2 ^ 256) }
    some { kiln := s.listAt (base + 512) 24 nk, metas := s.listAt (base + metaAt) 8 nm
           blocks := (s.listAt (base + blockAt) 96 nb).map block }

/-- A block may be restored (R113): every frame unassigned, its partition and context VALID. -/
def State.restorable (s : State) (b : BlockEntry) : Bool :=
  b.len == spanBytes (field b.owner 29 28) && b.pa % b.len == 0 && decide (b.pa + b.len ≤ s.boundary * 0x10000)
    && (blockFrames b.pa b.len).all (fun f => !bit (s.ownerAt f) 31 && !bit (s.ownerAt f) 30)
    && s.partValid (oPart b.owner) && (oShared b.owner || s.ctxValid (oCtx b.owner))

/-- RESTORE (R113): the checks; then the copy back begins. -/
def State.restore (s : State) (p : Pending) : Ans := do
  let base := p.arg 24 8
  match s.readCkpt base with
  | none => .error (mbRefused, 24)
  | some r =>
    mbNeed (r.blocks.all s.restorable) mbRefused noByte
    let c : Copying := { restore := true, cmd := p, base := base, len := 0, time := none }
    return (none, { s with host := { s.host with copying := some c } })

/-- RESTORE. -/
def execRestore (n : Nat) (s : State) : Host.Outcome State Fault Refusal :=
  .next (s.command n 0x0B fun p s => s.restore p)

/-- A restored kiln entry (R113): RELEASED stays, without holders; any other version is TAINTED and FAILED. -/
def restoredEntry (e : BitVec 128) : BitVec 128 :=
  let e := setField e 31 20 0
  if kSt e = 4 then e else setBit (setField e 2 0 5) 3 true

/-- One block restored (R113): its bytes, unless it was held, its owner entry, its metadata and its kiln entries; false
where its image fails its digest, and the block stays unassigned and zero. Of a block that was held and whose image fails
its digest R113 says both that it is restored zero and that it stays unassigned: since its image is not used, the model does
not look at the digest (DESIGN CHOICE, entry 61). A kiln entry comes back with the VERSION, WITNESS_ID, FIRST and COUNT that
were recorded: where a live binding or record has the same numbers, and where a binding has a page in a block that failed,
the rule says nothing (DESIGN CHOICE, entry 68). -/
def State.restoreBlock (s : State) (base : Nat) (r : CkptRead) (b : BlockEntry) : Bool × State :=
  let pages := if oKiln b.owner then blockPages b.pa b.len else []
  let kept := r.kiln.filter fun x => pages.contains (x % 2 ^ 64)
  let free := pages.filter fun i => !kept.any fun x => x % 2 ^ 64 == i
  let held := bit b.owner 25
  let src := base + b.image
  let image := zeroPages free b.pa (s.mem.run src b.len)
  let s := s.zeroRun b.pa b.len
  if !held ∧ Config.sha384 image ≠ b.digest then (false, s)
  else
    let s := s.placeOwner b.pa b.len (setBit (setBit b.owner 25 false) 30 false)
    if held then (true, s)
    else
      let out (k : Nat) : Bool := !free.contains ((k - src + b.pa) / 0x200000)
      let from' := Tab.filterKeys s.mem.bytes out
      let m := { s.mem with bytes := Tab.graft 0 s.mem.bytes from' src b.len b.pa }
      let mine := r.metas.filter fun x => decide (b.pa ≤ x / 2 ^ 9 * 32 ∧ x / 2 ^ 9 * 32 < b.pa + b.len)
      let m := mine.foldl (fun (m : Mem) x =>
        let sec := x / 2 ^ 9
        { m with poison := Tab.set false m.poison sec (x / 4 % 2 == 1)
                 tags := Tab.set false (Tab.set false m.tags (2 * sec) (x % 2 == 1)) (2 * sec + 1) (x / 2 % 2 == 1) }) m
      let s := { s with mem := m }
      (true, kept.foldl (fun s x => s.setKpage (x % 2 ^ 64) (restoredEntry (BitVec.ofNat 128 (x / 2 ^ 64)))) s)

/-- The blocks restored one by one, with the list indices of those that failed. -/
def State.restoreBlocks (s : State) (base : Nat) (r : CkptRead) : List BlockEntry → Nat → List Nat × State
  | [], _ => ([], s)
  | b :: rest, i =>
    let (ok, s) := s.restoreBlock base r b
    let (bad, s) := s.restoreBlocks base r rest (i + 1)
    (if ok then bad else i :: bad, s)

/-- A restored block's bytes and owner entries may be written (R39, R475). -/
def State.blockReady (s : State) (b : BlockEntry) : Bool := !s.runHeld b.pa b.len && s.framesUntracked (blockFrames b.pa b.len)

/-- RESTORE_COMPLETE (R113): the copy ends; blocks, owner entries, metadata and kiln entries stand, the plumb gives the range
up (R109), and the command reports the blocks that failed. -/
def execRestoreComplete (s : State) : Host.Outcome State Fault Refusal :=
  .next (match s.host.copying with
    | some { restore := true, cmd := cmd, base := base, .. } =>
      s.atAnswer cmd fun s =>
      let done := { s with host := { s.host with copying := none, ckpts := s.host.ckpts.filter fun c => c.1 != base } }
      match s.readCkpt base with
      | none => done.answer cmd mbRefused 24 0
      | some r =>
        if !r.blocks.all s.blockReady then r.blocks.foldl (fun s b => s.askRun b.pa b.len) s
        else
        let (bad, t) := done.restoreBlocks base r r.blocks 0
        t.answer cmd mbDone 0 (bad.length + packList 4 (bad.take 62) * 2 ^ 32)
    | _ => s)

end Sys2Proof.Machine
end

