-- ==== Sys2Proof/Machine/Attach.lean ====
section
/-! DEFINITION. The host attachment, boot and assignment (R473-R487): the host's reads and writes through the egress filter
(R104-R107, R475), its register block (R476), boot (R481), attestation (R482), the TDIs (R484), and heat (R487). -/

namespace Sys2Proof.Machine

/-- How the egress filter answers a host access to a frame. -/
inductive Egress where
  | pass
  /-- refused and counted by the IO die of the host port, taken to be 0 (R106, R107, entry 64) -/
  | kiln
  /-- refused and counted in host_refused (R475) -/
  | locked
  deriving DecidableEq, Repr

/-- The egress filter for a host access (R106, R475); `stream` is the partition whose selective IDE stream carries it. -/
def State.hostEgress (s : State) (pa : Nat) (stream : Option Nat) (write : Bool) : Egress :=
  let e := s.ownerOf pa
  if bit e 31 && s.tdiLocked (oPart e) && stream != some (oPart e) then .locked
  else if (bit e 31 && oKiln e && (write || kSt (s.kpage (pa / 0x200000)) != 4)) || Tab.get 0 s.xlat.heldBy (ownerIndex pa) != 0 then
    .kiln
  else .pass

/-- A refused host access counted (R107, R475). -/
def State.countEgress (s : State) : Egress → State
  | .pass => s
  | .kiln => s.countRefused 0 1
  | .locked => { s with host := { s.host with refused := s.host.refused + 1 } }

/-- The host may hold a line from here on (R475); a filter of 2^25 entries recalls its oldest. -/
def State.snoopAdd (s : State) (line : Nat) : State :=
  if s.mem.snoop.contains line then s
  else
    let s := match s.mem.snoop with
      | old :: rest => if 2 ^ 25 ≤ s.mem.snoop.length then { s with mem := { s.mem with snoop := rest } }.send (.bisnp old) else s
      | [] => s
    { s with mem := { s.mem with snoop := s.mem.snoop ++ [line] } }

/-- The die of the host port (R38): IO die 0 (entry 64). -/
def hostDie : Nat := 9

/-- First address of the plumb region, whose contents the model keeps elsewhere (R82). -/
def plumbBase : Nat := 0xBF00000000

/-- An access of the host that reaches HBM, within one line (R475). -/
def hostReaches (pa n : Nat) : Bool := decide (pa + n ≤ 0xC000000000) && decide (0 < n) && decide (pa % 128 + n ≤ 128)

/-- What a host read of BAR0 returns (R10, R476): mbox_post and fw_go are write-only and read as zero, and so does what lies
above the registers. -/
def HostIf.bar (h : HostIf) : Nat → Word
  | 0x08 => h.devState.setWidth 64
  | 0x18 => BitVec.ofNat 64 (h.mboxFree % 32)
  | _ => 0

/-- HOST_MEM_READ (R59, R106, R475, R476): an aligned 8-byte read of BAR0, or a read within a line of HBM, served at its home;
a refused one returns zeros with poison. -/
def execHostMemRead (place : HostPlace) (n : Nat) (stream : Option Nat) (s : State) : Host.Outcome State Fault Refusal :=
  .next (match place with
    | .bar0 off => if 0x10000 ≤ off ∨ off % 8 ≠ 0 ∨ n ≠ 8 then s else s.send (.barData off (s.host.bar off))
    | .mem pa =>
      if !hostReaches pa n then s
      else match s.hostEgress pa stream false with
        | .pass =>
          if plumbBase ≤ pa then
            let (x, s) := s.free Config.freeWord
            s.send (.hostData pa n (x.toNat % 2 ^ (8 * n)) false)
          else if s.unbacked pa then s.send (.hostData pa n 0 true)
          else if s.homeAway (some hostDie) (pa / 128) then s
          else match s.homeReady (pa / 128) 128 false with
            | .ok s =>
              let s := (s.homeLoad (pa / 128)).snoopAdd (pa / 128)
              s.send (.hostData pa n (s.mem.readCoh pa n) (s.mem.poisoned pa n || s.homeIn [4] pa))
            | .error (.park _ t) => t
            | .error _ => s
        | r => (s.countEgress r).send (.hostData pa n 0 true))

/-- HOST_MEM_WRITE (R39, R106, R109, R473, R475): a write to the staging window BAR2, or of bytes of one line of HBM. A
refused write is dropped and completed; during a checkpoint it is held; one that its home cannot perform yet is held
there. -/
def execHostMemWrite (bar2 : Bool) (pa n data : Nat) (stream : Option Nat) (s : State) : Host.Outcome State Fault Refusal :=
  .next (if bar2 then
      if 0x4000000 < pa + n then s else { s with host := { s.host with staging := writeN s.host.staging pa n data } }
    else if !hostReaches pa n then s
    else match s.hostEgress pa stream true with
      | .pass =>
        if plumbBase ≤ pa ∨ s.unbacked pa then s.send (.hostWritten pa)
        else if s.checkpointing then { s with host := { s.host with held := s.host.held ++ [{ pa := pa, len := n, data := data }] } }
        else if s.homeAway (some hostDie) (pa / 128) then s
        else s.hostWrite pa n data
      | r => (s.countEgress r).send (.hostWritten pa))

/-- REGISTER_WRITE (R10, R476): a host write to BAR0. mbox_post posts the command block that stands at the address in host
memory, `block`; every other register there has no behaviour on a write but fw_go. An address that is not 512-byte aligned,
of which the spec states no effect, posts nothing (DESIGN CHOICE, entry 61). -/
def execRegisterWrite (off : Nat) (value : BitVec 64) (block : BitVec 4096) (s : State) : Host.Outcome State Fault Refusal :=
  let h := s.host
  .next (if off ≠ 0 ∨ h.mboxFree = 0 ∨ h.devState ≠ 5 ∨ value.toNat % 512 ≠ 0 then s
    else
      let p : Pending := { issuer := .host, addr := value.toNat, block := block }
      { s with host := { h with pending := h.pending ++ [p], mboxFree := h.mboxFree - 1 } })

/-- POWER_UP (R481 step 1, R485): the ROM runs, the seed generator's state is drawn, and the far ports train; `ports` are
their capacities, 0 for one that is not populated. -/
def execPowerUp (ports : List Nat) (s : State) : Host.Outcome State Fault Refusal :=
  .next (if s.host.devState ≠ 0 then s
    else
      let c := s.freeCtr
      let seed := Config.freeWord c ++ Config.freeWord (c + 1) ++ Config.freeWord (c + 2) ++ Config.freeWord (c + 3)
      let far := (List.range 16).foldl (fun t i =>
        let n := ports.getD i 0
        Tab.set 0 t i (if n % 0x200000 = 0 then n else 0)) ([] : Tab Nat)
      { s with freeCtr := c + 4, host := { s.host with devState := 1, seedState := seed, farPort := far } })

/-- FW_GO (R476, R481): a write of fw_go starts authentication when a firmware set is awaited. -/
def execFwGo (length : BitVec 32) (s : State) : Host.Outcome State Fault Refusal :=
  .next (if s.host.devState = 1 ∨ s.host.devState = 3 then
      { s with host := { s.host with devState := 2, fwLength := length } }
    else s)

/-- The firmware set as it stands in BAR2 (R481). -/
def HostIf.fwSet (h : HostIf) : List Byte := (List.range h.fwLength.toNat).map fun i => Tab.get 0 h.staging i

/-- The keys of a boot, derived from the identity key and the set's measurement (R459). -/
def Keys.derive (k : Keys) (measurement : BitVec 384) (draw : Nat) : Keys :=
  { k with attest := Config.bootKey k.identity 0 measurement draw, checkpoint := Config.bootKey k.identity 1 measurement draw
           result := Config.bootKey k.identity 2 measurement draw }

/-- AUTHENTICATION (R459, R481 step 3): the set in BAR2 is checked; with a set that passes, the boot has its firmware and
derives its keys. -/
def execAuthentication (s : State) : Host.Outcome State Fault Refusal :=
  let h := s.host
  .next (if h.devState ≠ 2 then s
    else if Config.firmwareOk h.fwSet then
      { s with freeCtr := s.freeCtr + 1
               host := { h with devState := 4, firmware := h.fwSet, keys := h.keys.derive (Config.sha384 h.fwSet) s.freeCtr } }
    else { s with host := { h with devState := 3 } })

/-- The fused retirements applied at boot (R471, R481); the spec does not say what WHY reads for them. -/
def State.applyFuses (s : State) : State :=
  (s.rel.fuseCore.map fun e => e.1).foldl (fun s c =>
    let (x, s) := s.free Config.freeWord
    let x := setBit (setField (s.health c) 30 27 x.toNat) 31 true
    (s.setHealth c x).setCore c { s.core c with gate := .gated }) s

/-- BRINGUP (R79, R442, R466, R481 step 4): banks that fail the stacks' self-test are dropped, fused retirements applied,
pairs that fail their test retired, the first epoch's seeds drawn; the device is READY. -/
def execBringup (banks cores : List Nat) (s : State) : Host.Outcome State Fault Refusal :=
  .next (if s.host.devState ≠ 4 then s
    else
      let s := (banks.filter fun b => decide (b < 49152)).foldl (fun s b => s.bankEvent b true) s
      let s := s.applyFuses
      let s := (cores.filter fun c => decide (c < 256)).foldl (fun s c =>
        ((s.logEvent 4 0 c 3).retireCore c 3).setCore c { s.core c with gate := .gated }) s
      let s := s.drawSeeds 1
      { s with host := { s.host with devState := 5 } })

/-- Every unanswered command ABANDONED (R477, R487). -/
def State.abandonAll (s : State) : State :=
  let s := s.unanswered.foldl (fun s p => s.abandon p) s
  let zero := s.xlat.zero.map fun (j : ZeroJob) => { j with cmd := none }
  { s with xlat := { s.xlat with zero := zero }
           host := { s.host with pending := [], copying := none, dieReset := none, mboxFree := 16 } }

/-- PACKAGE_RESET (R477): every unanswered command is left ABANDONED, and the package is as after reset but for what HBM and
the far tier hold, the fuses (R471), the boot count, and the model's list of the keys that have signed (R459). -/
def execPackageReset (s : State) : Host.Outcome State Fault Refusal :=
  let s := s.abandonAll
  let r := State.reset
  .next { r with agenda := s.agenda, freeCtr := s.freeCtr, outbox := s.outbox
                 mem := { r.mem with bytes := s.mem.bytes, poison := s.mem.poison, tags := s.mem.tags }
                 host := { r.host with keys := { r.host.keys with identity := s.host.keys.identity, old := s.host.keys.signing } }
                 rel := { r.rel with fuseCore := s.rel.fuseCore, fuseCourse := s.rel.fuseCourse, boots := s.rel.boots + 1 } }

/-- OVERTEMP (R487): the package stops, and every pending command is ABANDONED. -/
def execOvertemp (s : State) : Host.Outcome State Fault Refusal :=
  let s := s.abandonAll
  .next { s with host := { s.host with devState := 6 } }

/-- The bytes that a measurement block digests (R482). -/
def State.measured (s : State) (part : Nat) : Nat → List Byte
  | 1 => Config.measured 1
  | 2 => s.host.firmware
  | 3 =>
    let cores := (List.range 256).map fun c => if Tab.get false s.rel.fuseCore c then (1 : Byte) else 0
    Config.measured 3 ++ cores ++ (List.range 4).map fun k => if Tab.get false s.rel.fuseCourse k then (1 : Byte) else 0
  | 4 => bytesOf 8 s.rel.hbmCfg.toNat ++ bytesOf 8 s.cert.cfg.toNat ++ bytesOf 8 s.rel.faultCfg.toNat
  | 5 =>
    let ctxs := (List.range 256).filter fun c => s.ctxValid c && s.ctxPart c == part
    bytesOf 32 (s.partDesc part).toNat ++ ctxs.flatMap fun c => bytesOf 64 (s.ctxDesc c).toNat
  | 6 => (List.range 512).flatMap fun n => bytesOf 8 (s.peer part n).toNat
  | _ =>
    let tdi : Byte := match Tab.get .unlocked s.host.tdi part with | .unlocked => 0 | .locked => 1 | .run => 2 | .error => 3
    tdi :: (s.framesOf fun e => oPart e == part).flatMap fun f => bytesOf 4 (s.ownerAt f).toNat

/-- SPDM_REQUEST (R482): a session of a function is opened, four at most, or closed, or the function's measurement blocks are
answered under a signature of the attestation key, from the time that boot has derived it (R459). -/
def execSpdmRequest (function op : Nat) (s : State) : Host.Outcome State Fault Refusal :=
  let n := Tab.get 0 s.host.sessions function
  let set (n : Nat) : State := { s with host := { s.host with sessions := Tab.set 0 s.host.sessions function n } }
  .next (if 17 ≤ function then s
    else if op = 0 then (if n < 4 then set (n + 1) else s)
    else if op = 1 then set (n - 1)
    else if s.host.devState ≠ 4 ∧ s.host.devState ≠ 5 then s
    else
      let blocks := (if function = 0 then [1, 2, 3, 4] else [1, 2, 3, 4, 5, 6, 7]).map fun b =>
        (b, Config.sha384 (s.measured (function - 1) b))
      let (g, s) := s.free fun k => Config.signature s.host.keys.attest k (blocks.flatMap fun b => bytesOf 48 b.2.toNat)
      s.send (.spdm function blocks g))

/-- A TDI's state put (R484). -/
def State.setTdi (s : State) (part : Nat) (x : Tdi) : State :=
  { s with host := { s.host with tdi := Tab.set .unlocked s.host.tdi part x } }

/-- TDISP_REQUEST (R484): 0 locks the configuration, 1 starts the interface, 2 is an entry to ERROR; the answer is the state
it leaves. -/
def execTdispRequest (part op : Nat) (s : State) : Host.Outcome State Fault Refusal :=
  .next (if 16 ≤ part then s
    else
      let old := Tab.get .unlocked s.host.tdi part
      let new := match op, old with
        | 0, .unlocked => Tdi.locked
        | 1, .locked => .run
        | 2, .locked => .error
        | 2, .run => .error
        | _, x => x
      (s.setTdi part new).send (.tdisp (part + 1) new))

/-- The blocks of a partition by the owner table: address and bytes. -/
def State.partBlocks (s : State) (part : Nat) : List (Nat × Nat) :=
  ((s.framesOf fun e => oPart e == part).map fun f =>
    let n := spanBytes (field (s.ownerAt f) 29 28)
    (framePa f / n * n, n)).eraseDups

/-- The contexts of a partition. -/
def State.partCtxs (s : State) (part : Nat) : List Nat := (List.range 256).filter fun c => s.ctxValid c && s.ctxPart c == part

/-- STOP_INTERFACE (R29, R83, R109, R484): every context of the partition ends, its frames are zeroed and left unowned, and
the TDI is CONFIG_UNLOCKED; once no translation, no copy at the host and no assignment under way (R29) stands in the
way. R89 unassigns a kiln block only when its pages are FREE: every binding of the partition is freed first (DESIGN
CHOICE, entry 68). -/
def execStopInterface (part : Nat) (s : State) : Host.Outcome State Fault Refusal :=
  let blocks := s.partBlocks part
  let moving := s.xlat.zero.any fun j => blocks.any (fun b => decide (b.1 < j.pa + j.len ∧ j.pa < b.1 + b.2)) ||
    (bit j.owner 31 && oPart j.owner == part)
  let ready := (s.partCtxs part).all s.ctxEnds && !moving && blocks.all fun b => !s.runHeld b.1 b.2 && s.framesUntracked (blockFrames b.1 b.2)
  .next (if 16 ≤ part then s
    else if s.kilnDeferred then s.defer
    else if !ready then blocks.foldl (fun s b => s.askRun b.1 b.2) s
    else
      let s := (s.partCtxs part).foldl (fun s c => s.endContext c) s
      let s := (s.bindings.filter fun f => kPart (s.kpage f) == part).foldl (fun s f => s.freeBinding f) s
      let s := blocks.foldl (fun s b => (s.zeroRun b.1 b.2).placeOwner b.1 b.2 0) s
      (s.released.setTdi part .unlocked).send (.tdisp (part + 1) .unlocked))

end Sys2Proof.Machine
end

