-- ==== Sys2Proof/Machine/LaneCross.lean ====
section
/-! DEFINITION. Cross-thread instructions: exchanges (R320), votes (R321), reductions (R322, R324), scans (R323, R324), and
byte lookup and permute (R325, R326). -/

namespace Sys2Proof.Machine

/-- An exchange: the source thread a function names, or the fill (R320). `w` is the warp before the instruction (R211). -/
def exchange (s : State) (op : Nat) (f : LaneFields) (src : Nat → Nat → Option Nat) :
    Host.Outcome State Fault Refusal :=
  laneAtOnce s op f fun w _ part =>
    let r := match f.opa with | .v n => n.val | _ => 0
    let put (x : Warp) (i : Nat) : Warp :=
      let v := match src i (w.operand f .n32 i f.opb) with
        | some j => (w.vget r j).toNat
        | none => w.operand f .n32 i f.opc
      x.putDest f i v
    (s.modWarp s.cur fun x => (threads part).foldl put x).laneAdvance

/-- LXCH.SEL (R320). -/
def execLxchSel (f : LaneFields) (s : State) : Host.Outcome State Fault Refusal :=
  exchange s 0x100 f fun _ b => some (b % 32)

/-- LXCH.LAG (R320). -/
def execLxchLag (f : LaneFields) (s : State) : Host.Outcome State Fault Refusal :=
  exchange s 0x101 f fun i b => if b ≤ i then some (i - b) else none

/-- LXCH.LEAD (R320). -/
def execLxchLead (f : LaneFields) (s : State) : Host.Outcome State Fault Refusal :=
  exchange s 0x102 f fun i b => if i + b ≤ 31 then some (i + b) else none

/-- LXCH.MIR (R320). -/
def execLxchMir (f : LaneFields) (s : State) : Host.Outcome State Fault Refusal :=
  exchange s 0x103 f fun i b => some (i ^^^ (b % 32))

/-- A scalar destination of a lane instruction written after its last thread (R298): a refused write of s62 leaves the
instruction to start again at its first participating thread (entry 21). -/
def State.putScalar (s : State) (f : LaneFields) (part : BitVec 32) (x : Word) : State :=
  match s.warp? s.cur, f.dest with
  | some w, .s d =>
    match w.writeS d x with
    | .ok w => (s.setWarp s.cur w).laneAdvance
    | .error e => (s.modHead fun b => { b with running := none }).laneStop (lowest part) e
  | _, _ => s.laneAdvance

/-- BALLOT (R321). -/
def execBallot (f : LaneFields) (s : State) : Host.Outcome State Fault Refusal :=
  laneAtOnce s 0x104 f fun w _ part => s.putScalar f part ((w.predOf f.opa &&& part).setWidth 64)

/-- A vote written to every participating thread's bit (R321). -/
def vote (s : State) (op : Nat) (f : LaneFields) (k : BitVec 32 → BitVec 32 → Bool) :
    Host.Outcome State Fault Refusal :=
  laneAtOnce s op f fun w _ part =>
    match f.dest with
    | .p d => (s.modWarp s.cur fun x =>
        x.pset d part (if k (w.predOf f.opa &&& part) part then BitVec.allOnes 32 else 0)).laneAdvance
    | _ => s.laneAdvance

/-- VOTE.ANY (R321). -/
def execVoteAny (f : LaneFields) (s : State) : Host.Outcome State Fault Refusal :=
  vote s 0x105 f fun m _ => m != 0

/-- VOTE.ALL (R321). -/
def execVoteAll (f : LaneFields) (s : State) : Host.Outcome State Fault Refusal :=
  vote s 0x106 f fun m part => m == part

/-- The combining operations of reductions and scans (R322, R323). -/
inductive Combine where
  | add | min | max | and | or | xor
  deriving DecidableEq, Repr

/-- What a reduction over no thread writes (R322). -/
def Combine.identity (k : Combine) (ty : LType) : Nat :=
  if ty = .f32 then
    match k with
    | .min => fmtF32.infCode false
    | .max => fmtF32.infCode true
    | _ => 0
  else
    match k with
    | .min => truncI ty.width (intHi ty)
    | .max => truncI ty.width (intLo ty)
    | .and => 2 ^ ty.width - 1
    | _ => 0

/-- One step: the first value stands for itself, a NaN as the default NaN and a signalling one with NV (R192); later ones are
combined (R322). -/
def Combine.step (k : Combine) (ty : LType) (md : Mode) (acc : Option Nat) (x : Nat) : Nat × Nat :=
  match acc with
  | none =>
    if ty = .f32 then ((fmtF32.finish .rne false (fmtF32.decode x)).1, sigFlag [fmtF32.decode x])
    else (x, 0)
  | some a =>
    if ty = .f32 then
      let (v, fl) := match k with
        | .min => fpMin (fmtF32.decode a) (fmtF32.decode x)
        | .max => fpMax (fmtF32.decode a) (fmtF32.decode x)
        | _ => fpAdd md (fmtF32.decode a) (fmtF32.decode x)
      let (r, g) := fmtF32.finish md false v
      (r, fl ||| g)
    else
      let u := intOf ty a
      let v := intOf ty x
      (match k with
        | .add => truncI ty.width (u + v)
        | .min => truncI ty.width (Min.min u v)
        | .max => truncI ty.width (Max.max u v)
        | .and => a &&& x
        | .or => a ||| x
        | .xor => a ^^^ x, 0)

/-- The running value of the head block of the warp in focus (R324). -/
def State.running (s : State) : Option Nat :=
  match s.warp? s.cur with
  | some w => (w.blocks.head?.bind Block.running).map BitVec.toNat
  | none => none

/-- The running value put into the head block. -/
def State.setRunning (s : State) (x : Nat) : State :=
  s.modHead fun b => { b with running := some (BitVec.ofNat 64 x) }

/-- The result of a reduction as sD takes it (R322). -/
def reduxWord (ty : LType) (x : Nat) : Word := if ty = .s32 then sextN 32 x else BitVec.ofNat 64 x

/-- One thread of a reduction. -/
def reduceThread (k : Combine) (f : LaneFields) (s : State) (t : Nat) : Except Stop State :=
  match s.warp? s.cur with
  | none => .ok s
  | some w => do
    let (r, fl) := k.step f.ty (w.mode f.rnd) s.running (w.operand f f.ty t f.opa)
    let s ← s.raise fl
    return s.setRunning r

/-- A reduction into a scalar register (R322, R324). -/
def redux (s : State) (op : Nat) (f : LaneFields) (k : Combine) : Host.Outcome State Fault Refusal :=
  laneOpFrame s op f fun _ b part =>
    match perThread (reduceThread k f) (todo b part) s with
    | (t, some (i, e)) => t.laneStop i e
    | (t, none) => t.putScalar f part (reduxWord f.ty (t.running.getD (k.identity f.ty)))

/-- REDUX.ADD (R322). -/
def execReduxAdd (f : LaneFields) (s : State) : Host.Outcome State Fault Refusal := redux s 0x107 f .add

/-- REDUX.MIN (R322). -/
def execReduxMin (f : LaneFields) (s : State) : Host.Outcome State Fault Refusal := redux s 0x108 f .min

/-- REDUX.MAX (R322). -/
def execReduxMax (f : LaneFields) (s : State) : Host.Outcome State Fault Refusal := redux s 0x109 f .max

/-- REDUX.AND (R322). -/
def execReduxAnd (f : LaneFields) (s : State) : Host.Outcome State Fault Refusal := redux s 0x10A f .and

/-- REDUX.OR (R322). -/
def execReduxOr (f : LaneFields) (s : State) : Host.Outcome State Fault Refusal := redux s 0x10B f .or

/-- REDUX.XOR (R322). -/
def execReduxXor (f : LaneFields) (s : State) : Host.Outcome State Fault Refusal := redux s 0x10C f .xor

/-- One thread of a scan: inclusive, or exclusive of its own value, which no sum takes when no thread follows (R323). -/
def scanThread (k : Combine) (excl : Bool) (f : LaneFields) (part : BitVec 32) (s : State) (t : Nat) :
    Except Stop State :=
  match s.warp? s.cur with
  | none => .ok s
  | some w => do
    let acc := s.running
    let last := (threads part).all fun i => i ≤ t
    let (r, fl) := if excl && last then (acc.getD 0, 0) else k.step f.ty (w.mode f.rnd) acc (w.operand f f.ty t f.opa)
    let s ← s.raise fl
    let s := s.modWarp s.cur fun w => w.putDest f t (if excl then acc.getD 0 else r)
    return s.setRunning r

/-- A scan (R323, R324). -/
def scan (s : State) (op : Nat) (f : LaneFields) (k : Combine) (excl : Bool) : Host.Outcome State Fault Refusal :=
  laneOpFrame s op f fun _ b part =>
    match perThread (scanThread k excl f part) (todo b part) s with
    | (t, some (i, e)) => t.laneStop i e
    | (t, none) => t.laneAdvance

/-- SCAN.ADD (R323). -/
def execScanAdd (f : LaneFields) (s : State) : Host.Outcome State Fault Refusal := scan s 0x10D f .add false

/-- SCAN.ADDX (R323). -/
def execScanAddx (f : LaneFields) (s : State) : Host.Outcome State Fault Refusal := scan s 0x10E f .add true

/-- SCAN.MAX (R323). -/
def execScanMax (f : LaneFields) (s : State) : Host.Outcome State Fault Refusal := scan s 0x10F f .max false

/-- Four bytes from a function of their index. -/
def fourBytes (k : Nat → Nat) : Nat := k 0 + k 1 * 2 ^ 8 + k 2 * 2 ^ 16 + k 3 * 2 ^ 24

/-- Byte `i` of a number. -/
def byteOf (x i : Nat) : Nat := x / 2 ^ (8 * i) % 256

/-- BLUT (R325). -/
def execBlut (f : LaneFields) (s : State) : Host.Outcome State Fault Refusal :=
  laneCompute s 0x110 f { a := .n32, b := .n64, c := .n64 } fun x =>
    .ok (fourBytes fun k => byteOf (x.b + x.c * 2 ^ 64) (byteOf x.a k % 16), 0)

/-- One byte of a permute by its selector (R326). -/
def pickByte (src sel : Nat) : Nat :=
  let b := byteOf src (sel % 8)
  match sel / 8 % 4 with
  | 0 => b
  | 1 => 0
  | 2 => 255
  | _ => if 128 ≤ b then 255 else 0

/-- BPICK (R326). -/
def execBpick (f : LaneFields) (s : State) : Host.Outcome State Fault Refusal :=
  laneCompute s 0x111 f { a := .n32, b := .n32, c := .n32 } fun x =>
    .ok (fourBytes fun k => pickByte (x.a + x.b * 2 ^ 32) (byteOf x.c k), 0)

end Sys2Proof.Machine
end

