-- ==== Sys2Proof/Machine/Modular.lean ====
section
/-! DEFINITION. Modular arithmetic and the number-theoretic butterfly (R334, R335). -/

namespace Sys2Proof.Machine

/-- An operand reduced into [0, q): an immediate as a signed integer, anything else as unsigned (R334). -/
def modOperand (q : Nat) (o : Operand) (x : Nat) : Nat :=
  match o with
  | .inl _ | .w2 => (signed 64 x % (q : Int)).toNat
  | _ => x % q

/-- With Q = 0 a modular form raises BAD_FORMAT at issue, with the lowest participating thread (R334). -/
def modIssue (s : State) (op : Nat) (f : LaneFields) (k : Host.Outcome State Fault Refusal) :
    Host.Outcome State Fault Refusal :=
  if (s.warp? s.cur).any fun w => w.modQ == 0 then
    laneOpFrame s op f fun _ _ part => if part = 0 then s.laneAdvance else s.laneStop (lowest part) badFormat
  else k

/-- A modular form (R334). -/
def modForm (s : State) (op : Nat) (f : LaneFields) (k : Nat → Nat → Nat → Nat → Nat) :
    Host.Outcome State Fault Refusal :=
  modIssue s op f <| lanePure s op f fun x =>
    let q := x.w.modQ.toNat
    (k q (modOperand q f.opa x.a) (modOperand q f.opb x.b) (modOperand q f.opc x.c) % q, 0)

/-- MODMUL (R334). -/
def execModmul (f : LaneFields) (s : State) : Host.Outcome State Fault Refusal :=
  modForm s 0x180 f fun _ a b _ => a * b

/-- MODADD (R334). -/
def execModadd (f : LaneFields) (s : State) : Host.Outcome State Fault Refusal :=
  modForm s 0x181 f fun _ a b _ => a + b

/-- MODSUB (R334). -/
def execModsub (f : LaneFields) (s : State) : Host.Outcome State Fault Refusal :=
  modForm s 0x182 f fun q a b _ => a + q - b

/-- MODMAD (R334). -/
def execModmad (f : LaneFields) (s : State) : Host.Outcome State Fault Refusal :=
  modForm s 0x183 f fun _ a b c => a * b + c

/-- NTT.BFLY (R335): both pairs are written after all operands are read. -/
def execNttBfly (f : LaneFields) (s : State) : Host.Outcome State Fault Refusal :=
  modIssue s 0x184 f <| laneEach s 0x184 f fun s i =>
    match s.warp? s.cur, f.dest with
    | some w, .v d =>
      let q := w.modQ.toNat
      let x := modOperand q f.opa (w.operand f .mod64 i f.opa)
      let y := modOperand q f.opb (w.operand f .mod64 i f.opb)
      let t := modOperand q f.opc (w.operand f .mod64 i f.opc) * y % q
      let w := (w.putLane d .mod64 i ((x + t) % q)).putLane (Fin.ofNat 256 (d.val + 2)) .mod64 i ((x + q - t) % q)
      .ok (s.setWarp s.cur w)
    | _, _ => .ok s

end Sys2Proof.Machine
end

