-- ==== Sys2Proof/Machine/Scalar.lean ====
section
/-! DEFINITION. Scalar integer arithmetic (R264, R265), immediates (R266-R268) and control transfer (R269-R271). -/

namespace Sys2Proof.Machine

/-- Bits [127:64] of a signed product (R264). -/
def mulHigh (a b : Word) : Word := BitVec.ofInt 64 (a.toInt * b.toInt / 2 ^ 64)

/-- Bits [127:64] of an unsigned product (R264). -/
def mulHighN (a b : Word) : Word := BitVec.ofNat 64 (a.toNat * b.toNat / 2 ^ 64)

/-- Signed division toward zero (R265). -/
def divS (a b : Word) : Word :=
  if b = 0 then BitVec.allOnes 64 else BitVec.ofInt 64 (a.toInt.tdiv b.toInt)

/-- The signed remainder, with the sign of the dividend (R265). -/
def remS (a b : Word) : Word :=
  if b = 0 then a else BitVec.ofInt 64 (a.toInt - b.toInt * a.toInt.tdiv b.toInt)

/-- Unsigned division (R265). -/
def divN (a b : Word) : Word := if b = 0 then BitVec.allOnes 64 else BitVec.ofNat 64 (a.toNat / b.toNat)

/-- The unsigned remainder (R265). -/
def remN (a b : Word) : Word := if b = 0 then a else BitVec.ofNat 64 (a.toNat % b.toNat)

/-- Left shift by the low six bits of `b` (R264). -/
def shlW (a b : Word) : Word := a <<< (b.toNat % 64)

/-- Logical right shift by the low six bits of `b` (R264). -/
def shrW (a b : Word) : Word := a >>> (b.toNat % 64)

/-- Arithmetic right shift by the low six bits of `b` (R264). -/
def sraW (a b : Word) : Word := a.sshiftRight (b.toNat % 64)

/-- Right rotation by the low six bits of `b` (R264). -/
def rorW (a b : Word) : Word := a.rotateRight (b.toNat % 64)

/-- 1 when a condition holds, else 0. -/
def flag (c : Bool) : Word := if c then 1 else 0

/-- A scalar form of two registers (R264). -/
def binary (s : State) (d a b : SReg) (f : Word → Word → Word) : Host.Outcome State Fault Refusal :=
  alu s d [a, b] fun w => f (w.sget a) (w.sget b)

/-- A scalar form of one register and a constant (R264, R266, R267). -/
def unary (s : State) (d a : SReg) (f : Word → Word) : Host.Outcome State Fault Refusal :=
  alu s d [a] fun w => f (w.sget a)

/-- ADD (R264). -/
def execAdd (d a b : SReg) (s : State) : Host.Outcome State Fault Refusal :=
  binary s d a b (· + ·)

/-- SUB (R264). -/
def execSub (d a b : SReg) (s : State) : Host.Outcome State Fault Refusal :=
  binary s d a b (· - ·)

/-- MUL (R264). -/
def execMul (d a b : SReg) (s : State) : Host.Outcome State Fault Refusal :=
  binary s d a b (· * ·)

/-- MULH (R264). -/
def execMulh (d a b : SReg) (s : State) : Host.Outcome State Fault Refusal :=
  binary s d a b mulHigh

/-- MULHN (R264). -/
def execMulhn (d a b : SReg) (s : State) : Host.Outcome State Fault Refusal :=
  binary s d a b mulHighN

/-- DIV (R265). -/
def execDiv (d a b : SReg) (s : State) : Host.Outcome State Fault Refusal :=
  binary s d a b divS

/-- DIVN (R265). -/
def execDivn (d a b : SReg) (s : State) : Host.Outcome State Fault Refusal :=
  binary s d a b divN

/-- REM (R265). -/
def execRem (d a b : SReg) (s : State) : Host.Outcome State Fault Refusal :=
  binary s d a b remS

/-- REMN (R265). -/
def execRemn (d a b : SReg) (s : State) : Host.Outcome State Fault Refusal :=
  binary s d a b remN

/-- AND (R264). -/
def execAnd (d a b : SReg) (s : State) : Host.Outcome State Fault Refusal :=
  binary s d a b (· &&& ·)

/-- OR (R264). -/
def execOr (d a b : SReg) (s : State) : Host.Outcome State Fault Refusal :=
  binary s d a b (· ||| ·)

/-- XOR (R264). -/
def execXor (d a b : SReg) (s : State) : Host.Outcome State Fault Refusal :=
  binary s d a b (· ^^^ ·)

/-- ANDN (R264). -/
def execAndn (d a b : SReg) (s : State) : Host.Outcome State Fault Refusal :=
  binary s d a b (fun a b => a &&& ~~~b)

/-- SHL (R264). -/
def execShl (d a b : SReg) (s : State) : Host.Outcome State Fault Refusal :=
  binary s d a b shlW

/-- SHR (R264). -/
def execShr (d a b : SReg) (s : State) : Host.Outcome State Fault Refusal :=
  binary s d a b shrW

/-- SRA (R264). -/
def execSra (d a b : SReg) (s : State) : Host.Outcome State Fault Refusal :=
  binary s d a b sraW

/-- ROR (R264). -/
def execRor (d a b : SReg) (s : State) : Host.Outcome State Fault Refusal :=
  binary s d a b rorW

/-- MIN (R264). -/
def execMin (d a b : SReg) (s : State) : Host.Outcome State Fault Refusal :=
  binary s d a b (fun a b => if a.slt b then a else b)

/-- MINN (R264). -/
def execMinn (d a b : SReg) (s : State) : Host.Outcome State Fault Refusal :=
  binary s d a b (fun a b => if a.ult b then a else b)

/-- MAX (R264). -/
def execMax (d a b : SReg) (s : State) : Host.Outcome State Fault Refusal :=
  binary s d a b (fun a b => if a.slt b then b else a)

/-- MAXN (R264). -/
def execMaxn (d a b : SReg) (s : State) : Host.Outcome State Fault Refusal :=
  binary s d a b (fun a b => if a.ult b then b else a)

/-- SLT (R264). -/
def execSlt (d a b : SReg) (s : State) : Host.Outcome State Fault Refusal :=
  binary s d a b (fun a b => flag (a.slt b))

/-- SLTN (R264). -/
def execSltn (d a b : SReg) (s : State) : Host.Outcome State Fault Refusal :=
  binary s d a b (fun a b => flag (a.ult b))

/-- SEQ (R264). -/
def execSeq (d a b : SReg) (s : State) : Host.Outcome State Fault Refusal :=
  binary s d a b (fun a b => flag (a == b))

/-- CLZ (R264). -/
def execClz (d a : SReg) (s : State) : Host.Outcome State Fault Refusal :=
  unary s d a (fun a => BitVec.ofNat 64 (clz 64 a.toNat))

/-- CTZ (R264). -/
def execCtz (d a : SReg) (s : State) : Host.Outcome State Fault Refusal :=
  unary s d a (fun a => BitVec.ofNat 64 (ctz 64 a.toNat))

/-- POPC (R264). -/
def execPopc (d a : SReg) (s : State) : Host.Outcome State Fault Refusal :=
  unary s d a (fun a => BitVec.ofNat 64 (popCount 64 a.toNat))

/-- BSWAP (R264). -/
def execBswap (d a : SReg) (s : State) : Host.Outcome State Fault Refusal :=
  unary s d a (fun a => BitVec.ofNat 64 (byteRev 8 a.toNat))

/-- ADDI (R266). -/
def execAddi (d a : SReg) (imm : BitVec 14) (s : State) : Host.Outcome State Fault Refusal :=
  unary s d a (fun a => a + imm.signExtend 64)

/-- ANDI (R266). -/
def execAndi (d a : SReg) (imm : BitVec 14) (s : State) : Host.Outcome State Fault Refusal :=
  unary s d a (fun a => a &&& imm.signExtend 64)

/-- ORI (R266). -/
def execOri (d a : SReg) (imm : BitVec 14) (s : State) : Host.Outcome State Fault Refusal :=
  unary s d a (fun a => a ||| imm.signExtend 64)

/-- XORI (R266). -/
def execXori (d a : SReg) (imm : BitVec 14) (s : State) : Host.Outcome State Fault Refusal :=
  unary s d a (fun a => a ^^^ imm.signExtend 64)

/-- SLTI (R266). -/
def execSlti (d a : SReg) (imm : BitVec 14) (s : State) : Host.Outcome State Fault Refusal :=
  unary s d a (fun a => flag (a.slt (imm.signExtend 64)))

/-- SHLI (R267). -/
def execShli (d a : SReg) (n : Fin 64) (s : State) : Host.Outcome State Fault Refusal :=
  unary s d a fun a => a <<< n.val

/-- SHRI (R267). -/
def execShri (d a : SReg) (n : Fin 64) (s : State) : Host.Outcome State Fault Refusal :=
  unary s d a fun a => a >>> n.val

/-- SRAI (R267). -/
def execSrai (d a : SReg) (n : Fin 64) (s : State) : Host.Outcome State Fault Refusal :=
  unary s d a fun a => a.sshiftRight n.val

/-- RORI (R267). -/
def execRori (d a : SReg) (n : Fin 64) (s : State) : Host.Outcome State Fault Refusal :=
  unary s d a fun a => a.rotateRight n.val

/-- MOVI (R268). -/
def execMovi (d : SReg) (imm : BitVec 20) (s : State) : Host.Outcome State Fault Refusal :=
  alu s d [] fun _ => imm.signExtend 64

/-- MOVK (R268). -/
def execMovk (d : SReg) (imm : BitVec 20) (s : State) : Host.Outcome State Fault Refusal :=
  alu s d [d] fun w => (w.sget d <<< 20) ||| imm.zeroExtend 64

/-- ADR (R268). -/
def execAdr (d : SReg) (imm : BitVec 20) (s : State) : Host.Outcome State Fault Refusal :=
  alu s d [] fun w => w.pc + 4 * imm.signExtend 64

/-- A branch on two registers (R269): the target is relative to the branch's own address. -/
def branch (s : State) (a b : SReg) (off : BitVec 14) (c : Word → Word → Bool) : Host.Outcome State Fault Refusal :=
  controlOp s { reads := [a.val, b.val] } fun w _ =>
    .ok (s.setWarp s.cur
      { w with pc := if c (w.sget a) (w.sget b) then w.pc + 4 * off.signExtend 64 else w.pc + 4, park := .run })

/-- BEQ (R269). -/
def execBeq (a b : SReg) (off : BitVec 14) (s : State) : Host.Outcome State Fault Refusal :=
  branch s a b off fun a b => a == b

/-- BNE (R269). -/
def execBne (a b : SReg) (off : BitVec 14) (s : State) : Host.Outcome State Fault Refusal :=
  branch s a b off fun a b => a != b

/-- BLT (R269). -/
def execBlt (a b : SReg) (off : BitVec 14) (s : State) : Host.Outcome State Fault Refusal :=
  branch s a b off fun a b => a.slt b

/-- BGE (R269). -/
def execBge (a b : SReg) (off : BitVec 14) (s : State) : Host.Outcome State Fault Refusal :=
  branch s a b off fun a b => !a.slt b

/-- BLTN (R269). -/
def execBltn (a b : SReg) (off : BitVec 14) (s : State) : Host.Outcome State Fault Refusal :=
  branch s a b off fun a b => a.ult b

/-- BGEN (R269). -/
def execBgen (a b : SReg) (off : BitVec 14) (s : State) : Host.Outcome State Fault Refusal :=
  branch s a b off fun a b => !a.ult b

/-- JMP (R270). -/
def execJmp (off : BitVec 26) (s : State) : Host.Outcome State Fault Refusal :=
  controlOp s {} fun w _ => .ok (s.setWarp s.cur { w with pc := w.pc + 4 * off.signExtend 64, park := .run })

/-- CALL (R270): s63 receives the return address. -/
def execCall (off : BitVec 26) (s : State) : Host.Outcome State Fault Refusal :=
  controlOp s { writes := [63] } fun w _ =>
    .ok (s.setWarp s.cur { w.sset 63 (w.pc + 4) with pc := w.pc + 4 * off.signExtend 64, park := .run })

/-- A transfer to a register's value (R271): a target that is not 4-byte aligned raises ALIGNMENT. -/
def jumpTo (s : State) (a : SReg) (link : Bool) : Host.Outcome State Fault Refusal :=
  controlOp s { reads := [a.val], writes := if link then [63] else [] } fun w _ => do
    let t := w.sget a
    need (field t 1 0 == 0) (alignment t)
    let w := if link then w.sset 63 (w.pc + 4) else w
    return s.setWarp s.cur { w with pc := t, park := .run }

/-- JR (R271). -/
def execJr (a : SReg) (s : State) : Host.Outcome State Fault Refusal :=
  jumpTo s a false

/-- CALLR (R271): the target is read before s63 is written. -/
def execCallr (a : SReg) (s : State) : Host.Outcome State Fault Refusal :=
  jumpTo s a true

/-- RET (R271). -/
def execRet (s : State) : Host.Outcome State Fault Refusal :=
  jumpTo s 63 false

/-- NOP (R292). -/
def execNop (s : State) : Host.Outcome State Fault Refusal :=
  scalarOp s {} fun _ _ => .ok s

end Sys2Proof.Machine
end

