-- ==== Sys2Proof/Machine/Dispatch.lean ====
section
/-! DEFINITION. One arm per instruction: which meaning it has. -/

namespace Sys2Proof.Machine

/-- The meaning of an instruction. -/
def exec (i : Instr) (s : State) : Host.Outcome State Fault Refusal :=
  match i with
  | .add d a b => Sys2Proof.Machine.execAdd d a b s
  | .sub d a b => Sys2Proof.Machine.execSub d a b s
  | .mul d a b => Sys2Proof.Machine.execMul d a b s
  | .mulh d a b => Sys2Proof.Machine.execMulh d a b s
  | .mulhn d a b => Sys2Proof.Machine.execMulhn d a b s
  | .div d a b => Sys2Proof.Machine.execDiv d a b s
  | .divn d a b => Sys2Proof.Machine.execDivn d a b s
  | .rem d a b => Sys2Proof.Machine.execRem d a b s
  | .remn d a b => Sys2Proof.Machine.execRemn d a b s
  | .and d a b => Sys2Proof.Machine.execAnd d a b s
  | .or d a b => Sys2Proof.Machine.execOr d a b s
  | .xor d a b => Sys2Proof.Machine.execXor d a b s
  | .andn d a b => Sys2Proof.Machine.execAndn d a b s
  | .shl d a b => Sys2Proof.Machine.execShl d a b s
  | .shr d a b => Sys2Proof.Machine.execShr d a b s
  | .sra d a b => Sys2Proof.Machine.execSra d a b s
  | .ror d a b => Sys2Proof.Machine.execRor d a b s
  | .min d a b => Sys2Proof.Machine.execMin d a b s
  | .minn d a b => Sys2Proof.Machine.execMinn d a b s
  | .max d a b => Sys2Proof.Machine.execMax d a b s
  | .maxn d a b => Sys2Proof.Machine.execMaxn d a b s
  | .slt d a b => Sys2Proof.Machine.execSlt d a b s
  | .sltn d a b => Sys2Proof.Machine.execSltn d a b s
  | .seq d a b => Sys2Proof.Machine.execSeq d a b s
  | .clz d a => Sys2Proof.Machine.execClz d a s
  | .ctz d a => Sys2Proof.Machine.execCtz d a s
  | .popc d a => Sys2Proof.Machine.execPopc d a s
  | .bswap d a => Sys2Proof.Machine.execBswap d a s
  | .addi d a imm => Sys2Proof.Machine.execAddi d a imm s
  | .andi d a imm => Sys2Proof.Machine.execAndi d a imm s
  | .ori d a imm => Sys2Proof.Machine.execOri d a imm s
  | .xori d a imm => Sys2Proof.Machine.execXori d a imm s
  | .slti d a imm => Sys2Proof.Machine.execSlti d a imm s
  | .shli d a n => Sys2Proof.Machine.execShli d a n s
  | .shri d a n => Sys2Proof.Machine.execShri d a n s
  | .srai d a n => Sys2Proof.Machine.execSrai d a n s
  | .rori d a n => Sys2Proof.Machine.execRori d a n s
  | .movi d imm => Sys2Proof.Machine.execMovi d imm s
  | .movk d imm => Sys2Proof.Machine.execMovk d imm s
  | .adr d imm => Sys2Proof.Machine.execAdr d imm s
  | .beq a b off => Sys2Proof.Machine.execBeq a b off s
  | .bne a b off => Sys2Proof.Machine.execBne a b off s
  | .blt a b off => Sys2Proof.Machine.execBlt a b off s
  | .bge a b off => Sys2Proof.Machine.execBge a b off s
  | .bltn a b off => Sys2Proof.Machine.execBltn a b off s
  | .bgen a b off => Sys2Proof.Machine.execBgen a b off s
  | .jmp off => Sys2Proof.Machine.execJmp off s
  | .call off => Sys2Proof.Machine.execCall off s
  | .jr a => Sys2Proof.Machine.execJr a s
  | .callr a => Sys2Proof.Machine.execCallr a s
  | .ret => Sys2Proof.Machine.execRet s
  | .ld d a size off => Sys2Proof.Machine.execLd d a size off s
  | .st d a size off => Sys2Proof.Machine.execSt d a size off s
  | .lds d a size off => Sys2Proof.Machine.execLds d a size off s
  | .sts d a size off => Sys2Proof.Machine.execSts d a size off s
  | .ldOrd d a scope ord size => Sys2Proof.Machine.execLdOrd d a scope ord size s
  | .stOrd d a scope ord size => Sys2Proof.Machine.execStOrd d a scope ord size s
  | .ldOrdSp d a scope ord size => Sys2Proof.Machine.execLdOrdSp d a scope ord size s
  | .stOrdSp d a scope ord size => Sys2Proof.Machine.execStOrdSp d a scope ord size s
  | .atomAdd d a scope ord size => Sys2Proof.Machine.execAtomAdd d a scope ord size s
  | .atomSub d a scope ord size => Sys2Proof.Machine.execAtomSub d a scope ord size s
  | .atomMin d a scope ord size => Sys2Proof.Machine.execAtomMin d a scope ord size s
  | .atomMinn d a scope ord size => Sys2Proof.Machine.execAtomMinn d a scope ord size s
  | .atomMax d a scope ord size => Sys2Proof.Machine.execAtomMax d a scope ord size s
  | .atomMaxn d a scope ord size => Sys2Proof.Machine.execAtomMaxn d a scope ord size s
  | .atomAnd d a scope ord size => Sys2Proof.Machine.execAtomAnd d a scope ord size s
  | .atomOr d a scope ord size => Sys2Proof.Machine.execAtomOr d a scope ord size s
  | .atomXor d a scope ord size => Sys2Proof.Machine.execAtomXor d a scope ord size s
  | .atomXchg d a scope ord size => Sys2Proof.Machine.execAtomXchg d a scope ord size s
  | .atomCas d a scope ord size => Sys2Proof.Machine.execAtomCas d a scope ord size s
  | .atomAddSp d a scope ord size => Sys2Proof.Machine.execAtomAddSp d a scope ord size s
  | .atomSubSp d a scope ord size => Sys2Proof.Machine.execAtomSubSp d a scope ord size s
  | .atomMinSp d a scope ord size => Sys2Proof.Machine.execAtomMinSp d a scope ord size s
  | .atomMinnSp d a scope ord size => Sys2Proof.Machine.execAtomMinnSp d a scope ord size s
  | .atomMaxSp d a scope ord size => Sys2Proof.Machine.execAtomMaxSp d a scope ord size s
  | .atomMaxnSp d a scope ord size => Sys2Proof.Machine.execAtomMaxnSp d a scope ord size s
  | .atomAndSp d a scope ord size => Sys2Proof.Machine.execAtomAndSp d a scope ord size s
  | .atomOrSp d a scope ord size => Sys2Proof.Machine.execAtomOrSp d a scope ord size s
  | .atomXorSp d a scope ord size => Sys2Proof.Machine.execAtomXorSp d a scope ord size s
  | .atomXchgSp d a scope ord size => Sys2Proof.Machine.execAtomXchgSp d a scope ord size s
  | .atomCasSp d a scope ord size => Sys2Proof.Machine.execAtomCasSp d a scope ord size s
  | .fence scope ord => Sys2Proof.Machine.execFence scope ord s
  | .rel d a scope => Sys2Proof.Machine.execRel d a scope s
  | .relAdd d a scope => Sys2Proof.Machine.execRelAdd d a scope s
  | .acq d a scope => Sys2Proof.Machine.execAcq d a scope s
  | .relSp d a scope => Sys2Proof.Machine.execRelSp d a scope s
  | .relAddSp d a scope => Sys2Proof.Machine.execRelAddSp d a scope s
  | .acqSp d a scope => Sys2Proof.Machine.execAcqSp d a scope s
  | .barArr a scope => Sys2Proof.Machine.execBarArr a scope s
  | .barWait a scope => Sys2Proof.Machine.execBarWait a scope s
  | .barSync a scope => Sys2Proof.Machine.execBarSync a scope s
  | .monArm a => Sys2Proof.Machine.execMonArm a s
  | .monArmSp a => Sys2Proof.Machine.execMonArmSp a s
  | .monWait a => Sys2Proof.Machine.execMonWait a s
  | .quiesceWait scope => Sys2Proof.Machine.execQuiesceWait scope s
  | .laneSync scope => Sys2Proof.Machine.execLaneSync scope s
  | .rld d a k size => Sys2Proof.Machine.execRld d a k size s
  | .rst d a k size => Sys2Proof.Machine.execRst d a k size s
  | .rstRelSys d a k size => Sys2Proof.Machine.execRstRelSys d a k size s
  | .ratomAdd d a k size => Sys2Proof.Machine.execRatomAdd d a k size s
  | .ratomAnd d a k size => Sys2Proof.Machine.execRatomAnd d a k size s
  | .ratomOr d a k size => Sys2Proof.Machine.execRatomOr d a k size s
  | .ratomXor d a k size => Sys2Proof.Machine.execRatomXor d a k size s
  | .ratomXchg d a k size => Sys2Proof.Machine.execRatomXchg d a k size s
  | .ratomCas d a k size => Sys2Proof.Machine.execRatomCas d a k size s
  | .capLd d a => Sys2Proof.Machine.execCapLd d a s
  | .capSt a b => Sys2Proof.Machine.execCapSt a b s
  | .capMint d a => Sys2Proof.Machine.execCapMint d a s
  | .capBound d a b => Sys2Proof.Machine.execCapBound d a b s
  | .capPerm d a b => Sys2Proof.Machine.execCapPerm d a b s
  | .capRead d a n => Sys2Proof.Machine.execCapRead d a n s
  | .capMov d a => Sys2Proof.Machine.execCapMov d a s
  | .xferPost a q => Sys2Proof.Machine.execXferPost a q s
  | .xferCond a q => Sys2Proof.Machine.execXferCond a q s
  | .xferBulk a q => Sys2Proof.Machine.execXferBulk a q s
  | .gatherPost a => Sys2Proof.Machine.execGatherPost a s
  | .qfence m => Sys2Proof.Machine.execQfence m s
  | .lwInit a b => Sys2Proof.Machine.execLwInit a b s
  | .lwWait a b => Sys2Proof.Machine.execLwWait a b s
  | .lwRead d a => Sys2Proof.Machine.execLwRead d a s
  | .spMap d a b => Sys2Proof.Machine.execSpMap d a b s
  | .spUnmap a => Sys2Proof.Machine.execSpUnmap a s
  | .amov d a b => Sys2Proof.Machine.execAmov d a b s
  | .abase d a => Sys2Proof.Machine.execAbase d a s
  | .astride d a => Sys2Proof.Machine.execAstride d a s
  | .aadd d a => Sys2Proof.Machine.execAadd d a s
  | .aread d a => Sys2Proof.Machine.execAread d a s
  | .asread d a => Sys2Proof.Machine.execAsread d a s
  | .mfcr d crn => Sys2Proof.Machine.execMfcr d crn s
  | .mtcr d crn => Sys2Proof.Machine.execMtcr d crn s
  | .laneRun a loff => Sys2Proof.Machine.execLaneRun a loff s
  | .nop => Sys2Proof.Machine.execNop s
  | .exit => Sys2Proof.Machine.execExit s
  | .regGrow n => Sys2Proof.Machine.execRegGrow n s
  | .regShrink => Sys2Proof.Machine.execRegShrink s
  | .stkChk a => Sys2Proof.Machine.execStkChk a s
  | .ipf a => Sys2Proof.Machine.execIpf a s
  | .pfd a => Sys2Proof.Machine.execPfd a s
  | .trap n => Sys2Proof.Machine.execTrap n s
  | .trapRet => Sys2Proof.Machine.execTrapRet s
  | .launch a b => Sys2Proof.Machine.execLaunch a b s
  | .sysMbox d a => Sys2Proof.Machine.execSysMbox d a s
  | .sysWbinv => Sys2Proof.Machine.execSysWbinv s
  | .ttSet d a b => Sys2Proof.Machine.execTtSet d a b s
  | .ttClr a => Sys2Proof.Machine.execTtClr a s
  | .ttRead a b => Sys2Proof.Machine.execTtRead a b s
  | .mxLdt d a b => Sys2Proof.Machine.execMxLdt d a b s
  | .mxLds d a => Sys2Proof.Machine.execMxLds d a s
  | .mxZeroT d => Sys2Proof.Machine.execMxZeroT d s
  | .mxZeroC d => Sys2Proof.Machine.execMxZeroC d s
  | .mxMma d a b => Sys2Proof.Machine.execMxMma d a b s
  | .mxMmag d a b => Sys2Proof.Machine.execMxMmag d a b s
  | .mxGang g n m => Sys2Proof.Machine.execMxGang g n m s
  | .mxDrain d a b => Sys2Proof.Machine.execMxDrain d a b s
  | .mxMode d n => Sys2Proof.Machine.execMxMode d n s
  | .witSeed a => Sys2Proof.Machine.execWitSeed a s
  | .witEmit a => Sys2Proof.Machine.execWitEmit a s
  | .iadd f => Sys2Proof.Machine.execIadd f s
  | .isub f => Sys2Proof.Machine.execIsub f s
  | .imul f => Sys2Proof.Machine.execImul f s
  | .imulh f => Sys2Proof.Machine.execImulh f s
  | .imad f => Sys2Proof.Machine.execImad f s
  | .idiv f => Sys2Proof.Machine.execIdiv f s
  | .irem f => Sys2Proof.Machine.execIrem f s
  | .imin f => Sys2Proof.Machine.execImin f s
  | .imax f => Sys2Proof.Machine.execImax f s
  | .iabs f => Sys2Proof.Machine.execIabs f s
  | .ineg f => Sys2Proof.Machine.execIneg f s
  | .laneAnd f => Sys2Proof.Machine.execLaneAnd f s
  | .laneOr f => Sys2Proof.Machine.execLaneOr f s
  | .laneXor f => Sys2Proof.Machine.execLaneXor f s
  | .not f => Sys2Proof.Machine.execNot f s
  | .laneShl f => Sys2Proof.Machine.execLaneShl f s
  | .laneShr f => Sys2Proof.Machine.execLaneShr f s
  | .rol f => Sys2Proof.Machine.execRol f s
  | .lanePopc f => Sys2Proof.Machine.execLanePopc f s
  | .laneClz f => Sys2Proof.Machine.execLaneClz f s
  | .brev f => Sys2Proof.Machine.execBrev f s
  | .bfx f => Sys2Proof.Machine.execBfx f s
  | .bfi f => Sys2Proof.Machine.execBfi f s
  | .mov f => Sys2Proof.Machine.execMov f s
  | .isetEq f => Sys2Proof.Machine.execIsetEq f s
  | .isetNe f => Sys2Proof.Machine.execIsetNe f s
  | .isetLt f => Sys2Proof.Machine.execIsetLt f s
  | .isetLe f => Sys2Proof.Machine.execIsetLe f s
  | .isetGt f => Sys2Proof.Machine.execIsetGt f s
  | .isetGe f => Sys2Proof.Machine.execIsetGe f s
  | .fadd f => Sys2Proof.Machine.execFadd f s
  | .fsub f => Sys2Proof.Machine.execFsub f s
  | .fmul f => Sys2Proof.Machine.execFmul f s
  | .fma f => Sys2Proof.Machine.execFma f s
  | .fdiv f => Sys2Proof.Machine.execFdiv f s
  | .fsqrt f => Sys2Proof.Machine.execFsqrt f s
  | .fmin f => Sys2Proof.Machine.execFmin f s
  | .fmax f => Sys2Proof.Machine.execFmax f s
  | .fabs f => Sys2Proof.Machine.execFabs f s
  | .fneg f => Sys2Proof.Machine.execFneg f s
  | .fsetEq f => Sys2Proof.Machine.execFsetEq f s
  | .fsetNe f => Sys2Proof.Machine.execFsetNe f s
  | .fsetLt f => Sys2Proof.Machine.execFsetLt f s
  | .fsetLe f => Sys2Proof.Machine.execFsetLe f s
  | .fsetUn f => Sys2Proof.Machine.execFsetUn f s
  | .frcp f => Sys2Proof.Machine.execFrcp f s
  | .frsq f => Sys2Proof.Machine.execFrsq f s
  | .fexp2 f => Sys2Proof.Machine.execFexp2 f s
  | .flog2 f => Sys2Proof.Machine.execFlog2 f s
  | .fsin f => Sys2Proof.Machine.execFsin f s
  | .fcos f => Sys2Proof.Machine.execFcos f s
  | .ftanh f => Sys2Proof.Machine.execFtanh f s
  | .cvt f => Sys2Proof.Machine.execCvt f s
  | .frnd f => Sys2Proof.Machine.execFrnd f s
  | .pand f => Sys2Proof.Machine.execPand f s
  | .por f => Sys2Proof.Machine.execPor f s
  | .pxor f => Sys2Proof.Machine.execPxor f s
  | .pnot f => Sys2Proof.Machine.execPnot f s
  | .mIf f => Sys2Proof.Machine.execMIf f s
  | .mElse f => Sys2Proof.Machine.execMElse f s
  | .mEndif f => Sys2Proof.Machine.execMEndif f s
  | .mLoop f => Sys2Proof.Machine.execMLoop f s
  | .mBrk f => Sys2Proof.Machine.execMBrk f s
  | .mNext f => Sys2Proof.Machine.execMNext f s
  | .lNop f => Sys2Proof.Machine.execLNop f s
  | .lEnd f => Sys2Proof.Machine.execLEnd f s
  | .lxchSel f => Sys2Proof.Machine.execLxchSel f s
  | .lxchLag f => Sys2Proof.Machine.execLxchLag f s
  | .lxchLead f => Sys2Proof.Machine.execLxchLead f s
  | .lxchMir f => Sys2Proof.Machine.execLxchMir f s
  | .ballot f => Sys2Proof.Machine.execBallot f s
  | .voteAny f => Sys2Proof.Machine.execVoteAny f s
  | .voteAll f => Sys2Proof.Machine.execVoteAll f s
  | .reduxAdd f => Sys2Proof.Machine.execReduxAdd f s
  | .reduxMin f => Sys2Proof.Machine.execReduxMin f s
  | .reduxMax f => Sys2Proof.Machine.execReduxMax f s
  | .reduxAnd f => Sys2Proof.Machine.execReduxAnd f s
  | .reduxOr f => Sys2Proof.Machine.execReduxOr f s
  | .reduxXor f => Sys2Proof.Machine.execReduxXor f s
  | .scanAdd f => Sys2Proof.Machine.execScanAdd f s
  | .scanAddx f => Sys2Proof.Machine.execScanAddx f s
  | .scanMax f => Sys2Proof.Machine.execScanMax f s
  | .blut f => Sys2Proof.Machine.execBlut f s
  | .bpick f => Sys2Proof.Machine.execBpick f s
  | .lLd f => Sys2Proof.Machine.execLLd f s
  | .lSt f => Sys2Proof.Machine.execLSt f s
  | .lLds f => Sys2Proof.Machine.execLLds f s
  | .lSts f => Sys2Proof.Machine.execLSts f s
  | .lLdt f => Sys2Proof.Machine.execLLdt f s
  | .lStt f => Sys2Proof.Machine.execLStt f s
  | .lAtomAdd f => Sys2Proof.Machine.execLAtomAdd f s
  | .lAtomMin f => Sys2Proof.Machine.execLAtomMin f s
  | .lAtomMax f => Sys2Proof.Machine.execLAtomMax f s
  | .lAtomAnd f => Sys2Proof.Machine.execLAtomAnd f s
  | .lAtomOr f => Sys2Proof.Machine.execLAtomOr f s
  | .lAtomXor f => Sys2Proof.Machine.execLAtomXor f s
  | .lAtomXchg f => Sys2Proof.Machine.execLAtomXchg f s
  | .lAtomCas f => Sys2Proof.Machine.execLAtomCas f s
  | .lSatomAdd f => Sys2Proof.Machine.execLSatomAdd f s
  | .lSatomMin f => Sys2Proof.Machine.execLSatomMin f s
  | .lSatomMax f => Sys2Proof.Machine.execLSatomMax f s
  | .lSatomAnd f => Sys2Proof.Machine.execLSatomAnd f s
  | .lSatomOr f => Sys2Proof.Machine.execLSatomOr f s
  | .lSatomXor f => Sys2Proof.Machine.execLSatomXor f s
  | .lSatomXchg f => Sys2Proof.Machine.execLSatomXchg f s
  | .lSatomCas f => Sys2Proof.Machine.execLSatomCas f s
  | .lRld f => Sys2Proof.Machine.execLRld f s
  | .lRst f => Sys2Proof.Machine.execLRst f s
  | .lRatomAdd f => Sys2Proof.Machine.execLRatomAdd f s
  | .lRatomCas f => Sys2Proof.Machine.execLRatomCas f s
  | .modmul f => Sys2Proof.Machine.execModmul f s
  | .modadd f => Sys2Proof.Machine.execModadd f s
  | .modsub f => Sys2Proof.Machine.execModsub f s
  | .modmad f => Sys2Proof.Machine.execModmad f s
  | .nttBfly f => Sys2Proof.Machine.execNttBfly f s
  | .laneGrant core => Sys2Proof.Machine.execLaneGrant core s
  | .regGrowGrant core => Sys2Proof.Machine.execRegGrowGrant core s
  | .monitorWake w => Sys2Proof.Machine.execMonitorWake w s
  | .monTimeout w => Sys2Proof.Machine.execMonTimeout w s
  | .quiesceIdle w => Sys2Proof.Machine.execQuiesceIdle w s
  | .pageWalk die src ctx hold kind tensor va => Sys2Proof.Machine.execPageWalk die src ctx hold kind tensor va s
  | .replay part => Sys2Proof.Machine.execReplay part s
  | .translationInvalidation die line => Sys2Proof.Machine.execTranslationInvalidation die line s
  | .trackedWritePerform line => Sys2Proof.Machine.execTrackedWritePerform line s
  | .homeRead cluster line victim => Sys2Proof.Machine.execHomeRead cluster line victim s
  | .homeOwnership cluster line victim => Sys2Proof.Machine.execHomeOwnership cluster line victim s
  | .cleanEvictionNotice cluster line => Sys2Proof.Machine.execCleanEvictionNotice cluster line s
  | .ownerWriteback cluster line => Sys2Proof.Machine.execOwnerWriteback cluster line s
  | .invalidation cluster line => Sys2Proof.Machine.execInvalidation cluster line s
  | .grainRegister core pa => Sys2Proof.Machine.execGrainRegister core pa s
  | .grainClear core grain => Sys2Proof.Machine.execGrainClear core grain s
  | .forcedClose core => Sys2Proof.Machine.execForcedClose core s
  | .copyQueueOperation core q => Sys2Proof.Machine.execCopyQueueOperation core q s
  | .gatherOperation core => Sys2Proof.Machine.execGatherOperation core s
  | .mxQueueEntry core => Sys2Proof.Machine.execMxQueueEntry core s
  | .writeCombiningDrain core => Sys2Proof.Machine.execWriteCombiningDrain core s
  | .remoteResponse id reason detail data => Sys2Proof.Machine.execRemoteResponse id reason detail data s
  | .lineWriteAck id code => Sys2Proof.Machine.execLineWriteAck id code s
  | .inboundRemoteAccess id peer srcPart ctx lease va op size x y => Sys2Proof.Machine.execInboundRemoteAccess id peer srcPart ctx lease va op size x y s
  | .inboundLineWrite id peer srcPart ctx lease va data mask release => Sys2Proof.Machine.execInboundLineWrite id peer srcPart ctx lease va data mask release s
  | .remoteTimeout id => Sys2Proof.Machine.execRemoteTimeout id s
  | .remoteFaultTimeout id peer => Sys2Proof.Machine.execRemoteFaultTimeout id peer s
  | .done part => Sys2Proof.Machine.execDone part s
  | .storeFaultTimeout part seq => Sys2Proof.Machine.execStoreFaultTimeout part seq s
  | .storeFaultLogFullTimeout id peer => Sys2Proof.Machine.execStoreFaultLogFullTimeout id peer s
  | .bulkRequest send peer srcPart ctx lease base dest total prio flag rxLand len data poison => Sys2Proof.Machine.execBulkRequest send peer srcPart ctx lease base dest total prio flag rxLand len data poison s
  | .bulkRequestRetry send => Sys2Proof.Machine.execBulkRequestRetry send s
  | .tokenGrant => Sys2Proof.Machine.execTokenGrant s
  | .tokenArrival send req off n old => Sys2Proof.Machine.execTokenArrival send req off n old s
  | .tokenDataLand req off n data poison => Sys2Proof.Machine.execTokenDataLand req off n data poison s
  | .tokenExpiry req off => Sys2Proof.Machine.execTokenExpiry req off s
  | .orphan req => Sys2Proof.Machine.execOrphan req s
  | .agePromotion req => Sys2Proof.Machine.execAgePromotion req s
  | .park req => Sys2Proof.Machine.execPark req s
  | .resume req => Sys2Proof.Machine.execResume req s
  | .finalAcknowledgement send => Sys2Proof.Machine.execFinalAcknowledgement send s
  | .takeLaunchRecord part level => Sys2Proof.Machine.execTakeLaunchRecord part level s
  | .launchOpen num => Sys2Proof.Machine.execLaunchOpen num s
  | .workRecordWrite num => Sys2Proof.Machine.execWorkRecordWrite num s
  | .placeWorkgroup core => Sys2Proof.Machine.execPlaceWorkgroup core s
  | .launchComplete num => Sys2Proof.Machine.execLaunchComplete num s
  | .preemption r finish => Sys2Proof.Machine.execPreemption r finish s
  | .resumeWorkgroup core => Sys2Proof.Machine.execResumeWorkgroup core s
  | .witnessPlace id course record header => Sys2Proof.Machine.execWitnessPlace id course record header s
  | .witnessTest id values => Sys2Proof.Machine.execWitnessTest id values s
  | .reexecute id => Sys2Proof.Machine.execReexecute id s
  | .seedEpoch => Sys2Proof.Machine.execSeedEpoch s
  | .deviceTick => Sys2Proof.Machine.execDeviceTick s
  | .l1AgeInvalidate core line => Sys2Proof.Machine.execL1AgeInvalidate core line s
  | .hourlyCounterClear => Sys2Proof.Machine.execHourlyCounterClear s
  | .failureWindowExpiry => Sys2Proof.Machine.execFailureWindowExpiry s
  | .scrub sec symbols pin => Sys2Proof.Machine.execScrub sec symbols pin s
  | .reencodeRow bank last => Sys2Proof.Machine.execReencodeRow bank last s
  | .migrateLine move => Sys2Proof.Machine.execMigrateLine move s
  | .zeroing => Sys2Proof.Machine.execZeroing s
  | .pipelineError w => Sys2Proof.Machine.execPipelineError w s
  | .pipelineRetry w passed => Sys2Proof.Machine.execPipelineRetry w passed s
  | .coreUe core hit => Sys2Proof.Machine.execCoreUe core hit s
  | .powerGate core => Sys2Proof.Machine.execPowerGate core s
  | .coreWake core => Sys2Proof.Machine.execCoreWake core s
  | .selfTestDone core pass => Sys2Proof.Machine.execSelfTestDone core pass s
  | .linkWake a b => Sys2Proof.Machine.execLinkWake a b s
  | .linkTrained a b => Sys2Proof.Machine.execLinkTrained a b s
  | .linkWakeTimeout a b => Sys2Proof.Machine.execLinkWakeTimeout a b s
  | .linkFenceTimeout a b => Sys2Proof.Machine.execLinkFenceTimeout a b s
  | .interconnectUe course lines => Sys2Proof.Machine.execInterconnectUe course lines s
  | .courseDrainDone course => Sys2Proof.Machine.execCourseDrainDone course s
  | .courseDrainDeadline course lost => Sys2Proof.Machine.execCourseDrainDeadline course lost s
  | .courseRejoin course => Sys2Proof.Machine.execCourseRejoin course s
  | .courseFailed course => Sys2Proof.Machine.execCourseFailed course s
  | .throttle lower => Sys2Proof.Machine.execThrottle lower s
  | .overtemp => Sys2Proof.Machine.execOvertemp s
  | .powerUp ports => Sys2Proof.Machine.execPowerUp ports s
  | .packageReset => Sys2Proof.Machine.execPackageReset s
  | .fwGo length => Sys2Proof.Machine.execFwGo length s
  | .authentication => Sys2Proof.Machine.execAuthentication s
  | .bringup banks cores => Sys2Proof.Machine.execBringup banks cores s
  | .hostMemRead place n stream => Sys2Proof.Machine.execHostMemRead place n stream s
  | .hostMemWrite bar2 pa n data stream => Sys2Proof.Machine.execHostMemWrite bar2 pa n data stream s
  | .spdmRequest function op => Sys2Proof.Machine.execSpdmRequest function op s
  | .tdispRequest part op => Sys2Proof.Machine.execTdispRequest part op s
  | .stopInterface part => Sys2Proof.Machine.execStopInterface part s
  | .registerWrite off value block => Sys2Proof.Machine.execRegisterWrite off value block s
  | .partSet n => Sys2Proof.Machine.execPartSet n s
  | .ctxSet n => Sys2Proof.Machine.execCtxSet n s
  | .ctxEnd n => Sys2Proof.Machine.execCtxEnd n s
  | .frameAssign n => Sys2Proof.Machine.execFrameAssign n s
  | .kilnAssign n => Sys2Proof.Machine.execKilnAssign n s
  | .kilnFree n => Sys2Proof.Machine.execKilnFree n s
  | .queueSet n => Sys2Proof.Machine.execQueueSet n s
  | .peerSet n => Sys2Proof.Machine.execPeerSet n s
  | .launchEnd n => Sys2Proof.Machine.execLaunchEnd n s
  | .checkpoint n => Sys2Proof.Machine.execCheckpoint n s
  | .checkpointComplete => Sys2Proof.Machine.execCheckpointComplete s
  | .restore n => Sys2Proof.Machine.execRestore n s
  | .restoreComplete => Sys2Proof.Machine.execRestoreComplete s
  | .dieReset n => Sys2Proof.Machine.execDieReset n s
  | .certify n => Sys2Proof.Machine.execCertify n s
  | .faultExport n => Sys2Proof.Machine.execFaultExport n s
  | .faultImport n image => Sys2Proof.Machine.execFaultImport n image s
  | .relSet n => Sys2Proof.Machine.execRelSet n s
  | .certSet n => Sys2Proof.Machine.execCertSet n s
  | .faultSet n => Sys2Proof.Machine.execFaultSet n s
  | .farSet n => Sys2Proof.Machine.execFarSet n s
  | .powerSet n => Sys2Proof.Machine.execPowerSet n s
  | .linkLowPowerEntry a b => Sys2Proof.Machine.execLinkLowPowerEntry a b s
  | .tokenAcknowledgement send req off n code => Sys2Proof.Machine.execTokenAcknowledgement send req off n code s
  | .finalResponse send left orphaned => Sys2Proof.Machine.execFinalResponse send left orphaned s
  | .hostWindowResponse id data => Sys2Proof.Machine.execHostWindowResponse id data s
  | .bisnpResponse line => Sys2Proof.Machine.execBisnpResponse line s

end Sys2Proof.Machine
end

