-- ==== Sys2Proof/Machine/Step.lean ====
section
/-! DEFINITION. One step of the package: the agenda's next item (entry 1), and a state whose next step runs a given
instruction (entry 11). -/

namespace Sys2Proof.Machine

/-- One step (entry 1): the agenda's head, or the scalar stream of the warp in focus when the agenda is empty. -/
noncomputable def step (s : State) : Host.Outcome State Fault Refusal :=
  if !awake s (s.agenda.headD (.scalar s.cur)) then .next { s with agenda := s.agenda.tail }
  else match s.agenda with
  | [] => stepScalar s s.cur exec
  | .scalar w :: r => stepScalar { s with agenda := r } w exec
  | .lane w :: r => stepLane { s with agenda := r } w exec
  | .event i :: r =>
    if isEvent i then
      match exec i { s with agenda := r } with
      | .next t => .next (t.keepDeferred i)
      | o => o
    else .fault .notAnEvent

/-- The state whose next step fetches and runs the instruction with bits `w`: one system context with one page of code
that its page tables and owner entries map, one resident workgroup of one warp, and, for a lane instruction, a lane
block that stands at it (entry 11). -/
def State.withFetchWord (s : State) (nbits w : Nat) : State := placeWord s nbits w

end Sys2Proof.Machine
end

