-- ==== Sys2Proof/WellFormed.lean ====
section
/-! DEFINITION. Which instructions are well formed: the encoding rules of R252 for both streams. -/

namespace Sys2Proof

/-- A scalar instruction whose fields R252 accepts, or a lane instruction R251 and R252 accept. -/
def Instr.wf (i : Instr) : Bool :=
  scalarLegal i && match laneParts i with
    | some (op, f) => laneLegal op f
    | none => true

end Sys2Proof
end

