-- ==== Sys2Proof/Safety.lean ====
section
/-! DEFINITION. What counts as a safe run, and the terms in which the statements say what an instruction does: when it
issues, what it writes and where it goes on. -/

namespace Sys2Proof.Safety
open Sys2Proof.Machine

/-- The step goes on to a next state. -/
def Runs (s : State) : Prop := ∃ t, step s = .next t

end Sys2Proof.Safety

namespace Sys2Proof.Claims
open Sys2Proof.Machine

/-- A live warp `w` is in focus, and no queued block holds back a scalar instruction that uses the registers `u` (R210). -/
def Issues (s : State) (w : Warp) (u : RegUse) : Prop :=
  s.warp? s.cur = some w ∧ w.live = true ∧ s.blocked w u = false

/-- The wait of a scalar instruction with a scope is over (R210, R340): it acts on `p`, which its blocks' accesses have been
performed in towards the scope `k`, and whose warp in focus is `v`. -/
def Drained (s : State) (w : Warp) (k : Nat) (p : State) (v : Warp) : Prop :=
  s.drained w k = .ok p ∧ p.warp? p.cur = some v

/-- A scalar instruction with the scope `k` has nothing to wait for (R210, R340). -/
def Quiet (s : State) (w : Warp) (k : Nat) : Prop := s.drained w k = .ok s

/-- Nothing is under way in the memory system: no cache holds a line, no home holds a write or waits, no die has kept a
translation, no link is down and no course is in reset. -/
def Calm (s : State) : Prop :=
  s.mem.l1 = [] ∧ s.mem.slice = [] ∧ s.mem.dir = [] ∧ s.mem.maps = [] ∧ s.mem.snoop = [] ∧ s.mem.snoopWait = [] ∧
    s.xlat.heldWrites = [] ∧ s.xlat.tdir = [] ∧ s.rel.links = [] ∧ s.rel.courseReg = []

/-- The instruction takes the trap `e` as R234 and R235 have it, or whatever else `e` stops it with; the scalar stream
stands at the instruction. -/
def Stops (i : Instr) (s : State) (w : Warp) (e : Stop) : Prop :=
  exec i s = .next (s.stopped s.cur w.pc e)

/-- The state in which the warp in focus is `w` past its scalar instruction. -/
def past (s : State) (w : Warp) : State := s.setWarp s.cur { w with pc := w.pc + 4, park := .run }

/-- The instruction writes `x` to `d` and goes on at the next one; a write of s62 below the stack limit is refused with
STACK_LIMIT (R276). -/
def Writes (i : Instr) (s : State) (w : Warp) (d : SReg) (x : Word) : Prop :=
  exec i s = .next (if d = 62 ∧ x.toNat < w.limit then s.trap s.cur { cause := 0x04 } w.pc
    else past s { w with s := Tab.set 0 w.s d.val x })

/-- The warp in focus goes on at `pc`. -/
def GoesTo (i : Instr) (s : State) (w : Warp) (pc : Word) : Prop :=
  exec i s = .next (s.setWarp s.cur { w with pc := pc, park := .run })

/-- A live warp `w` is in focus whose head block `b` stands at the lane instruction with opcode `op` and fields `f`, before
its first thread, with no checker mismatch under way (R461); the encoding is legal (R252), its registers are held (R220),
and it is no sweep. -/
def AtLane (s : State) (w : Warp) (b : Block) (op : Nat) (f : LaneFields) : Prop :=
  s.warp? s.cur = some w ∧ w.live = true ∧ w.blocks.head? = some b ∧ laneLegal op f = true ∧
    maxReg op f < 64 * (1 + w.held) ∧ b.thread = 0 ∧ f.sweep = false ∧ b.stopAt = none

/-- The state in which the warp in focus is `w` with its head block `b` past its instruction. -/
def lanePast (s : State) (w : Warp) (b : Block) : State :=
  s.setWarp s.cur (w.setHead (some { b with lpc := b.lpc + 12, thread := 0, seg := 0, running := none, started := true
                                            stage := .fresh, owes := false, fault := none, stopAt := none }))

/-- The instruction writes `val t` to the destination of each participating thread `t` in ascending order, with the flags
`fl t`, and goes on; nothing else changes. With a flag whose TRAP_EN bit is set it does not come to this (R201). -/
def LaneWrites (i : Instr) (s : State) (w : Warp) (b : Block) (f : LaneFields) (val fl : Nat → Nat) :
    Prop :=
  (∀ t ∈ threads (participants w b f), w.trapsOn (fl t) = false) →
    exec i s = .next (lanePast s
      ((threads (participants w b f)).foldl (fun v t => (v.setFlags (fl t)).putDest f t (val t)) w) b)

/-- The instruction raises ARITHMETIC at the first participating thread `i` whose flags meet TRAP_EN: the threads before it have
their results and flags, its own flags are set and its result is not written (R201). -/
def LaneTraps (ins : Instr) (s : State) (w : Warp) (b : Block) (f : LaneFields) (val fl : Nat → Nat) : Prop :=
  ∀ i ∈ threads (participants w b f), w.trapsOn (fl i) = true →
    (∀ t ∈ threads (participants w b f), t < i → w.trapsOn (fl t) = false) →
    let v := ((threads (participants w b f)).filter fun t => decide (t < i)).foldl
      (fun v t => (v.setFlags (fl t)).putDest f t (val t)) w
    exec ins s = .next ((s.setWarp s.cur ((v.setFlags (fl i)).setHead (some { b with thread := i, stage := .fresh }))).trap s.cur
      { cause := 0x02, detail := fl i % 32, thread := some i } w.pc)

/-- Operand A of a thread, at the instruction's type. -/
def opA (w : Warp) (f : LaneFields) (t : Nat) : Nat := w.operand f f.ty t f.opa
/-- Operand B of a thread. -/
def opB (w : Warp) (f : LaneFields) (t : Nat) : Nat := w.operand f f.ty t f.opb
/-- Operand C of a thread. -/
def opC (w : Warp) (f : LaneFields) (t : Nat) : Nat := w.operand f f.ty t f.opc

/-- The warp in focus as earlier threads have left it. -/
def now (u : State) (w : Warp) : Warp := (u.warp? u.cur).getD w

/-- Threads one after another, with no checker mismatch at any (R298, R461). -/
def eachThread (l : List Nat) (k : State → Nat → Except Stop State) (r : State) : Except Stop State :=
  l.foldlM (fun u i => do
    need (!u.mismatch i) (.park .pipeline u)
    k u i) r

/-- A lane instruction performs its threads `l` in ascending order, each as `k` says, from a state that its release part
`start` leaves, and goes on after `finish`; a thread that stops, stops it there with the earlier ones performed (R298, R300). -/
def LaneEach (ins : Instr) (s : State) (l : List Nat) (start : State → Prop) (finish : State → State)
    (k : State → Nat → Except Stop State) : Prop :=
  ∀ r u, start r →
    (eachThread l k r = .ok u → exec ins s = .next (finish u).laneAdvance) ∧
    ∀ j ∈ l, ∀ e, eachThread (l.filter fun i => decide (i < j)) k r = .ok u → u.mismatch j = false → k u j = .error e →
      exec ins s = .next (u.laneStop j e)

/-- The state from which a lane access's first thread goes: after its release part at a scope, where it has one (R329). -/
def laneStart (s : State) (g : Workgroup) (rel : Bool) (scope : Nat) (r : State) : Prop :=
  if rel then ∃ t, s.release s.cur g.core scope = .ok t ∧ r = t.modHead fun b => { b with seg := 1 } else r = s

/-- The global address of a thread (R328). -/
def laneVa (f : LaneFields) (w : Warp) (j : Nat) : Word :=
  BitVec.ofNat 64 (w.operand f .n64 j f.opa) + BitVec.ofInt 64 (signed 29 f.w2.toNat)

/-- An address that is a multiple of the type's bytes, or ALIGNMENT (R328). -/
def laneAligned (f : LaneFields) (va : Word) : Except Stop Unit :=
  need (va.toNat % (f.ty.width / 8) == 0) (.trap { cause := 0x11, addr := va })

/-- A thread's load (R327-R330). -/
def laneLoad (f : LaneFields) (g : Workgroup) (w : Warp) (u : State) (j : Nat) : Except Stop State := do
  let va := laneVa f (now u w) j
  laneAligned f va
  let (x, v) ← u.gRead u.cur (some j) g (memOrder f != .plain) va (f.ty.width / 8)
  return v.modWarp v.cur fun w => w.putDest f j x

/-- A thread's store (R327-R330). -/
def laneStore (f : LaneFields) (g : Workgroup) (w : Warp) (u : State) (j : Nat) : Except Stop State := do
  let va := laneVa f (now u w) j
  laneAligned f va
  u.gWrite u.cur (some j) g (memOrder f != .plain) va (f.ty.width / 8) ((now u w).operand f f.ty j f.opb)

/-- A thread's atomic (R331). -/
def laneAtom (f : LaneFields) (g : Workgroup) (w : Warp) (k : LaneAtom) (u : State) (j : Nat) : Except Stop State := do
  let va := laneVa f (now u w) j
  laneAligned f va
  let (old, v) ← u.gAtomic u.cur (some j) g va (f.ty.width / 8) fun old =>
    laneAtomNew k f.ty old ((now u w).operand f f.ty j f.opb) ((now u w).operand f f.ty j f.opc)
  return v.modWarp v.cur fun w => w.putDest f j old

/-- The tensor entry and the address of a thread (R36, R328): STALE_TID where its TID does not resolve. -/
def laneEntry (f : LaneFields) (g : Workgroup) (w : Warp) (u : State) (j : Nat) : Except Stop (BitVec 512 × Word) :=
  match u.resolve g.ctx ((now u w).operand f .n32 j f.opa) with
  | none => .error (.trap { cause := 0x0A })
  | some e => do
    let va := teBase e + BitVec.ofNat 64 ((now u w).operand f .n64 j f.opb) + BitVec.ofInt 64 (signed 29 f.w2.toNat)
    laneAligned f va
    return (e, va)

/-- A thread's load by tensor (R327-R330). -/
def laneLoadTensor (f : LaneFields) (g : Workgroup) (w : Warp) (u : State) (j : Nat) : Except Stop State := do
  let (e, va) ← laneEntry f g w u j
  let (tr, v) ← u.tidAccess g (teBase e) .read .r false va (f.ty.width / 8)
  v.keep do
  let (x, v) ← v.loadAt v.cur (some j) g.core tr (memOrder f != .plain) va (f.ty.width / 8)
  return v.modWarp v.cur fun w => w.putDest f j x

/-- A thread's store by tensor (R327-R330). -/
def laneStoreTensor (f : LaneFields) (g : Workgroup) (w : Warp) (u : State) (j : Nat) : Except Stop State := do
  let (e, va) ← laneEntry f g w u j
  let (tr, v) ← u.tidAccess g (teBase e) .write .w true va (f.ty.width / 8)
  v.keep (v.storeAt v.cur (some j) g.core tr (memOrder f != .plain) va (f.ty.width / 8) ((now u w).operand f f.ty j f.opc))

/-- The state in which pending command `n` has been taken up. -/
def took (s : State) (n : Nat) : State := { s with host := { s.host with pending := s.host.pending.eraseIdx n } }

/-- Pending command `n` is `p`, of the code given, the first of its issuer's, nothing that it waits for is under way (R478),
and its answer can be written. -/
def Posted (s : State) (n code : Nat) (p : Pending) : Prop :=
  s.host.pending[n]? = some p ∧ s.host.devState = 5 ∧ s.mbBusy = false ∧ p.arg 0 2 = code ∧
    (∀ q ∈ s.host.pending.take n, q.issuer ≠ p.issuer) ∧ s.answerReady p = .ok s

/-- The command is performed: it leaves `t` and answers DONE with the reply `r`. -/
def Does (i : Instr) (s : State) (p : Pending) (t : State) (r : Nat) : Prop := exec i s = .next (t.answer p mbDone 0 r)

/-- The command is turned away with a STATUS and the detail, and has no other effect. -/
def TurnedAway (i : Instr) (s : State) (n : Nat) (p : Pending) (status detail : Nat) : Prop :=
  exec i s = .next ((took s n).answer p status detail 0)

end Sys2Proof.Claims
end

