-- ==== Sys2Proof/Certificates/Slice0/Obligations.lean ====
section
/-! DEFINITION. The statements for the provers, by the spec's rules: the machine as a whole, then the instructions family
by family, in the terms of Sys2Proof/Safety.lean. -/

open Sys2Proof Sys2Proof.Machine

/-! ### The machine as a whole -/

/-- O1. What reset leaves: the registers of R84, R107, R133, R175, R456, R457, R463, R470, R471, R475, R476 and R487
at the values their maps give, every region record VALID alone (R80), no line held outside memory (R58), no context
and no partition VALID, no warp, and the tick at 0 (R135). Memory reads as zero and core pairs are ready by the
model's choice. The model's choices in it: entries 2 and 3. -/
def Obligations.ResetState : Prop :=
  let s := State.reset
  (s.host.devState = 0 ∧ s.host.mboxFree = 16 ∧ s.host.fwLength = 0 ∧ s.host.powerCap = 4600 ∧ s.host.refused = 0) ∧
  (field s.rel.hbmCfg 55 40 = 400 ∧ field s.rel.hbmCfg 39 32 = 4 ∧ field s.rel.hbmCfg 31 16 = 32 ∧
    field s.rel.hbmCfg 15 0 = 32 ∧ field s.rel.reserve 51 16 = 0xBE0000 ∧ field s.rel.reserve 15 0 = 4096) ∧
  (field s.cert.cfg 47 40 = 16 ∧ field s.cert.cfg 39 32 = 4 ∧ field s.cert.cfg 23 0 = 1000 ∧ s.cert.count = 0 ∧
    s.cert.epoch = 1 ∧ s.cert.nextId = 1 ∧ ∀ c, s.health c = 0) ∧
  (field s.rel.faultCfg 31 24 = 8 ∧ field s.rel.faultCfg 23 16 = 4 ∧ field s.rel.faultCfg 15 0 = 100 ∧
    (∀ c, Tab.get 0 s.rel.courseReg c = 0) ∧ s.rel.dropped = 0 ∧ s.rel.entries = []) ∧
  (s.kiln.refused0 = 0 ∧ s.kiln.refused1 = 0 ∧ s.fab.dropped = 0 ∧ ∀ n, s.region n = BitVec.ofNat 128 (2 ^ 127)) ∧
  (∀ c, (s.core c).wsig = 0 ∧ (s.core c).wcount = 0 ∧ (s.core c).wfull = false ∧ (s.core c).wfloor = 0 ∧
    (s.core c).gate = .ready) ∧
  (∀ l, s.mem.dirOf l = .uncached ∧ s.mem.slice = []) ∧
  (∀ c, s.ctxValid c = false) ∧ (∀ p, s.partValid p = false) ∧ s.warps = [] ∧ s.wgs = [] ∧ s.tick = 0 ∧
  ∀ a, s.mem.byteAt a = 0

/-- O2. Reset memory has the canonical form. The model's choices in it: entry 3. -/
def Obligations.ResetMemoryCanonical : Prop := Memory.wf State.reset.mem.bytes = true

/-- O3. Every step keeps memory in its canonical form, in every state and whatever the agenda holds. The model's
choices in it: entry 3. -/
def Obligations.MemoryStaysCanonical : Prop :=
  ∀ s t : State, Memory.wf s.mem.bytes = true → step s = .next t → Memory.wf t.mem.bytes = true

/-- A step of a scalar stream fetches the word at the pc and executes what it decodes to (R208, R272); an instruction
that issues for the first time is counted (R488). It breaks the idle state that a QUIESCE.WAIT waits for unless it is a wait
that goes on (R353). -/
def Sys2Proof.Claims.StepRunsScalar : Prop :=
  ∀ (s : State) (r : List Act) (wi : Nat) (w : Warp) (x : Nat) (t : State) (i : Instr),
    (s.agenda = .scalar wi :: r ∨ (s.agenda = [] ∧ r = [] ∧ wi = s.cur)) →
    s.host.devState ≠ 6 → s.warp? wi = some w →
    let s' := { s with agenda := r, cur := wi }
    s'.held wi w false = false → (s'.issues w).fetchWord wi w.pc = .ok (x, t) → decodeScalar x = .ok i →
    step s = exec i (if w.park = .run then t.count (s'.wgOf w).core 1 1 else t)

/-- A step of a lane stream fetches the three words at the head block's lane PC and executes what they decode to
(R213, R272); a completed instruction counts its instruction-threads (R488). -/
def Sys2Proof.Claims.StepRunsLane : Prop :=
  ∀ (s : State) (r : List Act) (wi : Nat) (w : Warp) (b : Block) (q : List Block) (w0 w1 w2 : Nat) (t : State)
    (i : Instr),
    s.agenda = .lane wi :: r → s.host.devState ≠ 6 → s.warp? wi = some w → w.blocks = b :: q → w.lane = true →
    let s' := { s with agenda := r, cur := wi }
    s'.held wi w true = false → (s'.stir (s'.wgOf w).core).fetchLane wi b.lpc = .ok (w0, w1, w2, t) → decodeLane w0 w1 w2 = .ok i →
    step s = match exec i t with
      | .next u => .next (u.countLane wi w b i)
      | o => o

/-- A step whose agenda names an operation or event performs it; one that a checkpoint puts off takes its place among
those that are made when the checkpoint ends (R109). At 110 °C a reset and the host's reads of BAR0 are performed still
(R487). -/
def Sys2Proof.Claims.StepRunsEvent : Prop :=
  ∀ (s : State) (r : List Act) (i : Instr), s.agenda = .event i :: r →
    (s.host.devState ≠ 6 ∨ i = .packageReset ∨ ∃ off n st, i = .hostMemRead (.bar0 off) n st) → encodeScalar i = none → laneParts i = none →
    step s = match exec i { s with agenda := r } with
      | .next t => .next (t.keepDeferred i)
      | o => o

/-- O4. A step runs what it decodes: a scalar stream its word at the pc, a lane stream its head block's three words,
and an event itself (R208, R213, R272, R488). The model's choices in it: entries 1 and 10. -/
def Obligations.StepRunsDecoded : Prop :=
  Sys2Proof.Claims.StepRunsScalar ∧ Sys2Proof.Claims.StepRunsLane ∧ Sys2Proof.Claims.StepRunsEvent

/-- O5. A word that does not decode raises ILLEGAL, and a word of major 0x24 outside a SYS context PRIVILEGED, before
anything of it takes effect; three words that decode to no lane instruction raise ILLEGAL at the block's first active
thread, or where it stands (R252, R263, R300). The model's choices in it: entry 9. -/
def Obligations.UndecodedTraps : Prop :=
  (∀ (s : State) (r : List Act) (wi : Nat) (w : Warp) (b : Block) (q : List Block) (w0 w1 w2 : Nat) (t : State) (e : DecodeReason),
    s.agenda = .lane wi :: r → s.host.devState ≠ 6 → s.warp? wi = some w → w.blocks = b :: q → w.lane = true →
    let s' := { s with agenda := r, cur := wi }
    s'.held wi w true = false → (s'.stir (s'.wgOf w).core).fetchLane wi b.lpc = .ok (w0, w1, w2, t) → decodeLane w0 w1 w2 = .error e →
    step s = .next (t.laneStop (if b.thread = 0 then lowest b.active else b.thread) (.trap { cause := 0x01 }))) ∧
  ∀ (s : State) (r : List Act) (wi : Nat) (w : Warp) (x : Nat) (t : State) (e : DecodeReason),
    s.agenda = .scalar wi :: r → s.host.devState ≠ 6 → s.warp? wi = some w →
    let s' := { s with agenda := r, cur := wi }
    s'.held wi w false = false → (s'.issues w).fetchWord wi w.pc = .ok (x, t) → decodeScalar x = .error e →
    step s = .next (t.trap wi { cause := if x / 2 ^ 26 = 0x24 ∧ s'.ctxSys (s'.wgOf w).ctx = false then 0x12 else 0x01 }
      w.pc)

/-- O6. Words written out from the encoding tables of R239 to R251 decode to the instructions they stand for. -/
def Obligations.WordsDecode : Prop :=
  decodeScalar 0x04310500 = .ok (.add 3 4 5) ∧ decodeScalar 0x0810BFFF = .ok (.addi 1 2 0x3FFF) ∧
  decodeScalar 0x3461E000 = .ok (.blt 6 7 0x2000) ∧ decodeScalar 0x50C36FF8 = .ok (.ld 12 13 .s32 0x7F8) ∧
  decodeScalar 0x61047506 = .ok (.ldOrd 16 17 .system .sc .n64) ∧
  decodeScalar 0x6D65D956 = .ok (.atomCasSp 22 23 .cluster .rlx .n64) ∧
  decodeScalar 0x75C74744 = .ok (.ratomCas 28 29 7 .n32) ∧ decodeScalar 0x78616103 = .ok (.capBound 6 5 33) ∧
  decodeScalar 0x7C088201 = .ok (.xferCond 34 2) ∧ decodeScalar 0x8A9FFFFF = .ok (.laneRun 41 0xFFFFF) ∧
  decodeScalar 0x8C000000 = .ok .nop ∧ decodeScalar 0x94338F08 = .ok (.mxMmag 3 14 15) ∧
  decodeLane 0x00000030 0x00402001 0x040020BF =
    .ok (.iadd ⟨0, false, .v 0, .s32, 0, false, .v 1, .v 2, .v 0, true, 0x040020BF⟩) ∧
  decodeLane 0x06960670 0x3FD3F000 0 =
    .ok (.isetLt ⟨2, true, .p 3, .n32, 0, false, .v 255, .s 63, .v 0, false, 0⟩) ∧
  decodeLane 0x10C008D6 0x83F40E00 0x3F800000 =
    .ok (.fma ⟨0, false, .v 4, .f32, 3, false, .a 15, .inl 0x40, .w2, false, 0x3F800000⟩) ∧
  decodeLane 0x5000104C 0x00800000 0xBFFFFFF8 =
    .ok (.lLd ⟨0, false, .v 8, .s64, 6, false, .v 2, .v 0, .v 0, false, 0xBFFFFFF8⟩)

/-- O7. Decoding what the encoder gives for a well-formed scalar instruction gives the instruction back. -/
def Obligations.ScalarDecodesEncode : Prop :=
  ∀ (i : Instr) (x : Nat), i.wf = true → encodeScalar i = some x → decodeScalar x = .ok i

/-- O8. Decoding what the encoder gives for a well-formed lane instruction gives the instruction back. -/
def Obligations.LaneDecodesEncode : Prop :=
  ∀ (i : Instr) (op : Nat) (f : LaneFields), i.wf = true → laneParts i = some (op, f) →
    ∃ w0 w1 w2, encode i = [w0, w1, w2] ∧ decodeLane w0 w1 w2 = .ok i

/-! ### Traps -/

/-- Taking a user-level trap (R234, R236): the cause with its reason, detail and thread, the address, the pc and the
lane PC are saved, ACTIVE is set, the lane queue is set aside, and the scalar stream goes on at trap_vec. -/
def Sys2Proof.Claims.TrapIsTaken : Prop :=
  ∀ (s : State) (wi : Nat) (w : Warp) (t : Trap) (pc : Word),
    t.cause < 256 → (∀ i, t.thread = some i → i < 32) →
    s.warp? wi = some w → w.trapVec ≠ 0 → w.active = false → s.midway wi t w = false →
    ∃ v, (s.trap wi t pc).warp? wi = some v ∧ v.pc = w.trapVec ∧ v.trapPc = pc ∧ v.trapAddr = t.addr ∧
      v.trapCause = t.word ∧ v.active = true ∧ v.blocks = [] ∧ v.queue = w.queue ∧
      v.trapLpc = (match w.queue with | b :: _ => b.lpc | [] => 0) ∧ v.s = w.s ∧ v.v = w.v ∧ v.p = w.p ∧
      (s.trap wi t pc).mem = s.mem

/-- A trap with no handler, or in a handler, aborts the workgroup (R235). -/
def Sys2Proof.Claims.TrapWithoutHandlerAborts : Prop :=
  ∀ (s : State) (wi : Nat) (w : Warp) (t : Trap) (pc : Word),
    s.warp? wi = some w → (w.trapVec = 0 ∨ w.active = true) → s.trap wi t pc = s.abortWg w.wg t.cause

/-- O9. Taking a user-level trap, and the abort of the workgroup that cannot take it (R234-R236). The model's choices
in it: entry 39. -/
def Obligations.TrapEntry : Prop :=
  Sys2Proof.Claims.TrapIsTaken ∧ Sys2Proof.Claims.TrapWithoutHandlerAborts

/-- TRAP raises TRAP with its code as REASON, and saves the address of the instruction after it (R290). -/
def Sys2Proof.Claims.TrapInstruction : Prop :=
  ∀ (s : State) (w : Warp) (n : BitVec 8), Claims.Issues s w {} →
    exec (.trap n) s = .next (s.trap s.cur { cause := 0x07, reason := n.toNat } (w.pc + 4)) ∧
    (w.trapVec ≠ 0 → w.active = false → s.midway s.cur { cause := 0x07, reason := n.toNat } w = false →
      ∃ t v, exec (.trap n) s = .next t ∧ t.warp? s.cur = some v ∧ v.pc = w.trapVec ∧ v.trapPc = w.pc + 4 ∧
        field v.trapCause 7 0 = 0x07 ∧ field v.trapCause 47 40 = n.toNat ∧ v.active = true ∧ v.s = w.s)

/-- TRAP.RET outside a handler raises ILLEGAL_INSTRUCTION; in one whose block is still there it waits; else the lane
queue set aside is back, its head at a written trap_lpc from its first thread or where it stopped, the pc is trap_pc, and
of trap_cause only ACTIVE is cleared (R291). -/
def Sys2Proof.Claims.TrapReturns : Prop :=
  ∀ (s : State) (w : Warp), Claims.Issues s w {} →
    (w.active = false → Claims.Stops .trapRet s w (.trap { cause := 0x01 })) ∧
    (w.active = true → w.hblock ≠ none → exec .trapRet s = .next (s.setWarp s.cur { w with park := .laneQueue })) ∧
    (w.active = true → w.hblock = none →
      ∃ v, exec .trapRet s = .next (s.setWarp s.cur v) ∧ v.pc = w.trapPc ∧ v.active = false ∧
        v = { w with pc := v.pc, trapCause := v.trapCause, queue := v.queue, park := .run } ∧
        (∀ i, i ≠ 56 → bit v.trapCause i = bit w.trapCause i) ∧ v.queue.tail = w.queue.tail ∧
        (w.lpcWritten = false → v.queue = w.queue) ∧
        (w.lpcWritten = true → ∀ b, w.queue.head? = some b → v.queue.head? =
          some { b with lpc := w.trapLpc, thread := 0, seg := 0, running := none, stage := .fresh, fault := none }))

/-- O10. TRAP and TRAP.RET (R237, R290, R291). The model's choices in it: entries 10 and 39. -/
def Obligations.TrapAndReturn : Prop :=
  Sys2Proof.Claims.TrapInstruction ∧ Sys2Proof.Claims.TrapReturns

/-! ### Scalar arithmetic, immediates and control transfer (R261-R271, R276, R292) -/

/-- The register forms of R264 and R265: each writes its result to sD and changes nothing else but the pc; a shift
takes six bits of sB, a zero divisor gives all ones or the dividend, and a write of s62 below the limit is refused. -/
def Sys2Proof.Claims.AluRegisterResults : Prop :=
  ∀ (s : State) (w : Warp) (d a b : SReg), Claims.Issues s w { reads := [a.val, b.val], writes := [d.val] } →
    let x := w.sget a
    let y := w.sget b
    let n := y.toNat % 64
    Claims.Writes (.add d a b) s w d (x + y) ∧
    Claims.Writes (.sub d a b) s w d (x - y) ∧
    Claims.Writes (.mul d a b) s w d (x * y) ∧
    Claims.Writes (.mulh d a b) s w d (BitVec.ofInt 64 (x.toInt * y.toInt / 2 ^ 64)) ∧
    Claims.Writes (.mulhn d a b) s w d (BitVec.ofNat 64 (x.toNat * y.toNat / 2 ^ 64)) ∧
    Claims.Writes (.div d a b) s w d (if y = 0 then BitVec.allOnes 64 else BitVec.ofInt 64 (x.toInt.tdiv y.toInt)) ∧
    Claims.Writes (.divn d a b) s w d (if y = 0 then BitVec.allOnes 64 else x / y) ∧
    Claims.Writes (.rem d a b) s w d (if y = 0 then x else BitVec.ofInt 64 (x.toInt.tmod y.toInt)) ∧
    Claims.Writes (.remn d a b) s w d (if y = 0 then x else x % y) ∧
    Claims.Writes (.and d a b) s w d (x &&& y) ∧
    Claims.Writes (.or d a b) s w d (x ||| y) ∧
    Claims.Writes (.xor d a b) s w d (x ^^^ y) ∧
    Claims.Writes (.andn d a b) s w d (x &&& ~~~y) ∧
    Claims.Writes (.shl d a b) s w d (x <<< n) ∧
    Claims.Writes (.shr d a b) s w d (x >>> n) ∧
    Claims.Writes (.sra d a b) s w d (x.sshiftRight n) ∧
    Claims.Writes (.ror d a b) s w d (x.rotateRight n) ∧
    Claims.Writes (.min d a b) s w d (if x.toInt < y.toInt then x else y) ∧
    Claims.Writes (.minn d a b) s w d (if x.toNat < y.toNat then x else y) ∧
    Claims.Writes (.max d a b) s w d (if x.toInt < y.toInt then y else x) ∧
    Claims.Writes (.maxn d a b) s w d (if x.toNat < y.toNat then y else x) ∧
    Claims.Writes (.slt d a b) s w d (if x.toInt < y.toInt then 1 else 0) ∧
    Claims.Writes (.sltn d a b) s w d (if x.toNat < y.toNat then 1 else 0) ∧
    Claims.Writes (.seq d a b) s w d (if x = y then 1 else 0)

/-- The one-register forms of R264: the counts of leading zeros, trailing zeros and set bits, 64 for the first two at
zero, and the bytes in reverse order. -/
def Sys2Proof.Claims.AluUnaryResults : Prop :=
  ∀ (s : State) (w : Warp) (d a : SReg), Claims.Issues s w { reads := [a.val], writes := [d.val] } →
    let x := w.sget a
    (∃ n, Claims.Writes (.clz d a) s w d (BitVec.ofNat 64 n) ∧ n ≤ 64 ∧ (∀ i, 64 - n ≤ i → x.getLsbD i = false) ∧
      (n < 64 → x.getLsbD (63 - n) = true)) ∧
    (∃ n, Claims.Writes (.ctz d a) s w d (BitVec.ofNat 64 n) ∧ n ≤ 64 ∧ (∀ i < n, x.getLsbD i = false) ∧
      (n < 64 → x.getLsbD n = true)) ∧
    Claims.Writes (.popc d a) s w d (BitVec.ofNat 64 ((List.range 64).filter fun i => x.getLsbD i).length) ∧
    (∃ y : Word, Claims.Writes (.bswap d a) s w d y ∧
      ∀ i < 8, y.extractLsb' (8 * i) 8 = x.extractLsb' (8 * (7 - i)) 8)

/-- O11. The scalar register forms of two operands and of one (R264, R265). -/
def Obligations.AluRegisterForms : Prop :=
  Sys2Proof.Claims.AluRegisterResults ∧ Sys2Proof.Claims.AluUnaryResults

/-- O12. The immediate forms (R266-R268): 14-bit immediates sign-extend, MOVK shifts sD left by 20 bits and ORs its
immediate in, and ADR adds four times its immediate to its own address. -/
def Obligations.AluImmediateResults : Prop :=
  ∀ (s : State) (w : Warp) (d a : SReg) (m : BitVec 14) (n : Fin 64) (k : BitVec 20),
    let x := w.sget a
    let y := m.signExtend 64
    (Claims.Issues s w { reads := [a.val], writes := [d.val] } →
      Claims.Writes (.addi d a m) s w d (x + y) ∧
      Claims.Writes (.andi d a m) s w d (x &&& y) ∧
      Claims.Writes (.ori d a m) s w d (x ||| y) ∧
      Claims.Writes (.xori d a m) s w d (x ^^^ y) ∧
      Claims.Writes (.slti d a m) s w d (if x.toInt < y.toInt then 1 else 0) ∧
      Claims.Writes (.shli d a n) s w d (x <<< n.val) ∧
      Claims.Writes (.shri d a n) s w d (x >>> n.val) ∧
      Claims.Writes (.srai d a n) s w d (x.sshiftRight n.val) ∧
      Claims.Writes (.rori d a n) s w d (x.rotateRight n.val)) ∧
    (Claims.Issues s w { writes := [d.val] } →
      Claims.Writes (.movi d k) s w d (k.signExtend 64) ∧
      Claims.Writes (.adr d k) s w d (w.pc + 4 * k.signExtend 64)) ∧
    (Claims.Issues s w { reads := [d.val], writes := [d.val] } →
      Claims.Writes (.movk d k) s w d ((w.sget d <<< 20) ||| k.zeroExtend 64))

/-- A scalar computation, branch, jump or call that a queued block holds back waits where it is, and nothing but its wait
changes (R210, R219). -/
def Sys2Proof.Claims.QueuedBlocksHoldBack : Prop :=
  ∀ (s : State) (w : Warp) (d a b : SReg) (m : BitVec 14) (n : Fin 64) (k : BitVec 20) (j : BitVec 26),
    s.warp? s.cur = some w → w.live = true →
    let wait (u : RegUse) (l : List Instr) : Prop :=
      s.blocked w u = true → ∀ i ∈ l, exec i s = .next (s.setWarp s.cur { w with park := .laneQueue })
    wait { reads := [a.val, b.val], writes := [d.val] }
      [.add d a b, .sub d a b, .mul d a b, .mulh d a b, .mulhn d a b, .div d a b, .divn d a b, .rem d a b, .remn d a b,
       .and d a b, .or d a b, .xor d a b, .andn d a b, .shl d a b, .shr d a b, .sra d a b, .ror d a b, .min d a b,
       .minn d a b, .max d a b, .maxn d a b, .slt d a b, .sltn d a b, .seq d a b] ∧
    wait { reads := [a.val], writes := [d.val] }
      [.clz d a, .ctz d a, .popc d a, .bswap d a, .addi d a m, .andi d a m, .ori d a m, .xori d a m, .slti d a m, .shli d a n,
       .shri d a n, .srai d a n, .rori d a n] ∧
    wait { writes := [d.val] } [.movi d k, .adr d k] ∧ wait { reads := [d.val], writes := [d.val] } [.movk d k] ∧
    wait { reads := [a.val, b.val] } [.beq a b m, .bne a b m, .blt a b m, .bge a b m, .bltn a b m, .bgen a b m] ∧
    wait { reads := [a.val] } [.jr a] ∧ wait { reads := [a.val], writes := [63] } [.callr a] ∧
    wait { reads := [63] } [.ret] ∧ wait { writes := [63] } [.call j]

/-- The branches of R269: taken, they go to their own address plus four times the offset, else to the next
instruction; nothing else changes. -/
def Sys2Proof.Claims.BranchResults : Prop :=
  ∀ (s : State) (w : Warp) (a b : SReg) (m : BitVec 14), Claims.Issues s w { reads := [a.val, b.val] } →
    let x := w.sget a
    let y := w.sget b
    let tgt (c : Bool) := if c then w.pc + 4 * m.signExtend 64 else w.pc + 4
    Claims.GoesTo (.beq a b m) s w (tgt (x = y)) ∧
    Claims.GoesTo (.bne a b m) s w (tgt (x ≠ y)) ∧
    Claims.GoesTo (.blt a b m) s w (tgt (x.toInt < y.toInt)) ∧
    Claims.GoesTo (.bge a b m) s w (tgt (y.toInt ≤ x.toInt)) ∧
    Claims.GoesTo (.bltn a b m) s w (tgt (x.toNat < y.toNat)) ∧
    Claims.GoesTo (.bgen a b m) s w (tgt (y.toNat ≤ x.toNat))

/-- Jumps, calls and returns (R270, R271): CALL and CALLR leave the return address in s63, read before it is
written; a register target that is not a multiple of four raises ALIGNMENT with that address, and s63 stays. -/
def Sys2Proof.Claims.JumpResults : Prop :=
  ∀ (s : State) (w : Warp) (m : BitVec 26) (a : SReg),
    let x := w.sget a
    let link (v : Warp) : Warp := { v with s := Tab.set 0 w.s 63 (w.pc + 4) }
    (Claims.Issues s w {} → Claims.GoesTo (.jmp m) s w (w.pc + 4 * m.signExtend 64)) ∧
    (Claims.Issues s w { writes := [63] } → Claims.GoesTo (.call m) s (link w) (w.pc + 4 * m.signExtend 64)) ∧
    (Claims.Issues s w { reads := [a.val] } →
      if x.toNat % 4 = 0 then Claims.GoesTo (.jr a) s w x
      else Claims.Stops (.jr a) s w (.trap { cause := 0x11, addr := x })) ∧
    (Claims.Issues s w { reads := [a.val], writes := [63] } →
      if x.toNat % 4 = 0 then Claims.GoesTo (.callr a) s (link w) x
      else Claims.Stops (.callr a) s w (.trap { cause := 0x11, addr := x })) ∧
    (Claims.Issues s w { reads := [63] } →
      if (w.sget 63).toNat % 4 = 0 then Claims.GoesTo .ret s w (w.sget 63)
      else Claims.Stops .ret s w (.trap { cause := 0x11, addr := w.sget 63 }))

/-- O13. Branches, jumps, calls and returns (R269-R271). -/
def Obligations.ControlTransfers : Prop :=
  Sys2Proof.Claims.BranchResults ∧ Sys2Proof.Claims.JumpResults

/-- NOP does nothing but go on (R292). -/
def Sys2Proof.Claims.NopGoesOn : Prop :=
  ∀ (s : State) (w : Warp), Claims.Issues s w {} → exec .nop s = .next (Claims.past s w)

/-- O14. A queued block holds back a scalar computation (R210), and NOP only goes on (R292). The model's choices in
it: entry 10. -/
def Obligations.HeldBackAndNop : Prop :=
  Sys2Proof.Claims.QueuedBlocksHoldBack ∧ Sys2Proof.Claims.NopGoesOn

/-! ### Lane instructions that compute (R298-R316, R325, R326, R334, R335) -/

/-- Lane integer arithmetic (R303, R304): the exact result, saturated to the type's range where SAT says so and else
modulo 2^width; division toward zero, with all ones or the dividend and the flag DZ for a zero divisor. -/
def Sys2Proof.Claims.LaneIntegerResults : Prop :=
  ∀ (s : State) (w : Warp) (b : Block) (f : LaneFields),
    let n := f.ty.width
    let x t := intOf f.ty (Claims.opA w f t)
    let y t := intOf f.ty (Claims.opB w f t)
    let z t := intOf f.ty (Claims.opC w f t)
    let out (r : Int) : Nat := ((if f.sat then max (intLo f.ty) (min r (intHi f.ty)) else r) % 2 ^ n).toNat
    let clear : Nat → Nat := fun _ => 0
    let div t := Claims.opB w f t = 0
    let dz t := if div t then fDZ else 0
    (Claims.AtLane s w b 0x000 f → Claims.LaneWrites (.iadd f) s w b f (fun t => out (x t + y t)) clear) ∧
    (Claims.AtLane s w b 0x001 f → Claims.LaneWrites (.isub f) s w b f (fun t => out (x t - y t)) clear) ∧
    (Claims.AtLane s w b 0x002 f → Claims.LaneWrites (.imul f) s w b f (fun t => out (x t * y t)) clear) ∧
    (Claims.AtLane s w b 0x003 f → Claims.LaneWrites (.imulh f) s w b f (fun t => out (x t * y t / 2 ^ n)) clear) ∧
    (Claims.AtLane s w b 0x004 f → Claims.LaneWrites (.imad f) s w b f (fun t => out (x t * y t + z t)) clear) ∧
    (Claims.AtLane s w b 0x005 f → Claims.LaneWrites (.idiv f) s w b f
      (fun t => if div t then 2 ^ n - 1 else ((x t).tdiv (y t) % 2 ^ n).toNat) dz) ∧
    (Claims.AtLane s w b 0x006 f → Claims.LaneWrites (.irem f) s w b f
      (fun t => if div t then Claims.opA w f t else ((x t).tmod (y t) % 2 ^ n).toNat) dz) ∧
    (Claims.AtLane s w b 0x007 f → Claims.LaneWrites (.imin f) s w b f (fun t => out (min (x t) (y t))) clear) ∧
    (Claims.AtLane s w b 0x008 f → Claims.LaneWrites (.imax f) s w b f (fun t => out (max (x t) (y t))) clear) ∧
    (Claims.AtLane s w b 0x009 f → Claims.LaneWrites (.iabs f) s w b f (fun t => out (if x t < 0 then -x t else x t)) clear) ∧
    (Claims.AtLane s w b 0x00A f → Claims.LaneWrites (.ineg f) s w b f (fun t => out (-x t)) clear)

/-- Lane bit operations, bit fields and MOV on the values of the type's width (R305, R306); shift and rotate counts
are taken modulo the width, and SHR is arithmetic for S types. -/
def Sys2Proof.Claims.LaneBitResults : Prop :=
  ∀ (s : State) (w : Warp) (b : Block) (f : LaneFields),
    let n := f.ty.width
    let x := Claims.opA w f
    let y := Claims.opB w f
    let z := Claims.opC w f
    let goes i v := Claims.LaneWrites i s w b f v fun _ => 0
    (Claims.AtLane s w b 0x00B f → goes (.laneAnd f) fun t => (x t &&& y t) % 2 ^ n) ∧
    (Claims.AtLane s w b 0x00C f → goes (.laneOr f) fun t => (x t ||| y t) % 2 ^ n) ∧
    (Claims.AtLane s w b 0x00D f → goes (.laneXor f) fun t => (x t ^^^ y t) % 2 ^ n) ∧
    (Claims.AtLane s w b 0x00E f → goes (.not f) fun t => (2 ^ n - 1 - x t) % 2 ^ n) ∧
    (Claims.AtLane s w b 0x00F f → goes (.laneShl f) fun t => x t * 2 ^ (y t % n) % 2 ^ n) ∧
    (Claims.AtLane s w b 0x010 f → goes (.laneShr f) fun t => (intOf f.ty (x t) / 2 ^ (y t % n) % 2 ^ n).toNat) ∧
    (Claims.AtLane s w b 0x011 f → goes (.rol f) fun t => (x t * 2 ^ (y t % n) + x t / 2 ^ (n - y t % n)) % 2 ^ n) ∧
    (Claims.AtLane s w b 0x012 f → goes (.lanePopc f) fun t => popCount n (x t) % 2 ^ n) ∧
    (Claims.AtLane s w b 0x013 f → goes (.laneClz f) fun t => clz n (x t) % 2 ^ n) ∧
    (Claims.AtLane s w b 0x014 f → goes (.brev f) fun t => bitRev n (x t) % 2 ^ n) ∧
    (Claims.AtLane s w b 0x015 f → goes (.bfx f) fun t => bitExtract f.ty (x t) (y t) (z t)) ∧
    (Claims.AtLane s w b 0x016 f → goes (.bfi f) fun t => bitInsert f.ty (x t) (y t) (z t)) ∧
    (Claims.AtLane s w b 0x017 f → goes (.mov f) fun t => x t % 2 ^ n)

/-- O15. Lane integer arithmetic and lane bit operations (R303-R306). -/
def Obligations.LaneIntegerAndBits : Prop :=
  Sys2Proof.Claims.LaneIntegerResults ∧ Sys2Proof.Claims.LaneBitResults

/-- Lane compares write the participating threads' bits of a predicate (R307, R310): integers by their type, floating
values with NaN unequal to everything, and a signalling NaN raises NV. -/
def Sys2Proof.Claims.LaneCompareResults : Prop :=
  ∀ (s : State) (w : Warp) (b : Block) (f : LaneFields) (m : FFmt),
    let x t := intOf f.ty (Claims.opA w f t)
    let y t := intOf f.ty (Claims.opB w f t)
    let goes i (c : Nat → Bool) := Claims.LaneWrites i s w b f (fun t => (c t).toNat) fun _ => 0
    let u t := m.decode (Claims.opA w f t)
    let v t := m.decode (Claims.opB w f t)
    let goesF i (c : Nat → Bool) := f.ty.ieee = some m →
      Claims.LaneWrites i s w b f (fun t => (c t).toNat) fun t => sigFlag [u t, v t]
    (Claims.AtLane s w b 0x018 f → goes (.isetEq f) fun t => x t = y t) ∧
    (Claims.AtLane s w b 0x019 f → goes (.isetNe f) fun t => x t ≠ y t) ∧
    (Claims.AtLane s w b 0x01A f → goes (.isetLt f) fun t => x t < y t) ∧
    (Claims.AtLane s w b 0x01B f → goes (.isetLe f) fun t => x t ≤ y t) ∧
    (Claims.AtLane s w b 0x01C f → goes (.isetGt f) fun t => y t < x t) ∧
    (Claims.AtLane s w b 0x01D f → goes (.isetGe f) fun t => y t ≤ x t) ∧
    (Claims.AtLane s w b 0x04A f → goesF (.fsetEq f) fun t => fpEq (u t) (v t)) ∧
    (Claims.AtLane s w b 0x04B f → goesF (.fsetNe f) fun t => !fpEq (u t) (v t)) ∧
    (Claims.AtLane s w b 0x04C f → goesF (.fsetLt f) fun t => fpLt (u t) (v t)) ∧
    (Claims.AtLane s w b 0x04D f → goesF (.fsetLe f) fun t => fpLt (u t) (v t) || fpEq (u t) (v t)) ∧
    (Claims.AtLane s w b 0x04E f → goesF (.fsetUn f) fun t => (u t).isNan || (v t).isNan)

/-- O16. Lane floating arithmetic (R308, R309): on each element, the exact result rounded once in the mode RND or DRM
names, with the flags of the operation and of the rounding; FABS and FNEG round nothing. A paired type has two
elements, and their flags are ORed. -/
def Obligations.LaneFloatResults : Prop :=
  ∀ (s : State) (w : Warp) (b : Block) (f : LaneFields),
    let md := w.mode f.rnd
    let el (k : Fp → Fp → Fp → Fp × Nat) (t : Nat) : Nat × Nat := onElements f.ty (fun m a b c =>
      ((m.finish md false (k (m.decode a) (m.decode b) (m.decode c)).1).1,
        (k (m.decode a) (m.decode b) (m.decode c)).2 ||| (m.finish md false (k (m.decode a) (m.decode b) (m.decode c)).1).2))
      (Claims.opA w f t) (Claims.opB w f t) (Claims.opC w f t)
    let sign (k : Fp → Fp) (t : Nat) : Nat × Nat :=
      onElements f.ty (fun m a _ _ => m.finish .rne false (k (m.decode a))) (Claims.opA w f t) (Claims.opB w f t)
        (Claims.opC w f t)
    let goes i (r : Nat → Nat × Nat) := Claims.LaneWrites i s w b f (fun t => (r t).1) fun t => (r t).2
    (Claims.AtLane s w b 0x040 f → goes (.fadd f) (el fun a b _ => fpAdd md a b)) ∧
    (Claims.AtLane s w b 0x041 f → goes (.fsub f) (el fun a b _ => fpAdd md a b.negate)) ∧
    (Claims.AtLane s w b 0x042 f → goes (.fmul f) (el fun a b _ => fpMul a b)) ∧
    (Claims.AtLane s w b 0x043 f → goes (.fma f) (el fun a b c => fpFma md a b c)) ∧
    (Claims.AtLane s w b 0x044 f → goes (.fdiv f) (el fun a b _ => fpDiv a b)) ∧
    (Claims.AtLane s w b 0x045 f → goes (.fsqrt f) (el fun a _ _ => fpSqrt a)) ∧
    (Claims.AtLane s w b 0x046 f → goes (.fmin f) (el fun a b _ => fpMin a b)) ∧
    (Claims.AtLane s w b 0x047 f → goes (.fmax f) (el fun a b _ => fpMax a b)) ∧
    (Claims.AtLane s w b 0x048 f → goes (.fabs f) (sign fpAbs)) ∧
    (Claims.AtLane s w b 0x049 f → goes (.fneg f) (sign Fp.negate))

/-- O17. Special functions, conversions and rounding (R311-R315): a special function is one fixed mapping of its
operand, NaN and the exact cases among it; CVT between integers saturates or wraps, and of an ill-formed format word
raises BAD_FORMAT at the lowest participating thread with nothing written. The model's choices in it: entries 13, 14
and 68. -/
def Obligations.LaneConvertResults : Prop :=
  ∀ (s : State) (w : Warp) (b : Block) (f : LaneFields),
    let goes i (r : Nat → Nat × Nat) := Claims.LaneWrites i s w b f (fun t => (r t).1) fun t => (r t).2
    let sp fn t := special fn (f.ty == .f16) (Claims.opA w f t)
    let a t := w.operand f f.cvtSrc t f.opa
    let word := w.sget (Fin.ofNat 64 (cvtReg f))
    let nf := if f.ty.isNf then f.ty else f.cvtSrc
    (Claims.AtLane s w b 0x050 f → goes (.frcp f) (sp .rcp)) ∧
    (Claims.AtLane s w b 0x051 f → goes (.frsq f) (sp .rsq)) ∧
    (Claims.AtLane s w b 0x052 f → goes (.fexp2 f) (sp .exp2)) ∧
    (Claims.AtLane s w b 0x053 f → goes (.flog2 f) (sp .log2)) ∧
    (Claims.AtLane s w b 0x054 f → goes (.fsin f) (sp .sin)) ∧
    (Claims.AtLane s w b 0x055 f → goes (.fcos f) (sp .cos)) ∧
    (Claims.AtLane s w b 0x056 f → goes (.ftanh f) (sp .tanh)) ∧
    (Claims.AtLane s w b 0x080 f → (nf.isNf = false ∨ formatWordOk nf word = true) →
      goes (.cvt f) fun t => convert f.cvtSrc f.ty (cvtMode f w t 0) f.sat word (a t)) ∧
    (Claims.AtLane s w b 0x080 f → f.cvtSrc.isInt = true → f.ty.isInt = true →
      goes (.cvt f) fun t => (intResult f.ty f.sat (intOf f.cvtSrc (a t)), 0)) ∧
    (Claims.AtLane s w b 0x080 f → nf.isNf = true → formatWordOk nf word = false → participants w b f ≠ 0 →
      exec (.cvt f) s = .next (s.laneStop (lowest (participants w b f)) (.trap { cause := 0x10 }))) ∧
    (Claims.AtLane s w b 0x081 f → goes (.frnd f) fun t => onElements f.ty (fun m a _ _ =>
      ((m.finish .rne false (fpIntegral (w.mode f.rnd) (m.decode a)).1).1, (fpIntegral (w.mode f.rnd) (m.decode a)).2))
      (Claims.opA w f t) (Claims.opB w f t) (Claims.opC w f t))

/-- Byte lookup and permute (R325, R326), and modular arithmetic (R334, R335): operands reduced into [0, Q), an
immediate as a signed integer; the butterfly writes its two pairs after all operands are read; Q = 0 raises
BAD_FORMAT with nothing written. BPICK's byte for a selector is the table's, where R326's third example differs (entry 26,
DEDUCED). -/
def Sys2Proof.Claims.LaneModularResults : Prop :=
  ∀ (s : State) (w : Warp) (b : Block) (f : LaneFields),
    let q := w.modQ.toNat
    let x t := modOperand q f.opa (w.operand f f.ty t f.opa)
    let y t := modOperand q f.opb (w.operand f f.ty t f.opb)
    let z t := modOperand q f.opc (w.operand f f.ty t f.opc)
    let goes i v := Claims.LaneWrites i s w b f v fun _ => 0
    let none i := participants w b f ≠ 0 →
      exec i s = .next (s.laneStop (lowest (participants w b f)) (.trap { cause := 0x10 }))
    (Claims.AtLane s w b 0x110 f → goes (.blut f) fun t => fourBytes fun k =>
      byteOf (w.operand f .n64 t f.opb + w.operand f .n64 t f.opc * 2 ^ 64) (byteOf (w.operand f .n32 t f.opa) k % 16)) ∧
    (Claims.AtLane s w b 0x111 f → goes (.bpick f) fun t => fourBytes fun k =>
      pickByte (w.operand f .n32 t f.opa + w.operand f .n32 t f.opb * 2 ^ 32) (byteOf (w.operand f .n32 t f.opc) k)) ∧
    (Claims.AtLane s w b 0x180 f → if q = 0 then none (.modmul f) else goes (.modmul f) fun t => x t * y t % q) ∧
    (Claims.AtLane s w b 0x181 f → if q = 0 then none (.modadd f) else goes (.modadd f) fun t => (x t + y t) % q) ∧
    (Claims.AtLane s w b 0x182 f → if q = 0 then none (.modsub f) else goes (.modsub f) fun t => (x t + q - y t) % q) ∧
    (Claims.AtLane s w b 0x183 f → if q = 0 then none (.modmad f)
      else goes (.modmad f) fun t => (x t * y t + z t) % q) ∧
    (Claims.AtLane s w b 0x184 f → q = 0 → none (.nttBfly f)) ∧
    (Claims.AtLane s w b 0x184 f → q ≠ 0 → ∀ d, f.dest = .v d →
      let c t := modOperand q f.opc (w.operand f .mod64 t f.opc) * modOperand q f.opb (w.operand f .mod64 t f.opb) % q
      let a t := modOperand q f.opa (w.operand f .mod64 t f.opa)
      exec (.nttBfly f) s = .next (Claims.lanePast s ((threads (participants w b f)).foldl
        (fun v t => (v.putLane d .mod64 t ((a t + c t) % q)).putLane (Fin.ofNat 256 (d.val + 2)) .mod64 t
          ((a t + q - c t) % q)) w) b))

/-- O18. Lane compares, byte lookup and permute, and modular arithmetic (R307, R310, R325, R326, R334, R335). The
model's choices in it: entry 26. -/
def Obligations.LaneCompareAndModular : Prop :=
  Sys2Proof.Claims.LaneCompareResults ∧ Sys2Proof.Claims.LaneModularResults

/-- A lane result lands in the participating threads alone (R298, R299): a lane destination of at most 32 bits takes
each one's value extended as its type says, a pair takes its low word first, a predicate takes bit 0, and every other
thread and register keeps its value. -/
def Sys2Proof.Claims.LaneResultsLand : Prop :=
  ∀ (w : Warp) (f : LaneFields) (val : Nat → Nat) (m : BitVec 32),
    let r := (threads m).foldl (fun v t => v.putDest f t (val t)) w
    (∀ d : VReg, f.dest = .v d → ∀ (k t : Nat), t < 32 →
      r.vget k t = if m.getLsbD t = false then w.vget k t
        else if k = d.val then BitVec.ofNat 32 (extendTo f.ty (val t))
        else if k = d.val + 1 ∧ f.ty.width = 64 then BitVec.ofNat 32 (extendTo f.ty (val t) / 2 ^ 32)
        else w.vget k t) ∧
    (∀ d : PReg, f.dest = .p d → ∀ (k : PReg) (t : Nat), t < 32 →
      (r.pget k).getLsbD t = if m.getLsbD t = true ∧ k = d ∧ d ≠ 0 then decide (val t % 2 = 1)
        else (w.pget k).getLsbD t) ∧
    r.s = w.s ∧ r.pc = w.pc ∧ r.arithCtl = w.arithCtl ∧ (∀ d : VReg, f.dest = .v d → r.p = w.p) ∧
    (∀ d : PReg, f.dest = .p d → r.v = w.v)

/-- A flag whose TRAP_EN bit is set raises ARITHMETIC at the first thread that raises it, of an integer division and of
every floating computation, special function, conversion and rounding: the threads before it are written with their
flags, its own flags are set, its own result is not written, and the block keeps its place (R201, R300). -/
def Sys2Proof.Claims.ArithmeticTraps : Prop :=
  ∀ (s : State) (w : Warp) (b : Block) (f : LaneFields),
    let n := f.ty.width
    let md := w.mode f.rnd
    let zero t := Claims.opB w f t = 0
    let dz t := if zero t then fDZ else 0
    let el (k : Fp → Fp → Fp → Fp × Nat) (t : Nat) : Nat × Nat := onElements f.ty (fun m a b c =>
      ((m.finish md false (k (m.decode a) (m.decode b) (m.decode c)).1).1,
        (k (m.decode a) (m.decode b) (m.decode c)).2 ||| (m.finish md false (k (m.decode a) (m.decode b) (m.decode c)).1).2))
      (Claims.opA w f t) (Claims.opB w f t) (Claims.opC w f t)
    let sp fn t := special fn (f.ty == .f16) (Claims.opA w f t)
    let word := w.sget (Fin.ofNat 64 (cvtReg f))
    let nf := if f.ty.isNf then f.ty else f.cvtSrc
    let traps i (r : Nat → Nat × Nat) := Claims.LaneTraps i s w b f (fun t => (r t).1) fun t => (r t).2
    (Claims.AtLane s w b 0x005 f → traps (.idiv f) fun t =>
      (if zero t then 2 ^ n - 1 else ((intOf f.ty (Claims.opA w f t)).tdiv (intOf f.ty (Claims.opB w f t)) % 2 ^ n).toNat, dz t)) ∧
    (Claims.AtLane s w b 0x006 f → traps (.irem f) fun t =>
      (if zero t then Claims.opA w f t else ((intOf f.ty (Claims.opA w f t)).tmod (intOf f.ty (Claims.opB w f t)) % 2 ^ n).toNat,
        dz t)) ∧
    (Claims.AtLane s w b 0x040 f → traps (.fadd f) (el fun a b _ => fpAdd md a b)) ∧
    (Claims.AtLane s w b 0x041 f → traps (.fsub f) (el fun a b _ => fpAdd md a b.negate)) ∧
    (Claims.AtLane s w b 0x042 f → traps (.fmul f) (el fun a b _ => fpMul a b)) ∧
    (Claims.AtLane s w b 0x043 f → traps (.fma f) (el fun a b c => fpFma md a b c)) ∧
    (Claims.AtLane s w b 0x044 f → traps (.fdiv f) (el fun a b _ => fpDiv a b)) ∧
    (Claims.AtLane s w b 0x045 f → traps (.fsqrt f) (el fun a _ _ => fpSqrt a)) ∧
    (Claims.AtLane s w b 0x046 f → traps (.fmin f) (el fun a b _ => fpMin a b)) ∧
    (Claims.AtLane s w b 0x047 f → traps (.fmax f) (el fun a b _ => fpMax a b)) ∧
    (Claims.AtLane s w b 0x050 f → traps (.frcp f) (sp .rcp)) ∧
    (Claims.AtLane s w b 0x051 f → traps (.frsq f) (sp .rsq)) ∧
    (Claims.AtLane s w b 0x052 f → traps (.fexp2 f) (sp .exp2)) ∧
    (Claims.AtLane s w b 0x053 f → traps (.flog2 f) (sp .log2)) ∧
    (Claims.AtLane s w b 0x054 f → traps (.fsin f) (sp .sin)) ∧
    (Claims.AtLane s w b 0x055 f → traps (.fcos f) (sp .cos)) ∧
    (Claims.AtLane s w b 0x056 f → traps (.ftanh f) (sp .tanh)) ∧
    (Claims.AtLane s w b 0x080 f → (nf.isNf = false ∨ formatWordOk nf word = true) →
      traps (.cvt f) fun t => convert f.cvtSrc f.ty (cvtMode f w t 0) f.sat word (w.operand f f.cvtSrc t f.opa)) ∧
    (Claims.AtLane s w b 0x081 f → traps (.frnd f) fun t => onElements f.ty (fun m a _ _ =>
      ((m.finish .rne false (fpIntegral md (m.decode a)).1).1, (fpIntegral md (m.decode a)).2))
      (Claims.opA w f t) (Claims.opB w f t) (Claims.opC w f t))

/-- O19. Where a lane result lands, and the ARITHMETIC trap (R298, R299, R201). The model's choices in it: entries 14,
48 and 57. -/
def Obligations.LaneResultsAndTraps : Prop :=
  Sys2Proof.Claims.LaneResultsLand ∧ Sys2Proof.Claims.ArithmeticTraps

/-! ### Predicates, the mask stack and cross-thread instructions (R316-R324) -/

/-- Predicate logic acts on the participating threads' bits (R316); the mask instructions act once on the head block's
stack (R317, R318): M.IF splits the active mask, M.ELSE takes the other part, M.ENDIF pops, M.LOOP remembers the next
instruction, M.BRK removes threads down to the nearest LOOP, M.NEXT goes back while a thread is active and else
pops. L.NOP goes on, and L.END completes the block and frees the lane (R212, R319). -/
def Sys2Proof.Claims.LaneMaskResults : Prop :=
  ∀ (s : State) (w : Warp) (b : Block) (f : LaneFields) (e : MaskEntry) (r : List MaskEntry),
    let part := participants w b f
    let p := w.predOf f.opa
    let q := w.predOf f.opb
    let at' op := Claims.AtLane s w b op f ∧ b.stack = e :: r
    let stack i st := exec i s = .next (Claims.lanePast s w { b with stack := st })
    let logic i x := ∀ d, f.dest = .p d → exec i s = .next (Claims.lanePast s (w.pset d part x) b)
    (at' 0x0C0 → logic (.pand f) (p &&& q)) ∧ (at' 0x0C1 → logic (.por f) (p ||| q)) ∧
    (at' 0x0C2 → logic (.pxor f) (p ^^^ q)) ∧ (at' 0x0C3 → logic (.pnot f) (~~~p)) ∧
    (at' 0x0C8 → r.length < 31 → stack (.mIf f)
      ({ active := e.active &&& p, elseMask := e.active &&& ~~~p, kind := .ifArm } :: e :: r)) ∧
    (at' 0x0C9 → e.kind = .ifArm → stack (.mElse f)
      ({ e with active := e.elseMask, elseMask := 0, kind := .elseArm } :: r)) ∧
    (at' 0x0CA → e.kind = .ifArm ∨ e.kind = .elseArm → stack (.mEndif f) r) ∧
    (at' 0x0CB → r.length < 31 → stack (.mLoop f)
      ({ active := e.active, kind := .loop, start := BitVec.ofNat 62 ((b.lpc + 12).toNat / 4) } :: e :: r)) ∧
    (∀ up x down, at' 0x0CC → e :: r = up ++ x :: down → x.kind = .loop → (∀ y ∈ up, y.kind ≠ .loop) →
      stack (.mBrk f) ((up ++ [x]).map (fun y => { y with active := y.active &&& ~~~(e.active &&& p)
                                                          elseMask := y.elseMask &&& ~~~(e.active &&& p) }) ++ down)) ∧
    (at' 0x0CD → e.kind = .loop → e.active = 0 → stack (.mNext f) r) ∧
    (at' 0x0CD → e.kind = .loop → e.active ≠ 0 → exec (.mNext f) s =
      .next (Claims.lanePast s w { b with lpc := BitVec.ofNat 64 (e.start.toNat * 4) - 12 })) ∧
    (at' 0x0CE → exec (.lNop f) s = .next (Claims.lanePast s w b)) ∧
    (at' 0x0CF → r = [] → w.active = false → exec (.lEnd f) s =
      .next (s.setWarp s.cur { w with queue := dropEmpty w.queue.tail, lane := false })) ∧
    (at' 0x0CF → r = [] → w.active = true → exec (.lEnd f) s =
      .next (s.setWarp s.cur { w with hblock := none, lane := false }))

/-- A mask instruction that finds the wrong entry, or a full stack, raises MASK_STACK at the lowest active thread and
changes no stack (R318, R319). -/
def Sys2Proof.Claims.MaskStackTraps : Prop :=
  ∀ (s : State) (w : Warp) (b : Block) (f : LaneFields) (e : MaskEntry) (r : List MaskEntry),
    let at' op := Claims.AtLane s w b op f ∧ b.stack = e :: r
    let traps i := exec i s = .next (s.laneStop (lowest e.active) (.trap { cause := 0x01, reason := 0x01 }))
    (at' 0x0C8 → 31 ≤ r.length → traps (.mIf f)) ∧ (at' 0x0CB → 31 ≤ r.length → traps (.mLoop f)) ∧
    (at' 0x0C9 → e.kind ≠ .ifArm → traps (.mElse f)) ∧
    (at' 0x0CA → e.kind ≠ .ifArm → e.kind ≠ .elseArm → traps (.mEndif f)) ∧
    (at' 0x0CD → e.kind ≠ .loop → traps (.mNext f)) ∧
    (at' 0x0CC → (∀ x ∈ e :: r, x.kind ≠ .loop) → traps (.mBrk f)) ∧
    (at' 0x0CF → r ≠ [] → traps (.lEnd f))

/-- O20. Predicate logic, the mask stack and its traps (R316-R319). -/
def Obligations.LaneMasks : Prop :=
  Sys2Proof.Claims.LaneMaskResults ∧ Sys2Proof.Claims.MaskStackTraps

/-- Exchanges give each participating thread another thread's value of A, read before any is written, or C where the
source lies outside the warp (R211, R320); BALLOT packs the participating bits of a predicate into sD, and the votes
write the participating bits of pD (R321). -/
def Sys2Proof.Claims.CrossThreadResults : Prop :=
  ∀ (s : State) (w : Warp) (b : Block) (f : LaneFields) (n : VReg),
    let part := participants w b f
    let k t := w.operand f .n32 t f.opb
    let val (src : Nat → Option Nat) (t : Nat) := match src t with
      | some j => (w.vget n.val j).toNat
      | none => w.operand f .n32 t f.opc
    let goes i src := f.opa = .v n → Claims.LaneWrites i s w b f (val src) fun _ => 0
    let m := w.predOf f.opa &&& part
    let votes i (c : Bool) := ∀ d, f.dest = .p d →
      exec i s = .next (Claims.lanePast s (w.pset d part (if c then BitVec.allOnes 32 else 0)) b)
    (Claims.AtLane s w b 0x100 f → goes (.lxchSel f) fun t => some (k t % 32)) ∧
    (Claims.AtLane s w b 0x101 f → goes (.lxchLag f) fun t => if k t ≤ t then some (t - k t) else none) ∧
    (Claims.AtLane s w b 0x102 f → goes (.lxchLead f) fun t => if t + k t ≤ 31 then some (t + k t) else none) ∧
    (Claims.AtLane s w b 0x103 f → goes (.lxchMir f) fun t => some (t ^^^ (k t % 32))) ∧
    (Claims.AtLane s w b 0x104 f → ∀ d, f.dest = .s d → ¬(d = 62 ∧ m.toNat < w.limit) →
      exec (.ballot f) s = .next (Claims.lanePast s (w.sset d (m.setWidth 64)) b)) ∧
    (Claims.AtLane s w b 0x105 f → votes (.voteAny f) (m != 0)) ∧
    (Claims.AtLane s w b 0x106 f → votes (.voteAll f) (m == part))

/-- Reductions and scans combine the participating threads' values in ascending order (R322-R324): the first stands
for itself, each float step is rounded and raises its flags, an empty reduction writes the identity, SCAN.ADDX gives
each thread the sum of those before it. -/
def Sys2Proof.Claims.ReductionResults : Prop :=
  ∀ (s : State) (w : Warp) (b : Block) (f : LaneFields), b.running = none →
    (f.ty = .f32 → field w.arithCtl 12 8 = 0) →
    let l := threads (participants w b f)
    let step (k : Combine) (a : Option Nat) (t : Nat) := k.step f.ty (w.mode f.rnd) a (Claims.opA w f t)
    let red (k : Combine) := l.foldl (fun (a : Warp × Option Nat) t =>
      (a.1.setFlags (step k a.2 t).2, some ((step k a.2 t).1 % 2 ^ 64))) (w, none)
    let goes i (k : Combine) := ∀ d, f.dest = .s d →
      let x := reduxWord f.ty ((red k).2.getD (k.identity f.ty))
      ¬(d = 62 ∧ x.toNat < w.limit) → exec i s = .next (Claims.lanePast s ((red k).1.sset d x) b)
    let incl i (k : Combine) := exec i s = .next (Claims.lanePast s (l.foldl (fun (a : Warp × Option Nat) t =>
      ((a.1.setFlags (step k a.2 t).2).putDest f t (step k a.2 t).1, some ((step k a.2 t).1 % 2 ^ 64))) (w, none)).1 b)
    let xstep (a : Option Nat) (t : Nat) := if l.all fun i => i ≤ t then (a.getD 0, 0) else step .add a t
    (Claims.AtLane s w b 0x107 f → goes (.reduxAdd f) .add) ∧ (Claims.AtLane s w b 0x108 f → goes (.reduxMin f) .min) ∧
    (Claims.AtLane s w b 0x109 f → goes (.reduxMax f) .max) ∧ (Claims.AtLane s w b 0x10A f → goes (.reduxAnd f) .and) ∧
    (Claims.AtLane s w b 0x10B f → goes (.reduxOr f) .or) ∧ (Claims.AtLane s w b 0x10C f → goes (.reduxXor f) .xor) ∧
    (Claims.AtLane s w b 0x10D f → incl (.scanAdd f) .add) ∧ (Claims.AtLane s w b 0x10F f → incl (.scanMax f) .max) ∧
    (Claims.AtLane s w b 0x10E f → exec (.scanAddx f) s = .next (Claims.lanePast s
      (l.foldl (fun (a : Warp × Option Nat) t => ((a.1.setFlags (xstep a.2 t).2).putDest f t (a.2.getD 0),
        some ((xstep a.2 t).1 % 2 ^ 64))) (w, none)).1 b))

/-- O21. Exchanges, reductions and scans (R320-R324). The model's choices in it: entry 34. -/
def Obligations.CrossThreadAndReductions : Prop :=
  Sys2Proof.Claims.CrossThreadResults ∧ Sys2Proof.Claims.ReductionResults

/-! ### Scratchpad, global memory, atomics and fences (R273-R275, R342-R346) -/

/-- Plain and ordered scratchpad accesses (R273, R274, R342, R343): a load extends what the cell holds as its SIZE says;
a store puts the low bytes of sD there after its release part; misalignment raises ALIGNMENT with the address; a size a
store may not have is ILLEGAL_INSTRUCTION. -/
def Sys2Proof.Claims.ScratchpadAccesses : Prop :=
  ∀ (s : State) (w : Warp) (d a : SReg) (z : MemSize) (off : BitVec 11) (sc : Scope) (o : MemOrd) (c : Nat),
    let n := sizeBytes z
    let va := w.sget a + off.signExtend 64
    let x := extend z (readN s.mem.sp c n)
    (Claims.Issues s w { reads := [a.val], writes := [d.val] } →
      (va.toNat % n = 0 → s.spCell (s.wgOf w) va n = .ok c → s.mem.spPoisoned c n = false →
        Claims.Writes (.lds d a z off) s w d x) ∧
      (va.toNat % n ≠ 0 → Claims.Stops (.lds d a z off) s w (.trap { cause := 0x11, addr := va })) ∧
      (Claims.Quiet s w (Nat.min 3 sc.code) → loadOrdOk o = true → (w.sget a).toNat % n = 0 →
        s.spCell (s.wgOf w) (w.sget a) n = .ok c → s.mem.spPoisoned c n = false → Claims.Writes (.ldOrdSp d a sc o z) s w d x)) ∧
    (Claims.Issues s w { reads := [a.val, d.val] } →
      (storeSizeOk z = true → va.toNat % n = 0 → s.spCell (s.wgOf w) va n = .ok c →
        exec (.sts d a z off) s = .next (s.spStore c n (w.sget d).toNat).advance) ∧
      (storeSizeOk z = true → va.toNat % n ≠ 0 →
        Claims.Stops (.sts d a z off) s w (.trap { cause := 0x11, addr := va })) ∧
      (storeSizeOk z = false → Claims.Stops (.sts d a z off) s w (.trap { cause := 0x01 })) ∧
      (∀ t, Claims.Quiet s w (Nat.min 3 sc.code) → storeOrdOk o = true → storeSizeOk z = true → (w.sget a).toNat % n = 0 →
        s.spCell (s.wgOf w) (w.sget a) n = .ok c → s.release s.cur (s.wgOf w).core (Nat.min 3 sc.code) = .ok t →
        exec (.stOrdSp d a sc o z) s = .next (t.spStore c n (w.sget d).toNat).advance))

/-- What a scratchpad write leaves (R7, R51, R159): the bytes read back, every other byte of scratchpad and every byte
of memory keeps its value, the tags of the granules it touches are clear, and no register changes. -/
def Sys2Proof.Claims.ScratchpadWriteLands : Prop :=
  ∀ (s : State) (c n x : Nat), 0 < n →
    let t := s.spStore c n x
    readN t.mem.sp c n = x % 2 ^ (8 * n) ∧ (∀ a, a < c ∨ c + n ≤ a → Tab.get 0 t.mem.sp a = Tab.get 0 s.mem.sp a) ∧
    t.mem.bytes = s.mem.bytes ∧ (∀ i, c / 16 ≤ i → i * 16 < c + n → Tab.get false t.mem.spTags i = false) ∧
    (∀ i w, s.warp? i = some w → ∃ v, t.warp? i = some v ∧ v = { w with mon := v.mon }) ∧ t.cores = s.cores

/-- O22. Scalar scratchpad accesses and what a scratchpad write leaves (R7, R51, R159, R273, R274, R342, R343). The
model's choices in it: entries 7 and 68. -/
def Obligations.ScratchpadLoadsStores : Prop :=
  Sys2Proof.Claims.ScratchpadAccesses ∧ Sys2Proof.Claims.ScratchpadWriteLands

/-- Plain and ordered loads and stores by address (R273-R275, R343): once the address translates and the access passes
its checks, a load writes the extended value to sD, and a store is performed; an ordered form waits for the queued
blocks, a load's acquire part and a store's release part come after and before. -/
def Sys2Proof.Claims.GlobalAccesses : Prop :=
  ∀ (s p t u : State) (w q v : Warp) (d a : SReg) (z : MemSize) (off : BitVec 11) (sc : Scope) (o : MemOrd) (x : Nat),
    let g := s.wgOf w
    let n := sizeBytes z
    let va := w.sget a + off.signExtend 64
    let put (t : State) := t.setWarp t.cur { v with s := Tab.set 0 v.s d.val (extend z x) }
    t.warp? t.cur = some v → ¬(d = 62 ∧ (extend z x).toNat < v.limit) →
    (Claims.Issues s w { reads := [a.val], writes := [d.val] } →
      (va.toNat % n = 0 → s.gRead s.cur none g false va n = .ok (x, t) →
        exec (.ld d a z off) s = .next (put t).advance) ∧
      (va.toNat % n ≠ 0 → Claims.Stops (.ld d a z off) s w (.trap { cause := 0x11, addr := va })) ∧
      (Claims.Drained s w sc.code p q → loadOrdOk o = true → (w.sget a).toNat % n = 0 →
        p.gRead p.cur none g true (w.sget a) n = .ok (x, t) →
        exec (.ldOrd d a sc o z) s = .next ((put t).acquire g.core sc.code).advance)) ∧
    (Claims.Issues s w { reads := [a.val, d.val] } →
      (storeSizeOk z = true → va.toNat % n = 0 → s.gWrite s.cur none g false va n (w.sget d).toNat = .ok t →
        exec (.st d a z off) s = .next t.advance) ∧
      (storeSizeOk z = false → Claims.Stops (.st d a z off) s w (.trap { cause := 0x01 })) ∧
      (Claims.Drained s w sc.code p q → storeOrdOk o = true → storeSizeOk z = true → (w.sget a).toNat % n = 0 →
        p.precheck g .write .w (w.sget a) n = .ok t → t.release p.cur g.core sc.code = .ok u →
        ∀ r, u.gWrite u.cur none g true (w.sget a) n (w.sget d).toNat = .ok r →
          exec (.stOrd d a sc o z) s = .next r.advance))

/-- The value an atomic writes for the old value and the operands, at 4 or 8 bytes (R344): none where a CAS fails. -/
def Sys2Proof.Claims.AtomicValues : Prop :=
  ∀ (n old x y : Nat), n = 4 ∨ n = 8 → old < 2 ^ (8 * n) → x < 2 ^ (8 * n) →
    let b := BitVec.ofNat (8 * n) old
    let c := BitVec.ofNat (8 * n) x
    atomNew .add n old x y = some (b + c).toNat ∧ atomNew .sub n old x y = some (b - c).toNat ∧
    atomNew .min n old x y = some (if c.slt b then c else b).toNat ∧
    atomNew .max n old x y = some (if b.slt c then c else b).toNat ∧
    atomNew .minn n old x y = some (min old x) ∧ atomNew .maxn n old x y = some (max old x) ∧
    atomNew .and n old x y = some (b &&& c).toNat ∧ atomNew .or n old x y = some (b ||| c).toNat ∧
    atomNew .xor n old x y = some (b ^^^ c).toNat ∧ atomNew .xchg n old x y = some x ∧
    atomNew .cas n old x y = if old = x then some y else none

/-- Atomics to global memory and to scratchpad (R342, R344, R345): the release part, then one indivisible update of the
word by the operation with sD (and the register after it for CAS), the old value into sD, then the acquire part. -/
def Sys2Proof.Claims.AtomicsUpdate : Prop :=
  ∀ (s q p r t u : State) (w x v : Warp) (d a : SReg) (z : MemSize) (sc : Scope) (o : MemOrd) (c old : Nat),
    let g := s.wgOf w
    let n := sizeBytes z
    let f op old := atomNew op n old ((w.sget d).toNat % 2 ^ (8 * n))
      ((w.sget (Fin.ofNat 64 (d.val + 1))).toNat % 2 ^ (8 * n))
    let use op : RegUse := { reads := [a.val, d.val] ++ (if op = .cas then [(d.val + 1) % 64] else []), writes := [d.val] }
    let put (t : State) := t.setWarp t.cur { v with s := Tab.set 0 v.s d.val (BitVec.ofNat 64 old) }
    let legal op := o ≠ .plain ∧ n ∈ [4, 8] ∧ (z = .n32 ∨ z = .n64) ∧ (op = .cas → d ≠ 63) ∧
      (w.sget a).toNat % n = 0 ∧ ¬(d = 62 ∧ old < v.limit) ∧ old < 2 ^ 64
    let glob i op := Claims.Issues s w (use op) → legal op → Claims.Drained s w sc.code q x →
      q.precheck g .atomic .rw (w.sget a) n = .ok p → p.releaseOrd q.cur g.core o sc.code = .ok r →
      r.gAtomic q.cur none g (w.sget a) n (f op) = .ok (old, t) → t.warp? t.cur = some v →
      exec i s = .next ((put t).acquireOrd g.core o sc.code).advance
    let scratch i op := Claims.Issues s w (use op) → legal op → Claims.Quiet s w (Nat.min 3 sc.code) →
      s.spCell g (w.sget a) n = .ok c →
      s.releaseOrd s.cur g.core o (Nat.min 3 sc.code) = .ok r →
      r.spAtomic c n (f op) = .ok (old, u) → u.warp? u.cur = some v → exec i s = .next (put u).advance
    glob (.atomAdd d a sc o z) .add ∧ glob (.atomSub d a sc o z) .sub ∧ glob (.atomMin d a sc o z) .min ∧
    glob (.atomMinn d a sc o z) .minn ∧ glob (.atomMax d a sc o z) .max ∧ glob (.atomMaxn d a sc o z) .maxn ∧
    glob (.atomAnd d a sc o z) .and ∧ glob (.atomOr d a sc o z) .or ∧ glob (.atomXor d a sc o z) .xor ∧
    glob (.atomXchg d a sc o z) .xchg ∧ glob (.atomCas d a sc o z) .cas ∧
    scratch (.atomAddSp d a sc o z) .add ∧ scratch (.atomSubSp d a sc o z) .sub ∧ scratch (.atomMinSp d a sc o z) .min ∧
    scratch (.atomMinnSp d a sc o z) .minn ∧ scratch (.atomMaxSp d a sc o z) .max ∧
    scratch (.atomMaxnSp d a sc o z) .maxn ∧ scratch (.atomAndSp d a sc o z) .and ∧ scratch (.atomOrSp d a sc o z) .or ∧
    scratch (.atomXorSp d a sc o z) .xor ∧ scratch (.atomXchgSp d a sc o z) .xchg ∧ scratch (.atomCasSp d a sc o z) .cas

/-- O23. The value an atomic writes, and its update of memory or scratchpad (R342, R344, R345). -/
def Obligations.Atomics : Prop :=
  Sys2Proof.Claims.AtomicValues ∧ Sys2Proof.Claims.AtomicsUpdate

/-- O24. A write that its home does not hold back reads back byte by byte, and every other byte reads as before, dirty
bytes of an owning slice among them (R57-R61). -/
def Obligations.HomeWriteReadsBack : Prop :=
  ∀ (s : State) (pa n x : Nat), pa % 128 + n ≤ 128 → s.mem.mapCell (pa / 128) = none →
    (∀ c, s.mem.dirOf (pa / 128) ≠ .mapped c) → s.writeHeld (pa / 128) 128 = false →
    let t := s.writePa pa n x
    (∀ i < n, t.mem.byteAt (pa + i) = BitVec.ofNat 8 (x / 2 ^ (8 * i))) ∧
    (∀ a, a < pa ∨ pa + n ≤ a → t.mem.byteAt a = s.mem.byteAt a)

/-- An ordered load that finds its line's home free reads its bytes as the home serves them, no L1 having a copy, and
no register changes; a poisoned sector stops it with MACHINE_CHECK reason POISON_CONSUMED (R55, R76, R343). -/
def Sys2Proof.Claims.OrderedLoadReadsHomes : Prop :=
  ∀ (s u : State) (g : Workgroup) (va : Word) (n : Nat) (t : Trans), g.cert = false →
    s.translate (s.whoOf g) .read .r false va = .ok (t, u) → t.kind.isMem = true → u.mem.l1 = [] →
    u.homeReady (t.pa / 128) (t.copyAt g.core) false = .ok u →
    (u.mem.poisoned t.pa n = false →
      ∃ v, s.gRead s.cur none g true va n = .ok (u.mem.readCoh t.pa n, v) ∧
        ∀ i w, u.warp? i = some w → ∃ m, v.warp? i = some { w with mon := m }) ∧
    (u.mem.poisoned t.pa n = true → s.gRead s.cur none g true va n = .error (.late u poisonConsumed))

/-- O25. Scalar loads and stores by address, plain and ordered (R273-R275, R343). The model's choices in it: entries
10 and 22. -/
def Obligations.GlobalLoadsStores : Prop :=
  Sys2Proof.Claims.GlobalAccesses ∧ Sys2Proof.Claims.OrderedLoadReadsHomes

/-- A fence of a legal order waits for the queued blocks, performs its release part and then its acquire part; an
order it may not have is ILLEGAL_INSTRUCTION (R346). LANE.SYNC waits as a cluster-scope release does, whatever its scope,
and goes on, as does a MON.WAIT with its wake or with nothing armed; one that parks with a timeout may end from the tick at
which its clocks can have passed (R351); QUIESCE.WAIT parks until its cores are idle (R287, R352, R353). -/
def Sys2Proof.Claims.FencesAndWaits : Prop :=
  ∀ (s p t : State) (w q : Warp) (a : SReg) (sc : Scope) (o : MemOrd),
    Claims.Issues s w {} → Claims.Issues s w { reads := [a.val] } →
    (Claims.Drained s w sc.code p q → o = .acq ∨ o = .rel ∨ o = .ar ∨ o = .sc →
      p.releaseOrd p.cur (s.wgOf w).core o sc.code = .ok t →
      exec (.fence sc o) s = .next (t.acquireOrd (s.wgOf w).core o sc.code).advance) ∧
    (o = .plain ∨ o = .rlx → Claims.Stops (.fence sc o) s w (.trap { cause := 0x01 })) ∧
    (Claims.Drained s w 3 p q → exec (.laneSync sc) s = .next (Claims.past p q)) ∧
    (w.blocks ≠ [] → exec (.laneSync sc) s = .next (s.setWarp s.cur { w with park := .laneQueue })) ∧
    (w.mon = none → exec (.monWait a) s = .next (Claims.past s w)) ∧
    (∀ x, w.mon = some { watch := x, hit := true } →
      exec (.monWait a) s = .next (Claims.past s { w with mon := some { watch := x, hit := false } })) ∧
    (∀ x, w.mon = some { watch := x, hit := false } →
      let due := if w.sget a = 0 then none else some (s.tick + (w.sget a).toNat / 3000)
      exec (.monWait a) s = .next (s.setWarp s.cur { w with park := .monitor due })) ∧
    (Claims.Drained s w sc.code p q → sc = .course ∨ sc = .package → (∀ n since, w.park ≠ .quiesce n since) →
      exec (.quiesceWait sc) s = .next (p.setWarp p.cur { q with park := .quiesce sc.code none })) ∧
    (∀ n since, Claims.Drained s w sc.code p q → sc = .course ∨ sc = .package → w.park = .quiesce n since →
      exec (.quiesceWait sc) s = .next (p.setWarp p.cur { q with park := .quiesce n since })) ∧
    (sc ≠ .course → sc ≠ .package → Claims.Stops (.quiesceWait sc) s w (.trap { cause := 0x01 }))

/-- A monitor is armed on the line its address translates to, or on a scratchpad word (R351, R352); a write to the
line, and the two events that end a wait, give the parked warp its wake (R152). -/
def Sys2Proof.Claims.MonitorsWake : Prop :=
  ∀ (s t : State) (w : Warp) (a : SReg) (tr : Trans) (c i : Nat) (v : Warp) (m : Mon),
    (Claims.Issues s w { reads := [a.val] } →
      (s.translate (s.whoOf (s.wgOf w)) .read .r false (w.sget a) = .ok (tr, t) → (s.wgOf w).cert = false →
        t.warp? t.cur = some w → (tr.kind.isMem = true →
          t.homeReady (tr.pa / 128) (clusterOf (s.wgOf w).core) false = .ok t) →
        ∃ u, exec (.monArm a) s = .next u ∧
          u.warp? t.cur = some { w with mon := some { watch := .line (tr.pa / 128), hit := false }, pc := w.pc + 4
                                        park := .run }) ∧
      ((w.sget a).toNat % 4 = 0 → s.spCell (s.wgOf w) (w.sget a) 4 = .ok c →
        exec (.monArmSp a) s = .next (Claims.past s { w with mon := some { watch := .word c, hit := false } }))) ∧
    (s.warp? i = some v → v.mon = some m →
      (∀ l, s.mem.watches l m.watch = true → (s.wakeLine l).warp? i = some { v with mon := some { m with hit := true } }) ∧
      (∀ k at' n x, m.watch = .word k → k < at' + n → at' < k + 4 →
        (s.spStore at' n x).warp? i = some { v with mon := some { m with hit := true } }) ∧
      (∀ b, v.park = .monitor b → exec (.monitorWake i) s = .next (s.setWarp i { v with mon := some { m with hit := true } })) ∧
      (∀ due, v.park = .monitor (some due) → exec (.monTimeout i) s = .next
        (if due ≤ s.tick then s.setWarp i { v with mon := some { m with hit := true } } else s)) ∧
      (v.park = .monitor none → exec (.monTimeout i) s = .next s))

/-- O26. Fences, waits and monitors (R343, R346, R351-R353). The model's choices in it: entries 10 and 16. -/
def Obligations.FencesAndMonitors : Prop :=
  Sys2Proof.Claims.FencesAndWaits ∧ Sys2Proof.Claims.MonitorsWake

/-! ### Sync blocks and barriers (R138, R139, R347-R350) -/

/-- O27. Sync blocks (R138, R139, R347, R348): a release stores its value, or adds it, modulo 2^64, steps the generation and
records scope and releaser; an acquire reads value and generation into sD and the register after it. -/
def Obligations.SyncBlockResults : Prop :=
  ∀ (s q t u : State) (w x v : Warp) (d a : SReg) (sc : Scope) (b : SyncBlk) (l : BlkLoc) (snap : Sig),
    let g := s.wgOf w
    let va := w.sget a
    let rel i sp add := Claims.Issues s w { reads := [a.val, d.val] } → Claims.Drained s w sc.code q x →
      q.blkAt g sp false va sc.code = .ok (b, l, t) → t.releasePart q.cur g.core sc.code = .ok (snap, u) →
      ∃ c, exec i s = .next ((u.blkWrite g.core c l).releaseDone g.core sc.code).advance ∧
        c.value = (if add then b.value + (w.sget d).toNat else (w.sget d).toNat) % 2 ^ 64 ∧
        c.gen = (b.gen + 1) % 2 ^ 64 ∧ c.scope = sc.code ∧ c.releaser = g.core ∧ (sc.code ≤ 3 → c.sig = b.sig)
    let acq i sp := Claims.Issues s w { reads := [a.val], writes := [d.val, d.val + 1] } → d ≠ 63 →
      Claims.Drained s w sc.code q x → q.blkAt g sp true va sc.code = .ok (b, l, t) → t.cur = q.cur →
      t.warp? q.cur = some v → (d = 62 → v.limit ≤ b.value % 2 ^ 64) → (d = 61 → v.limit ≤ b.gen % 2 ^ 64) →
      ∃ u m, exec i s = .next u ∧ u.warp? q.cur = some { v with
        s := Tab.set 0 (Tab.set 0 v.s d.val (BitVec.ofNat 64 b.value)) (d.val + 1) (BitVec.ofNat 64 b.gen)
        pc := v.pc + 4, park := .run, mon := m }
    rel (.rel d a sc) false false ∧ rel (.relAdd d a sc) false true ∧ rel (.relSp d a sc) true false ∧
    rel (.relAddSp d a sc) true true ∧ acq (.acq d a sc) false ∧ acq (.acqSp d a sc) true ∧
    (Claims.Issues s w { reads := [a.val], writes := [63, 64] } →
      Claims.Stops (.acq 63 a sc) s w (.trap { cause := 0x01 }) ∧
      Claims.Stops (.acqSp 63 a sc) s w (.trap { cause := 0x01 }))

/-- Barriers (R349, R350): an arrival records the phase it saw and counts PENDING down; the last one restores PENDING
from EXPECTED, steps PHASE and lets every waiting warp go on. A wait goes on once the word's phase is no longer its
record's, and else parks; BAR.SYNC does both, and only waits when its record says that it has arrived. -/
def Sys2Proof.Claims.BarrierResults : Prop :=
  ∀ (s t u : State) (w : Warp) (a : SReg) (sc : Scope) (c x : Nat) (b : BarWord),
    let va := w.sget a
    let g := s.wgOf w
    Claims.Issues s w { reads := [a.val] } → Claims.Quiet s w sc.code → va.toNat % 8 = 0 → sc.code ≤ 3 → s.spCell g va 8 = .ok c →
    (s.release s.cur g.core sc.code = .ok t → t.spLoad c 8 = .ok x → BarWord.parse x = some b →
      ∃ n : BarWord, (if b.pending = 1 then n = { b with pending := b.expected, phase := (b.phase + 1) % 2 ^ 16 }
          else n = { b with pending := b.pending - 1 }) ∧
        exec (.barArr a sc) s = .next (((t.modWarp s.cur fun w => { w with
          bar := some { cell := c, phase := BitVec.ofNat 16 b.phase, sync := false } }).spStore c 8 n.pack).wakeBarrier c
            n.phase).advance) ∧
    (∀ r, w.bar = some r → r.cell = c → s.spLoad c 8 = .ok x →
      exec (.barWait a sc) s = .next (if x / 2 ^ 48 = r.phase.toNat then s.setWarp s.cur { w with park := .barrier }
        else Claims.past s { w with bar := none }) ∧
      (r.sync = true → exec (.barSync a sc) s =
        .next (if x / 2 ^ 48 = r.phase.toNat then s.setWarp s.cur { w with park := .barrier }
          else Claims.past s { w with bar := none }))) ∧
    ((∀ r, w.bar = some r → r.cell = c → r.sync = false) → s.barArrive g.core c va sc true = .ok t →
      (t.barWait g va sc = .ok u → exec (.barSync a sc) s = .next u.advance) ∧
      (t.barWait g va sc = .error (.park .barrier u) →
        exec (.barSync a sc) s = .next (u.modWarp s.cur fun w => { w with park := .barrier }))) ∧
    (w.bar = none → Claims.Stops (.barWait a sc) s w (.trap { cause := 0x0B, addr := va }))

/-- The phase step of a barrier frees the warps that wait on its old phase, each past its instruction with its record
gone, and leaves every other warp as it was (R350). -/
def Sys2Proof.Claims.BarrierFreesWaiters : Prop :=
  ∀ (s : State) (c n i : Nat) (w : Warp), s.warp? i = some w →
    (s.wakeBarrier c n).warp? i = some (match w.bar with
      | some r => if w.live = true ∧ w.park = .barrier ∧ r.cell = c ∧ r.phase.toNat ≠ n then
          { w with bar := none, pc := w.pc + 4, park := .run } else w
      | none => w)

/-- O28. Barriers and the warps their phase step frees (R139, R349, R350). The model's choices in it: entry 10. -/
def Obligations.Barriers : Prop :=
  Sys2Proof.Claims.BarrierResults ∧ Sys2Proof.Claims.BarrierFreesWaiters

/-! ### Lane accesses (R327-R333, R336-R338) -/

/-- O29. Lane accesses to scratchpad (R327-R331, R342): the threads in ascending order, each at its own address; a load
writes each thread's value, a store each thread's bytes, an atomic updates the word and writes the old value; the
release part of an ordered store or atomic comes before the first, and an acquire part at workgroup or cluster scope
changes nothing. -/
def Obligations.LaneScratchpadAccesses : Prop :=
  ∀ (s : State) (w : Warp) (b : Block) (f : LaneFields) (cell : Nat → Nat),
    let g := s.wgOf w
    let n := f.ty.width / 8
    let l := threads (participants w b f)
    let addr i : Int := (w.operand f .n32 i f.opa : Nat) + signed 29 f.w2.toNat
    let at' op := Claims.AtLane s w b op f ∧ b.seg = 0 ∧ f.ty.width ∈ [8, 16, 32, 64]
    let placed := ∀ i ∈ l, 0 ≤ addr i ∧ addr i < 2 ^ 32 ∧ addr i % n = 0 ∧ s.spCell g (BitVec.ofInt 64 (addr i)) n = .ok (cell i)
    let o := memOrder f
    let goes i rel k := Claims.LaneEach i s l (Claims.laneStart s g rel (Nat.min 3 f.rnd.toNat)) id k
    let atom i k := goes i (releases o) fun u i => do
      let c ← u.laneCell g f (Claims.now u w) i
      let (old, u) ← u.spAtomic c n fun old => laneAtomNew k f.ty old ((Claims.now u w).operand f f.ty i f.opb)
        ((Claims.now u w).operand f f.ty i f.opc)
      return u.modWarp u.cur fun w => w.putDest f i old
    (at' 0x142 → placed → (∀ i ∈ l, s.mem.spPoisoned (cell i) n = false) →
      Claims.LaneWrites (.lLds f) s w b f (fun i => readN s.mem.sp (cell i) n) fun _ => 0) ∧
    (at' 0x143 → memOrder f = .plain → placed → exec (.lSts f) s =
      .next (l.foldl (fun u i => u.spStore (cell i) n (w.operand f f.ty i f.opb)) s).laneAdvance) ∧
    (at' 0x143 → goes (.lSts f) (o != .plain) fun u i => do
      let c ← u.laneCell g f (Claims.now u w) i
      return u.spStore c n ((Claims.now u w).operand f f.ty i f.opb)) ∧
    (at' 0x150 → atom (.lSatomAdd f) .add) ∧ (at' 0x151 → atom (.lSatomMin f) .min) ∧
    (at' 0x152 → atom (.lSatomMax f) .max) ∧ (at' 0x153 → atom (.lSatomAnd f) .and) ∧
    (at' 0x154 → atom (.lSatomOr f) .or) ∧ (at' 0x155 → atom (.lSatomXor f) .xor) ∧
    (at' 0x156 → atom (.lSatomXchg f) .xchg) ∧ (at' 0x157 → atom (.lSatomCas f) .cas)

/-- Lane accesses to global memory and by tensor (R327-R331, R333): the release part of a store or atomic, the threads in
ascending order, each checked for alignment, translated and performed at its own address, then the acquire part of a
load or atomic; a thread that stops leaves the earlier ones performed and the block at that thread. -/
def Sys2Proof.Claims.LaneGlobalAccesses : Prop :=
  ∀ (s : State) (w : Warp) (b : Block) (f : LaneFields),
    let g := s.wgOf w
    let o := memOrder f
    let ord := o != .plain
    let goes op i (rel acq : Bool) (k : LaneFields → Workgroup → Warp → State → Nat → Except Stop State) :=
      Claims.AtLane s w b op f → b.seg = 0 → Claims.LaneEach i s (threads (participants w b f))
        (Claims.laneStart s g rel f.rnd.toNat) (fun u => if acq then u.acquire g.core f.rnd.toNat else u) (k f g w)
    let atom op i k := goes op i (releases o) (acquires o) fun f g w => Claims.laneAtom f g w k
    goes 0x140 (.lLd f) false ord Claims.laneLoad ∧ goes 0x141 (.lSt f) ord false Claims.laneStore ∧
    goes 0x144 (.lLdt f) false ord Claims.laneLoadTensor ∧ goes 0x145 (.lStt f) ord false Claims.laneStoreTensor ∧
    atom 0x148 (.lAtomAdd f) .add ∧ atom 0x149 (.lAtomMin f) .min ∧ atom 0x14A (.lAtomMax f) .max ∧
    atom 0x14B (.lAtomAnd f) .and ∧ atom 0x14C (.lAtomOr f) .or ∧ atom 0x14D (.lAtomXor f) .xor ∧
    atom 0x14E (.lAtomXchg f) .xchg ∧ atom 0x14F (.lAtomCas f) .cas

/-- A misaligned address stops a lane access at its thread with ALIGNMENT naming the thread and the address, before
anything of that thread's access takes effect and with the earlier threads performed; the block keeps its place at
that thread (R298, R300, R328). -/
def Sys2Proof.Claims.LaneMisalignedTraps : Prop :=
  ∀ (s r u : State) (w : Warp) (b : Block) (f : LaneFields) (j : Nat) (e : BitVec 512),
    let g := s.wgOf w
    let n := f.ty.width / 8
    let o := memOrder f
    let l := threads (participants w b f)
    let v := Claims.now u w
    let addr := Claims.laneVa f v j
    let place := teBase e + BitVec.ofNat 64 (v.operand f .n64 j f.opb) + BitVec.ofInt 64 (signed 29 f.w2.toNat)
    j ∈ l → u.mismatch j = false →
    let traps op i rel k (a : Word) := Claims.AtLane s w b op f → b.seg = 0 → Claims.laneStart s g rel f.rnd.toNat r →
      Claims.eachThread (l.filter fun i => decide (i < j)) (k f g w) r = .ok u → a.toNat % n ≠ 0 →
      exec i s = .next (u.laneStop j (.trap { cause := 0x11, addr := a }))
    let atom op i k := traps op i (releases o) (fun f g w => Claims.laneAtom f g w k) addr
    traps 0x140 (.lLd f) false Claims.laneLoad addr ∧ traps 0x141 (.lSt f) (o != .plain) Claims.laneStore addr ∧
    (u.resolve g.ctx (v.operand f .n32 j f.opa) = some e →
      traps 0x144 (.lLdt f) false Claims.laneLoadTensor place ∧
      traps 0x145 (.lStt f) (o != .plain) Claims.laneStoreTensor place) ∧
    atom 0x148 (.lAtomAdd f) .add ∧ atom 0x149 (.lAtomMin f) .min ∧ atom 0x14A (.lAtomMax f) .max ∧
    atom 0x14B (.lAtomAnd f) .and ∧ atom 0x14C (.lAtomOr f) .or ∧ atom 0x14D (.lAtomXor f) .xor ∧
    atom 0x14E (.lAtomXchg f) .xchg ∧ atom 0x14F (.lAtomCas f) .cas

/-- O30. Lane accesses to global memory and by tensor, and the misaligned address (R327-R331, R333, R336-R338). -/
def Obligations.LaneGlobalMemory : Prop :=
  Sys2Proof.Claims.LaneGlobalAccesses ∧ Sys2Proof.Claims.LaneMisalignedTraps

/-- O31. A sweep does one segment a step over scratchpad (R336-R338): with one participating thread, IADD adds the
element at A's segment address to operand B's and stores it at the destination's, and goes on to the next segment
until all are done. The model's choices in it: entry 10. -/
def Obligations.SweepDoesOneSegment : Prop :=
  ∀ (s : State) (w : Warp) (b : Block) (f : LaneFields) (i : Nat) (d a : VReg) (cd ca : Nat),
    let g := s.wgOf w
    let n := (f.ty.width + 7) / 8
    let seg (r : VReg) lo : Int := (w.vget r.val i).toNat + 16 * signed 6 (field f.w2 (lo + 5) lo) * b.seg
    let x := readN s.mem.sp ca n % 2 ^ f.ty.width
    let y := w.operand f f.ty i f.opb
    s.warp? s.cur = some w → w.live = true → w.blocks.head? = some b → b.thread = 0 → b.stopAt = none →
    laneLegal 0x000 f = true → maxReg 0x000 f < 64 * (1 + w.held) → f.sweep = true → participants w b f = BitVec.ofNat 32 (2 ^ i) →
    i < 32 → f.dest = .v d → f.opa = .v a → (∀ k, f.opb ≠ .v k) →
    s.sweepCell g (seg d 12) n = .ok cd → s.sweepCell g (seg a 6) n = .ok ca → s.mem.spPoisoned ca n = false →
    let t := s.spStore cd n (((if f.sat then max (intLo f.ty) (min (intOf f.ty x + intOf f.ty (y % 2 ^ f.ty.width)) (intHi f.ty))
      else intOf f.ty x + intOf f.ty (y % 2 ^ f.ty.width)) % 2 ^ f.ty.width).toNat % 2 ^ f.ty.width)
    exec (.iadd f) s = .next (if b.seg + 1 < field f.w2 31 20 then t.modHead fun b => { b with seg := b.seg + 1, thread := 0, stage := .between }
      else t.laneAdvance)

/-! ### Capabilities and remote access (R159-R169, R332, R354-R357) -/

/-- Capability instructions (R160, R356, R357): CAP.MINT needs a SYS context, a well-formed value, and an ACTIVE peer
entry with an equal LEASE; CAP.BOUND only narrows, CAP.PERM only clears permissions, CAP.MOV copies the tag, and CAP.READ
reads either half or the tag. s63 as the first of a pair is ILLEGAL_INSTRUCTION, and a certified workgroup may use no
capability: every one of these forms, CAP.LD and CAP.ST stops with KILN_ACCESS, reason EGRESS. -/
def Sys2Proof.Claims.CapabilityResults : Prop :=
  ∀ (s : State) (w : Warp) (d a : KReg) (x : SReg) (r : SReg) (n : Fin 64),
    let g := s.wgOf w
    let c := w.kget a
    let m : BitVec 128 := w.sget (Fin.ofNat 64 (x.val + 1)) ++ w.sget x
    let p := s.peer g.part (capPeer m)
    let good := s.ctxSys g.ctx = true ∧ capOk m = true ∧ field p 63 62 = 2 ∧ field p 57 48 = capLease m
    let base := (w.sget x).toNat
    let len := (w.sget (Fin.ofNat 64 (x.val + 1))).toNat % 2 ^ 40
    let within := capBase c ≤ base ∧ base + len ≤ capBase c + capLength c
    (Claims.Issues s w { reads := [63, 64] } → Claims.Stops (.capMint d 63) s w (.trap { cause := 0x01 }) ∧
      Claims.Stops (.capBound d a 63) s w (.trap { cause := 0x01 })) ∧
    (g.cert = true →
      let stops i (va : Word) := Claims.Stops i s w (.trap { cause := 0x0C, reason := 4, addr := va })
      (Claims.Issues s w {} → stops (.capMov d a) 0) ∧
      (Claims.Issues s w { reads := [x.val, x.val + 1] } → x ≠ 63 → stops (.capMint d x) 0 ∧ stops (.capBound d a x) 0) ∧
      (Claims.Issues s w { reads := [x.val] } →
        stops (.capPerm d a x) 0 ∧ stops (.capLd d x) (w.sget x) ∧ stops (.capSt x d) (w.sget x)) ∧
      (Claims.Issues s w { writes := [r.val] } → n.val ≤ 2 → stops (.capRead r a n) 0)) ∧
    (g.cert = false →
    (Claims.Issues s w { reads := [x.val, x.val + 1] } → x ≠ 63 →
      (good → exec (.capMint d x) s = .next (Claims.past s (w.kset d m true))) ∧
      (¬good → Claims.Stops (.capMint d x) s w (.trap { cause := 0x0D, reason := 6 })) ∧
      (w.ktag a = true → within ∧ base < 2 ^ 57 → ∃ k, exec (.capBound d a x) s = .next (Claims.past s (w.kset d k true)) ∧
        capBase k = base ∧ capLength k = len ∧ k.setWidth 31 = c.setWidth 31) ∧
      (w.ktag a = true → ¬(within ∧ base < 2 ^ 57) → Claims.Stops (.capBound d a x) s w (.trap { cause := 0x0D, reason := 5 })) ∧
      (w.ktag a = false → Claims.Stops (.capBound d a x) s w (.trap { cause := 0x0D, reason := 1 }))) ∧
    (Claims.Issues s w { reads := [x.val] } →
      (w.ktag a = true → ∃ k, exec (.capPerm d a x) s = .next (Claims.past s (w.kset d k true)) ∧
        (∀ i, i < 10 ∨ 14 ≤ i → bit k i = bit c i) ∧ (bit k 13 = (bit c 13 && bit (w.sget x) 3)) ∧
        (bit k 12 = (bit c 12 && bit (w.sget x) 2)) ∧ (bit k 11 = (bit c 11 && bit (w.sget x) 1 && bit k 13 && bit k 12)) ∧
        (bit k 10 = (bit c 10 && bit (w.sget x) 0 && bit k 12))) ∧
      (w.ktag a = false → Claims.Stops (.capPerm d a x) s w (.trap { cause := 0x0D, reason := 1 }))) ∧
    (Claims.Issues s w { writes := [r.val] } →
      Claims.Writes (.capRead r a 0) s w r (c.setWidth 64) ∧
      Claims.Writes (.capRead r a 1) s w r ((c >>> 64).setWidth 64) ∧
      Claims.Writes (.capRead r a 2) s w r (if w.ktag a then 1 else 0) ∧
      (2 < n.val → Claims.Stops (.capRead r a n) s w (.trap { cause := 0x01 }))) ∧
    (Claims.Issues s w {} → exec (.capMov d a) s = .next (Claims.past s (w.kset d c (w.ktag a)))))

/-- CAP.LD takes 16 bytes and the tag of its granule into a capability register, CAP.ST stores both, and each needs
an address that is a multiple of 16 (R159, R356). -/
def Sys2Proof.Claims.CapabilityMemory : Prop :=
  ∀ (s t u : State) (w v : Warp) (d : KReg) (a : SReg) (tr : Trans) (x : Nat) (tag : Bool),
    let g := s.wgOf w
    let va := w.sget a
    Claims.Issues s w { reads := [a.val] } → g.cert = false →
    (va.toNat % 16 = 0 → s.translate (s.whoOf g) .read .r false va = .ok (tr, t) →
      t.capLoad t.cur g tr va = .ok (x, tag, u) → u.warp? u.cur = some v →
      exec (.capLd d a) s = .next (Claims.past u (v.kset d (BitVec.ofNat 128 x) tag))) ∧
    (va.toNat % 16 = 0 → s.translate (s.whoOf g) .write .w false va = .ok (tr, t) →
      t.capStore g tr va { bits := w.kget d, tag := w.ktag d } = .ok u → exec (.capSt a d) s = .next u.advance) ∧
    (va.toNat % 16 ≠ 0 → Claims.Stops (.capLd d a) s w (.trap { cause := 0x0D, reason := 7, addr := va }) ∧
      Claims.Stops (.capSt a d) s w (.trap { cause := 0x0D, reason := 7, addr := va }))

/-- O32. Capability instructions, on registers and on memory (R159, R160, R356, R357). -/
def Obligations.Capabilities : Prop :=
  Sys2Proof.Claims.CapabilityResults ∧ Sys2Proof.Claims.CapabilityMemory

/-- A remote load or atomic that no answer has come for is checked and sent once and its warp waits; its answer's data
goes to sD, a reported fault is REMOTE_FAULT with its reason and code (R161-R164, R354, R355). -/
def Sys2Proof.Claims.RemoteAccesses : Prop :=
  ∀ (s : State) (w : Warp) (d a : SReg) (k : KReg) (z : MemSize) (q : RemReq) (x : Word) (reason detail : Nat),
    let n := sizeBytes z
    let g := s.wgOf w
    let c : Cap := { bits := w.kget k, tag := w.ktag k }
    let off : Int := (w.sget a).toNat
    let low (r : SReg) : Word := BitVec.ofNat 64 ((w.sget r).toNat % 2 ^ (8 * n))
    let acc op : RemAcc := { op := op, size := n, x := if op = .load then 0 else low d
                             y := if op = .cas then low (Fin.ofNat 64 (d.val + 1)) else 0 }
    let use op : RegUse :=
      { reads := a.val :: (if op = .load then [] else if op = .cas then [d.val, d.val + 1] else [d.val]), writes := [d.val] }
    let legal op := op = .load ∨ ((z = .n32 ∨ z = .n64) ∧ (op = .cas → d ≠ 63))
    let val op : Word := if op = .load then extend z (x.toNat % 2 ^ (8 * n)) else BitVec.ofNat 64 (x.toNat % 2 ^ (8 * n))
    let goes i op := Claims.Issues s w (use op) → legal op →
      (s.request? s.cur none = some q → q.answer = some (.data x) → ¬(d = 62 ∧ (val op).toNat < w.limit) →
        exec i s = .next (Claims.past { s with fab := { s.fab with remotes := s.fab.remotes.filter fun r => r.id != q.id } }
          { w with s := Tab.set 0 w.s d.val (val op) })) ∧
      (s.request? s.cur none = some q → q.answer = some (.fault reason detail) →
        Claims.Stops i s w (.trap { cause := 0x0F, reason := reason, detail := detail
                                    addr := BitVec.ofInt 64 (capBase c.bits + off) })) ∧
      (s.request? s.cur none = some q → q.answer = none →
        exec i s = .next (s.setWarp s.cur { w with park := .response })) ∧
      (∀ t, s.request? s.cur none = none → s.remoteSend s.cur none g c off (acc op) = .ok t →
        exec i s = .next (t.modWarp s.cur fun w => { w with park := .response }))
    goes (.rld d a k z) .load ∧ goes (.ratomAdd d a k z) .add ∧ goes (.ratomAnd d a k z) .and ∧ goes (.ratomOr d a k z) .or ∧
    goes (.ratomXor d a k z) .xor ∧ goes (.ratomXchg d a k z) .xchg ∧ goes (.ratomCas d a k z) .cas

/-- The checks of a remote access in their order (R161): tag, bounds, permission, alignment, the peer's STATE, its LEASE;
and what is sent carries the capability's peer, target and lease with the exact address. -/
def Sys2Proof.Claims.RemoteChecks : Prop :=
  ∀ (s : State) (wi : Nat) (th : Option Nat) (g : Workgroup) (c : Cap) (x : Int) (r : RemAcc),
    let a := capBase c.bits + x
    let va := BitVec.ofInt 64 a
    let perm := match r.op with | .load => capREAD | _ => capATOM
    let inside := 0 ≤ x ∧ a + r.size ≤ capBase c.bits + capLength c.bits
    let p := s.peer g.part (capPeer c.bits)
    let send := s.remoteSend wi th g c x r
    (g.cert = true → send = .error (.trap { cause := 0x0C, reason := 4, addr := va })) ∧
    (g.cert = false →
      (c.tag = false → send = .error (.trap { cause := 0x0D, reason := 1, addr := va })) ∧
      (c.tag = true → ¬inside → send = .error (.trap { cause := 0x0D, reason := 2, addr := va })) ∧
      (c.tag = true → inside → bit c.bits perm = false → send = .error (.trap { cause := 0x0D, reason := 3, addr := va })) ∧
      (c.tag = true → inside → bit c.bits perm = true →
        (a % r.size ≠ 0 → send = .error (.trap { cause := 0x0D, reason := 7, addr := va })) ∧
        (a % r.size = 0 → field p 63 62 ≠ 2 → send = .error (.trap { cause := 0x0E, addr := va })) ∧
        (a % r.size = 0 → field p 63 62 = 2 → field p 57 48 ≠ capLease c.bits →
          send = .error (.trap { cause := 0x0D, reason := 4, addr := va })) ∧
        (a % r.size = 0 → field p 63 62 = 2 → field p 57 48 = capLease c.bits → s.fab.wcb = [] → s.fab.flights = [] →
          ∃ t, send = .ok t ∧ t.warps = s.warps ∧ t.mem = s.mem ∧ t.outbox = .remote s.fab.nextId (capPeer c.bits)
            (capTarget c.bits) (capLease c.bits) a.toNat r.op r.size r.x r.y :: s.outbox)))

/-- Remote stores (R161, R165, R169): RST merges its bytes into a write-combining entry of its line, a new one where
there is none, and goes on; RST.REL.SYS goes on once its store is answered. -/
def Sys2Proof.Claims.RemoteStores : Prop :=
  ∀ (s p t : State) (w v : Warp) (d a : SReg) (k : KReg) (z : MemSize) (q : RemReq) (x : RemAnswer),
    let n := sizeBytes z
    let g := s.wgOf w
    let c : Cap := { bits := w.kget k, tag := w.ktag k }
    let addr : Nat := capBase c.bits + (w.sget a).toNat
    let o := addr % 128
    Claims.Issues s w { reads := [a.val, d.val] } → storeSizeOk z = true →
    (s.remoteStore g c (w.sget a).toNat n (w.sget d) = .ok t → exec (.rst d a k z) s = .next t.advance) ∧
    (g.cert = false → c.tag = true → addr + n ≤ capBase c.bits + capLength c.bits → bit c.bits 12 = true →
      addr % n = 0 → s.fab.wcb = [] → exec (.rst d a k z) s = .next (Claims.past { s with fab := { s.fab with
        wcb := [{ core := g.core, peer := capPeer c.bits, target := capTarget c.bits, lease := capLease c.bits
                  line := addr / 128, data := mergeLine 0 (lineAt o n (w.sget d).toNat) (byteMask o n)
                  mask := byteMask o n, tick := s.tick, part := g.part, ctx := g.ctx }] } } w)) ∧
    (Claims.Drained s w 6 p v → p.request? p.cur none = some q →
      (q.answer = some x → exec (.rstRelSys d a k z) s =
        .next (Claims.past { p with fab := { p.fab with remotes := p.fab.remotes.filter fun r => r.id != q.id } } v)) ∧
      (q.answer = none → exec (.rstRelSys d a k z) s = .next (p.setWarp p.cur { v with park := .response })))

/-- O33. Remote loads, atomics and stores of the scalar stream and their checks (R161, R165, R169, R354, R355). The
model's choices in it: entries 10 and 41. -/
def Obligations.ScalarRemote : Prop :=
  Sys2Proof.Claims.RemoteAccesses ∧ Sys2Proof.Claims.RemoteChecks ∧ Sys2Proof.Claims.RemoteStores

/-- O34. Lane remote forms (R163, R332): a store merges each thread's bytes in ascending order; a load, all of whose
answers are there, writes each thread's value; an atomic goes one thread at a time. The model's choices in it: entry
10. -/
def Obligations.LaneRemoteAccesses : Prop :=
  ∀ (s t : State) (w : Warp) (b : Block) (f : LaneFields),
    let l := threads (participants w b f)
    let n := f.ty.width / 8
    let g := s.wgOf w
    let k : KReg := Fin.ofNat 8 (field f.w2 28 26)
    let now (u : State) := Claims.now u w
    let cap (w : Warp) : Cap := { bits := w.kget k, tag := w.ktag k }
    let off (w : Warp) i : Int := (w.operand f .n64 i f.opa : Nat) + signed 26 f.w2.toNat
    let low o w i : Word := BitVec.ofNat 64 (Warp.operand w f f.ty i o)
    let each (r : Warp → Nat → RemAcc) (u : State) (i : Nat) : Except Stop State := do
      let (x, v) ← u.remote u.cur (some i) (u.wgOf (now u)) (cap (now u)) (off (now u) i) (r (now u) i)
      return v.modWarp v.cur fun w => w.putDest f i x
    (Claims.AtLane s w b 0x160 f → (∀ i ∈ l, s.request? s.cur (some i) ≠ none) →
      Claims.eachThread l (fun (u : State) i => do
        let (x, v) ← u.remote u.cur (some i) g (cap (now u)) (off (now u) i) { op := .load, size := n }
        return v.modWarp v.cur fun w => w.putDest f i x) s = Except.ok t → exec (.lRld f) s = .next t.laneAdvance) ∧
    (Claims.AtLane s w b 0x161 f → Claims.eachThread l (fun (u : State) i => do
        let v ← u.remoteStore (u.wgOf (now u)) (cap (now u)) (off (now u) i) n (low f.opb (now u) i)
        return v.modWarp v.cur fun w => { w with laneSent := true }) s = Except.ok t → s.cur < s.warps.length → exec (.lRst f) s = .next t.laneAdvance) ∧
    (Claims.AtLane s w b 0x162 f → Claims.eachThread l (each fun w i => { op := .add, size := n, x := low f.opb w i }) s = Except.ok t →
      exec (.lRatomAdd f) s = .next t.laneAdvance) ∧
    (Claims.AtLane s w b 0x163 f → Claims.eachThread l (each fun w i => { op := .cas, size := n, x := low f.opc w i, y := low f.opb w i })
      s = Except.ok t → exec (.lRatomCas f) s = .next t.laneAdvance)

/-! ### Engines, landing words and scratchpad mappings (R358-R373) -/

/-- Posting to an engine (R364, R365, R368, R369): a request read from scratchpad whose sides go by address and whose
landing handle is 0 is queued whole at the end of its queue after a cluster release; a request the rules call malformed is
queued as such; with the queue full the warp waits. -/
def Sys2Proof.Claims.EnginePosts : Prop :=
  ∀ (s t : State) (w : Warp) (a : SReg) (q : Fin 4) (r : BitVec 1024),
    let g := s.wgOf w
    let base : EngOp := { EngOp.blank with core := g.core, q := q.val, req := r, wg := w.wg, ctx := g.ctx, part := g.part
                                           launch := g.launch, cert := g.cert }
    let queuedIn (t : State) (o : EngOp) : State := { t with eng := { t.eng with
      ops := t.eng.ops ++ [{ o with id := t.eng.nextId }], nextId := t.eng.nextId + 1 } }.advance
    let queued := queuedIn t
    let waits i := exec i s = .next (s.setWarp s.cur { w with park := .engine })
    let ones := 2 ^ 64 - 1
    let c : Cap := { bits := w.kget (Fin.ofNat 8 (reqGet r 72 1)), tag := w.ktag (Fin.ofNat 8 (reqGet r 72 1)) }
    let room n := s.queueLen g.core n < queueCap n
    Claims.Issues s w { reads := [a.val] } → g.cert = false → s.release s.cur g.core 3 = .ok t →
    (s.request g (w.sget a) 128 = .ok r → reqGet r 56 8 = 0 →
      (copyBad r = false → srcKind r = 0 → dstKind r = 0 →
        (room q.val → exec (.xferPost a q) s = .next (queued { base with kind := .post })) ∧
        (¬room q.val → waits (.xferPost a q))) ∧
      (copyBad r = true → room q.val →
        exec (.xferPost a q) s = .next (queued { base with kind := .malformed }) ∧
        exec (.xferCond a q) s = .next (queued { base with kind := .malformed })) ∧
      (copyBad r = false → srcKind r = 0 → dstKind r = 0 → rowBytes r * rowCount r ≤ 4096 → s.versionInside g r = false →
        ∀ l u v, reqGet r 72 8 ≠ 0 → s.landing g (BitVec.ofNat 64 (reqGet r 72 8)) 8 .atomic .rw = .ok (l, u) →
        u.queueLen g.core q.val < queueCap q.val → u.release s.cur g.core 3 = .ok v →
        exec (.xferCond a q) s = .next (queuedIn v { base with kind := .cond })) ∧
      (bulkBad r (capBase c.bits) = false → c.tag = true → bit c.bits 12 = true →
        reqGet r 16 8 + reqGet r 104 8 ≤ capLength c.bits → (reqGet r 104 8 ≤ 8192 ∨ bit c.bits 10 = true) →
        reqGet r 88 8 = ones → reqGet r 80 8 = ones → room q.val →
        exec (.xferBulk a q) s = .next (queued { base with kind := .bulk, cap := c.bits })) ∧
      (bulkBad r (capBase c.bits) = true → room q.val →
        exec (.xferBulk a q) s = .next (queued { base with kind := .malformed }))) ∧
    (s.request g (w.sget a) 64 = .ok r → reqGet r 48 8 = 0 →
      (gatherBad r = true → room 4 → exec (.gatherPost a) s = .next (queued { base with kind := .malformed, q := 4 })) ∧
      (gatherBad r = false → reqGet r 56 1 % 2 = 0 → room 4 →
        (∃ x, s.spCell g (BitVec.ofNat 64 (reqGet r 16 4))
          (reqGet r 24 4 * if reqGet r 56 1 / 2 % 2 = 1 then 8 else 4) = .ok x) →
        (∃ x, s.spCell g (BitVec.ofNat 64 (reqGet r 20 4)) (reqGet r 24 4 * reqGet r 28 4) = .ok x) →
        exec (.gatherPost a) s = .next (queued { base with kind := .gather, q := 4 })))

/-- QFENCE puts one fence entry into each queue its mask names and goes on (R371); landing words are initialised, waited
for by phase, and read as STATUS, PENDING, PHASE and SECTORS; the handle 0 raises ALIGNMENT (R359, R363). -/
def Sys2Proof.Claims.FenceAndLandingResults : Prop :=
  ∀ (s t : State) (w : Warp) (d a b : SReg) (m : BitVec 6) (l : LandLoc) (x : LandWord),
    let g := s.wgOf w
    let h := w.sget a
    (Claims.Issues s w {} → w.qfence = none →
      (m = 0 → Claims.Stops (.qfence m) s w (.trap { cause := 0x01 })) ∧
      (m ≠ 0 → (∀ i < 5, bit m i = true → s.queueLen g.core i < queueCap i) → (bit m 5 = true → s.mxLen g.core < 64) →
        exec (.qfence m) s = .next (Claims.past { s with eng := { s.eng with
          ops := s.eng.ops ++ ((List.range 5).filter fun i => bit m i).map fun i => { EngOp.blank with
            id := s.eng.nextId, core := g.core, q := i, kind := .fence m, wg := w.wg, ctx := g.ctx, part := g.part
            launch := g.launch, cert := g.cert }
          mx := s.eng.mx ++ if bit m 5 then [{ MxOp.blank with
            id := s.eng.nextId, core := g.core, kind := .fence m, wg := w.wg, ctx := g.ctx }] else []
          nextId := s.eng.nextId + 1 } } w))) ∧
    (Claims.Issues s w { reads := [a.val, b.val] } → h ≠ 0 →
      (g.cert = false → s.landing g h 16 .atomic .rw = .ok (l, t) → exec (.lwInit a b) s =
        .next (t.landUpdate g.core l fun x => { x with expected := (w.sget b).toNat % 2 ^ 16
                                                       pending := (w.sget b).toNat % 2 ^ 16, sectors := 0
                                                       status := 0 }).advance) ∧
      (s.landLook g h = .ok (x, t) → exec (.lwWait a b) s =
        .next (if x.phase = (w.sget b).toNat % 16 then t.modWarp s.cur fun w => { w with
            park := .landing h ((w.sget b).toNat % 16) }
          else t.advance))) ∧
    (h = 0 → (Claims.Issues s w { reads := [a.val, b.val] } → Claims.Stops (.lwInit a b) s w (.trap { cause := 0x11 }) ∧
      Claims.Stops (.lwWait a b) s w (.trap { cause := 0x11 })) ∧
      (Claims.Issues s w { reads := [a.val], writes := [d.val] } → Claims.Stops (.lwRead d a) s w (.trap { cause := 0x11 }))) ∧
    (Claims.Issues s w { reads := [a.val], writes := [d.val] } → s.landLook g h = .ok (x, t) → t.warp? t.cur = some w →
      t.cur = s.cur →
      let y := BitVec.ofNat 64 (x.status * 2 ^ 48 + x.pending * 2 ^ 32 + x.phase * 2 ^ 28 + min x.sectors 0xFFFFFFF)
      ¬(d = 62 ∧ y.toNat < w.limit) → exec (.lwRead d a) s = .next (Claims.past t { w with s := Tab.set 0 w.s d.val y }))

/-- O35. Posting operations to the engines, QFENCE and landing words (R359, R363-R371). The model's choices in it:
entries 10 and 40. -/
def Obligations.EnginePostsAndLandings : Prop :=
  Sys2Proof.Claims.EnginePosts ∧ Sys2Proof.Claims.FenceAndLandingResults

/-- O36. SP.MAP writes 0 where the rows overlap a mapping of the core or the core's mapping table is full, else the number
of lines mapped, those before a wait among them; SP.UNMAP takes the mapping that begins at its address away, and does
nothing where there is none (R66, R67, R69, R372, R373). -/
def Obligations.ScratchpadMappings : Prop :=
  ∀ (s t : State) (w v : Warp) (d a b : SReg) (n : Nat),
    let g := s.wgOf w
    let va := w.sget a
    let i := w.mapped.getD 0
    let row := field (w.sget b) 31 0
    let count := field (w.sget b) 44 32
    let busy := ∃ m ∈ s.mem.maps, m.core = g.core ∧ m.row < g.cell row + 128 * count ∧
      g.cell row < m.row + 128 * m.lines.length
    let full := 16 ≤ (s.mem.maps.filter fun m => m.core == g.core).length
    let legal := va.toNat % 128 = 0 ∧ row % 128 = 0 ∧ field (w.sget b) 63 45 = 0 ∧ 1 ≤ count ∧ count ≤ 4096 ∧
      row + 128 * count ≤ g.spBytes
    (Claims.Issues s w { reads := [a.val, b.val], writes := [d.val] } → legal → g.cert = false →
      (i = 0 → busy ∨ full → ¬(d = 62 ∧ 0 < w.limit) →
        exec (.spMap d a b) s = .next (Claims.past s { w with s := Tab.set 0 w.s d.val 0, mapped := none })) ∧
      (i = 0 → busy ∨ full → d = 62 → 0 < w.limit → Claims.Stops (.spMap d a b) s w (.trap { cause := 0x04 })) ∧
      (¬(i = 0 ∧ (busy ∨ full)) → s.mapLines w.wg g va.toNat (g.cell row) (count - i) i = .ok (n, t) →
        t.warp? t.cur = some v → ¬(d = 62 ∧ (BitVec.ofNat 64 n).toNat < v.limit) → exec (.spMap d a b) s =
          .next (Claims.past t { v with s := Tab.set 0 v.s d.val (BitVec.ofNat 64 n), mapped := none }))) ∧
    (Claims.Issues s w { reads := [a.val, b.val], writes := [d.val] } → va.toNat % 128 ≠ 0 →
      Claims.Stops (.spMap d a b) s w (.trap { cause := 0x11, addr := va })) ∧
    (Claims.Issues s w { reads := [a.val, b.val], writes := [d.val] } → legal → g.cert = true →
      Claims.Stops (.spMap d a b) s w (.trap { cause := 0x0C, reason := 3, addr := va })) ∧
    (Claims.Issues s w { reads := [a.val] } →
      ((∀ m ∈ s.mem.maps, ¬(m.wg = w.wg ∧ m.va = va.toNat)) → exec (.spUnmap a) s = .next (Claims.past s w)) ∧
      (∀ m r, s.mem.maps = m :: r → m.wg = w.wg → m.va = va.toNat → exec (.spUnmap a) s = .next (s.unmap m).advance))

/-! ### Affine and control registers, lane blocks, holdings, exit (R221, R277-R292, R382-R389) -/

/-- Affine registers (R279, R280): AMOV, ABASE, ASTRIDE and AADD change the base or the stride alone; AREAD and ASREAD give
them back, the stride sign-extended. -/
def Sys2Proof.Claims.AffineResults : Prop :=
  ∀ (s : State) (w : Warp) (d : AReg) (a b r : SReg),
    let set (x : Word) (y : BitVec 32) : Warp := { w with aBase := Tab.set 0 w.aBase d.val x
                                                          aStride := Tab.set 0 w.aStride d.val y }
    let base := Tab.get 0 w.aBase d.val
    let stride := Tab.get 0 w.aStride d.val
    (Claims.Issues s w { reads := [a.val, b.val], aff := [d.val] } →
      exec (.amov d a b) s = .next (Claims.past s (set (w.sget a) ((w.sget b).setWidth 32)))) ∧
    (Claims.Issues s w { reads := [a.val], aff := [d.val] } →
      exec (.abase d a) s = .next (Claims.past s (set (w.sget a) stride)) ∧
      exec (.astride d a) s = .next (Claims.past s (set base ((w.sget a).setWidth 32))) ∧
      exec (.aadd d a) s = .next (Claims.past s (set (base + w.sget a) stride))) ∧
    (Claims.Issues s w { writes := [r.val] } →
      Claims.Writes (.aread r d) s w r base ∧ Claims.Writes (.asread r d) s w r (stride.signExtend 64))

/-- MFCR and MTCR (R200, R281-R285, R382-R389): the registers of the warp and of the workgroup's MX control file read as
they stand; a write clears reserved bits, an illegal modulus, shape or number raises BAD_FORMAT or
ILLEGAL_INSTRUCTION, a tile register past the allocation REG_RANGE, and perf_sel outside a SYS context PRIVILEGED. -/
def Sys2Proof.Claims.ControlRegisterResults : Prop :=
  ∀ (s : State) (w : Warp) (d : SReg) (n : Nat) (c : BitVec 12),
    let g := s.wgOf w
    let x := w.sget d
    let reads (k : BitVec 12) (v : Word) := Claims.Writes (.mfcr d k) s w d v
    let mx k y := exec (.mtcr d (BitVec.ofNat 12 k)) s =
      .next (s.setWg w.wg { s.wg w.wg with mxcr := Tab.set 0 (s.wg w.wg).mxcr k y }).advance
    let stops i cause reason := Claims.Stops i s w (.trap { cause := cause, reason := reason })
    (Claims.Issues s w { writes := [d.val] } →
      reads 0x000 w.wid ∧ reads 0x003 w.laneBase ∧ reads 0x009 w.modQ ∧ reads 0x010 w.stackLim ∧ reads 0x018 w.trapCause ∧
      reads 0x019 w.trapPc ∧ reads 0x01A w.trapLpc ∧ reads 0x01B w.trapAddr ∧ reads 0x01C w.trapVec ∧
      reads 0x001 (BitVec.ofNat 64 (g.core + w.slot * 2 ^ 10 + g.slot * 2 ^ 16)) ∧
      reads 0x030 g.splitFirst ∧ reads 0x031 g.splitEnd ∧ reads 0x032 g.splitFix ∧
      reads 0x101 (BitVec.ofNat 64 (s.tick % 2 ^ 43)) ∧
      (w.blocks = [] → reads 0x008 (w.arithCtl.setWidth 64)) ∧
      (n < 16 → n < g.tiles → reads (BitVec.ofNat 12 (0x040 + n)) (Tab.get 0 g.mxcr (0x040 + n))) ∧
      (n < 4 → n < g.accs → reads (BitVec.ofNat 12 (0x060 + n)) (Tab.get 0 g.mxcr (0x060 + n))) ∧
      (n < 16 → ¬n < g.tiles → stops (.mfcr d (BitVec.ofNat 12 (0x040 + n))) 0x13 3) ∧
      (n < 8 → s.ctxSys g.ctx = false → stops (.mfcr d (BitVec.ofNat 12 (0x810 + n))) 0x12 0) ∧
      (crOf c.toNat = none → stops (.mfcr d c) 0x01 0)) ∧
    (Claims.Issues s w { reads := [d.val] } →
      exec (.mtcr d 0x010) s = .next (Claims.past s { w with stackLim := x &&& ~~~0xF }) ∧
      exec (.mtcr d 0x019) s = .next (Claims.past s { w with trapPc := x &&& ~~~3 }) ∧
      exec (.mtcr d 0x01A) s = .next (Claims.past s { w with trapLpc := x &&& ~~~3, lpcWritten := true }) ∧
      (w.blocks = [] → ∃ y, exec (.mtcr d 0x008) s = .next (Claims.past s { w with arithCtl := y }) ∧
        field y 4 0 = field x 4 0 ∧ field y 12 8 = field x 12 8 ∧
        field y 18 16 = if field x 18 16 ≤ 3 then field x 18 16 else field w.arithCtl 18 16) ∧
      (w.blocks = [] → x = 0 ∨ legalQ x.toNat = true → exec (.mtcr d 0x009) s = .next (Claims.past s { w with modQ := x })) ∧
      (x ≠ 0 → legalQ x.toNat = false → stops (.mtcr d 0x009) 0x10 0) ∧
      (n < g.tiles → n < 16 → shapeOk x = false → stops (.mtcr d (BitVec.ofNat 12 (0x040 + n))) 0x10 0) ∧
      (n < g.tiles → n < 16 → shapeOk x = true → mx (0x040 + n) (x &&& 0x03FFF0FFFFFF000F)) ∧
      (n < g.accs → n < 4 → mx (0x068 + n) x ∧ mx (0x06C + n) x) ∧ mx 0x070 x ∧
      mx 0x071 (Tab.get 0 (s.wg w.wg).mxcr 0x071 &&& ~~~(x &&& 0x1F1E)) ∧
      stops (.mtcr d 0x000) 0x01 0 ∧ stops (.mtcr d 0x01C) 0x01 0)

/-- O37. Affine registers and control registers (R200, R279-R285, R382-R389). The model's choices in it: entries 8 and
33. -/
def Obligations.AffineAndControlRegisters : Prop :=
  Sys2Proof.Claims.AffineResults ∧ Sys2Proof.Claims.ControlRegisterResults

/-- O38. Lane blocks and holdings (R209, R221, R277, R286, R288, R289, R292): LANE.RUN appends a block at lane_base
plus four times its offset, which completes at once where no thread is active and none stands before it, and waits
while the queue is full; REG.GROW queues its request and parks, its grant gives the blocks, zeroed, once they fit in
the pool; REG.SHRINK gives them back, those that an access out or a lane instruction midway may write when it has
ended; EXIT ends the warp once its blocks' accesses are performed; SYS.WBINV goes on once its write-backs are; STK.CHK
traps below the limit; hints change no register. The model's choices in it: entries 10 and 38. -/
def Obligations.WarpResourceResults : Prop :=
  ∀ (s : State) (w : Warp) (a : SReg) (loff : BitVec 20) (n : Fin 4),
    let m : BitVec 32 := (w.sget a).setWidth 32
    let b : Block := { lpc := w.laneBase + BitVec.ofNat 64 (4 * loff.toNat), mask := m, stack := [{ active := m }] }
    let mark (b : Block) : Block := if w.held ≠ 0 ∧ b.stage = .running then { b with owes := true } else b
    let shrunk o : Warp := { w with held := 0, owed := o, queue := w.queue.map mark, hblock := w.hblock.map mark }
    (Claims.Issues s w { reads := [a.val] } →
      (w.active = false → w.queue.length < 16 → (m ≠ 0 ∨ w.queue ≠ []) → (∀ x ∈ w.queue.head?, x.mask ≠ 0) →
        exec (.laneRun a loff) s = .next (Claims.past s { w with queue := w.queue ++ [b] })) ∧
      (w.active = false → 16 ≤ w.queue.length →
        exec (.laneRun a loff) s = .next (s.setWarp s.cur { w with park := .laneQueue })) ∧
      (w.active = true → w.hblock = none → m ≠ 0 →
        exec (.laneRun a loff) s = .next (Claims.past s { w with hblock := some b })) ∧
      (w.active = true → w.hblock ≠ none →
        exec (.laneRun a loff) s = .next (s.setWarp s.cur { w with park := .laneQueue })) ∧
      (m = 0 → (w.active = true ∧ w.hblock = none) ∨ (w.active = false ∧ w.queue = []) →
        exec (.laneRun a loff) s = .next (Claims.past s w)) ∧
      exec (.ipf a) s = .next (Claims.past s w) ∧
      (∃ t v, exec (.pfd a) s = .next t ∧ t.warp? s.cur = some v ∧ v = { w with pc := w.pc + 4, park := .run, mon := v.mon })) ∧
    (Claims.Issues s w { reads := [a.val, 62] } →
      ((w.sget a).toNat + w.limit ≤ (w.sget 62).toNat → exec (.stkChk a) s = .next (Claims.past s w)) ∧
      ((w.sget 62).toNat < (w.sget a).toNat + w.limit → Claims.Stops (.stkChk a) s w (.trap { cause := 0x04 }))) ∧
    (Claims.Issues s w {} →
      (∃ o, exec .regShrink s = .next (Claims.past s (shrunk o)) ∧ (w.held = 0 → o = w.owed) ∧
        (s.regsOut s.cur = [] → (∀ b ∈ w.queue ++ w.hblock.toList, b.owes = false ∧ b.stage ≠ .running) →
          s.blocksOf s.cur (shrunk o) = 0) ∧
        ((s.regsOut s.cur ≠ [] ∨ ∃ b ∈ w.queue ++ w.hblock.toList, b.stage = .running) →
          s.blocksOf s.cur (shrunk o) = s.blocksOf s.cur w)) ∧
      (n = 0 → Claims.Stops (.regGrow n) s w (.trap { cause := 0x01 })) ∧
      (n ≠ 0 → w.held ≠ 0 → Claims.Stops (.regGrow n) s w (.trap { cause := 0x13, reason := 2 })) ∧
      (∀ t, n ≠ 0 → w.held = 0 → (w.growTick = some (t, w.pc) ∨ (t = s.tick ∧ ∀ x, w.growTick ≠ some (x, w.pc))) →
        (∀ x ∈ s.eng.grow, x.2.1 ≠ s.cur) → exec (.regGrow n) s =
          .next ({ s with eng := { s.eng with grow := growInsert (t, s.cur, n.val) s.eng.grow } }.setWarp s.cur
            { w with growTick := some (t, w.pc), park := .grow })) ∧
      (s.ctxSys (s.wgOf w).ctx = true → (s.l1Flush (s.wgOf w).core).writesDone = true →
        exec .sysWbinv s = .next (s.l1Flush (s.wgOf w).core).advance) ∧
      (s.ctxSys (s.wgOf w).ctx = false → Claims.Stops .sysWbinv s w (.trap { cause := 0x12 })) ∧
      (∀ p q, Claims.Drained s w 3 p q → exec .exit s = .next (p.exitWarp p.cur) ∧
        ∃ v, (p.exitWarp p.cur).warp? p.cur = some v ∧ v.live = false) ∧
      (w.blocks ≠ [] → exec .exit s = .next (s.setWarp s.cur { w with park := .laneQueue }))) ∧
    (∀ t i k r v, s.eng.grow = (t, i, k) :: r → s.warp? i = some v → v.park = .grow →
      s.blocksHeld (s.wgOf v).core + k ≤ 128 →
      ∃ u x, exec (.regGrowGrant (s.wgOf v).core) s = .next u ∧ u.warp? i = some x ∧ x.held = k ∧ x.pc = v.pc + 4 ∧ x.park = .run ∧
        (∀ j l, l < 32 → x.vget j l = if j < 64 then v.vget j l else 0) ∧ x.s = v.s)

/-! ### Tensor table, LAUNCH and SYS.MBOX (R293, R295, R379, R380, R414, R415, R477) -/

/-- O39. Tensor table instructions (R379, R380): TT.SET installs a legal image from scratchpad with the slot's next
generation and writes the TID, and refuses an illegal image or slot with BAD_FORMAT; TT.CLR clears VALID; TT.READ copies
the entry to scratchpad; a TID that does not resolve raises STALE_TID in TT.CLR and TT.READ. -/
def Obligations.TensorTableResults : Prop :=
  ∀ (s : State) (w v : Warp) (d a b : SReg) (c x : Nat) (e : BitVec 512),
    let g := s.wgOf w
    let slot := (w.sget a).toNat
    let stops i cause reason addr := Claims.Stops i s w (.trap { cause := cause, reason := reason, addr := addr })
    (Claims.Issues s w { reads := [a.val, b.val], writes := [d.val] } →
      (¬(0 < slot ∧ slot < s.ttSlots g.ctx ∧ slot < 2 ^ 16) → stops (.ttSet d a b) 0x10 0 0) ∧
      (0 < slot → slot < s.ttSlots g.ctx → slot < 2 ^ 16 → (w.sget b).toNat % 64 = 0 → s.spCell g (w.sget b) 64 = .ok c →
        s.spLoad c 64 = .ok x →
        (g.cert = true → stops (.ttSet d a b) 0x0C 3 (w.sget b)) ∧
        (g.cert = false → imageOk (BitVec.ofNat 512 x) = false → stops (.ttSet d a b) 0x10 0 0) ∧
        (g.cert = false → imageOk (BitVec.ofNat 512 x) = true →
          let gen := (teGen (s.ttEntry g.ctx slot) + 1) % 2 ^ 16
          let tid : Word := BitVec.ofNat 64 (gen * 2 ^ 16 + slot)
          let t := s.writePa (s.ttSlot g.ctx slot) 64 (x % 2 ^ 384 + gen * 2 ^ 384 + 2 ^ 400) g.core
          t.warp? t.cur = some v → ¬(d = 62 ∧ tid.toNat < v.limit) →
          exec (.ttSet d a b) s = .next (Claims.past t { v with s := Tab.set 0 v.s d.val tid })))) ∧
    (field (w.sget a) 63 32 ≠ 0 ∨ s.resolve g.ctx slot = none →
      (Claims.Issues s w { reads := [a.val] } → stops (.ttClr a) 0x0A 0 0) ∧
      (Claims.Issues s w { reads := [a.val, b.val] } → stops (.ttRead a b) 0x0A 0 0)) ∧
    (Claims.Issues s w { reads := [a.val] } → field (w.sget a) 63 32 = 0 →
      (s.resolve g.ctx slot = some e → g.cert = true → stops (.ttClr a) 0x0C 3 0) ∧
      (s.resolve g.ctx slot = some e → g.cert = false → exec (.ttClr a) s =
        .next (s.writePa (s.ttSlot g.ctx (slot % 2 ^ 16) + 50) 1 (rec64 e 50 1 / 2 * 2) g.core).advance)) ∧
    (Claims.Issues s w { reads := [a.val, b.val] } → field (w.sget a) 63 32 = 0 → s.resolve g.ctx slot = some e →
      (w.sget b).toNat % 64 = 0 → s.spCell g (w.sget b) 64 = .ok c →
      exec (.ttRead a b) s = .next (s.spStore c 64 e.toNat).advance)

/-- LAUNCH reads a 128-byte record and appends it to the ring of a queue block with room; a host-pushed queue counts it
as rejected, a malformed block takes nothing, and a full ring parks the warp with its record; a certified workgroup
may not launch (R293, R414, R415). -/
def Sys2Proof.Claims.LaunchResults : Prop :=
  ∀ (s p t u v x r k : State) (w y z : Warp) (a b : SReg) (ta tb : Trans) (data : EngData) (q : QBlock),
    let g := s.wgOf w
    Claims.Issues s w { reads := [a.val, b.val] } → Claims.Drained s w 5 p y → (w.sget a).toNat % 512 = 0 →
    (w.sget b).toNat % 128 = 0 →
    (g.cert = true → Claims.Stops (.launch a b) s w (.trap { cause := 0x0C, reason := 3, addr := w.sget a })) ∧
    (g.cert = false → p.translate (p.whoOf g) .atomic .rw false (w.sget a) = .ok (ta, t) →
      t.translate (t.whoOf g) .read .r false (w.sget b) = .ok (tb, u) → u.release u.cur g.core 5 = .ok v →
      (match w.record with
        | some n => data = { len := 128, x := n.toNat } ∧ x = v
        | none => (tb.kind.isMem = true → v.mem.poisoned tb.pa 128 = false) ∧
            v.engReadAt (launchTag v.cur) g.core tb none 128 0 128 {} = (data, x) ∧ data.wait = false) →
      let c := (x.engHostDone (launchTag v.cur)).modWarp x.cur fun w => { w with record := none }
      let slot := q.ring + 128 * (q.tail % 2 ^ q.size)
      (ta.kind.isMem = false → exec (.launch a b) s = .next c.advance) ∧
      (ta.kind.isMem = true → (c.l1DropBlock g.core ta.pa).homesReady ta.pa 512 128 true = .ok r →
        (r.queueBlock ta.pa = none → exec (.launch a b) s = .next r.advance) ∧
        (r.queueBlock ta.pa = some q →
          (q.producer = 1 → exec (.launch a b) s = .next (r.rejectLaunch ta.pa q.rejected).advance) ∧
          (q.producer ≠ 1 → q.tail < q.head + 2 ^ q.size → r.homesReady slot 128 128 true = .ok k →
            exec (.launch a b) s =
              .next (((k.coreWrite g.core ta slot 128 data.x).coreWrite g.core ta ta.pa 8 (q.tail + 1)).advance)) ∧
          (q.producer ≠ 1 → q.head + 2 ^ q.size ≤ q.tail → r.cur = s.cur → r.warp? s.cur = some z → exec (.launch a b) s =
            .next (r.setWarp s.cur { z with record := some (BitVec.ofNat 1024 data.x), park := .ring })))))

/-- SYS.MBOX appends a command block to the device's pending list and writes 0; 1 with sixteen of its partition
unanswered; 2 where the STATUS byte is not 0 or the page is not coherent; outside a SYS context it raises PRIVILEGED
(R295, R477). -/
def Sys2Proof.Claims.MailboxCommandResults : Prop :=
  ∀ (s p t r u : State) (w x v : Warp) (d a : SReg) (ta : Trans),
    let g := s.wgOf w
    Claims.Issues s w { reads := [a.val], writes := [d.val] } →
    (s.ctxSys g.ctx = false → Claims.Stops (.sysMbox d a) s w (.trap { cause := 0x12 })) ∧
    (s.ctxSys g.ctx = true → Claims.Drained s w 5 p x → (w.sget a).toNat % 512 = 0 →
      p.translate (p.whoOf g) .write .w false (w.sget a) = .ok (ta, t) → t.release t.cur g.core 5 = .ok r →
      (if ta.cache = 2 then u = r else r.homesReady ta.pa 512 (clusterOf g.core) false = .ok u) →
      u.warp? u.cur = some v → ¬(d = 62 ∧ v.limit > 0) →
      let answers (u : State) (x : Word) :=
        exec (.sysMbox d a) s = .next (Claims.past u { v with s := Tab.set 0 v.s d.val x })
      let bad := ta.cache = 2 ∨ u.mem.readCoh (ta.pa + 3) 1 ≠ 0
      let mine := (u.unanswered.filter fun p => p.issuer != .host && u.issuerPart p.issuer == u.ctxPart g.ctx).length
      (bad → answers u 2) ∧ (¬bad → 16 ≤ mine → answers u 1) ∧
      (¬bad → mine < 16 → answers { u with host := { u.host with pending := u.host.pending ++ [{
        issuer := .ctx g.ctx, addr := ta.pa, block := BitVec.ofNat 4096 (u.mem.readCoh ta.pa 512) }] } } 0))

/-- O40. LAUNCH and SYS.MBOX (R293, R295, R414, R415, R477). The model's choices in it: entries 23, 45 and 68. -/
def Obligations.LaunchAndMailbox : Prop :=
  Sys2Proof.Claims.LaunchResults ∧ Sys2Proof.Claims.MailboxCommandResults

/-! ### Tile and accumulator instructions, gangs, witness slots (R226-R228, R383-R409) -/

/-- O41. Tensor instructions enter the MX queue of their core in program order with the values taken at issue, after a
cluster release; MX.LDT sets the tile's DESC and modulus, MX.ZERO and MX.MODE the accumulator's mode word (R384-R396);
a register past the allocation raises REG_RANGE, an illegal shape BAD_FORMAT, and a full queue parks the warp. The
model's choices in it: entries 10 and 42. -/
def Obligations.MatrixQueueResults : Prop :=
  ∀ (s t : State) (w : Warp) (d x y : TReg) (c : CReg) (a b : SReg) (n : Fin 64) (e : BitVec 512) (z : Word × Word × Word)
    (cell : Nat),
    let g := s.wgOf w
    let sh := g.mxr (0x040 + d.val)
    let mode (v : Word) (u : State) : State := u.modWg w.wg fun g => g.setMxr (0x060 + c.val) v
    let enters (i : Instr) (o : MxOp) (u : State) : Prop := exec i s = .next { u with eng := { u.eng with
      mx := u.eng.mx ++ [{ o with id := u.eng.nextId, core := g.core, wg := w.wg, ctx := g.ctx, warp := s.cur }]
      nextId := u.eng.nextId + 1 } }.advance
    let full i := exec i s = .next (s.setWarp s.cur { w with park := .engine })
    let row0 := (tileOff e (w.sget b).toNat).1
    let bits := (tileOff e (w.sget b).toNat).2
    let col0 := bits / fmtBits (shFmt sh) * (if teSparse e then 2 else 1)
    let rows := (List.range (shRows sh)).map fun i => rowVa e (row0 + i) (bits / 8)
    let bytes := ((if teSparse e then shCols sh / 2 else shCols sh) * fmtBits (shFmt sh) + 7) / 8
    (Claims.Issues s w {} →
      (¬d.val < g.tiles → Claims.Stops (.mxZeroT d) s w (.trap { cause := 0x13, reason := 3 })) ∧
      (¬c.val < g.accs → Claims.Stops (.mxZeroC c) s w (.trap { cause := 0x13, reason := 3 })) ∧
      (2 ≤ n.val → Claims.Stops (.mxMode c n) s w (.trap { cause := 0x01 })) ∧
      (s.mxLen g.core < 64 → s.release s.cur g.core 3 = .ok t →
        (d.val < g.tiles → enters (.mxZeroT d) { MxOp.blank with kind := .zeroT, d := d.val } t) ∧
        (c.val < g.accs →
          enters (.mxZeroC c) { MxOp.blank with kind := .zeroC, d := c.val }
            (mode (cmodeWord (cMode ((t.wg w.wg).mxr (0x060 + c.val))) 0) t) ∧
          (n.val < 2 → enters (.mxMode c n) { MxOp.blank with kind := .mode, d := c.val }
            (mode (cmodeWord (n.val == 1) 0) t))) ∧
        (mmaCheck g c x y = .ok z →
          enters (.mxMma c x y) { MxOp.blank with kind := .mma, d := c.val, a := x.val, b := y.val, shA := z.1, shB := z.2.1
                                                  mode := z.2.2 }
            (if z.2.2 = 0 then t else mode (cmodeWord true z.2.2.toNat) t))) ∧
      (64 ≤ s.mxLen g.core → d.val < g.tiles → full (.mxZeroT d)) ∧
      (64 ≤ s.mxLen g.core → mmaCheck g c x y = .ok z → full (.mxMma c x y)) ∧
      (∀ e, mmaCheck g c x y = .error e → Claims.Stops (.mxMma c x y) s w e)) ∧
    (Claims.Issues s w { reads := [a.val, b.val] } → s.needTid64 g (w.sget a) = .ok e → d.val < g.tiles →
      (shRows sh = 0 ∨ teFormat e ≠ shFmt sh → Claims.Stops (.mxLdt d a b) s w (.trap { cause := 0x10 })) ∧
      (shRows sh ≠ 0 → teFormat e = shFmt sh → (teSparse e = true → shCols sh % 4 = 0) →
        (fmtBlock (shFmt sh) = true → rec64 e 47 1 / 2 % 4 = shBlock sh) →
        (bits % fmtBits (shFmt sh) ≠ 0 → Claims.Stops (.mxLdt d a b) s w (.trap { cause := 0x11, addr := w.sget b })) ∧
        (bits % fmtBits (shFmt sh) = 0 → (teSparse e = true → col0 % 4 = 0) →
          (fmtBlock (shFmt sh) = true → col0 % teBlock e = 0) →
          s.tileRows g .mxFetch false (teBase e) rows bytes = .ok () → s.mxLen g.core < 64 →
          (s.looks (s.whoOf g) (tileVas (teBase e) rows bytes)).release s.cur g.core 3 = .ok t →
          enters (.mxLdt d a b) { MxOp.blank with kind := .ldt, d := d.val, off := w.sget b, tid := (w.sget a).setWidth 32
                                                  entry := e, shA := sh }
            (t.modWg w.wg fun g =>
              (g.setMxr (0x040 + d.val) (setField (g.mxr (0x040 + d.val)) 31 16 (teDesc e))).setMxr (0x050 + d.val)
                (if shFmt sh = 14 then BitVec.ofNat 64 (teAux e) else 0))))) ∧
    (Claims.Issues s w { reads := [a.val] } → (w.sget a).toNat % 16 = 0 → d.val < g.tiles →
      (shRows sh = 0 → Claims.Stops (.mxLds d a) s w (.trap { cause := 0x10 })) ∧
      (shRows sh ≠ 0 → s.spCell g (w.sget a) (shRows sh * (ldsRow sh + ldsScales sh)) = .ok cell → s.mxLen g.core < 64 →
        s.release s.cur g.core 3 = .ok t →
        enters (.mxLds d a) { MxOp.blank with kind := .lds, d := d.val, off := w.sget a, shA := sh } t))

/-- O42. Gangs (R226-R228, R397, R398): MX.GANG makes the warp a member, dissolving the gang it leaves, and refuses an
index another warp holds; MX.MMAG waits in the latch until the last member arrives, and then queues one multiply and
lets every member go on, its sequence one further; members whose operands differ owe GANG_MISMATCH, and a warp of no
gang GANG_ORPHAN. The model's choices in it: entry 42. -/
def Obligations.GangResults : Prop :=
  ∀ (s u : State) (w : Warp) (gi n m : Fin 64) (c : CReg) (a b : TReg) (z : GangSet) (x : Word × Word × Word),
    let g := s.wgOf w
    let clash := (s.warpsOf w.wg).any fun i => match s.warp? i with
      | some v => i != s.cur && (match v.gang with
        | some y => y.g == gi.val && (y.m == m.val || y.n != n.val)
        | none => false)
      | none => false
    let legal := gi.val ≤ 3 ∧ 2 ≤ n.val ∧ n.val ≤ 6 ∧ m.val < n.val
    let left := match w.gang with
      | some y => s.dissolve w.wg y.g
      | none => s
    Claims.Issues s w {} →
    (¬legal → Claims.Stops (.mxGang gi n m) s w (.trap { cause := 0x01 })) ∧
    (legal → clash = true → Claims.Stops (.mxGang gi n m) s w (.trap { cause := 0x05 })) ∧
    (legal → clash = false → exec (.mxGang gi n m) s = .next (left.modWarp s.cur fun w => { w with
      gang := some { g := gi.val, n := n.val, m := m.val, seq := 0 } }).advance) ∧
    ((∀ y ∈ g.arrivals, y.2.warp ≠ s.cur) →
      (w.gang = none → w.park ≠ .latch → mmaCheck g c a b = .ok x → Claims.Stops (.mxMmag c a b) s w (.trap { cause := 0x06 })) ∧
      (w.gang = some z → mmaCheck g c a b = .ok x →
        let y : Arrival := { warp := s.cur, m := z.m, seq := z.seq, ops := (c.val, a.val, b.val), shapes := x, bad := false }
        let t := (s.modWg w.wg fun g => { g with arrivals := g.arrivals ++ [(z.g, y)] }).modWarp s.cur fun w =>
          { w with park := .latch }
        let l := g.latch z.g ++ [y]
        let here := ∀ v ∈ g.latch z.g, ∃ k, s.warp? v.warp = some k ∧ k.live = true ∧ k.park = .latch
        (l.length < z.n ∨ ¬here → exec (.mxMmag c a b) s = .next t) ∧
        (z.n ≤ l.length → here → (∃ v ∈ l, v.ops ≠ y.ops) → exec (.mxMmag c a b) s =
          .next (t.modWg w.wg fun g => { g with arrivals := g.arrivals.map fun v =>
            if v.1 = z.g then (v.1, { v.2 with bad := true }) else v })) ∧
        (z.n ≤ l.length → here → (∀ v ∈ l, v.ops = y.ops) → t.mxLen (t.wg w.wg).core < 64 →
          t.release s.cur (t.wg w.wg).core 3 = .ok u →
          let q : State := if x.2.2 = 0 then u
            else u.modWg w.wg fun g => g.setMxr (0x060 + c.val) (cmodeWord true x.2.2.toNat)
          let o : MxOp := { MxOp.blank with
            id := q.eng.nextId, core := (t.wg w.wg).core, kind := .mma, wg := w.wg, ctx := (t.wg w.wg).ctx, d := c.val
            a := a.val, b := b.val, shA := x.1, shB := x.2.1, mode := x.2.2, warp := s.cur }
          let r := { q with eng := { q.eng with mx := q.eng.mx ++ [o], nextId := q.eng.nextId + 1 } }.modWg w.wg fun g =>
            { g with arrivals := g.arrivals.filter fun v => v.1 != z.g || v.2.bad }
          exec (.mxMmag c a b) s = .next (l.foldl (fun r v => r.modWarp v.warp fun w =>
            { w with pc := w.pc + 4, park := .run, gang := w.gang.map fun k => { k with seq := k.seq + 1 } }) r))))

/-- O43. MX.DRAIN enters the queue with its snapshots of the entries, dctl, dres, dland, the key and the rounding
mode, its sectors counted into its landing word (R399); its checks raise REG_RANGE, BAD_FORMAT and ALIGNMENT. WIT.SEED
binds a slot for a certified GEMM at issue and enters the queue, and WIT.EMIT enters the queue (R405). The model's
choices in it: entry 42. -/
def Obligations.DrainAndWitnessResults : Prop :=
  ∀ (s t u : State) (w : Warp) (c : CReg) (a b : SReg) (e : BitVec 512) (r : Option (BitVec 512)) (loc : LandLoc)
    (pages : Option (List Nat)) (page : Nat),
    let g := s.wgOf w
    let enters (i : Instr) (o : MxOp) (u : State) : Prop := exec i s = .next { u with eng := { u.eng with
      mx := u.eng.mx ++ [{ o with id := u.eng.nextId, core := g.core, wg := w.wg, ctx := g.ctx, warp := s.cur }]
      nextId := u.eng.nextId + 1 } }.advance
    let k := dctlOf (g.mxr (0x064 + c.val))
    let cm := g.mxr (0x060 + c.val)
    let dres := g.mxr (0x068 + c.val)
    let land := g.mxr (0x06C + c.val)
    let cls := projClass (cMode cm) k
    let slot := g.pslot k.slot
    let row0 := (tileOff e (w.sget b).toNat).1
    let bits := (tileOff e (w.sget b).toNat).2
    let re := r.getD 0
    let rrow := (tileOff re (field dres 63 32)).1
    let rbits := (tileOff re (field dres 63 32)).2
    let width := fmtBits k.out
    let rows := (List.range k.rows).map fun i => rowVa e (row0 + i) (bits / 8)
    let rrows := (List.range k.rows).map fun i => rowVa re (rrow + i) (rbits / 8)
    let rlen := rowLen k.cols (fmtBits (teFormat re))
    let whole := bits % width = 0 ∧ (fmtBlock k.out = true → bits / width % teBlock e = 0)
    let id := s.recordOf g
    (Claims.Issues s w { reads := [a.val, b.val] } →
      (¬c.val < g.accs → Claims.Stops (.mxDrain c a b) s w (.trap { cause := 0x13, reason := 3 })) ∧
      (c.val < g.accs → s.needTid64 g (w.sget a) = .ok e →
        (if k.resid then (s.needTid g (field dres 31 0)).map some else .ok none) = .ok r →
        (drainOk k (g.mxr (0x064 + c.val)) (cMode cm) (cQ cm) e r = false →
          Claims.Stops (.mxDrain c a b) s w (.trap { cause := 0x10 })) ∧
        (drainOk k (g.mxr (0x064 + c.val)) (cMode cm) (cQ cm) e r = true →
          (k.proj = true → slot.issued = 0 ∨ slot.issuedCls = 0 ∨ slot.issuedCls = cls) →
          (¬whole → Claims.Stops (.mxDrain c a b) s w (.trap { cause := 0x11, addr := w.sget b })) ∧
          (whole → (r.isSome = true → rbits % fmtBits (teFormat re) = 0) → land = 0 ∨ field land 31 0 % 16 = 0 →
            (g.cert = true → landIsGlobal land = false) → s.landOpt g land = .ok (loc, t) →
            t.tileRows g .mxDrain true (teBase e) rows (rowLen k.cols width) = .ok () →
            (r.isSome = true → t.tileRows g .mxFetch false (teBase re) rrows rlen = .ok ()) →
            t.projRule g k e = .ok () → t.certDrain g k e dres row0 (bits / width) = .ok () → t.mxLen g.core < 64 →
            (t.looks (t.whoOf g) (tileVas (teBase e) rows (rowLen k.cols width) ++
              if r.isSome then tileVas (teBase re) rrows rlen else [])).release t.cur g.core 3 = .ok u → t.cur = s.cur →
            let v := u.landUpdate g.core loc fun l => l.post (rows.foldl (fun n va => n + sectorsOf va (rowLen k.cols width)) 0)
            enters (.mxDrain c a b) { MxOp.blank with
                kind := .drain, d := c.val, off := w.sget b, tid := (w.sget a).setWidth 32, entry := e
                rtid := BitVec.ofNat 32 (field dres 31 0), rentry := re, mode := cm, dctl := g.mxr (0x064 + c.val), dres := dres
                dland := land, key := g.mxr 0x070, rnd := BitVec.ofNat 3 (if k.rnd = 5 then field w.arithCtl 18 16 else k.rnd) }
              (if k.proj = true ∧ slot.issued ≠ 0 then
                v.modWg w.wg fun g => g.setSlot k.slot { g.pslot k.slot with issuedCls := cls } else v))))) ∧
    (Claims.Issues s w { reads := [a.val] } →
      let x := w.sget a
      (field x 31 1 ≠ 0 → Claims.Stops (.witSeed a) s w (.trap { cause := 0x10 })) ∧
      (field x 31 1 = 0 → g.accs = 0 → Claims.Stops (.witSeed a) s w (.trap { cause := 0x13, reason := 3 })) ∧
      (field x 31 1 = 0 → g.accs ≠ 0 → s.isGemm g = false →
        Claims.Stops (.witSeed a) s w (.trap { cause := 0x0C, reason := kState })) ∧
      (field x 31 1 = 0 → g.accs ≠ 0 → s.isGemm g = true → s.needTid g (field x 63 32) = .ok e →
        s.kilnPages (s.whoOf g) .mxDrain e = .ok pages → s.bindingOf pages = some page → id ≠ 0 →
        kWitness (s.kpage page) = id → s.mxLen g.core < 64 →
        (s.looks (s.whoOf g) (kilnVas e)).release s.cur g.core 3 = .ok t →
        enters (.witSeed a) { MxOp.blank with kind := .seed, d := field x 0 0, off := BitVec.ofNat 64 id }
          (t.modWg w.wg fun g => g.setSlot (field x 0 0) { g.pslot (field x 0 0) with issued := id, issuedCls := 0 })) ∧
      (field x 63 1 ≠ 0 → Claims.Stops (.witEmit a) s w (.trap { cause := 0x10 })) ∧
      (field x 63 1 = 0 → s.mxLen g.core < 64 → s.release s.cur g.core 3 = .ok t →
        enters (.witEmit a) { MxOp.blank with kind := .emit, d := field x 0 0 } t))

/-! ### Events of the lanes, of translation and of the homes (R22, R37-R42, R44, R48, R57-R60, R70-R72, R213, R353) -/

/-- Lanes and quiescence: LANE_GRANT gives one free lane of a core to a warp with a runnable block, and gives none
where 32 are held or no block is runnable (R213); QUIESCE_IDLE times how long every core of its scope has been idle with
none of their writes held at a home, and ends the wait of QUIESCE.WAIT after 2 us at course scope and 5 us at package scope
(R353). -/
def Sys2Proof.Claims.LaneGrantAndQuiesce : Prop :=
  ∀ (s : State) (core i n : Nat) (w : Warp),
    let here (w : Warp) : Bool := w.live && (s.wgOf w).core == core && (s.wgOf w).saved.isNone
    let used := (s.warps.filter fun w => here w && w.lane).length
    let ready (w : Warp) : Bool := here w && !w.lane && !w.blocks.isEmpty && (s.wgOf w).stopping.isNone
    (s.warp? i = some w → ready w = true → (∀ j v, s.warp? j = some v → ready v = true → j ≠ i →
        (s.wgOf w).age * 16 + w.idx < (s.wgOf v).age * 16 + v.idx) → used < 32 →
      exec (.laneGrant core) s = .next (s.setWarp i { w with lane := true })) ∧
    (32 ≤ used ∨ (∀ j v, s.warp? j = some v → ready v = false) → exec (.laneGrant core) s = .next s) ∧
    (∀ since, s.warp? i = some w → w.live = true → w.park = .quiesce n since →
      let idle := (∀ c ∈ s.quiesceCores (s.wgOf w) n, s.coreIdle c = true) ∧ s.quiesceHeld (s.wgOf w) n = false
      let bound := if n = 4 then 2 else 5
      (¬idle → exec (.quiesceIdle i) s = .next (s.setWarp i { w with park := .quiesce n none })) ∧
      (idle → since = none → exec (.quiesceIdle i) s = .next (s.setWarp i { w with park := .quiesce n (some s.tick) })) ∧
      (∀ t, idle → since = some t →
        (t + bound ≤ s.tick → exec (.quiesceIdle i) s =
          .next ((s.acquire (s.wgOf w).core n).modWarp i fun w => { w with pc := w.pc + 4, park := .run })) ∧
        (s.tick < t + bound → exec (.quiesceIdle i) s = .next s)))

/-- Translation at the homes (R22, R26, R37-R39, R44, R48): a walk that succeeds sets A in the entries it used, and D
for a write, and is kept with its lines tracked; one that fails joins its fault entry; an invalidation drops what a die
derived from the line and acknowledges; a write that its home holds is performed when neither a die nor the host is waited
for, nothing else holds it, and the dies concerned can be reached; REPLAY frees the entries its number covers. -/
def Sys2Proof.Claims.TranslationEvents : Prop :=
  ∀ (s : State) (die src ctx hold kind line part : Nat) (tensor : Bool) (va : Word) (t : Trans) (f : WalkFault) (h : HeldWrite)
    (b : RingBlock),
    let who : Who := { ctx := ctx, src := src, hold := hold }
    let walk := s.walk who (kindPerm kind) tensor va
    let free (l : List Nat) := ∀ a ∈ l, s.lineBusy (a / 128) = false
    let near (l : List Nat) := ∀ a ∈ l, s.homeAway (some die) (a / 128) = false
    (die < 11 → s.ctxValid ctx = true →
      (walk = .ok t → free t.used → s.asksAway die who va t = false → exec (.pageWalk die src ctx hold kind tensor va) s =
        .next ((s.markUsed t (kindPerm kind)).cacheWalk die who va t)) ∧
      (walk = .error f → free f.used → near f.used → exec (.pageWalk die src ctx hold kind tensor va) s =
        .next (s.joinFault (who.key (kindOf kind) va) f.reason f.level va)) ∧
      ((walk = .ok t ∧ (¬free t.used ∨ s.asksAway die who va t = true)) ∨
          (walk = .error f ∧ (¬free f.used ∨ ¬near f.used)) →
        exec (.pageWalk die src ctx hold kind tensor va) s = .next s)) ∧
    (die < 11 → s.reaches (s.homeDie line) die = false → exec (.translationInvalidation die line) s = .next s) ∧
    (die < 11 → s.reaches (s.homeDie line) die = true → ∃ t, exec (.translationInvalidation die line) s = .next t ∧ t.mem = s.mem ∧ t.warps = s.warps ∧
      (∀ e, e ∈ t.xlat.tlb ↔ e ∈ s.xlat.tlb ∧ ¬(e.die = die ∧ line ∈ e.lines)) ∧
      (Tab.get 0 t.xlat.tdir line).getLsbD die = false ∧ (∀ h ∈ t.xlat.heldWrites, h.line = line → die ∉ h.waiting)) ∧
    ((s.xlat.heldWrites.find? fun h => h.line == line) = some h →
      let c := h.slice.getD 128
      let ready := h.waiting = [] ∧ (∀ e ∈ s.mem.snoopWait, e.1 ≠ line) ∧ Tab.get 0 s.xlat.tdir line = 0 ∧ line ∉ s.mem.snoop ∧
        s.snoopsReach line c true = true ∧ s.homeAway (askDie c) line = false ∧ (c < 128 → s.roomAwaited c line = false)
      let t := { s with xlat := { s.xlat with heldWrites := s.xlat.heldWrites.erase h } }.performWrite h.slice line h.mask h.data
      (ready → exec (.trackedWritePerform line) s = .next (match h.host with
        | some pa => t.send (.hostWritten pa)
        | none => t)) ∧
      (¬ready → exec (.trackedWritePerform line) s = .next s)) ∧
    (s.ringBlock part = some b → Tab.get 0 s.xlat.replay part ≤ b.replay → exec (.replay part) s =
      .next ((({ s with xlat := { s.xlat with replay := Tab.set 0 s.xlat.replay part b.replay } }).freeFaults fun e =>
        s.ctxPart e.key.ctx == part && (match e.seq with
          | some n => decide (n ≤ b.replay)
          | none => false)).flushAllFaults)) ∧
    (s.ringBlock part = some b → b.replay < Tab.get 0 s.xlat.replay part → exec (.replay part) s = .next s.flushAllFaults)

/-- Requests at a home (R57-R60, R475): a read adds a sharer, ownership makes the cluster the one owner with the former
owner's dirty bytes in memory, a notice or a writeback takes a cluster's copy away; a line the host holds is called
back before ownership is given, and a request waits behind one that is incomplete, while a die between cannot be reached
(R467), and for room at the directory. What a home serves changes by none of
them. -/
def Sys2Proof.Claims.HomeRequests : Prop :=
  ∀ (s : State) (c line victim a : Nat) (vec : Bool) (l : List Nat),
    let dir (t : State) (e : DirEntry) : Prop := t.mem.dirOf line = e ∧ t.mem.byteAt a = s.mem.byteAt a ∧
      ∀ k, k ≠ line → t.mem.dirOf k = s.mem.dirOf k
    let goes (i : Instr) (e : DirEntry) : Prop := ∃ t, exec i s = .next t ∧ dir t e
    let room (i : Instr) (e : DirEntry) : Prop := ∃ t, exec i s = .next t ∧ t.mem.byteAt a = s.mem.byteAt a ∧
      (s.mem.dir.length < 16 → dir t e)
    (c < 128 → s.hasHome line = true → s.lineBusy line = false → s.homeAway (some (clusterDie c)) line = false →
      s.roomAwaited c line = false →
      (s.mem.dirOf line = .uncached → room (.homeRead c line victim) (.shared false [c])) ∧
      (s.mem.dirOf line = .shared vec l → l.contains c = false →
        room (.homeRead c line victim) (.shared (vec || 4 ≤ l.length) (l ++ [c]))) ∧
      (∀ d, s.mem.dirOf line = .owned d → d ≠ c → s.snoopsReach line c false = true →
        room (.homeRead c line victim) (.shared false [d, c])) ∧
      (Tab.get 0 s.xlat.tdir line = 0 →
        ((∀ k, s.mem.dirOf line ≠ .mapped k) → line ∉ s.mem.snoop → s.snoopsReach line c true = true →
          room (.homeOwnership c line victim) (.owned c)) ∧
        (line ∈ s.mem.snoop → exec (.homeOwnership c line victim) s = .next { s.askHost line with
          mem := { s.mem with snoopWait := s.mem.snoopWait ++ [(line, c)] } }))) ∧
    (s.lineBusy line = true → exec (.homeRead c line victim) s = .next s ∧ exec (.homeOwnership c line victim) s = .next s) ∧
    (c < 128 → s.homeAway (some (clusterDie c)) line = true →
      exec (.homeRead c line victim) s = .next s ∧ exec (.homeOwnership c line victim) s = .next s) ∧
    (c < 128 → s.roomAwaited c line = true → exec (.homeRead c line victim) s = .next s ∧
      (line ∉ s.mem.snoop → exec (.homeOwnership c line victim) s = .next s)) ∧
    (s.mem.dirOf line = .owned c → (s.lineBusy line = false → goes (.ownerWriteback c line) .uncached) ∧
      (s.reaches (s.homeCourse line) (clusterDie c) = true → goes (.invalidation c line) .uncached)) ∧
    (s.mem.dirOf line = .shared vec l →
      let left := l.filter fun k => k != c
      let e : DirEntry := if left.isEmpty then .uncached else .shared vec left
      (s.lineBusy line = false → goes (.cleanEvictionNotice c line) e) ∧
      (s.reaches (s.homeCourse line) (clusterDie c) = true → goes (.invalidation c line) e)) ∧
    ((s.mem.snoopWait.find? fun e => e.1 == line) = some (line, c) → c < 128 → s.snoopsReach line c true = true →
      s.homeAway (some (clusterDie c)) line = false → s.roomAwaited c line = false → (∀ k, s.mem.dirOf line ≠ .mapped k) → (∀ h ∈ s.xlat.heldWrites, h.line ≠ line) →
      ∃ t, exec (.bisnpResponse line) s = .next t ∧ t.mem.byteAt a = s.mem.byteAt a ∧
        (s.mem.dir.length < 16 → dir t (.owned c)) ∧ line ∉ t.mem.snoop ∧ t.lineBusy line = false)

/-- O44. Page walks, invalidations, held writes and REPLAY, and requests at a home (R22, R26, R37-R48, R57-R60, R475).
The model's choices in it: entries 22, 43, 56, 61, 62 and 68. -/
def Obligations.TranslationsAndHomes : Prop :=
  Sys2Proof.Claims.TranslationEvents ∧ Sys2Proof.Claims.HomeRequests

/-- Open grains (R70-R72, R352): a core's first plain store to a grain of an interval enters it at its home, and waits
where the home's set is full; a grain that another core has open raises MEMORY_MODEL. A forced close asks the core of
the full set's oldest entry for each of its open grains, which a clear takes away one by one; a waiting registration
is then taken up for the store that waits, and given up where none waits any more. -/
def Sys2Proof.Claims.GrainEvents : Prop :=
  ∀ (s : State) (core c pa grain i : Nat) (va : Word) (w : Warp) (m : Mon),
    let g := pa / 512
    let mine := s.mem.grains.filter fun e => e.core == core
    let waiting := s.mem.grainWait.filter fun e => !(e.1 == core && e.2.1 == g)
    let entered due : State := { s with mem := { s.mem with
      grains := s.mem.grains ++ [{ grain := g, core := core, due := due }], grainWait := waiting } }
    let waits j : State := { s with mem := { s.mem with grainWait := waiting ++ [(core, g, j)] } }
    let request := s.mem.grainWait.find? fun e => e.1 == core && e.2.1 == g
    let parked := ∃ w, s.warp? i = some w ∧ w.live = true ∧ w.park = .response
    let full := 8 ≤ (s.grainSetMates g).length
    (s.grainOwner g = some c → (∀ e ∈ mine, e.closing = false) →
      s.registerGrain core pa va = if c = core then .ok (s.grainSettled core g)
        else .error (.late (s.grainSettled core g) (.trap { cause := 0x03, addr := va }))) ∧
    (s.grainOwner g = none → (∀ e ∈ mine, e.closing = false) → mine.length < 256 →
      (¬full → s.registerGrain core pa va = .ok (entered none)) ∧
      (full → s.registerGrain core pa va = .error (.park .response (waits s.cur)))) ∧
    (request = some (core, g, i) → parked → s.grainOwner g = none →
      exec (.grainRegister core pa) s = .next (if full then waits i else entered (some i))) ∧
    (request = some (core, g, i) → s.grainOwner g = some c ∨ ¬parked →
      exec (.grainRegister core pa) s = .next { s with mem := { s.mem with grainWait := waiting } }) ∧
    (request = none → exec (.grainRegister core pa) s = .next s) ∧
    (s.closeDue core = true → ∃ u, exec (.forcedClose core) s = .next u ∧ u.mem.bytes = s.mem.bytes ∧
      u.mem.grains = s.mem.grains.map (fun e => if e.core = core then { e with closing := true } else e) ∧
      (s.warp? i = some w → w.mon = some m → (s.wg w.wg).core = core →
        u.warp? i = some { w with mon := some { m with hit := true } })) ∧
    (s.closeDue core = false → exec (.forcedClose core) s = .next s) ∧
    (exec (.grainClear core grain) s = .next { s with mem := { s.mem with grains := s.mem.grains.filter fun g =>
      !(g.core == core && g.grain == grain && g.closing) } }) ∧
    (∀ (id : Nat) (x : Word), exec (.hostWindowResponse id x) s = .next { s with fab := { s.fab with
      hostReqs := s.fab.hostReqs.map fun r => if r.id = id ∧ r.answer = none then { r with answer := some x } else r }
        : State }.dropAnswered)

/-- O45. The grant of a lane, quiescence, and open grains (R70-R72, R213, R353). The model's choices in it: entries 1,
16, 30, 56 and 61. -/
def Obligations.LaneAndGrainEvents : Prop :=
  Sys2Proof.Claims.LaneGrantAndQuiesce ∧ Sys2Proof.Claims.GrainEvents

/-! ### Events of the engines and the MX cores (R144, R362, R366-R371, R390-R396, R405, R408) -/

/-- The head of a copy queue (R362, R366, R367, R371): a piece between scratchpad rows moves its bytes up to an 8-byte
boundary of the destination, other pieces move as the engine reads and places them (what is read past a piece to the
source's next such boundary stands with the operation); an operation whose bytes have all moved, or a malformed one, ends
with its arrival in the landing word; a conditional copy whose version word differs from the one it names writes nothing and
ends with COND_FAIL; a fence passes; a bulk request leaves as a send. -/
def Sys2Proof.Claims.CopyQueueEvents : Prop :=
  ∀ (s t u v x y z : State) (core q cs cd old : Nat) (o p : EngOp) (loc ver : LandLoc) (data : List EngData)
    (places : List LandLoc),
    let r := o.req
    let n := rowBytes r
    let k := o.done / n
    let off := o.done % n
    let da : Int := (dstRow r o.dst k + off) % (2 ^ 64 : Int)
    let m := if n - off ≤ 512 then n - off else 512 - (da.toNat + 512) % 8
    let runs := exec (.copyQueueOperation core q) s
    let sa : Int := (srcRow r o.src k + off) % (2 ^ 64 : Int)
    let more := readAhead r sa (srcRow r o.src k) (dstRow r o.dst k) m (n - off - m)
    let pieces := condPieces r o.src o.dst 4096 0
    let ends (o : EngOp) := ∀ st : BitVec 16, st = (if s.staleOp o then o.status ||| stStale else o.status) |||
        (if o.poisoned then stPoison else 0) →
      s.landAt o.wg o.ctx o.core o.land o.who .copyWrite = .ok (loc, t) →
      runs = .next (((t.landUpdate o.core loc fun l => l.arrive st.toNat).lateStatus o.wg o.ctx st.toNat).dropOp o)
    (s.fab.sends.find? fun x => x.core == core && x.q == q && (x.fault.isSome || !x.held.isEmpty)) = none → q < 4 →
    s.headOp core q = some o → o.park = none →
    (o.kind = .post → o.done < rowCount r * n → srcKind r = 1 → dstKind r = 1 → o.land = 0 → o.poisoned = false →
      o.ahead = {} → s.spRow (s.wg o.wg) sa (m + more) = .ok cs →
      s.spRow (s.wg o.wg) da m = .ok cd → s.spPoisonRuns cs (m + more) = [] →
      ∃ u, runs = .next u ∧ u.mem.sp = writeN s.mem.sp cd m (readN s.mem.sp cs m) ∧ u.mem.bytes = s.mem.bytes ∧
        u.eng.ops = s.eng.ops.map fun y => if y.id = o.id ∧ y.q = o.q ∧ y.core = o.core then { o with
          done := o.done + m, keptLine := none
          ahead := if more = 0 then {} else { len := more, x := readN s.mem.sp (cs + m) more } } else y) ∧
    (o.kind = .post → s.copyPiece o = .ok (.more p, t) → runs = .next (t.setOp p)) ∧
    (o.kind = .post → rowCount r * n ≤ o.done → ends o) ∧
    (o.kind = .cond → s.condCopy o = .ok (.more p, t) → runs = .next (t.setOp p)) ∧
    (o.kind = .cond → o.done = 0 → s.landAt o.wg o.ctx o.core o.land o.who .copyWrite = .ok (loc, t) →
      t.condRead o pieces = .ok (data, u) → (∀ d ∈ data, d.wait = false) → u.versionAt o = .ok (ver, v) →
      v.condPlaces o pieces = .ok (places, x) → x.engReady o.id 8 ver = .ok y →
      (y.engHostDone o.id).landRead o.core ver 8 = (old, z) → old ≠ reqGet r 80 8 →
      runs = .next (z.setOp { o with done := 1, status := o.status ||| stCondFail })) ∧
    (o.kind = .cond → o.done ≠ 0 → ends o) ∧
    (o.kind = .malformed → ends { o with status := stMalformed }) ∧
    (∀ x, o.kind = .fence x → runs = .next (s.passFence o.id)) ∧
    (o.kind = .bulk → s.landWaits o.wg o.ctx o.core o.land o.who = false → runs = .next (s.bulkStart o))

/-- The head of a gather queue (R370): an all-ones index writes zeros to its row, an index past the table does so and sets
RANGE, any other copies its row of the table, but for one from the host window in a certified launch (R102); a poisoned
index leaves its row poisoned (entry 40); after the last index the gather ends with its arrival. -/
def Sys2Proof.Claims.GatherEvents : Prop :=
  ∀ (s t : State) (core ci cd : Nat) (o : EngOp) (d : EngData) (loc : LandLoc),
    let r := o.req
    let n := reqGet r 28 4
    let width := if reqGet r 56 1 / 2 % 2 = 1 then 8 else 4
    let tid := reqGet r 56 1 % 2 == 1
    let x := readN s.mem.sp ci width
    let idle := x = 2 ^ (8 * width) - 1
    let base := sideBase (if tid then 2 else 0) (reqGet r 0 8) (reqGet r 8 8) o.src
    let runs := exec (.gatherOperation core) s
    let ops (st : BitVec 16) := s.eng.ops.map fun y =>
      if y.id = o.id ∧ y.q = o.q ∧ y.core = o.core then { o with done := o.done + 1, status := st } else y
    let row (x st) := ∃ u, runs = .next u ∧ u.mem.sp = writeN s.mem.sp cd n x ∧ u.eng.ops = ops st
    s.headOp core 4 = some o → o.park = none →
    (o.kind = .gather → o.land = 0 → o.poisoned = false → o.done < reqGet r 24 4 →
      s.spCell (s.wg o.wg) (BitVec.ofNat 64 (reqGet r 16 4 + o.done * width)) width = .ok ci →
      s.spCell (s.wg o.wg) (BitVec.ofNat 64 (reqGet r 20 4 + o.done * n)) n = .ok cd →
      (s.mem.spPoisoned ci width = true → ∃ u, runs = .next u ∧ u.mem.sp = s.mem.sp ∧ u.eng.ops = ops (o.status ||| stPoison)) ∧
      (s.mem.spPoisoned ci width = false →
        (idle → row 0 o.status) ∧ (¬idle → reqGet r 32 8 ≤ x → row 0 (o.status ||| stRange)) ∧
        (¬idle → x < reqGet r 32 8 → s.engRead o.who o.id o.core .gather tid none
            o.cert (pageParts (rowAddr 0 base (reqInt r 40) x).toNat n) {} = .ok (d, t) → d.wait = false →
          (o.cert = false ∨ d.host = [] → d.poison = [] → ∃ u, runs = .next u ∧ u.mem.sp = writeN t.mem.sp cd d.len d.x) ∧
          (o.cert = true → d.host ≠ [] → ∃ u, runs = .next u ∧ u.mem.sp = t.mem.sp)))) ∧
    (o.kind = .gather → reqGet r 24 4 ≤ o.done → s.landAt o.wg o.ctx o.core o.land o.who .copyWrite = .ok (loc, t) →
      ∀ st : BitVec 16, st = (if s.staleOp o then o.status ||| stStale else o.status) |||
        (if o.poisoned then stPoison else 0) → runs = .next (((t.landUpdate o.core loc fun l => l.arrive st.toNat).lateStatus o.wg o.ctx st.toNat).dropOp o)) ∧
    (∀ x, o.kind = .fence x → runs = .next (s.passFence o.id))

/-- O46. The heads of the copy and gather queues (R362, R366-R371). The model's choices in it: entries 40, 56, 63 and
64. -/
def Obligations.CopyEngineEvents : Prop :=
  Sys2Proof.Claims.CopyQueueEvents ∧ Sys2Proof.Claims.GatherEvents

/-- O47. The head of an MX core's queue (R390-R396, R403, R405, R408): a zero clears its tile or accumulator, an
integer multiply adds to each cell the sum of the products of its row and column, wrapped to 32 bits, a load goes on
row by row, a drain segment by segment, and a seed or an emit acts on its slot; a performed entry leaves the queue
with its status in mx_stat. The model's choices in it: entries 15, 42, 56 and 65. -/
def Obligations.MatrixQueueEvents : Prop :=
  ∀ (s t : State) (core : Nat) (o p : MxOp),
    let g := s.wg o.wg
    let runs := exec (.mxQueueEntry core) s
    let left := s.eng.mx.filter fun x => !(x.id == o.id && x.core == o.core)
    s.headMx core = some o → o.park = none → core < 256 →
    (o.kind = .zeroT → ∃ u, runs = .next u ∧ u.eng.mx = left ∧ u.mem = s.mem ∧
      ∀ i < 32768, Tab.get 0 u.mx.tile (g.tileKey o.d * 32768 + i) = 0) ∧
    (o.kind = .zeroC ∨ o.kind = .mode → ∃ u, runs = .next u ∧ u.eng.mx = left ∧ u.mem = s.mem ∧
      ∀ i j, i < 128 → j < 192 → Tab.get 0 u.mx.acc (g.cellKey o.d i j) = 0) ∧
    (o.kind = .mma → fmtFloat (shFmt o.shA) = false → shFmt o.shA ≠ 14 → shCols o.shB ≤ 192 →
      ∃ u, runs = .next u ∧ u.eng.mx = left ∧ u.mem = s.mem ∧
        ∀ i j, i < shRows o.shA → j < shCols o.shB → u.cell g o.d false i j = truncI 32 (signed 32 (s.cell g o.d false i j) +
          (List.range (shCols o.shA)).foldl (fun (a : Int) k => a + elemInt (shFmt o.shA) o.mode.toNat (s.tileCode g o.a o.shA i k) *
            elemInt (shFmt o.shA) o.mode.toNat (s.tileCode g o.b o.shB k j)) 0)) ∧
    (o.kind = .mma → runs = .next ((s.multiply o).dropMx o)) ∧
    (o.kind = .ldt → (s.ldtRow o = .ok (.more p, t) → runs = .next (t.setMx p)) ∧
      (shRows o.shA ≤ o.done → runs = .next (s.endMx o))) ∧
    (o.kind = .lds → (s.ldsRowLoad o = .ok (.more p, t) → runs = .next (t.setMx p)) ∧
      (shRows o.shA ≤ o.done → runs = .next (s.endMx o))) ∧
    (o.kind = .drain → o.abort = 0 → (s.drainSegment o = .ok (.more p, t) → runs = .next (t.setMx p)) ∧
      (s.drainSegment o = .ok (.finish p, t) → runs = .next (t.endMx p))) ∧
    (o.kind = .seed → runs = .next ((s.bindSlot o).dropMx o)) ∧
    (o.kind = .emit → runs = .next ((s.emitSlot o.wg o.d).dropMx o)) ∧
    (∀ x, o.kind = .fence x → runs = .next (s.passFence o.id))

/-! ### Events of the fabric (R162-R182) -/

/-- What comes back to an issuer (R162-R169, R175): a response or the 15 ms timeout answers the request that waits, an
acknowledgement ends the line write and records REFUSED or LOST, and the write-combining buffer drains entries 2 µs old or
full as masked line writes, or drops one whose peer entry is gone or has another lease, with an error entry. -/
def Sys2Proof.Claims.FabricIssuerEvents : Prop :=
  ∀ (s : State) (id reason detail core code : Nat) (data : Word) (f : Flight) (e : WcEntry),
    let answered (a : RemAnswer) (t : State) : State := { t with fab := { t.fab with remotes := t.fab.remotes.map fun r =>
      if r.id = id ∧ r.answer = none then { r with answer := some a } else r } : State }.dropAnswered
    let due := s.fab.wcb.filter fun e => e.core == core && (decide (e.tick + 2 ≤ s.tick) || e.mask == BitVec.allOnes 128)
    let left := s.fab.wcb.filter fun x => x != e
    let held := field (s.peer e.part e.peer) 63 62
    let lease := field (s.peer e.part e.peer) 57 48
    let unfly : State := { s with fab := { s.fab with flights := s.fab.flights.filter fun g => g.id != id } }
    (s.awaitsAck id = false →
      exec (.remoteResponse id 0 detail data) s = .next (answered (.data data) s) ∧
      (reason ≠ 0 → exec (.remoteResponse id reason detail data) s = .next (answered (.fault reason detail) s)) ∧
      ((∃ r ∈ s.fab.remotes, r.id = id ∧ r.sent + 15000 ≤ s.tick) →
        exec (.remoteTimeout id) s = .next (answered (.fault 4 0) s)) ∧
      ((∀ r ∈ s.fab.remotes, r.id = id → s.tick < r.sent + 15000) → exec (.remoteTimeout id) s = .next s)) ∧
    ((s.fab.flights.find? fun f => f.id == id) = some f →
      exec (.lineWriteAck id 0) s = .next (answered (.data 0) unfly) ∧
      (code ≠ 0 → exec (.lineWriteAck id code) s = .next (answered (.data 0) (unfly.aer f.ctx {
        va := f.line * 128, bytes := f.bytes, peer := f.peer, target := f.target, kind := if code = 1 then 3 else 4 })))) ∧
    (exec (.writeCombiningDrain core) s = .next (s.drainAll due)) ∧
    (due = [e] → s.keyInFlight e = false →
      (held = 2 → lease = e.lease →
        exec (.writeCombiningDrain core) s = .next ({ s with fab := { s.fab with
          wcb := left
          nextId := s.fab.nextId + 1
          flights := s.fab.flights ++ [({ id := s.fab.nextId, core := e.core, peer := e.peer, target := e.target, lease := e.lease
                                          line := e.line, bytes := popCount 128 e.mask.toNat, ctx := e.ctx } : Flight)] } }.send
          (.lineWrite s.fab.nextId e.peer e.target e.lease (e.line * 128) e.data e.mask 0 (Config.plane s.fab.nextId).val))) ∧
      (held ≠ 2 ∨ lease ≠ e.lease →
        exec (.writeCombiningDrain core) s = .next ({ s with fab := { s.fab with
          wcb := left, dropped := s.fab.dropped + 1 } }.aer e.ctx {
            va := e.line * 128, bytes := popCount 128 e.mask.toNat, peer := e.peer, target := e.target
            kind := if held ≠ 2 then 1 else 2 })))

/-- What an IO die does with what arrives (R164, R168, R170-R173): an access whose peer entry or lease does not match is
refused, and one that its line's home holds back waits; a load answers the bytes of the home and an atomic updates them; a
line write is performed, refused and counted, or logged; a checkpoint puts writes off; DONE and the 10 ms timeouts send the
withheld answers. -/
def Sys2Proof.Claims.FabricTargetEvents : Prop :=
  ∀ (s u : State) (id peer part ctx lease va n seq : Nat) (op : RemOp) (x y : Word) (data : BitVec 1024) (mask : BitVec 128)
    (rel : Bool) (t : Trans) (i : InRemote) (l : LogRec) (b : LogBlock) (z : Inbound),
    let access := exec (.inboundRemoteAccess id peer part ctx lease va op n x y) s
    let write := exec (.inboundLineWrite id peer part ctx lease va data mask rel) s
    let die := ioDie id peer
    let line := va / 128 * 128
    let refused := .next ((s.countRefused die 1).send (.writeAck id peer 1))
    (s.accepts ctx peer part lease = false →
      access = .next (s.send (.remoteAnswer id peer (.fault 1 0))) ∧ write = refused) ∧
    (s.accepts ctx peer part lease = true → s.checkpointing = true →
      write = .next s.defer ∧ (op ≠ .load → access = .next s.defer)) ∧
    (s.accepts ctx peer part lease = true → s.checkpointing = false →
      (s.remHeld id peer ctx va op n = some u → access = .next u) ∧
      (s.ioHeld ctx die .write .w line 128 = some u → write = .next u)) ∧
    (s.accepts ctx peer part lease = true → s.checkpointing = false ∨ op = .load → s.remHeld id peer ctx va op n = none →
      s.ioTranslate ctx die (remKind op) (if op = .load then .r else .rw) va = .ok (t, u) →
      let line := t.pa / 128
      let old (u : State) : RemAnswer := .data (BitVec.ofNat 64 (u.mem.readCoh t.pa n))
      (u.mem.poisoned t.pa n = true → access = .next (u.send (.remoteAnswer id peer (.fault 5 0)))) ∧
      (u.mem.poisoned t.pa n = false →
        (op = .load → access = .next ((u.homeLoad line).send (.remoteAnswer id peer (old (u.homeLoad line))))) ∧
        (∀ v, remNew op n ((u.homeTake line).mem.readCoh t.pa n) x y = some v → access =
          .next (((u.homeTake line).writePa t.pa n v).send (.remoteAnswer id peer (old (u.homeTake line))))) ∧
        (op ≠ .load → remNew op n ((u.homeTake line).mem.readCoh t.pa n) x y = none → access =
          .next ((u.homeTake line).send (.remoteAnswer id peer (old (u.homeTake line))))))) ∧
    (s.accepts ctx peer part lease = true → s.checkpointing = false → s.ioHeld ctx die .write .w line 128 = none →
      (s.ioTranslate ctx die .write .w line = .ok (t, u) →
        write = .next ((u.writeLine (t.pa / 128) mask.toNat data.toNat).send (.writeAck id peer 0))) ∧
      (∀ k r lv a, s.ioTranslate ctx die .write .w line = .error (.fault k r lv a) →
        (2 < r → write = refused) ∧
        (r ≤ 2 → s.logBlock (s.ctxPart ctx) = some b → b.head < b.tail + 2 ^ b.log2 →
          (∀ y ∈ s.fab.logWait, s.ctxPart y.ctx ≠ s.ctxPart ctx) → write = .next (s.logWrite (s.ctxPart ctx) b
            { id := id, peer := peer, ctx := ctx, va := line, data := data, mask := mask, kind := rel.toNat, reason := r
              tick := s.tick, bulk := none })))) ∧
    ((s.fab.inRemote.find? fun x => x.id == id && x.peer == peer) = some i →
      let late := ∃ e ∈ s.xlat.faults, e.key = i.key ∧ s.replayLate e = true
      (late → exec (.remoteFaultTimeout id peer) s = .next ({ s with fab := { s.fab with
        inRemote := s.fab.inRemote.filter fun y => y != i } }.send (.remoteAnswer id peer (.fault 3 0)))) ∧
      (¬late → exec (.remoteFaultTimeout id peer) s = .next s)) ∧
    (s.logBlock part = some b → exec (.done part) s = .next (
      let v := (s.fab.logs.filter fun r => r.part == part && decide (r.seq ≤ b.done)).foldl (fun s r => s.ackLog r 0) s
      v.flushLogs (v.fab.logWait.filter fun x => v.ctxPart x.ctx == part))) ∧
    (let v := s.readDone part
      let kept := v.fab.logs.find? fun r => r.part == part && r.seq == seq
      exec (.done part) s = .next v ∧
      (kept = some l → exec (.storeFaultTimeout part seq) s = .next (if l.tick + 10000 ≤ s.tick then v.ackLog l 2 else v)) ∧
      (kept = none → exec (.storeFaultTimeout part seq) s = .next v)) ∧
    (∀ v, s.flushLogs s.fab.logWait = v → (v.fab.logWait.find? fun x => x.id == id && x.peer == peer) = some z →
        exec (.storeFaultLogFullTimeout id peer) s = .next (if z.tick + 10000 ≤ s.tick then
          { v with fab := { v.fab with logWait := v.fab.logWait.filter fun y => y != z } }.ackWrite id peer z.bulk 2 else v))

/-- O48. The fabric at an issuer and at an IO die (R162-R175). The model's choices in it: entries 16, 41, 56 and 64.
-/
def Obligations.FabricEvents : Prop :=
  Sys2Proof.Claims.FabricIssuerEvents ∧ Sys2Proof.Claims.FabricTargetEvents

/-- Events at the sender of a bulk request (R177, R181, R182): a BUSY answer is noted and the request goes again 20 µs
later; a token's lines are read and sent, up to one that the egress filter refuses; acknowledged bytes are counted off the
landing word's sectors; the final acknowledgement arrives in the landing word and ends the send once every byte is
acknowledged, and a final response does so with ORPHANED or REFUSED and an error entry; a landing word whose address faults
parks the send (R44). -/
def Sys2Proof.Claims.BulkSenderEvents : Prop :=
  ∀ (s t : State) (send num off n left tick : Nat) (req : TokenRef) (orphaned : Bool) (x : BulkSend) (d : EngData),
    let y := { x with request := some req.req }
    let z := { x with request := some num, got := addRun (off, n) x.got }
    let told := (s.setSend z).sendSectors z (runBytes x.got) (runBytes z.got)
    let ends i u := exec i s = .next u
    s.bulkSend? send = some x →
    (x.request = none → x.fault = none →
      (x.busy = none → exec (.bulkRequestRetry send) s = .next (s.setSend { x with busy := some s.tick })) ∧
      (x.busy = some tick → tick + 20 ≤ s.tick → s.sendPrefix x = .ok t → exec (.bulkRequestRetry send) s = .next t) ∧
      (∀ k r lv va, x.busy = some tick → tick + 20 ≤ s.tick → s.sendPrefix x = .error (.fault k r lv va) →
        s.endedLaunch x.launch = false →
        exec (.bulkRequestRetry send) s = .next ((s.joinFault k r lv va).setSend { x with fault := some k })) ∧
      (x.busy = some tick → s.tick < tick + 20 → exec (.bulkRequestRetry send) s = .next s)) ∧
    (x.egress = true → ends (.finalAcknowledgement send) (if x.left = 0 then s.dropSend send else s) ∧
      ends (.finalResponse send left orphaned) (s.dropSend send)) ∧
    (x.parked = true ∨ x.egress = true → ends (.tokenArrival send req off n false) (s.setSend y)) ∧
    (x.parked = false → x.egress = false → x.fault = none → x.held = [] → s.sendRead y false off n = .ok (d, t) →
      x.poisoned = false → d.poison = [] →
      (d.kept = [] → d.len ≠ 0 → ends (.tokenArrival send req off n false)
        ((t.setSend y).send (.bulkData x.id (capPeer x.cap) req off d.len (d.bytes 0 d.len) []))) ∧
      (d.kept ≠ [] → d.good ≠ 0 → t.sendReach y = .ok t → ends (.tokenArrival send req off n false)
        (((t.setSend y).send (.bulkData x.id (capPeer x.cap) req off d.good (d.bytes 0 d.good) [])).sendEgress y))) ∧
    (∀ code, code ≠ 0 → ends (.tokenAcknowledgement send num off n code)
      ((s.setSend { x with request := some num }).aer x.ctx {
        va := (capBase x.cap + x.dest + off) / 128 * 128, bytes := n, peer := capPeer x.cap, target := capTarget x.cap
        kind := if code = 1 then 3 else 4 })) ∧
    (s.sendReach x = .ok s →
      ends (.tokenAcknowledgement send num off n 0) (if x.egress = true ∧ z.left = 0 then told.dropSend send else told) ∧
      (x.egress = false →
        ends (.finalAcknowledgement send) (if x.left = 0 then (s.sendArrive x 0).dropSend send
          else (s.sendArrive x 0).setSend { x with egress := true }) ∧
        ends (.finalResponse send left orphaned) ((((s.sendSectors x (runBytes x.got) (x.total - left)).sendArrive x
          (if orphaned then stOrphaned else stRefused)).sendError x left (if orphaned then 5 else 6)).dropSend send))) ∧
    (∀ k r lv va, s.sendReach x = .error (.fault k r lv va) → x.fault ≠ some k → s.endedLaunch x.launch = false →
      let parks := (s.joinFault k r lv va).setSend { x with fault := some k }
      ends (.tokenAcknowledgement send num off n 0) parks ∧
      (x.egress = false → ends (.finalAcknowledgement send) parks ∧ ends (.finalResponse send left orphaned) parks)) ∧
    (∀ p u, s.sendReach x = .error (.park p u) → ends (.tokenAcknowledgement send num off n 0) s ∧
      (x.egress = false → ends (.finalAcknowledgement send) s ∧ ends (.finalResponse send left orphaned) s))

/-- Events at the receiver of bulk requests (R177-R180): a full table answers BUSY; a request that no peer entry admits
is refused with every line of its prefix; an accepted one stands in the table; a grant names at most 16,384 bytes of the
next request in order and at most eight planes; data under the token it names lands and is acknowledged, data of an expired
one is discarded; a token's bytes return 20 µs after its grant; 200 µs of age raise the level; PARK returns the tokens and
RESUME makes the request wait again; 1 ms of silence orphans it. -/
def Sys2Proof.Claims.BulkReceiverEvents : Prop :=
  ∀ (s t : State) (send peer part ctx lease base dest total prio len data num off n : Nat) (req : TokenRef) (flag : Option (Nat × Word))
    (rx : Option Nat) (r : BulkReq) (k : Token) (rest : List (Nat × Nat)),
    let asks := exec (.bulkRequest send peer part ctx lease base dest total prio flag rx len data []) s
    (4096 ≤ s.fab.reqs.length → asks = .next (s.send (.bulkBusy send peer))) ∧
    (s.fab.reqs.length < 4096 → s.accepts ctx peer part lease = false → asks =
      .next ((s.refusePrefix send peer dest (min len (prefixBytes total))).send (.bulkEnd send peer total false))) ∧
    (s.fab.reqs.length < 4096 → s.accepts ctx peer part lease = true → s.checkpointing = true → asks = .next s.defer) ∧
    (s.fab.reqs.length < 4096 → s.accepts ctx peer part lease = true → s.checkpointing = false → len = 0 → 0 < total →
      (∀ q ∈ s.fab.reqs, q.num ≠ s.fab.nextId) → ∃ u q, asks = .next u ∧ u.fab.reqs = s.fab.reqs ++ [q] ∧
        q.num = s.fab.nextId ∧ q.send = send ∧ q.peer = peer ∧ q.left = total ∧ q.level = prio % 4 ∧ q.tokens = [] ∧
        q.state = .waiting) ∧
    (∀ n, (tokenPlanes n).length ≤ 8 ∧ ∀ p ∈ tokenPlanes n, p < 64) ∧
    ((∀ q ∈ s.fab.reqs, q.answered = false) → s.fab.reqs.find? BulkReq.landed = some r →
      exec .tokenGrant s = .next (s.completeReq r)) ∧
    ((∀ q ∈ s.fab.reqs, q.answered = false) → s.fab.reqs.find? BulkReq.landed = none → s.nextReq = some r → s.tokensOut < 256 →
      r.todo = (off, n) :: rest → (pageParts (r.dest + off) (min n 16384)) = [(r.dest + off, min n 16384)] →
      ∀ p, { s with fab := { s.fab with lastPeer := Tab.set 512 s.fab.lastPeer r.level r.peer } }.ioTranslate r.ctx
          r.die .copyWrite .w (r.dest + off) = .ok (p, t) →
        let v := t.free tokenPlanes
        let id := v.2.fab.nextId
        ∃ q, exec .tokenGrant s = .next (({ v.2 with fab := { v.2.fab with nextId := id + 1 } }.setReq q).send
            (.token r.send r.peer ⟨r.num, id⟩ off (min n 16384) v.1)) ∧ q.num = r.num ∧ q.state = .granted ∧
          q.tokens = r.tokens ++ [{ num := id, off := off, len := min n 16384, tick := s.tick, landed := [], planes := v.1 }] ∧
          q.left = r.left) ∧
    (s.bulkReq? req.req = none → exec (.tokenDataLand req off n data []) s = .next (s.discard n)) ∧
    (s.bulkReq? req.req = some r → s.checkpointing = false → r.state ≠ .orphaned →
      ((∀ k ∈ r.tokens, k.num ≠ req.tok) →
        exec (.tokenDataLand req off n data []) s = .next ((s.setReq { r with heard := s.tick }).discard n)) ∧
      (r.tokens = [k] → k.num = req.tok → k.off ≤ off → off + n ≤ k.off + k.len →
        k.landed = [] → n < k.len → n < r.left →
        (s.setReq { r with heard := s.tick }).anyHeldBack r.ctx r.die .copyWrite (pageParts (r.dest + off) n) = none →
        (s.setReq { r with heard := s.tick }).landPages r.ctx r.die { len := n, x := data } (pageParts (r.dest + off) n) 0 = .ok t →
        ∃ q, exec (.tokenDataLand req off n data []) s =
          .next ((t.setReq q).send (.tokenAck r.send r.peer r.num off n 0)) ∧ q.left = r.left - n ∧
          q.tokens = [{ k with landed := [(off, n)] }])) ∧
    (s.bulkReq? num = some r →
      ((r.tokens.find? fun t => t.off == off) = some k → k.tick + 20 ≤ s.tick →
        exec (.tokenExpiry num off) s = .next (s.setReq { (r.expire k) with
          expiries := r.expiries + 1, data := false, second := if r.expiries + 1 = 2 then some s.tick else r.second
          state := if r.live then .waiting else r.state })) ∧
      (r.live = true → 200 ≤ r.ageAt s.tick → exec (.agePromotion num) s =
        .next (s.setReq { r with level := r.level - 1, age := 0, since := s.tick })) ∧
      (r.live = true → exec (.park num) s = .next (s.setReq { (r.tokens.foldl BulkReq.expire r) with
        age := r.ageAt s.tick, heard := s.tick, state := .parked })) ∧
      (r.state = .parked → exec (.resume num) s =
        .next (s.setReq { r with since := s.tick, heard := s.tick, state := .waiting })) ∧
      (r.state = .orphaned → exec (.resume num) s = .next (s.answerOrphan r)) ∧
      (r.live = true → 2 ≤ r.expiries → r.rxLand = none → ∀ w, r.second = some w → w + 1000 ≤ s.tick → r.heard ≤ w →
        exec (.orphan num) s = .next ((s.setReq { (r.tokens.foldl BulkReq.expire r) with
          age := r.ageAt s.tick, state := .orphaned }).aer (r.tokens.foldl BulkReq.expire r).ctx {
            va := (r.tokens.foldl BulkReq.expire r).dest, bytes := (r.tokens.foldl BulkReq.expire r).left
            peer := (r.tokens.foldl BulkReq.expire r).peer, target := (r.tokens.foldl BulkReq.expire r).ctx, kind := 5 })))

/-- O49. Bulk transfers at their sender and their receiver (R177-R182). The model's choices in it: entries 16, 41, 56,
61 and 64. -/
def Obligations.BulkEvents : Prop :=
  Sys2Proof.Claims.BulkSenderEvents ∧ Sys2Proof.Claims.BulkReceiverEvents

/-! ### Events of the scheduler (R413-R432, R505) -/

/-- Taking and opening launches (R415-R418, R420-R423, R505): the next record of a queue becomes a launch with its code
and the slot's STATUS, a malformed block or a TAIL out of range sets the queue's error; a waiting launch whose counter reads
0 and whose header is legal becomes RUNNING, is refused where a check fails, and waits unopened while its header, a tainted
input's tables or room for its record are still to come; a certified one is put off during a checkpoint. -/
def Sys2Proof.Claims.LaunchEvents : Prop :=
  ∀ (s t u : State) (part level num : Nat) (b : QBlock) (l : Launch) (h : BitVec 512) (p : OpenPlan) (c : Nat) (hold : List Nat),
    let k := 8 * part + level
    let q := s.queue k
    let takes := exec (.takeLaunchRecord part level) s
    let opens := exec (.launchOpen num) s
    let place := BitVec.ofNat 64 (lrec l.record 64 8)
    let cert := lrec l.record 61 1 % 2
    (part < 16 → level < 8 → q.block ≠ 0 → q.qerr = 0 →
      (s.mem.poisoned q.block 512 = true ∨ s.queueBlock q.block = none → takes = .next (s.queueError k 2)) ∧
      (s.mem.poisoned q.block 512 = false → s.queueBlock q.block = some b →
        (b.level ≠ level → takes = .next (s.queueError k 2)) ∧
        (b.level = level → (b.tail < q.taken ∨ q.head + 2 ^ b.size < b.tail) → takes = .next (s.queueError k 1)) ∧
        (b.level = level → q.taken < b.tail → b.tail ≤ q.head + 2 ^ b.size → s.launchRoom part = true →
          let q := { q with ring := b.ring, size := b.size, work := b.work, workLog := b.workLog }
          let pa := b.ring + 128 * (q.taken % 2 ^ b.size)
          let r := BitVec.ofNat 1024 (s.mem.readCoh pa 128)
          let code := if s.mem.poisoned pa 128 then 2 else s.recordCode part r
          let l := { newLaunch s.sched.nextLaunch part level r with
            slot := some q.taken, code := code, state := if code = 0 then .waiting else .refused }
          let t := (((s.setQueue k q).addLaunch l).setQueue k { q with taken := q.taken + 1 }).writeQueue k
          takes = .next (if code = 0 then t.storeStatus l.num else t)))) ∧
    (s.launch? num = some l → l.state = .waiting → l.park = none → l.code = 0 → cert = 1 → s.kilnDeferred = true →
      opens = .next s.defer) ∧
    (s.launch? num = some l → l.state = .waiting → l.park = none → l.code = 0 → (cert = 1 → s.kilnDeferred = false) →
      (∀ t, s.waitCounter l = .error t → opens = .next t) ∧
      (s.waitCounter l = .ok t → t.readHeader l = .bad u → opens = .next (u.refuseLaunch num 1)) ∧
      (s.waitCounter l = .ok t → t.readHeader l = .wait u → opens = .next u) ∧
      (s.waitCounter l = .ok t → t.readHeader l = .got h u →
        (headerOk h l.record = false → opens = .next (u.refuseLaunch num 1)) ∧
        (headerOk h l.record = true → (List.range 64).any (u.admits l.part place) = false →
          opens = .next (u.refuseLaunch num 4)) ∧
        (headerOk h l.record = true → (List.range 64).any (u.admits l.part place) = true →
          (cert = 0 → opens = .next (u.runLaunch num h (u.placeBits l.part place fun _ => true))) ∧
          (cert = 1 → u.certChecks l h = .error (.refuse c) → opens = .next ((u.openLooks l.record h
            (((recTids l.record).1 ++ (recTids l.record).2).filterMap (u.resolve (recCtx l.record)))).refuseLaunch num c)) ∧
          (cert = 1 → u.certChecks l h = .error (.wait hold) → opens = .next (u.modLaunch num fun l => { l with hold := hold })) ∧
          (cert = 1 → u.certChecks l h = .ok p → opens = .next
            (((u.modLaunch num fun l => { l with header := h }).commitOpen num p 0 0).runLaunch num h
              ((u.modLaunch num fun l => { l with header := h }).placeBits l.part place fun n => n / 16 == p.course))))))

/-- Work records and placement (R224, R425, R426): a running launch's next unit goes into the work ring while there is
space; a core with room takes the record picked for it and starts the workgroup's warps at ENTRY with the frame
address in s0 and every other scalar register but s62 zero. -/
def Sys2Proof.Claims.PlacementEvents : Prop :=
  ∀ (s : State) (num core o : Nat) (l : Launch) (r : WorkRec),
    let q := s.queue l.queue
    let k := l.unit
    let next := s.modLaunch num fun l => { l with nextOrd := l.nextOrd + k }
    let rec' (ring : Option Nat) : WorkRec := { part := l.part, level := l.level, launch := num, queue := l.queue, ring := ring
                                                ordinals := (List.range k).map fun i => l.nextOrd + i, resume := [], tick := s.tick }
    let add (s : State) (r : WorkRec) : State := { s with sched := { s.sched with work := s.sched.work ++ [r] } }
    (s.launch? num = some l → l.state = .running → l.code = 0 → l.nextOrd < l.count →
      (q.block = 0 → exec (.workRecordWrite num) s = .next (add next (rec' none))) ∧
      (q.block ≠ 0 → q.written + k ≤ s.oldestWork l.queue + 2 ^ q.workLog → exec (.workRecordWrite num) s =
        .next (add (((List.range k).foldl (fun s i =>
          s.writePa (q.work + 32 * ((q.written + i) % 2 ^ q.workLog)) 32 (workImage l (l.nextOrd + i))) next).setQueue l.queue
            { q with written := q.written + k }) (rec' (some q.written))))) ∧
    (core < 256 → s.pick core = some r → s.launch? r.launch = some l → r.resume = [] →
      (s.workIntact l r = false → exec (.placeWorkgroup core) s = .next (s.queueError r.queue 2)) ∧
      (s.workIntact l r = true → exec (.placeWorkgroup core) s =
        .next (((unitCores r.ordinals.length core).zip r.ordinals).foldl (fun s e => s.startWg l e.2 e.1) (s.dropWork r))) ∧
      (s.workIntact l r = true → r.ordinals = [o] → ∃ t, exec (.placeWorkgroup core) s = .next t ∧
        t.warps.length = s.warps.length + hdrWarps l.header ∧ (t.wg s.wgs.length).core = core ∧
        (t.wg s.wgs.length).launch = l.num ∧ (t.wg s.wgs.length).live = true ∧
        ∀ j < hdrWarps l.header, ∃ w, t.warp? (s.warps.length + j) = some w ∧ w.live = true ∧ w.wg = s.wgs.length ∧ w.idx = j ∧
          w.pc = BitVec.ofNat 64 (hdr l.header 0 8) ∧ w.sget 0 = BitVec.ofNat 64 (lrec l.record 8 8) ∧ w.queue = [] ∧
          (∀ i : SReg, i ≠ 0 → i ≠ 62 → w.sget i = 0) ∧ ∀ r n, n < 32 → w.vget r n = 0))

/-- O50. Launches taken and opened, work records and placement (R224, R415-R426, R505). The model's choices in it:
entries 7, 45, 46, 56, 66 and 67. -/
def Obligations.LaunchAndPlacementEvents : Prop :=
  Sys2Proof.Claims.LaunchEvents ∧ Sys2Proof.Claims.PlacementEvents

/-- O51. Completion and pre-emption (R95, R97, R423, R424, R429-R432): a finished launch whose held frames no cached
translation names is released, sealed, its held frames dropped, its STATUS stored and its counters signalled, past a
decrement that was parked when its context ended; a record that has waited beyond PREEMPT_US stops the preferred
choice of workgroups; a stopped workgroup that can be saved is saved with a resume record; a core with room restores
one. The model's choices in it: entries 45, 46, 47 and 56. -/
def Obligations.CompletionEvents : Prop :=
  ∀ (s t : State) (num core i n : Nat) (l : Launch) (r : WorkRec) (gone : List Nat),
    let ended := l.state = .refused ∨ (l.state = .waiting ∧ l.code ≠ 0) ∨
      (l.state = .running ∧ s.launchQuiet l = true ∧ l.count ≤ l.nextOrd)
    let us := field (Tab.get 0 s.sched.cfg (16 * r.part)) 15 0
    let some' := (List.range 256).filter (s.admissible r)
    let best := (s.choices r).foldl (fun (b : Option (List Nat)) l => match b with
      | none => some l
      | some x => if s.betterChoice l x then some l else some x) none
    let held := (s.xlat.heldBy.filter fun e => e.2 == num + 1).map fun e => e.1
    (s.launch? num = some l → l.park = none → l.step = 0 → (l.witness ≠ none ∨ l.kernelOf ≠ none) → s.kilnDeferred = true →
      exec (.launchComplete num) s = .next s.defer) ∧
    (s.launch? num = some l → l.park = none → (l.witness = none ∧ l.kernelOf = none ∨ s.kilnDeferred = false) →
      (l.step = 0 → ended → s.framesReady held = false → exec (.launchComplete num) s = .next (s.askFrames held)) ∧
      (l.step = 0 → ended → s.framesReady held = true → s.releaseCores num l.cores = .ok t →
        (t.kernelBoundary l.cores).writesDone = false → exec (.launchComplete num) s = .next (t.kernelBoundary l.cores)) ∧
      (l.step = 0 → ended → s.framesReady held = true → s.releaseCores num l.cores = .ok t →
        (t.kernelBoundary l.cores).writesDone = true →
        let v := (((t.kernelBoundary l.cores).sealLaunch l).kernelEnd l).dropFrames held
        exec (.launchComplete num) s = .next (((v.modLaunch num fun l => { l with
          step := 1
          state := match l.state with
            | .refused => .refused
            | _ => if l.code = 0 then .done else .aborted }).storeStatus num).signalLaunch num)) ∧
      (l.step = 0 → ¬ended → exec (.launchComplete num) s = .next s) ∧
      (l.step = 3 → exec (.launchComplete num) s = .next s)) ∧
    (s.launch? num = some l → (l.step = 1 ∨ l.step = 2) →
      (l.park = none ∨ s.noSignal l = true →
        exec (.launchComplete num) s = .next ((s.modLaunch num fun l => { l with park := none }).signalLaunch num)) ∧
      (l.park ≠ none → s.noSignal l = false → exec (.launchComplete num) s = .next s)) ∧
    (s.sched.work[i]? = some r → s.host.devState = 5 → s.sched.frozen = false → us ≠ 0 → r.tick + us < s.tick → some' ≠ [] →
      some'.any (s.fits r) = false → best = some gone → exec (.preemption i false) s = .next
        ({ s with sched := { s.sched with work := s.sched.work.map fun (x : WorkRec) =>
          if x = r then { x with tick := s.tick } else x } }.beginSave gone)) ∧
    (us = 0 ∨ s.tick ≤ r.tick + us → s.sched.work[i]? = some r → exec (.preemption i false) s = .next s) ∧
    (s.stoppedWith i = gone → gone.any (fun j => (s.wg j).live) = true → gone.all s.saveReady = true →
      (s.saveReleases gone).writesDone = true →
      let u := gone.foldl (fun s j => s.saveWg j) (s.saveReleases gone)
      ∃ x : WorkRec, x.resume.Perm gone ∧ x.launch = (u.wg i).launch ∧ x.level = (u.wg i).level ∧ x.ordinals = [] ∧
        exec (.preemption i true) s = .next { u with sched := { u.sched with work := u.sched.work ++ [x] } }) ∧
    (gone = s.stoppedWith i → gone ≠ [] → gone.any (fun j => (s.wg j).live) = true → gone.all s.saveReady = false →
      exec (.preemption i true) s = .next s) ∧
    (core < 256 → s.pick core = some r → r.resume = [n] → s.remapReady core n = .ok t →
      let u := (t.dropWork r).restoreWg n core
      let maps := match u.wgs[n]? with | some g => g.store.maps | none => []
      let v := (maps.foldl (fun s m => s.remap n m.1 m.2.1 m.2.2 0) u).modWg n fun g => { g with store := {} }
      exec (.resumeWorkgroup core) s = .next (((v.warpsOf n).foldl (fun s wi => s.modWarp wi fun w =>
        { w with bar := w.bar.map fun b => { b with cell := v.spCellOf n b.cell } }) v).acquire core 5))

/-! ### Events of certified execution and reliability (R77-R85, R99, R135, R442-R470, R487) -/

/-- O52. Witness kernels, tests, re-execution and seeds (R99, R442, R443, R445-R454): a kernel on another course takes
its holds and the record becomes TESTING; a record whose values, those delivered whose magnitudes must bound the exact
ones, or, where none are named, those that R448 and R450 define (entry 58), pass its test is PASSED and what follows
is released; one that fails is marked, and on a recheck fails; a tainted operator whose tries are used up is reported
failed; an epoch that has lasted its length gets new seeds. The model's choices in it: entries 17, 56, 58, 60 and 67.
-/
def Obligations.CertificationEvents : Prop :=
  ∀ (s : State) (id course i : Nat) (record : BitVec 1024) (header : BitVec 512) (values : List (BitVec 64)) (r : BitVec 2048)
    (t : TestOf) (st : Stored) (l : List (Option Rat)),
    let part := recPart r
    let recheck := bit r 45 || rState r == 2
    let able := s.kernelCourses part (kernelExcluded r recheck)
    let holds := s.kernelHolds id r
    let gone : State := { s with cert := { s.cert with delivered := s.cert.delivered.filter fun x => x != id } }
    let tests := exec (.witnessTest id values) s
    (s.record? id = some r → s.sched.frozen = false → s.sched.launches.any (fun l => l.kernelOf == some id) = false →
      id ∉ s.cert.delivered → (rState r = 1 ∨ (rState r = 2 ∧ bit r 45 = false)) →
      (able = [] → exec (.witnessPlace id course record header) s =
        .next (s.failRecord id (if recheck then recCores r else []))) ∧
      (course ∈ able → s.courseState course = 0 → s.witnessCtx part = some (recCtx record) → s.recordCode part record = 0 →
        lrec record 61 1 % 2 = 0 → headerOk header record = true → s.launchRoom part = true →
        (∀ f ∈ holds, kHolders (s.kpage f) < 4095) →
        let l := newLaunch s.sched.nextLaunch part 0 record
        let u := (holds.foldl (fun s f => s.hold f 1) (s.addLaunch { l with kernelOf := some id, hold := holds })).modRecord id
          fun r => setRState (recSet r 5 1 (if recheck then recGet r 5 1 % 32 + 32 else recGet r 5 1 % 4 + course * 4 + 16)) 2
        exec (.witnessPlace id course record header) s =
          .next (u.runLaunch l.num header (u.placeBits part 0 fun n => n / 16 == course && u.clusterGood n)))) ∧
    (id ∈ s.cert.delivered → s.kilnDeferred = false → s.record? id = some r → rState r = 2 → s.testOf id r = some t →
      (values = [] → s.delivered t values = s.kernelValues t t.floats) ∧
      (values.length = t.count → values ≠ [] → s.magnitudesBound t (values.map t.value) = true →
        s.delivered t values = some (values.map t.value)) ∧
      (values ≠ [] → values.length ≠ t.count ∨ s.magnitudesBound t (values.map t.value) = false → tests = .next s) ∧
      (s.delivered t values = some l → s.runTest t l = none → bit r 45 = false → tests =
        .next (((gone.countTest false).setRecord id (setRState (recSet r 152 8 s.tick) 3)).passRecord id)) ∧
      (s.delivered t values = some l → s.runTest t l = some i →
        let u := (gone.countTest true).setRecord id (recSet (recSet r 152 8 s.tick) 28 4 i)
        (bit (recSet (recSet r 152 8 s.tick) 28 4 i) 45 = false → tests = .next u) ∧
        (bit (recSet (recSet r 152 8 s.tick) 28 4 i) 45 = true →
          tests = .next (u.failRecord id (recCores (recSet (recSet r 152 8 s.tick) 28 4 i)))))) ∧
    (s.record? id = some r → (s.cert.stored.find? fun (x : Stored) => x.witness == id) = some st →
      (rState r = 3 ∨ rState r = 4 ∨ rState r = 5) → bit r 61 = false → s.kilnDeferred = false →
      (2 ≤ st.tries → (∀ o ∈ st.outs, kWitness (s.kpage o.1) = id ∧ kSt (s.kpage o.1) = 5) → exec (.reexecute id) s = .next (s.operatorFailed id)) ∧
      (st.tries < 2 → s.ctxValid (recCtx st.record) = true → ∀ ins frames k, s.inputsNow st = .ready ins →
        (∀ o ∈ st.outs, kWitness (s.kpage o.1) = id ∧ kSt (s.kpage o.1) = 5 ∧ kHolders (s.kpage o.1) = 0) →
        s.stackFrames (recCtx st.record) st.record st.header = some frames → s.retryCourse st = some k →
        (s.newRegion (regionBytes (lrec st.record 62 1 % 8) (st.entries.getD (recTids st.record).1.length 0))).isSome = true →
        (∀ o ∈ st.outs, s.runHeld (o.1 * 0x200000) (o.2 * 0x200000) = false) → s.framesUntracked frames = true →
        (∀ f ∈ frames, Tab.get 0 s.xlat.heldBy f = 0) → s.cert.records.length < 65536 → s.launchRoom st.part = true →
        (∀ f ∈ holdSet (ins.map (·.2)) [], kHolders (s.kpage f) < 4095) →
        let z := st.outs.foldl (fun s o => s.zeroRun (o.1 * 0x200000) (o.2 * 0x200000)) s
        let l := newLaunch z.sched.nextLaunch st.part st.level st.record
        let u := (z.addLaunch { l with header := st.header }).commitOpen l.num
          { course := k, entries := st.entries, ins := ins, outs := st.outs, frames := frames } (st.tries + 1) id
        let v := u.rebind st.part ((recOutputs r).zip (st.outs.map fun o => kVersion (u.kpage o.1)))
        exec (.reexecute id) s = .next (v.runLaunch l.num st.header
          (v.placeBits st.part (BitVec.ofNat 64 (lrec st.record 64 8)) fun n => n / 16 == k)))) ∧
    (s.cert.epochTick + field s.cert.cfg 23 0 ≤ s.tick → (s.cert.epoch :: s.liveEpochs).eraseDups.length < 4096 →
      exec .seedEpoch s = .next (s.drawSeeds (s.cert.epoch + 1))) ∧
    (s.tick < s.cert.epochTick + field s.cert.cfg 23 0 → exec .seedEpoch s = .next s)

/-- Time, scrubbing and re-striping (R76-R83, R87, R135, R456): the tick goes up by one, an L1 line older than 2^40
ticks leaves; an error in a sector is corrected and counted at the bank that its address gives, or poisons the sector, by
the power of the code that the sector's row was last written under, and at the thresholds the bank changes code or is
dropped (what an error past the code's detection does is a free value, entry 49); in the far tier it is a poisoned response;
the hour clears the counts, a region that lags begins its move and moves line by line, and charges older than 24 hours leave
the counts. -/
def Sys2Proof.Claims.ReliabilityEvents : Prop :=
  ∀ (s : State) (core line sec symbols region : Nat) (pin : Bool),
    let bank := s.bankOf (sec / 4)
    let x := s.bank bank
    let code := field x 31 30
    let power := s.rowStrong (sec / 4)
    let corrects := symbols ≤ (if power = true then 2 else 1) ∨ (power = true ∧ pin = true)
    let runs := exec (.scrub sec symbols pin) s
    let z := (s.free Config.freeChoice).2
    let cfg := s.rel.hbmCfg
    let ce := min 0xFFFF (field x 15 0 + 1)
    let ue := min 255 (field x 23 16 + 1)
    let s1 := s.setBank bank (setField x 15 0 ce)
    let s2 : State := { s.setBank bank (setField x 23 16 ue) with mem := { s.mem with poison := Tab.set false s.mem.poison sec true } }
    let r := s.region region
    (∃ t, exec .deviceTick s = .next t ∧ t.tick = s.tick + 1 ∧ ∀ i w, s.warp? i = some w → ∃ v, t.warp? i = some v ∧ v.s = w.s ∧ v.pc = w.pc) ∧
    (s.mem.l1At core line ≠ L1Line.none → 2 ^ 40 < ticksBack (s.tick % 2 ^ 43) (s.mem.l1At core line).tick →
      exec (.l1AgeInvalidate core line) s = .next (s.l1Drop core line)) ∧
    (s.tick % 3600000000 = 0 → exec .hourlyCounterClear s =
      .next (s.rel.banks.foldl (fun s e => s.setBank e.1 (setField e.2 23 0 0)) s)) ∧
    (s.paKind (sec * 32) = .hbm →
      (symbols = 0 → runs = .next s) ∧
      (symbols ≠ 0 → corrects →
        (code = 0 → runs = .next (if field cfg 15 0 ≤ ce then s1.bankEvent bank false else s1)) ∧
        (code = 1 → runs = .next (if field cfg 31 16 ≤ ce then s1.bankEvent bank true else s1)) ∧
        (code = 2 ∨ code = 3 → runs = .next s1)) ∧
      (¬corrects → symbols ≤ (if power = true then 3 else 2) →
        (code ≠ 3 → runs = .next (if field cfg 39 32 ≤ ue then s2.bankEvent bank true else s2)) ∧ (code = 3 → runs = .next s2)) ∧
      (¬corrects → (if power = true then 3 else 2) < symbols →
        runs = .next ((z.poisonStored sec).bankFailed bank) ∨
        ∃ t, runs = .next t ∧ t.warps = s.warps ∧ t.rel = s.rel ∧ t.mem.poison = s.mem.poison ∧
          ∀ a, a / 32 ≠ sec → t.mem.byteAt a = s.mem.byteAt a)) ∧
    (s.paKind (sec * 32) = .far → runs = .next (if symbols = 0 then s else s.poisonStored sec)) ∧
    (code = 1 → power = true) ∧
    (code = 2 → s.striped = true →
      exec (.reencodeRow bank true) s = .next ((s.setStrong bank (2 ^ 20)).setBank bank (setField x 31 30 1)) ∧
      exec (.reencodeRow bank false) s = .next (s.setStrong bank (min (2 ^ 20) (Tab.get 0 s.rel.strongRows bank + 1)))) ∧
    (∀ last, code ≠ 2 ∨ s.striped = false → exec (.reencodeRow bank last) s = .next s) ∧
    (region < 768 → bit r 127 = true → bit r 126 = false → field r 15 0 ≠ s.rel.hashVersion →
      ((List.range 768).filter fun n => bit (s.region n) 126).length < 4 → exec (.migrateLine { region := region, bad := [] }) s =
        .next (s.setRegion region (setBit (setField (setField r 87 64 0) 47 32 s.rel.hashVersion) 126 true))) ∧
    (region < 768 → bit r 127 = true → bit r 126 = true →
      let moved := region * 2 ^ 23 + field r 87 64
      let fenced (v : Nat) := s.courseState (stackCourse (grainChannel v (moved / 4) / 64)) = 2 ∨
        s.courseState (stackCourse (grainChannel v (moved / 4) / 64)) = 3
      (fenced (field r 15 0) ∨ fenced (field r 47 32) ∨ s.moveAwaited region = true → exec (.migrateLine { region := region, bad := [] }) s = .next s) ∧
      (¬fenced (field r 15 0) → ¬fenced (field r 47 32) → s.moveAwaited region = false → field r 87 64 + 1 ≠ 0x800000 →
        ∃ t, exec (.migrateLine { region := region, bad := [] }) s = .next t ∧ t.region region = setField r 87 64 (field r 87 64 + 1) ∧
          t.mem.dirOf moved = s.mem.dirOf moved ∧ t.rel.banks = s.rel.banks ∧
          (s.mem.dirOf moved = .uncached → t.warps = s.warps ∧ t.mem.bytes = s.mem.bytes))) ∧
    (∃ t, exec .failureWindowExpiry s = .next t ∧ t.cert.charges = s.cert.charges.filter (fun e => decide (s.tick < e.tick + 86400000000)) ∧
      t.warps = s.warps ∧ t.mem = s.mem)

/-- Errors and gating of core pairs (R461-R466): a mismatch parks the warp, or strikes a thread of the lane instruction
it is at; its retry lets it go on or aborts the workgroup with PIPELINE_ERROR, an uncorrectable error in a core's state
aborts the workgroups it holds, one in its slice poisons the lines it struck, single-bit errors are corrected and counted,
and a pair goes through gated, waking and ready, or is retired where its self-test fails. -/
def Sys2Proof.Claims.CoreErrorEvents : Prop :=
  ∀ (s : State) (i j core : Nat) (x : CoreHit) (w : Warp) (b : Block),
    let c := s.core core
    let us := field s.rel.faultCfg 15 0
    let u : State := { s with rel := { s.rel with retry := s.rel.retry.filter fun j => j != i } }.count (s.wgOf w).core 9 1
    (s.warp? i = some w → w.live = true → (s.wgOf w).saved = none → w.park ≠ .pipeline →
      exec (.pipelineError { warp := i, thread := none }) s =
        .next ({ s with rel := { s.rel with retry := s.rel.retry ++ [i] } }.setWarp i { w with park := .pipeline }) ∧
      (w.lane = true → w.blocks.head? = some b → exec (.pipelineError { warp := i, thread := some j }) s =
        .next (s.setWarp i (w.setHead (some { b with stopAt := some j })))) ∧
      (w.lane = false ∨ w.blocks = [] → exec (.pipelineError { warp := i, thread := some j }) s = .next s)) ∧
    (s.warp? i = some w → w.park = .pipeline → i ∈ s.rel.retry →
      exec (.pipelineRetry i true) s = .next ((u.logEvent 1 0 (s.wgOf w).core 0x30).modWarp i fun w => { w with park := .run }) ∧
      exec (.pipelineRetry i false) s = .next (((u.logEvent 2 0 (s.wgOf w).core 0x30).charge (s.wgOf w).core 1 0
        (field u.rel.faultCfg 31 24) 2).abortWg w.wg 0x30)) ∧
    (core < 256 →
      let hit := x.wgs.filter fun i => (s.wg i).live && (s.wg i).core == core && (s.wg i).saved.isNone
      let v := x.lines.foldl (fun s l => s.poisonLine l) { s with rel := { s.rel with corrected := s.rel.corrected + x.single } }
      (hit = [] → exec (.coreUe core x) s = .next v) ∧
      (hit ≠ [] → exec (.coreUe core x) s =
        .next ((hit.foldl (fun s i => s.abortWg i 0x21 2) v).charge core 2 0 (field v.rel.faultCfg 23 16) 2))) ∧
    (core < 256 → c.gate = .ready → s.pairEmpty core = true → (s.retired core = true ∨ (us ≠ 0 ∧ c.idleSince + us ≤ s.tick)) →
      ∃ t, exec (.powerGate core) s = .next t ∧ (t.core core).gate = .gated) ∧
    (core < 256 → c.gate = .gated → s.retired core = false →
      exec (.coreWake core) s = .next (s.setCore core { c with gate := .waking s.tick })) ∧
    (∀ t, core < 256 → c.gate = .waking t → t + 44 ≤ s.tick →
      exec (.selfTestDone core true) s =
        .next (s.setCore core { c with gate := if s.retired core then .gated else .ready, idleSince := s.tick }) ∧
      exec (.selfTestDone core false) s =
        .next (((s.setCore core { c with gate := .gated }).logEvent 4 0 core 3).retireCore core 3))

/-- O53. Time, scrubbing and re-striping, errors and gating of core pairs (R76-R83, R87, R135, R456, R461-R466). The
model's choices in it: entries 16, 25, 48, 49, 56 and 61. -/
def Obligations.ReliabilityAndCoreErrors : Prop :=
  Sys2Proof.Claims.ReliabilityEvents ∧ Sys2Proof.Claims.CoreErrorEvents

/-- O54. Links, course resets and heat (R42, R63, R464, R467-R469, R487): a link goes AWAKE, low-power, WAKING, SILENT
and FENCED by its bounds; an interconnect error resets its course, which drains, resets its dies and rejoins, or is
declared failed; the clock moves by 100 MHz. The model's choices in it: entries 16, 44, 50, 56 and 68. -/
def Obligations.LinkAndCourseEvents : Prop :=
  ∀ (s : State) (a b k t : Nat) (lost : List Nat) (r : CourseReset),
    let cores := courseCores k
    (a < 11 → b < 11 → a ≠ b → s.link a b = .awake →
      exec (.linkLowPowerEntry a b) s = .next (s.setLink a b .lowPower) ∧
      exec (.linkWakeTimeout a b) s = .next (s.setLink a b (.silent s.tick))) ∧
    (s.link a b = .lowPower → exec (.linkWake a b) s = .next (s.setLink a b (.waking s.tick))) ∧
    (s.link a b = .waking t ∨ s.link a b = .silent t → exec (.linkTrained a b) s = .next (s.setLink a b .awake)) ∧
    (a < 11 → b < 11 → a ≠ b → s.link a b = .waking t → t + 3 ≤ s.tick →
      exec (.linkWakeTimeout a b) s = .next (s.setLink a b (.silent s.tick))) ∧
    (s.link a b = .silent t → t + 250 ≤ s.tick →
      let u := ((s.setLink a b .fenced).destroyDie b fun l => s.homeDie l == a).logEvent 8 3 (a * 11 + b) 0
      exec (.linkFenceTimeout a b) s =
        .next (if b < 8 then u.startReset (b % 4) 2 else if a < 8 then u.startReset (a % 4) 2 else u)) ∧
    (exec (.interconnectUe k lost) s = .next ((lost.foldl (fun s l => s.poisonLine l) s).startReset k 3)) ∧
    (s.courseState k = 1 → s.wgIds.any (s.onCourse k) = false → cores.all s.pairEmpty = true →
      s.fab.sends.any (fun x => cores.contains x.core && !x.parked) = false →
      (∀ l ∈ s.courseDirty k, s.fencedOff k l = true ∨ s.homeAway (some k) l = false) →
      exec (.courseDrainDone k) s = .next ((s.drainCourse k []).resetDies k)) ∧
    ((s.rel.resets.find? fun r => r.course == k && r.phase == 1) = some r → r.start + 250 ≤ s.tick →
      exec (.courseDrainDeadline k lost) s = .next ((((s.wgIds.filter (s.onCourse k)).foldl (fun s i =>
        s.abortWg i 0x21 3) s).drainCourse k lost).resetDies k)) ∧
    (s.courseState k = 3 → cores.all (fun c => (s.core c).gate != .testing) = true → s.host.dieReset = none →
      let u := (s.setLinks k .awake).setCourse k fun x => setField x 2 0 0
      let v := (u.mem.dir.map fun e => e.1).foldl (fun s l => if s.homedOn k l then s.homeTake l else s) u
      exec (.courseRejoin k) s = .next ({ v with
        sched := { v.sched with stopped := v.sched.stopped.filter fun c => c != k }
        rel := { v.rel with resets := v.rel.resets.filter fun r => r.course != k } }.endDieReset k)) ∧
    ((s.rel.resets.find? fun r => r.course == k) = some r → r.start + 10000 ≤ s.tick → s.host.dieReset = none →
      let u := s.setCourse k fun x => setField (setField x 27 24 4) 2 0 4
      exec (.courseFailed k) s = .next (((({ u with rel := { u.rel with resets := u.rel.resets.filter fun r =>
        r.course != k } }.logEvent 7 1 k 4).send (.msix 0)).retireCourse k).endDieReset k)) ∧
    (100 < s.host.mhz → exec (.throttle true) s = .next { s with host := { s.host with mhz := s.host.mhz - 100 } }) ∧
    (s.host.mhz < 3000 → exec (.throttle false) s = .next { s with host := { s.host with mhz := s.host.mhz + 100 } })

/-! ### Events of boot, the host and attestation (R10, R29, R59, R104-R107, R442, R473-R485) -/

/-- Boot, reset and heat (R442, R473, R476, R477, R481, R485, R487): power-up draws the seed generator's state, fw_go
starts authentication, an authentic set leads to BRINGUP, with its bytes as the boot's firmware and the boot's keys derived
(R459), and bring-up to READY with banks, fuses and failed pairs applied; a package reset abandons every command and keeps
what HBM holds; overheating stops the package. -/
def Sys2Proof.Claims.BootEvents : Prop :=
  ∀ (s : State) (ports banks cores : List Nat) (length : BitVec 32),
    (s.host.devState = 0 → ∃ t, exec (.powerUp ports) s = .next t ∧ t.host.devState = 1 ∧ t.freeCtr = s.freeCtr + 4 ∧
      t.mem = s.mem ∧ ∀ i < 16, Tab.get 0 t.host.farPort i = if ports.getD i 0 % 0x200000 = 0 then ports.getD i 0 else 0) ∧
    (s.host.devState ≠ 0 → exec (.powerUp ports) s = .next s) ∧
    (s.host.devState = 1 ∨ s.host.devState = 3 →
      exec (.fwGo length) s = .next { s with host := { s.host with devState := 2, fwLength := length } }) ∧
    (s.host.devState = 2 →
      let set := (List.range s.host.fwLength.toNat).map fun i => Tab.get 0 s.host.staging i
      let key k := Config.bootKey s.host.keys.identity k (Config.sha384 set) s.freeCtr
      (Config.firmwareOk set = true → exec .authentication s = .next { s with
        freeCtr := s.freeCtr + 1
        host := { s.host with
          devState := 4, firmware := set
          keys := { s.host.keys with attest := key 0, checkpoint := key 1, result := key 2 } } }) ∧
      (Config.firmwareOk set = false → exec .authentication s = .next { s with host := { s.host with devState := 3 } })) ∧
    (s.host.devState = 4 →
      let u := (banks.filter fun b => decide (b < 49152)).foldl (fun s b => s.bankEvent b true) s
      let v := (cores.filter fun c => decide (c < 256)).foldl (fun s c =>
        ((s.logEvent 4 0 c 3).retireCore c 3).setCore c { s.core c with gate := .gated }) u.applyFuses
      exec (.bringup banks cores) s =
        .next { v.drawSeeds 1 with host := { (v.drawSeeds 1).host with devState := 5 } }) ∧
    (∃ t, exec .packageReset s = .next t ∧ t.mem.bytes = s.abandonAll.mem.bytes ∧ t.mem.tags = s.abandonAll.mem.tags ∧
      t.host = { State.reset.host with keys := { State.reset.host.keys with
        identity := s.host.keys.identity, old := s.host.keys.checkpoint :: s.host.keys.old } } ∧ t.warps = State.reset.warps ∧ t.xlat = State.reset.xlat ∧
      t.rel.fuseCore = s.abandonAll.rel.fuseCore ∧ t.rel.boots = s.abandonAll.rel.boots + 1) ∧
    (exec .overtemp s = .next { s.abandonAll with host := { s.abandonAll.host with devState := 6 } })

/-- O55. The host's accesses (R10, R39, R82, R104-R107, R473, R475, R476): a read of BAR0 returns a register, the
write-only ones as zero; a read of memory that the egress filter passes returns the bytes of the home, a refused one,
or one of a consumed frame, zeros with poison, and a refused one is counted; a write is performed, dropped, held while
a checkpoint runs, or held by its home; a write of mbox_post posts a command block, and another register is written
without effect. The model's choices in it: entries 23, 43, 55, 56, 61 and 64. -/
def Obligations.HostAccessEvents : Prop :=
  ∀ (s : State) (pa n data off : Nat) (stream : Option Nat) (x : Word) (block : BitVec 4096) (e : Egress),
    let line := pa / 128
    let away := s.homeAway (some hostDie) line
    let reads := exec (.hostMemRead (.mem pa) n stream) s
    let writes := exec (.hostMemWrite false pa n data stream) s
    let v := { s with mem := { s.mem with snoop := s.mem.snoop.filter fun l => l != line } }
    let mask := (2 ^ n - 1) * 2 ^ (pa % 128)
    let bytes := data % 2 ^ (8 * n) * 2 ^ (8 * (pa % 128))
    (pa < 0x10000 → pa % 8 = 0 → exec (.hostMemRead (.bar0 pa) 8 stream) s = .next (s.send (.barData pa
      (if pa = 8 then s.host.devState.setWidth 64 else if pa = 0x18 then BitVec.ofNat 64 (s.host.mboxFree % 32) else 0)))) ∧
    (hostReaches pa n = true →
      (s.hostEgress pa stream false = .pass → pa < plumbBase → s.unbacked pa = false → s.lineBusy line = false →
        s.snoopsReach line 128 false = true → away = false →
        let u := (s.homeLoad line).snoopAdd line
        reads = .next (u.send (.hostData pa n (u.mem.readCoh pa n) (u.mem.poisoned pa n || u.homeIn [4] pa)))) ∧
      (s.hostEgress pa stream false = .pass → pa < plumbBase → s.unbacked pa = false → away = true → reads = .next s) ∧
      (s.hostEgress pa stream false = .pass → s.unbacked pa = true → reads = .next (s.send (.hostData pa n 0 true))) ∧
      (s.hostEgress pa stream false = .pass → plumbBase ≤ pa →
        ∃ x < 2 ^ (8 * n), reads = .next ((s.free Config.freeWord).2.send (.hostData pa n x false))) ∧
      (s.hostEgress pa stream false = e → e ≠ .pass → reads = .next ((s.countEgress e).send (.hostData pa n 0 true))) ∧
      (s.hostEgress pa stream true = e → e ≠ .pass → writes = .next ((s.countEgress e).send (.hostWritten pa))) ∧
      (s.hostEgress pa stream true = .pass → plumbBase ≤ pa ∨ s.unbacked pa = true → writes = .next (s.send (.hostWritten pa))) ∧
      (s.hostEgress pa stream true = .pass → pa < plumbBase → s.unbacked pa = false →
        (s.checkpointing = true → writes = .next { s with host := { s.host with
          held := s.host.held ++ [{ pa := pa, len := n, data := data }] } }) ∧
        (s.checkpointing = false → away = true → writes = .next s) ∧
        (s.checkpointing = false → away = false →
          (v.writeHeld line 128 = true → writes = .next { v with xlat := { v.xlat with heldWrites := v.xlat.heldWrites ++ [{
            line := line, mask := mask, data := bytes, slice := none, host := some pa, waiting := v.presence line }] } }) ∧
          (v.writeHeld line 128 = false →
            writes = .next ((v.performWrite none line mask bytes).send (.hostWritten pa)))))) ∧
    (hostReaches pa n = false → reads = .next s ∧ writes = .next s) ∧
    (pa + n ≤ 0x4000000 → exec (.hostMemWrite true pa n data stream) s =
      .next { s with host := { s.host with staging := writeN s.host.staging pa n data } }) ∧
    (0 < s.host.mboxFree → s.host.devState = 5 → x.toNat % 512 = 0 → exec (.registerWrite 0 x block) s =
      .next { s with host := { s.host with
        pending := s.host.pending ++ [{ issuer := .host, addr := x.toNat, block := block }]
        mboxFree := s.host.mboxFree - 1 } }) ∧
    (off ≠ 0 → exec (.registerWrite off x block) s = .next s)

/-- Attestation and assignment (R29, R482, R484): a function opens at most four sessions and its blocks are answered
under a signature of the boot's attestation key over their digests (R459); a TDI goes from unlocked to locked to run, and to
error; STOP_INTERFACE ends the partition's contexts, frees its bindings, zeroes and frees its frames and unlocks it, once no
translation, no copy at the host and no assignment under way stands in the way. -/
def Sys2Proof.Claims.AttestationEvents : Prop :=
  ∀ (s : State) (f part op : Nat),
    let n := Tab.get 0 s.host.sessions f
    let set (n : Nat) : State := { s with host := { s.host with sessions := Tab.set 0 s.host.sessions f n } }
    let goes op (x : Tdi) := exec (.tdispRequest part op) s = .next ((s.setTdi part x).send (.tdisp (part + 1) x))
    let old := Tab.get .unlocked s.host.tdi part
    (f < 17 → (n < 4 → exec (.spdmRequest f 0) s = .next (set (n + 1))) ∧ (4 ≤ n → exec (.spdmRequest f 0) s = .next s) ∧
      exec (.spdmRequest f 1) s = .next (set (n - 1)) ∧
      (2 ≤ op →
        let blocks := (if f = 0 then [1, 2, 3, 4] else [1, 2, 3, 4, 5, 6, 7]).map fun b => (b, Config.sha384 (s.measured (f - 1) b))
        let signs := s.host.devState = 4 ∨ s.host.devState = 5
        (¬signs → exec (.spdmRequest f op) s = .next s) ∧
        (signs → exec (.spdmRequest f op) s = .next ({ s with freeCtr := s.freeCtr + 1 }.send (.spdm f blocks
          (Config.signature s.host.keys.attest s.freeCtr (blocks.flatMap fun (b : Nat × BitVec 384) => bytesOf 48 b.2.toNat))))))) ∧
    (part < 16 → (old = .unlocked → goes 0 .locked) ∧ (old = .locked → goes 1 .run ∧ goes 2 .error) ∧
      (old = .run → goes 0 .run ∧ goes 2 .error) ∧
      (s.kilnDeferred = true → exec (.stopInterface part) s = .next s.defer) ∧
      (s.kilnDeferred = false → (∀ c ∈ s.partCtxs part, s.ctxEnds c = true) →
        (∀ b ∈ s.partBlocks part, s.runHeld b.1 b.2 = false ∧ s.framesUntracked (blockFrames b.1 b.2) = true) →
        (∀ j ∈ s.xlat.zero, ¬(bit j.owner 31 = true ∧ oPart j.owner = part) ∧
          ∀ b ∈ s.partBlocks part, ¬(b.1 < j.pa + j.len ∧ j.pa < b.1 + b.2)) →
        let v := (s.partCtxs part).foldl (fun s c => s.endContext c) s
        let u := (v.bindings.filter fun f => kPart (v.kpage f) == part).foldl (fun s f => s.freeBinding f) v
        exec (.stopInterface part) s = .next (((((s.partBlocks part).foldl (fun s b =>
          (s.zeroRun b.1 b.2).placeOwner b.1 b.2 0) u).released.setTdi part .unlocked).send (.tdisp (part + 1) .unlocked)))))

/-- O56. Boot, reset and heat, attestation and assignment (R29, R442, R473-R487). The model's choices in it: entries
17, 50, 54, 55 and 68. -/
def Obligations.BootAndAttestation : Prop :=
  Sys2Proof.Claims.BootEvents ∧ Sys2Proof.Claims.AttestationEvents

/-! ### Mailbox commands (R19, R20, R29, R84, R89, R96, R109-R113, R155, R413-R419, R457, R458, R463, R468-R487) -/

/-- Every mailbox command (R477-R480): the first pending command of its issuer is taken up; one that fails a check is
answered with its STATUS and detail and has no other effect, one performed is answered DONE with its reply, and one that
goes on, or waits for something that must come before it, is answered later. -/
def Sys2Proof.Claims.CommandsAnswered : Prop :=
  ∀ (s : State) (n : Nat) (p : Pending),
    let u := Claims.took s n
    let answers (code : Nat) (i : Instr) (body : Pending → State → Ans) : Prop := Claims.Posted s n code p →
      (∀ st d, u.mbCheck p = .error (st, d) → Claims.TurnedAway i s n p st d) ∧
      (u.mbCheck p = .ok () →
        (∀ st d, body p u = .error (st, d) → Claims.TurnedAway i s n p st d) ∧
        (∀ r t, body p u = .ok (some r, t) → Claims.Does i s p t r) ∧
        (∀ t, body p u = .ok (none, t) → exec i s = .next t))
    answers 0x01 (.partSet n) (fun p s => s.partSet p) ∧ answers 0x02 (.ctxSet n) (fun p s => s.ctxSet p) ∧
    answers 0x03 (.ctxEnd n) (fun p s => s.ctxEnd p) ∧ answers 0x04 (.frameAssign n) (fun p s => s.frameAssign p) ∧
    answers 0x05 (.kilnAssign n) (fun p s => s.kilnAssign p) ∧ answers 0x06 (.kilnFree n) (fun p s => s.kilnFree p) ∧
    answers 0x07 (.queueSet n) (fun p s => s.queueSet p) ∧ answers 0x08 (.peerSet n) (fun p s => s.peerSet p) ∧
    answers 0x09 (.launchEnd n) (fun p s => s.launchEnd p) ∧ answers 0x0B (.restore n) (fun p s => s.restore p) ∧
    (s.host.copying = none → answers 0x0A (.checkpoint n) (fun p s => s.checkpoint p)) ∧
    answers 0x0D (.certify n) (fun p s => s.certify p) ∧ answers 0x13 (.farSet n) (fun p s => s.setFar p)

/-- What commands do to the device's tables and registers (R19, R84, R96, R155, R413, R419, R457, R463, R468, R471,
R487): a legal image of a register command is its register's new value; PEER_SET writes its entry; CTX_END ends a context;
removing a queue ends its registration; freeing a released binding zeroes its pages; DIE_RESET starts the course's reset;
the fault record goes to its buffer and comes from an image. A command that a die, a home or the host stands in the way of
stays posted (R37, R42, R157, R475). -/
def Sys2Proof.Claims.CommandResults : Prop :=
  ∀ (s : State) (n : Nat) (p : Pending) (image : List (BitVec 8)),
    let u := Claims.took s n
    let x := p.arg 24 8
    let w : Word := BitVec.ofNat 64 x
    let part := p.arg 16 1
    let peer := p.arg 18 2
    let f (lo bits least most : Nat) : Prop := least ≤ x / 2 ^ lo % 2 ^ bits ∧ x / 2 ^ lo % 2 ^ bits ≤ most
    u.mbCheck p = .ok () →
    (Claims.Posted s n 0x10 p → x < 2 ^ 56 → f 0 16 1 65535 → f 16 16 1 65535 → f 32 8 1 255 → f 40 16 50 2000 →
      Claims.Does (.relSet n) s p { u with rel := { u.rel with hbmCfg := w } } 0) ∧
    (Claims.Posted s n 0x11 p → x < 2 ^ 48 → x / 2 ^ 24 % 2 ^ 8 = 0 → f 0 24 100 100000 → f 32 8 1 255 → f 40 8 1 255 →
      Claims.Does (.certSet n) s p { u with cert := { u.cert with cfg := w } } 0) ∧
    (Claims.Posted s n 0x12 p → x < 2 ^ 32 → f 16 8 1 255 → f 24 8 1 255 →
      Claims.Does (.faultSet n) s p { u with rel := { u.rel with faultCfg := w } } 0) ∧
    (Claims.Posted s n 0x14 p → x < 2 ^ 16 → f 0 16 1500 4600 →
      Claims.Does (.powerSet n) s p { u with host := { u.host with powerCap := w } } 0) ∧
    (Claims.Posted s n 0x08 p → part < 16 → peer < 512 → x % 2 ^ 48 = 0 → field w 63 62 = 2 →
      (p.issuer ≠ .host ∨ u.tdiLocked part = false) →
      (field (u.peer part peer) 63 62 = 2 ∨ field w 57 48 ≠ field (u.peer part peer) 57 48) →
      (u.peersReached = true →
        Claims.Does (.peerSet n) s p { u with fab := { u.fab with peers := Tab.set 0 u.fab.peers (512 * part + peer) w } } 0) ∧
      (u.peersReached = false → exec (.peerSet n) s = .next { u with host := { u.host with pending := p :: u.host.pending } })) ∧
    (Claims.Posted s n 0x03 p →
      (u.ctxValid part = false → Claims.Does (.ctxEnd n) s p u 0) ∧
      (u.ctxValid part = true → u.mbOwn p (u.ctxPart part) 16 = .ok () → u.ctxEnds part = true →
        Claims.Does (.ctxEnd n) s p (u.endContext part) 0) ∧
      (u.ctxValid part = true → u.mbOwn p (u.ctxPart part) 16 = .ok () → u.ctxEnds part = false →
        exec (.ctxEnd n) s = .next { u with host := { u.host with pending := p :: u.host.pending } })) ∧
    (Claims.Posted s n 0x07 p → part < 16 → p.arg 17 1 < 8 → x = 0 → u.mbOwn p part 16 = .ok () →
      u.mbUnlocked p part 16 = .ok () → Claims.Does (.queueSet n) s p (
        let t := u.endQueue (8 * part + p.arg 17 1)
        { t with sched := { t.sched with cfg := Tab.set 0 t.sched.cfg (16 * part + 1 + p.arg 17 1) 0 } }) 0) ∧
    (Claims.Posted s n 0x06 p → u.isKiln (p.arg 16 4) = true → u.mbOwn p (kPart (u.kpage (p.arg 16 4))) 16 = .ok () →
      kSt (u.kpage (p.arg 16 4)) = 4 → kFirst (u.kpage (p.arg 16 4)) = p.arg 16 4 → kHolders (u.kpage (p.arg 16 4)) = 0 →
      u.runHeld (p.arg 16 4 * 0x200000) (kCount (u.kpage (p.arg 16 4)) * 0x200000) = false →
      Claims.Does (.kilnFree n) s p (u.freeBinding (p.arg 16 4)) 0) ∧
    (Claims.Posted s n 0x0C p →
      (4 ≤ part → Claims.TurnedAway (.dieReset n) s n p 2 16) ∧
      (part < 4 → u.courseState part ≠ 0 → Claims.Does (.dieReset n) s p u 0) ∧
      (part < 4 → u.courseState part = 0 → exec (.dieReset n) s =
        .next ({ u with host := { u.host with dieReset := some (p, part) } }.startReset part 1))) ∧
    (Claims.Posted s n 0x0E p →
      (p.arg 32 8 < 1280 + 32 * u.rel.entries.length → Claims.TurnedAway (.faultExport n) s n p 4 32) ∧
      (1280 + 32 * u.rel.entries.length ≤ p.arg 32 8 → ∀ t,
        u.faultImage.2.putBuffer p x (1280 + 32 * u.rel.entries.length) u.faultImage.1 24 = .ok t →
        Claims.Does (.faultExport n) s p t (1280 + 32 * u.rel.entries.length))) ∧
    (Claims.Posted s n 0x0F p → image.length = p.arg 32 8 → u.importOk image = false →
      Claims.Does (.faultImport n image) s p ({ u with rel := { u.rel with entries := [], dropped := 0 } }.logEvent 13 5 0 0)
        image.length)

/-- O57. Mailbox commands: how each is taken and answered, and what it does (R477-R480 and each command's own rule).
The model's choices in it: entries 17, 51, 52, 54 and 61. -/
def Obligations.MailboxCommands : Prop :=
  Sys2Proof.Claims.CommandsAnswered ∧ Sys2Proof.Claims.CommandResults

/-- O58. Checkpoint, restore and zeroing (R29, R30, R109-R113): a checkpoint freezes placement and takes its range,
the quiescent package is written back, and the images, lists and header end it; a restore checks its image, restores
block by block and reports the blocks that failed; the zeroing of a block that nothing else holds ends with its new
owner and the command's answer. The model's choices in it: entries 17, 53, 56, 60, 61 and 68. -/
def Obligations.CheckpointEvents : Prop :=
  ∀ (s : State) (n : Nat) (p : Pending) (c : Copying) (j : ZeroJob) (rest : List ZeroJob),
    let u := Claims.took s n
    let base := p.arg 24 8
    let len := p.arg 32 8
    (Claims.Posted s n 0x0A p → u.mbCheck p = .ok () → s.host.copying = none → u.farFree base len = true →
      u.ckptPlan.total ≤ len → exec (.checkpoint n) s = .next ({ u with
        sched := { u.sched with frozen := true }
        host := { u.host with copying := some { restore := false, cmd := p, base := base, len := len, time := none }
                              ckpts := u.host.ckpts ++ [(base, len)] } }.saveCores (List.range 256) fun _ => true)) ∧
    (s.host.copying = some c → c.restore = false → c.time = none →
      (s.allQuiet = false → exec (.checkpoint n) s = .next s) ∧
      (s.allQuiet = true → s.writeBackAll.xlat.heldWrites ≠ [] → exec (.checkpoint n) s = .next s.writeBackAll) ∧
      (s.allQuiet = true → s.writeBackAll.xlat.heldWrites = [] → exec (.checkpoint n) s = .next { s.writeBackAll with host := { s.writeBackAll.host with copying := some { c with time := some s.writeBackAll.tick } } })) ∧
    (∀ time, s.host.copying = some c → c.restore = false → c.time = some time → s.answerReady c.cmd = .ok s →
      (c.len < s.ckptPlan.total → exec .checkpointComplete s = .next (({ s with host := { s.host with
        ckpts := s.host.ckpts.filter fun d => d.1 != c.base } }.thaw).answer c.cmd mbRefused 32 0)) ∧
      (s.ckptPlan.total ≤ c.len →
        let seq := s.host.ckptSeq + 1
        let v := s.copyBlocks c.base s.ckptPlan.blocks s.ckptPlan.imageAt
        let w := v.2.writeLists c.base time seq s.ckptPlan v.1
        exec .checkpointComplete s = .next (({ w with host := { w.host with ckptSeq := seq } }.thaw).answer c.cmd mbDone 0
          (seq % 2 ^ 64 + s.ckptPlan.total * 2 ^ 64)))) ∧
    (Claims.Posted s n 0x0B p → u.mbCheck p = .ok () → exec (.restore n) s = .next (match u.readCkpt base with
      | none => u.answer p 4 24 0
      | some r =>
        if r.blocks.all u.restorable then { u with host := { u.host with
          copying := some { restore := true, cmd := p, base := base, len := 0, time := none } } }
        else u.answer p 4 noByte 0)) ∧
    (s.host.copying = some c → c.restore = true → s.answerReady c.cmd = .ok s →
      (∀ r, s.readCkpt c.base = some r → r.blocks.all s.blockReady = true) →
      let done := { s with host := { s.host with copying := none, ckpts := s.host.ckpts.filter fun d => d.1 != c.base } }
      exec .restoreComplete s = .next (match s.readCkpt c.base with
        | none => done.answer c.cmd 4 24 0
        | some r =>
          let z := done.restoreBlocks c.base r r.blocks 0
          z.2.answer c.cmd mbDone 0 (z.1.length + packList 4 (z.1.take 62) * 2 ^ 32))) ∧
    (s.xlat.drops = [] → s.xlat.zero = j :: rest → s.runHeld j.pa j.len = false →
      s.framesUntracked (blockFrames j.pa j.len) = true → (∀ p, j.cmd = some p → s.answerReady p = .ok s) →
      let v := ({ s with xlat := { s.xlat with zero := rest } }.zeroRun j.pa j.len).placeOwner j.pa j.len j.owner
      exec .zeroing s = .next (match j.cmd with
        | some p => v.answer p mbDone 0 0
        | none => v)) ∧
    (s.xlat.drops = [] → s.xlat.zero = [] → exec .zeroing s = .next s)

/-! ### Completion of launches, host accesses and commands (R293, R295, R415, R473-R480) -/

/-- O59. LAUNCH, SYS.MBOX and the host's accesses complete (R10, R293, R295, R415, R473, R475-R477). With nothing
under way in the memory system, LAUNCH with a legal queue block that has room goes on with its record in the ring's
next slot and TAIL raised; SYS.MBOX goes on with 0 and its command pending, or with 1 or 2; HOST_MEM_READ answers with
the bytes, HOST_MEM_WRITE leaves them and is acknowledged; REGISTER_WRITE of mbox_post posts its command. The model's
choices in it: entries 10, 23, 45, 55, 61 and 68. -/
def Obligations.LaunchAndHostComplete : Prop :=
  ∀ (s : State) (w : Warp) (a b d : SReg) (ta tb : Trans) (q : QBlock) (pa n data off : Nat) (stream : Option Nat) (x : Word)
    (block : BitVec 4096),
    let g := s.wgOf w
    let m := s.markUsed ta .rw
    let k := m.markUsed tb .r
    let slot := q.ring + 128 * (q.tail % 2 ^ q.size)
    let outside (l : Nat) : Prop := l < ta.pa / 128 ∨ ta.pa / 128 + 4 ≤ l
    (Claims.Calm s → Claims.Issues s w { reads := [a.val, b.val] } → w.blocks = [] → w.record = none → g.cert = false →
      (w.sget a).toNat % 512 = 0 → (w.sget b).toNat % 128 = 0 →
      s.walk (s.whoOf g) .rw false (w.sget a) = .ok ta → ta.kind.isMem = true →
      m.walk (m.whoOf g) .r false (w.sget b) = .ok tb → tb.kind.isMem = true → k.mem.poisoned tb.pa 128 = false →
      k.queueBlock ta.pa = some q → q.producer = 0 → q.tail < q.head + 2 ^ q.size → outside (slot / 128) →
      (∀ e ∈ ta.used ++ tb.used, e / 128 ≠ slot / 128 ∧ outside (e / 128)) →
      ∃ t v, exec (.launch a b) s = .next t ∧ t.warp? s.cur = some v ∧ v.pc = w.pc + 4 ∧ v.s = w.s ∧
        t.mem.readCoh slot 128 = k.mem.readCoh tb.pa 128 ∧ t.mem.readCoh ta.pa 8 = (q.tail + 1) % 2 ^ 64) ∧
    (Claims.Calm s → Claims.Issues s w { reads := [a.val], writes := [d.val] } → w.blocks = [] → s.ctxSys g.ctx = true →
      (w.sget a).toNat % 512 = 0 → s.walk (s.whoOf g) .w false (w.sget a) = .ok ta → ¬(d = 62 ∧ 0 < w.limit) →
      let posted : Pending := { issuer := .ctx g.ctx, addr := ta.pa,
                                block := BitVec.ofNat 4096 ((s.markUsed ta .w).mem.readCoh ta.pa 512) }
      ∃ t v, ∃ z : Word, exec (.sysMbox d a) s = .next t ∧ t.warp? s.cur = some v ∧ v.pc = w.pc + 4 ∧
        v.s = Tab.set 0 w.s d.val z ∧
        (z = 0 ∧ t.host.pending = s.host.pending ++ [posted] ∨
          (z = 1 ∨ z = 2) ∧ t.host.pending = s.host.pending)) ∧
    (Claims.Calm s → hostReaches pa n = true → pa < plumbBase → s.unbacked pa = false →
      (s.hostEgress pa stream false = .pass → ∃ t, exec (.hostMemRead (.mem pa) n stream) s = .next t ∧
        t.outbox.head? = some (.hostData pa n (s.mem.readCoh pa n) (s.mem.poisoned pa n)) ∧ t.warps = s.warps) ∧
      (s.hostEgress pa stream true = .pass → s.checkpointing = false →
        ∃ t, exec (.hostMemWrite false pa n data stream) s = .next t ∧ t.outbox.head? = some (.hostWritten pa) ∧
          ∀ i < n, t.mem.byteAt (pa + i) = BitVec.ofNat 8 (data / 2 ^ (8 * i)))) ∧
    (pa < 0x10000 → pa % 8 = 0 → exec (.hostMemRead (.bar0 pa) 8 stream) s = .next (s.send (.barData pa (s.host.bar pa)))) ∧
    (pa + n ≤ 0x4000000 → exec (.hostMemWrite true pa n data stream) s =
      .next { s with host := { s.host with staging := writeN s.host.staging pa n data } }) ∧
    (0 < s.host.mboxFree → s.host.devState = 5 → x.toNat % 512 = 0 → exec (.registerWrite 0 x block) s =
      .next { s with host := { s.host with
        pending := s.host.pending ++ [{ issuer := .host, addr := x.toNat, block := block }]
        mboxFree := s.host.mboxFree - 1 } }) ∧
    (off ≠ 0 → exec (.registerWrite off x block) s = .next s)

/-- PART_SET, CTX_SET, QUEUE_SET, LAUNCH_END, CERTIFY, FAR_SET, FAULT_EXPORT and FAULT_IMPORT complete (R19-R21, R29,
R37, R413, R419, R458, R471, R480, R486): a posted command whose fields are legal, and which nothing forbids, is performed
and answered DONE. -/
def Sys2Proof.Claims.TableCommandsComplete : Prop :=
  ∀ (s : State) (n : Nat) (p : Pending) (l : Launch) (x : Nat) (image : List (BitVec 8)),
    let u := Claims.took s n
    let i := p.arg 16 1
    let d := BitVec.ofNat 256 (p.arg 32 32)
    let c := BitVec.ofNat 512 (p.arg 64 64)
    let part := field c 59 56
    let addr := p.arg 24 8
    let q := p.arg 17 1
    let size := 1280 + 32 * u.rel.entries.length
    let bytes := image.foldr (fun b n => b.toNat + 256 * n) 0
    let far (j : Nat) := p.arg (16 + j) 1
    let mates (j : Nat) := (List.range 16).filter fun k => far k == far j
    u.mbCheck p = .ok () →
    (Claims.Posted s n 0x01 p → i < 16 → d.toNat &&& partReserved = 0 → field d 63 0 = field d 127 64 → u.mbUnlocked p i 16 = .ok () →
      (bit d 192 = true → ∀ j < 16, j ≠ i → u.partValid j = true → ((u.partDesc j).toNat &&& d.toNat) % 2 ^ 128 = 0) →
      (∀ k ∈ u.busyClusters i, bit d 192 = true ∧ bit d k = true) →
      (u.partValid i = true ∨ bit d 192 = false ∨ Tab.get [] u.xlat.oldPart i = []) →
      ∃ t, Claims.Does (.partSet n) s p t 0 ∧ t.xlat.partTab = Tab.set 0 u.xlat.partTab i d) ∧
    (Claims.Posted s n 0x02 p → c.toNat &&& ctxReserved = 0 → bit c 63 = true → (bit c 61 = true → bit c 62 = true) →
      8 ≤ field c 108 104 → field c 108 104 ≤ 16 → u.mbOwn p part 71 = .ok () → u.mbUnlocked p part 71 = .ok () →
      (u.ctxValid i = true → u.mbOwn p (u.ctxPart i) 16 = .ok () ∧ u.mbUnlocked p (u.ctxPart i) 16 = .ok ()) →
      u.partValid part = true → (u.ctxValid i = false → Tab.get [] u.xlat.oldCtx i = []) →
      (u.ctxValid i = true → u.ctxPart i = part ∨ u.ctxBusy i = false) →
      (u.inFrames (field c 103 64 * 4096) (64 * 2 ^ field c 108 104) fun e =>
        bit e 24 && !oShared e && oCtx e == i && oPart e == part) = true → u.ctxClear i = true →
      Claims.Does (.ctxSet n) s p { u with xlat := { u.xlat with ctxTab := Tab.set 0 u.xlat.ctxTab i c } } 0) ∧
    (Claims.Posted s n 0x07 p → i < 16 → q < 8 → addr ≠ 0 → addr % 512 = 0 → addr < 2 ^ 52 → u.mbOwn p i 16 = .ok () →
      u.mbUnlocked p i 16 = .ok () →
      (∀ r ∈ (addr, 512) :: u.rawRings addr, u.inFrames r.1 r.2 (fun e => oShared e && !oKiln e && oPart e == i) = true) →
      ∃ t, Claims.Does (.queueSet n) s p t (u.mem.readCoh addr 8) ∧ (t.queue (8 * i + q)).block = addr) ∧
    (Claims.Posted s n 0x09 p → u.queueAt addr = some x → u.mbOwn p (x / 8) 24 = .ok () → p.arg 32 8 < (u.queue x).taken →
      let found := u.sched.launches.find? fun l => l.queue == x && l.slot == some (p.arg 32 8)
      (found = none → Claims.Does (.launchEnd n) s p u
        (u.mem.readCoh ((u.queue x).ring + 128 * (p.arg 32 8 % 2 ^ (u.queue x).size) + 56) 4)) ∧
      (found = some l → u.stuckWaits (u.stuckOf l.num) = false → Claims.Does (.launchEnd n) s p (u.endLaunch l.num 5)
        (((u.endLaunch l.num 5).launch? l.num).map Launch.endStatus |>.getD 0))) ∧
    (Claims.Posted s n 0x0D p → p.issuer = .host → u.isKiln (p.arg 16 4) = true → kSt (u.kpage (p.arg 16 4)) = 4 →
      Tab.get 0 u.cert.released (kFirst (u.kpage (p.arg 16 4))) ≠ 0 →
      let y := u.certificate (kFirst (u.kpage (p.arg 16 4)))
      Claims.Does (.certify n) s p (y.2.send (.hostBytes addr (bytesOf 256 y.1))) 0) ∧
    (Claims.Posted s n 0x13 p → (∀ j < 16, far j ≤ 15 ∨ far j = 0xFF) → u.host.ckpts = [] →
      (∀ e ∈ u.xlat.owner, 12582912 ≤ e.1 → bit e.2 31 = false) →
      (∀ j < 16, far j ≠ 0xFF → Tab.get 0 u.host.farPort j ≠ 0 ∧ (mates j).length ∈ [1, 2, 4, 8, 16] ∧
        ∀ k ∈ mates j, Tab.get 0 u.host.farPort k = Tab.get 0 u.host.farPort j) →
      ∃ t, Claims.Does (.farSet n) s p t 0 ∧ ∀ j < 16, Tab.get 0xFF t.host.farSet j = far j) ∧
    (Claims.Posted s n 0x0E p → p.issuer = .host → size ≤ p.arg 32 8 →
      Claims.Does (.faultExport n) s p (u.faultImage.2.send (.hostBytes addr (bytesOf size u.faultImage.1))) size) ∧
    (Claims.Posted s n 0x0F p → image.length = p.arg 32 8 → u.importOk image = true →
      ∃ t, Claims.Does (.faultImport n image) s p t (1280 + 32 * (bytes / 2 ^ 96 % 2 ^ 32)) ∧
        t.rel.boots = Nat.max u.rel.boots (bytes / 2 ^ 192 % 2 ^ 64 + 1))

/-- FRAME_ASSIGN and KILN_ASSIGN complete (R27, R29, R89, R480, R484): a legal block whose checks pass, and from which
no die holds a translation, is unassigned and its bytes stay; one that stays with its owner has its entries written; any
other is marked ZEROING, and its zeroing ends with the answer (O58). -/
def Sys2Proof.Claims.AssignCommandsComplete : Prop :=
  ∀ (s : State) (n : Nat) (p : Pending),
    let u := Claims.took s n
    let pa := p.arg 16 8
    let e := BitVec.ofNat 32 (p.arg 24 4)
    let len := spanBytes (field e 29 28)
    let keeps (u : State) pa len e := ∀ f ∈ blockFrames pa len, sameOwner (u.ownerAt f) e = true ∧ u.oldHeld f = false
    let zeroes (u : State) pa len (e : BitVec 32) :=
      let v := (blockFrames pa len).foldl (fun s f => s.setOwner f (setBit (s.ownerAt f) 30 true)) u
      { v with xlat := { v.xlat with zero := v.xlat.zero ++ [{ pa := pa, len := len, owner := e, cmd := some p }] } }
    let kpa := p.arg 24 8
    let klen := spanBytes (p.arg 17 1)
    let k := kilnOwner (p.arg 17 1) (p.arg 16 1)
    u.mbCheck p = .ok () →
    (Claims.Posted s n 0x04 p → e.toNat &&& ownerReserved = 0 → field e 29 28 ≠ 3 → oKiln e = false →
      (bit e 24 = true → oShared e = false) → (farBase ≤ pa → field e 29 28 ≠ 0) → u.pagesFree pa len = true →
      (u.framesUntracked (blockFrames pa len) = true →
        (bit e 31 = false → u.blockCheck p pa len 16 none = .ok () →
          let v := { u with host := { u.host with ckpts := u.host.ckpts.filter fun c => !decide (c.1 < pa + len ∧ pa < c.1 + c.2) } }
          Claims.Does (.frameAssign n) s p (v.placeOwner pa len 0).released 0) ∧
        (bit e 31 = true → u.blockCheck p pa len 16 (some (oPart e, 25)) = .ok () →
          (keeps u pa len e → Claims.Does (.frameAssign n) s p (u.placeOwner pa len e) 0) ∧
          (¬keeps u pa len e → exec (.frameAssign n) s = .next (zeroes u pa len e))))) ∧
    (Claims.Posted s n 0x05 p → p.arg 16 1 < 16 → (p.arg 17 1 = 1 ∨ p.arg 17 1 = 2) → kpa < farBase →
      u.blockCheck p kpa klen 24 (some (p.arg 16 1, 16)) = .ok () →
      (∀ f ∈ blockFrames kpa klen, oKiln (u.ownerAt f) = false) → u.framesUntracked (blockFrames kpa klen) = true →
      exec (.kilnAssign n) s = .next (zeroes u kpa klen k))

/-- O60. The mailbox commands that set tables, assign frames, end launches and report complete (R19-R21, R27, R29,
R37, R89, R413, R419, R458, R471, R480, R484, R486). The model's choices in it: entries 17, 51, 52, 61, 62 and 68. -/
def Obligations.CommandsComplete : Prop :=
  Sys2Proof.Claims.TableCommandsComplete ∧ Sys2Proof.Claims.AssignCommandsComplete
end

