-- ==== Sys2Proof/Laws/Dispatch.lean ====
section
/-! SUPPORT. What exec calls for each instruction. -/

namespace Sys2Proof.Machine

@[simp] theorem exec_add (d a b : SReg) (s : State) : exec (.add d a b) s = execAdd d a b s := rfl
@[simp] theorem exec_sub (d a b : SReg) (s : State) : exec (.sub d a b) s = execSub d a b s := rfl
@[simp] theorem exec_mul (d a b : SReg) (s : State) : exec (.mul d a b) s = execMul d a b s := rfl
@[simp] theorem exec_mulh (d a b : SReg) (s : State) : exec (.mulh d a b) s = execMulh d a b s := rfl
@[simp] theorem exec_mulhn (d a b : SReg) (s : State) : exec (.mulhn d a b) s = execMulhn d a b s := rfl
@[simp] theorem exec_div (d a b : SReg) (s : State) : exec (.div d a b) s = execDiv d a b s := rfl
@[simp] theorem exec_divn (d a b : SReg) (s : State) : exec (.divn d a b) s = execDivn d a b s := rfl
@[simp] theorem exec_rem (d a b : SReg) (s : State) : exec (.rem d a b) s = execRem d a b s := rfl
@[simp] theorem exec_remn (d a b : SReg) (s : State) : exec (.remn d a b) s = execRemn d a b s := rfl
@[simp] theorem exec_and (d a b : SReg) (s : State) : exec (.and d a b) s = execAnd d a b s := rfl
@[simp] theorem exec_or (d a b : SReg) (s : State) : exec (.or d a b) s = execOr d a b s := rfl
@[simp] theorem exec_xor (d a b : SReg) (s : State) : exec (.xor d a b) s = execXor d a b s := rfl
@[simp] theorem exec_andn (d a b : SReg) (s : State) : exec (.andn d a b) s = execAndn d a b s := rfl
@[simp] theorem exec_shl (d a b : SReg) (s : State) : exec (.shl d a b) s = execShl d a b s := rfl
@[simp] theorem exec_shr (d a b : SReg) (s : State) : exec (.shr d a b) s = execShr d a b s := rfl
@[simp] theorem exec_sra (d a b : SReg) (s : State) : exec (.sra d a b) s = execSra d a b s := rfl
@[simp] theorem exec_ror (d a b : SReg) (s : State) : exec (.ror d a b) s = execRor d a b s := rfl
@[simp] theorem exec_min (d a b : SReg) (s : State) : exec (.min d a b) s = execMin d a b s := rfl
@[simp] theorem exec_minn (d a b : SReg) (s : State) : exec (.minn d a b) s = execMinn d a b s := rfl
@[simp] theorem exec_max (d a b : SReg) (s : State) : exec (.max d a b) s = execMax d a b s := rfl
@[simp] theorem exec_maxn (d a b : SReg) (s : State) : exec (.maxn d a b) s = execMaxn d a b s := rfl
@[simp] theorem exec_slt (d a b : SReg) (s : State) : exec (.slt d a b) s = execSlt d a b s := rfl
@[simp] theorem exec_sltn (d a b : SReg) (s : State) : exec (.sltn d a b) s = execSltn d a b s := rfl
@[simp] theorem exec_seq (d a b : SReg) (s : State) : exec (.seq d a b) s = execSeq d a b s := rfl
@[simp] theorem exec_clz (d a : SReg) (s : State) : exec (.clz d a) s = execClz d a s := rfl
@[simp] theorem exec_ctz (d a : SReg) (s : State) : exec (.ctz d a) s = execCtz d a s := rfl
@[simp] theorem exec_popc (d a : SReg) (s : State) : exec (.popc d a) s = execPopc d a s := rfl
@[simp] theorem exec_bswap (d a : SReg) (s : State) : exec (.bswap d a) s = execBswap d a s := rfl
@[simp] theorem exec_addi (d a : SReg) (imm : BitVec 14) (s : State) : exec (.addi d a imm) s = execAddi d a imm s := rfl
@[simp] theorem exec_andi (d a : SReg) (imm : BitVec 14) (s : State) : exec (.andi d a imm) s = execAndi d a imm s := rfl
@[simp] theorem exec_ori (d a : SReg) (imm : BitVec 14) (s : State) : exec (.ori d a imm) s = execOri d a imm s := rfl
@[simp] theorem exec_xori (d a : SReg) (imm : BitVec 14) (s : State) : exec (.xori d a imm) s = execXori d a imm s := rfl
@[simp] theorem exec_slti (d a : SReg) (imm : BitVec 14) (s : State) : exec (.slti d a imm) s = execSlti d a imm s := rfl
@[simp] theorem exec_shli (d a : SReg) (n : Fin 64) (s : State) : exec (.shli d a n) s = execShli d a n s := rfl
@[simp] theorem exec_shri (d a : SReg) (n : Fin 64) (s : State) : exec (.shri d a n) s = execShri d a n s := rfl
@[simp] theorem exec_srai (d a : SReg) (n : Fin 64) (s : State) : exec (.srai d a n) s = execSrai d a n s := rfl
@[simp] theorem exec_rori (d a : SReg) (n : Fin 64) (s : State) : exec (.rori d a n) s = execRori d a n s := rfl
@[simp] theorem exec_movi (d : SReg) (imm : BitVec 20) (s : State) : exec (.movi d imm) s = execMovi d imm s := rfl
@[simp] theorem exec_movk (d : SReg) (imm : BitVec 20) (s : State) : exec (.movk d imm) s = execMovk d imm s := rfl
@[simp] theorem exec_adr (d : SReg) (imm : BitVec 20) (s : State) : exec (.adr d imm) s = execAdr d imm s := rfl
@[simp] theorem exec_beq (a b : SReg) (off : BitVec 14) (s : State) : exec (.beq a b off) s = execBeq a b off s := rfl
@[simp] theorem exec_bne (a b : SReg) (off : BitVec 14) (s : State) : exec (.bne a b off) s = execBne a b off s := rfl
@[simp] theorem exec_blt (a b : SReg) (off : BitVec 14) (s : State) : exec (.blt a b off) s = execBlt a b off s := rfl
@[simp] theorem exec_bge (a b : SReg) (off : BitVec 14) (s : State) : exec (.bge a b off) s = execBge a b off s := rfl
@[simp] theorem exec_bltn (a b : SReg) (off : BitVec 14) (s : State) : exec (.bltn a b off) s = execBltn a b off s := rfl
@[simp] theorem exec_bgen (a b : SReg) (off : BitVec 14) (s : State) : exec (.bgen a b off) s = execBgen a b off s := rfl
@[simp] theorem exec_jmp (off : BitVec 26) (s : State) : exec (.jmp off) s = execJmp off s := rfl
@[simp] theorem exec_call (off : BitVec 26) (s : State) : exec (.call off) s = execCall off s := rfl
@[simp] theorem exec_jr (a : SReg) (s : State) : exec (.jr a) s = execJr a s := rfl
@[simp] theorem exec_callr (a : SReg) (s : State) : exec (.callr a) s = execCallr a s := rfl
@[simp] theorem exec_ret  (s : State) : exec (.ret) s = execRet s := rfl
@[simp] theorem exec_ld (d a : SReg) (size : MemSize) (off : BitVec 11) (s : State) : exec (.ld d a size off) s = execLd d a size off s := rfl
@[simp] theorem exec_st (d a : SReg) (size : MemSize) (off : BitVec 11) (s : State) : exec (.st d a size off) s = execSt d a size off s := rfl
@[simp] theorem exec_lds (d a : SReg) (size : MemSize) (off : BitVec 11) (s : State) : exec (.lds d a size off) s = execLds d a size off s := rfl
@[simp] theorem exec_sts (d a : SReg) (size : MemSize) (off : BitVec 11) (s : State) : exec (.sts d a size off) s = execSts d a size off s := rfl
@[simp] theorem exec_ldOrd (d a : SReg) (scope : Scope) (ord : MemOrd) (size : MemSize) (s : State) : exec (.ldOrd d a scope ord size) s = execLdOrd d a scope ord size s := rfl
@[simp] theorem exec_stOrd (d a : SReg) (scope : Scope) (ord : MemOrd) (size : MemSize) (s : State) : exec (.stOrd d a scope ord size) s = execStOrd d a scope ord size s := rfl
@[simp] theorem exec_ldOrdSp (d a : SReg) (scope : Scope) (ord : MemOrd) (size : MemSize) (s : State) : exec (.ldOrdSp d a scope ord size) s = execLdOrdSp d a scope ord size s := rfl
@[simp] theorem exec_stOrdSp (d a : SReg) (scope : Scope) (ord : MemOrd) (size : MemSize) (s : State) : exec (.stOrdSp d a scope ord size) s = execStOrdSp d a scope ord size s := rfl
@[simp] theorem exec_atomAdd (d a : SReg) (scope : Scope) (ord : MemOrd) (size : MemSize) (s : State) : exec (.atomAdd d a scope ord size) s = execAtomAdd d a scope ord size s := rfl
@[simp] theorem exec_atomSub (d a : SReg) (scope : Scope) (ord : MemOrd) (size : MemSize) (s : State) : exec (.atomSub d a scope ord size) s = execAtomSub d a scope ord size s := rfl
@[simp] theorem exec_atomMin (d a : SReg) (scope : Scope) (ord : MemOrd) (size : MemSize) (s : State) : exec (.atomMin d a scope ord size) s = execAtomMin d a scope ord size s := rfl
@[simp] theorem exec_atomMinn (d a : SReg) (scope : Scope) (ord : MemOrd) (size : MemSize) (s : State) : exec (.atomMinn d a scope ord size) s = execAtomMinn d a scope ord size s := rfl
@[simp] theorem exec_atomMax (d a : SReg) (scope : Scope) (ord : MemOrd) (size : MemSize) (s : State) : exec (.atomMax d a scope ord size) s = execAtomMax d a scope ord size s := rfl
@[simp] theorem exec_atomMaxn (d a : SReg) (scope : Scope) (ord : MemOrd) (size : MemSize) (s : State) : exec (.atomMaxn d a scope ord size) s = execAtomMaxn d a scope ord size s := rfl
@[simp] theorem exec_atomAnd (d a : SReg) (scope : Scope) (ord : MemOrd) (size : MemSize) (s : State) : exec (.atomAnd d a scope ord size) s = execAtomAnd d a scope ord size s := rfl
@[simp] theorem exec_atomOr (d a : SReg) (scope : Scope) (ord : MemOrd) (size : MemSize) (s : State) : exec (.atomOr d a scope ord size) s = execAtomOr d a scope ord size s := rfl
@[simp] theorem exec_atomXor (d a : SReg) (scope : Scope) (ord : MemOrd) (size : MemSize) (s : State) : exec (.atomXor d a scope ord size) s = execAtomXor d a scope ord size s := rfl
@[simp] theorem exec_atomXchg (d a : SReg) (scope : Scope) (ord : MemOrd) (size : MemSize) (s : State) : exec (.atomXchg d a scope ord size) s = execAtomXchg d a scope ord size s := rfl
@[simp] theorem exec_atomCas (d a : SReg) (scope : Scope) (ord : MemOrd) (size : MemSize) (s : State) : exec (.atomCas d a scope ord size) s = execAtomCas d a scope ord size s := rfl
@[simp] theorem exec_atomAddSp (d a : SReg) (scope : Scope) (ord : MemOrd) (size : MemSize) (s : State) : exec (.atomAddSp d a scope ord size) s = execAtomAddSp d a scope ord size s := rfl
@[simp] theorem exec_atomSubSp (d a : SReg) (scope : Scope) (ord : MemOrd) (size : MemSize) (s : State) : exec (.atomSubSp d a scope ord size) s = execAtomSubSp d a scope ord size s := rfl
@[simp] theorem exec_atomMinSp (d a : SReg) (scope : Scope) (ord : MemOrd) (size : MemSize) (s : State) : exec (.atomMinSp d a scope ord size) s = execAtomMinSp d a scope ord size s := rfl
@[simp] theorem exec_atomMinnSp (d a : SReg) (scope : Scope) (ord : MemOrd) (size : MemSize) (s : State) : exec (.atomMinnSp d a scope ord size) s = execAtomMinnSp d a scope ord size s := rfl
@[simp] theorem exec_atomMaxSp (d a : SReg) (scope : Scope) (ord : MemOrd) (size : MemSize) (s : State) : exec (.atomMaxSp d a scope ord size) s = execAtomMaxSp d a scope ord size s := rfl
@[simp] theorem exec_atomMaxnSp (d a : SReg) (scope : Scope) (ord : MemOrd) (size : MemSize) (s : State) : exec (.atomMaxnSp d a scope ord size) s = execAtomMaxnSp d a scope ord size s := rfl
@[simp] theorem exec_atomAndSp (d a : SReg) (scope : Scope) (ord : MemOrd) (size : MemSize) (s : State) : exec (.atomAndSp d a scope ord size) s = execAtomAndSp d a scope ord size s := rfl
@[simp] theorem exec_atomOrSp (d a : SReg) (scope : Scope) (ord : MemOrd) (size : MemSize) (s : State) : exec (.atomOrSp d a scope ord size) s = execAtomOrSp d a scope ord size s := rfl
@[simp] theorem exec_atomXorSp (d a : SReg) (scope : Scope) (ord : MemOrd) (size : MemSize) (s : State) : exec (.atomXorSp d a scope ord size) s = execAtomXorSp d a scope ord size s := rfl
@[simp] theorem exec_atomXchgSp (d a : SReg) (scope : Scope) (ord : MemOrd) (size : MemSize) (s : State) : exec (.atomXchgSp d a scope ord size) s = execAtomXchgSp d a scope ord size s := rfl
@[simp] theorem exec_atomCasSp (d a : SReg) (scope : Scope) (ord : MemOrd) (size : MemSize) (s : State) : exec (.atomCasSp d a scope ord size) s = execAtomCasSp d a scope ord size s := rfl
@[simp] theorem exec_fence (scope : Scope) (ord : MemOrd) (s : State) : exec (.fence scope ord) s = execFence scope ord s := rfl
@[simp] theorem exec_rel (d a : SReg) (scope : Scope) (s : State) : exec (.rel d a scope) s = execRel d a scope s := rfl
@[simp] theorem exec_relAdd (d a : SReg) (scope : Scope) (s : State) : exec (.relAdd d a scope) s = execRelAdd d a scope s := rfl
@[simp] theorem exec_acq (d a : SReg) (scope : Scope) (s : State) : exec (.acq d a scope) s = execAcq d a scope s := rfl
@[simp] theorem exec_relSp (d a : SReg) (scope : Scope) (s : State) : exec (.relSp d a scope) s = execRelSp d a scope s := rfl
@[simp] theorem exec_relAddSp (d a : SReg) (scope : Scope) (s : State) : exec (.relAddSp d a scope) s = execRelAddSp d a scope s := rfl
@[simp] theorem exec_acqSp (d a : SReg) (scope : Scope) (s : State) : exec (.acqSp d a scope) s = execAcqSp d a scope s := rfl
@[simp] theorem exec_barArr (a : SReg) (scope : Scope) (s : State) : exec (.barArr a scope) s = execBarArr a scope s := rfl
@[simp] theorem exec_barWait (a : SReg) (scope : Scope) (s : State) : exec (.barWait a scope) s = execBarWait a scope s := rfl
@[simp] theorem exec_barSync (a : SReg) (scope : Scope) (s : State) : exec (.barSync a scope) s = execBarSync a scope s := rfl
@[simp] theorem exec_monArm (a : SReg) (s : State) : exec (.monArm a) s = execMonArm a s := rfl
@[simp] theorem exec_monArmSp (a : SReg) (s : State) : exec (.monArmSp a) s = execMonArmSp a s := rfl
@[simp] theorem exec_monWait (a : SReg) (s : State) : exec (.monWait a) s = execMonWait a s := rfl
@[simp] theorem exec_quiesceWait (scope : Scope) (s : State) : exec (.quiesceWait scope) s = execQuiesceWait scope s := rfl
@[simp] theorem exec_laneSync (scope : Scope) (s : State) : exec (.laneSync scope) s = execLaneSync scope s := rfl
@[simp] theorem exec_rld (d a : SReg) (k : KReg) (size : MemSize) (s : State) : exec (.rld d a k size) s = execRld d a k size s := rfl
@[simp] theorem exec_rst (d a : SReg) (k : KReg) (size : MemSize) (s : State) : exec (.rst d a k size) s = execRst d a k size s := rfl
@[simp] theorem exec_rstRelSys (d a : SReg) (k : KReg) (size : MemSize) (s : State) : exec (.rstRelSys d a k size) s = execRstRelSys d a k size s := rfl
@[simp] theorem exec_ratomAdd (d a : SReg) (k : KReg) (size : MemSize) (s : State) : exec (.ratomAdd d a k size) s = execRatomAdd d a k size s := rfl
@[simp] theorem exec_ratomAnd (d a : SReg) (k : KReg) (size : MemSize) (s : State) : exec (.ratomAnd d a k size) s = execRatomAnd d a k size s := rfl
@[simp] theorem exec_ratomOr (d a : SReg) (k : KReg) (size : MemSize) (s : State) : exec (.ratomOr d a k size) s = execRatomOr d a k size s := rfl
@[simp] theorem exec_ratomXor (d a : SReg) (k : KReg) (size : MemSize) (s : State) : exec (.ratomXor d a k size) s = execRatomXor d a k size s := rfl
@[simp] theorem exec_ratomXchg (d a : SReg) (k : KReg) (size : MemSize) (s : State) : exec (.ratomXchg d a k size) s = execRatomXchg d a k size s := rfl
@[simp] theorem exec_ratomCas (d a : SReg) (k : KReg) (size : MemSize) (s : State) : exec (.ratomCas d a k size) s = execRatomCas d a k size s := rfl
@[simp] theorem exec_capLd (d : KReg) (a : SReg) (s : State) : exec (.capLd d a) s = execCapLd d a s := rfl
@[simp] theorem exec_capSt (a : SReg) (b : KReg) (s : State) : exec (.capSt a b) s = execCapSt a b s := rfl
@[simp] theorem exec_capMint (d : KReg) (a : SReg) (s : State) : exec (.capMint d a) s = execCapMint d a s := rfl
@[simp] theorem exec_capBound (d a : KReg) (b : SReg) (s : State) : exec (.capBound d a b) s = execCapBound d a b s := rfl
@[simp] theorem exec_capPerm (d a : KReg) (b : SReg) (s : State) : exec (.capPerm d a b) s = execCapPerm d a b s := rfl
@[simp] theorem exec_capRead (d : SReg) (a : KReg) (n : Fin 64) (s : State) : exec (.capRead d a n) s = execCapRead d a n s := rfl
@[simp] theorem exec_capMov (d a : KReg) (s : State) : exec (.capMov d a) s = execCapMov d a s := rfl
@[simp] theorem exec_xferPost (a : SReg) (q : Fin 4) (s : State) : exec (.xferPost a q) s = execXferPost a q s := rfl
@[simp] theorem exec_xferCond (a : SReg) (q : Fin 4) (s : State) : exec (.xferCond a q) s = execXferCond a q s := rfl
@[simp] theorem exec_xferBulk (a : SReg) (q : Fin 4) (s : State) : exec (.xferBulk a q) s = execXferBulk a q s := rfl
@[simp] theorem exec_gatherPost (a : SReg) (s : State) : exec (.gatherPost a) s = execGatherPost a s := rfl
@[simp] theorem exec_qfence (m : BitVec 6) (s : State) : exec (.qfence m) s = execQfence m s := rfl
@[simp] theorem exec_lwInit (a b : SReg) (s : State) : exec (.lwInit a b) s = execLwInit a b s := rfl
@[simp] theorem exec_lwWait (a b : SReg) (s : State) : exec (.lwWait a b) s = execLwWait a b s := rfl
@[simp] theorem exec_lwRead (d a : SReg) (s : State) : exec (.lwRead d a) s = execLwRead d a s := rfl
@[simp] theorem exec_spMap (d a b : SReg) (s : State) : exec (.spMap d a b) s = execSpMap d a b s := rfl
@[simp] theorem exec_spUnmap (a : SReg) (s : State) : exec (.spUnmap a) s = execSpUnmap a s := rfl
@[simp] theorem exec_amov (d : AReg) (a b : SReg) (s : State) : exec (.amov d a b) s = execAmov d a b s := rfl
@[simp] theorem exec_abase (d : AReg) (a : SReg) (s : State) : exec (.abase d a) s = execAbase d a s := rfl
@[simp] theorem exec_astride (d : AReg) (a : SReg) (s : State) : exec (.astride d a) s = execAstride d a s := rfl
@[simp] theorem exec_aadd (d : AReg) (a : SReg) (s : State) : exec (.aadd d a) s = execAadd d a s := rfl
@[simp] theorem exec_aread (d : SReg) (a : AReg) (s : State) : exec (.aread d a) s = execAread d a s := rfl
@[simp] theorem exec_asread (d : SReg) (a : AReg) (s : State) : exec (.asread d a) s = execAsread d a s := rfl
@[simp] theorem exec_mfcr (d : SReg) (crn : BitVec 12) (s : State) : exec (.mfcr d crn) s = execMfcr d crn s := rfl
@[simp] theorem exec_mtcr (d : SReg) (crn : BitVec 12) (s : State) : exec (.mtcr d crn) s = execMtcr d crn s := rfl
@[simp] theorem exec_laneRun (a : SReg) (loff : BitVec 20) (s : State) : exec (.laneRun a loff) s = execLaneRun a loff s := rfl
@[simp] theorem exec_nop  (s : State) : exec (.nop) s = execNop s := rfl
@[simp] theorem exec_exit  (s : State) : exec (.exit) s = execExit s := rfl
@[simp] theorem exec_regGrow (n : Fin 4) (s : State) : exec (.regGrow n) s = execRegGrow n s := rfl
@[simp] theorem exec_regShrink  (s : State) : exec (.regShrink) s = execRegShrink s := rfl
@[simp] theorem exec_stkChk (a : SReg) (s : State) : exec (.stkChk a) s = execStkChk a s := rfl
@[simp] theorem exec_ipf (a : SReg) (s : State) : exec (.ipf a) s = execIpf a s := rfl
@[simp] theorem exec_pfd (a : SReg) (s : State) : exec (.pfd a) s = execPfd a s := rfl
@[simp] theorem exec_trap (n : BitVec 8) (s : State) : exec (.trap n) s = execTrap n s := rfl
@[simp] theorem exec_trapRet  (s : State) : exec (.trapRet) s = execTrapRet s := rfl
@[simp] theorem exec_launch (a b : SReg) (s : State) : exec (.launch a b) s = execLaunch a b s := rfl
@[simp] theorem exec_sysMbox (d a : SReg) (s : State) : exec (.sysMbox d a) s = execSysMbox d a s := rfl
@[simp] theorem exec_sysWbinv  (s : State) : exec (.sysWbinv) s = execSysWbinv s := rfl
@[simp] theorem exec_ttSet (d a b : SReg) (s : State) : exec (.ttSet d a b) s = execTtSet d a b s := rfl
@[simp] theorem exec_ttClr (a : SReg) (s : State) : exec (.ttClr a) s = execTtClr a s := rfl
@[simp] theorem exec_ttRead (a b : SReg) (s : State) : exec (.ttRead a b) s = execTtRead a b s := rfl
@[simp] theorem exec_mxLdt (d : TReg) (a b : SReg) (s : State) : exec (.mxLdt d a b) s = execMxLdt d a b s := rfl
@[simp] theorem exec_mxLds (d : TReg) (a : SReg) (s : State) : exec (.mxLds d a) s = execMxLds d a s := rfl
@[simp] theorem exec_mxZeroT (d : TReg) (s : State) : exec (.mxZeroT d) s = execMxZeroT d s := rfl
@[simp] theorem exec_mxZeroC (d : CReg) (s : State) : exec (.mxZeroC d) s = execMxZeroC d s := rfl
@[simp] theorem exec_mxMma (d : CReg) (a b : TReg) (s : State) : exec (.mxMma d a b) s = execMxMma d a b s := rfl
@[simp] theorem exec_mxMmag (d : CReg) (a b : TReg) (s : State) : exec (.mxMmag d a b) s = execMxMmag d a b s := rfl
@[simp] theorem exec_mxGang (g n m : Fin 64) (s : State) : exec (.mxGang g n m) s = execMxGang g n m s := rfl
@[simp] theorem exec_mxDrain (d : CReg) (a b : SReg) (s : State) : exec (.mxDrain d a b) s = execMxDrain d a b s := rfl
@[simp] theorem exec_mxMode (d : CReg) (n : Fin 64) (s : State) : exec (.mxMode d n) s = execMxMode d n s := rfl
@[simp] theorem exec_witSeed (a : SReg) (s : State) : exec (.witSeed a) s = execWitSeed a s := rfl
@[simp] theorem exec_witEmit (a : SReg) (s : State) : exec (.witEmit a) s = execWitEmit a s := rfl
@[simp] theorem exec_iadd (f : LaneFields) (s : State) : exec (.iadd f) s = execIadd f s := rfl
@[simp] theorem exec_isub (f : LaneFields) (s : State) : exec (.isub f) s = execIsub f s := rfl
@[simp] theorem exec_imul (f : LaneFields) (s : State) : exec (.imul f) s = execImul f s := rfl
@[simp] theorem exec_imulh (f : LaneFields) (s : State) : exec (.imulh f) s = execImulh f s := rfl
@[simp] theorem exec_imad (f : LaneFields) (s : State) : exec (.imad f) s = execImad f s := rfl
@[simp] theorem exec_idiv (f : LaneFields) (s : State) : exec (.idiv f) s = execIdiv f s := rfl
@[simp] theorem exec_irem (f : LaneFields) (s : State) : exec (.irem f) s = execIrem f s := rfl
@[simp] theorem exec_imin (f : LaneFields) (s : State) : exec (.imin f) s = execImin f s := rfl
@[simp] theorem exec_imax (f : LaneFields) (s : State) : exec (.imax f) s = execImax f s := rfl
@[simp] theorem exec_iabs (f : LaneFields) (s : State) : exec (.iabs f) s = execIabs f s := rfl
@[simp] theorem exec_ineg (f : LaneFields) (s : State) : exec (.ineg f) s = execIneg f s := rfl
@[simp] theorem exec_laneAnd (f : LaneFields) (s : State) : exec (.laneAnd f) s = execLaneAnd f s := rfl
@[simp] theorem exec_laneOr (f : LaneFields) (s : State) : exec (.laneOr f) s = execLaneOr f s := rfl
@[simp] theorem exec_laneXor (f : LaneFields) (s : State) : exec (.laneXor f) s = execLaneXor f s := rfl
@[simp] theorem exec_not (f : LaneFields) (s : State) : exec (.not f) s = execNot f s := rfl
@[simp] theorem exec_laneShl (f : LaneFields) (s : State) : exec (.laneShl f) s = execLaneShl f s := rfl
@[simp] theorem exec_laneShr (f : LaneFields) (s : State) : exec (.laneShr f) s = execLaneShr f s := rfl
@[simp] theorem exec_rol (f : LaneFields) (s : State) : exec (.rol f) s = execRol f s := rfl
@[simp] theorem exec_lanePopc (f : LaneFields) (s : State) : exec (.lanePopc f) s = execLanePopc f s := rfl
@[simp] theorem exec_laneClz (f : LaneFields) (s : State) : exec (.laneClz f) s = execLaneClz f s := rfl
@[simp] theorem exec_brev (f : LaneFields) (s : State) : exec (.brev f) s = execBrev f s := rfl
@[simp] theorem exec_bfx (f : LaneFields) (s : State) : exec (.bfx f) s = execBfx f s := rfl
@[simp] theorem exec_bfi (f : LaneFields) (s : State) : exec (.bfi f) s = execBfi f s := rfl
@[simp] theorem exec_mov (f : LaneFields) (s : State) : exec (.mov f) s = execMov f s := rfl
@[simp] theorem exec_isetEq (f : LaneFields) (s : State) : exec (.isetEq f) s = execIsetEq f s := rfl
@[simp] theorem exec_isetNe (f : LaneFields) (s : State) : exec (.isetNe f) s = execIsetNe f s := rfl
@[simp] theorem exec_isetLt (f : LaneFields) (s : State) : exec (.isetLt f) s = execIsetLt f s := rfl
@[simp] theorem exec_isetLe (f : LaneFields) (s : State) : exec (.isetLe f) s = execIsetLe f s := rfl
@[simp] theorem exec_isetGt (f : LaneFields) (s : State) : exec (.isetGt f) s = execIsetGt f s := rfl
@[simp] theorem exec_isetGe (f : LaneFields) (s : State) : exec (.isetGe f) s = execIsetGe f s := rfl
@[simp] theorem exec_fadd (f : LaneFields) (s : State) : exec (.fadd f) s = execFadd f s := rfl
@[simp] theorem exec_fsub (f : LaneFields) (s : State) : exec (.fsub f) s = execFsub f s := rfl
@[simp] theorem exec_fmul (f : LaneFields) (s : State) : exec (.fmul f) s = execFmul f s := rfl
@[simp] theorem exec_fma (f : LaneFields) (s : State) : exec (.fma f) s = execFma f s := rfl
@[simp] theorem exec_fdiv (f : LaneFields) (s : State) : exec (.fdiv f) s = execFdiv f s := rfl
@[simp] theorem exec_fsqrt (f : LaneFields) (s : State) : exec (.fsqrt f) s = execFsqrt f s := rfl
@[simp] theorem exec_fmin (f : LaneFields) (s : State) : exec (.fmin f) s = execFmin f s := rfl
@[simp] theorem exec_fmax (f : LaneFields) (s : State) : exec (.fmax f) s = execFmax f s := rfl
@[simp] theorem exec_fabs (f : LaneFields) (s : State) : exec (.fabs f) s = execFabs f s := rfl
@[simp] theorem exec_fneg (f : LaneFields) (s : State) : exec (.fneg f) s = execFneg f s := rfl
@[simp] theorem exec_fsetEq (f : LaneFields) (s : State) : exec (.fsetEq f) s = execFsetEq f s := rfl
@[simp] theorem exec_fsetNe (f : LaneFields) (s : State) : exec (.fsetNe f) s = execFsetNe f s := rfl
@[simp] theorem exec_fsetLt (f : LaneFields) (s : State) : exec (.fsetLt f) s = execFsetLt f s := rfl
@[simp] theorem exec_fsetLe (f : LaneFields) (s : State) : exec (.fsetLe f) s = execFsetLe f s := rfl
@[simp] theorem exec_fsetUn (f : LaneFields) (s : State) : exec (.fsetUn f) s = execFsetUn f s := rfl
@[simp] theorem exec_frcp (f : LaneFields) (s : State) : exec (.frcp f) s = execFrcp f s := rfl
@[simp] theorem exec_frsq (f : LaneFields) (s : State) : exec (.frsq f) s = execFrsq f s := rfl
@[simp] theorem exec_fexp2 (f : LaneFields) (s : State) : exec (.fexp2 f) s = execFexp2 f s := rfl
@[simp] theorem exec_flog2 (f : LaneFields) (s : State) : exec (.flog2 f) s = execFlog2 f s := rfl
@[simp] theorem exec_fsin (f : LaneFields) (s : State) : exec (.fsin f) s = execFsin f s := rfl
@[simp] theorem exec_fcos (f : LaneFields) (s : State) : exec (.fcos f) s = execFcos f s := rfl
@[simp] theorem exec_ftanh (f : LaneFields) (s : State) : exec (.ftanh f) s = execFtanh f s := rfl
@[simp] theorem exec_cvt (f : LaneFields) (s : State) : exec (.cvt f) s = execCvt f s := rfl
@[simp] theorem exec_frnd (f : LaneFields) (s : State) : exec (.frnd f) s = execFrnd f s := rfl
@[simp] theorem exec_pand (f : LaneFields) (s : State) : exec (.pand f) s = execPand f s := rfl
@[simp] theorem exec_por (f : LaneFields) (s : State) : exec (.por f) s = execPor f s := rfl
@[simp] theorem exec_pxor (f : LaneFields) (s : State) : exec (.pxor f) s = execPxor f s := rfl
@[simp] theorem exec_pnot (f : LaneFields) (s : State) : exec (.pnot f) s = execPnot f s := rfl
@[simp] theorem exec_mIf (f : LaneFields) (s : State) : exec (.mIf f) s = execMIf f s := rfl
@[simp] theorem exec_mElse (f : LaneFields) (s : State) : exec (.mElse f) s = execMElse f s := rfl
@[simp] theorem exec_mEndif (f : LaneFields) (s : State) : exec (.mEndif f) s = execMEndif f s := rfl
@[simp] theorem exec_mLoop (f : LaneFields) (s : State) : exec (.mLoop f) s = execMLoop f s := rfl
@[simp] theorem exec_mBrk (f : LaneFields) (s : State) : exec (.mBrk f) s = execMBrk f s := rfl
@[simp] theorem exec_mNext (f : LaneFields) (s : State) : exec (.mNext f) s = execMNext f s := rfl
@[simp] theorem exec_lNop (f : LaneFields) (s : State) : exec (.lNop f) s = execLNop f s := rfl
@[simp] theorem exec_lEnd (f : LaneFields) (s : State) : exec (.lEnd f) s = execLEnd f s := rfl
@[simp] theorem exec_lxchSel (f : LaneFields) (s : State) : exec (.lxchSel f) s = execLxchSel f s := rfl
@[simp] theorem exec_lxchLag (f : LaneFields) (s : State) : exec (.lxchLag f) s = execLxchLag f s := rfl
@[simp] theorem exec_lxchLead (f : LaneFields) (s : State) : exec (.lxchLead f) s = execLxchLead f s := rfl
@[simp] theorem exec_lxchMir (f : LaneFields) (s : State) : exec (.lxchMir f) s = execLxchMir f s := rfl
@[simp] theorem exec_ballot (f : LaneFields) (s : State) : exec (.ballot f) s = execBallot f s := rfl
@[simp] theorem exec_voteAny (f : LaneFields) (s : State) : exec (.voteAny f) s = execVoteAny f s := rfl
@[simp] theorem exec_voteAll (f : LaneFields) (s : State) : exec (.voteAll f) s = execVoteAll f s := rfl
@[simp] theorem exec_reduxAdd (f : LaneFields) (s : State) : exec (.reduxAdd f) s = execReduxAdd f s := rfl
@[simp] theorem exec_reduxMin (f : LaneFields) (s : State) : exec (.reduxMin f) s = execReduxMin f s := rfl
@[simp] theorem exec_reduxMax (f : LaneFields) (s : State) : exec (.reduxMax f) s = execReduxMax f s := rfl
@[simp] theorem exec_reduxAnd (f : LaneFields) (s : State) : exec (.reduxAnd f) s = execReduxAnd f s := rfl
@[simp] theorem exec_reduxOr (f : LaneFields) (s : State) : exec (.reduxOr f) s = execReduxOr f s := rfl
@[simp] theorem exec_reduxXor (f : LaneFields) (s : State) : exec (.reduxXor f) s = execReduxXor f s := rfl
@[simp] theorem exec_scanAdd (f : LaneFields) (s : State) : exec (.scanAdd f) s = execScanAdd f s := rfl
@[simp] theorem exec_scanAddx (f : LaneFields) (s : State) : exec (.scanAddx f) s = execScanAddx f s := rfl
@[simp] theorem exec_scanMax (f : LaneFields) (s : State) : exec (.scanMax f) s = execScanMax f s := rfl
@[simp] theorem exec_blut (f : LaneFields) (s : State) : exec (.blut f) s = execBlut f s := rfl
@[simp] theorem exec_bpick (f : LaneFields) (s : State) : exec (.bpick f) s = execBpick f s := rfl
@[simp] theorem exec_lLd (f : LaneFields) (s : State) : exec (.lLd f) s = execLLd f s := rfl
@[simp] theorem exec_lSt (f : LaneFields) (s : State) : exec (.lSt f) s = execLSt f s := rfl
@[simp] theorem exec_lLds (f : LaneFields) (s : State) : exec (.lLds f) s = execLLds f s := rfl
@[simp] theorem exec_lSts (f : LaneFields) (s : State) : exec (.lSts f) s = execLSts f s := rfl
@[simp] theorem exec_lLdt (f : LaneFields) (s : State) : exec (.lLdt f) s = execLLdt f s := rfl
@[simp] theorem exec_lStt (f : LaneFields) (s : State) : exec (.lStt f) s = execLStt f s := rfl
@[simp] theorem exec_lAtomAdd (f : LaneFields) (s : State) : exec (.lAtomAdd f) s = execLAtomAdd f s := rfl
@[simp] theorem exec_lAtomMin (f : LaneFields) (s : State) : exec (.lAtomMin f) s = execLAtomMin f s := rfl
@[simp] theorem exec_lAtomMax (f : LaneFields) (s : State) : exec (.lAtomMax f) s = execLAtomMax f s := rfl
@[simp] theorem exec_lAtomAnd (f : LaneFields) (s : State) : exec (.lAtomAnd f) s = execLAtomAnd f s := rfl
@[simp] theorem exec_lAtomOr (f : LaneFields) (s : State) : exec (.lAtomOr f) s = execLAtomOr f s := rfl
@[simp] theorem exec_lAtomXor (f : LaneFields) (s : State) : exec (.lAtomXor f) s = execLAtomXor f s := rfl
@[simp] theorem exec_lAtomXchg (f : LaneFields) (s : State) : exec (.lAtomXchg f) s = execLAtomXchg f s := rfl
@[simp] theorem exec_lAtomCas (f : LaneFields) (s : State) : exec (.lAtomCas f) s = execLAtomCas f s := rfl
@[simp] theorem exec_lSatomAdd (f : LaneFields) (s : State) : exec (.lSatomAdd f) s = execLSatomAdd f s := rfl
@[simp] theorem exec_lSatomMin (f : LaneFields) (s : State) : exec (.lSatomMin f) s = execLSatomMin f s := rfl
@[simp] theorem exec_lSatomMax (f : LaneFields) (s : State) : exec (.lSatomMax f) s = execLSatomMax f s := rfl
@[simp] theorem exec_lSatomAnd (f : LaneFields) (s : State) : exec (.lSatomAnd f) s = execLSatomAnd f s := rfl
@[simp] theorem exec_lSatomOr (f : LaneFields) (s : State) : exec (.lSatomOr f) s = execLSatomOr f s := rfl
@[simp] theorem exec_lSatomXor (f : LaneFields) (s : State) : exec (.lSatomXor f) s = execLSatomXor f s := rfl
@[simp] theorem exec_lSatomXchg (f : LaneFields) (s : State) : exec (.lSatomXchg f) s = execLSatomXchg f s := rfl
@[simp] theorem exec_lSatomCas (f : LaneFields) (s : State) : exec (.lSatomCas f) s = execLSatomCas f s := rfl
@[simp] theorem exec_lRld (f : LaneFields) (s : State) : exec (.lRld f) s = execLRld f s := rfl
@[simp] theorem exec_lRst (f : LaneFields) (s : State) : exec (.lRst f) s = execLRst f s := rfl
@[simp] theorem exec_lRatomAdd (f : LaneFields) (s : State) : exec (.lRatomAdd f) s = execLRatomAdd f s := rfl
@[simp] theorem exec_lRatomCas (f : LaneFields) (s : State) : exec (.lRatomCas f) s = execLRatomCas f s := rfl
@[simp] theorem exec_modmul (f : LaneFields) (s : State) : exec (.modmul f) s = execModmul f s := rfl
@[simp] theorem exec_modadd (f : LaneFields) (s : State) : exec (.modadd f) s = execModadd f s := rfl
@[simp] theorem exec_modsub (f : LaneFields) (s : State) : exec (.modsub f) s = execModsub f s := rfl
@[simp] theorem exec_modmad (f : LaneFields) (s : State) : exec (.modmad f) s = execModmad f s := rfl
@[simp] theorem exec_nttBfly (f : LaneFields) (s : State) : exec (.nttBfly f) s = execNttBfly f s := rfl
@[simp] theorem exec_laneGrant (core : Nat) (s : State) : exec (.laneGrant core) s = execLaneGrant core s := rfl
@[simp] theorem exec_regGrowGrant (core : Nat) (s : State) : exec (.regGrowGrant core) s = execRegGrowGrant core s := rfl
@[simp] theorem exec_monitorWake (w : Nat) (s : State) : exec (.monitorWake w) s = execMonitorWake w s := rfl
@[simp] theorem exec_monTimeout (w : Nat) (s : State) : exec (.monTimeout w) s = execMonTimeout w s := rfl
@[simp] theorem exec_quiesceIdle (w : Nat) (s : State) : exec (.quiesceIdle w) s = execQuiesceIdle w s := rfl
@[simp] theorem exec_pageWalk (die src ctx hold kind : Nat) (tensor : Bool) (va : BitVec 64) (s : State) : exec (.pageWalk die src ctx hold kind tensor va) s = execPageWalk die src ctx hold kind tensor va s := rfl
@[simp] theorem exec_replay (part : Nat) (s : State) : exec (.replay part) s = execReplay part s := rfl
@[simp] theorem exec_translationInvalidation (die line : Nat) (s : State) : exec (.translationInvalidation die line) s = execTranslationInvalidation die line s := rfl
@[simp] theorem exec_trackedWritePerform (line : Nat) (s : State) : exec (.trackedWritePerform line) s = execTrackedWritePerform line s := rfl
@[simp] theorem exec_homeRead (cluster line victim : Nat) (s : State) : exec (.homeRead cluster line victim) s = execHomeRead cluster line victim s := rfl
@[simp] theorem exec_homeOwnership (cluster line victim : Nat) (s : State) : exec (.homeOwnership cluster line victim) s = execHomeOwnership cluster line victim s := rfl
@[simp] theorem exec_cleanEvictionNotice (cluster line : Nat) (s : State) : exec (.cleanEvictionNotice cluster line) s = execCleanEvictionNotice cluster line s := rfl
@[simp] theorem exec_ownerWriteback (cluster line : Nat) (s : State) : exec (.ownerWriteback cluster line) s = execOwnerWriteback cluster line s := rfl
@[simp] theorem exec_invalidation (cluster line : Nat) (s : State) : exec (.invalidation cluster line) s = execInvalidation cluster line s := rfl
@[simp] theorem exec_grainRegister (core pa : Nat) (s : State) : exec (.grainRegister core pa) s = execGrainRegister core pa s := rfl
@[simp] theorem exec_grainClear (core grain : Nat) (s : State) : exec (.grainClear core grain) s = execGrainClear core grain s := rfl
@[simp] theorem exec_forcedClose (core : Nat) (s : State) : exec (.forcedClose core) s = execForcedClose core s := rfl
@[simp] theorem exec_copyQueueOperation (core q : Nat) (s : State) : exec (.copyQueueOperation core q) s = execCopyQueueOperation core q s := rfl
@[simp] theorem exec_gatherOperation (core : Nat) (s : State) : exec (.gatherOperation core) s = execGatherOperation core s := rfl
@[simp] theorem exec_mxQueueEntry (core : Nat) (s : State) : exec (.mxQueueEntry core) s = execMxQueueEntry core s := rfl
@[simp] theorem exec_writeCombiningDrain (core : Nat) (s : State) : exec (.writeCombiningDrain core) s = execWriteCombiningDrain core s := rfl
@[simp] theorem exec_remoteResponse (id reason detail : Nat) (data : BitVec 64) (s : State) : exec (.remoteResponse id reason detail data) s = execRemoteResponse id reason detail data s := rfl
@[simp] theorem exec_lineWriteAck (id code : Nat) (s : State) : exec (.lineWriteAck id code) s = execLineWriteAck id code s := rfl
@[simp] theorem exec_inboundRemoteAccess (id peer srcPart ctx lease va : Nat) (op : RemOp) (size : Nat) (x y : BitVec 64) (s : State) : exec (.inboundRemoteAccess id peer srcPart ctx lease va op size x y) s = execInboundRemoteAccess id peer srcPart ctx lease va op size x y s := rfl
@[simp] theorem exec_inboundLineWrite (id peer srcPart ctx lease va : Nat) (data : BitVec 1024) (mask : BitVec 128) (release : Bool) (s : State) : exec (.inboundLineWrite id peer srcPart ctx lease va data mask release) s = execInboundLineWrite id peer srcPart ctx lease va data mask release s := rfl
@[simp] theorem exec_remoteTimeout (id : Nat) (s : State) : exec (.remoteTimeout id) s = execRemoteTimeout id s := rfl
@[simp] theorem exec_remoteFaultTimeout (id peer : Nat) (s : State) : exec (.remoteFaultTimeout id peer) s = execRemoteFaultTimeout id peer s := rfl
@[simp] theorem exec_done (part : Nat) (s : State) : exec (.done part) s = execDone part s := rfl
@[simp] theorem exec_storeFaultTimeout (part seq : Nat) (s : State) : exec (.storeFaultTimeout part seq) s = execStoreFaultTimeout part seq s := rfl
@[simp] theorem exec_storeFaultLogFullTimeout (id peer : Nat) (s : State) : exec (.storeFaultLogFullTimeout id peer) s = execStoreFaultLogFullTimeout id peer s := rfl
@[simp] theorem exec_bulkRequest (send peer srcPart ctx lease base dest total prio : Nat) (flag : Option (Nat × BitVec 64)) (rxLand : Option Nat) (len data : Nat) (poison : List (Nat × Nat)) (s : State) : exec (.bulkRequest send peer srcPart ctx lease base dest total prio flag rxLand len data poison) s = execBulkRequest send peer srcPart ctx lease base dest total prio flag rxLand len data poison s := rfl
@[simp] theorem exec_bulkRequestRetry (send : Nat) (s : State) : exec (.bulkRequestRetry send) s = execBulkRequestRetry send s := rfl
@[simp] theorem exec_tokenGrant  (s : State) : exec (.tokenGrant) s = execTokenGrant s := rfl
@[simp] theorem exec_tokenArrival (send : Nat) (req : TokenRef) (off n : Nat) (old : Bool) (s : State) : exec (.tokenArrival send req off n old) s = execTokenArrival send req off n old s := rfl
@[simp] theorem exec_tokenDataLand (req : TokenRef) (off n data : Nat) (poison : List (Nat × Nat)) (s : State) : exec (.tokenDataLand req off n data poison) s = execTokenDataLand req off n data poison s := rfl
@[simp] theorem exec_tokenExpiry (req off : Nat) (s : State) : exec (.tokenExpiry req off) s = execTokenExpiry req off s := rfl
@[simp] theorem exec_orphan (req : Nat) (s : State) : exec (.orphan req) s = execOrphan req s := rfl
@[simp] theorem exec_agePromotion (req : Nat) (s : State) : exec (.agePromotion req) s = execAgePromotion req s := rfl
@[simp] theorem exec_park (req : Nat) (s : State) : exec (.park req) s = execPark req s := rfl
@[simp] theorem exec_resume (req : Nat) (s : State) : exec (.resume req) s = execResume req s := rfl
@[simp] theorem exec_finalAcknowledgement (send : Nat) (s : State) : exec (.finalAcknowledgement send) s = execFinalAcknowledgement send s := rfl
@[simp] theorem exec_takeLaunchRecord (part level : Nat) (s : State) : exec (.takeLaunchRecord part level) s = execTakeLaunchRecord part level s := rfl
@[simp] theorem exec_launchOpen (num : Nat) (s : State) : exec (.launchOpen num) s = execLaunchOpen num s := rfl
@[simp] theorem exec_workRecordWrite (num : Nat) (s : State) : exec (.workRecordWrite num) s = execWorkRecordWrite num s := rfl
@[simp] theorem exec_placeWorkgroup (core : Nat) (s : State) : exec (.placeWorkgroup core) s = execPlaceWorkgroup core s := rfl
@[simp] theorem exec_launchComplete (num : Nat) (s : State) : exec (.launchComplete num) s = execLaunchComplete num s := rfl
@[simp] theorem exec_preemption (r : Nat) (finish : Bool) (s : State) : exec (.preemption r finish) s = execPreemption r finish s := rfl
@[simp] theorem exec_resumeWorkgroup (core : Nat) (s : State) : exec (.resumeWorkgroup core) s = execResumeWorkgroup core s := rfl
@[simp] theorem exec_witnessPlace (id course : Nat) (record : BitVec 1024) (header : BitVec 512) (s : State) : exec (.witnessPlace id course record header) s = execWitnessPlace id course record header s := rfl
@[simp] theorem exec_witnessTest (id : Nat) (values : List (BitVec 64)) (s : State) : exec (.witnessTest id values) s = execWitnessTest id values s := rfl
@[simp] theorem exec_reexecute (id : Nat) (s : State) : exec (.reexecute id) s = execReexecute id s := rfl
@[simp] theorem exec_seedEpoch  (s : State) : exec (.seedEpoch) s = execSeedEpoch s := rfl
@[simp] theorem exec_deviceTick  (s : State) : exec (.deviceTick) s = execDeviceTick s := rfl
@[simp] theorem exec_l1AgeInvalidate (core line : Nat) (s : State) : exec (.l1AgeInvalidate core line) s = execL1AgeInvalidate core line s := rfl
@[simp] theorem exec_hourlyCounterClear  (s : State) : exec (.hourlyCounterClear) s = execHourlyCounterClear s := rfl
@[simp] theorem exec_failureWindowExpiry  (s : State) : exec (.failureWindowExpiry) s = execFailureWindowExpiry s := rfl
@[simp] theorem exec_scrub (sec symbols : Nat) (pin : Bool) (s : State) : exec (.scrub sec symbols pin) s = execScrub sec symbols pin s := rfl
@[simp] theorem exec_reencodeRow (bank : Nat) (last : Bool) (s : State) : exec (.reencodeRow bank last) s = execReencodeRow bank last s := rfl
@[simp] theorem exec_migrateLine (move : LineMove) (s : State) : exec (.migrateLine move) s = execMigrateLine move s := rfl
@[simp] theorem exec_zeroing  (s : State) : exec (.zeroing) s = execZeroing s := rfl
@[simp] theorem exec_pipelineError (w : PipeAt) (s : State) : exec (.pipelineError w) s = execPipelineError w s := rfl
@[simp] theorem exec_pipelineRetry (w : Nat) (passed : Bool) (s : State) : exec (.pipelineRetry w passed) s = execPipelineRetry w passed s := rfl
@[simp] theorem exec_coreUe (core : Nat) (hit : CoreHit) (s : State) : exec (.coreUe core hit) s = execCoreUe core hit s := rfl
@[simp] theorem exec_powerGate (core : Nat) (s : State) : exec (.powerGate core) s = execPowerGate core s := rfl
@[simp] theorem exec_coreWake (core : Nat) (s : State) : exec (.coreWake core) s = execCoreWake core s := rfl
@[simp] theorem exec_selfTestDone (core : Nat) (pass : Bool) (s : State) : exec (.selfTestDone core pass) s = execSelfTestDone core pass s := rfl
@[simp] theorem exec_linkWake (a b : Nat) (s : State) : exec (.linkWake a b) s = execLinkWake a b s := rfl
@[simp] theorem exec_linkTrained (a b : Nat) (s : State) : exec (.linkTrained a b) s = execLinkTrained a b s := rfl
@[simp] theorem exec_linkWakeTimeout (a b : Nat) (s : State) : exec (.linkWakeTimeout a b) s = execLinkWakeTimeout a b s := rfl
@[simp] theorem exec_linkFenceTimeout (a b : Nat) (s : State) : exec (.linkFenceTimeout a b) s = execLinkFenceTimeout a b s := rfl
@[simp] theorem exec_interconnectUe (course : Nat) (lines : List Nat) (s : State) : exec (.interconnectUe course lines) s = execInterconnectUe course lines s := rfl
@[simp] theorem exec_courseDrainDone (course : Nat) (s : State) : exec (.courseDrainDone course) s = execCourseDrainDone course s := rfl
@[simp] theorem exec_courseDrainDeadline (course : Nat) (lost : List Nat) (s : State) : exec (.courseDrainDeadline course lost) s = execCourseDrainDeadline course lost s := rfl
@[simp] theorem exec_courseRejoin (course : Nat) (s : State) : exec (.courseRejoin course) s = execCourseRejoin course s := rfl
@[simp] theorem exec_courseFailed (course : Nat) (s : State) : exec (.courseFailed course) s = execCourseFailed course s := rfl
@[simp] theorem exec_throttle (lower : Bool) (s : State) : exec (.throttle lower) s = execThrottle lower s := rfl
@[simp] theorem exec_overtemp  (s : State) : exec (.overtemp) s = execOvertemp s := rfl
@[simp] theorem exec_powerUp (ports : List Nat) (s : State) : exec (.powerUp ports) s = execPowerUp ports s := rfl
@[simp] theorem exec_packageReset  (s : State) : exec (.packageReset) s = execPackageReset s := rfl
@[simp] theorem exec_fwGo (length : BitVec 32) (s : State) : exec (.fwGo length) s = execFwGo length s := rfl
@[simp] theorem exec_authentication  (s : State) : exec (.authentication) s = execAuthentication s := rfl
@[simp] theorem exec_bringup (banks cores : List Nat) (s : State) : exec (.bringup banks cores) s = execBringup banks cores s := rfl
@[simp] theorem exec_hostMemRead (place : HostPlace) (n : Nat) (stream : Option Nat) (s : State) : exec (.hostMemRead place n stream) s = execHostMemRead place n stream s := rfl
@[simp] theorem exec_hostMemWrite (bar2 : Bool) (pa n data : Nat) (stream : Option Nat) (s : State) : exec (.hostMemWrite bar2 pa n data stream) s = execHostMemWrite bar2 pa n data stream s := rfl
@[simp] theorem exec_spdmRequest (function op : Nat) (s : State) : exec (.spdmRequest function op) s = execSpdmRequest function op s := rfl
@[simp] theorem exec_tdispRequest (part op : Nat) (s : State) : exec (.tdispRequest part op) s = execTdispRequest part op s := rfl
@[simp] theorem exec_stopInterface (part : Nat) (s : State) : exec (.stopInterface part) s = execStopInterface part s := rfl
@[simp] theorem exec_registerWrite (off : Nat) (value : BitVec 64) (block : BitVec 4096) (s : State) : exec (.registerWrite off value block) s = execRegisterWrite off value block s := rfl
@[simp] theorem exec_partSet (n : Nat) (s : State) : exec (.partSet n) s = execPartSet n s := rfl
@[simp] theorem exec_ctxSet (n : Nat) (s : State) : exec (.ctxSet n) s = execCtxSet n s := rfl
@[simp] theorem exec_ctxEnd (n : Nat) (s : State) : exec (.ctxEnd n) s = execCtxEnd n s := rfl
@[simp] theorem exec_frameAssign (n : Nat) (s : State) : exec (.frameAssign n) s = execFrameAssign n s := rfl
@[simp] theorem exec_kilnAssign (n : Nat) (s : State) : exec (.kilnAssign n) s = execKilnAssign n s := rfl
@[simp] theorem exec_kilnFree (n : Nat) (s : State) : exec (.kilnFree n) s = execKilnFree n s := rfl
@[simp] theorem exec_queueSet (n : Nat) (s : State) : exec (.queueSet n) s = execQueueSet n s := rfl
@[simp] theorem exec_peerSet (n : Nat) (s : State) : exec (.peerSet n) s = execPeerSet n s := rfl
@[simp] theorem exec_launchEnd (n : Nat) (s : State) : exec (.launchEnd n) s = execLaunchEnd n s := rfl
@[simp] theorem exec_checkpoint (n : Nat) (s : State) : exec (.checkpoint n) s = execCheckpoint n s := rfl
@[simp] theorem exec_checkpointComplete  (s : State) : exec (.checkpointComplete) s = execCheckpointComplete s := rfl
@[simp] theorem exec_restore (n : Nat) (s : State) : exec (.restore n) s = execRestore n s := rfl
@[simp] theorem exec_restoreComplete  (s : State) : exec (.restoreComplete) s = execRestoreComplete s := rfl
@[simp] theorem exec_dieReset (n : Nat) (s : State) : exec (.dieReset n) s = execDieReset n s := rfl
@[simp] theorem exec_certify (n : Nat) (s : State) : exec (.certify n) s = execCertify n s := rfl
@[simp] theorem exec_faultExport (n : Nat) (s : State) : exec (.faultExport n) s = execFaultExport n s := rfl
@[simp] theorem exec_faultImport (n : Nat) (image : List (BitVec 8)) (s : State) : exec (.faultImport n image) s = execFaultImport n image s := rfl
@[simp] theorem exec_relSet (n : Nat) (s : State) : exec (.relSet n) s = execRelSet n s := rfl
@[simp] theorem exec_certSet (n : Nat) (s : State) : exec (.certSet n) s = execCertSet n s := rfl
@[simp] theorem exec_faultSet (n : Nat) (s : State) : exec (.faultSet n) s = execFaultSet n s := rfl
@[simp] theorem exec_farSet (n : Nat) (s : State) : exec (.farSet n) s = execFarSet n s := rfl
@[simp] theorem exec_powerSet (n : Nat) (s : State) : exec (.powerSet n) s = execPowerSet n s := rfl
@[simp] theorem exec_linkLowPowerEntry (a b : Nat) (s : State) : exec (.linkLowPowerEntry a b) s = execLinkLowPowerEntry a b s := rfl
@[simp] theorem exec_tokenAcknowledgement (send req off n code : Nat) (s : State) : exec (.tokenAcknowledgement send req off n code) s = execTokenAcknowledgement send req off n code s := rfl
@[simp] theorem exec_finalResponse (send left : Nat) (orphaned : Bool) (s : State) : exec (.finalResponse send left orphaned) s = execFinalResponse send left orphaned s := rfl
@[simp] theorem exec_hostWindowResponse (id : Nat) (data : BitVec 64) (s : State) : exec (.hostWindowResponse id data) s = execHostWindowResponse id data s := rfl
@[simp] theorem exec_bisnpResponse (line : Nat) (s : State) : exec (.bisnpResponse line) s = execBisnpResponse line s := rfl

end Sys2Proof.Machine
end

