-- ==== Sys2Proof/Laws/Tab.lean ====
section
/-! SUPPORT. Laws of the sparse tables: a read after a write, and the canonical form that every operation keeps. -/

namespace Sys2Proof.Machine

variable {α : Type}

theorem Tab.get_cons (d : α) (k j : Nat) (v : α) (m : Tab α) :
    Tab.get d ((k, v) :: m) j = if k = j then v else Tab.get d m j := rfl

theorem Tab.get_erase (d : α) (m : Tab α) (k j : Nat) :
    Tab.get d (Tab.erase m k) j = if k = j then d else Tab.get d m j := by
  induction m with
  | nil => simp [Tab.erase, Tab.get]
  | cons e r ih =>
    obtain ⟨k', v⟩ := e
    simp only [Tab.erase, Tab.get_cons]
    split
    · subst_vars; rw [ih]; split <;> simp_all
    · simp only [Tab.get_cons, ih]; split <;> split <;> simp_all

theorem Tab.get_insert (d : α) (m : Tab α) (k j : Nat) (v : α) (h : ∀ e ∈ m, e.1 ≠ k) :
    Tab.get d (Tab.insert m k v) j = if k = j then v else Tab.get d m j := by
  induction m with
  | nil => rfl
  | cons e r ih =>
    obtain ⟨k', v'⟩ := e
    simp only [Tab.insert]
    split
    · rfl
    · simp only [Tab.get_cons, ih fun e he => h e (List.mem_cons_of_mem _ he)]
      have := h (k', v') (List.mem_cons_self ..)
      split <;> split <;> simp_all

theorem Tab.mem_of_mem_erase (m : Tab α) (k : Nat) (e : Nat × α) (h : e ∈ Tab.erase m k) : e ∈ m ∧ e.1 ≠ k := by
  induction m with
  | nil => simp [Tab.erase] at h
  | cons x r ih =>
    simp only [Tab.erase] at h
    split at h
    · exact ⟨List.mem_cons_of_mem _ (ih h).1, (ih h).2⟩
    · rename_i hx
      rcases List.mem_cons.1 h with rfl | h
      · exact ⟨List.mem_cons_self .., hx⟩
      · exact ⟨List.mem_cons_of_mem _ (ih h).1, (ih h).2⟩

/-- A read after a write: the written value at the key, what was there before anywhere else. -/
theorem Tab.get_set [DecidableEq α] (d : α) (m : Tab α) (k j : Nat) (v : α) :
    Tab.get d (Tab.set d m k v) j = if k = j then v else Tab.get d m j := by
  unfold Tab.set
  split
  · subst_vars; rw [Tab.get_erase]
  · rw [Tab.get_insert d _ _ _ _ fun e he => (Tab.mem_of_mem_erase m k e he).2, Tab.get_erase]
    split <;> simp_all

@[simp] theorem Tab.get_set_same [DecidableEq α] (d : α) (m : Tab α) (k : Nat) (v : α) :
    Tab.get d (Tab.set d m k v) k = v := by simp [Tab.get_set]

theorem Tab.get_set_ne [DecidableEq α] (d : α) (m : Tab α) (k j : Nat) (v : α) (h : k ≠ j) :
    Tab.get d (Tab.set d m k v) j = Tab.get d m j := by simp [Tab.get_set, h]

theorem Tab.wf_cons [DecidableEq α] (d : α) (k : Nat) (v : α) (r : Tab α) :
    Tab.wf d ((k, v) :: r) = true ↔ v ≠ d ∧ (∀ e ∈ r, k < e.1) ∧ Tab.wf d r = true := by
  simp [Tab.wf, List.all_eq_true, and_assoc]

theorem Tab.wf_erase [DecidableEq α] (d : α) (m : Tab α) (k : Nat) (h : Tab.wf d m = true) :
    Tab.wf d (Tab.erase m k) = true := by
  induction m with
  | nil => rfl
  | cons e r ih =>
    obtain ⟨k', v⟩ := e
    rw [Tab.wf_cons] at h
    simp only [Tab.erase]
    split
    · exact ih h.2.2
    · rw [Tab.wf_cons]
      exact ⟨h.1, fun e he => h.2.1 e (Tab.mem_of_mem_erase r k e he).1, ih h.2.2⟩

theorem Tab.mem_of_mem_insert (m : Tab α) (k : Nat) (v : α) (e : Nat × α) (h : e ∈ Tab.insert m k v) :
    e = (k, v) ∨ e ∈ m := by
  induction m with
  | nil => simpa [Tab.insert] using h
  | cons x r ih =>
    simp only [Tab.insert] at h
    split at h
    · simpa using h
    · rcases List.mem_cons.1 h with rfl | h
      · exact .inr (List.mem_cons_self ..)
      · exact (ih h).imp_right (List.mem_cons_of_mem _)

theorem Tab.wf_insert [DecidableEq α] (d : α) (m : Tab α) (k : Nat) (v : α) (h : Tab.wf d m = true) (hv : v ≠ d)
    (hk : ∀ e ∈ m, e.1 ≠ k) : Tab.wf d (Tab.insert m k v) = true := by
  induction m with
  | nil => simp [Tab.insert, Tab.wf, hv]
  | cons e r ih =>
    obtain ⟨k', v'⟩ := e
    rw [Tab.wf_cons] at h
    have hne : k' ≠ k := hk (k', v') (List.mem_cons_self ..)
    simp only [Tab.insert]
    split
    · rename_i hlt
      rw [Tab.wf_cons, Tab.wf_cons]
      refine ⟨hv, fun e he => ?_, h⟩
      rcases List.mem_cons.1 he with rfl | he
      · exact hlt
      · exact Nat.lt_trans hlt (h.2.1 e he)
    · rw [Tab.wf_cons]
      refine ⟨h.1, fun e he => ?_, ih h.2.2 fun e he => hk e (List.mem_cons_of_mem _ he)⟩
      rcases Tab.mem_of_mem_insert r k v e he with rfl | he
      · show k' < k; omega
      · exact h.2.1 e he

/-- A write keeps the canonical form. -/
theorem Tab.wf_set [DecidableEq α] (d : α) (m : Tab α) (k : Nat) (v : α) (h : Tab.wf d m = true) :
    Tab.wf d (Tab.set d m k v) = true := by
  unfold Tab.set
  split
  · exact Tab.wf_erase d m k h
  · rename_i hv
    exact Tab.wf_insert d _ k v (Tab.wf_erase d m k h) hv fun e he => (Tab.mem_of_mem_erase m k e he).2

theorem Tab.wf_filter [DecidableEq α] (d : α) (m : Tab α) (p : Nat × α → Bool) (h : Tab.wf d m = true) :
    Tab.wf d (m.filter p) = true := by
  induction m with
  | nil => rfl
  | cons e r ih =>
    obtain ⟨k', v⟩ := e
    rw [Tab.wf_cons] at h
    rw [List.filter_cons]
    split
    · rw [Tab.wf_cons]
      exact ⟨h.1, fun e he => h.2.1 e (List.mem_filter.1 he).1, ih h.2.2⟩
    · exact ih h.2.2

theorem Tab.wf_filterKeys [DecidableEq α] (d : α) (m : Tab α) (p : Nat → Bool) (h : Tab.wf d m = true) :
    Tab.wf d (Tab.filterKeys m p) = true := Tab.wf_filter d m _ h

theorem Tab.wf_foldl [DecidableEq α] {β : Type} (d : α) (l : List β) (f : Tab α → β → Tab α)
    (hf : ∀ m x, Tab.wf d m = true → Tab.wf d (f m x) = true) (m : Tab α) (h : Tab.wf d m = true) :
    Tab.wf d (l.foldl f m) = true := by
  induction l generalizing m with
  | nil => exact h
  | cons x l ih => exact ih _ (hf m x h)

theorem Tab.wf_fill [DecidableEq α] (d : α) (m : Tab α) (a n : Nat) (v : α) (h : Tab.wf d m = true) :
    Tab.wf d (Tab.fill d m a n v) = true := by
  unfold Tab.fill
  split
  · exact Tab.wf_filterKeys d m _ h
  · exact Tab.wf_foldl d _ _ (fun m i hm => Tab.wf_set d m _ v hm) m h

theorem writeN_wf (m : Tab Byte) (a n x : Nat) (h : Tab.wf 0 m = true) : Tab.wf 0 (writeN m a n x) = true := by
  induction n generalizing m a x with
  | zero => exact h
  | succ n ih => exact ih _ _ _ (Tab.wf_set 0 m a _ h)

theorem writeMasked_wf (m : Tab Byte) (a n mask x : Nat) (h : Tab.wf 0 m = true) :
    Tab.wf 0 (writeMasked m a n mask x) = true := by
  induction n generalizing m a mask x with
  | zero => exact h
  | succ n ih =>
    refine ih _ _ _ _ ?_
    split
    · exact Tab.wf_set 0 m a _ h
    · exact h

/-- Bytes outside [a, a + n) keep their value. -/
theorem writeN_get_out (m : Tab Byte) (a n x j : Nat) (h : j < a ∨ a + n ≤ j) :
    Tab.get 0 (writeN m a n x) j = Tab.get 0 m j := by
  induction n generalizing m a x with
  | zero => rfl
  | succ n ih =>
    rw [writeN, ih _ _ _ (by omega), Tab.get_set_ne _ _ _ _ _ (by omega)]

theorem writeMasked_get_out (m : Tab Byte) (a n mask x j : Nat) (h : j < a ∨ a + n ≤ j) :
    Tab.get 0 (writeMasked m a n mask x) j = Tab.get 0 m j := by
  induction n generalizing m a mask x with
  | zero => rfl
  | succ n ih =>
    rw [writeMasked, ih _ _ _ _ (by omega)]
    split
    · exact Tab.get_set_ne _ _ _ _ _ (by omega)
    · rfl

/-- A run read after it was written. -/
theorem readN_writeN (m : Tab Byte) (a n x : Nat) : readN (writeN m a n x) a n = x % 2 ^ (8 * n) := by
  induction n generalizing m a x with
  | zero => simp [readN, Nat.mod_one]
  | succ n ih =>
    rw [readN, writeN, writeN_get_out _ _ _ _ _ (by omega), Tab.get_set_same, ih, BitVec.toNat_ofNat,
      show 8 * (n + 1) = 8 + 8 * n by omega, Nat.pow_add, Nat.mod_mul]

end Sys2Proof.Machine
end

