-- ==== Sys2Proof/Laws/State.lean ====
section
/-! SUPPORT. What each update of the state and of a warp leaves unchanged, field by field, and what a read after it gives. -/

namespace Sys2Proof.Machine

@[simp] theorem State.setWarp_agenda (s : State) (i : Nat) (w : Warp) : (s.setWarp i w).agenda = s.agenda := rfl
@[simp] theorem State.setWarp_cur (s : State) (i : Nat) (w : Warp) : (s.setWarp i w).cur = s.cur := rfl
@[simp] theorem State.setWarp_freeCtr (s : State) (i : Nat) (w : Warp) : (s.setWarp i w).freeCtr = s.freeCtr := rfl
@[simp] theorem State.setWarp_outbox (s : State) (i : Nat) (w : Warp) : (s.setWarp i w).outbox = s.outbox := rfl
@[simp] theorem State.setWarp_tick (s : State) (i : Nat) (w : Warp) : (s.setWarp i w).tick = s.tick := rfl
@[simp] theorem State.setWarp_cycles (s : State) (i : Nat) (w : Warp) : (s.setWarp i w).cycles = s.cycles := rfl
@[simp] theorem State.setWarp_slips (s : State) (i : Nat) (w : Warp) : (s.setWarp i w).slips = s.slips := rfl
@[simp] theorem State.setWarp_wgs (s : State) (i : Nat) (w : Warp) : (s.setWarp i w).wgs = s.wgs := rfl
@[simp] theorem State.setWarp_cores (s : State) (i : Nat) (w : Warp) : (s.setWarp i w).cores = s.cores := rfl
@[simp] theorem State.setWarp_mem (s : State) (i : Nat) (w : Warp) : (s.setWarp i w).mem = s.mem := rfl
@[simp] theorem State.setWarp_xlat (s : State) (i : Nat) (w : Warp) : (s.setWarp i w).xlat = s.xlat := rfl
@[simp] theorem State.setWarp_kiln (s : State) (i : Nat) (w : Warp) : (s.setWarp i w).kiln = s.kiln := rfl
@[simp] theorem State.setWarp_mx (s : State) (i : Nat) (w : Warp) : (s.setWarp i w).mx = s.mx := rfl
@[simp] theorem State.setWarp_eng (s : State) (i : Nat) (w : Warp) : (s.setWarp i w).eng = s.eng := rfl
@[simp] theorem State.setWarp_fab (s : State) (i : Nat) (w : Warp) : (s.setWarp i w).fab = s.fab := rfl
@[simp] theorem State.setWarp_sched (s : State) (i : Nat) (w : Warp) : (s.setWarp i w).sched = s.sched := rfl
@[simp] theorem State.setWarp_cert (s : State) (i : Nat) (w : Warp) : (s.setWarp i w).cert = s.cert := rfl
@[simp] theorem State.setWarp_rel (s : State) (i : Nat) (w : Warp) : (s.setWarp i w).rel = s.rel := rfl
@[simp] theorem State.setWarp_host (s : State) (i : Nat) (w : Warp) : (s.setWarp i w).host = s.host := rfl
@[simp] theorem State.modWarp_agenda (s : State) (i : Nat) (f : Warp → Warp) : (s.modWarp i f).agenda = s.agenda := rfl
@[simp] theorem State.modWarp_cur (s : State) (i : Nat) (f : Warp → Warp) : (s.modWarp i f).cur = s.cur := rfl
@[simp] theorem State.modWarp_freeCtr (s : State) (i : Nat) (f : Warp → Warp) : (s.modWarp i f).freeCtr = s.freeCtr := rfl
@[simp] theorem State.modWarp_outbox (s : State) (i : Nat) (f : Warp → Warp) : (s.modWarp i f).outbox = s.outbox := rfl
@[simp] theorem State.modWarp_tick (s : State) (i : Nat) (f : Warp → Warp) : (s.modWarp i f).tick = s.tick := rfl
@[simp] theorem State.modWarp_cycles (s : State) (i : Nat) (f : Warp → Warp) : (s.modWarp i f).cycles = s.cycles := rfl
@[simp] theorem State.modWarp_slips (s : State) (i : Nat) (f : Warp → Warp) : (s.modWarp i f).slips = s.slips := rfl
@[simp] theorem State.modWarp_wgs (s : State) (i : Nat) (f : Warp → Warp) : (s.modWarp i f).wgs = s.wgs := rfl
@[simp] theorem State.modWarp_cores (s : State) (i : Nat) (f : Warp → Warp) : (s.modWarp i f).cores = s.cores := rfl
@[simp] theorem State.modWarp_mem (s : State) (i : Nat) (f : Warp → Warp) : (s.modWarp i f).mem = s.mem := rfl
@[simp] theorem State.modWarp_xlat (s : State) (i : Nat) (f : Warp → Warp) : (s.modWarp i f).xlat = s.xlat := rfl
@[simp] theorem State.modWarp_kiln (s : State) (i : Nat) (f : Warp → Warp) : (s.modWarp i f).kiln = s.kiln := rfl
@[simp] theorem State.modWarp_mx (s : State) (i : Nat) (f : Warp → Warp) : (s.modWarp i f).mx = s.mx := rfl
@[simp] theorem State.modWarp_eng (s : State) (i : Nat) (f : Warp → Warp) : (s.modWarp i f).eng = s.eng := rfl
@[simp] theorem State.modWarp_fab (s : State) (i : Nat) (f : Warp → Warp) : (s.modWarp i f).fab = s.fab := rfl
@[simp] theorem State.modWarp_sched (s : State) (i : Nat) (f : Warp → Warp) : (s.modWarp i f).sched = s.sched := rfl
@[simp] theorem State.modWarp_cert (s : State) (i : Nat) (f : Warp → Warp) : (s.modWarp i f).cert = s.cert := rfl
@[simp] theorem State.modWarp_rel (s : State) (i : Nat) (f : Warp → Warp) : (s.modWarp i f).rel = s.rel := rfl
@[simp] theorem State.modWarp_host (s : State) (i : Nat) (f : Warp → Warp) : (s.modWarp i f).host = s.host := rfl
@[simp] theorem State.setWg_agenda (s : State) (i : Nat) (g : Workgroup) : (s.setWg i g).agenda = s.agenda := rfl
@[simp] theorem State.setWg_cur (s : State) (i : Nat) (g : Workgroup) : (s.setWg i g).cur = s.cur := rfl
@[simp] theorem State.setWg_freeCtr (s : State) (i : Nat) (g : Workgroup) : (s.setWg i g).freeCtr = s.freeCtr := rfl
@[simp] theorem State.setWg_outbox (s : State) (i : Nat) (g : Workgroup) : (s.setWg i g).outbox = s.outbox := rfl
@[simp] theorem State.setWg_tick (s : State) (i : Nat) (g : Workgroup) : (s.setWg i g).tick = s.tick := rfl
@[simp] theorem State.setWg_cycles (s : State) (i : Nat) (g : Workgroup) : (s.setWg i g).cycles = s.cycles := rfl
@[simp] theorem State.setWg_slips (s : State) (i : Nat) (g : Workgroup) : (s.setWg i g).slips = s.slips := rfl
@[simp] theorem State.setWg_warps (s : State) (i : Nat) (g : Workgroup) : (s.setWg i g).warps = s.warps := rfl
@[simp] theorem State.setWg_cores (s : State) (i : Nat) (g : Workgroup) : (s.setWg i g).cores = s.cores := rfl
@[simp] theorem State.setWg_mem (s : State) (i : Nat) (g : Workgroup) : (s.setWg i g).mem = s.mem := rfl
@[simp] theorem State.setWg_xlat (s : State) (i : Nat) (g : Workgroup) : (s.setWg i g).xlat = s.xlat := rfl
@[simp] theorem State.setWg_kiln (s : State) (i : Nat) (g : Workgroup) : (s.setWg i g).kiln = s.kiln := rfl
@[simp] theorem State.setWg_mx (s : State) (i : Nat) (g : Workgroup) : (s.setWg i g).mx = s.mx := rfl
@[simp] theorem State.setWg_eng (s : State) (i : Nat) (g : Workgroup) : (s.setWg i g).eng = s.eng := rfl
@[simp] theorem State.setWg_fab (s : State) (i : Nat) (g : Workgroup) : (s.setWg i g).fab = s.fab := rfl
@[simp] theorem State.setWg_sched (s : State) (i : Nat) (g : Workgroup) : (s.setWg i g).sched = s.sched := rfl
@[simp] theorem State.setWg_cert (s : State) (i : Nat) (g : Workgroup) : (s.setWg i g).cert = s.cert := rfl
@[simp] theorem State.setWg_rel (s : State) (i : Nat) (g : Workgroup) : (s.setWg i g).rel = s.rel := rfl
@[simp] theorem State.setWg_host (s : State) (i : Nat) (g : Workgroup) : (s.setWg i g).host = s.host := rfl
@[simp] theorem State.setCore_agenda (s : State) (i : Nat) (x : Core) : (s.setCore i x).agenda = s.agenda := rfl
@[simp] theorem State.setCore_cur (s : State) (i : Nat) (x : Core) : (s.setCore i x).cur = s.cur := rfl
@[simp] theorem State.setCore_freeCtr (s : State) (i : Nat) (x : Core) : (s.setCore i x).freeCtr = s.freeCtr := rfl
@[simp] theorem State.setCore_outbox (s : State) (i : Nat) (x : Core) : (s.setCore i x).outbox = s.outbox := rfl
@[simp] theorem State.setCore_tick (s : State) (i : Nat) (x : Core) : (s.setCore i x).tick = s.tick := rfl
@[simp] theorem State.setCore_cycles (s : State) (i : Nat) (x : Core) : (s.setCore i x).cycles = s.cycles := rfl
@[simp] theorem State.setCore_slips (s : State) (i : Nat) (x : Core) : (s.setCore i x).slips = s.slips := rfl
@[simp] theorem State.setCore_warps (s : State) (i : Nat) (x : Core) : (s.setCore i x).warps = s.warps := rfl
@[simp] theorem State.setCore_wgs (s : State) (i : Nat) (x : Core) : (s.setCore i x).wgs = s.wgs := rfl
@[simp] theorem State.setCore_mem (s : State) (i : Nat) (x : Core) : (s.setCore i x).mem = s.mem := rfl
@[simp] theorem State.setCore_xlat (s : State) (i : Nat) (x : Core) : (s.setCore i x).xlat = s.xlat := rfl
@[simp] theorem State.setCore_kiln (s : State) (i : Nat) (x : Core) : (s.setCore i x).kiln = s.kiln := rfl
@[simp] theorem State.setCore_mx (s : State) (i : Nat) (x : Core) : (s.setCore i x).mx = s.mx := rfl
@[simp] theorem State.setCore_eng (s : State) (i : Nat) (x : Core) : (s.setCore i x).eng = s.eng := rfl
@[simp] theorem State.setCore_fab (s : State) (i : Nat) (x : Core) : (s.setCore i x).fab = s.fab := rfl
@[simp] theorem State.setCore_sched (s : State) (i : Nat) (x : Core) : (s.setCore i x).sched = s.sched := rfl
@[simp] theorem State.setCore_cert (s : State) (i : Nat) (x : Core) : (s.setCore i x).cert = s.cert := rfl
@[simp] theorem State.setCore_rel (s : State) (i : Nat) (x : Core) : (s.setCore i x).rel = s.rel := rfl
@[simp] theorem State.setCore_host (s : State) (i : Nat) (x : Core) : (s.setCore i x).host = s.host := rfl
@[simp] theorem State.send_agenda (s : State) (m : Msg) : (s.send m).agenda = s.agenda := rfl
@[simp] theorem State.send_cur (s : State) (m : Msg) : (s.send m).cur = s.cur := rfl
@[simp] theorem State.send_freeCtr (s : State) (m : Msg) : (s.send m).freeCtr = s.freeCtr := rfl
@[simp] theorem State.send_tick (s : State) (m : Msg) : (s.send m).tick = s.tick := rfl
@[simp] theorem State.send_cycles (s : State) (m : Msg) : (s.send m).cycles = s.cycles := rfl
@[simp] theorem State.send_slips (s : State) (m : Msg) : (s.send m).slips = s.slips := rfl
@[simp] theorem State.send_warps (s : State) (m : Msg) : (s.send m).warps = s.warps := rfl
@[simp] theorem State.send_wgs (s : State) (m : Msg) : (s.send m).wgs = s.wgs := rfl
@[simp] theorem State.send_cores (s : State) (m : Msg) : (s.send m).cores = s.cores := rfl
@[simp] theorem State.send_mem (s : State) (m : Msg) : (s.send m).mem = s.mem := rfl
@[simp] theorem State.send_xlat (s : State) (m : Msg) : (s.send m).xlat = s.xlat := rfl
@[simp] theorem State.send_kiln (s : State) (m : Msg) : (s.send m).kiln = s.kiln := rfl
@[simp] theorem State.send_mx (s : State) (m : Msg) : (s.send m).mx = s.mx := rfl
@[simp] theorem State.send_eng (s : State) (m : Msg) : (s.send m).eng = s.eng := rfl
@[simp] theorem State.send_fab (s : State) (m : Msg) : (s.send m).fab = s.fab := rfl
@[simp] theorem State.send_sched (s : State) (m : Msg) : (s.send m).sched = s.sched := rfl
@[simp] theorem State.send_cert (s : State) (m : Msg) : (s.send m).cert = s.cert := rfl
@[simp] theorem State.send_rel (s : State) (m : Msg) : (s.send m).rel = s.rel := rfl
@[simp] theorem State.send_host (s : State) (m : Msg) : (s.send m).host = s.host := rfl
@[simp] theorem State.advance_agenda (s : State)  : (s.advance).agenda = s.agenda := rfl
@[simp] theorem State.advance_cur (s : State)  : (s.advance).cur = s.cur := rfl
@[simp] theorem State.advance_freeCtr (s : State)  : (s.advance).freeCtr = s.freeCtr := rfl
@[simp] theorem State.advance_outbox (s : State)  : (s.advance).outbox = s.outbox := rfl
@[simp] theorem State.advance_tick (s : State)  : (s.advance).tick = s.tick := rfl
@[simp] theorem State.advance_cycles (s : State)  : (s.advance).cycles = s.cycles := rfl
@[simp] theorem State.advance_slips (s : State)  : (s.advance).slips = s.slips := rfl
@[simp] theorem State.advance_wgs (s : State)  : (s.advance).wgs = s.wgs := rfl
@[simp] theorem State.advance_cores (s : State)  : (s.advance).cores = s.cores := rfl
@[simp] theorem State.advance_mem (s : State)  : (s.advance).mem = s.mem := rfl
@[simp] theorem State.advance_xlat (s : State)  : (s.advance).xlat = s.xlat := rfl
@[simp] theorem State.advance_kiln (s : State)  : (s.advance).kiln = s.kiln := rfl
@[simp] theorem State.advance_mx (s : State)  : (s.advance).mx = s.mx := rfl
@[simp] theorem State.advance_eng (s : State)  : (s.advance).eng = s.eng := rfl
@[simp] theorem State.advance_fab (s : State)  : (s.advance).fab = s.fab := rfl
@[simp] theorem State.advance_sched (s : State)  : (s.advance).sched = s.sched := rfl
@[simp] theorem State.advance_cert (s : State)  : (s.advance).cert = s.cert := rfl
@[simp] theorem State.advance_rel (s : State)  : (s.advance).rel = s.rel := rfl
@[simp] theorem State.advance_host (s : State)  : (s.advance).host = s.host := rfl
@[simp] theorem Warp.sset_live (w : Warp) (r : SReg) (x : Word) : (w.sset r x).live = w.live := rfl
@[simp] theorem Warp.sset_wg (w : Warp) (r : SReg) (x : Word) : (w.sset r x).wg = w.wg := rfl
@[simp] theorem Warp.sset_idx (w : Warp) (r : SReg) (x : Word) : (w.sset r x).idx = w.idx := rfl
@[simp] theorem Warp.sset_slot (w : Warp) (r : SReg) (x : Word) : (w.sset r x).slot = w.slot := rfl
@[simp] theorem Warp.sset_pc (w : Warp) (r : SReg) (x : Word) : (w.sset r x).pc = w.pc := rfl
@[simp] theorem Warp.sset_v (w : Warp) (r : SReg) (x : Word) : (w.sset r x).v = w.v := rfl
@[simp] theorem Warp.sset_p (w : Warp) (r : SReg) (x : Word) : (w.sset r x).p = w.p := rfl
@[simp] theorem Warp.sset_aBase (w : Warp) (r : SReg) (x : Word) : (w.sset r x).aBase = w.aBase := rfl
@[simp] theorem Warp.sset_aStride (w : Warp) (r : SReg) (x : Word) : (w.sset r x).aStride = w.aStride := rfl
@[simp] theorem Warp.sset_k (w : Warp) (r : SReg) (x : Word) : (w.sset r x).k = w.k := rfl
@[simp] theorem Warp.sset_kTag (w : Warp) (r : SReg) (x : Word) : (w.sset r x).kTag = w.kTag := rfl
@[simp] theorem Warp.sset_held (w : Warp) (r : SReg) (x : Word) : (w.sset r x).held = w.held := rfl
@[simp] theorem Warp.sset_queue (w : Warp) (r : SReg) (x : Word) : (w.sset r x).queue = w.queue := rfl
@[simp] theorem Warp.sset_hblock (w : Warp) (r : SReg) (x : Word) : (w.sset r x).hblock = w.hblock := rfl
@[simp] theorem Warp.sset_lane (w : Warp) (r : SReg) (x : Word) : (w.sset r x).lane = w.lane := rfl
@[simp] theorem Warp.sset_arithCtl (w : Warp) (r : SReg) (x : Word) : (w.sset r x).arithCtl = w.arithCtl := rfl
@[simp] theorem Warp.sset_modQ (w : Warp) (r : SReg) (x : Word) : (w.sset r x).modQ = w.modQ := rfl
@[simp] theorem Warp.sset_stackLim (w : Warp) (r : SReg) (x : Word) : (w.sset r x).stackLim = w.stackLim := rfl
@[simp] theorem Warp.sset_trapCause (w : Warp) (r : SReg) (x : Word) : (w.sset r x).trapCause = w.trapCause := rfl
@[simp] theorem Warp.sset_trapPc (w : Warp) (r : SReg) (x : Word) : (w.sset r x).trapPc = w.trapPc := rfl
@[simp] theorem Warp.sset_trapLpc (w : Warp) (r : SReg) (x : Word) : (w.sset r x).trapLpc = w.trapLpc := rfl
@[simp] theorem Warp.sset_trapAddr (w : Warp) (r : SReg) (x : Word) : (w.sset r x).trapAddr = w.trapAddr := rfl
@[simp] theorem Warp.sset_trapVec (w : Warp) (r : SReg) (x : Word) : (w.sset r x).trapVec = w.trapVec := rfl
@[simp] theorem Warp.sset_lpcWritten (w : Warp) (r : SReg) (x : Word) : (w.sset r x).lpcWritten = w.lpcWritten := rfl
@[simp] theorem Warp.sset_laneBase (w : Warp) (r : SReg) (x : Word) : (w.sset r x).laneBase = w.laneBase := rfl
@[simp] theorem Warp.sset_wid (w : Warp) (r : SReg) (x : Word) : (w.sset r x).wid = w.wid := rfl
@[simp] theorem Warp.sset_mon (w : Warp) (r : SReg) (x : Word) : (w.sset r x).mon = w.mon := rfl
@[simp] theorem Warp.sset_bar (w : Warp) (r : SReg) (x : Word) : (w.sset r x).bar = w.bar := rfl
@[simp] theorem Warp.sset_gang (w : Warp) (r : SReg) (x : Word) : (w.sset r x).gang = w.gang := rfl
@[simp] theorem Warp.sset_qfence (w : Warp) (r : SReg) (x : Word) : (w.sset r x).qfence = w.qfence := rfl
@[simp] theorem Warp.sset_growTick (w : Warp) (r : SReg) (x : Word) : (w.sset r x).growTick = w.growTick := rfl
@[simp] theorem Warp.sset_mapped (w : Warp) (r : SReg) (x : Word) : (w.sset r x).mapped = w.mapped := rfl
@[simp] theorem Warp.sset_laneLines (w : Warp) (r : SReg) (x : Word) : (w.sset r x).laneLines = w.laneLines := rfl
@[simp] theorem Warp.sset_laneSent (w : Warp) (r : SReg) (x : Word) : (w.sset r x).laneSent = w.laneSent := rfl
@[simp] theorem Warp.sset_owed (w : Warp) (r : SReg) (x : Word) : (w.sset r x).owed = w.owed := rfl
@[simp] theorem Warp.sset_record (w : Warp) (r : SReg) (x : Word) : (w.sset r x).record = w.record := rfl
@[simp] theorem Warp.sset_park (w : Warp) (r : SReg) (x : Word) : (w.sset r x).park = w.park := rfl
@[simp] theorem Warp.vset_live (w : Warp) (n t : Nat) (x : LaneWord) : (w.vset n t x).live = w.live := rfl
@[simp] theorem Warp.vset_wg (w : Warp) (n t : Nat) (x : LaneWord) : (w.vset n t x).wg = w.wg := rfl
@[simp] theorem Warp.vset_idx (w : Warp) (n t : Nat) (x : LaneWord) : (w.vset n t x).idx = w.idx := rfl
@[simp] theorem Warp.vset_slot (w : Warp) (n t : Nat) (x : LaneWord) : (w.vset n t x).slot = w.slot := rfl
@[simp] theorem Warp.vset_pc (w : Warp) (n t : Nat) (x : LaneWord) : (w.vset n t x).pc = w.pc := rfl
@[simp] theorem Warp.vset_s (w : Warp) (n t : Nat) (x : LaneWord) : (w.vset n t x).s = w.s := rfl
@[simp] theorem Warp.vset_p (w : Warp) (n t : Nat) (x : LaneWord) : (w.vset n t x).p = w.p := rfl
@[simp] theorem Warp.vset_aBase (w : Warp) (n t : Nat) (x : LaneWord) : (w.vset n t x).aBase = w.aBase := rfl
@[simp] theorem Warp.vset_aStride (w : Warp) (n t : Nat) (x : LaneWord) : (w.vset n t x).aStride = w.aStride := rfl
@[simp] theorem Warp.vset_k (w : Warp) (n t : Nat) (x : LaneWord) : (w.vset n t x).k = w.k := rfl
@[simp] theorem Warp.vset_kTag (w : Warp) (n t : Nat) (x : LaneWord) : (w.vset n t x).kTag = w.kTag := rfl
@[simp] theorem Warp.vset_held (w : Warp) (n t : Nat) (x : LaneWord) : (w.vset n t x).held = w.held := rfl
@[simp] theorem Warp.vset_queue (w : Warp) (n t : Nat) (x : LaneWord) : (w.vset n t x).queue = w.queue := rfl
@[simp] theorem Warp.vset_hblock (w : Warp) (n t : Nat) (x : LaneWord) : (w.vset n t x).hblock = w.hblock := rfl
@[simp] theorem Warp.vset_lane (w : Warp) (n t : Nat) (x : LaneWord) : (w.vset n t x).lane = w.lane := rfl
@[simp] theorem Warp.vset_arithCtl (w : Warp) (n t : Nat) (x : LaneWord) : (w.vset n t x).arithCtl = w.arithCtl := rfl
@[simp] theorem Warp.vset_modQ (w : Warp) (n t : Nat) (x : LaneWord) : (w.vset n t x).modQ = w.modQ := rfl
@[simp] theorem Warp.vset_stackLim (w : Warp) (n t : Nat) (x : LaneWord) : (w.vset n t x).stackLim = w.stackLim := rfl
@[simp] theorem Warp.vset_trapCause (w : Warp) (n t : Nat) (x : LaneWord) : (w.vset n t x).trapCause = w.trapCause := rfl
@[simp] theorem Warp.vset_trapPc (w : Warp) (n t : Nat) (x : LaneWord) : (w.vset n t x).trapPc = w.trapPc := rfl
@[simp] theorem Warp.vset_trapLpc (w : Warp) (n t : Nat) (x : LaneWord) : (w.vset n t x).trapLpc = w.trapLpc := rfl
@[simp] theorem Warp.vset_trapAddr (w : Warp) (n t : Nat) (x : LaneWord) : (w.vset n t x).trapAddr = w.trapAddr := rfl
@[simp] theorem Warp.vset_trapVec (w : Warp) (n t : Nat) (x : LaneWord) : (w.vset n t x).trapVec = w.trapVec := rfl
@[simp] theorem Warp.vset_lpcWritten (w : Warp) (n t : Nat) (x : LaneWord) : (w.vset n t x).lpcWritten = w.lpcWritten := rfl
@[simp] theorem Warp.vset_laneBase (w : Warp) (n t : Nat) (x : LaneWord) : (w.vset n t x).laneBase = w.laneBase := rfl
@[simp] theorem Warp.vset_wid (w : Warp) (n t : Nat) (x : LaneWord) : (w.vset n t x).wid = w.wid := rfl
@[simp] theorem Warp.vset_mon (w : Warp) (n t : Nat) (x : LaneWord) : (w.vset n t x).mon = w.mon := rfl
@[simp] theorem Warp.vset_bar (w : Warp) (n t : Nat) (x : LaneWord) : (w.vset n t x).bar = w.bar := rfl
@[simp] theorem Warp.vset_gang (w : Warp) (n t : Nat) (x : LaneWord) : (w.vset n t x).gang = w.gang := rfl
@[simp] theorem Warp.vset_qfence (w : Warp) (n t : Nat) (x : LaneWord) : (w.vset n t x).qfence = w.qfence := rfl
@[simp] theorem Warp.vset_growTick (w : Warp) (n t : Nat) (x : LaneWord) : (w.vset n t x).growTick = w.growTick := rfl
@[simp] theorem Warp.vset_mapped (w : Warp) (n t : Nat) (x : LaneWord) : (w.vset n t x).mapped = w.mapped := rfl
@[simp] theorem Warp.vset_laneLines (w : Warp) (n t : Nat) (x : LaneWord) : (w.vset n t x).laneLines = w.laneLines := rfl
@[simp] theorem Warp.vset_laneSent (w : Warp) (n t : Nat) (x : LaneWord) : (w.vset n t x).laneSent = w.laneSent := rfl
@[simp] theorem Warp.vset_owed (w : Warp) (n t : Nat) (x : LaneWord) : (w.vset n t x).owed = w.owed := rfl
@[simp] theorem Warp.vset_record (w : Warp) (n t : Nat) (x : LaneWord) : (w.vset n t x).record = w.record := rfl
@[simp] theorem Warp.vset_park (w : Warp) (n t : Nat) (x : LaneWord) : (w.vset n t x).park = w.park := rfl
@[simp] theorem Warp.aset_live (w : Warp) (n : AReg) (b : Word) (d : BitVec 32) : (w.aset n b d).live = w.live := rfl
@[simp] theorem Warp.aset_wg (w : Warp) (n : AReg) (b : Word) (d : BitVec 32) : (w.aset n b d).wg = w.wg := rfl
@[simp] theorem Warp.aset_idx (w : Warp) (n : AReg) (b : Word) (d : BitVec 32) : (w.aset n b d).idx = w.idx := rfl
@[simp] theorem Warp.aset_slot (w : Warp) (n : AReg) (b : Word) (d : BitVec 32) : (w.aset n b d).slot = w.slot := rfl
@[simp] theorem Warp.aset_pc (w : Warp) (n : AReg) (b : Word) (d : BitVec 32) : (w.aset n b d).pc = w.pc := rfl
@[simp] theorem Warp.aset_s (w : Warp) (n : AReg) (b : Word) (d : BitVec 32) : (w.aset n b d).s = w.s := rfl
@[simp] theorem Warp.aset_v (w : Warp) (n : AReg) (b : Word) (d : BitVec 32) : (w.aset n b d).v = w.v := rfl
@[simp] theorem Warp.aset_p (w : Warp) (n : AReg) (b : Word) (d : BitVec 32) : (w.aset n b d).p = w.p := rfl
@[simp] theorem Warp.aset_k (w : Warp) (n : AReg) (b : Word) (d : BitVec 32) : (w.aset n b d).k = w.k := rfl
@[simp] theorem Warp.aset_kTag (w : Warp) (n : AReg) (b : Word) (d : BitVec 32) : (w.aset n b d).kTag = w.kTag := rfl
@[simp] theorem Warp.aset_held (w : Warp) (n : AReg) (b : Word) (d : BitVec 32) : (w.aset n b d).held = w.held := rfl
@[simp] theorem Warp.aset_queue (w : Warp) (n : AReg) (b : Word) (d : BitVec 32) : (w.aset n b d).queue = w.queue := rfl
@[simp] theorem Warp.aset_hblock (w : Warp) (n : AReg) (b : Word) (d : BitVec 32) : (w.aset n b d).hblock = w.hblock := rfl
@[simp] theorem Warp.aset_lane (w : Warp) (n : AReg) (b : Word) (d : BitVec 32) : (w.aset n b d).lane = w.lane := rfl
@[simp] theorem Warp.aset_arithCtl (w : Warp) (n : AReg) (b : Word) (d : BitVec 32) : (w.aset n b d).arithCtl = w.arithCtl := rfl
@[simp] theorem Warp.aset_modQ (w : Warp) (n : AReg) (b : Word) (d : BitVec 32) : (w.aset n b d).modQ = w.modQ := rfl
@[simp] theorem Warp.aset_stackLim (w : Warp) (n : AReg) (b : Word) (d : BitVec 32) : (w.aset n b d).stackLim = w.stackLim := rfl
@[simp] theorem Warp.aset_trapCause (w : Warp) (n : AReg) (b : Word) (d : BitVec 32) : (w.aset n b d).trapCause = w.trapCause := rfl
@[simp] theorem Warp.aset_trapPc (w : Warp) (n : AReg) (b : Word) (d : BitVec 32) : (w.aset n b d).trapPc = w.trapPc := rfl
@[simp] theorem Warp.aset_trapLpc (w : Warp) (n : AReg) (b : Word) (d : BitVec 32) : (w.aset n b d).trapLpc = w.trapLpc := rfl
@[simp] theorem Warp.aset_trapAddr (w : Warp) (n : AReg) (b : Word) (d : BitVec 32) : (w.aset n b d).trapAddr = w.trapAddr := rfl
@[simp] theorem Warp.aset_trapVec (w : Warp) (n : AReg) (b : Word) (d : BitVec 32) : (w.aset n b d).trapVec = w.trapVec := rfl
@[simp] theorem Warp.aset_lpcWritten (w : Warp) (n : AReg) (b : Word) (d : BitVec 32) : (w.aset n b d).lpcWritten = w.lpcWritten := rfl
@[simp] theorem Warp.aset_laneBase (w : Warp) (n : AReg) (b : Word) (d : BitVec 32) : (w.aset n b d).laneBase = w.laneBase := rfl
@[simp] theorem Warp.aset_wid (w : Warp) (n : AReg) (b : Word) (d : BitVec 32) : (w.aset n b d).wid = w.wid := rfl
@[simp] theorem Warp.aset_mon (w : Warp) (n : AReg) (b : Word) (d : BitVec 32) : (w.aset n b d).mon = w.mon := rfl
@[simp] theorem Warp.aset_bar (w : Warp) (n : AReg) (b : Word) (d : BitVec 32) : (w.aset n b d).bar = w.bar := rfl
@[simp] theorem Warp.aset_gang (w : Warp) (n : AReg) (b : Word) (d : BitVec 32) : (w.aset n b d).gang = w.gang := rfl
@[simp] theorem Warp.aset_qfence (w : Warp) (n : AReg) (b : Word) (d : BitVec 32) : (w.aset n b d).qfence = w.qfence := rfl
@[simp] theorem Warp.aset_growTick (w : Warp) (n : AReg) (b : Word) (d : BitVec 32) : (w.aset n b d).growTick = w.growTick := rfl
@[simp] theorem Warp.aset_mapped (w : Warp) (n : AReg) (b : Word) (d : BitVec 32) : (w.aset n b d).mapped = w.mapped := rfl
@[simp] theorem Warp.aset_laneLines (w : Warp) (n : AReg) (b : Word) (d : BitVec 32) : (w.aset n b d).laneLines = w.laneLines := rfl
@[simp] theorem Warp.aset_laneSent (w : Warp) (n : AReg) (b : Word) (d : BitVec 32) : (w.aset n b d).laneSent = w.laneSent := rfl
@[simp] theorem Warp.aset_owed (w : Warp) (n : AReg) (b : Word) (d : BitVec 32) : (w.aset n b d).owed = w.owed := rfl
@[simp] theorem Warp.aset_record (w : Warp) (n : AReg) (b : Word) (d : BitVec 32) : (w.aset n b d).record = w.record := rfl
@[simp] theorem Warp.aset_park (w : Warp) (n : AReg) (b : Word) (d : BitVec 32) : (w.aset n b d).park = w.park := rfl
@[simp] theorem Warp.kset_live (w : Warp) (n : KReg) (x : BitVec 128) (t : Bool) : (w.kset n x t).live = w.live := rfl
@[simp] theorem Warp.kset_wg (w : Warp) (n : KReg) (x : BitVec 128) (t : Bool) : (w.kset n x t).wg = w.wg := rfl
@[simp] theorem Warp.kset_idx (w : Warp) (n : KReg) (x : BitVec 128) (t : Bool) : (w.kset n x t).idx = w.idx := rfl
@[simp] theorem Warp.kset_slot (w : Warp) (n : KReg) (x : BitVec 128) (t : Bool) : (w.kset n x t).slot = w.slot := rfl
@[simp] theorem Warp.kset_pc (w : Warp) (n : KReg) (x : BitVec 128) (t : Bool) : (w.kset n x t).pc = w.pc := rfl
@[simp] theorem Warp.kset_s (w : Warp) (n : KReg) (x : BitVec 128) (t : Bool) : (w.kset n x t).s = w.s := rfl
@[simp] theorem Warp.kset_v (w : Warp) (n : KReg) (x : BitVec 128) (t : Bool) : (w.kset n x t).v = w.v := rfl
@[simp] theorem Warp.kset_p (w : Warp) (n : KReg) (x : BitVec 128) (t : Bool) : (w.kset n x t).p = w.p := rfl
@[simp] theorem Warp.kset_aBase (w : Warp) (n : KReg) (x : BitVec 128) (t : Bool) : (w.kset n x t).aBase = w.aBase := rfl
@[simp] theorem Warp.kset_aStride (w : Warp) (n : KReg) (x : BitVec 128) (t : Bool) : (w.kset n x t).aStride = w.aStride := rfl
@[simp] theorem Warp.kset_held (w : Warp) (n : KReg) (x : BitVec 128) (t : Bool) : (w.kset n x t).held = w.held := rfl
@[simp] theorem Warp.kset_queue (w : Warp) (n : KReg) (x : BitVec 128) (t : Bool) : (w.kset n x t).queue = w.queue := rfl
@[simp] theorem Warp.kset_hblock (w : Warp) (n : KReg) (x : BitVec 128) (t : Bool) : (w.kset n x t).hblock = w.hblock := rfl
@[simp] theorem Warp.kset_lane (w : Warp) (n : KReg) (x : BitVec 128) (t : Bool) : (w.kset n x t).lane = w.lane := rfl
@[simp] theorem Warp.kset_arithCtl (w : Warp) (n : KReg) (x : BitVec 128) (t : Bool) : (w.kset n x t).arithCtl = w.arithCtl := rfl
@[simp] theorem Warp.kset_modQ (w : Warp) (n : KReg) (x : BitVec 128) (t : Bool) : (w.kset n x t).modQ = w.modQ := rfl
@[simp] theorem Warp.kset_stackLim (w : Warp) (n : KReg) (x : BitVec 128) (t : Bool) : (w.kset n x t).stackLim = w.stackLim := rfl
@[simp] theorem Warp.kset_trapCause (w : Warp) (n : KReg) (x : BitVec 128) (t : Bool) : (w.kset n x t).trapCause = w.trapCause := rfl
@[simp] theorem Warp.kset_trapPc (w : Warp) (n : KReg) (x : BitVec 128) (t : Bool) : (w.kset n x t).trapPc = w.trapPc := rfl
@[simp] theorem Warp.kset_trapLpc (w : Warp) (n : KReg) (x : BitVec 128) (t : Bool) : (w.kset n x t).trapLpc = w.trapLpc := rfl
@[simp] theorem Warp.kset_trapAddr (w : Warp) (n : KReg) (x : BitVec 128) (t : Bool) : (w.kset n x t).trapAddr = w.trapAddr := rfl
@[simp] theorem Warp.kset_trapVec (w : Warp) (n : KReg) (x : BitVec 128) (t : Bool) : (w.kset n x t).trapVec = w.trapVec := rfl
@[simp] theorem Warp.kset_lpcWritten (w : Warp) (n : KReg) (x : BitVec 128) (t : Bool) : (w.kset n x t).lpcWritten = w.lpcWritten := rfl
@[simp] theorem Warp.kset_laneBase (w : Warp) (n : KReg) (x : BitVec 128) (t : Bool) : (w.kset n x t).laneBase = w.laneBase := rfl
@[simp] theorem Warp.kset_wid (w : Warp) (n : KReg) (x : BitVec 128) (t : Bool) : (w.kset n x t).wid = w.wid := rfl
@[simp] theorem Warp.kset_mon (w : Warp) (n : KReg) (x : BitVec 128) (t : Bool) : (w.kset n x t).mon = w.mon := rfl
@[simp] theorem Warp.kset_bar (w : Warp) (n : KReg) (x : BitVec 128) (t : Bool) : (w.kset n x t).bar = w.bar := rfl
@[simp] theorem Warp.kset_gang (w : Warp) (n : KReg) (x : BitVec 128) (t : Bool) : (w.kset n x t).gang = w.gang := rfl
@[simp] theorem Warp.kset_qfence (w : Warp) (n : KReg) (x : BitVec 128) (t : Bool) : (w.kset n x t).qfence = w.qfence := rfl
@[simp] theorem Warp.kset_growTick (w : Warp) (n : KReg) (x : BitVec 128) (t : Bool) : (w.kset n x t).growTick = w.growTick := rfl
@[simp] theorem Warp.kset_mapped (w : Warp) (n : KReg) (x : BitVec 128) (t : Bool) : (w.kset n x t).mapped = w.mapped := rfl
@[simp] theorem Warp.kset_laneLines (w : Warp) (n : KReg) (x : BitVec 128) (t : Bool) : (w.kset n x t).laneLines = w.laneLines := rfl
@[simp] theorem Warp.kset_laneSent (w : Warp) (n : KReg) (x : BitVec 128) (t : Bool) : (w.kset n x t).laneSent = w.laneSent := rfl
@[simp] theorem Warp.kset_owed (w : Warp) (n : KReg) (x : BitVec 128) (t : Bool) : (w.kset n x t).owed = w.owed := rfl
@[simp] theorem Warp.kset_record (w : Warp) (n : KReg) (x : BitVec 128) (t : Bool) : (w.kset n x t).record = w.record := rfl
@[simp] theorem Warp.kset_park (w : Warp) (n : KReg) (x : BitVec 128) (t : Bool) : (w.kset n x t).park = w.park := rfl
@[simp] theorem Warp.advance_live (w : Warp)  : (w.advance).live = w.live := rfl
@[simp] theorem Warp.advance_wg (w : Warp)  : (w.advance).wg = w.wg := rfl
@[simp] theorem Warp.advance_idx (w : Warp)  : (w.advance).idx = w.idx := rfl
@[simp] theorem Warp.advance_slot (w : Warp)  : (w.advance).slot = w.slot := rfl
@[simp] theorem Warp.advance_s (w : Warp)  : (w.advance).s = w.s := rfl
@[simp] theorem Warp.advance_v (w : Warp)  : (w.advance).v = w.v := rfl
@[simp] theorem Warp.advance_p (w : Warp)  : (w.advance).p = w.p := rfl
@[simp] theorem Warp.advance_aBase (w : Warp)  : (w.advance).aBase = w.aBase := rfl
@[simp] theorem Warp.advance_aStride (w : Warp)  : (w.advance).aStride = w.aStride := rfl
@[simp] theorem Warp.advance_k (w : Warp)  : (w.advance).k = w.k := rfl
@[simp] theorem Warp.advance_kTag (w : Warp)  : (w.advance).kTag = w.kTag := rfl
@[simp] theorem Warp.advance_held (w : Warp)  : (w.advance).held = w.held := rfl
@[simp] theorem Warp.advance_queue (w : Warp)  : (w.advance).queue = w.queue := rfl
@[simp] theorem Warp.advance_hblock (w : Warp)  : (w.advance).hblock = w.hblock := rfl
@[simp] theorem Warp.advance_lane (w : Warp)  : (w.advance).lane = w.lane := rfl
@[simp] theorem Warp.advance_arithCtl (w : Warp)  : (w.advance).arithCtl = w.arithCtl := rfl
@[simp] theorem Warp.advance_modQ (w : Warp)  : (w.advance).modQ = w.modQ := rfl
@[simp] theorem Warp.advance_stackLim (w : Warp)  : (w.advance).stackLim = w.stackLim := rfl
@[simp] theorem Warp.advance_trapCause (w : Warp)  : (w.advance).trapCause = w.trapCause := rfl
@[simp] theorem Warp.advance_trapPc (w : Warp)  : (w.advance).trapPc = w.trapPc := rfl
@[simp] theorem Warp.advance_trapLpc (w : Warp)  : (w.advance).trapLpc = w.trapLpc := rfl
@[simp] theorem Warp.advance_trapAddr (w : Warp)  : (w.advance).trapAddr = w.trapAddr := rfl
@[simp] theorem Warp.advance_trapVec (w : Warp)  : (w.advance).trapVec = w.trapVec := rfl
@[simp] theorem Warp.advance_lpcWritten (w : Warp)  : (w.advance).lpcWritten = w.lpcWritten := rfl
@[simp] theorem Warp.advance_laneBase (w : Warp)  : (w.advance).laneBase = w.laneBase := rfl
@[simp] theorem Warp.advance_wid (w : Warp)  : (w.advance).wid = w.wid := rfl
@[simp] theorem Warp.advance_mon (w : Warp)  : (w.advance).mon = w.mon := rfl
@[simp] theorem Warp.advance_bar (w : Warp)  : (w.advance).bar = w.bar := rfl
@[simp] theorem Warp.advance_gang (w : Warp)  : (w.advance).gang = w.gang := rfl
@[simp] theorem Warp.advance_qfence (w : Warp)  : (w.advance).qfence = w.qfence := rfl
@[simp] theorem Warp.advance_growTick (w : Warp)  : (w.advance).growTick = w.growTick := rfl
@[simp] theorem Warp.advance_mapped (w : Warp)  : (w.advance).mapped = w.mapped := rfl
@[simp] theorem Warp.advance_laneLines (w : Warp)  : (w.advance).laneLines = w.laneLines := rfl
@[simp] theorem Warp.advance_laneSent (w : Warp)  : (w.advance).laneSent = w.laneSent := rfl
@[simp] theorem Warp.advance_owed (w : Warp)  : (w.advance).owed = w.owed := rfl
@[simp] theorem Warp.advance_record (w : Warp)  : (w.advance).record = w.record := rfl

@[simp] theorem State.setWarp_warp?_same (s : State) (i : Nat) (w v : Warp) (h : s.warp? i = some w) :
    (s.setWarp i v).warp? i = some v := by
  have := (List.getElem?_eq_some_iff.1 h).1
  simp [State.setWarp, State.warp?, this]

theorem State.setWarp_warp?_ne (s : State) (i j : Nat) (v : Warp) (h : i ≠ j) : (s.setWarp i v).warp? j = s.warp? j := by
  simp [State.setWarp, State.warp?, h]

@[simp] theorem State.modWarp_warp?_same (s : State) (i : Nat) (f : Warp → Warp) :
    (s.modWarp i f).warp? i = (s.warp? i).map f := by
  simp [State.modWarp, State.warp?]

theorem State.modWarp_warp?_ne (s : State) (i j : Nat) (f : Warp → Warp) (h : i ≠ j) :
    (s.modWarp i f).warp? j = s.warp? j := by
  simp [State.modWarp, State.warp?, h]

theorem State.modWarp_eq_setWarp (s : State) (i : Nat) (f : Warp → Warp) (w : Warp) (h : s.warp? i = some w) :
    s.modWarp i f = s.setWarp i (f w) := by
  unfold State.warp? at h
  unfold State.modWarp State.setWarp
  congr 1
  apply List.ext_getElem?
  intro j
  rw [List.getElem?_modify, List.getElem?_set]
  by_cases hj : i = j
  · subst hj; obtain ⟨hi, rfl⟩ := List.getElem?_eq_some_iff.1 h; simp [hi]
  · simp [hj]

theorem State.setWarp_setWarp (s : State) (i : Nat) (v w : Warp) : (s.setWarp i v).setWarp i w = s.setWarp i w := by
  simp [State.setWarp]

theorem State.setWarp_self (s : State) (i : Nat) (w : Warp) (h : s.warp? i = some w) : s.setWarp i w = s := by
  unfold State.warp? at h
  obtain ⟨hi, rfl⟩ := List.getElem?_eq_some_iff.1 h
  simp [State.setWarp]

@[simp] theorem Warp.sset_sget (w : Warp) (r : SReg) (x : Word) : (w.sset r x).sget r = x := by
  simp [Warp.sset, Warp.sget]

theorem Warp.sset_sget_ne (w : Warp) (r q : SReg) (x : Word) (h : r ≠ q) : (w.sset r x).sget q = w.sget q := by
  simp only [Warp.sset, Warp.sget]
  exact Tab.get_set_ne _ _ _ _ _ fun e => h (Fin.ext e)

@[simp] theorem Warp.pget_zero (w : Warp) : w.pget 0 = BitVec.allOnes 32 := rfl

@[simp] theorem Warp.pset_zero (w : Warp) (m x : BitVec 32) : w.pset 0 m x = w := rfl

theorem Warp.advance_eq (w : Warp) : w.advance = { w with pc := w.pc + 4, park := .run } := rfl

end Sys2Proof.Machine
end

