-- ==== Sys2Proof/Laws/Ops.lean ====
section
/-! SUPPORT. What the frames of a scalar instruction do: once the warp in focus is live and no queued block holds the
instruction back, the body decides, and a scalar result is written under the check of s62. -/

namespace Sys2Proof.Machine

theorem onWarp_live (s : State) (w : Warp) (k : Warp → State) (hw : s.warp? s.cur = some w) (hl : w.live = true) :
    onWarp s k = .next (k w) := by simp [onWarp, hw, hl]

theorem onWarp_none (s : State) (k : Warp → State) (hw : s.warp? s.cur = none) : onWarp s k = .fault .noWarp := by
  simp [onWarp, hw]

/-- A control instruction answers what its body leaves. -/
theorem controlOp_eq (s : State) (u : RegUse) (w : Warp) (body : Warp → Workgroup → Except Stop State)
    (hw : s.warp? s.cur = some w) (hl : w.live = true) (hb : s.blocked w u = false) :
    controlOp s u body = .next (match body w (s.wgOf w) with
      | .ok t => t
      | .error e => s.stopped s.cur w.pc e) := by
  rw [controlOp, onWarp_live s w _ hw hl, State.issue, hb]
  rfl

/-- A scalar instruction answers what its body leaves, one instruction on. -/
theorem scalarOp_eq (s : State) (u : RegUse) (w : Warp) (body : Warp → Workgroup → Except Stop State)
    (hw : s.warp? s.cur = some w) (hl : w.live = true) (hb : s.blocked w u = false) :
    scalarOp s u body = .next (match body w (s.wgOf w) with
      | .ok t => t.advance
      | .error e => s.stopped s.cur w.pc e) := by
  rw [scalarOp, onWarp_live s w _ hw hl, State.issue, hb]
  cases body w (s.wgOf w) <;> rfl

/-- A scalar instruction that a queued block holds back waits for it, and nothing else changes (R210). -/
theorem scalarOp_blocked (s : State) (u : RegUse) (w : Warp) (body : Warp → Workgroup → Except Stop State)
    (hw : s.warp? s.cur = some w) (hl : w.live = true) (hb : s.blocked w u = true) :
    scalarOp s u body = .next (s.setWarp s.cur { w with park := .laneQueue }) := by
  rw [scalarOp, onWarp_live s w _ hw hl, State.issue, hb]
  simp only [if_true]
  rw [State.modWarp_eq_setWarp s s.cur _ w hw]

/-- The warp in focus goes on past its instruction after an update of it. -/
theorem advance_setWarp (s : State) (v : Warp) (w : Warp) (h : s.warp? s.cur = some w) :
    (s.setWarp s.cur v).advance = s.setWarp s.cur { v with pc := v.pc + 4, park := .run } := by
  rw [State.advance, State.setWarp_cur,
    State.modWarp_eq_setWarp _ _ _ v (State.setWarp_warp?_same s s.cur w v h), State.setWarp_setWarp]
  rfl

theorem putS_eq (s : State) (d : SReg) (x : Word) (w : Warp) (h : s.warp? s.cur = some w) :
    s.putS d x = if d = 62 ∧ x.toNat < w.limit then .error stackLimit else .ok (s.setWarp s.cur (w.sset d x)) := by
  simp only [State.putS, h, Warp.writeS]
  split <;> rfl

/-- A scalar computation writes its result, or stops with STACK_LIMIT at a refused write of s62 (R276). -/
theorem alu_eq (s : State) (d : SReg) (srcs : List SReg) (f : Warp → Word) (w : Warp)
    (hw : s.warp? s.cur = some w) (hl : w.live = true)
    (hb : s.blocked w { reads := srcs.map Fin.val, writes := [d.val] } = false) :
    alu s d srcs f = .next (if d = 62 ∧ (f w).toNat < w.limit then s.trap s.cur { cause := 0x04 } w.pc
      else s.setWarp s.cur { w with s := Tab.set 0 w.s d.val (f w), pc := w.pc + 4, park := .run }) := by
  rw [alu, scalarOp_eq s _ w _ hw hl hb, putS_eq s d _ w hw]
  by_cases h : d = 62 ∧ (f w).toNat < w.limit
  · rw [if_pos h, if_pos h]
    rfl
  · rw [if_neg h, if_neg h]
    simp only
    rw [advance_setWarp s _ w hw]
    rfl

end Sys2Proof.Machine
end

