-- ==== Sys2Proof/Laws/Lane.lean ====
section
/-! SUPPORT. What the frames of a lane instruction do: the body runs at the head block once its checks pass, and a
computation writes each participating thread's result from operands that no other thread's result changes. -/

namespace Sys2Proof.Machine

/-- A lane instruction that is legal and within the holding answers what its body leaves (R252, R220). -/
theorem laneOpFrame_eq (s : State) (op : Nat) (f : LaneFields) (body : Warp → Block → BitVec 32 → State) (w : Warp)
    (b : Block) (hw : s.warp? s.cur = some w) (hl : w.live = true) (hb : w.blocks.head? = some b)
    (hf : laneLegal op f = true) (hr : maxReg op f < 64 * (1 + w.held)) :
    laneOpFrame s op f body = .next (body w b (participants w b f)) := by
  rw [laneOpFrame, onWarp_live s w _ hw hl]
  cases h : w.blocks with
  | nil => rw [h] at hb; cases hb
  | cons x r =>
    rw [h] at hb
    obtain rfl : x = b := by simpa using hb
    simp only [hf, Bool.not_true, Bool.false_eq_true, if_false, Nat.not_le.2 hr, and_false]

/-- What a computation reads of a warp besides its operands: the uniform registers, the modulus, the warp's number and
the control fields of arith_ctl. -/
structure Warp.Like (w v : Warp) : Prop where
  s : v.s = w.s
  aBase : v.aBase = w.aBase
  aStride : v.aStride = w.aStride
  modQ : v.modQ = w.modQ
  wid : v.wid = w.wid
  en : field v.arithCtl 12 8 = field w.arithCtl 12 8
  drm : field v.arithCtl 18 16 = field w.arithCtl 18 16
  blocks : v.blocks = w.blocks

/-- Two warps alike, with the lane registers and predicate bits of a thread the same. -/
structure Warp.LikeAt (w v : Warp) (t : Nat) : Prop extends Warp.Like w v where
  lanes : ∀ n, v.vget n t = w.vget n t
  preds : ∀ n, (v.pget n).getLsbD t = (w.pget n).getLsbD t

theorem Warp.LikeAt.refl (w : Warp) (t : Nat) : Warp.LikeAt w w t :=
  { s := rfl, aBase := rfl, aStride := rfl, modQ := rfl, wid := rfl, en := rfl, drm := rfl, blocks := rfl,
    lanes := fun _ => rfl, preds := fun _ => rfl }

theorem Warp.LikeAt.operand {w v : Warp} {t : Nat} (h : Warp.LikeAt w v t) (f : LaneFields) (ty : LType) (o : Operand) :
    v.operand f ty t o = w.operand f ty t o := by
  cases o <;> simp only [Warp.operand, Warp.source, Warp.vget64, Warp.affine, Warp.aget, Warp.stride, Warp.sget, h.s,
    h.aBase, h.aStride, h.lanes, h.preds]

theorem Warp.Like.mode {w v : Warp} (h : Warp.Like w v) (r : BitVec 3) : v.mode r = w.mode r := by
  simp only [Warp.mode, h.drm]

theorem Warp.Like.trapsOn {w v : Warp} (h : Warp.Like w v) (fl : Nat) : v.trapsOn fl = w.trapsOn fl := by
  simp only [Warp.trapsOn, h.en]

theorem field_or_low (x : BitVec 32) (n hi lo : Nat) (hlo : 5 ≤ lo) :
    field (x ||| BitVec.ofNat 32 (n % 32)) hi lo = field x hi lo := by
  have h : (BitVec.ofNat 32 (n % 32)).toNat < 2 ^ 5 := by
    rw [BitVec.toNat_ofNat]; omega
  unfold field
  congr 1
  rw [BitVec.toNat_or, ← Nat.shiftRight_eq_div_pow, ← Nat.shiftRight_eq_div_pow, Nat.shiftRight_or_distrib,
    Nat.shiftRight_eq_div_pow (BitVec.ofNat 32 (n % 32)).toNat,
    Nat.div_eq_of_lt (Nat.lt_of_lt_of_le h (Nat.pow_le_pow_right (by omega) hlo)), Nat.or_zero]

theorem Warp.LikeAt.setFlags {w v : Warp} {t : Nat} (h : Warp.LikeAt w v t) (fl : Nat) :
    Warp.LikeAt w (v.setFlags fl) t :=
  { s := h.s, aBase := h.aBase, aStride := h.aStride, modQ := h.modQ, wid := h.wid
    en := by rw [← h.en]; exact field_or_low _ _ _ _ (by omega)
    drm := by rw [← h.drm]; exact field_or_low _ _ _ _ (by omega)
    blocks := h.blocks, lanes := h.lanes, preds := h.preds }

theorem Warp.vset_vget_ne (w : Warp) (n m i t : Nat) (x : LaneWord) (hi : i < 32) (ht : t < 32) (h : i ≠ t) :
    (w.vset n i x).vget m t = w.vget m t := by
  unfold Warp.vset Warp.vget
  exact Tab.get_set_ne _ _ _ _ _ (by omega)

theorem Warp.LikeAt.vset {w v : Warp} {t : Nat} (h : Warp.LikeAt w v t) (n i : Nat) (x : LaneWord) (hi : i < 32)
    (ht : t < 32) (hne : i ≠ t) : Warp.LikeAt w (v.vset n i x) t :=
  { s := h.s, aBase := h.aBase, aStride := h.aStride, modQ := h.modQ, wid := h.wid, en := h.en, drm := h.drm, blocks := h.blocks, preds := h.preds,
    lanes := fun m => (Warp.vset_vget_ne v n m i t x hi ht hne).trans (h.lanes m) }

theorem Warp.LikeAt.putLane {w v : Warp} {t : Nat} (h : Warp.LikeAt w v t) (n : VReg) (ty : LType) (i x : Nat)
    (hi : i < 32) (ht : t < 32) (hne : i ≠ t) : Warp.LikeAt w (v.putLane n ty i x) t := by
  unfold Warp.putLane
  simp only
  split
  · exact (h.vset _ _ _ hi ht hne).vset _ _ _ hi ht hne
  · exact h.vset _ _ _ hi ht hne

theorem Warp.pset_pget_bit (w : Warp) (d n : PReg) (i t x : Nat) (hi : i < 32) (ht : t < 32) (hne : i ≠ t) :
    ((w.pset d (BitVec.ofNat 32 (2 ^ i)) (BitVec.ofNat 32 (x % 2 * 2 ^ i))).pget n).getLsbD t = (w.pget n).getLsbD t := by
  unfold Warp.pset
  split
  · rfl
  · rename_i hd
    by_cases hn : n = 0
    · subst hn; rfl
    · have hbit : (BitVec.ofNat 32 (2 ^ i)).getLsbD t = false := by
        rw [BitVec.getLsbD_ofNat, Nat.testBit_two_pow]
        simp [hne]
      show (if n = 0 then BitVec.allOnes 32 else Tab.get 0 (Tab.set 0 w.p d.val _) n.val).getLsbD t = _
      rw [if_neg hn, Tab.get_set]
      split
      · rename_i e
        obtain rfl : d = n := Fin.ext e
        simp only [BitVec.getLsbD_or, BitVec.getLsbD_and, BitVec.getLsbD_not, hbit]
        simp [ht]
      · simp [Warp.pget, hn]

theorem Warp.LikeAt.pset {w v : Warp} {t : Nat} (h : Warp.LikeAt w v t) (d : PReg) (i x : Nat) (hi : i < 32)
    (ht : t < 32) (hne : i ≠ t) :
    Warp.LikeAt w (v.pset d (BitVec.ofNat 32 (2 ^ i)) (BitVec.ofNat 32 (x % 2 * 2 ^ i))) t := by
  have hp := fun n => (Warp.pset_pget_bit v d n i t x hi ht hne).trans (h.preds n)
  unfold Warp.pset at hp ⊢
  split
  · exact h
  · rename_i hd
    simp only [hd, if_false] at hp
    exact { s := h.s, aBase := h.aBase, aStride := h.aStride, modQ := h.modQ, wid := h.wid, en := h.en, drm := h.drm
            blocks := h.blocks, lanes := h.lanes, preds := hp }

theorem Warp.LikeAt.putDest {w v : Warp} {t : Nat} (h : Warp.LikeAt w v t) (f : LaneFields) (i x : Nat) (hi : i < 32)
    (ht : t < 32) (hne : i ≠ t) : Warp.LikeAt w (v.putDest f i x) t := by
  unfold Warp.putDest
  split
  · exact h.putLane _ _ _ _ hi ht hne
  · exact h.pset _ _ _ hi ht hne
  · exact h

/-- A warp with results and flags written for some threads in order. -/
def Warp.wrote (w : Warp) (f : LaneFields) (val fl : Nat → Nat) (l : List Nat) : Warp :=
  l.foldl (fun v t => (v.setFlags (fl t)).putDest f t (val t)) w

theorem State.putResult_eq (s : State) (f : LaneFields) (t : Nat) (r : Nat × Nat) (w : Warp)
    (hw : s.warp? s.cur = some w) (hn : w.trapsOn r.2 = false) :
    s.putResult f t r = .ok (s.setWarp s.cur ((w.setFlags r.2).putDest f t r.1)) := by
  have hs : s.modWarp s.cur (fun w => w.setFlags r.2) = s.setWarp s.cur (w.setFlags r.2) :=
    State.modWarp_eq_setWarp s s.cur _ w hw
  unfold State.putResult State.raise
  simp only [hw, hn, Bool.false_eq_true, if_false, hs]
  show Except.ok (State.modWarp _ _ _) = _
  rw [State.setWarp_cur, State.modWarp_eq_setWarp _ _ _ _ (State.setWarp_warp?_same s s.cur w _ hw),
    State.setWarp_setWarp]

/-- What a computation reads of thread `t` when the operands are those of `w`. -/
def LaneIn.of (v w : Warp) (f : LaneFields) (tys : OpTypes) (t : Nat) : LaneIn :=
  ⟨v, t, 0, w.operand f tys.a t f.opa, w.operand f tys.b t f.opb, w.operand f tys.c t f.opc⟩

theorem State.mismatch_none (s : State) (w : Warp) (b : Block) (i : Nat) (hw : s.warp? s.cur = some w)
    (hb : w.blocks.head? = some b) (hm : b.stopAt = none) : s.mismatch i = false := by
  cases h : w.blocks with
  | nil => rw [h] at hb; cases hb
  | cons x r =>
    rw [h] at hb
    obtain rfl : x = b := by simpa using hb
    simp [State.mismatch, hw, h, hm]

/-- What a computation does thread by thread, when no thread's flags trap. -/
theorem perThread_compute (s : State) (f : LaneFields) (tys : OpTypes) (k : LaneIn → Except Stop (Nat × Nat))
    (w : Warp) (b : Block) (val fl : Nat → Nat) (hw : s.warp? s.cur = some w) (hb : w.blocks.head? = some b)
    (hm : b.stopAt = none) (hk : ∀ v t, Warp.Like w v → k (LaneIn.of v w f tys t) =
      .ok (val t, fl t))
    (l : List Nat) (hl : ∀ t ∈ l, t < 32) (hd : l.Nodup) (hn : ∀ t ∈ l, w.trapsOn (fl t) = false) :
    perThread (computeThread f tys k) l s = (s.setWarp s.cur (w.wrote f val fl l), none) := by
  suffices h : ∀ (l : List Nat) (v : Warp), (∀ t ∈ l, Warp.LikeAt w v t) → (∀ t ∈ l, t < 32) → l.Nodup →
      (∀ t ∈ l, w.trapsOn (fl t) = false) → Warp.Like w v →
      perThread (computeThread f tys k) l (s.setWarp s.cur v) = (s.setWarp s.cur (v.wrote f val fl l), none) by
    have := h l w (fun t _ => Warp.LikeAt.refl w t) hl hd hn (Warp.LikeAt.refl w 0).toLike
    rwa [State.setWarp_self s s.cur w hw] at this
  intro l
  induction l with
  | nil => intro v _ _ _ _ _; rfl
  | cons i r ih =>
    intro v hv hl hd hn hlike
    have hvi := hv i (List.mem_cons_self ..)
    have hi := hl i (List.mem_cons_self ..)
    have hr : ∀ t ∈ r, i ≠ t := fun t ht e => (List.nodup_cons.1 hd).1 (e ▸ ht)
    have hcur := State.setWarp_warp?_same s s.cur w v hw
    unfold perThread
    rw [State.mismatch_none (s.setWarp s.cur v) v b i (by rw [State.setWarp_cur]; exact hcur) (hlike.blocks ▸ hb) hm]
    unfold computeThread
    have e : LaneIn.of v v f tys i = LaneIn.of v w f tys i := by simp only [LaneIn.of, hvi.operand]
    simp only [State.setWarp_cur, hcur, Bool.false_eq_true, if_false]
    rw [show (⟨v, i, 0, _, _, _⟩ : LaneIn) = LaneIn.of v w f tys i from e, hk v i hlike]
    have hp := State.putResult_eq (s.setWarp s.cur v) f i (val i, fl i) v (by rw [State.setWarp_cur]; exact hcur)
      ((hlike.trapsOn (fl i)).trans (hn i (List.mem_cons_self ..)))
    rw [show (Except.ok (val i, fl i) >>= fun r => (s.setWarp s.cur v).putResult f i r) =
      (s.setWarp s.cur v).putResult f i (val i, fl i) from rfl, hp]
    simp only [State.setWarp_cur, State.setWarp_setWarp]
    have hl' : ∀ t ∈ r, t < 32 := fun t ht => hl t (List.mem_cons_of_mem _ ht)
    refine ih _ (fun t ht => ?_) hl' (List.nodup_cons.1 hd).2 (fun t ht => hn t (List.mem_cons_of_mem _ ht)) ?_
    · exact ((hv t (List.mem_cons_of_mem _ ht)).setFlags _).putDest f i _ hi (hl' t ht) (hr t ht)
    · have h' := hvi.setFlags (fl i)
      unfold Warp.putDest
      split
      · unfold Warp.putLane
        simp only
        split <;> exact { s := h'.s, aBase := h'.aBase, aStride := h'.aStride, modQ := h'.modQ, wid := h'.wid, en := h'.en, drm := h'.drm, blocks := h'.blocks }
      · unfold Warp.pset
        split <;> exact { s := h'.s, aBase := h'.aBase, aStride := h'.aStride, modQ := h'.modQ, wid := h'.wid, en := h'.en, drm := h'.drm, blocks := h'.blocks }
      · exact h'.toLike

theorem todo_zero (b : Block) (m : BitVec 32) (h : b.thread = 0) : todo b m = threads m := by
  simp [todo, h]

theorem threads_lt (m : BitVec 32) : ∀ t ∈ threads m, t < 32 := fun t h => by
  simpa using (List.mem_filter.1 h).1

theorem threads_nodup (m : BitVec 32) : (threads m).Nodup := List.nodup_range.filter _

/-- A computation in registers writes every participating thread's result and flags, and goes on. -/
theorem laneCompute_eq (s : State) (op : Nat) (f : LaneFields) (tys : OpTypes) (k : LaneIn → Except Stop (Nat × Nat))
    (w : Warp) (b : Block) (val fl : Nat → Nat) (hw : s.warp? s.cur = some w) (hl : w.live = true)
    (hb : w.blocks.head? = some b) (hf : laneLegal op f = true) (hr : maxReg op f < 64 * (1 + w.held))
    (ht : b.thread = 0) (hs : f.sweep = false) (hm : b.stopAt = none)
    (hk : ∀ v t, Warp.Like w v → k (LaneIn.of v w f tys t) =
      .ok (val t, fl t))
    (hn : ∀ t ∈ threads (participants w b f), w.trapsOn (fl t) = false) :
    laneCompute s op f tys k =
      .next (s.setWarp s.cur (w.wrote f val fl (threads (participants w b f)))).laneAdvance := by
  unfold laneCompute
  rw [hs]
  simp only [Bool.false_eq_true, if_false, laneEach]
  rw [laneOpFrame_eq s op f _ w b hw hl hb hf hr, todo_zero b _ ht]
  rw [perThread_compute s f tys k w b val fl hw hb hm hk _ (threads_lt _) (threads_nodup _) hn]

theorem Warp.setFlags_keeps (w : Warp) (fl : Nat) : w.setFlags fl = { w with arithCtl := (w.setFlags fl).arithCtl } := rfl

/-- A lane result changes lane registers or a predicate register alone. -/
theorem Warp.putDest_keeps (w : Warp) (f : LaneFields) (t x : Nat) :
    w.putDest f t x = { w with v := (w.putDest f t x).v, p := (w.putDest f t x).p } := by
  unfold Warp.putDest Warp.putLane Warp.pset
  simp only
  split
  · split <;> rfl
  · split <;> rfl
  · rfl

/-- Lane results and flags change the lane registers, the predicates and arith_ctl alone. -/
theorem Warp.wrote_keeps (w : Warp) (f : LaneFields) (val fl : Nat → Nat) (l : List Nat) :
    w.wrote f val fl l = { w with v := (w.wrote f val fl l).v, p := (w.wrote f val fl l).p
                                  arithCtl := (w.wrote f val fl l).arithCtl } := by
  induction l generalizing w with
  | nil => rfl
  | cons i r ih =>
    have h := ih ((w.setFlags (fl i)).putDest f i (val i))
    rw [show w.wrote f val fl (i :: r) = ((w.setFlags (fl i)).putDest f i (val i)).wrote f val fl r from rfl, h,
      Warp.putDest_keeps]
    rfl

theorem Warp.wrote_blocks (w : Warp) (f : LaneFields) (val fl : Nat → Nat) (l : List Nat) :
    (w.wrote f val fl l).blocks = w.blocks := by
  rw [Warp.wrote_keeps]
  rfl

/-- The lane stream goes on past the head block's instruction. -/
theorem laneAdvance_eq (s : State) (v w : Warp) (b : Block) (hw : s.warp? s.cur = some w) (hb : v.blocks.head? = some b) :
    (s.setWarp s.cur v).laneAdvance = Claims.lanePast s v b := by
  have h1 : (s.setWarp s.cur v).modHead Block.advance = s.setWarp s.cur (v.setHead (some b.advance)) := by
    unfold State.modHead
    rw [State.setWarp_cur, State.modWarp_eq_setWarp _ _ _ v (State.setWarp_warp?_same s s.cur w v hw),
      State.setWarp_setWarp]
    cases h : v.blocks with
    | nil => rw [h] at hb; cases hb
    | cons x r =>
      rw [h] at hb
      obtain rfl : x = b := by simpa using hb
      rfl
  exact h1

/-- A computation in registers, as the statements say it. -/
theorem laneCompute_writes {i : Instr} {s : State} {w : Warp} {b : Block} {op : Nat} {f : LaneFields} {tys : OpTypes}
    {k : LaneIn → Except Stop (Nat × Nat)} {val fl : Nat → Nat} (h : Claims.AtLane s w b op f)
    (he : exec i s = laneCompute s op f tys k)
    (hk : ∀ v t, Warp.Like w v → k (LaneIn.of v w f tys t) = .ok (val t, fl t)) :
    Claims.LaneWrites i s w b f val fl := by
  intro hn
  obtain ⟨hw, hl, hb, hf, hr, ht, hs, hm⟩ := h
  rw [he, laneCompute_eq s op f tys k w b val fl hw hl hb hf hr ht hs hm hk hn]
  congr 1
  exact laneAdvance_eq s _ w b hw (by rw [Warp.wrote_blocks]; exact hb)

/-- Results and flags written for other threads leave a thread's operands alone. -/
theorem Warp.LikeAt.wrote {w v : Warp} {i : Nat} (h : Warp.LikeAt w v i) (f : LaneFields) (val fl : Nat → Nat) (hi : i < 32)
    (l : List Nat) (hl : ∀ t ∈ l, t < 32 ∧ t ≠ i) : Warp.LikeAt w (v.wrote f val fl l) i := by
  induction l generalizing v with
  | nil => exact h
  | cons t r ih =>
    obtain ⟨ht, hne⟩ := hl t (List.mem_cons_self ..)
    exact ih ((h.setFlags _).putDest f t _ ht hi hne) fun x hx => hl x (List.mem_cons_of_mem _ hx)

/-- A rising list about one of its members. -/
theorem rising_split (l : List Nat) (i : Nat) (hl : l.Pairwise (· < ·)) (hi : i ∈ l) :
    ∃ r, l = (l.filter fun t => decide (t < i)) ++ i :: r := by
  induction l with
  | nil => cases hi
  | cons x m ih =>
    obtain ⟨hx, hm⟩ := List.pairwise_cons.1 hl
    rcases List.mem_cons.1 hi with rfl | hi
    · refine ⟨m, ?_⟩
      have : (i :: m).filter (fun t => decide (t < i)) = [] := by
        refine List.filter_eq_nil_iff.2 fun t ht => ?_
        rcases List.mem_cons.1 ht with rfl | ht
        · simp
        · have := hx t ht; simp; omega
      rw [this]; rfl
    · obtain ⟨r, hr⟩ := ih hm hi
      refine ⟨r, ?_⟩
      rw [List.filter_cons, if_pos (by simpa using hx i hi), List.cons_append, ← hr]

/-- A body over threads that stops at one comes as far as that thread. -/
theorem perThread_stops (k : State → Nat → Except Stop State) (a r : List Nat) (i : Nat) (s t : State) (e : Stop)
    (ha : perThread k a s = (t, none)) (hm : t.mismatch i = false) (he : k t i = .error e) :
    perThread k (a ++ i :: r) s = (t, some (i, e)) := by
  induction a generalizing s with
  | nil =>
    obtain rfl : s = t := by simpa [perThread] using ha
    simp [perThread, hm, he]
  | cons x a ih =>
    rw [perThread] at ha
    rw [List.cons_append, perThread]
    split at ha
    · exact ih _ ha
    · cases ha

/-- A computation whose flags trap at a thread leaves the results before it and takes ARITHMETIC there, as the statements
say it (R201). -/
theorem laneCompute_traps {ins : Instr} {s : State} {w : Warp} {b : Block} {op : Nat} {f : LaneFields} {tys : OpTypes}
    {k : LaneIn → Except Stop (Nat × Nat)} {val fl : Nat → Nat} (h : Claims.AtLane s w b op f)
    (he : exec ins s = laneCompute s op f tys k)
    (hk : ∀ v t, Warp.Like w v → k (LaneIn.of v w f tys t) = .ok (val t, fl t)) :
    Claims.LaneTraps ins s w b f val fl := by
  intro i hi htr hno v
  obtain ⟨hw, hl, hb, hf, hr, ht, hs, hm⟩ := h
  obtain ⟨r, hsplit⟩ := rising_split (threads (participants w b f)) i ((List.pairwise_lt_range (n := 32)).filter _) hi
  have hlt := threads_lt (participants w b f)
  let a := (threads (participants w b f)).filter fun t => decide (t < i)
  have ha : ∀ t ∈ a, t ∈ threads (participants w b f) ∧ t < i := fun t ht => by simpa [a] using List.mem_filter.1 ht
  change threads (participants w b f) = a ++ i :: r at hsplit
  have hv : v = w.wrote f val fl a := rfl
  have before := perThread_compute s f tys k w b val fl hw hb hm hk a (fun t ht => hlt t (ha t ht).1)
    ((threads_nodup _).filter _) (fun t ht => hno t (ha t ht).1 (ha t ht).2)
  have like : Warp.LikeAt w v i := (Warp.LikeAt.refl w i).wrote f val fl (hlt i hi) a fun t ht =>
    ⟨hlt t (ha t ht).1, Nat.ne_of_lt (ha t ht).2⟩
  have hcur : (s.setWarp s.cur v).warp? s.cur = some v := State.setWarp_warp?_same s s.cur w v hw
  have hstop : computeThread f tys k (s.setWarp s.cur v) i =
      .error (.late (s.setWarp s.cur (v.setFlags (fl i))) (.trap { cause := 0x02, detail := fl i % 32 })) := by
    have e : LaneIn.of v v f tys i = LaneIn.of v w f tys i := by simp only [LaneIn.of, like.operand]
    unfold computeThread
    simp only [State.setWarp_cur, hcur]
    rw [show (⟨v, i, 0, _, _, _⟩ : LaneIn) = LaneIn.of v w f tys i from e, hk v i like.toLike]
    show (s.setWarp s.cur v).putResult f i (val i, fl i) = _
    unfold State.putResult State.raise
    simp only [State.setWarp_cur, hcur, like.toLike.trapsOn, htr, if_true]
    rw [State.modWarp_eq_setWarp _ _ _ v hcur, State.setWarp_setWarp]
    rfl
  rw [he]
  unfold laneCompute
  rw [hs]
  simp only [Bool.false_eq_true, if_false, laneEach]
  rw [laneOpFrame_eq s op f _ w b hw hl hb hf hr, todo_zero b _ ht, hsplit,
    perThread_stops _ a r i s _ _ before (State.mismatch_none _ v b i (by rw [State.setWarp_cur]; exact hcur)
      (like.blocks ▸ hb) hm) hstop]
  have hc2 : (s.setWarp s.cur (v.setFlags (fl i))).warp? s.cur = some (v.setFlags (fl i)) :=
    State.setWarp_warp?_same s s.cur w _ hw
  have hpc : (v.setFlags (fl i)).pc = w.pc := by rw [hv, Warp.setFlags_keeps, Warp.wrote_keeps]
  have hvb : (v.setFlags (fl i)).blocks.head? = some b := by
    rw [Warp.setFlags_keeps]
    exact (like.blocks ▸ hb)
  have hh : (s.setWarp s.cur (v.setFlags (fl i))).modHead (fun b => { b with thread := i, stage := .fresh }) =
      s.setWarp s.cur ((v.setFlags (fl i)).setHead (some { b with thread := i, stage := .fresh })) := by
    unfold State.modHead
    rw [State.setWarp_cur, State.modWarp_eq_setWarp _ _ _ _ hc2, State.setWarp_setWarp]
    cases h : (v.setFlags (fl i)).blocks with
    | nil => rw [h] at hvb; cases hvb
    | cons x r =>
      rw [h] at hvb
      obtain rfl : x = b := by simpa using hvb
      rfl
  simp only [State.laneStop, State.laneHalt, Stop.stage, State.setWarp_cur, hc2, hpc, hh, Stop.atThread, State.stopped]
end Sys2Proof.Machine
end

