-- ==== Sys2Proof/Laws/Mailbox.lean ====
section
/-! SUPPORT. What the frame of a mailbox command answers (R477, R478): turned away by a check, or by its own body, performed,
or to be answered later. -/

namespace Sys2Proof.Machine

/-- A command that is taken up: what its checks and its body say is what it answers. -/
theorem command_of_posted (s : State) (n code : Nat) (p : Pending) (body : Pending → State → Ans)
    (h : Claims.Posted s n code p) : s.command n code body =
      match (Claims.took s n).mbCheck p with
      | .error (st, d) => (Claims.took s n).answer p st d 0
      | .ok _ => match body p (Claims.took s n) with
        | .ok (some reply, t) => t.answer p mbDone 0 reply
        | .ok (none, t) => t
        | .error (st, d) => (Claims.took s n).answer p st d 0 := by
  obtain ⟨hp, hd, hb, hc, hf, ha⟩ := h
  have hfirst : (s.host.pending.take n).any (fun q => q.issuer == p.issuer) = false := by
    simpa [List.any_eq_false] using hf
  have go : ¬(s.host.devState ≠ 5 ∨ s.mbBusy = true ∨ (s.host.pending.take n).any (fun q => q.issuer == p.issuer) = true
      ∨ (p.arg 0 2 ≠ code ∧ (mbFields (p.arg 0 2)).isSome = true)) := by
    simp [hd, hb, hfirst, hc]
  simp only [State.command, hp, if_neg go, State.atAnswer, ha]
  change (match (do (Claims.took s n).mbCheck p; body p (Claims.took s n) : Ans) with
    | .ok (some reply, t) => t.answer p mbDone 0 reply
    | .ok (none, t) => t
    | .error (status, detail) => (Claims.took s n).answer p status detail 0) = _
  cases (Claims.took s n).mbCheck p with
  | error e => rfl
  | ok x => rfl

/-- A command that every check admits. -/
theorem command_of_ok (s : State) (n code : Nat) (p : Pending) (body : Pending → State → Ans)
    (h : Claims.Posted s n code p) (ok : (Claims.took s n).mbCheck p = .ok ()) : s.command n code body =
      match body p (Claims.took s n) with
      | .ok (some reply, t) => t.answer p mbDone 0 reply
      | .ok (none, t) => t
      | .error (st, d) => (Claims.took s n).answer p st d 0 := by
  rw [command_of_posted s n code p body h, ok]

/-- A command that a check turns away. -/
theorem command_of_error (s : State) (n code : Nat) (p : Pending) (body : Pending → State → Ans) (st d : Nat)
    (h : Claims.Posted s n code p) (e : (Claims.took s n).mbCheck p = .error (st, d)) :
    s.command n code body = (Claims.took s n).answer p st d 0 := by
  rw [command_of_posted s n code p body h, e]

end Sys2Proof.Machine
end

