-- ==== Sys2Proof/Laws/Memory.lean ====
section
/-! SUPPORT. Every operation on memory keeps its canonical form, and what a write at a line's home leaves. -/

namespace Sys2Proof.Machine

theorem Memory.wf_reset : Memory.wf State.reset.mem.bytes = true := rfl

theorem Memory.wf_recall (m : Mem) (line : Nat) (h : Memory.wf m.bytes = true) : Memory.wf (m.recall line).bytes = true := by
  unfold Mem.recall
  simp only
  split
  · exact h
  · exact writeMasked_wf _ _ _ _ _ h

theorem Memory.wf_setDir (m : Mem) (line : Nat) (d : DirEntry) (h : Memory.wf m.bytes = true) :
    Memory.wf (m.setDir line d).bytes = true := h

theorem Memory.wf_homeRead (m : Mem) (c line : Nat) (h : Memory.wf m.bytes = true) :
    Memory.wf (m.homeRead c line).bytes = true := by
  unfold Mem.homeRead
  split
  · exact h
  · split <;> exact h
  · split
    · exact h
    · exact Memory.wf_recall m line h
  · exact h

theorem Memory.wf_homeLoad (m : Mem) (line : Nat) (h : Memory.wf m.bytes = true) :
    Memory.wf (m.homeLoad line).bytes = true := by
  unfold Mem.homeLoad
  split
  · exact Memory.wf_recall m line h
  · exact h

theorem Memory.wf_homeOwn (m : Mem) (c line : Nat) (h : Memory.wf m.bytes = true) :
    Memory.wf (m.homeOwn c line).bytes = true := by
  unfold Mem.homeOwn
  split
  · exact h
  · split
    · exact h
    · exact Memory.wf_recall m line h
  · exact h

theorem Memory.wf_homeTake (m : Mem) (line : Nat) (h : Memory.wf m.bytes = true) :
    Memory.wf (m.homeTake line).bytes = true := by
  unfold Mem.homeTake
  split
  · exact h
  · exact Memory.wf_recall m line h

theorem Memory.wf_writeHome (m : Mem) (line mask data : Nat) (h : Memory.wf m.bytes = true) :
    Memory.wf (m.writeHome line mask data).bytes = true := by
  unfold Mem.writeHome
  split
  · exact h
  · exact writeMasked_wf _ _ _ _ _ (Memory.wf_homeTake m line h)

theorem Memory.wf_writeSlice (m : Mem) (c line mask data : Nat) (h : Memory.wf m.bytes = true) :
    Memory.wf (m.writeSlice c line mask data).bytes = true := by
  unfold Mem.writeSlice
  split
  · exact Memory.wf_writeHome m line mask data h
  · exact Memory.wf_homeOwn m c line h

theorem State.wakeIf_mem (s : State) (p : Warp → Watch → Bool) : (s.wakeIf p).mem = s.mem := rfl

theorem State.untrack_mem (s : State) (line : Nat) : (s.untrack line).mem = s.mem := by
  unfold State.untrack
  split <;> rfl

theorem State.homeTake_wf (s : State) (line : Nat) (h : Memory.wf s.mem.bytes = true) :
    Memory.wf (s.homeTake line).mem.bytes = true := by
  unfold State.homeTake
  simp only
  split <;> exact Memory.wf_homeTake _ _ h

theorem State.leaveLine_wf (s : State) (c line : Nat) (h : Memory.wf s.mem.bytes = true) :
    Memory.wf (s.leaveLine c line).mem.bytes = true := by
  unfold State.leaveLine Mem.leave
  simp only [State.wakeHolders, State.wakeIf_mem]
  split
  · exact h
  · split
    · exact Memory.wf_recall _ _ h
    · exact h
  · exact h

/-- A choice of what gives up its place changes no memory. -/
@[simp] theorem State.victim_mem (s : State) (named : Option Nat) : (s.victim named).2.mem = s.mem := by
  cases named <;> rfl

theorem State.dirRoom_wf (s : State) (line : Nat) (h : Memory.wf s.mem.bytes = true) (named : Option Nat := none) :
    Memory.wf (s.dirRoom line named).mem.bytes = true := by
  unfold State.dirRoom
  simp only
  split
  · exact h
  · exact State.homeTake_wf _ _ (by simpa using h)

theorem State.sliceRoom_wf (s : State) (c line : Nat) (h : Memory.wf s.mem.bytes = true) (named : Option Nat := none) :
    Memory.wf (s.sliceRoom c line named).mem.bytes = true := by
  unfold State.sliceRoom
  simp only
  split
  · exact h
  · exact State.leaveLine_wf _ _ _ (by simpa using h)

theorem State.homeOwn_wf (s : State) (c line : Nat) (h : Memory.wf s.mem.bytes = true) (named : Option Nat := none) :
    Memory.wf (s.homeOwn c line named).mem.bytes = true := by
  unfold State.homeOwn
  simp only
  split <;> exact Memory.wf_homeOwn _ _ _ (State.dirRoom_wf _ _ (State.sliceRoom_wf _ _ _ h named) named)

theorem State.homeRead_wf (s : State) (c line : Nat) (h : Memory.wf s.mem.bytes = true) (named : Option Nat := none) :
    Memory.wf (s.homeRead c line named).mem.bytes = true :=
  Memory.wf_homeRead _ _ _ (State.dirRoom_wf _ _ (State.sliceRoom_wf _ _ _ h named) named)

/-- A write performed, at a slice or at the home, keeps the canonical form. -/
theorem State.performWrite_wf (s : State) (slice : Option Nat) (line mask data : Nat) (h : Memory.wf s.mem.bytes = true) :
    Memory.wf (s.performWrite slice line mask data).mem.bytes = true := by
  unfold State.performWrite
  simp only [State.wakeLine, State.wakeIf_mem]
  cases slice with
  | none => exact Memory.wf_writeHome _ _ _ _ (State.homeTake_wf _ _ h)
  | some c =>
    refine Memory.wf_writeSlice _ _ _ _ _ ?_
    split
    · exact h
    · exact State.homeOwn_wf _ _ _ h

/-- Whatever becomes of a write that an agent does not wait for, performed or held, the canonical form stays. -/
theorem State.writeVia_wf (s : State) (slice : Option Nat) (line mask data : Nat) (host : Option Nat)
    (h : Memory.wf s.mem.bytes = true) : Memory.wf (s.writeVia slice line mask data host).mem.bytes = true := by
  unfold State.writeVia
  simp only
  split
  · unfold State.askHost State.send
    repeat' split
    all_goals exact h
  · split
    · exact State.performWrite_wf _ _ _ _ _ h
    · exact State.performWrite_wf _ _ _ _ _ h

theorem State.writeLine_wf (s : State) (line mask data : Nat) (h : Memory.wf s.mem.bytes = true) :
    Memory.wf (s.writeLine line mask data).mem.bytes = true := State.writeVia_wf _ _ _ _ _ _ h

theorem State.writePa_wf (s : State) (pa n x : Nat) (h : Memory.wf s.mem.bytes = true) :
    Memory.wf (s.writePa pa n x).mem.bytes = true := State.writeLine_wf _ _ _ _ h

theorem State.writeRun_wf (s : State) (pa n x k : Nat) (h : Memory.wf s.mem.bytes = true) :
    Memory.wf (s.writeRun pa n x k).mem.bytes = true := by
  induction k generalizing s pa n x with
  | zero => exact h
  | succ k ih =>
    unfold State.writeRun
    simp only
    split
    · exact h
    · exact ih _ _ _ _ (State.writePa_wf s _ _ _ h)

theorem State.foldl_send_mem (l : List Nat) (f : Nat → Msg) (s : State) :
    (l.foldl (fun s x => s.send (f x)) s).mem = s.mem := by
  induction l generalizing s with
  | nil => rfl
  | cons x l ih => exact ih _

theorem State.zeroRun_wf (s : State) (pa n : Nat) (h : Memory.wf s.mem.bytes = true) :
    Memory.wf (s.zeroRun pa n).mem.bytes = true := by
  unfold State.zeroRun
  simp only [State.foldl_send_mem]
  exact Tab.wf_filterKeys 0 _ _ h

/-- Bytes moved from one table into another keep its canonical form. -/
theorem Tab.wf_graft {α : Type} [DecidableEq α] (d : α) (m src : Tab α) (a n b : Nat) (h : Tab.wf d m = true) :
    Tab.wf d (Tab.graft d m src a n b) = true := by
  unfold Tab.graft
  exact Tab.wf_foldl d _ _ (fun m _ hm => Tab.wf_set d m _ _ hm) _
    (Tab.wf_filterKeys d m _ h)

end Sys2Proof.Machine
end

