-- ==== Sys2Proof/Tests/Slice0.lean ====
section
/-! SUPPORT. The model's own tests: words written out from the encoding tables, encodings that R252 refuses, one step of
an instruction on a small state, and for every statement a state and operands that meet its hypotheses. -/

namespace Sys2Proof.Tests
set_option Elab.async false
open Sys2Proof.Machine

/-! ### Words by the tables of R239-R251 -/

theorem test_decode_alu : decodeScalar 0x04310500 = .ok (.add 3 4 5) ∧ decodeScalar 0x07F04217 = .ok (.seq 63 1 2) ∧
    decodeScalar 0x0472001B = .ok (.bswap 7 8) ∧ decodeScalar 0x0810BFFF = .ok (.addi 1 2 0x3FFF) ∧
    decodeScalar 0x1C92A03F = .ok (.srai 9 10 63) ∧ decodeScalar 0x27EABCDE = .ok (.movk 62 0xABCDE) ∧
    decodeScalar 0x28580000 = .ok (.adr 5 0x80000) := by and_intros <;> rfl

theorem test_decode_transfer : decodeScalar 0x3461E000 = .ok (.blt 6 7 0x2000) ∧
    decodeScalar 0x49FFFFFF = .ok (.call 0x1FFFFFF) ∧ decodeScalar 0x4C02C001 = .ok (.callr 11) := by
  and_intros <;> rfl

theorem test_decode_memory : decodeScalar 0x50C36FF8 = .ok (.ld 12 13 .s32 0x7F8) ∧
    decodeScalar 0x5CE3D002 = .ok (.sts 14 15 .n16 2) ∧ decodeScalar 0x61047506 = .ok (.ldOrd 16 17 .system .sc .n64) ∧
    decodeScalar 0x6924D308 = .ok (.stOrdSp 18 19 .workgroup .rel .n8) ∧
    decodeScalar 0x65456C2C = .ok (.atomMaxn 20 21 .package .ar .n32) ∧
    decodeScalar 0x6D65D956 = .ok (.atomCasSp 22 23 .cluster .rlx .n64) := by and_intros <;> rfl

theorem test_decode_sync : decodeScalar 0x70002200 = .ok (.fence .course .acq) ∧
    decodeScalar 0x71866802 = .ok (.relAdd 24 25 .package) ∧ decodeScalar 0x70069806 = .ok (.barSync 26 .cluster) ∧
    decodeScalar 0x7006C009 = .ok (.monWait 27) := by and_intros <;> rfl

theorem test_decode_remote : decodeScalar 0x75C74744 = .ok (.ratomCas 28 29 7 .n32) ∧
    decodeScalar 0x75E7F316 = .ok (.rstRelSys 30 31 3 .n64) ∧ decodeScalar 0x78616103 = .ok (.capBound 6 5 33) := by
  and_intros <;> rfl

theorem test_decode_engines : decodeScalar 0x7C088201 = .ok (.xferCond 34 2) ∧
    decodeScalar 0x7C002104 = .ok (.qfence 0x21) ∧ decodeScalar 0x7E392508 = .ok (.spMap 35 36 37) ∧
    decodeScalar 0x80F9A700 = .ok (.amov 15 38 39) := by and_intros <;> rfl

theorem test_decode_control : decodeScalar 0x8A9FFFFF = .ok (.laneRun 41 0xFFFFF) ∧
    decodeScalar 0x8C000000 = .ok .nop ∧ decodeScalar 0x8C000001 = .ok .exit ∧ decodeScalar 0x8C002A07 = .ok (.trap 0x2A) ∧
    decodeScalar 0x8C0AAB09 = .ok (.launch 42 43) ∧ decodeScalar 0x92CB4000 = .ok (.sysMbox 44 45) := by
  and_intros <;> rfl

theorem test_decode_matrix : decodeScalar 0x96EBF000 = .ok (.ttSet 46 47 48) ∧
    decodeScalar 0x94338F08 = .ok (.mxMmag 3 14 15) ∧ decodeScalar 0x9420400B = .ok (.mxMode 2 1) ∧
    decodeScalar 0x940C400D = .ok (.witEmit 49) := by and_intros <;> rfl

/-- The sweep of R250's example, and a compare with a negated guard, a predicate destination and a uniform operand. -/
theorem test_decode_lane_integer :
    decodeLane 0x00000030 0x00402001 0x040020BF =
      .ok (.iadd ⟨0, false, .v 0, .s32, 0, false, .v 1, .v 2, .v 0, true, 0x040020BF⟩) ∧
    decodeLane 0x06960670 0x3FD3F000 0 =
      .ok (.isetLt ⟨2, true, .p 3, .n32, 0, false, .v 255, .s 63, .v 0, false, 0⟩) := by and_intros <;> rfl

/-- An affine operand, the least inline constant and a W2 immediate. -/
theorem test_decode_lane_float : decodeLane 0x10C008D6 0x83F40E00 0x3F800000 =
    .ok (.fma ⟨0, false, .v 4, .f32, 3, false, .a 15, .inl 0x40, .w2, false, 0x3F800000⟩) := rfl

theorem test_decode_lane_cross :
    decodeLane 0x30020E00 0x50547000 0 =
      .ok (.pand ⟨0, false, .p 7, .untyped, 0, false, .p 1, .p 7, .v 0, false, 0⟩) ∧
    decodeLane 0x41028A00 0x51800000 0 =
      .ok (.ballot ⟨0, false, .s 5, .untyped, 0, false, .p 6, .v 0, .v 0, false, 0⟩) ∧
    decodeLane 0x33C3FE00 0 0 = .ok (.lEnd ⟨0, false, .noDest, .untyped, 0, false, .v 0, .v 0, .v 0, false, 0⟩) := by
  and_intros <;> rfl

theorem test_decode_lane_memory :
    decodeLane 0x5000104C 0x00800000 0xBFFFFFF8 =
      .ok (.lLd ⟨0, false, .v 8, .s64, 6, false, .v 2, .v 0, .v 0, false, 0xBFFFFFF8⟩) ∧
    decodeLane 0x55C01276 0x0040200C 0x20000000 =
      .ok (.lSatomCas ⟨0, false, .v 9, .n32, 3, false, .v 1, .v 2, .v 3, false, 0x20000000⟩) ∧
    decodeLane 0x5843FE80 0x01006000 0x1C000010 =
      .ok (.lRst ⟨0, false, .noDest, .n64, 0, false, .v 4, .v 6, .v 0, false, 0x1C000010⟩) ∧
    decodeLane 0x6101F950 0x00002010 0 =
      .ok (.nttBfly ⟨0, false, .v 252, .mod64, 0, false, .v 0, .v 2, .v 4, false, 0⟩) := by and_intros <;> rfl

/-! ### What R252 refuses -/

/-- Whether a scalar word decodes. -/
def reads (x : Nat) : Bool := (decodeScalar x).toOption.isSome

/-- The all-zero word, a reserved major, a reserved FN, a set reserved field, a reserved size and scope, and an unused
destination field. -/
theorem test_refused_words : ([0, 0x98000000, 0x0400001C, 0x0400011B, 0x50003800, 0x70003A00, 0x70100A00,
    0x8C100000].any reads) = false := by decide +kernel

/-- Each rule of `scalarLegal` refuses a term. -/
theorem test_ill_formed_scalar : ([.st 1 2 .s8 0, .sts 1 2 .s32 0, .ldOrd 1 2 .warp .rel .n8, .ldOrdSp 1 2 .warp .plain .n8,
    .stOrd 1 2 .warp .acq .n8, .stOrdSp 1 2 .warp .rel .s16, .atomAdd 1 2 .warp .plain .n32, .atomXorSp 1 2 .warp .sc .n16,
    .atomCas 63 2 .warp .sc .n32, .atomCasSp 63 2 .warp .sc .n64, .fence .warp .rlx, .acq 63 1 .warp, .acqSp 63 1 .warp,
    .rst 1 2 3 .s8, .rstRelSys 1 2 3 .s16, .ratomAdd 1 2 3 .n16, .ratomCas 63 2 3 .n64, .capMint 1 63, .capBound 1 2 63,
    .capRead 1 2 3, .quiesceWait .cluster, .qfence 0, .regGrow 0, .mxGang 4 2 0, .mxGang 0 7 1, .mxGang 0 2 2,
    .mxMode 1 2].any fun i : Instr => i.wf) = false := by decide +kernel

/-- Their well-formed neighbours. -/
theorem test_well_formed_scalar : ([.st 1 2 .n8 0, .ldOrd 1 2 .warp .sc .n8, .stOrd 1 2 .warp .rel .n16,
    .atomAdd 1 2 .warp .rlx .n32, .atomCas 62 2 .warp .sc .n32, .fence .warp .acq, .acq 62 1 .warp, .ratomCas 62 2 3 .n64,
    .capMint 1 62, .capRead 1 2 2, .quiesceWait .course, .qfence 1, .regGrow 3, .mxGang 3 6 5, .mxMode 1 1,
    .nop].all fun i : Instr => i.wf) = true := by decide +kernel

/-- A plain lane form to vary. -/
def plain : LaneFields := ⟨0, false, .v 0, .s32, 0, false, .v 1, .v 2, .v 0, false, 0⟩

/-- Each rule of `laneLegal` refuses a term: a negated p0, a guarded mask form, a type, a destination class, an odd pair, a
rounding code, SAT, a used W2 that a form leaves out, a sweep of a form that has none and one with no segment, an unused
operand, a predicate operand, and a conversion to the same type. -/
theorem test_ill_formed_lane : ([.iadd { plain with pneg := true },
    .mIf { plain with pred := 1, dest := .noDest, ty := .untyped, opa := .p 1, opb := .v 0 },
    .iadd { plain with ty := .f32 }, .iadd { plain with dest := .p 1 }, .iadd { plain with dest := .v 1, ty := .s64 },
    .iadd { plain with opa := .v 1, ty := .s64 }, .iadd { plain with rnd := 1 }, .fadd { plain with ty := .f32, rnd := 4 },
    .imul { plain with ty := .n32, sat := true, opa := .p 0 }, .iadd { plain with w2 := 1 },
    .isetEq { plain with dest := .p 1, sweep := true, w2 := 0x00100000 }, .iadd { plain with sweep := true, w2 := 0 },
    .iabs plain, .iadd { plain with opb := .p 1 }, .cvt { plain with opb := .v 0, w2 := 3 },
    .lLd { plain with opb := .v 0, rnd := 1 }, .lAtomAdd plain, .nttBfly { plain with ty := .mod64, dest := .v 2 }
    ].any fun i : Instr => i.wf) = false := by decide +kernel

theorem test_well_formed_lane : ([.iadd plain, .iadd { plain with pred := 1, pneg := true }, .iadd { plain with sat := true },
    .fadd { plain with ty := .f32, rnd := 5 }, .iadd { plain with opb := .w2, w2 := 1 },
    .iadd { plain with sweep := true, w2 := 0x00100000 }, .cvt { plain with opb := .v 0, w2 := 13 },
    .lAtomAdd { plain with opa := .v 2, w2 := 0x20000000 },
    .nttBfly { plain with ty := .mod64, opa := .v 0, opc := .v 4 }].all fun i : Instr => i.wf) = true := by decide +kernel

/-! ### States to test on, and the machine as a whole -/

/-- The state an outcome goes on to. -/
def nextOf : Host.Outcome State Fault Refusal → Option State
  | .next t => some t
  | _ => none

/-- A workgroup of one warp whose code page holds `x` at the pc, with the scalar registers given. -/
def scalarAt (x : Nat) (regs : List (Nat × Word)) : State :=
  let s := State.reset.withFetchWord 32 x
  { s with warps := s.warps.map fun w => { w with s := regs.foldl (fun m r => Tab.set 0 m r.1 r.2) w.s } }

/-- The warp in focus. -/
def warpOf (s : State) : Warp := (s.warp? s.cur).getD Warp.blank

/-- NOP. -/
def nopState : State := scalarAt 0x8C000000 []

/-- The same with a trap handler at 0x1_0100. -/
def handled (s : State) : State := { s with warps := s.warps.map fun w => { w with trapVec := 0x10100 } }

/-- The same inside a handler entered from 0x1_0040 with the lane queue given. -/
def inHandler (s : State) (q : List Block) : State :=
  { s with warps := s.warps.map fun w => { w with trapVec := 0x10100, trapPc := 0x10040, trapCause := 0x0100_0000_0000_0007
                                                  queue := q } }

/-- A lane block that stands at 0x1_0000 with all threads active. -/
def block0 : Block :=
  { lpc := 0x10000, mask := BitVec.allOnes 32, stack := [{ active := BitVec.allOnes 32 }], started := true }

theorem test_witness_MemoryStaysCanonical :
    Memory.wf nopState.mem.bytes = true ∧ (nextOf (step nopState)).isSome = true := by decide +kernel

theorem test_witness_StepRunsScalar : nopState.agenda = [] ∧ nopState.host.devState ≠ 6 ∧ nopState.warp? 0 = some (warpOf nopState) ∧
    nopState.cur = 0 ∧ nopState.held 0 (warpOf nopState) false = false ∧
    (nopState.fetchWord 0 (warpOf nopState).pc).toOption.map Prod.fst = some 0x8C000000 ∧
    (decodeScalar 0x8C000000).toOption = some .nop := by decide +kernel

/-- L.NOP at a lane block. -/
def lNopState : State := State.reset.withFetchWord 96 0x3383FE00

theorem test_witness_StepRunsLane : lNopState.agenda = [.lane 0] ∧ lNopState.host.devState ≠ 6 ∧
    (warpOf lNopState).blocks = [block0] ∧ (warpOf lNopState).lane = true ∧
    lNopState.held 0 (warpOf lNopState) true = false ∧
    (lNopState.fetchLane 0 0x10000).toOption.map (fun x => (x.1, x.2.1, x.2.2.1)) = some (0x3383FE00, 0, 0) ∧
    (decodeLane 0x3383FE00 0 0).toOption =
      some (.lNop ⟨0, false, .noDest, .untyped, 0, false, .v 0, .v 0, .v 0, false, 0⟩) := by decide +kernel

theorem test_witness_StepRunsEvent : ({ nopState with agenda := [.event (.laneGrant 0)] } : State).host.devState ≠ 6 ∧
    encodeScalar (.laneGrant 0) = none ∧ laneParts (.laneGrant 0) = none := by decide +kernel

/-- A word of major 0x24 with a reserved FN, in a context that is not a system's: PRIVILEGED; a reserved major:
ILLEGAL_INSTRUCTION. -/
theorem test_witness_UndecodedTraps : (decodeScalar 0x90000002).toOption = none ∧ (decodeScalar 0x98000000).toOption = none ∧
    ((scalarAt 0x90000002 []).fetchWord 0 0x10000).toOption.map Prod.fst = some 0x90000002 := by decide +kernel

theorem test_undecoded_traps : (nextOf (step (handled (scalarAt 0x98000000 [])))).map (fun t =>
    ((warpOf t).pc, field (warpOf t).trapCause 7 0, (warpOf t).trapPc)) = some (0x10100, 0x01, 0x10000) := by
  decide +kernel

/-- A lane triple that no instruction has, at a lane block. -/
def undecodedLane : State := State.reset.withFetchWord 96 0xFFFFFFFF

theorem test_witness_UndecodedLane : undecodedLane.agenda = [.lane 0] ∧ (warpOf undecodedLane).lane = true ∧
    (warpOf undecodedLane).blocks = [block0] ∧ undecodedLane.held 0 (warpOf undecodedLane) true = false ∧
    (undecodedLane.fetchLane 0 0x10000).toOption.map (fun x => (x.1, x.2.1, x.2.2.1)) = some (0xFFFFFFFF, 0, 0) ∧
    (decodeLane 0xFFFFFFFF 0 0).toOption = none := by decide +kernel

theorem test_undecoded_lane : (nextOf (step (handled undecodedLane))).map (fun t =>
    ((warpOf t).pc, field (warpOf t).trapCause 7 0, (warpOf t).trapLpc)) = some (0x10100, 0x01, 0x10000) := by decide +kernel

theorem test_witness_ScalarDecodesEncode : (Instr.atomCas 62 63 .system .sc .n64).wf = true ∧
    (encodeScalar (.atomCas 62 63 .system .sc .n64)).isSome = true := by decide +kernel

theorem test_witness_LaneDecodesEncode : (Instr.iadd plain).wf = true ∧ (laneParts (.iadd plain)).isSome = true := by
  decide +kernel

/-- A trap with a handler set, at the greatest cause and thread. -/
theorem test_witness_TrapEntry : (warpOf (handled nopState)).trapVec ≠ 0 ∧ (warpOf (handled nopState)).active = false ∧
    (handled nopState).midway 0 { cause := 255, thread := some 31 } (warpOf (handled nopState)) = false ∧
    (warpOf nopState).trapVec = 0 ∧ (warpOf (inHandler nopState [])).active = true := by decide +kernel

theorem test_witness_TrapInstruction : Claims.Issues (handled nopState) (warpOf (handled nopState)) {} ∧
    (handled nopState).midway 0 { cause := 0x07, reason := 0x2A } (warpOf (handled nopState)) = false := by
  unfold Claims.Issues; decide +kernel

theorem test_trap : (nextOf (step (handled (scalarAt 0x8C002A07 [])))).map (fun t =>
    ((warpOf t).pc, (warpOf t).trapPc, field (warpOf t).trapCause 7 0, field (warpOf t).trapCause 47 40)) =
    some (0x10100, 0x10004, 0x07, 0x2A) := by decide +kernel

theorem test_witness_TrapReturns : Claims.Issues (inHandler nopState [block0]) (warpOf (inHandler nopState [block0])) {} ∧
    (warpOf (inHandler nopState [])).hblock = none ∧ Claims.Issues nopState (warpOf nopState) {} ∧
    (warpOf nopState).active = false := by
  unfold Claims.Issues; decide +kernel

theorem test_trap_ret : (nextOf (exec .trapRet (inHandler nopState [block0]))).map (fun t =>
    ((warpOf t).pc, (warpOf t).active, (warpOf t).queue.length)) = some (0x10040, false, 1) := by decide +kernel

/-! ### Scalar arithmetic and control transfer -/

/-- Two registers at boundary values. -/
def aluState : State := scalarAt 0x8C000000 [(1, 0x8000_0000_0000_0000), (2, 0xFFFF_FFFF_FFFF_FFFF), (5, 0x10041)]

/-- Hypotheses of the scalar result statements: the destination another register, and the same one as both sources. -/
theorem test_witness_AluResults : Claims.Issues aluState (warpOf aluState) { reads := [1, 2], writes := [3] } ∧
    Claims.Issues aluState (warpOf aluState) { reads := [62, 62], writes := [62] } ∧
    Claims.Issues aluState (warpOf aluState) { reads := [1], writes := [63] } ∧
    Claims.Issues aluState (warpOf aluState) { writes := [0] } ∧
    Claims.Issues aluState (warpOf aluState) { reads := [1, 2] } ∧ Claims.Issues aluState (warpOf aluState) {} ∧
    (warpOf aluState).sget 5 = 0x10041 := by
  unfold Claims.Issues; decide +kernel

/-- A register after an instruction. -/
def after (i : Instr) (s : State) (r : Nat) : Option Word := (nextOf (exec i s)).map fun t => Tab.get 0 (warpOf t).s r

theorem test_add_wraps : after (.add 3 1 2) aluState 3 = some 0x7FFF_FFFF_FFFF_FFFF := by decide +kernel
theorem test_mulh_negative : after (.mulh 3 1 2) aluState 3 = some 0 ∧ after (.mulhn 3 1 2) aluState 3 = some 0x7FFF_FFFF_FFFF_FFFF := by
  decide +kernel
theorem test_div_overflow : after (.div 3 1 2) aluState 3 = some 0x8000_0000_0000_0000 ∧
    after (.rem 3 1 2) aluState 3 = some 0 := by decide +kernel
theorem test_div_by_zero : after (.div 3 1 4) aluState 3 = some 0xFFFF_FFFF_FFFF_FFFF ∧
    after (.remn 3 1 4) aluState 3 = some 0x8000_0000_0000_0000 := by decide +kernel
theorem test_shift_six_bits : after (.sra 3 1 2) aluState 3 = some 0xFFFF_FFFF_FFFF_FFFF ∧
    after (.ror 3 1 2) aluState 3 = some 1 := by decide +kernel
theorem test_slt_signs : after (.slt 3 1 2) aluState 3 = some 1 ∧ after (.sltn 3 2 1) aluState 3 = some 0 := by decide +kernel
theorem test_clz_zero : after (.clz 3 4) aluState 3 = some 64 ∧ after (.ctz 3 1) aluState 3 = some 63 := by decide +kernel
theorem test_bswap : after (.bswap 3 1) aluState 3 = some 0x80 := by decide +kernel
theorem test_movk : after (.movk 2 0xABCDE) aluState 2 = some 0xFFFF_FFFF_FFFA_BCDE := by decide +kernel
theorem test_adr : after (.adr 3 0xFFFFF) aluState 3 = some 0xFFFC := by decide +kernel

/-- STACK_LIMIT refuses a stack pointer below the limit: s62 stays. -/
theorem test_stack_limit : after (.movi 62 0) { aluState with warps := aluState.warps.map fun w => { w with stackLim := 0x1000 } } 62 =
    some 0 := by decide +kernel

/-- Backward by 32 KiB, and not taken. -/
theorem test_branch : (nextOf (exec (.blt 1 2 0x2000) aluState)).map (fun t => (warpOf t).pc) = some 0x8000 ∧
    (nextOf (exec (.bltn 2 1 0x2000) aluState)).map (fun t => (warpOf t).pc) = some 0x10004 := by decide +kernel

theorem test_call_links : after (.call 1) aluState 63 = some 0x10004 := by decide +kernel

/-- A misaligned target leaves s63. -/
theorem test_callr_misaligned : (nextOf (exec (.callr 5) (handled aluState))).map (fun t =>
    ((warpOf t).pc, (warpOf t).trapAddr, Tab.get 0 (warpOf t).s 63)) = some (0x10100, 0x10041, 0) := by decide +kernel

/-- A queued block of BALLOT, p6 and L.END, the BALLOT to s1 or s63. -/
def balloting (x : Nat) : State :=
  { (State.reset.withFetchWord 96 (x + 0x51800000 * 2 ^ 32)).writePa 0x2000C 4 0x33C3FE00 with agenda := [] }
def heldBack : State := balloting 0x41028200
def heldBack63 : State := balloting 0x4102FE00

theorem test_witness_QueuedBlocksHoldBack : heldBack.warp? heldBack.cur = some (warpOf heldBack) ∧ (warpOf heldBack).live = true ∧
    heldBack.blocked (warpOf heldBack) { reads := [1, 2], writes := [3] } = true ∧
    heldBack.blocked (warpOf heldBack) { reads := [1], writes := [3] } = true ∧
    heldBack.blocked (warpOf heldBack) { reads := [1, 2] } = true ∧ heldBack.blocked (warpOf heldBack) { writes := [1] } = true ∧
    heldBack.blocked (warpOf heldBack) { reads := [1], writes := [1] } = true ∧
    heldBack.blocked (warpOf heldBack) { reads := [1] } = true ∧
    heldBack63.warp? heldBack63.cur = some (warpOf heldBack63) ∧ (warpOf heldBack63).live = true ∧
    heldBack63.blocked (warpOf heldBack63) { writes := [63] } = true ∧
    heldBack63.blocked (warpOf heldBack63) { reads := [63] } = true ∧
    heldBack63.blocked (warpOf heldBack63) { reads := [1], writes := [63] } = true := by decide +kernel

/-! ### Lane instructions that compute -/

/-- A lane block at 0x1_0000 with six active threads. -/
def block6 : Block := { block0 with stack := [{ active := 0x80018007 }] }

/-- A table that gives `f t` to register `n` of each thread. -/
def fill (n : Nat) (f : Nat → LaneWord) : Tab LaneWord :=
  ((List.range 32).map fun t => (n * 32 + t, f t)).filter fun e => e.2 != 0

/-- A warp whose head block stands at its instruction: v2 holds the thread number, v4 the least 32-bit integer, v6 three,
v8 1.0 and v10 2.0 in binary32; with predicates and a modulus. -/
def laneState : State :=
  { lNopState with
    agenda := []
    warps := lNopState.warps.map fun w =>
      { w with queue := [block6], v := fill 2 (BitVec.ofNat 32) ++ fill 4 (fun _ => 0x80000000) ++ fill 6 (fun _ => 3) ++
                 fill 8 (fun _ => 0x3F800000) ++ fill 10 (fun _ => 0x40000000)
               p := [(1, 0x0000FFFF), (2, 0x00FF00FF)], modQ := 1048583 } }

/-- What AtLane asks of the encoding. -/
def formOk (x : Nat × LaneFields) : Bool := laneLegal x.1 x.2 && decide (maxReg x.1 x.2 < 64) && !x.2.sweep

theorem laneState_at : laneState.warp? laneState.cur = some (warpOf laneState) ∧ (warpOf laneState).live = true ∧
    (warpOf laneState).blocks.head? = some block6 ∧ (warpOf laneState).held = 0 := by decide +kernel

/-- A legal form of an opcode at the head block meets what the statements about it ask. -/
theorem atLane_of (op : Nat) (f : LaneFields) (h : formOk (op, f) = true) :
    Claims.AtLane laneState (warpOf laneState) block6 op f := by
  obtain ⟨hw, hl, hb, hh⟩ := laneState_at
  simp only [formOk, Bool.and_eq_true, decide_eq_true_eq, Bool.not_eq_true'] at h
  exact ⟨hw, hl, hb, h.1.1, by rw [hh]; omega, rfl, h.2, rfl⟩

/-- Fields of a form with its type, and with a predicate destination. -/
def typed (ty : LType) : LaneFields := { plain with ty := ty, dest := .v 4, opa := .v 2, opb := .v 6, opc := .v 0 }
/-- A form with C. -/
def typedC (ty : LType) : LaneFields := { typed ty with opc := .v 8 }
/-- A form of one operand. -/
def typedA (ty : LType) : LaneFields := { typed ty with opb := .v 0 }
/-- A compare. -/
def typedP (ty : LType) : LaneFields := { typed ty with dest := .p 7 }

theorem test_witness_LaneIntegerAndBits : ([(0x000, { typed .s64 with sat := true }), (0x001, typed .n8), (0x002, typed .s16),
    (0x003, typed .n64), (0x004, typedC .s32), (0x005, typed .s8), (0x006, typed .n64), (0x007, typed .s16), (0x008, typed .n16),
    (0x009, typedA .s64), (0x00A, typedA .s8), (0x00B, typed .n8), (0x00C, typed .n16), (0x00D, typed .n32), (0x00E, typedA .n64),
    (0x00F, typed .s8), (0x010, typed .s64), (0x011, typed .n32), (0x012, typedA .n64), (0x013, typedA .n32),
    (0x014, typedA .n64), (0x015, typedC .s64), (0x016, typedC .n32), (0x017, typedA .n64)].all formOk) = true := by
  decide +kernel

theorem test_witness_LaneComparesAndModular : ([(0x018, typedP .s8), (0x019, typedP .n16), (0x01A, typedP .s64), (0x01B, typedP .n64),
    (0x01C, typedP .s32), (0x01D, typedP .n32), (0x04A, typedP .f16), (0x04B, typedP .bf16), (0x04C, typedP .f32),
    (0x04D, typedP .f64), (0x04E, typedP .f32), (0x110, typedC .untyped), (0x111, typedC .untyped), (0x180, typed .mod64),
    (0x181, typed .mod64), (0x182, typed .mod64), (0x183, typedC .mod64), (0x184, typedC .mod64)].all formOk) = true ∧
    LType.f16.ieee = some fmtF16 ∧ LType.f32.paired = false ∧ (warpOf laneState).modQ ≠ 0 ∧ (warpOf lNopState).modQ = 0 ∧
    participants (warpOf laneState) block6 (typed .mod64) ≠ 0 := by decide +kernel

theorem test_witness_LaneFloatResults : ([(0x040, typed .f16x2), (0x041, typed .bf16x2), (0x042, typed .f64), (0x043, typedC .f32),
    (0x044, typed .f64), (0x045, typedA .f32), (0x046, typed .f16), (0x047, typed .bf16), (0x048, typedA .f64),
    (0x049, typedA .f16x2)].all formOk) = true ∧
    ∀ t, (warpOf laneState).trapsOn t = false := ⟨by decide +kernel, fun t => by
      unfold Warp.trapsOn; rw [show field (warpOf laneState).arithCtl 12 8 = 0 by decide +kernel]; simp⟩

theorem test_witness_LaneConvertResults : ([(0x050, typedA .f16), (0x051, typedA .f32), (0x052, typedA .f16), (0x053, typedA .f32),
    (0x054, typedA .f32), (0x055, typedA .f16), (0x056, typedA .f32), (0x080, { typedA .s8 with w2 := 8, sat := true }),
    (0x080, { typedA .f32 with w2 := 0x0F, opb := .s 3 }), (0x081, typedA .f64)].all formOk) = true ∧
    formatWordOk .nf8 0 = true ∧ formatWordOk .nf8 (BitVec.allOnes 64) = false := by decide +kernel

/-- A thread's result in a lane register. -/
def laneAfter (i : Instr) (s : State) (n t : Nat) : Option LaneWord := (nextOf (exec i s)).map fun x => (warpOf x).vget n t

/-- v12 from v4 and v6. -/
def ab (ty : LType) (a b : VReg) : LaneFields := { plain with ty := ty, dest := .v 12, opa := .v a, opb := .v b }

theorem test_iadd_wraps : laneAfter (.iadd (ab .s32 4 4)) laneState 12 31 = some 0 ∧
    laneAfter (.iadd { ab .s32 4 4 with sat := true }) laneState 12 0 = some 0x80000000 := by decide +kernel
theorem test_isub_lane_order : laneAfter (.isub (ab .s32 2 6)) laneState 12 0 = some 0xFFFFFFFD := by decide +kernel
theorem test_imulh_signed : laneAfter (.imulh (ab .s32 4 6)) laneState 12 2 = some 0xFFFFFFFE := by decide +kernel
theorem test_idiv_zero : laneAfter (.idiv (ab .n32 6 2)) laneState 12 0 = some 0xFFFFFFFF ∧
    laneAfter (.idiv (ab .n32 6 2)) laneState 12 2 = some 1 ∧
    (nextOf (exec (.idiv (ab .n32 6 2)) laneState)).map (fun t => (warpOf t).arithCtl.getLsbD 3) = some true := by decide +kernel
theorem test_shr_by_type : laneAfter (.laneShr (ab .s32 4 6)) laneState 12 0 = some 0xF0000000 ∧
    laneAfter (.laneShr (ab .n32 4 6)) laneState 12 0 = some 0x10000000 := by decide +kernel
theorem test_small_type_extends : laneAfter (.iadd (ab .s8 2 4)) laneState 12 2 = some 2 ∧
    laneAfter (.ineg { ab .s8 6 0 with opb := .v 0 }) laneState 12 1 = some 0xFFFFFFFD := by decide +kernel
theorem test_fadd : laneAfter (.fadd (ab .f32 8 10)) laneState 12 0 = some 0x40400000 := by decide +kernel
theorem test_fma_once : laneAfter (.fma { ab .f32 8 10 with opc := .v 8 }) laneState 12 1 = some 0x40400000 := by decide +kernel
theorem test_fdiv : laneAfter (.fdiv (ab .f32 8 10)) laneState 12 0 = some 0x3F000000 := by decide +kernel
/-- R193's example: 1,048,582 times 1,048,581 is 2 modulo 1,048,583, and their sum is 1,048,580. -/
theorem test_modular_example :
    let s := { laneState with warps := laneState.warps.map fun w => { w with s := [(1, 1048582), (2, 1048581)] } }
    let f : LaneFields := { ab .mod64 8 8 with opa := .s 1, opb := .s 2 }
    laneAfter (.modmul f) s 12 31 = some 2 ∧ laneAfter (.modadd f) s 12 0 = some 1048580 := by decide +kernel
theorem test_iset : (nextOf (exec (.isetLt { ab .s32 4 2 with dest := .p 3 }) laneState)).map (fun t => (warpOf t).pget 3) =
    some 0x80018007 := by decide +kernel
/-- A negated guard takes the other half. -/
theorem test_guard : laneAfter (.mov { ab .n32 6 0 with opb := .v 0, pred := 1, pneg := true }) laneState 12 15 = some 0 ∧
    laneAfter (.mov { ab .n32 6 0 with opb := .v 0, pred := 1, pneg := true }) laneState 12 16 = some 3 := by decide +kernel

theorem test_witness_ArithmeticTraps :
    let s := { laneState with warps := laneState.warps.map fun w => { w with arithCtl := 0x1F00 } }
    formOk (0x005, ab .s32 6 2) = true ∧ 0 ∈ threads (participants (warpOf s) block6 (ab .s32 6 2)) ∧
    Claims.opB (warpOf s) (ab .s32 6 2) 0 = 0 ∧ (warpOf s).trapsOn fDZ = true := by decide +kernel

/-- 1.0 divided by 0, and the reciprocal of 0, with every flag trapping. -/
theorem test_witness_FloatTraps :
    let s := { laneState with warps := laneState.warps.map fun w => { w with arithCtl := 0x1F00, trapVec := 0x10100 } }
    let f := { typed .f32 with opa := .v 8, opb := .v 0 }
    let z := { typedA .f32 with opa := .v 0 }
    formOk (0x044, f) = true ∧ formOk (0x050, z) = true ∧ 0 ∈ threads (participants (warpOf s) block6 f) ∧
    (warpOf s).trapsOn (onElements .f32 (fun m a b _ => ((m.finish .rne false (fpDiv (m.decode a) (m.decode b)).1).1,
      (fpDiv (m.decode a) (m.decode b)).2 ||| (m.finish .rne false (fpDiv (m.decode a) (m.decode b)).1).2))
      (Claims.opA (warpOf s) f 0) (Claims.opB (warpOf s) f 0) (Claims.opC (warpOf s) f 0)).2 = true ∧
    (warpOf s).trapsOn (special .rcp false (Claims.opA (warpOf s) z 0)).2 = true ∧
    (nextOf (exec (.fdiv f) s)).map (fun t => ((warpOf t).pc, field (warpOf t).trapCause 7 0)) = some (0x10100, 0x02) := by
  decide +kernel

/-! ### Predicates, the mask stack and cross-thread instructions -/

/-- Fields of a form without a type. -/
def bare : LaneFields := { plain with ty := .untyped, dest := .noDest, opa := .v 0, opb := .v 0 }

theorem test_witness_LaneMasks : ([(0x0C0, { bare with dest := .p 7, opa := .p 1, opb := .p 2 }),
    (0x0C1, { bare with dest := .p 0, opa := .p 1, opb := .p 2 }), (0x0C2, { bare with dest := .p 1, opa := .p 1, opb := .p 0 }),
    (0x0C3, { bare with dest := .p 1, opa := .p 2 }), (0x0C8, { bare with opa := .p 1 }), (0x0C9, bare), (0x0CA, bare), (0x0CB, bare),
    (0x0CC, { bare with opa := .p 1 }), (0x0CD, bare), (0x0CE, bare), (0x0CF, bare)].all formOk) = true ∧
    block6.stack = [{ active := 0x80018007 }] ∧ (warpOf laneState).active = false := by decide +kernel

/-- The head block with a mask stack. -/
def stacked (st : List MaskEntry) : State :=
  { laneState with warps := laneState.warps.map fun w => { w with queue := [{ block6 with stack := st }] } }

/-- Every mask clause's stack: at depth 32, an if arm, an else arm, and a loop with and without active threads. -/
theorem test_witness_MaskStack : (warpOf (stacked [{ active := 1, kind := .ifArm, elseMask := 2 }, { active := 3 }])).blocks.head? =
    some { block6 with stack := [{ active := 1, kind := .ifArm, elseMask := 2 }, { active := 3 }] } ∧
    (List.replicate 31 ({ active := 3 } : MaskEntry)).length = 31 := by decide +kernel

/-- The stack after a mask instruction. -/
def stackAfter (i : Instr) (st : List MaskEntry) : Option (List MaskEntry) :=
  (nextOf (exec i (stacked st))).bind fun t => (warpOf t).blocks.head?.map Block.stack

theorem test_m_if : stackAfter (.mIf { bare with opa := .p 2 }) [{ active := 0xFFFF }] =
    some [{ active := 0xFF, elseMask := 0xFF00, kind := .ifArm }, { active := 0xFFFF }] := by decide +kernel
theorem test_m_brk : stackAfter (.mBrk { bare with opa := .p 2 })
    [{ active := 0xF00F, elseMask := 0xFF, kind := .ifArm }, { active := 0xFFFF, kind := .loop, start := 0x4003 }, { active := 0xFFFF }] =
    some [{ active := 0xF000, elseMask := 0xF0, kind := .ifArm }, { active := 0xFFF0, kind := .loop, start := 0x4003 },
      { active := 0xFFFF }] := by decide +kernel
theorem test_m_next : (nextOf (exec (.mNext bare) (stacked [{ active := 1, kind := .loop, start := 0x3FF8 }, { active := 1 }]))).bind
    (fun t => (warpOf t).blocks.head?.map Block.lpc) = some 0xFFE0 := by decide +kernel
theorem test_mask_stack_trap : (nextOf (exec (.mEndif bare) (handled laneState))).map (fun t =>
    (field (warpOf t).trapCause 7 0, field (warpOf t).trapCause 47 40)) = some (0x01, 0x01) := by decide +kernel
theorem test_l_end : (nextOf (exec (.lEnd bare) laneState)).map (fun t => ((warpOf t).queue.length, (warpOf t).lane)) =
    some (0, false) := by decide +kernel

theorem test_witness_CrossThread : ([(0x100, { ab .n32 2 6 with opc := .v 0 }), (0x101, { ab .n32 2 6 with opc := .inl 0x7F }),
    (0x102, { ab .n32 2 6 with opc := .v 4 }), (0x103, ab .n32 2 6), (0x104, { bare with dest := .s 62, opa := .p 1 }),
    (0x105, { bare with dest := .p 3, opa := .p 1 }), (0x106, { bare with dest := .p 0, opa := .p 1 }),
    (0x107, { ab .f32 8 0 with dest := .s 5, opb := .v 0 }), (0x108, { ab .s64 8 0 with dest := .s 5, opb := .v 0 }),
    (0x109, { ab .s32 8 0 with dest := .s 5, opb := .v 0 }), (0x10A, { ab .n64 8 0 with dest := .s 5, opb := .v 0 }),
    (0x10B, { ab .n32 8 0 with dest := .s 5, opb := .v 0 }), (0x10C, { ab .n32 8 0 with dest := .s 5, opb := .v 0 }),
    (0x10D, { ab .f32 8 0 with opb := .v 0 }), (0x10E, { ab .s32 8 0 with opb := .v 0 }),
    (0x10F, { ab .n32 8 0 with opb := .v 0 })].all formOk) = true ∧
    block6.running = none ∧ field (warpOf laneState).arithCtl 12 8 = 0 ∧ (warpOf laneState).limit = 0 := by decide +kernel

theorem test_lxch_lag : laneAfter (.lxchLag { ab .n32 2 6 with opc := .inl 0x7F }) laneState 12 2 = some 0xFFFFFFFF ∧
    laneAfter (.lxchLag { ab .n32 2 6 with opc := .inl 0x7F }) laneState 12 15 = some 12 := by decide +kernel
theorem test_ballot : after (.ballot { bare with dest := .s 5, opa := .p 2, pred := 1 }) laneState 5 = some 0x07 := by decide +kernel
theorem test_redux_add : after (.reduxAdd { ab .s32 2 0 with dest := .s 5, opb := .v 0 }) laneState 5 = some 65 := by decide +kernel
theorem test_scan_addx : laneAfter (.scanAddx { ab .n32 2 0 with opb := .v 0 }) laneState 12 31 = some 34 ∧
    laneAfter (.scanAddx { ab .n32 2 0 with opb := .v 0 }) laneState 12 0 = some 0 := by decide +kernel

/-! ### Scratchpad, global memory, atomics, fences, sync blocks and barriers -/

/-- A warp with a kilobyte of scratchpad from cell 64, a page that it may read and write at 0x2_0000, and registers that
address them: s1 a global word, s2 a scratchpad word, s3 one that is not aligned, s4 data, s5 the word after it, s6 a
barrier, s7 and s8 sync blocks. -/
def memState : State :=
  let s := scalarAt 0x8C000000 [(1, 0x20108), (2, 0x20), (3, 0x21), (4, 0xFFFF_FFFF_8000_0001), (5, 7), (6, 0x100), (7, 0x200),
    (8, 0x20400)]
  { (s.writePa 0x5010 8 0x3000F).writePa 0x30108 8 0x8877_6655_4433_22F1 with
    xlat := { s.xlat with owner := Tab.set 0 s.xlat.owner 3 (BitVec.ofNat 32 (2 ^ 31)), heldBy := Tab.set 0 s.xlat.heldBy 3 0 }
    wgs := s.wgs.map fun g => { g with spBase := 64, spBytes := 1024 } }

/-- What an access gives. -/
def okOf {α β : Type} (x : Except α β) : Option β := x.toOption

/-- The workgroup in focus. -/
def groupOf (s : State) : Workgroup := s.wgOf (warpOf s)

theorem test_witness_ScratchpadAccesses :
    Claims.Issues memState (warpOf memState) { reads := [2], writes := [4] } ∧
    Claims.Issues memState (warpOf memState) { reads := [2, 4] } ∧
    okOf (memState.spCell (groupOf memState) 0x3F8 8) = some (64 + 0x3F8) ∧
    okOf (memState.spCell (groupOf memState) 0x20 1) = some (64 + 0x20) ∧
    memState.mem.spPoisoned (64 + 0x20) 8 = false ∧ (warpOf memState).blocks = [] ∧
    loadOrdOk .sc = true ∧ storeOrdOk .rel = true ∧ storeSizeOk .n64 = true ∧ storeSizeOk .s8 = false ∧
    (okOf (memState.release memState.cur (groupOf memState).core (Nat.min 3 Scope.system.code))).isSome = true := by
  unfold Claims.Issues; decide +kernel


theorem test_sts_misaligned : (nextOf (exec (.sts 4 3 .n16 0) (handled memState))).map (fun t =>
    (field (warpOf t).trapCause 7 0, (warpOf t).trapAddr)) = some (0x11, 0x21) := by decide +kernel

theorem test_lds_sign_extends : ((nextOf (exec (.sts 4 2 .n32 0) memState)).bind fun t => after (.lds 9 2 .s32 0) t 9) =
    some 0xFFFF_FFFF_8000_0001 ∧
    ((nextOf (exec (.sts 4 2 .n32 0) memState)).bind fun t => after (.lds 9 2 .n16 2) t 9) = some 0x8000 := by decide +kernel

theorem test_witness_GlobalAccesses : Claims.Issues memState (warpOf memState) { reads := [1], writes := [9] } ∧
    Claims.Issues memState (warpOf memState) { reads := [1, 4] } ∧
    (okOf (memState.gRead 0 none (groupOf memState) false 0x20108 8)).map Prod.fst = some 0x8877_6655_4433_22F1 ∧
    (okOf (memState.gRead 0 none (groupOf memState) true 0x20108 1)).map Prod.fst = some 0xF1 ∧
    (okOf (memState.gWrite 0 none (groupOf memState) false 0x20108 8 1)).isSome = true ∧
    (okOf (memState.precheck (groupOf memState) .write .w 0x20108 8)).isSome = true ∧
    (okOf (memState.release 0 0 Scope.course.code)).isSome = true ∧
    (okOf (memState.gWrite 0 none (groupOf memState) true 0x20108 8 1)).isSome = true := by
  unfold Claims.Issues; decide +kernel

theorem test_ld_sizes : after (.ld 9 1 .s8 0) memState 9 = some 0xFFFF_FFFF_FFFF_FFF1 ∧
    after (.ld 9 1 .n16 2) memState 9 = some 0x4433 := by decide +kernel
theorem test_st_reads_back : ((nextOf (exec (.st 5 1 .n16 2) memState)).bind fun t => after (.ld 9 1 .n64 0) t 9) =
    some 0x8877_6655_0007_22F1 := by decide +kernel

theorem test_witness_Atomics : Claims.Issues memState (warpOf memState) { reads := [1, 4], writes := [4] } ∧
    Claims.Issues memState (warpOf memState) { reads := [1, 4, 5], writes := [4] } ∧
    (okOf (memState.precheck (groupOf memState) .atomic .rw 0x20108 8)).isSome = true ∧
    (okOf (memState.gAtomic 0 none (groupOf memState) 0x20108 4 fun x => some (x + 1))).map Prod.fst = some 0x4433_22F1 ∧
    (okOf (memState.spAtomic (64 + 0x20) 8 fun _ => none)).map Prod.fst = some 0 := by
  unfold Claims.Issues; decide +kernel

theorem test_atom_add : ((nextOf (exec (.atomAdd 4 1 .system .sc .n32) memState)).bind fun t => after (.ld 9 1 .n64 0) t 9) =
    some 0x8877_6655_C433_22F2 ∧ after (.atomAdd 4 1 .system .sc .n32) memState 4 = some 0x4433_22F1 := by decide +kernel
theorem test_cas_fails : ((nextOf (exec (.atomCas 4 1 .system .sc .n32) memState)).bind fun t => after (.ld 9 1 .n32 0) t 9) =
    some 0x4433_22F1 := by decide +kernel
theorem test_atom_max_sp : ((nextOf (exec (.sts 4 2 .n32 0) memState)).bind fun t => (nextOf (exec (.atomMaxSp 5 2 .warp .rlx .n32) t)).bind fun u =>
    after (.lds 9 2 .n32 0) u 9) = some 7 := by decide +kernel

theorem test_witness_HomeWriteReadsBack : 0x30108 % 128 + 120 ≤ 128 ∧ memState.mem.mapCell (0x30108 / 128) = none ∧
    memState.mem.dirOf (0x30108 / 128) = .uncached := by decide +kernel

theorem test_witness_OrderedLoad : (groupOf memState).cert = false ∧
    (okOf (memState.translate (memState.whoOf (groupOf memState)) .read .r false 0x20108)).map
      (fun x => (x.1.kind.isMem, x.1.pa, x.2.mem.l1.length, x.2.mem.poisoned x.1.pa 8)) = some (true, 0x30108, 0, false) := by
  decide +kernel

theorem test_witness_FencesAndWaits : Claims.Issues memState (warpOf memState) {} ∧ (warpOf memState).mon = none ∧
    (okOf (memState.releaseOrd 0 0 .sc Scope.system.code)).isSome = true ∧ (warpOf heldBack).blocks ≠ [] ∧
    Claims.Issues heldBack (warpOf heldBack) {} := by
  unfold Claims.Issues; decide +kernel

/-- The warp in focus with a monitor on the global word. -/
def watching (hit : Bool) : State :=
  { memState with warps := memState.warps.map fun w => { w with mon := some { watch := .line (0x30108 / 128), hit := hit } } }

theorem test_witness_MonitorsWake : Claims.Issues memState (warpOf memState) { reads := [1] } ∧
    (okOf (memState.spCell (groupOf memState) 0x20 4)) = some 0x60 ∧ (warpOf (watching false)).mon.isSome = true := by
  unfold Claims.Issues; decide +kernel

theorem test_monitor_wakes : (nextOf (exec (.atomAdd 5 1 .system .rlx .n64) (watching false))).map (fun t => (warpOf t).mon.map Mon.hit) =
    some (some true) := by decide +kernel
theorem test_mon_wait_parks : (nextOf (exec (.monWait 5) (watching false))).map (fun t => (warpOf t).park) = some (.monitor (some 0)) ∧
    (nextOf (exec (.monWait 5) (watching true))).map (fun t => (warpOf t).pc) = some 0x10004 := by decide +kernel

theorem test_witness_SyncBlocks : Claims.Issues memState (warpOf memState) { reads := [8, 4] } ∧
    Claims.Issues memState (warpOf memState) { reads := [8], writes := [60, 61] } ∧
    Claims.Issues memState (warpOf memState) { reads := [8], writes := [63, 64] } ∧
    (okOf (memState.blkAt (groupOf memState) false false 0x20400 Scope.system.code)).map (fun x => x.1.value) = some 0 ∧
    (okOf (memState.blkAt (groupOf memState) true true 0x200 3)).map (fun x => (x.1.gen, x.2.2.cur)) = some (0, 0) ∧
    (okOf (memState.releasePart 0 0 Scope.system.code)).isSome = true := by
  unfold Claims.Issues; decide +kernel

/-- A release into a scratchpad block, and its acquire: the value and generation 1. -/
theorem test_rel_then_acq : ((nextOf (exec (.relSp 5 7 .cluster) memState)).bind fun t => (nextOf (exec (.acqSp 10 7 .cluster) t)).map fun u =>
    ((warpOf u).sget 10, (warpOf u).sget 11)) = some (7, 1) := by decide +kernel

/-- Through memory at package scope: value, generation, and releaser with scope. -/
theorem test_rel_add : (nextOf (exec (.relAdd 5 8 .package) memState)).map (fun t => t.mem.readCoh 0x30400 18) =
    some (7 + 2 ^ 64 + 5 * 2 ^ 136) := by decide +kernel

/-- A barrier word of two expected arrivals at the address in s6, and the warp's record if it has one. -/
def barrierState (pending : Nat) (r : Option BarRec) : State :=
  let s := memState.spStore (64 + 0x100) 8 (pending + 2 * 2 ^ 16 + 5 * 2 ^ 48)
  { s with warps := s.warps.map fun w => { w with bar := r } }

theorem test_witness_Barriers : Claims.Issues (barrierState 1 none) (warpOf (barrierState 1 none)) { reads := [6] } ∧
    okOf ((barrierState 1 none).spCell (groupOf memState) 0x100 8) = some (64 + 0x100) ∧
    (okOf ((barrierState 2 none).spLoad (64 + 0x100) 8)).bind BarWord.parse = some { pending := 2, expected := 2, phase := 5 } ∧
    (okOf ((barrierState 1 none).spLoad (64 + 0x100) 8)).bind BarWord.parse = some { pending := 1, expected := 2, phase := 5 } ∧
    (okOf ((barrierState 1 none).release 0 0 3)).isSome = true ∧
    (okOf ((barrierState 1 none).barArrive 0 (64 + 0x100) 0x100 .cluster true)).isSome = true := by
  unfold Claims.Issues; decide +kernel

theorem test_bar_arr_last : (nextOf (exec (.barArr 6 .workgroup) (barrierState 1 none))).map (fun t =>
    (readN t.mem.sp (64 + 0x100) 8, (warpOf t).bar.map BarRec.phase)) = some (2 + 2 * 2 ^ 16 + 6 * 2 ^ 48, some 5) := by
  decide +kernel
theorem test_bar_sync_parks : (nextOf (exec (.barSync 6 .workgroup) (barrierState 2 none))).map (fun t =>
    ((warpOf t).pc, (warpOf t).park)) = some (0x10000, .barrier) ∧
    (nextOf (exec (.barSync 6 .workgroup) (barrierState 1 none))).map (fun t => ((warpOf t).pc, (warpOf t).bar)) =
    some (0x10004, none) := by decide +kernel
theorem test_bar_wait_old_phase : (nextOf (exec (.barWait 6 .warp)
    (barrierState 1 (some { cell := 64 + 0x100, phase := 4, sync := false })))).map (fun t => (warpOf t).pc) = some 0x10004 := by
  decide +kernel

/-! ### Lane accesses, capabilities and remote access -/

/-- The lane state with memState's memory and scratchpad: v2 holds the thread number, v12 scratchpad addresses 8 bytes apart,
v14 and v15 global addresses 8 bytes apart. -/
def laneMem : State :=
  { memState with
    warps := laneState.warps.map fun w =>
      { w with v := w.v ++ fill 12 (fun t => BitVec.ofNat 32 (0x40 + 8 * t)) ++
                 fill 14 (fun t => BitVec.ofNat 32 (0x20100 + 8 * t)) } }

/-- Fields of a memory form. -/
def memForm (ty : LType) (d : Dest) (a b : Operand) : LaneFields :=
  { plain with ty := ty, dest := d, opa := a, opb := b }

theorem laneMem_at : laneMem.warp? laneMem.cur = some (warpOf laneMem) ∧ (warpOf laneMem).live = true ∧
    (warpOf laneMem).blocks.head? = some block6 ∧ (warpOf laneMem).held = 0 := by decide +kernel

theorem test_witness_LaneScratchpad :
    ([(0x142, memForm .s64 (.v 16) (.v 12) (.v 0)), (0x143, memForm .n8 .noDest (.v 12) (.v 2))] ++
      ([0x150, 0x151, 0x152, 0x153, 0x154, 0x155, 0x156].map fun op =>
        (op, { memForm .n32 (.v 16) (.v 12) (.v 2) with w2 := 0x60000000, rnd := 6 })) ++
      [(0x157, { memForm .s64 (.v 16) (.v 12) (.v 2) with opc := .v 4, w2 := 0xA0000000, rnd := 3 })]).all formOk = true ∧
    block6.seg = 0 ∧ (threads (participants (warpOf laneMem) block6 (memForm .s64 (.v 16) (.v 12) (.v 0)))).all (fun i =>
      okOf (laneMem.spCell (groupOf laneMem) (BitVec.ofNat 64 (0x40 + 8 * i)) 8) == some (64 + 0x40 + 8 * i)) = true ∧
    (okOf (laneMem.release laneMem.cur 0 3)).isSome = true := by decide +kernel

theorem test_l_sts_then_lds : ((nextOf (exec (.lSts (memForm .n16 .noDest (.v 12) (.v 2))) laneMem)).bind fun t =>
    laneAfter (.lLds (memForm .s8 (.v 16) (.v 12) (.v 0))) t 16 31) = some 31 := by decide +kernel

theorem test_l_satom_add : (nextOf (exec (.lSatomAdd { memForm .n32 (.v 16) (.s 2) (.inl 1) with w2 := 0x20000000 }) laneMem)).map
    (fun t => (readN t.mem.sp 64 4, (warpOf t).vget 16 31)) = some (6, 5) := by decide +kernel

theorem test_witness_LaneGlobal :
    ([(0x140, memForm .s64 (.v 16) (.v 14) (.v 0)), (0x140, { memForm .f32 (.v 16) (.v 14) (.v 0) with w2 := 0x40000000, rnd := 6 }),
      (0x141, memForm .n8 .noDest (.v 14) (.v 2)), (0x141, { memForm .n8 .noDest (.v 14) (.v 2) with w2 := 0xA0000000, rnd := 2 }),
      (0x144, memForm .n32 (.v 16) (.v 2) (.v 14)), (0x145, { memForm .n32 .noDest (.v 2) (.v 14) with opc := .v 4 })] ++
      ([0x148, 0x149, 0x14A, 0x14B, 0x14C, 0x14D, 0x14E].map fun op =>
        (op, { memForm .n32 (.v 16) (.v 14) (.v 2) with w2 := 0x80000000, rnd := 5 })) ++
      [(0x14F, { memForm .s64 (.v 16) (.v 14) (.v 2) with opc := .v 4, w2 := 0x20000000 })]).all formOk = true ∧
    (okOf (laneMem.release laneMem.cur 0 5)).isSome = true ∧
    (okOf (laneMem.gRead 0 (some 31) (groupOf laneMem) false 0x201F8 8)).isSome = true ∧
    (okOf (laneMem.gWrite 0 (some 31) (groupOf laneMem) true 0x201F8 1 3)).isSome = true := by decide +kernel

theorem test_l_ld : laneAfter (.lLd { memForm .s16 (.v 16) (.v 14) (.v 0) with w2 := 6 }) laneMem 16 1 = some 0xFFFF8877 := by
  decide +kernel
theorem test_l_atom_min : ((nextOf (exec (.lAtomMin { memForm .s32 (.v 16) (.v 14) (.v 4) with w2 := 0x20000000 }) laneMem)).map
    (fun t => t.mem.readCoh 0x30108 4)) = some 0x80000000 := by decide +kernel

theorem test_witness_LaneMisaligned : (threads (participants (warpOf laneMem) block6 (memForm .n16 .noDest (.v 14) (.v 2)))).head? = some 0 ∧
    (BitVec.ofNat 64 ((warpOf laneMem).operand (memForm .n16 .noDest (.v 14) (.v 2)) .n64 0 (.v 14)) + 1).toNat % 2 ≠ 0 ∧
    ([(0x141, { memForm .n16 .noDest (.v 14) (.v 2) with w2 := 1 }), (0x140, { memForm .n16 (.v 16) (.v 14) (.v 0) with w2 := 1 }),
      (0x148, { memForm .n32 (.v 16) (.v 14) (.v 2) with w2 := 0x20000001 })].all formOk) = true := by decide +kernel

/-- laneMem with thread 2's global address at an odd byte. -/
def laneOdd : State :=
  { laneMem with warps := laneMem.warps.map fun w => { w with v := Tab.set 0 w.v (14 * 32 + 2) 0x20111, trapVec := 0x10100 } }

/-- Threads 0 and 1 perform their loads, and thread 2 stops. -/
theorem test_witness_LaneMisalignedLater :
    let s := laneOdd
    let w := warpOf s
    let f := memForm .n16 (.v 16) (.v 14) (.v 0)
    2 ∈ threads (participants w block6 f) ∧
    (match Claims.eachThread ((threads (participants w block6 f)).filter fun i => decide (i < 2)) (Claims.laneLoad f (groupOf s) w) s with
      | .ok u => ((Claims.laneVa f (Claims.now u w) 2).toNat % 2, u.mismatch 2)
      | .error _ => (0, true)) = (1, false) ∧
    (nextOf (exec (.lLd f) s)).map (fun t => ((warpOf t).pc, (warpOf t).trapAddr, (warpOf t).vget 16 1)) =
      some (0x10100, 0x20111, 0x22F1) := by decide +kernel

/-- A sweep of one thread: v2 holds thread 1's address 1 for the destination; A is at v12, with steps. -/
def sweepForm : LaneFields :=
  { pred := 3, pneg := false, dest := .v 12, ty := .n32, rnd := 0, sat := false, opa := .v 12, opb := .inl 5, opc := .v 0
    sweep := true, w2 := 0x00201040 }

/-- Thread 1 alone passes p3. -/
def sweepState : State := { laneMem with warps := laneMem.warps.map fun w => { w with p := w.p ++ [(3, 2)] } }

theorem test_witness_Sweep : laneLegal 0x000 sweepForm = true ∧ maxReg 0x000 sweepForm < 64 ∧
    participants (warpOf sweepState) block6 sweepForm = BitVec.ofNat 32 (2 ^ 1) ∧
    okOf (sweepState.sweepCell (groupOf sweepState) 0x48 4) = some 0x88 ∧ sweepState.mem.spPoisoned 0x88 4 = false := by
  decide +kernel

/-- Both segments, 16 bytes apart. -/
theorem test_sweep_segments : ((nextOf (exec (.iadd sweepForm) sweepState)).bind fun t => (nextOf (exec (.iadd sweepForm) t)).map fun u =>
    (readN t.mem.sp 0x88 4, (warpOf t).blocks.head?.map (fun b => (b.lpc, b.seg)), readN u.mem.sp 0x98 4,
      (warpOf u).blocks.head?.map fun b => (b.lpc, b.seg))) =
    some (5, some (0x10000, 1), 5, some (0x1000C, 0)) := by decide +kernel

/-- A capability of 4096 bytes at 0x10_0000 on peer 3, target context 4, lease 9, with every permission; peer 3 ACTIVE; k0 holds
it, k1 is untagged; s10 and s11 hold it, s12 and s13 a narrower range, s14 an offset. -/
def cap0 : BitVec 128 := BitVec.ofNat 128 (0x100000 * 2 ^ 71 + 0x1000 * 2 ^ 31 + 3 * 2 ^ 22 + 4 * 2 ^ 14 + 0xF * 2 ^ 10 + 9)

def capState : State :=
  let s := memState
  { s with
    warps := s.warps.map fun w => { w with k := [(0, cap0)], kTag := 1
                                           s := w.s ++ [(10, cap0.setWidth 64), (11, (cap0 >>> 64).setWidth 64), (12, 0x100010),
                                             (13, 0xFF0), (14, 0x18), (15, 0xFF9)] }
    fab := { s.fab with peers := [(3, BitVec.ofNat 64 (2 * 2 ^ 62 + 9 * 2 ^ 48))] } }

theorem test_witness_Capabilities : Claims.Issues capState (warpOf capState) { reads := [10, 11] } ∧
    Claims.Issues capState (warpOf capState) { reads := [63, 64] } ∧
    Claims.Issues capState (warpOf capState) { reads := [12] } ∧ Claims.Issues capState (warpOf capState) { writes := [9] } ∧
    (groupOf capState).cert = false ∧ capState.ctxSys (groupOf capState).ctx = true ∧ capOk cap0 = true ∧
    field (capState.peer 0 (capPeer cap0)) 63 62 = 2 ∧ field (capState.peer 0 (capPeer cap0)) 57 48 = capLease cap0 ∧
    (warpOf capState).ktag 0 = true ∧ (warpOf capState).ktag 1 = false ∧
    capBase cap0 ≤ 0x100010 ∧ 0x100010 + 0xFF0 ≤ capBase cap0 + capLength cap0 := by
  unfold Claims.Issues; decide +kernel

/-- The same in a certified launch. -/
def certCap : State := { capState with wgs := capState.wgs.map fun g => { g with cert := true } }

theorem test_witness_CertifiedCapabilities : Claims.Issues certCap (warpOf certCap) {} ∧
    Claims.Issues certCap (warpOf certCap) { reads := [10, 11] } ∧ Claims.Issues certCap (warpOf certCap) { reads := [10] } ∧
    Claims.Issues certCap (warpOf certCap) { writes := [9] } ∧ (groupOf certCap).cert = true := by
  unfold Claims.Issues; decide +kernel

theorem test_cap_mint : (nextOf (exec (.capMint 2 10) capState)).map (fun t => ((warpOf t).kget 2, (warpOf t).ktag 2)) =
    some (cap0, true) := by decide +kernel
theorem test_cap_bound_end : (nextOf (exec (.capBound 2 0 12) capState)).map (fun t =>
    (capBase ((warpOf t).kget 2), capLength ((warpOf t).kget 2))) = some (0x100010, 0xFF0) := by decide +kernel
theorem test_cap_perm_drops_atom : (nextOf (exec (.capPerm 2 0 13) capState)).map (fun t => field ((warpOf t).kget 2) 13 10) =
    some 0 := by decide +kernel

theorem test_witness_CapabilityMemory :
    Claims.Issues capState (warpOf capState) { reads := [8] } ∧
    (okOf (capState.translate (capState.whoOf (groupOf capState)) .write .w false 0x20400)).isSome = true ∧
    (okOf (capState.translate (capState.whoOf (groupOf capState)) .read .r false 0x20400)).isSome = true := by
  unfold Claims.Issues; decide +kernel

theorem test_cap_st_then_ld : ((nextOf (exec (.capSt 8 0) capState)).bind fun t => (nextOf (exec (.capLd 4 8) t)).map fun u =>
    ((warpOf u).kget 4, (warpOf u).ktag 4)) = some (cap0, true) := by decide +kernel

theorem test_witness_Remote : Claims.Issues capState (warpOf capState) { reads := [14], writes := [9] } ∧
    Claims.Issues capState (warpOf capState) { reads := [14, 9, 10], writes := [9] } ∧
    Claims.Issues capState (warpOf capState) { reads := [14, 9] } ∧ capState.request? 0 none = none ∧
    (okOf (capState.remoteSend 0 none (groupOf capState) { bits := cap0, tag := true } 0x18 { op := .load, size := 8 })).isSome = true ∧
    (okOf (capState.remoteStore (groupOf capState) { bits := cap0, tag := true } 0xFF8 8 1)).isSome = true ∧
    capState.fab.wcb = [] ∧ capState.fab.flights = [] := by
  unfold Claims.Issues; decide +kernel

theorem test_rld_sends : (nextOf (exec (.rld 9 14 0 .n32) capState)).map (fun t => (t.outbox, (warpOf t).park)) =
    some ([.remote 0 3 4 9 0x100018 .load 4 0 0], .response) := by decide +kernel

/-- An answered request of thread `th`. -/
def answered (th : Option Nat) (a : Option RemAnswer) : State :=
  { capState with fab := { capState.fab with remotes := [{ id := 7, warp := 0, thread := th, peer := 3, part := 0, sent := 0
                                                           answer := a }] } }

theorem test_rld_answer : after (.rld 9 14 0 .s8) (answered none (some (.data 0x1FF))) 9 = some 0xFFFF_FFFF_FFFF_FFFF := by
  decide +kernel
theorem test_remote_bounds : (nextOf (exec (.rld 9 15 0 .n64) (handled capState))).map (fun t =>
    (field (warpOf t).trapCause 7 0, field (warpOf t).trapCause 47 40, (warpOf t).trapAddr)) = some (0x0D, 2, 0x100FF9) := by
  decide +kernel
theorem test_rst_buffers : (nextOf (exec (.rst 5 14 0 .n16) capState)).map (fun t => t.fab.wcb.map fun e =>
    (e.line, e.mask, field e.data 207 192)) = some [(0x2000, 0x03000000, 7)] := by decide +kernel

theorem test_witness_LaneRemote : ([(0x160, memForm .n64 (.v 16) (.v 12) (.v 0)), (0x161, memForm .n32 .noDest (.v 12) (.v 2)),
    (0x162, memForm .n32 (.v 16) (.v 12) (.v 2)), (0x163, { memForm .s64 (.v 16) (.v 12) (.v 2) with opc := .v 4 })].all formOk) =
    true := by decide +kernel

/-! ### Engines, landing words and scratchpad mappings -/

/-- memState with a request of `l` (offset, bytes, value) at scratchpad 0x80, which s16 addresses; s17 names a landing word in
scratchpad at 0x40, s18 a count, s19 a line to map, s20 its row and count. -/
def reqState (l : List (Nat × Nat × Nat)) : State :=
  let s := l.foldl (fun s x => s.spStore (64 + 0x80 + x.1) x.2.1 x.2.2) capState
  { s with warps := s.warps.map fun w => { w with s := w.s ++ [(16, 0x80), (17, 0x8000_0000_0000_0040), (18, 3), (19, 0x20400),
                                                              (20, 0x1_0000_0200)] } }

/-- A copy of one row of 256 bytes between two addresses. -/
def copyState : State := reqState [(0, 8, 0x20000), (16, 8, 0x20400), (32, 4, 256), (36, 4, 1)]

/-- A bulk send of 64 bytes at offset 0x100. -/
def bulkState : State := reqState [(0, 8, 0x20000), (16, 8, 0x100), (80, 8, 2 ^ 64 - 1), (88, 8, 2 ^ 64 - 1), (104, 8, 64)]

/-- The request posted. -/
def reqOf (s : State) (n : Nat) : BitVec 1024 := (okOf (s.request (groupOf s) 0x80 n)).getD 0

theorem test_witness_EnginePosts : Claims.Issues copyState (warpOf copyState) { reads := [16] } ∧ (groupOf copyState).cert = false ∧
    (okOf (copyState.release 0 0 3)).isSome = true ∧ reqGet (reqOf copyState 128) 56 8 = 0 ∧ copyBad (reqOf copyState 128) = false ∧
    srcKind (reqOf copyState 128) = 0 ∧ dstKind (reqOf copyState 128) = 0 ∧ copyState.queueLen 0 3 < queueCap 3 ∧
    copyBad (reqOf (reqState []) 128) = true ∧ bulkBad (reqOf bulkState 128) (capBase cap0) = false ∧
    reqGet (reqOf bulkState 128) 16 8 + reqGet (reqOf bulkState 128) 104 8 ≤ capLength cap0 ∧
    gatherBad (reqOf (reqState []) 64) = true := by
  unfold Claims.Issues; decide +kernel

/-- A conditional copy with its version word at 0x2_0100, and a gather of four elements of 16 bytes. -/
theorem test_witness_CondAndGather :
    let c := reqState [(0, 8, 0x20000), (16, 8, 0x20400), (32, 4, 256), (36, 4, 1), (72, 8, 0x20100)]
    let g := reqState [(0, 8, 0x20000), (16, 4, 0x40), (20, 4, 0x200), (24, 4, 4), (28, 4, 16), (32, 8, 9)]
    c.versionInside (groupOf c) (reqOf c 128) = false ∧
    (okOf (c.landing (groupOf c) 0x20100 8 .atomic .rw)).map (fun x => (decide (x.2.queueLen 0 0 < queueCap 0), (okOf (x.2.release 0 0 3)).isSome)) =
      some (true, true) ∧
    gatherBad (reqOf g 64) = false ∧ (okOf (g.spCell (groupOf g) 0x40 16)).isSome = true ∧
    (okOf (g.spCell (groupOf g) 0x200 64)).isSome = true := by decide +kernel

theorem test_xfer_post : (nextOf (exec (.xferPost 16 3) copyState)).map (fun t => (t.eng.ops.map fun o => (o.q, o.kind, o.id),
    (warpOf t).pc)) = some ([(3, .post, 0)], 0x10004) := by decide +kernel

theorem test_witness_FenceAndLanding : (warpOf copyState).qfence = none ∧ Claims.Issues copyState (warpOf copyState) {} ∧
    Claims.Issues copyState (warpOf copyState) { reads := [17, 18] } ∧ (warpOf copyState).sget 17 ≠ 0 ∧
    (okOf (copyState.landing (groupOf copyState) 0x8000_0000_0000_0040 16 .atomic .rw)).isSome = true ∧
    (okOf (copyState.landLook (groupOf copyState) 0x8000_0000_0000_0040)).map (fun x => (x.1.phase, x.2.cur)) = some (0, 0) ∧
    Claims.Issues copyState (warpOf copyState) { reads := [17], writes := [9] } := by
  unfold Claims.Issues; decide +kernel

theorem test_qfence : (nextOf (exec (.qfence 0x31) copyState)).map (fun t => (t.eng.ops.map EngOp.q, t.eng.mx.map MxOp.id)) =
    some ([0, 4], [0]) := by decide +kernel
theorem test_landing : ((nextOf (exec (.lwInit 17 18) copyState)).bind fun t => after (.lwRead 9 17) t 9) =
    some 0x0000_0003_0000_0000 := by decide +kernel
theorem test_lw_wait_parks : (nextOf (exec (.lwWait 17 0) copyState)).map (fun t => (warpOf t).park) =
    some (.landing 0x8000_0000_0000_0040 0) ∧
    (nextOf (exec (.lwWait 17 18) copyState)).map (fun t => (warpOf t).pc) = some 0x10004 := by decide +kernel

theorem test_witness_Mappings : Claims.Issues copyState (warpOf copyState) { reads := [19, 20], writes := [9] } ∧
    0x20400 % 128 = 0 ∧ field ((warpOf copyState).sget 20) 31 0 = 0x200 ∧ field ((warpOf copyState).sget 20) 44 32 = 1 ∧
    (warpOf copyState).mapped = none ∧ copyState.mem.maps = [] ∧
    (okOf (copyState.mapLines 0 (groupOf copyState) 0x20400 ((groupOf copyState).cell 0x200) 1 0)).map Prod.fst = some 1 := by
  unfold Claims.Issues; decide +kernel

/-- A mapped line is read and written through its row. -/
theorem test_map_then_store : ((nextOf (exec (.spMap 9 19 20) copyState)).bind fun t => (nextOf (exec (.st 5 19 .n32 4) t)).map fun u =>
    (Tab.get 0 (warpOf t).s 9, readN u.mem.sp (64 + 0x204) 4)) = some (1, 7) := by decide +kernel
theorem test_unmap : ((nextOf (exec (.spMap 9 19 20) copyState)).bind fun t => (nextOf (exec (.spUnmap 19) t)).map fun u =>
    (t.mem.maps.length, u.mem.maps.length)) = some (1, 0) := by decide +kernel

/-! ### Affine and control registers, lane blocks, holdings -/

theorem test_witness_Affine : Claims.Issues aluState (warpOf aluState) { reads := [1, 2], aff := [15] } ∧
    Claims.Issues aluState (warpOf aluState) { reads := [1], aff := [15] } ∧
    Claims.Issues aluState (warpOf aluState) { writes := [3] } := by
  unfold Claims.Issues; decide +kernel

theorem test_asread_extends : ((nextOf (exec (.amov 15 1 2) aluState)).bind fun t => after (.asread 3 15) t 3) =
    some 0xFFFF_FFFF_FFFF_FFFF ∧ ((nextOf (exec (.aadd 15 2) aluState)).bind fun t => after (.aread 3 15) t 3) =
    some 0xFFFF_FFFF_FFFF_FFFF := by decide +kernel

/-- A workgroup with two tile registers and one accumulator; s1 a register of all ones, s2 a shape of 16 rows of 64 codes of
format 0, s3 the modulus of R193's example. -/
def crState : State :=
  let s := scalarAt 0x8C000000 [(1, 0xFFFF_FFFF_FFFF_FFFF), (2, 0x0004_0010_0000_0000), (3, 1048583)]
  { s with wgs := s.wgs.map fun g => { g with tiles := 2, accs := 1, tileMap := [0, 1], accMap := [0] } }

theorem test_witness_ControlRegisters : Claims.Issues crState (warpOf crState) { writes := [9] } ∧
    Claims.Issues crState (warpOf crState) { reads := [1] } ∧ (warpOf crState).blocks = [] ∧ 1 < (groupOf crState).tiles ∧
    ¬ 2 < (groupOf crState).tiles ∧ 0 < (groupOf crState).accs ∧ crOf 0x005 = none ∧ crOf 0x01D = none ∧ crOf 0x818 = none ∧
    legalQ 1048583 = true ∧ legalQ (2 ^ 62 - 1) = true ∧ legalQ (2 ^ 62 + 1) = false ∧ legalQ 1 = false ∧ shapeOk 0x0004_0010_0000_0000 = true ∧
    shapeOk 0xFFFF_FFFF_FFFF_FFFF = false := by
  unfold Claims.Issues; decide +kernel

/-- A code of DRM from 4 to 7 leaves the field, and the reserved bits stay zero. -/
theorem test_arith_ctl : (nextOf (exec (.mtcr 1 0x008) crState)).map (fun t => (warpOf t).arithCtl) = some 0x1F1F := by
  decide +kernel
theorem test_tile_register_range : (nextOf (exec (.mfcr 9 0x042) (handled crState))).map (fun t =>
    (field (warpOf t).trapCause 7 0, field (warpOf t).trapCause 47 40)) = some (0x13, 3) := by decide +kernel
theorem test_trap_vec_read_only : (nextOf (exec (.mtcr 1 0x01C) (handled crState))).map (fun t => field (warpOf t).trapCause 7 0) =
    some 0x01 := by decide +kernel

/-- A warp in a handler, or with a full queue. -/
theorem test_witness_WarpResources : Claims.Issues crState (warpOf crState) { reads := [1] } ∧
    Claims.Issues crState (warpOf crState) { reads := [1, 62] } ∧ Claims.Issues crState (warpOf crState) {} ∧
    (warpOf crState).active = false ∧ (warpOf crState).queue = [] ∧ (warpOf (inHandler crState [])).active = true ∧
    (warpOf (inHandler crState [])).hblock = none ∧ (warpOf crState).held = 0 ∧ (warpOf crState).growTick = none ∧
    crState.eng.grow = [] ∧ crState.ctxSys (groupOf crState).ctx = true ∧
    (warpOf { crState with warps := crState.warps.map fun w => { w with queue := List.replicate 16 block0 } }).queue.length = 16 := by
  unfold Claims.Issues; decide +kernel

theorem test_lane_run : (nextOf (exec (.laneRun 1 0xFFFFF) crState)).map (fun t => (warpOf t).queue.map fun b => (b.lpc, b.mask)) =
    some [(0x3FFFFC, 0xFFFFFFFF)] := by decide +kernel
theorem test_grow_then_grant : ((nextOf (exec (.regGrow 3) crState)).bind fun t => (nextOf (exec (.regGrowGrant 0) t)).map fun u =>
    ((warpOf t).park == .grow, (warpOf u).held, (warpOf u).pc, u.eng.grow.length)) = some (true, 3, 0x10004, 0) := by decide +kernel
theorem test_stk_chk : (nextOf (exec (.stkChk 1) (handled crState))).map (fun t => field (warpOf t).trapCause 7 0) = some 0x04 ∧
    (nextOf (exec (.stkChk 9) crState)).map (fun t => (warpOf t).pc) = some 0x10004 := by decide +kernel
theorem test_exit : (nextOf (exec .exit crState)).map (fun t => (warpOf t).live) = some false := by decide +kernel

/-! ### Tensors, launches, mailbox, tiles, gangs, drains -/

/-- A context with a tensor table of 256 slots at 0x4_0000: slot 1 an image of 16 rows of 64 bytes of format 6 at 0x2_0000,
slot 2 one of 16 rows of 16 words of format 12, both valid with generation 1; a legal image at scratchpad 0x80; two tile
registers of shape 16 by 64 and 64 by 16, an accumulator with a drain of 16 by 16; s21 names a slot, s22 the image, s23 and
s24 the TIDs. -/
def tensorState : State :=
  let s := reqState [(0, 8, 0x20000), (8, 8, 64), (16, 4, 16), (20, 4, 64), (46, 1, 6)]
  let e (f c p : Nat) := 0x20000 + p * 2 ^ 64 + 16 * 2 ^ 128 + c * 2 ^ 160 + f * 2 ^ 368 + 1 * 2 ^ 384 + 1 * 2 ^ 400
  let s := (s.writePa 0x40040 64 (e 6 64 64)).writePa 0x40080 64 (e 12 16 64)
  { s with
    xlat := { s.xlat with ctxTab := [(0, BitVec.ofNat 512 (2 ^ 63 + 2 ^ 62 + 0x1000 + 0x40 * 2 ^ 64 + 8 * 2 ^ 104))] }
    wgs := s.wgs.map fun g => { g with tiles := 2, accs := 1, tileMap := [0, 1], accMap := [0],
                                       mxcr := [(0x040, 0x0004_0010_0000_0006), (0x041, 0x0001_0040_0000_0006),
                                         (0x064, 0x0000_1010_C000_0000)] }
    warps := s.warps.map fun w => { w with s := w.s ++ [(21, 3), (22, 0x80), (23, 0x10001), (24, 0x10002), (25, 0x200)] } }

theorem test_witness_TensorTable : Claims.Issues tensorState (warpOf tensorState) { reads := [21, 22], writes := [9] } ∧
    tensorState.ttSlots 0 = 256 ∧ okOf (tensorState.spCell (groupOf tensorState) 0x80 64) = some 0xC0 ∧
    (okOf (tensorState.spLoad 0xC0 64)).map (fun x => imageOk (BitVec.ofNat 512 x)) = some true ∧ imageOk 0 = false ∧
    (tensorState.resolve 0 0x10001).isSome = true ∧ tensorState.resolve 0 0x20001 = none ∧
    tensorState.resolve 0 0x200 = none ∧ Claims.Issues tensorState (warpOf tensorState) { reads := [25, 23] } ∧
    (let t := tensorState.writePa (tensorState.ttSlot 0 255) 64 0
     t.cur = 0 ∧ t.warp? 0 = some (warpOf tensorState)) := by
  unfold Claims.Issues; decide +kernel

theorem test_tt_set : ((nextOf (exec (.ttSet 9 21 22) tensorState)).map fun t => ((warpOf t).sget 9, (t.resolve 0 0x10003).isSome)) =
    some (0x10003, true) := by decide +kernel
theorem test_tt_clr : ((nextOf (exec (.ttClr 23) tensorState)).map fun t => t.resolve 0 0x10001) = some none := by decide +kernel
theorem test_tt_read : ((nextOf (exec (.ttRead 23 25) tensorState)).map fun t => readN t.mem.sp (64 + 0x200) 4) = some 0x20000 := by
  decide +kernel

/-- A queue block at 0x3_0800 with sixteen slots at 0x5_0000, its producer and head as given. -/
def launchState (producer head tail : Nat) : State :=
  let s := reqState []
  let w := fun (s : State) (x : Nat × Nat × Nat) => s.writePa (0x30800 + x.1) x.2.1 x.2.2
  let s := [(0, 8, tail), (136, 8, head), (144, 8, 0x50000), (152, 1, 4), (154, 1, producer), (160, 8, 0x52000), (168, 1, 8)].foldl w s
  { s with warps := s.warps.map fun w => { w with s := w.s ++ [(26, 0x20800), (27, 0x20080)] } }

theorem test_witness_Launch : Claims.Issues (launchState 0 0 15) (warpOf (launchState 0 0 15)) { reads := [26, 27] } ∧
    (launchState 0 0 15).queueBlock 0x30800 =
      some { tail := 15, head := 0, ring := 0x50000, size := 4, level := 0, producer := 0, work := 0x52000, workLog := 8, rejected := 0 } ∧
    ((launchState 1 0 0).queueBlock 0x30800).map QBlock.producer = some 1 ∧
    ((launchState 0 0 16).queueBlock 0x30800).map QBlock.tail = some 16 ∧
    ((launchState 2 0 0).queueBlock 0x30800) = none ∧ (warpOf (launchState 0 0 15)).record = none := by
  unfold Claims.Issues; decide +kernel

theorem test_launch_pushes : (nextOf (exec (.launch 26 27) (launchState 0 0 15))).map (fun t =>
    (t.mem.readCoh 0x30800 8, (warpOf t).pc)) = some (16, 0x10004) := by
  decide +kernel
theorem test_launch_full_parks : (nextOf (exec (.launch 26 27) (launchState 0 0 16))).map (fun t => (warpOf t).park) = some .ring := by
  decide +kernel
theorem test_launch_rejected : (nextOf (exec (.launch 26 27) (launchState 1 0 0))).map (fun t => t.mem.readCoh (0x30800 + 176) 8) =
    some 1 := by decide +kernel

theorem test_witness_MailboxCommand : Claims.Issues (launchState 0 0 0) (warpOf (launchState 0 0 0)) { reads := [26], writes := [9] } ∧
    (launchState 0 0 0).ctxSys 0 = true ∧ (warpOf (launchState 0 0 0)).limit = 0 ∧
    (okOf ((launchState 0 0 0).translate ((launchState 0 0 0).whoOf (groupOf (launchState 0 0 0))) .write .w false 0x20800)).isSome =
      true := by
  unfold Claims.Issues; decide +kernel

theorem test_sys_mbox : (nextOf (exec (.sysMbox 9 26) (launchState 0 0 0))).map (fun t =>
    (t.host.pending.map Pending.addr, (warpOf t).sget 9)) = some ([0x30800], 0) := by decide +kernel

theorem test_witness_MatrixQueue : Claims.Issues tensorState (warpOf tensorState) {} ∧
    Claims.Issues tensorState (warpOf tensorState) { reads := [23, 9] } ∧ Claims.Issues tensorState (warpOf tensorState) { reads := [25] } ∧
    tensorState.mxLen 0 < 64 ∧ (okOf (tensorState.release 0 0 3)).isSome = true ∧
    (okOf (mmaCheck (groupOf tensorState) 0 0 1)).isSome = true ∧ (okOf (mmaCheck (groupOf tensorState) 0 1 1)).isSome = false ∧
    (okOf (tensorState.needTid64 (groupOf tensorState) 0x10001)).map (fun e => (teFormat e, teSparse e, tileOff e 0)) =
      some (6, false, 0, 0) ∧ shRows 0x0004_0010_0000_0006 = 16 ∧ shFmt 0x0004_0010_0000_0006 = 6 ∧
    (okOf (tensorState.tileRows (groupOf tensorState) .mxFetch false 0x20000
      ((List.range 16).map fun i => 0x20000 + 64 * i) 64)).isSome = true ∧
    (okOf (tensorState.spCell (groupOf tensorState) 0 1024)).isSome = true := by
  unfold Claims.Issues; decide +kernel

theorem test_mx_ldt : (nextOf (exec (.mxLdt 0 23 9) tensorState)).map (fun t => t.eng.mx.map fun o => (o.kind, o.d, o.tid)) =
    some [(.ldt, 0, 0x10001)] := by decide +kernel
theorem test_mx_mma_shapes : (nextOf (exec (.mxMma 0 1 1) (handled tensorState))).map (fun t => field (warpOf t).trapCause 7 0) =
    some 0x10 := by decide +kernel

/-- A warp of gang 0 of two, and another member that has arrived with the same operands. -/
def gangState (arrived : Bool) : State :=
  let s := tensorState
  { s with
    warps := (s.warps.map fun w => { w with gang := some { g := 0, n := 2, m := 0, seq := 0 } }) ++
      s.warps.map fun w => { w with idx := 1, gang := some { g := 0, n := 2, m := 1, seq := 0 }, park := .latch }
    wgs := s.wgs.map fun g => { g with arrivals := if arrived then [(0, { warp := 1, m := 1, seq := 0, ops := (0, 0, 1),
                                                                           shapes := (0x0004_0010_0000_0006, 0x0001_0040_0000_0006, 0),
                                                                           bad := false })] else [] } }

theorem test_witness_Gangs : Claims.Issues (gangState true) (warpOf (gangState true)) {} ∧ (warpOf tensorState).gang = none ∧
    ((groupOf (gangState true)).arrivals.all fun y => y.2.warp != 0) = true ∧
    ((groupOf (gangState false)).latch 0).length + 1 < 2 + 0 + 1 ∧ ((groupOf (gangState true)).latch 0).length + 1 = 2 ∧
    (okOf (mmaCheck (groupOf (gangState true)) 0 0 1)).isSome = true := by
  unfold Claims.Issues; decide +kernel

theorem test_mmag_last : (nextOf (exec (.mxMmag 0 0 1) (gangState true))).map (fun t => (t.eng.mx.map MxOp.kind,
    t.warps.map Warp.pc, t.warps.map Warp.park)) = some ([.mma], [0x10004, 0x10004], [.run, .run]) := by decide +kernel
theorem test_mmag_first : (nextOf (exec (.mxMmag 0 0 1) (gangState false))).map (fun t => (t.eng.mx.length, (warpOf t).park)) =
    some (0, .latch) := by decide +kernel

theorem test_witness_Drains : Claims.Issues tensorState (warpOf tensorState) { reads := [24, 9] } ∧
    (okOf (tensorState.needTid64 (groupOf tensorState) 0x10002)).map (fun e =>
      drainOk (dctlOf 0x0000_1010_C000_0000) 0x0000_1010_C000_0000 false 0 e none) = some true ∧
    (okOf (tensorState.needTid64 (groupOf tensorState) 0x10001)).map (fun e =>
      drainOk (dctlOf 0x0000_1010_C000_0000) 0x0000_1010_C000_0000 false 0 e none) = some false ∧
    (dctlOf 0x0000_1010_C000_0000).resid = false ∧ (dctlOf 0x0000_1010_C000_0000).proj = false ∧
    Claims.Issues tensorState (warpOf tensorState) { reads := [9] } ∧ (groupOf tensorState).accs ≠ 0 ∧
    tensorState.isGemm (groupOf tensorState) = false := by
  unfold Claims.Issues; decide +kernel

theorem test_mx_drain : (nextOf (exec (.mxDrain 0 24 9) tensorState)).map (fun t => t.eng.mx.map fun o => (o.kind, o.tid, o.dctl)) =
    some [(.drain, 0x10002, 0x0000_1010_C000_0000)] := by decide +kernel
theorem test_wit_emit : (nextOf (exec (.witEmit 9) tensorState)).map (fun t => t.eng.mx.map MxOp.kind) = some [.emit] := by
  decide +kernel

/-! ### Events: lanes, translation, homes, grains -/

/-- The lane state before its warp holds a lane. -/
def laneless : State := { laneState with warps := laneState.warps.map fun w => { w with lane := false } }

theorem test_witness_LaneGrant : laneless.warp? 0 = some (warpOf laneless) ∧ (warpOf laneless).live = true ∧
    (groupOf laneless).core = 0 ∧ (groupOf laneless).saved = none ∧ (warpOf laneless).blocks ≠ [] ∧
    (groupOf laneless).stopping = none ∧ laneless.warps.length = 1 ∧
    (nextOf (exec (.laneGrant 0) laneless)).map (fun t => (warpOf t).lane) = some true ∧
    (nextOf (exec (.laneGrant 1) laneless)).map (fun t => (warpOf t).lane) = some false := by decide +kernel

/-- memState parked by QUIESCE.WAIT, with or without a copy in its core's queues. -/
def quiet (busy : Bool) (since : Option Nat := none) : State :=
  { memState with warps := memState.warps.map fun w => { w with park := .quiesce 5 since }
                  eng := { memState.eng with ops := if busy then copyOps else [] } }
where copyOps := ((nextOf (exec (.xferPost 16 3) copyState)).map fun t => t.eng.ops).getD []

theorem test_witness_Quiesce : (warpOf (quiet true)).live = true ∧ (warpOf (quiet true)).park = .quiesce 5 none ∧
    ((quiet false).quiesceCores ((quiet false).wgOf (warpOf (quiet false))) 5).all (quiet false).coreIdle = true ∧
    (quiet true).partOwns 0 0 = false := by decide +kernel

/-- memState with a fault ring of 64 records at 0x7_0000, its block at 0xF000, and a partition that owns cluster 0. -/
def ringState (replay : Nat) : State :=
  let s := ((memState.writePa 0xF018 8 6).writePa 0xF020 8 0x70000).writePa 0xF010 8 replay
  { s with xlat := { s.xlat with partTab := [(0, BitVec.ofNat 256 (2 ^ 192 + 120 * 2 ^ 137 + 1))] } }

/-- The same after a walk that failed. -/
noncomputable def faulted (replay : Nat) : State := (nextOf (exec (.pageWalk 0 7 0 0 1 false 0x40000) (ringState replay))).getD State.reset

theorem test_witness_Translation :
    let s := ringState 0
    let who : Who := { ctx := 0, src := 7, hold := 0 }
    s.ctxValid 0 = true ∧ (s.walk who (kindPerm 1) false 0x20108).toOption.map Trans.pa = some 0x30108 ∧
    s.xlat.heldWrites = [] ∧ (match s.walk who (kindPerm 1) false 0x40000 with | .error f => (f.reason, f.level) | .ok _ => (0, 9)) = (1, 0) ∧
    (s.ringBlock 0).map RingBlock.replay = some 0 ∧ ((ringState 1).ringBlock 0).map RingBlock.replay = some 1 ∧
    (nextOf (exec (.pageWalk 0 7 0 0 1 false 0x20108) s)).map (fun t => (t.xlat.tlb.length, t.mem.readCoh 0x5010 8)) =
      some (1, 0x3006F) := by decide +kernel

/-- R46 and R47: the record's number, reason, KIND, COUNT and CTX, and R48: REPLAY frees what it covers. -/
theorem test_fault_record_and_replay :
    (faulted 0).mem.readCoh 0x70008 16 = 0x1_00000001_07880100 ∧
    (nextOf (exec (.replay 0) (faulted 0))).map (fun u => u.xlat.faults.length) = some 1 ∧
    (nextOf (exec (.replay 0) (faulted 1))).map (fun u => u.xlat.faults.length) = some 0 := by decide +kernel

/-- A write to the leaf's line held until dies 0 and 3 have dropped what they derived from it. -/
noncomputable def heldState (waiting : List Nat) : State :=
  let s := (nextOf (exec (.pageWalk 0 7 0 0 1 false 0x20108) memState)).getD State.reset
  { s with xlat := { s.xlat with heldWrites := [{ line := 0xA0, mask := 0xFF * 2 ^ 16, data := 0, waiting := waiting, slice := none, host := none }] } }

theorem test_witness_HeldWrite :
    ((heldState [0, 3]).xlat.heldWrites.find? fun h => h.line == 0xA0).map HeldWrite.waiting = some [0, 3] ∧
    (nextOf (exec (.translationInvalidation 0 0xA0) (heldState [0, 3]))).map (fun t => (t.xlat.tlb.length, t.xlat.heldWrites.map
      HeldWrite.waiting)) = some (0, [[3]]) ∧
    ((nextOf (exec (.translationInvalidation 0 0xA0) (heldState [0]))).bind fun t => nextOf (exec (.trackedWritePerform 0xA0) t)).map
      (fun t => (t.mem.readCoh 0x5010 8, t.xlat.heldWrites.length)) = some (0, 0) ∧
    (nextOf (exec (.trackedWritePerform 0xA0) (heldState []))).map (fun t => t.xlat.heldWrites.length) = some 1 ∧
    (nextOf (exec (.trackedWritePerform 0xA0) (heldState [3]))).map (fun t => t.xlat.heldWrites.length) = some 1 := by
  decide +kernel

/-- memState with a directory entry for line 0x602, whose owner's slice holds byte 8 dirty, and a line the host holds. -/
def dirState (e : DirEntry) (snoop : Bool) : State :=
  { memState with mem := { memState.mem with
      dir := Tab.set .uncached memState.mem.dir 0x602 e
      slice := match e with
        | .owned _ => [(0x602, { mask := 0x100, data := 0xAB0000000000000000 })]
        | _ => []
      snoop := if snoop then [0x602] else []
      snoopWait := if snoop then [(0x602, 5)] else [] } }

/-- The entry of line 0x602 and the byte at its offset 8 after an event. -/
def dirAfter (i : Instr) (s : State) : Option (DirEntry × Byte) := (nextOf (exec i s)).map fun t => (t.mem.dirOf 0x602, t.mem.byteAt 0x30108)

/-- Far lines of one home course and one set of the slices: there are more lines than both (R49). -/
theorem lines_of_one_set (n : Nat) : ∃ (h : Nat) (l : List Nat), l.Nodup ∧ l.length = n ∧
    (∀ (s : State), ∀ a ∈ l, s.homeCourse a = h) ∧ ∀ a ∈ l, ∀ b ∈ l, Config.sliceSet a = Config.sliceSet b := by
  obtain ⟨y, hy⟩ := Finite.exists_infinite_fiber fun k : Nat => (Config.farHome (0x2000000000 + k), Config.sliceSet (0x2000000000 + k))
  rw [Set.infinite_coe_iff] at hy
  obtain ⟨t, ht, hc⟩ := hy.exists_subset_card_eq n
  have key : ∀ a ∈ t.toList.map (0x2000000000 + ·), 0x2000000000 ≤ a ∧ Config.farHome a = y.1 ∧ Config.sliceSet a = y.2 := by
    intro a ha
    obtain ⟨k, hk, rfl⟩ := List.mem_map.mp ha
    have h := ht (Finset.mem_toList.mp hk)
    simp only [Set.mem_preimage, Set.mem_singleton_iff] at h
    exact ⟨Nat.le_add_right _ _, by rw [← h], by rw [← h]⟩
  refine ⟨y.1.val, t.toList.map (0x2000000000 + ·), t.nodup_toList.map (fun a b h => by simpa using h), by simpa using hc, ?_, ?_⟩
  · intro s a ha
    obtain ⟨k1, k2, -⟩ := key a ha
    rw [State.homeCourse, if_neg (by omega), k2]
  · intro a ha b hb
    rw [(key a ha).2.2, (key b hb).2.2]

/-- The package with lines that cluster 3 shares, and a course fenced. -/
def sliceState (l : List Nat) (h : Nat) : State :=
  { State.reset with mem := { State.reset.mem with dir := l.map fun a => (a, .shared false [3]) }
                     rel := { State.reset.rel with courseReg := [(h, 2)] } }

/-- R49 and R467: a set of a slice is full of lines whose home is fenced, so that a request for one more waits. -/
theorem test_witness_SliceFull : ∃ l h line, let s := sliceState l h
    s.roomAwaited 3 line = true ∧ line ∉ s.mem.snoop ∧ s.homeAway (some (clusterDie 3)) line = true := by
  obtain ⟨h, l, hn, hl, hh, hs⟩ := lines_of_one_set 17
  match l, hn, hl, hh, hs with
  | g :: l, hn, hl, hh, hs =>
    obtain ⟨h0, -⟩ := List.nodup_cons.mp hn
    have hl : l.length = 16 := by simpa using hl
    have away : ∀ a ∈ g :: l, ∀ d, (sliceState l h).homeAway d a = true := fun a ha d => by
      simp [State.homeAway, State.homeIn, sliceState, hh _ a ha, field]
    have miss : ∀ m : List Nat, g ∉ m → Tab.get DirEntry.uncached (m.map fun a => (a, DirEntry.shared false [3])) g = .uncached := by
      intro m hm
      induction m with
      | nil => rfl
      | cons a m ih =>
        simp only [List.mem_cons, not_or] at hm
        rw [List.map_cons, Tab.get, if_neg (Ne.symm hm.1), ih hm.2]
    have full : (sliceState l h).sliceFull 3 g = l := by
      have hd : (sliceState l h).mem.dirOf g = .uncached := miss l h0
      have hm : (sliceState l h).mem.dir.filter (fun e => e.2.holders.contains 3 && Config.sliceSet e.1 == Config.sliceSet g) =
          l.map fun a => (a, DirEntry.shared false [3]) := by
        refine List.filter_eq_self.mpr fun e he => ?_
        obtain ⟨x, hx, rfl⟩ := List.mem_map.mp he
        simp [DirEntry.holders, hs x (List.mem_cons_of_mem _ hx) g (List.mem_cons_self ..)]
      simp only [State.sliceFull, hd, hm, List.length_map, hl]
      simp [sliceState, hl, DirEntry.holders, Function.comp_def]
    have victims : (sliceState l h).sliceVictims 3 g = [] := by
      rw [State.sliceVictims, full]
      refine List.filter_eq_nil_iff.mpr fun a ha => ?_
      simp [away a (List.mem_cons_of_mem _ ha)]
    refine ⟨l, h, g, ?_, by simp [sliceState, State.reset], away g (List.mem_cons_self ..) _⟩
    rw [State.roomAwaited, full, victims]
    match l, hl with | x :: l, _ => simp
theorem test_witness_HomeRequests : memState.hasHome 0x602 = true ∧ (dirState (.owned 9) false).lineBusy 0x602 = false ∧
    (dirState .uncached false).homeAway (some (clusterDie 3)) 0x602 = false ∧ (dirState .uncached false).roomAwaited 3 0x602 = false ∧
    (dirState .uncached false).snoopsReach 0x602 3 true = true ∧
    (dirState .uncached false).mem.dirOf 0x602 = .uncached ∧ (dirState (.owned 9) false).mem.dirOf 0x602 = .owned 9 ∧
    (dirState (.shared false [1, 2]) false).mem.dirOf 0x602 = .shared false [1, 2] ∧
    0x602 ∈ (dirState .uncached true).mem.snoop ∧
    ((dirState .uncached true).mem.snoopWait.find? fun e => e.1 == 0x602) = some (0x602, 5) := by decide +kernel

/-- R58 and R59. -/
theorem test_home_requests :
    dirAfter (.homeRead 3 0x602 0) (dirState (.shared false [1, 2, 4, 5]) false) = some (.shared true [1, 2, 4, 5, 3], 0xF1) ∧
    dirAfter (.homeRead 3 0x602 0) (dirState (.owned 9) false) = some (.shared false [9, 3], 0xAB) ∧
    dirAfter (.homeOwnership 3 0x602 0) (dirState (.owned 9) false) = some (.owned 3, 0xAB) ∧
    dirAfter (.ownerWriteback 9 0x602) (dirState (.owned 9) false) = some (.uncached, 0xAB) ∧
    dirAfter (.cleanEvictionNotice 1 0x602) (dirState (.shared true [1, 2]) false) = some (.shared true [2], 0xF1) ∧
    dirAfter (.invalidation 2 0x602) (dirState (.shared false [2]) false) = some (.uncached, 0xF1) ∧
    dirAfter (.bisnpResponse 0x602) (dirState .uncached true) = some (.owned 5, 0xF1) := by decide +kernel

/-- memState with warp 0's store waiting at a home. -/
def parkedState : State := memState.modWarp 0 fun w => { w with park := .response }

/-- memState with three grains of core 4 and one of core 5 open at their homes, those of core 4 closing or not, and core 5's
registration of one more waiting. -/
def grainState (closing : Bool) : State :=
  { parkedState with mem := { parkedState.mem with
      grains := ([0x200, 0x201, 0x202].map fun g => { grain := g, core := 4, closing := closing }) ++ [{ grain := 0x203, core := 5 }]
      grainWait := [(5, 0x180, 0)] } }

theorem test_witness_Grains : (grainState false).grainOwner 0x201 = some 4 ∧ (grainState false).grainOwner 0x180 = none ∧
    (((grainState false).mem.grains.filter fun e => e.core == 4).all fun e => !e.closing) = true ∧
    ((grainState false).grainSetMates 0x180).length < 8 ∧ (5, 0x180, 0) ∈ (grainState false).mem.grainWait ∧
    ((grainState false).warp? 0).map (fun w => (w.live, w.park)) = some (true, .response) ∧
    ((grainState false).mem.grainWait.find? fun e => e.1 == 7 && e.2.1 == 0x180) = none := by decide +kernel

/-- R71: an open grain is its core's alone. -/
theorem test_grains : ((grainState false).registerGrain 4 0x40200 0).toOption.isSome = true ∧
    ((grainState false).registerGrain 5 0x40200 0).toOption.isSome = false ∧
    ((grainState false).registerGrain 5 0x40600 0).toOption.isSome = true ∧
    (nextOf (exec (.grainRegister 5 0x30108) (grainState false))).map (fun t => t.mem.grains.map OpenGrain.grain) =
      some [0x200, 0x201, 0x202, 0x203, 0x180] ∧
    (nextOf (exec (.grainClear 4 0x202) (grainState true))).map (fun t => t.mem.grains.map OpenGrain.grain) =
      some [0x200, 0x201, 0x203] := by decide +kernel

/-- Nine grains of one set of the far tier's homes: there are more grains than sets (R70). -/
theorem grains_of_one_set : ∃ l : List Nat, l.Nodup ∧ l.length = 9 ∧
    ∀ (s : State), ∀ a ∈ l, ∀ b ∈ l, s.grainSetOf a = s.grainSetOf b := by
  obtain ⟨y, hy⟩ := Finite.exists_infinite_fiber fun k : Nat =>
    (Config.farHome (4 * (0x800000000 + k)), Config.homeSlice 0 (0x800000000 + k), Config.grainSet (0x800000000 + k))
  rw [Set.infinite_coe_iff] at hy
  obtain ⟨t, ht, hc⟩ := hy.exists_subset_card_eq 9
  refine ⟨t.toList.map (0x800000000 + ·), t.nodup_toList.map (fun a b h => by simpa using h), by simpa using hc, ?_⟩
  have key : ∀ (s : State) k, k ∈ t → s.grainSetOf (0x800000000 + k) = 2048 * (16 * y.1.val + y.2.1.val) + y.2.2.val := by
    intro s k hk
    have h := ht hk
    simp only [Set.mem_preimage, Set.mem_singleton_iff] at h
    have e1 : ¬ 4 * (0x800000000 + k) * 128 < 0xC000000000 := by omega
    have e2 : 768 ≤ 4 * (0x800000000 + k) / 2 ^ 23 := by omega
    have e3 : 4 * (0x800000000 + k) / 4 = 0x800000000 + k := by omega
    rw [← h]
    simp only [State.grainSetOf, State.homeSlice, State.homeCourse, State.hashVersionOf, e1, e2, e3, if_true, if_false]
  intro s a ha b hb
  simp only [List.mem_map, Finset.mem_toList] at ha hb
  obtain ⟨a, ha, rfl⟩ := ha
  obtain ⟨b, hb, rfl⟩ := hb
  rw [key s a ha, key s b hb]

/-- memState with core 4's entries of some grains open at their homes, and core 5's registration of one more waiting. -/
def grainFull (l : List Nat) (g : Nat) : State :=
  { parkedState with mem := { parkedState.mem with
      grains := l.map fun x => { grain := x, core := 4, closing := false }, grainWait := [(5, g, 0)] } }

/-- R72: a full set at a grain's home, with a registration that waits. -/
theorem test_witness_GrainFull : ∃ l g, let s := grainFull l g
    g * 512 / 512 = g ∧ s.grainOwner g = none ∧ 8 ≤ (s.grainSetMates g).length ∧ (5, g, 0) ∈ s.mem.grainWait ∧ s.closeDue 4 = true ∧
    (∀ e ∈ s.mem.grains.filter fun e => e.core == 5, e.closing = false) ∧ (s.mem.grains.filter fun e => e.core == 5).length < 256 := by
  obtain ⟨l, hn, hl, hs⟩ := grains_of_one_set
  match l, hn, hl, hs with
  | g :: l, hn, hl, hs =>
    obtain ⟨h0, hn⟩ := List.nodup_cons.mp hn
    have hl : l.length = 8 := by simpa using hl
    have mates : (grainFull l g).grainSetMates g = l.map fun x => { grain := x, core := 4, closing := false } := by
      simp only [State.grainSetMates, grainFull, List.length_map, hl, Nat.lt_irrefl, if_false]
      refine List.filter_eq_self.mpr fun e he => ?_
      obtain ⟨x, hx, rfl⟩ := List.mem_map.mp he
      simpa using ⟨by rintro rfl; exact h0 hx, hs _ x (List.mem_cons_of_mem _ hx) g (List.mem_cons_self ..)⟩
    have owner : (grainFull l g).grainOwner g = none := by
      simp [State.grainOwner, grainFull]
      rintro x hx rfl; exact h0 hx
    have due : (grainFull l g).closeDue 4 = true := by
      have hw : (grainFull l g).mem.grainWait = [(5, g, 0)] := rfl
      simp only [State.closeDue, hw, List.any_cons, List.any_nil, mates, Bool.or_eq_true]
      match l, hl with | x :: l, hl => simp at hl; simp [hl]
    refine ⟨l, g, Nat.mul_div_cancel _ (by decide), owner, by simp [mates, hl], by simp [grainFull], due, ?_, ?_⟩
    · simp [grainFull]
    · have hc : ((grainFull l g).mem.grains.filter fun e => e.core == 5) = [] := by simp [grainFull]
      rw [hc]
      decide
/-! ### Events: engines and MX cores -/

/-- A state whose core 0 has one operation at the head of a copy or gather queue: rows of 40 bytes from scratchpad 0x20 to
0x300 for a copy; scratchpad 0x20 holds 0x11 and 0x28 holds 2, the indices of a gather of 16-byte rows from 0x2_0100 into
0x300. -/
def engState (kind : EngKind) (r : BitVec 1024) (done : Nat) (land : Word) : State :=
  let s := (memState.spStore (64 + 0x20) 8 0x11).spStore (64 + 0x28) 8 0xFFFFFFFF_00000002
  { s with eng := { s.eng with ops := [{ EngOp.blank with q := if kind = .gather then 4 else 0, kind := kind, req := r, done := done,
                                                          land := land }], nextId := 1 } }

def rows40 : BitVec 1024 := BitVec.ofNat 1024 (0x20 + 0x300 * 2 ^ 128 + 40 * 2 ^ 256 + 2 ^ 288 + 5 * 2 ^ 512)
def rows16 : BitVec 1024 := BitVec.ofNat 1024 (0x20100 + 0x28 * 2 ^ 128 + 0x300 * 2 ^ 160 + 2 * 2 ^ 192 + 16 * 2 ^ 224 + 8 * 2 ^ 256 +
  16 * 2 ^ 320)
def cond16 : BitVec 1024 := BitVec.ofNat 1024 (0x20 + 0x20110 * 2 ^ 128 + 16 * 2 ^ 256 + 2 ^ 288 + 2 ^ 512 + 0x20108 * 2 ^ 576 +
  0x8877665544332200 * 2 ^ 640 + 7 * 2 ^ 704)
/-- A landing word in scratchpad. -/
def landHere : Word := 0x8000_0000_0000_0040
def headOf (s : State) (q : Nat) : EngOp := (s.headOp 0 q).getD EngOp.blank

theorem test_witness_CopyQueue :
    let s := engState .post rows40 0 0
    let o := headOf s 0
    s.headOp 0 0 = some o ∧ o.park = none ∧ s.fab.sends = [] ∧ o.done < rowCount o.req * rowBytes o.req ∧ srcKind o.req = 1 ∧
    dstKind o.req = 1 ∧ o.ahead = {} ∧ readAhead o.req (0x20 : Int) (srcRow o.req o.src 0) (dstRow o.req o.dst 0) 40 0 = 0 ∧ okOf (s.spRow (s.wg o.wg) (srcRow o.req o.src 0) 40) = some (64 + 0x20) ∧
    okOf (s.spRow (s.wg o.wg) (dstRow o.req o.dst 0) 40) = some (64 + 0x300) ∧ s.spPoisonRuns (64 + 0x20) 40 = [] ∧
    (okOf ((engState .post rows40 40 landHere).landAt 0 0 0 landHere o.who .copyWrite)).isSome = true ∧
    (okOf ((engState .cond cond16 0 0).condCopy (headOf (engState .cond cond16 0 0) 0))).isSome = true ∧
    (engState .bulk rows40 0 landHere).landWaits 0 0 0 landHere o.who = false := by decide +kernel

/-- A conditional copy that can reach its source, its version word, its destination and its landing word; the version word's
value is another than the one named. -/
theorem test_witness_CondFail :
    let s := engState .cond cond16 0 landHere
    let o := headOf s 0
    let p := condPieces o.req o.src o.dst 4096 0
    (do let (_, t) ← okOf (s.landAt 0 0 0 landHere o.who .copyWrite)
        let (d, u) ← okOf (t.condRead o p)
        let (ver, v) ← okOf (u.versionAt o)
        let (_, x) ← okOf (v.condPlaces o p)
        let y ← okOf (x.engReady o.id 8 ver)
        pure (d.map EngData.wait, ((y.engHostDone o.id).landRead 0 ver 8).1 == reqGet o.req 80 8)) = some ([false], false) := by
  decide +kernel

/-- R366, R362, R367: a piece moves, the end arrives, and a version word that differs sets COND_FAIL. -/
theorem test_copy_queue :
    (nextOf (exec (.copyQueueOperation 0 0) (engState .post rows40 0 0))).map (fun t => (readN t.mem.sp (64 + 0x300) 8,
      (headOf t 0).done)) = some (0x11, 40) ∧
    (nextOf (exec (.copyQueueOperation 0 0) (engState .post rows40 40 landHere))).map (fun t => (t.eng.ops.length,
      (LandWord.ofNat (readN t.mem.sp (64 + 0x40) 16)).phase)) = some (0, 0) ∧
    (nextOf (exec (.copyQueueOperation 0 0) (engState .malformed 0 0 landHere))).map (fun t =>
      (LandWord.ofNat (readN t.mem.sp (64 + 0x40) 16)).status) = some 0x100 ∧
    (nextOf (exec (.copyQueueOperation 0 0) (engState .cond cond16 0 0))).map (fun t => ((headOf t 0).status, (headOf t 0).done)) =
      some (0x20, 1) ∧
    (nextOf (exec (.copyQueueOperation 0 0) (engState (.fence 1) 0 0 0))).map (fun t => t.eng.ops.length) = some 0 := by decide +kernel

theorem test_witness_Gather :
    let s := engState .gather rows16 0 0
    s.headOp 0 4 = some (headOf s 4) ∧ (headOf s 4).poisoned = false ∧ okOf (s.spCell (s.wg 0) 0x28 4) = some (64 + 0x28) ∧
    okOf (s.spCell (s.wg 0) 0x300 16) = some (64 + 0x300) ∧ readN s.mem.sp (64 + 0x28) 4 = 2 ∧ readN s.mem.sp (64 + 0x2C) 4 = 2 ^ 32 - 1 ∧
    rowAddr 0 0x20100 (reqInt rows16 40) 2 = 0x20120 ∧
    (okOf (s.engRead (headOf s 4).who 0 0 .gather false none false [(0x20120, 16)] {})).map (fun x => (x.1.len, x.1.poison)) = some (16, []) := by
  decide +kernel

/-- R370: index 2 copies its row, an all-ones index writes zeros. -/
theorem test_gather :
    (nextOf (exec (.gatherOperation 0) { engState .gather (rows16 - BitVec.ofNat 1024 0x20) 0 0 with
      mem := { (engState .gather rows16 0 0).mem with bytes := Tab.set 0 memState.mem.bytes 0x30100 0x5A } })).map (fun t =>
        (readN t.mem.sp (64 + 0x300) 16, (headOf t 4).done)) = some (0x5A + 0x8877_6655_4433_22F1 * 2 ^ 64, 1) ∧
    (nextOf (exec (.gatherOperation 0) (engState .gather rows16 1 0))).map (fun t => ((headOf t 4).done, (headOf t 4).status)) =
      some (2, 0) := by decide +kernel

/-- An MX core with one entry at its head: tile 0 holds 3 and -2, tile 1 holds 5 and 7, the accumulator's cells 0 and 1 hold 10
and 4. -/
def mxState (o : MxOp) : State :=
  { tensorState with eng := { tensorState.eng with mx := [o], nextId := 1 }
                     mx := { tensorState.mx with tile := [(0, 3), (1, 0xFE), (32768, 5), (32769, 7)], acc := [(0, 10), (1, 4)] } }

/-- A multiply of one row of two by two rows of one, in INT8. -/
def mul12 : MxOp := { MxOp.blank with kind := .mma, d := 0, a := 0, b := 1, shA := 0x0000_2001_0000_0006, shB := 0x0000_1002_0000_0006 }
/-- The entry that an instruction posts. -/
def posted (i : Instr) : MxOp := ((nextOf (exec i tensorState)).bind fun t => t.headMx 0).getD MxOp.blank

theorem test_witness_MatrixEvents : (mxState mul12).headMx 0 = some mul12 ∧ mul12.park = none ∧ fmtFloat (shFmt mul12.shA) = false ∧
    (shRows mul12.shA, shCols mul12.shA, shRows mul12.shB, shCols mul12.shB) = (1, 2, 2, 1) ∧
    (okOf ((mxState (posted (.mxLdt 0 23 9))).ldtRow (posted (.mxLdt 0 23 9)))).isSome = true ∧
    (okOf ((mxState (posted (.mxLds 0 25))).ldsRowLoad (posted (.mxLds 0 25)))).isSome = true ∧
    (okOf ((mxState (posted (.mxDrain 0 24 9))).drainSegment (posted (.mxDrain 0 24 9)))).isSome = true ∧
    (posted (.mxDrain 0 24 9)).abort = 0 := by decide +kernel

/-- R207: 10 + 3 × 5 − 2 × 7 = 11. -/
theorem test_multiply : (nextOf (exec (.mxQueueEntry 0) (mxState mul12))).map (fun t => (Tab.get 0 t.mx.acc 0, t.eng.mx.length)) =
    some (11, 0) := by decide +kernel
/-- R391: row 4 of the image is at 0x2_0100. -/
theorem test_ldt_row : (nextOf (exec (.mxQueueEntry 0) (mxState { posted (.mxLdt 0 23 9) with done := 4 }))).map (fun t =>
    readN t.mx.tile (4 * 64 + 8) 8) = some 0x8877_6655_4433_22F1 := by decide +kernel
/-- R399: the first row's 16 words go to 0x2_0000. -/
theorem test_drain_segment : (nextOf (exec (.mxQueueEntry 0) (mxState (posted (.mxDrain 0 24 9))))).map (fun t =>
    (t.mem.readCoh 0x30000 12, (t.headMx 0).map MxOp.done)) = some (10 + 4 * 2 ^ 32, some 1) := by decide +kernel
theorem test_zeroes : (nextOf (exec (.mxQueueEntry 0) (mxState { MxOp.blank with kind := .zeroT, d := 1 }))).map (fun t => t.mx.tile) =
      some [(0, 3), (1, 0xFE)] ∧
    (nextOf (exec (.mxQueueEntry 0) (mxState { MxOp.blank with kind := .zeroC }))).map (fun t => t.mx.acc) = some [] := by decide +kernel

/-! ### Events: the fabric -/

/-- capState with a write-combining entry of 4 bytes for peer 3, 2 µs old, a line write in flight and a remote load out. -/
def wcEntry : WcEntry := { core := 0, peer := 3, target := 4, lease := 9, line := 7, data := 0xAABBCCDD, mask := 0xF, tick := 0, part := 0, ctx := 0 }
def issueState (tick lease : Nat) : State :=
  { capState with
    tick := tick
    fab := { capState.fab with
      peers := [(3, BitVec.ofNat 64 (2 * 2 ^ 62 + lease * 2 ^ 48))], wcb := [wcEntry], nextId := 40
      flights := [{ id := 20, core := 0, peer := 3, target := 4, lease := 9, line := 8, bytes := 4, ctx := 0 }]
      remotes := [{ id := 21, warp := 0, thread := none, peer := 3, part := 0, sent := 5, answer := none },
                  { id := 20, warp := 0, thread := none, peer := 3, part := 0, sent := 5, answer := none }] } }

theorem test_witness_FabricIssuer :
    let s := issueState 15005 9
    s.awaitsAck 21 = false ∧ (s.fab.flights.find? fun f => f.id == 20).isSome = true ∧ s.keyInFlight wcEntry = false ∧
    (s.fab.wcb.filter fun e => e.core == 0 && (decide (e.tick + 2 ≤ s.tick) || e.mask == BitVec.allOnes 128)) = [wcEntry] ∧
    field (s.peer 0 3) 63 62 = 2 ∧ field (s.peer 0 3) 57 48 = 9 ∧
    field ((issueState 2 8).peer 0 3) 57 48 ≠ 9 ∧ ((issueState 0 9).tick < 5 + 15000) ∧
    (s.fab.remotes.any fun r => r.id == 21 && decide (r.sent + 15000 ≤ s.tick)) = true := by decide +kernel

/-- A line write without its plane, which is the device's choice (R178). -/
def planeless : Msg → Msg
  | .lineWrite id peer target lease va data mask kind _ => .lineWrite id peer target lease va data mask kind 0
  | m => m

/-- R164, R166, R169. -/
theorem test_fabric_issuer :
    (nextOf (exec (.remoteTimeout 21) (issueState 15004 9))).map (fun t => t.fab.remotes.map RemReq.answer) = some [none, none] ∧
    (nextOf (exec (.remoteTimeout 21) (issueState 15005 9))).map (fun t => t.fab.remotes.map RemReq.answer) =
      some [some (.fault 4 0), none] ∧
    (nextOf (exec (.remoteResponse 20 0 0 7) (issueState 6 9))).map (fun t => t.fab.remotes.map RemReq.answer) = some [none, none] ∧
    (nextOf (exec (.lineWriteAck 20 0) (issueState 6 9))).map (fun t => (t.fab.flights.length, t.fab.remotes.map RemReq.answer)) =
      some (0, [none, some (.data 0)]) ∧
    (nextOf (exec (.writeCombiningDrain 0) (issueState 1 9))).map (fun t => t.fab.wcb.length) = some 1 ∧
    (nextOf (exec (.writeCombiningDrain 0) (issueState 2 9))).map (fun t => (t.fab.wcb.length, t.outbox.map planeless)) =
      some (0, [.lineWrite 40 3 4 9 (7 * 128) 0xAABBCCDD 0xF 0 0]) ∧
    (nextOf (exec (.writeCombiningDrain 0) (issueState 2 8))).map (fun t => (t.fab.wcb.length, t.outbox.length, t.fab.dropped)) =
      some (0, 0, 1) := by decide +kernel

/-- capState whose partition has a store-fault log of 16 records at 0x7_2000, its block at 0xF200. -/
def logState (tick done : Nat) : State :=
  let s := ((capState.writePa 0xF218 8 4).writePa 0xF220 8 0x72000).writePa 0xF210 8 done
  { s with tick := tick, xlat := { s.xlat with partTab := [(0, BitVec.ofNat 256 (2 ^ 192 + 120 * 2 ^ 137))] } }

/-- A message goes through one of the two IO dies (R3). -/
theorem ioDie_cases (id peer : Nat) : ioDie id peer = 0 ∨ ioDie id peer = 1 := by
  have h := (Config.plane (512 * id + peer)).isLt
  simp only [ioDie]
  omega

theorem test_witness_FabricTarget : (logState 0 0).accepts 0 3 0 9 = true ∧ (logState 0 0).accepts 0 3 0 8 = false ∧
    (logState 0 0).checkpointing = false ∧ ((logState 0 0).logBlock 0).map LogBlock.log2 = some 4 ∧
    (∀ d, d = 0 ∨ d = 1 → (logState 0 0).ioHeld 0 d .atomic .rw 0x20108 8 = none ∧ (logState 0 0).ioHeld 0 d .write .w 0x20100 128 = none ∧
      (okOf ((logState 0 0).ioTranslate 0 d .atomic .rw 0x20108)).map (fun x => (x.1.pa, x.2.mem.poisoned x.1.pa 8)) =
        some (0x30108, false) ∧
      (match (logState 0 0).ioTranslate 0 d .write .w (2 ^ 60) with | .error (.fault _ r _ _) => r | _ => 0) = 3) := by
  refine ⟨?_, ?_, ?_, ?_, ?_⟩
  · decide +kernel
  · decide +kernel
  · decide +kernel
  · decide +kernel
  · rintro d (rfl | rfl) <;> decide +kernel

/-- R164: an add answers what it found; R168: a masked line write changes its bytes. -/
theorem test_inbound : (nextOf (exec (.inboundRemoteAccess 5 3 0 0 9 0x20108 .add 8 1 0) (logState 0 0))).map (fun t =>
      (t.outbox, t.mem.readCoh 0x30108 8)) = some ([.remoteAnswer 5 3 (.data 0x8877_6655_4433_22F1)], 0x8877_6655_4433_22F2) ∧
    (nextOf (exec (.inboundLineWrite 6 3 0 0 9 0x20100 0xBB000000000000000000 0x200 false) (logState 0 0))).map (fun t =>
      (t.outbox, t.mem.readCoh 0x30108 8)) = some ([.writeAck 6 3 0], 0x8877_6655_4433_BBF1) := by
  simp only [exec, execInboundRemoteAccess, execInboundLineWrite, State.remHeld, State.inRemote]
  constructor
  · rcases ioDie_cases 5 3 with h | h <;> rw [h] <;> decide +kernel
  · rcases ioDie_cases 6 3 with h | h <;> rw [h] <;> decide +kernel

/-- R168, R171 and R172: a write to an unmapped page is logged, and answered when DONE covers it or after 10 ms. -/
theorem test_store_fault_log : (nextOf (exec (.inboundLineWrite 6 3 0 0 9 0x40000 0xBB 1 true) (logState 0 1))).map (fun t =>
      (t.mem.readCoh 0x72000 1, t.mem.readCoh 0x720A0 5, t.fab.logs.length)) = some (0xBB, 0x0101000003, 1) := by decide +kernel
/-- A record whose answer is withheld, a load whose fault stands in the ring since tick 0, and a write that waits on a full
log. -/
def loggedState (tick done : Nat) (full : Bool) : State :=
  let s := logState tick done
  let k : FaultKey := { source := 129, ctx := 0, page := 4, kind := .read }
  { s with
    xlat := { s.xlat with logHead := if full then [(0, 16)] else [(0, 1)]
                          faults := [{ key := k, reason := 1, level := 0, va := 0x40000, seq := some 1, count := 1, tick := 0 }] }
    fab := { s.fab with
      logs := [{ part := 0, seq := 1, id := 6, peer := 3, tick := 0, bulk := none }]
      inRemote := [{ id := 7, peer := 3, ctx := 0, va := 0x40000, op := .load, size := 8, x := 0, y := 0, key := k, tick := 0 }]
      logWait := if full then [{ id := 8, peer := 3, ctx := 0, va := 0x40000, data := 0, mask := 1, kind := 0, reason := 1, tick := 0
                                 bulk := some (1, 0, 32) }] else [] } }
theorem test_witness_StoreFault :
    ((loggedState 5 0 false).readDone 0).fab.logs.find? (fun r => r.part == 0 && r.seq == 1) =
      some { part := 0, seq := 1, id := 6, peer := 3, tick := 0, bulk := none } ∧
    ((loggedState 5 1 false).readDone 0).fab.logs.find? (fun r => r.part == 0 && r.seq == 1) = none := by decide +kernel

theorem test_log_answers : (nextOf (exec (.done 0) (loggedState 5 0 false))).map (fun t => (t.fab.logs.length, t.outbox)) = some (1, []) ∧
    (nextOf (exec (.done 0) (loggedState 5 1 false))).map (fun t => (t.fab.logs.length, t.outbox)) = some (0, [.writeAck 6 3 0]) ∧
    (nextOf (exec (.storeFaultTimeout 0 1) (loggedState 10000 0 false))).map (fun t => t.outbox) = some [.writeAck 6 3 2] ∧
    (nextOf (exec (.storeFaultTimeout 0 1) (loggedState 9999 0 false))).map (fun t => t.outbox) = some [] ∧
    (nextOf (exec (.storeFaultTimeout 0 1) (loggedState 10000 1 false))).map (fun t => t.outbox) = some [.writeAck 6 3 0] ∧
    (nextOf (exec (.remoteFaultTimeout 7 3) (loggedState 10000 0 false))).map (fun t => t.outbox) = some [.remoteAnswer 7 3 (.fault 3 0)] ∧
    (nextOf (exec (.remoteFaultTimeout 7 3) (loggedState 9999 0 false))).map (fun t => t.outbox) = some [] ∧
    (nextOf (exec (.storeFaultLogFullTimeout 8 3) (loggedState 10000 0 true))).map (fun t => t.outbox) = some [.tokenAck 8 3 1 0 32 2] ∧
    (nextOf (exec (.storeFaultLogFullTimeout 8 3) (loggedState 9999 0 true))).map (fun t => t.outbox) = some [] := by
  decide +kernel

/-- A bulk send of 64 bytes from 0x2_0100, its landing word in scratchpad. -/
def sendOf (busy : Option Nat) (egress parked : Bool) : BulkSend :=
  { id := 9, op := 3, core := 0, q := 0, wg := 0, ctx := 0, part := 0, launch := 0, cert := false, cap := cap0, src := 0x20100
    dest := 0x40, total := 64, got := [], land := landHere, flag := none, rxLand := none, prio := 0, request := none, busy := busy
    parked := parked, fault := none, egress := egress, poisoned := false, status := 0, held := [] }
def sendState (tick : Nat) (busy : Option Nat) (egress parked : Bool) : State :=
  let s := capState.spStore (64 + 0x40) 8 0x20_0010_0002
  { s with tick := tick, fab := { s.fab with sends := [sendOf busy egress parked] } }

theorem test_witness_BulkSender : (sendState 0 none false false).bulkSend? 9 = some (sendOf none false false) ∧
    (okOf ((sendState 0 none false false).sendReach (sendOf none false false))).isSome = true ∧
    (okOf ((sendState 0 none false false).sendRead { sendOf none false false with request := some 4 } false 0 32)).map (fun x =>
      (x.1.wait, x.1.kept, x.1.poison)) = some (false, [], []) ∧
    (okOf ((sendState 0 none true false).sendReach (sendOf none true false))).isSome = true ∧
    (match (sendState 0 none false false).sendReach { sendOf none false false with land := 0x40000 } with
      | .error (.fault _ r _ _) => r
      | _ => 0) = 1 ∧
    (sendState 0 none false false).endedLaunch 0 = false := by decide +kernel

/-- R177, R181, R182. -/
theorem test_bulk_sender :
    (nextOf (exec (.bulkRequestRetry 9) (sendState 7 none false false))).map (fun t => t.fab.sends.map BulkSend.busy) = some [some 7] ∧
    (nextOf (exec (.bulkRequestRetry 9) (sendState 26 (some 7) false false))).map (fun t => t.outbox.length) = some 0 ∧
    (nextOf (exec (.bulkRequestRetry 9) (sendState 27 (some 7) false false))).map (fun t => t.outbox.length) = some 1 ∧
    (nextOf (exec (.tokenArrival 9 ⟨4, 2⟩ 8 8 false) (sendState 0 none false false))).map (fun t => t.outbox) =
      some [.bulkData 9 3 ⟨4, 2⟩ 8 8 0x8877_6655_4433_22F1 []] ∧
    (nextOf (exec (.tokenArrival 9 ⟨4, 2⟩ 8 8 false) (sendState 0 none false true))).map (fun t => t.outbox) = some [] ∧
    (nextOf (exec (.finalAcknowledgement 9) (sendState 0 none false false))).map (fun t => t.fab.sends.map BulkSend.egress) = some [true] ∧
    (nextOf (exec (.tokenAcknowledgement 9 4 0 64 0) (sendState 0 none true false))).map (fun t => t.fab.sends.length) = some 0 ∧
    (nextOf (exec (.finalResponse 9 32 true) (sendState 0 none false false))).map (fun t =>
      let w := LandWord.ofNat (readN t.mem.sp (64 + 0x40) 16)
      (w.sectors, w.pending, w.status)) = some (1, 0, 8) := by decide +kernel

/-- A received request of 64 bytes to 0x2_0100, with none landed: one token of its 64 bytes, or none granted yet. -/
def reqOne (tok : Bool) (state : BulkState) : BulkReq :=
  { num := 4, peer := 3, send := 9, ctx := 0, base := 0x20000, dest := 0x20100, todo := if tok then [] else [(0, 64)], left := 64
    level := 2, age := 0, since := 0, expiries := 1, second := none, heard := 0, data := false, state := state
    tokens := if tok then [{ num := 2, off := 0, len := 64, tick := 0, landed := [], planes := [1] }] else [], rxLand := none, flag := none, park := none }
def recvState (tick : Nat) (l : List BulkReq) : State :=
  { logState tick 0 with fab := { capState.fab with reqs := l, nextId := 30 } }

theorem test_witness_BulkReceiver :
    let s := recvState 0 [reqOne false .waiting]
    s.accepts 0 3 0 9 = true ∧ s.fab.reqs.find? BulkReq.landed = none ∧ s.fab.reqs.map BulkReq.answered = [false] ∧
    ({ reqOne false .waiting with todo := [], left := 0 }).landed = true ∧
    s.nextReq = some (reqOne false .waiting) ∧ s.tokensOut = 0 ∧ pageParts 0x20100 64 = [(0x20100, 64)] ∧ s.checkpointing = false ∧
    (reqOne true .granted).ageAt 200 = 200 ∧ (reqOne true .granted).live = true := by decide +kernel

theorem test_witness_TokenData :
    let s := recvState 0 [reqOne false .waiting]
    let u := (recvState 5 [reqOne true .granted]).setReq { reqOne true .granted with heard := 5 }
    ∀ d, d = 0 ∨ d = 1 → (okOf (s.ioTranslate 0 d .copyWrite .w 0x20100)).isSome = true ∧
      u.anyHeldBack 0 d .copyWrite (pageParts 0x20100 32) = none ∧
      (okOf (u.landPages 0 d { len := 32, x := 1 } (pageParts 0x20100 32) 0)).isSome = true := by
  rintro s u d (rfl | rfl) <;> decide +kernel

/-- R177-R179. -/
theorem test_bulk_request :
    (nextOf (exec (.bulkRequest 9 3 0 0 9 0x20000 0x20100 64 6 none none 0 0 []) (recvState 0 []))).map (fun t =>
      t.fab.reqs.map fun r => (r.num, r.left, r.level)) = some [(30, 64, 2)] ∧
    (nextOf (exec (.bulkRequest 9 3 0 0 8 0x20000 0x20100 64 6 none none 0 0 []) (recvState 0 []))).map (fun t => t.outbox) =
      some [.bulkEnd 9 3 64 false] := by decide +kernel

/-- R178: a grant of the request's 64 bytes. -/
theorem test_token_grant : (nextOf (exec .tokenGrant (recvState 6 [reqOne false .waiting]))).map (fun t =>
      t.fab.reqs.map fun r => (r.state, r.tokens.map fun k => (k.off, k.len))) = some [(.granted, [(0, 64)])] := by
  decide +kernel

/-- R179: data lands under the token it names; that of another is discarded. -/
theorem test_token_data_expired :
    (nextOf (exec (.tokenDataLand ⟨4, 1⟩ 8 32 0x77 []) (recvState 6 [reqOne true .granted]))).map (fun t =>
      (t.fab.discarded, t.outbox, t.fab.reqs.map BulkReq.left)) = some (32, [], [64]) := by decide +kernel

theorem test_token_data :
    (nextOf (exec (.tokenDataLand ⟨4, 2⟩ 8 32 0x77 []) (recvState 6 [reqOne true .granted]))).map (fun t =>
      (t.mem.readCoh 0x30108 8, t.outbox, t.fab.reqs.map BulkReq.left)) = some (0x77, [.tokenAck 9 3 4 8 32 0], [32]) := by
  have e : (recvState 6 [reqOne true .granted]).bulkReq? 4 = some (reqOne true .granted) := by decide +kernel
  have d (n : Nat) : ({ reqOne true .granted with heard := n } : BulkReq).die = ioDie 9 3 := rfl
  simp only [exec, execTokenDataLand, e, d]
  rcases ioDie_cases 9 3 with h | h <;> rw [h] <;> decide +kernel

/-- R178 and R179: expiry, age, PARK, ORPHAN and RESUME. -/
theorem test_token_timers :
    (nextOf (exec (.tokenExpiry 4 0) (recvState 20 [reqOne true .granted]))).map (fun t => t.fab.reqs) =
      some [{ reqOne false .waiting with expiries := 2, second := some 20 }] ∧
    (nextOf (exec (.tokenExpiry 4 0) (recvState 19 [reqOne true .granted]))).map (fun t => t.fab.reqs.map BulkReq.expiries) = some [1] ∧
    (nextOf (exec (.agePromotion 4) (recvState 200 [reqOne true .granted]))).map (fun t => t.fab.reqs.map BulkReq.level) = some [1] ∧
    (nextOf (exec (.park 4) (recvState 50 [reqOne true .granted]))).map (fun t => t.fab.reqs) =
      some [{ reqOne false .parked with age := 50, heard := 50 }] ∧
    (nextOf (exec (.orphan 4) (recvState 1020 [{ reqOne true .granted with expiries := 2, second := some 20 }]))).map (fun t =>
      t.fab.reqs.map BulkReq.state) = some [.orphaned] ∧
    (nextOf (exec (.resume 4) (recvState 60 [reqOne false .orphaned]))).map (fun t => t.outbox) = some [.bulkEnd 9 3 64 true] := by
  decide +kernel

/-! ### Events: the scheduler -/

/-- A launch record of context 0: its header at 0x2_0400, frame 0x9000, an extent of 1 by 1 by 1. -/
def recOne : BitVec 1024 := BitVec.ofNat 1024 (0x20400 + 0x9000 * 2 ^ 64 + (1 + 2 ^ 20 + 2 ^ 40) * 2 ^ 128)
/-- A header: entry at 0x1_0000, two warps, 8 KiB of scratchpad, one tile, one accumulator. -/
def headOne : Nat := 0x10000 + 0x40000 * 2 ^ 352 + 2 * 2 ^ 384 + 2 ^ 392 + 2 ^ 400

/-- Queue 0 registered at 0x3_0800 with one record to take, in a partition that owns cluster 0, with the launches and work
records given. -/
def schedState (level : Nat) (tail : Nat) (ls : List Launch) (work : List WorkRec) : State :=
  let s := ((launchState 0 0 tail).writePa 0x30899 1 level).writePa 0x30400 64 headOne
  let s := s.writePa 0x50000 128 recOne.toNat
  { s with
    xlat := { s.xlat with partTab := [(0, BitVec.ofNat 256 (2 ^ 192 + 1))] }
    sched := { s.sched with
      launches := ls, work := work, nextLaunch := 7, cfg := [(0, 50)]
      queues := [(0, { Queue.none with block := 0x30800, ring := 0x50000, size := 4, work := 0x52000, workLog := 8 })] } }

/-- A waiting launch of that record, and the same running. -/
def waiting1 : Launch := newLaunch 7 0 0 recOne
def running1 : Launch :=
  { waiting1 with state := .running, header := BitVec.ofNat 512 headOne, count := 1, join := 1, opened := true, place := 1 }

theorem test_witness_Launches :
    ((schedState 0 1 [] []).queueBlock 0x30800).map (fun b => (b.tail, b.level, b.size)) = some (1, 0, 4) ∧
    ((schedState 9 1 [] []).queueBlock 0x30800) = none ∧ (schedState 0 1 [] []).mem.poisoned 0x30800 512 = false ∧
    (schedState 0 1 [] []).launchRoom 0 = true ∧ (schedState 0 1 [waiting1] []).launch? 7 = some waiting1 ∧
    (match (schedState 0 1 [waiting1] []).readHeader waiting1 with | .got h _ => headerOk h recOne | _ => false) = true ∧
    (List.range 64).any ((schedState 0 1 [waiting1] []).admits 0 0) = true ∧
    (List.range 64).any ((schedState 0 1 [waiting1] []).admits 0 2) = false ∧
    (match (schedState 0 1 [] []).readHeader { waiting1 with record := 0 } with | .bad _ => true | _ => false) = true ∧
    (match (schedState 0 1 [waiting1] []).waitCounter waiting1 with | .ok _ => true | .error _ => false) = true := by decide +kernel

/-- schedState with a tensor table, a partition that owns clusters of two courses, and an EMPTY kiln page at 0x20_0000. -/
def certState : State :=
  let s := schedState 0 1 [] []
  let e (base : Nat) := base + 64 * 2 ^ 64 + 16 * 2 ^ 128 + 64 * 2 ^ 160 + 6 * 2 ^ 368 + 2 ^ 384 + 2 ^ 400
  let s := ((s.writePa 0x40040 64 (e 0x20000)).writePa 0x400C0 64 (e 0x200000)).writePa 0x4008 8 (0x40000F + 5 * 2 ^ 60)
  { s with
    xlat := { s.xlat with ctxTab := [(0, BitVec.ofNat 512 (2 ^ 63 + 2 ^ 62 + 2 ^ 61 + 0x1000 + 0x40 * 2 ^ 64 + 8 * 2 ^ 104))]
                          partTab := [(0, BitVec.ofNat 256 (2 ^ 192 + 2 ^ 16 + 1))]
                          owner := s.xlat.owner ++ [(64, 0x9C000000)] } }

/-- A certified record of kind 2, from slot 1 to slot 3. -/
def certOne : Launch := { waiting1 with record := recOne + BitVec.ofNat 1024 (2 ^ 488 + 2 * 2 ^ 496 + 0x11 * 2 ^ 504 + 0x10001 * 2 ^ 576 +
  0x10003 * 2 ^ 832) }

/-- R505: the plan of its open, or its refusal where the input's slot is empty. -/
theorem test_witness_CertChecks : (match certState.certChecks certOne (BitVec.ofNat 512 headOne) with
      | .ok p => p.ins == [(0, 0, 0)] && p.outs == [(2, 1)] && p.course == 0
      | _ => false) = true ∧
    (match (schedState 0 1 [] []).certChecks certOne (BitVec.ofNat 512 headOne) with
      | .error (.refuse c) => c
      | _ => 0) = 0x22 := by decide +kernel

/-- R415 and R418: a taken record is WAITING, STATUS 1 in its byte 3; TAIL beyond the ring is an error. -/
theorem test_take : (nextOf (exec (.takeLaunchRecord 0 0) (schedState 0 1 [] []))).map (fun t =>
      (t.sched.launches.map Launch.state, t.mem.readCoh 0x50038 4, t.mem.readCoh (0x30800 + 128) 8)) =
      some ([.waiting], 0x01000000, 1) ∧
    (nextOf (exec (.takeLaunchRecord 0 0) (schedState 0 17 [] []))).map (fun t => (t.queue 0).qerr) = some 1 := by decide +kernel

theorem test_open : (nextOf (exec (.launchOpen 7) (schedState 0 1 [{ waiting1 with slot := some 0 }] []))).map (fun t =>
      (t.sched.launches.map fun l => (l.state, l.count, l.place), t.mem.readCoh 0x50038 4)) =
      some ([(.running, 1, 1)], 0x02000000) ∧
    (nextOf (exec (.launchOpen 7) (schedState 0 1 [{ waiting1 with record := recOne + BitVec.ofNat 1024 (2 ^ 513) }] []))).map (fun t =>
      t.sched.launches.map fun l => (l.state, l.code)) = some [(.refused, 4)] := by decide +kernel

/-- The work record of that launch, as its ring holds it. -/
def workOne (ring : Option Nat) : WorkRec :=
  { part := 0, level := 0, launch := 7, queue := 0, ring := ring, ordinals := [0], resume := [], tick := 0 }

theorem test_witness_Placement : (schedState 0 1 [running1] []).launch? 7 = some running1 ∧ running1.nextOrd < running1.count ∧
    ((schedState 0 1 [running1] []).queue 0).block ≠ 0 ∧ ((schedState 0 1 [running1] []).queue 128).block = 0 ∧ running1.unit = 1 ∧
    (schedState 0 1 [running1] []).oldestWork 0 = 0 ∧
    (schedState 0 1 [running1] [workOne none]).pick 1 = some (workOne none) ∧
    (schedState 0 1 [running1] []).workIntact running1 (workOne none) = true ∧
    (schedState 0 1 [running1] [workOne (some 0)]).pick 1 = some (workOne (some 0)) ∧
    (schedState 0 1 [running1] [workOne (some 0)]).workIntact running1 (workOne (some 0)) = false := by decide +kernel

/-- R425: ENTRY, FRAME, launch number and WIDBASE. -/
theorem test_work_record : (nextOf (exec (.workRecordWrite 7) (schedState 0 1 [running1] []))).map (fun t =>
    (t.mem.readCoh 0x52000 32, t.sched.work.map WorkRec.ring, t.sched.launches.map Launch.nextOrd)) =
    some (0x10000 + 0x9000 * 2 ^ 64 + 7 * 2 ^ 128, [some 0], [1]) := by decide +kernel

theorem test_place : (nextOf (exec (.placeWorkgroup 1) (schedState 0 1 [running1] [workOne none]))).map (fun t =>
    (t.warps.length, (t.wg 1).core, (t.wg 1).spBytes, t.sched.work.length)) = some (3, 1, 8192, 0) ∧
    (((nextOf (exec (.placeWorkgroup 1) (schedState 0 1 [running1] [workOne none]))).bind fun t => t.warp? 2).map fun w =>
      (w.pc, Tab.get 0 w.s 0, w.wid, w.live)) = some (0x10000, 0x9000, 32, true) := by decide +kernel

/-- The launch with everything of it done. -/
def done1 : Launch := { running1 with num := 8, join := 0, nextOrd := 1, slot := some 0 }

theorem test_witness_Completion : (schedState 0 1 [done1] []).launch? 8 = some done1 ∧
    (schedState 0 1 [done1] []).launchQuiet done1 = true ∧ (okOf ((schedState 0 1 [done1] []).releaseCores 8 [])).isSome = true ∧
    (schedState 0 1 [running1] []).launchQuiet running1 = false ∧ (schedState 0 1 [done1] []).framesReady [] = true ∧
    ((schedState 0 1 [done1] []).kernelBoundary []).writesDone = true := by decide +kernel

theorem test_complete : (nextOf (exec (.launchComplete 8) (schedState 0 1 [done1] []))).map (fun t =>
    (t.sched.launches.length, (t.queue 0).head, t.mem.readCoh 0x50038 4)) = some (0, 1, 0x03000000) := by decide +kernel

/-- A core of the partition full of a workgroup of a lower priority, whose context has a save area at 0x8_0000 with one slot at
0x40_0000; its record has waited 51 µs for a core. -/
def fullState (stopping : Option Nat) (tick : Nat) : State :=
  let s := schedState 0 1 [{ running1 with nextOrd := 1 }] [workOne none]
  let s := [(0x80018, 1, 4), (0x8003C, 1, 22), (0x80038, 4, 1), (0x80030, 8, 0x400000)].foldl (fun (s : State) (x : Nat × Nat × Nat) =>
    s.writePa x.1 x.2.1 x.2.2) s
  { s with
    tick := tick
    xlat := { s.xlat with ctxTab := [(0, (Tab.get 0 s.xlat.ctxTab 0) + BitVec.ofNat 512 (0x80 * 2 ^ 128))]
                          owner := (List.range 64).map fun i => (64 + i, BitVec.ofNat 32 (2 ^ 31)) }
    wgs := (List.range 4).map fun c => { groupOf s with core := c, level := 1, accs := 4, tiles := 0, spBase := 0, spBytes := 0,
                                                         launch := 7, stopping := if c = 0 then stopping else none }
    warps := s.warps.map fun w => { w with wg := 0 } }

theorem test_witness_Preemption :
    let s := fullState none 51
    s.sched.work[0]? = some (workOne none) ∧ s.host.devState = 5 ∧ s.sched.frozen = false ∧
    field (Tab.get 0 s.sched.cfg 0) 15 0 = 50 ∧ (s.admissible (workOne none) 0) = true ∧
    ((List.range 256).filter (s.admissible (workOne none))).any (s.fits (workOne none)) = false ∧
    (s.choices (workOne none)).head? = some [0] ∧ (fullState (some 0) 51).stoppedWith 0 = [0] ∧
    (fullState (some 0) 51).saveReady 0 = true := by decide +kernel

theorem test_preempt : (nextOf (exec (.preemption 0 false) (fullState none 51))).map (fun t => t.wgs.map Workgroup.stopping) =
      some [some 0, none, none, none] ∧
    (nextOf (exec (.preemption 0 false) (fullState none 50))).map (fun t => t.wgs.map Workgroup.stopping) =
      some [none, none, none, none] := by decide +kernel

/-! ### Events: certified execution, reliability, links, courses -/

/-- A witness record of kind 1 (re-layout), one input of ordinary memory and one output, in a state. -/
def recordIn (state bits45 : Nat) : BitVec 2048 :=
  recFields 0 [(0, 4, 5), (4, 1, 1), (5, 1, bits45 * 32), (6, 1, 0x11), (7, 1, state), (96, 4, 0x10003), (100, 4, 1), (160, 8, 1)]

/-- certState with that record, its output of version 1 in page 2 in a state of the kiln, its stored copy, and whether a
kernel has delivered its values. -/
def witState (r : BitVec 2048) (st tries : Nat) (delivered : Bool) : State :=
  { certState with
    kiln := { certState.kiln with pages := [(2, openEntry 1 5 2 1 0 0 0 0 + BitVec.ofNat 128 (st - 1) - BitVec.ofNat 128 (2 ^ 20))] }
    cert := { certState.cert with
      records := [(5, r)], delivered := if delivered then [5] else []
      stored := [{ witness := 5, part := 0, level := 0, record := certOne.record, header := BitVec.ofNat 512 headOne, tries := tries
                   courses := [0], entries := [0, 0], ins := [(0, 0)], outs := [(2, 1)], vers := [0] }] } }

theorem test_witness_Certification :
    let s := witState (recordIn 1 0) 2 0 false
    s.record? 5 = some (recordIn 1 0) ∧ rState (recordIn 1 0) = 1 ∧ s.sched.frozen = false ∧ s.cert.delivered = [] ∧
    s.kernelCourses 0 (kernelExcluded (recordIn 1 0) false) = [1] ∧ s.courseState 1 = 0 ∧ s.witnessCtx 0 = some 0 ∧
    (ringState 0).kernelCourses 0 [0] = [] ∧
    s.recordCode 0 recOne = 0 ∧ headerOk (BitVec.ofNat 512 headOne) recOne = true ∧ s.kernelHolds 5 (recordIn 1 0) = [2] ∧
    kHolders (s.kpage 2) = 0 ∧ rState (recordIn 2 0) = 2 ∧ bit (recordIn 2 1) 45 = true ∧ bit (recordIn 2 0) 45 = false := by
  decide +kernel

/-- R450: a re-layout's test compares the words it delivers. -/
theorem test_witness_WitnessTest :
    let s := witState (recordIn 2 0) 2 0 true
    (s.testOf 5 (recordIn 2 0)).map (fun t => s.magnitudesBound t (([0, 8, 8, 9, 9] : List (BitVec 64)).map t.value)) = some true ∧
    (s.testOf 5 (recordIn 2 0)).map (fun t => (t.count, s.delivered t [0, 8, 8, 9, 9] == some (([0, 8, 8, 9, 9] : List (BitVec 64)).map t.value),
      s.runTest t (([0, 8, 8, 9, 9] : List (BitVec 64)).map t.value), s.runTest t (([0, 8, 8, 9, 7] : List (BitVec 64)).map t.value))) =
      some (5, true, none, some 0) ∧ s.kilnDeferred = false ∧
    (nextOf (exec (.witnessTest 5 [0, 8, 8, 9, 9]) s)).map (fun t => (kSt (t.kpage 2), t.cert.count)) = some (4, 1) ∧
    (nextOf (exec (.witnessTest 5 [0, 8, 8, 9, 7]) s)).map (fun t => (kSt (t.kpage 2), t.cert.count)) = some (2, 0x100000000) := by
  decide +kernel

theorem test_witness_Reexecute :
    let s := witState (recordIn 4 0) 5 0 false
    rState (recordIn 4 0) = 4 ∧ bit (recordIn 4 0) 61 = false ∧ s.ctxValid (recCtx certOne.record) = true ∧
    (s.cert.stored.map fun st => (s.inputsNow st, s.retryCourse st, s.stackFrames 0 st.record st.header)) =
      [(.ready [(0, 0, 0)], some 1, some [])] ∧
    kWitness (s.kpage 2) = 5 ∧ kSt (s.kpage 2) = 5 ∧ kHolders (s.kpage 2) = 0 ∧ s.launchRoom 0 = true ∧ s.kilnDeferred = false ∧
    (s.newRegion (regionBytes (lrec certOne.record 62 1 % 8) 0)).isSome = true ∧ s.runHeld (2 * 0x200000) (1 * 0x200000) = false ∧
    s.framesUntracked [] = true ∧ s.cert.records.length < 65536 ∧ kHolders (s.kpage 0) < 4095 := by decide +kernel

theorem test_seed_epoch : certState.cert.epochTick + field certState.cert.cfg 23 0 = 1000 ∧
    (nextOf (exec .seedEpoch { certState with tick := 999 })).map (fun t => t.cert.epoch) = some 1 ∧
    (nextOf (exec .seedEpoch { certState with tick := 1000 })).map (fun t => (t.cert.epoch, t.cert.epochTick)) = some (2, 1000) := by
  decide +kernel

/-- A bank of a code and counts. -/
def bankState (code ce ue : Nat) : State :=
  { State.reset with rel := { State.reset.rel with banks := [(7, BitVec.ofNat 32 (code * 2 ^ 30 + ue * 2 ^ 16 + ce))] } }

theorem test_witness_Reliability : field ((bankState 1 2 3).bank 7) 31 30 = 1 ∧ field ((bankState 3 2 3).bank 7) 31 30 = 3 ∧
    (bankState 2 0 0).striped = true ∧ ({ bankState 2 0 0 with tick := 3600000000 }.tick % 3600000000 = 0) ∧
    bit ((bankState 0 0 0).region 4) 126 = false ∧
    bit (({ bankState 0 0 0 with rel := { (bankState 0 0 0).rel with regions := [(4, BitVec.ofNat 128 (2 ^ 126))] } } : State).region 4) 126 =
      true := by decide +kernel

/-- The package with 4 MiB of far memory on port 0, in set 0. -/
def farState : State := { State.reset with host := { State.reset.host with farPort := [(0, 0x400000)], farSet := [(0, 0)] } }

/-- R76 and R77: one wrong symbol is corrected and counted, two are not in the normal code; in the far tier any is poison. -/
theorem test_scrub : (nextOf (exec (.scrub 9 1 false) State.reset)).map (fun t => t.rel.banks.map (·.2)) =
      some [BitVec.ofNat 32 1] ∧
    (nextOf (exec (.scrub 9 2 false) State.reset)).map (fun t => (t.rel.banks.map (·.2), t.mem.poisoned (9 * 32) 1)) =
      some ([BitVec.ofNat 32 (2 ^ 16)], true) ∧
    (nextOf (exec (.scrub (0x100000000000 / 32 + 1) 1 false) farState)).map (fun t => (t.rel.banks.length,
      t.mem.poisoned 0x100000000020 1)) = some (0, true) := by decide +kernel

/-- R77 and R79: a bank at the bound of corrected errors changes its code; the hour clears the counts. -/
theorem test_bank_event : (let t := (bankState 0 32 0).bankEvent 7 false
      (field (t.bank 7) 31 30, t.rel.hashVersion, t.reserveLeft)) = (2, 1, 4095) ∧
    (nextOf (exec .hourlyCounterClear (bankState 1 5 6))).map (fun t => t.bank 7) = some (BitVec.ofNat 32 (2 ^ 30)) ∧
    (nextOf (exec (.reencodeRow 7 true) (bankState 2 0 0))).map (fun t => field (t.bank 7) 31 30) = some 1 := by decide +kernel

theorem test_migrate : (nextOf (exec (.migrateLine { region := 4, bad := [] }) { bankState 0 0 0 with
    rel := { (bankState 0 0 0).rel with hashVersion := 1 } })).map (fun t => (field (t.region 4) 47 32, bit (t.region 4) 126)) =
    some (1, true) := by decide +kernel

theorem test_tick_and_age : (nextOf (exec .deviceTick nopState)).map State.tick = some 1 ∧
    (let s : State := { nopState with tick := 2 ^ 40 + 6
                                      mem := { nopState.mem with l1 := [(3 * 2 ^ 45 + 9, { L1Line.none with valid := 1, tick := 5 })] } }
     s.mem.l1At 3 9 ≠ L1Line.none ∧ 2 ^ 40 < ticksBack (s.tick % 2 ^ 43) 5 ∧
     (nextOf (exec (.l1AgeInvalidate 3 9) s)).map (fun t => t.mem.l1.length) = some 0) := by decide +kernel

theorem test_window : (nextOf (exec .failureWindowExpiry { nopState with tick := 86400000005, cert := { nopState.cert with
    charges := [{ core := 1, kind := 0, tick := 5, record := 1 }, { core := 1, kind := 0, tick := 6, record := 2 }] } })).map
    (fun t => t.cert.charges.map Charge.record) = some [2] := by decide +kernel

/-- A warp of core 0 that a checker mismatch has parked, or not. -/
def retryState (parked : Bool) : State :=
  { nopState with warps := nopState.warps.map fun w => { w with park := if parked then .pipeline else .run }
                  rel := { nopState.rel with retry := if parked then [0] else [] } }
/-- Core 5 in a gating state at a tick. -/
def gateState (g : Gate) (tick : Nat) : State :=
  { nopState with tick := tick, cores := [(5, { Core.fresh with gate := g })] }

theorem test_witness_CoreErrors : (retryState true).warp? 0 = some (warpOf (retryState true)) ∧ (warpOf (retryState true)).park = .pipeline ∧
    (retryState true).rel.retry = [0] ∧ (groupOf (retryState false)).saved = none ∧
    ((gateState .gated 0).core 5).gate = .gated ∧ (gateState .gated 0).retired 5 = false ∧ ((gateState (.waking 1) 45).core 5).gate = .waking 1 ∧
    ((gateState .ready 100).core 5).gate = .ready ∧ (gateState .ready 100).pairEmpty 5 = true ∧
    field (gateState .ready 100).rel.faultCfg 15 0 = 100 := by decide +kernel

theorem test_witness_ThreadError : laneState.warp? 0 = some (warpOf laneState) ∧ (warpOf laneState).live = true ∧
    (warpOf laneState).lane = true ∧ (warpOf laneState).blocks.head? = some block6 ∧ (groupOf laneState).saved = none ∧
    (warpOf laneState).park ≠ .pipeline ∧
    (nextOf (exec (.pipelineError ⟨0, some 2⟩) laneState)).map (fun t => (warpOf t).blocks.map Block.stopAt) = some [some 2] := by
  decide +kernel

theorem test_core_errors : (nextOf (exec (.pipelineError ⟨0, none⟩) (retryState false))).map (fun t => ((warpOf t).park, t.rel.retry)) =
      some (.pipeline, [0]) ∧
    (nextOf (exec (.pipelineRetry 0 true) (retryState true))).map (fun t => ((warpOf t).park, t.rel.entries.map FaultRec.kind)) =
      some (.run, [1]) ∧
    (nextOf (exec (.pipelineRetry 0 false) (retryState true))).map (fun t => ((warpOf t).live, t.rel.entries.map FaultRec.kind)) =
      some (false, [2]) ∧
    (nextOf (exec (.coreUe 0 { wgs := [0], lines := [], single := 0 }) nopState)).map (fun t => (warpOf t).live) = some false := by decide +kernel

theorem test_gating : (nextOf (exec (.powerGate 5) (gateState .ready 100))).map (fun t => (t.core 5).gate) = some .gated ∧
    (nextOf (exec (.powerGate 5) (gateState .ready 99))).map (fun t => (t.core 5).gate) = some .ready ∧
    (nextOf (exec (.coreWake 5) (gateState .gated 9))).map (fun t => (t.core 5).gate) = some (.waking 9) ∧
    (nextOf (exec (.selfTestDone 5 true) (gateState (.waking 1) 45))).map (fun t => (t.core 5).gate) = some .ready ∧
    (nextOf (exec (.selfTestDone 5 true) (gateState (.waking 1) 44))).map (fun t => (t.core 5).gate) = some (.waking 1) ∧
    (nextOf (exec (.selfTestDone 5 false) (gateState (.waking 1) 45))).map (fun t => ((t.core 5).gate, t.retired 5)) =
      some (.gated, true) := by decide +kernel

/-- The link from die 8 to die 1 in a state at a tick, and course 2 at a phase of its reset that began at tick 0. -/
def linkState (l : Link) (tick : Nat) : State :=
  { State.reset with tick := tick, rel := { State.reset.rel with links := [(8 * 11 + 1, l)] } }
def courseAt (state phase tick : Nat) : State :=
  { State.reset with tick := tick
                     sched := { State.reset.sched with stopped := [2] }
                     rel := { State.reset.rel with courseReg := [(2, BitVec.ofNat 64 state)]
                                                   resets := [{ course := 2, start := 0, phase := phase }] } }

theorem test_witness_Links : (linkState .awake 0).link 8 1 = .awake ∧ (linkState .lowPower 0).link 8 1 = .lowPower ∧
    (linkState (.waking 5) 8).link 8 1 = .waking 5 ∧ (linkState (.silent 5) 255).link 8 1 = .silent 5 ∧
    (courseAt 1 1 250).courseState 2 = 1 ∧ (courseCores 2).all (courseAt 1 1 0).pairEmpty = true ∧ (courseAt 3 3 0).courseState 2 = 3 ∧
    ((courseCores 2).all fun c => ((courseAt 3 3 0).core c).gate != .testing) = true ∧ (courseAt 2 3 10000).rel.resets.length = 1 := by
  decide +kernel

theorem test_links : (nextOf (exec (.linkWakeTimeout 8 1) (linkState (.waking 5) 8))).map (fun t => t.link 8 1) = some (.silent 8) ∧
    (nextOf (exec (.linkWakeTimeout 8 1) (linkState (.waking 5) 7))).map (fun t => t.link 8 1) = some (.waking 5) ∧
    (nextOf (exec (.linkTrained 8 1) (linkState (.silent 5) 8))).map (fun t => t.link 8 1) = some .awake ∧
    (nextOf (exec (.linkFenceTimeout 8 1) (linkState (.silent 5) 255))).map (fun t => (t.link 8 1, t.courseState 1)) =
      some (.fenced, 1) ∧
    (nextOf (exec (.linkFenceTimeout 8 1) (linkState (.silent 5) 254))).map (fun t => t.link 8 1) = some (.silent 5) := by decide +kernel

theorem test_courses : (nextOf (exec (.interconnectUe 2 [3]) State.reset)).map (fun t => (t.courseState 2, t.mem.poisoned (3 * 128) 1,
      t.sched.stopped)) = some (1, true, [2]) ∧
    (nextOf (exec (.courseRejoin 2) (courseAt 3 3 0))).map (fun t => (t.courseState 2, t.sched.stopped, t.rel.resets.length)) =
      some (0, [], 0) ∧
    (nextOf (exec (.throttle true) State.reset)).map (fun t => t.host.mhz) = some 2900 ∧
    (nextOf (exec (.throttle false) State.reset)).map (fun t => t.host.mhz) = some 3000 := by decide +kernel

/-! ### Events: boot, the host, mailbox commands, checkpoints -/

/-- The package in a state of dev_state. -/
def bootState (n : Nat) : State := { State.reset with host := { State.reset.host with devState := BitVec.ofNat 8 n } }

theorem test_boot : (nextOf (exec (.powerUp [0x400000, 5]) (bootState 0))).map (fun t => (t.host.devState, Tab.get 0 t.host.farPort 0,
      Tab.get 0 t.host.farPort 1)) = some (1, 0x400000, 0) ∧
    (nextOf (exec (.fwGo 8) (bootState 3))).map (fun t => (t.host.devState, t.host.fwLength)) = some (2, 8) ∧
    (nextOf (exec (.fwGo 8) (bootState 5))).map (fun t => t.host.devState) = some 5 ∧
    (nextOf (exec (.bringup [] [5]) (bootState 4))).map (fun t => (t.host.devState, t.retired 5, (t.core 5).gate)) =
      some (5, true, .gated) ∧
    (nextOf (exec .overtemp (bootState 5))).map (fun t => t.host.devState) = some 6 ∧
    (nextOf (exec .packageReset nopState)).map (fun t => (t.host.devState, t.warps.length, t.mem.readCoh 0x20000 4, t.rel.boots)) =
      some (0, 0, 0x8C000000, 2) := by decide +kernel

/-- memState with its page a kiln page of partition 0 in a state, or with partition 0's TDI locked. -/
def hostState (kiln : Option Nat) (locked : Bool) : State :=
  let s := memState
  { s with
    xlat := { s.xlat with owner := [(2, 0x80000000), (3, if kiln.isSome then 0x8C000000 else 0x80000000)] }
    kiln := { s.kiln with pages := match kiln with | some k => [(0, BitVec.ofNat 128 k)] | none => [] }
    host := { s.host with tdi := if locked then [(0, .locked)] else [] } }

theorem test_witness_HostAccess : hostReaches 0x30108 8 = true ∧ hostReaches 0x3017C 8 = false ∧
    (hostState none false).hostEgress 0x30108 none true = .pass ∧ (hostState (some 3) false).hostEgress 0x30108 none false = .kiln ∧
    (hostState (some 4) false).hostEgress 0x30108 none false = .pass ∧ (hostState (some 4) false).hostEgress 0x30108 none true = .kiln ∧
    (hostState none true).hostEgress 0x30108 none false = .locked ∧ (hostState none true).hostEgress 0x30108 (some 0) false = .pass ∧
    (hostState none false).lineBusy 0x602 = false ∧ (hostState none false).homeIn [2, 3] 0x30108 = false ∧
    (hostState none false).checkpointing = false ∧ (hostState none false).unbacked 0x30108 = false ∧
    (hostState none false).snoopsReach 0x602 128 false = true ∧ (hostState none false).writeHeld 0x602 128 = false ∧
    (heldState []).writeHeld 0xA0 128 = true ∧ (hostState none false).host.mboxFree = 16 ∧ (hostState none false).host.devState = 5 ∧
    Tab.get 0 (heldState []).xlat.tdir 0xA0 = 1 ∧ (hostState none true).xlat.zero = [] ∧
    (hostState none false).homeAway (some hostDie) 0x602 = false := by decide +kernel

/-- R106 and R475. -/
theorem test_host_access :
    (nextOf (exec (.hostMemRead (.mem 0x30108) 8 none) (hostState none false))).map (fun t => (t.outbox, t.mem.snoop)) =
      some ([.hostData 0x30108 8 0x8877_6655_4433_22F1 false], [0x602]) ∧
    (nextOf (exec (.hostMemRead (.mem 0x30108) 8 none) (hostState (some 3) false))).map (fun t => (t.outbox, t.kiln.refused0)) =
      some ([.hostData 0x30108 8 0 true], 1) ∧
    (nextOf (exec (.hostMemWrite false 0x30108 8 5 none) (hostState none true))).map (fun t => (t.mem.readCoh 0x30108 1, t.host.refused)) =
      some (0xF1, 1) ∧
    (nextOf (exec (.hostMemWrite false 0x30108 8 5 none) (hostState none false))).map (fun t => t.mem.readCoh 0x30108 8) = some 5 ∧
    (nextOf (exec (.hostMemWrite true 0x30 2 0x1234 none) (hostState none false))).map (fun t => t.host.staging) =
      some [(0x30, 0x34), (0x31, 0x12)] ∧
    (nextOf (exec (.registerWrite 0 0x1200 0) nopState)).map (fun t => (t.host.pending.length, t.host.mboxFree)) = some (1, 15) ∧
    (nextOf (exec (.registerWrite 0 0x1201 0) nopState)).map (fun t => t.host.pending.length) = some 0 := by decide +kernel

/-- R482 and R484. -/
theorem test_attestation : (nextOf (exec (.spdmRequest 3 0) { nopState with host := { nopState.host with sessions := [(3, 3)] } })).map
      (fun t => Tab.get 0 t.host.sessions 3) = some 4 ∧
    (nextOf (exec (.spdmRequest 3 0) { nopState with host := { nopState.host with sessions := [(3, 4)] } })).map
      (fun t => Tab.get 0 t.host.sessions 3) = some 4 := by decide +kernel
theorem test_interfaces : (nextOf (exec (.tdispRequest 0 1) (hostState none true))).map (fun t => Tab.get .unlocked t.host.tdi 0) =
      some .run ∧
    (nextOf (exec (.tdispRequest 0 2) (hostState none false))).map (fun t => Tab.get .unlocked t.host.tdi 0) = some .unlocked ∧
    (nextOf (exec (.stopInterface 0) (hostState none true))).map (fun t => (t.tdiLocked 0, t.ctxValid 0, t.xlat.owner.length,
      t.mem.readCoh 0x30108 8)) = some (false, false, 0, 0) := by decide +kernel

/-- A host command with its code and fields, first of its issuer, and the state that holds it. -/
def command (l : List (Nat × Nat)) : Pending :=
  { issuer := .host, addr := 0x1200, block := BitVec.ofNat 4096 (l.foldl (fun x f => x + f.2 * 2 ^ (8 * f.1)) 0) }
def posted' (s : State) (l : List (Nat × Nat)) : State := { s with host := { s.host with pending := [command l] } }
/-- The STATUS of the answer that leaves for the host. -/
def statusOf (i : Instr) (s : State) : Option Nat := (nextOf (exec i s)).bind fun t => t.outbox.findSome? fun m => match m with
  | .hostBytes _ b => some (b.getD 4 0).toNat
  | _ => none

/-- A host command's answer needs no home. -/
theorem answerReady_host (s : State) (l : List (Nat × Nat)) : s.answerReady (command l) = .ok s := rfl

theorem test_witness_Commands : ([0x01, 0x02, 0x03, 0x04, 0x05, 0x06, 0x07, 0x08, 0x09, 0x0A, 0x0B, 0x0C, 0x0D, 0x0E, 0x0F, 0x10, 0x11, 0x12,
      0x13, 0x14].all fun c =>
        let s := posted' nopState [(0, c)]
        let p := command [(0, c)]
        decide (s.host.pending[0]? = some p) && decide (p.arg 0 2 = c) && s.host.devState == 5 && !s.mbBusy &&
          (Claims.took s 0).mbCheck p matches .ok ()) = true ∧
    ((Claims.took nopState 0).mbCheck (command [(0, 3), (40, 1)])) matches .error (2, 40) ∧
    (Claims.took nopState 0).peersReached = true ∧ (Claims.took nopState 0).ctxValid 0 = true ∧
    (Claims.took nopState 0).ctxEnds 0 = true := by decide +kernel

/-- R84, R457, R463, R487: the bounds of the register commands' fields. -/
theorem test_register_commands :
    (nextOf (exec (.relSet 0) (posted' nopState [(0, 0x10), (24, 0x07D0_FF_FFFF_0001)]))).map (fun t => t.rel.hbmCfg) =
      some 0x07D0_FF_FFFF_0001 ∧
    statusOf (.relSet 0) (posted' nopState [(0, 0x10), (24, 0x07D1_FF_FFFF_0001)]) = some 2 ∧
    (nextOf (exec (.certSet 0) (posted' nopState [(0, 0x11), (24, 0x0101_00_000064)]))).map (fun t => t.cert.cfg) = some 0x0101_00_000064 ∧
    (nextOf (exec (.faultSet 0) (posted' nopState [(0, 0x12), (24, 0xFF01_0000)]))).map (fun t => t.rel.faultCfg) = some 0xFF01_0000 ∧
    (nextOf (exec (.powerSet 0) (posted' nopState [(0, 0x14), (24, 1500)]))).map (fun t => t.host.powerCap) = some 1500 ∧
    statusOf (.powerSet 0) (posted' nopState [(0, 0x14), (24, 4601)]) = some 2 := by decide +kernel

/-- R20, R19, R29, R155, R413, R419, R468. -/
theorem test_commands :
    (nextOf (exec (.partSet 0) (posted' nopState [(0, 1), (16, 1), (32, 2), (40, 2), (56, 1)]))).map (fun t => t.partOwns 1 1) = some true ∧
    statusOf (.ctxEnd 0) (posted' nopState [(0, 3), (16, 7)]) = some 1 ∧
    (nextOf (exec (.ctxEnd 0) (posted' nopState [(0, 3)]))).map (fun t => t.ctxValid 0) = some false ∧
    (nextOf (exec (.frameAssign 0) (posted' nopState [(0, 4), (16, 0x40000), (24, 0x80000000)]))).map (fun t =>
      (t.xlat.zero.length, bit (t.ownerAt 4) 30)) = some (1, true) ∧
    statusOf (.frameAssign 0) (posted' nopState [(0, 4), (16, 0x40001), (24, 0x80000000)]) = some 2 ∧
    statusOf (.peerSet 0) (posted' nopState [(0, 8), (24, 2 ^ 63)]) = some 4 ∧
    statusOf (.queueSet 0) (posted' nopState [(0, 7)]) = some 1 ∧
    statusOf (.launchEnd 0) (posted' nopState [(0, 9)]) = some 4 ∧
    (nextOf (exec (.dieReset 0) (posted' nopState [(0, 12), (16, 3)]))).map (fun t => (t.courseState 3, t.host.dieReset.isSome)) =
      some (1, true) ∧
    statusOf (.dieReset 0) (posted' nopState [(0, 12), (16, 4)]) = some 2 := by decide +kernel

theorem test_more_commands :
    statusOf (.kilnAssign 0) (posted' nopState [(0, 5), (17, 1), (24, 0x400000)]) = none ∧
    (nextOf (exec (.kilnAssign 0) (posted' nopState [(0, 5), (17, 1), (24, 0x400000)]))).map (fun t => t.xlat.zero.length) = some 1 ∧
    statusOf (.kilnFree 0) (posted' nopState [(0, 6), (16, 9)]) = some 4 ∧ statusOf (.certify 0) (posted' nopState [(0, 13)]) = some 4 ∧
    statusOf (.faultExport 0) (posted' nopState [(0, 14)]) = some 4 ∧ statusOf (.farSet 0) (posted' nopState [(0, 19), (16, 0x10)]) = some 2 ∧
    statusOf (.restore 0) (posted' nopState [(0, 11)]) = some 4 := by decide +kernel

/-- Zeroing of frame 3 to a new owner, and a checkpoint or a restore under way. -/
def zeroingState : State :=
  { memState with xlat := { memState.xlat with zero := [{ pa := 0x30000, len := 0x10000, owner := 0x80000001, cmd := some (command [(0, 4)]) }] } }
def ckptState (restore : Bool) (time : Option Nat) (len : Nat) : State :=
  { State.reset with sched := { State.reset.sched with frozen := true }
                     host := { State.reset.host with devState := 5
                                                     copying := some { restore := restore, cmd := command [(0, 10)], base := 2 ^ 49
                                                                       len := len, time := time } } }

theorem test_witness_Zeroing : zeroingState.xlat.drops = [] ∧ zeroingState.runHeld 0x30000 0x10000 = false ∧
    zeroingState.framesUntracked (blockFrames 0x30000 0x10000) = true ∧ zeroingState.answerReady (command [(0, 4)]) = .ok zeroingState :=
  ⟨by decide +kernel, by decide +kernel, by decide +kernel, answerReady_host ..⟩

theorem test_zeroing : (nextOf (exec .zeroing zeroingState)).map (fun t => (t.mem.readCoh 0x30108 8, t.ownerAt 3, t.xlat.zero.length)) =
    some (0, 0x80000001, 0) ∧ statusOf .zeroing zeroingState = some 1 := by decide +kernel

theorem test_witness_Checkpoints : State.reset.ckptPlan.total = 512 ∧ (ckptState false none 0x200000).allQuiet = true ∧
    (nextOf (exec (.checkpoint 0) { ckptState false none 0x200000 with tick := 9 })).map (fun t => t.host.copying.bind Copying.time) =
      some (some 9) ∧
    (ckptState false (some 4) 511).ckptPlan.total = 512 ∧ statusOf .checkpointComplete (ckptState false (some 4) 511) = some 4 ∧
    (ckptState true none 0).readCkpt 0 = none ∧ (ckptState false none 0x200000).writeBackAll.xlat.heldWrites = [] ∧
    statusOf .restoreComplete (ckptState true none 0) = some 4 := by decide +kernel

/-! ### Completion of launches, host accesses and commands -/

theorem test_witness_LaunchAndHost :
    let s := launchState 0 0 15
    let w := warpOf s
    Claims.Calm s ∧ w.blocks = [] ∧ (groupOf s).cert = false ∧ (w.sget 26).toNat % 512 = 0 ∧ (w.sget 27).toNat % 128 = 0 ∧
    (s.walk (s.whoOf (groupOf s)) .rw false (w.sget 26)).toOption.map (fun t => (t.pa, t.kind.isMem, t.used.map (· / 128))) =
      some (0x30800, true, (((s.walk (s.whoOf (groupOf s)) .rw false (w.sget 26)).toOption.map Trans.used).getD []).map (· / 128)) ∧
    (match s.walk (s.whoOf (groupOf s)) .rw false (w.sget 26) with
      | .ok ta =>
        let m := s.markUsed ta .rw
        match m.walk (m.whoOf (groupOf s)) .r false (w.sget 27) with
        | .ok tb => ((m.markUsed tb .r).queueBlock ta.pa).isSome && !(m.markUsed tb .r).mem.poisoned tb.pa 128 &&
          (ta.used ++ tb.used).all fun e => e / 128 != 0x50780 / 128 && (decide (e / 128 < 0x610) || decide (0x614 ≤ e / 128))
        | _ => false
      | _ => false) = true ∧
    (s.walk (s.whoOf (groupOf s)) .w false (w.sget 26)).toOption.isSome = true ∧
    Claims.Calm (hostState none false) ∧ (hostState none false).hostEgress 0x30108 none true = .pass := by
  unfold Claims.Calm; decide +kernel

/-- R295: a command of the context, or none where its queue has no room. -/
theorem test_launch_and_mbox : (nextOf (exec (.launch 26 27) (launchState 0 0 15))).map (fun t =>
      (t.mem.readCoh 0x30800 8, t.mem.readCoh 0x50780 128 == (launchState 0 0 15).mem.readCoh 0x30080 128, (warpOf t).pc)) =
      some (16, true, (warpOf (launchState 0 0 15)).pc + 4) ∧
    (nextOf (exec (.sysMbox 9 26) (launchState 0 0 15))).map (fun t => (Tab.get 0 (warpOf t).s 9, t.host.pending.map Pending.addr)) =
      some (0, [0x30800]) ∧
    (nextOf (exec (.hostMemRead (.bar0 0x18) 8 none) nopState)).map (fun t => t.outbox) = some [.barData 0x18 16] := by decide +kernel

/-- A table command posted by the host, and whether it is the first of its issuer's and passes the checks of R478 to R480. -/
def isReady (s : State) (code : Nat) (l : List (Nat × Nat)) : Bool :=
  let t := posted' s ((0, code) :: l)
  let p := command ((0, code) :: l)
  decide (t.host.pending[0]? = some p) && t.host.devState == 5 && !t.mbBusy && p.arg 0 2 == code &&
    (match (Claims.took t 0).mbCheck p with | .ok _ => true | .error _ => false)

/-- nopState with frame 6 shared in partition 0, frame 64 of context 5, and a queue block whose rings lie in frame 6. -/
def tableState : State :=
  let s := [(0x60800, 8, 3), (0x60890, 8, 0x61000), (0x60898, 1, 4), (0x608A0, 8, 0x62000), (0x608A8, 1, 8)].foldl (fun (s : State) x =>
    s.writePa x.1 x.2.1 x.2.2) nopState
  { s with
    xlat := { s.xlat with owner := [(6, BitVec.ofNat 32 (2 ^ 31 + 2 ^ 27)), (64, BitVec.ofNat 32 (2 ^ 31 + 2 ^ 24 + 5))]
                          partTab := [(0, BitVec.ofNat 256 (2 ^ 192 + 2 ^ 64 + 1))] }
    host := { s.host with farPort := [(0, 0x400000)] } }

/-- The fields of PART_SET 1, of CTX_SET 5, of QUEUE_SET 0 and of FAR_SET with port 0 in set 0. -/
def partOne : List (Nat × Nat) := [(16, 1), (32, 2), (40, 2), (56, 1)]
def ctxFive : List (Nat × Nat) := [(16, 5), (64, 2 ^ 63 + 0x400 * 2 ^ 64 + 8 * 2 ^ 104)]
def queueNought : List (Nat × Nat) := [(24, 0x60800)]
def farOne : List (Nat × Nat) := (List.range 15).map fun j => (17 + j, 0xFF)

theorem test_witness_TableCommands :
    let s := tableState
    let c := BitVec.ofNat 512 (2 ^ 63 + 0x400 * 2 ^ 64 + 8 * 2 ^ 104)
    let d := BitVec.ofNat 256 (2 + 2 * 2 ^ 64 + 2 ^ 192)
    isReady s 0x01 partOne = true ∧ (command partOne).arg 32 32 = d.toNat ∧ d.toNat &&& partReserved = 0 ∧ s.busyClusters 1 = [] ∧
    Tab.get [] s.xlat.oldPart 1 = [] ∧ s.tdiLocked 1 = false ∧
    ((List.range 16).all fun j => j == 1 || !s.partValid j || decide (((s.partDesc j).toNat &&& d.toNat) % 2 ^ 128 = 0)) = true ∧
    isReady s 0x02 ctxFive = true ∧ (command ctxFive).arg 64 64 = c.toNat ∧ c.toNat &&& ctxReserved = 0 ∧ field c 108 104 = 8 ∧
    s.ctxValid 5 = false ∧ s.partValid 0 = true ∧ Tab.get [] s.xlat.oldCtx 5 = [] ∧ s.ctxClear 5 = true ∧
    s.inFrames (field c 103 64 * 4096) (64 * 2 ^ 8) (fun e => bit e 24 && !oShared e && oCtx e == 5 && oPart e == 0) = true ∧
    isReady s 0x07 queueNought = true ∧ s.rawRings 0x60800 = [(0x61000, 2048), (0x62000, 8192)] ∧
    (((0x60800, 512) :: s.rawRings 0x60800).all fun r => s.inFrames r.1 r.2 fun e => oShared e && !oKiln e && oPart e == 0) = true ∧
    isReady s 0x13 farOne = true ∧ s.host.ckpts = [] ∧ (s.xlat.owner.all fun e => decide (e.1 < 12582912)) = true ∧
    ((List.range 16).map fun j => (command farOne).arg (16 + j) 1) = 0 :: List.replicate 15 0xFF ∧
    isReady s 0x0E [(32, 1280)] = true ∧ s.rel.entries = [] := by decide +kernel

/-- R19, R20, R413, R471 and R486. -/
theorem test_table_commands :
    statusOf (.partSet 0) (posted' tableState ((0, 1) :: partOne)) = some 1 ∧
    statusOf (.ctxSet 0) (posted' tableState ((0, 2) :: ctxFive)) = some 1 ∧
    (nextOf (exec (.ctxSet 0) (posted' tableState ((0, 2) :: ctxFive)))).map (fun t => t.ctxValid 5) = some true ∧
    statusOf (.queueSet 0) (posted' tableState ((0, 7) :: queueNought)) = some 1 ∧
    (nextOf (exec (.queueSet 0) (posted' tableState ((0, 7) :: queueNought)))).map (fun t => (t.queue 0).block) = some 0x60800 ∧
    statusOf (.farSet 0) (posted' tableState ((0, 0x13) :: farOne)) = some 1 ∧
    (nextOf (exec (.farSet 0) (posted' tableState ((0, 0x13) :: farOne)))).map (fun t => t.host.farBytes) = some 0x400000 := by
  decide +kernel

/-- The queue of schedState with its first record taken, as a launch that runs or as one that has gone. -/
def endState (l : List Launch) : State :=
  let s := schedState 0 1 l []
  { s with sched := { s.sched with queues := s.sched.queues.map fun q => (q.1, { q.2 with taken := 1 }) } }

theorem test_witness_LaunchEnd :
    isReady (endState []) 0x09 [(24, 0x30800)] = true ∧ (endState []).queueAt 0x30800 = some 0 ∧ ((endState []).queue 0).taken = 1 ∧
    isReady (endState [{ running1 with slot := some 0 }]) 0x09 [(24, 0x30800)] = true ∧
    (endState [{ running1 with slot := some 0 }]).stuckWaits ((endState [{ running1 with slot := some 0 }]).stuckOf 7) = false ∧
    statusOf (.launchEnd 0) (posted' (endState []) [(0, 9), (24, 0x30800)]) = some 1 ∧
    statusOf (.launchEnd 0) (posted' (endState [{ running1 with slot := some 0 }]) [(0, 9), (24, 0x30800)]) = some 1 := by
  decide +kernel

/-- A released version in kiln page 0. -/
def releasedState : State :=
  let s := hostState (some 4) false
  { s with xlat := { s.xlat with owner := (0, 0x8C000000) :: s.xlat.owner }, cert := { s.cert with released := [(0, 5)] } }

theorem test_witness_Certify : isReady releasedState 0x0D [] = true ∧ releasedState.isKiln 0 = true ∧ kSt (releasedState.kpage 0) = 4 ∧
    Tab.get 0 releasedState.cert.released (kFirst (releasedState.kpage 0)) ≠ 0 := by decide +kernel

theorem test_witness_AssignCommands :
    let s := tableState
    let free : List (Nat × Nat) := [(16, 0x60000)]
    let keep : List (Nat × Nat) := [(16, 0x60000), (24, 2 ^ 31 + 2 ^ 27)]
    let kiln : List (Nat × Nat) := [(17, 1), (24, 0x600000)]
    isReady s 0x04 free = true ∧ isReady s 0x04 keep = true ∧ isReady s 0x05 kiln = true ∧ s.framesUntracked (blockFrames 0x60000 0x10000) = true ∧
    s.pagesFree 0x60000 0x10000 = true ∧ s.blockCheck (command ((0, 4) :: free)) 0x60000 0x10000 16 none = .ok () ∧
    s.blockCheck (command ((0, 4) :: keep)) 0x60000 0x10000 16 (some (0, 25)) = .ok () ∧
    sameOwner (s.ownerAt 6) (BitVec.ofNat 32 (2 ^ 31 + 2 ^ 27)) = true ∧ s.oldHeld 6 = false ∧
    s.blockCheck (command ((0, 5) :: kiln)) 0x600000 0x200000 24 (some (0, 16)) = .ok () ∧
    ((blockFrames 0x600000 0x200000).all fun f => !oKiln (s.ownerAt f)) = true ∧ s.framesUntracked (blockFrames 0x600000 0x200000) = true ∧
    statusOf (.frameAssign 0) (posted' s ((0, 4) :: free)) = some 1 ∧ statusOf (.frameAssign 0) (posted' s ((0, 4) :: keep)) = some 1 ∧
    (nextOf (exec (.kilnAssign 0) (posted' s ((0, 5) :: kiln)))).map (fun t => t.xlat.zero.map ZeroJob.pa) = some [0x600000] := by
  decide +kernel

theorem bytesOf_value (n x : Nat) : (bytesOf n x).foldr (fun b n => b.toNat + 256 * n) 0 = x % 256 ^ n := by
  induction n generalizing x with
  | zero => simp [bytesOf, Nat.mod_one]
  | succ n ih =>
    rw [bytesOf, List.foldr_cons, ih, BitVec.toNat_ofNat, Nat.pow_succ (n := 256), Nat.mul_comm _ 256, Nat.mod_mul]

theorem bytesOf_take (n k x : Nat) : (bytesOf (n + k) x).take n = bytesOf n x := by
  induction n generalizing x with
  | zero => simp [bytesOf]
  | succ n ih => rw [Nat.succ_add, bytesOf, List.take_succ_cons, ih, bytesOf]

theorem bytesOf_low (n x y : Nat) : bytesOf n (x + 256 ^ n * y) = bytesOf n x := by
  induction n generalizing x with
  | zero => rfl
  | succ n ih =>
    rw [bytesOf, bytesOf, Nat.pow_succ, Nat.mul_comm (256 ^ n), Nat.mul_assoc, Nat.add_mul_div_left _ _ (by decide), ih]
    congr 1
    apply BitVec.eq_of_toNat_eq
    simp [Nat.add_mod]

theorem bytesOf_length (n x : Nat) : (bytesOf n x).length = n := by
  induction n generalizing x with
  | zero => rfl
  | succ n ih => rw [bytesOf, List.length_cons, ih]

/-- The fields of an exported record without entries. -/
theorem image_fields (d i g c : Nat) (hd : d < 2 ^ 384) (hi : i < 2 ^ 384) (hg : g < 2 ^ 768) (hc : c < 2 ^ 8192) :
    let x := (faultMagic + 2 ^ 64 + 2 ^ 192 + d * 2 ^ 256 + i * 2 ^ 640) + g * 2 ^ 1024 + c * 2 ^ 2048
    let f (lo n : Nat) := x / 2 ^ (8 * lo) % 2 ^ (8 * n)
    (f 0 8, f 8 4, f 12 4, f 224 32) = (faultMagic, 1, 0, 0) ∧ (f 32 48, f 80 48, f 128 96, f 256 1024) = (d, i, g, c) ∧
      x % 256 ^ 1280 = x := by
  have e : (256 : Nat) ^ 1280 = 2 ^ 10240 := by rw [show (256 : Nat) = 2 ^ 8 from rfl, ← Nat.pow_mul]
  simp only [faultMagic, Prod.mk.injEq, e]
  refine ⟨⟨?_, ?_, ?_, ?_⟩, ⟨?_, ?_, ?_, ?_⟩, ?_⟩ <;> omega

/-- R471: an exported record without entries, as its header, signature and certificate lay it out, is accepted. -/
theorem import_accepts (s : State) (d i g c h : Nat) (hd : d = (Config.sha384 []).toNat)
    (hi : i = (Config.identity s.host.keys.identity).toNat)
    (hc : c = (Config.certificate s.host.keys.identity s.host.keys.checkpoint).toNat)
    (hh : h = faultMagic + 2 ^ 64 + 2 ^ 192 + d * 2 ^ 256 + i * 2 ^ 640)
    (hg : g = (Config.signature s.host.keys.checkpoint 0 (bytesOf 128 h)).toNat)
    (hs : 0 < s.freeCtr) : s.importOk (bytesOf 1280 (h + g * 2 ^ 1024 + c * 2 ^ 2048)) = true := by
  have hdl : d < 2 ^ 384 := hd ▸ BitVec.isLt _
  have hil : i < 2 ^ 384 := hi ▸ BitVec.isLt _
  have hgl : g < 2 ^ 768 := hg ▸ BitVec.isLt _
  have hcl : c < 2 ^ 8192 := hc ▸ BitVec.isLt _
  have ht : (bytesOf 1280 (h + g * 2 ^ 1024 + c * 2 ^ 2048)).take 128 = bytesOf 128 h := by
    have e : h + g * 2 ^ 1024 + c * 2 ^ 2048 = h + 256 ^ 128 * (g + c * 2 ^ 1024) := by
      have : (256 : Nat) ^ 128 = 2 ^ 1024 := by rw [show (256 : Nat) = 2 ^ 8 from rfl, ← Nat.pow_mul]
      omega
    rw [show (1280 : Nat) = 128 + 1152 from rfl, bytesOf_take, e, bytesOf_low]
  have hv : s.certified (BitVec.ofNat 8192 c) (bytesOf 128 h) (BitVec.ofNat 768 g) = true := by
    rw [State.certified, Bool.or_eq_true]
    refine Or.inr (List.any_eq_true.mpr ⟨s.host.keys.checkpoint, by simp [Keys.signing], ?_⟩)
    rw [Bool.and_eq_true, State.madeBy]
    refine ⟨?_, List.any_eq_true.mpr ⟨0, List.mem_range.mpr hs, ?_⟩⟩
    · rw [hc, BitVec.ofNat_toNat]; simp
    · rw [hg, BitVec.ofNat_toNat]; simp
  obtain ⟨f, k, hx⟩ := image_fields d i g c hdl hil hgl hcl
  simp only [Prod.mk.injEq] at f k
  obtain ⟨f0, f8, f12, f224⟩ := f
  obtain ⟨f32, f80, f128, f256⟩ := k
  rw [← hh] at f0 f8 f12 f224 f32 f80 f128 f256 hx
  simp only [State.importOk, bytesOf_value, hx, bytesOf_length, ht]
  rw [f0, f8, f12, f32, f80, f128, f224, f256, hv, hd, hi, Nat.mul_zero, List.take_zero]
  simp

/-- nopState after one signature, with a FAULT_IMPORT of 1,280 bytes posted. -/
def importState : State := posted' { nopState with freeCtr := 1 } [(0, 15), (32, 1280)]

/-- R471: what a package exports before anything has failed is accepted where it is imported again. -/
theorem test_witness_FaultImport : ∃ image : List (BitVec 8), image.length = (command [(0, 15), (32, 1280)]).arg 32 8 ∧
    (Claims.took importState 0).importOk image = true :=
  ⟨_, (bytesOf_length _ _).trans (by decide +kernel),
    import_accepts _ _ _ _ _ _ rfl rfl rfl rfl rfl (by decide +kernel)⟩
end Sys2Proof.Tests
end

section
/-! PROOFS. Scalar arithmetic of one and two registers, and control transfer (R264, R265, R269-R271). -/

namespace Sys2Proof.Machine

/-! ### What the counting and reversing functions of Bits.lean give, bit by bit and byte by byte -/

theorem clz_le (n x : Nat) : clz n x ≤ n := by
  induction n with
  | zero => exact Nat.le_refl 0
  | succ n ih => rw [clz]; split <;> omega

/-- No bit at or above the first counted one is set. -/
theorem clz_above (n x i : Nat) (hi : i < n) (h : n - clz n x ≤ i) : x.testBit i = false := by
  induction n with
  | zero => omega
  | succ n ih =>
    rw [clz] at h
    split at h
    · omega
    · next hbit =>
      rcases Nat.lt_succ_iff_lt_or_eq.1 hi with hlt | rfl
      · exact ih hlt (by omega)
      · simp [Nat.testBit_eq_decide_div_mod_eq, hbit]

/-- The bit that ends the count is set. -/
theorem clz_ends (n x : Nat) (h : clz n x < n) : x.testBit (n - 1 - clz n x) = true := by
  induction n with
  | zero => omega
  | succ n ih =>
    rw [clz] at h ⊢
    split at h
    · next hbit => simp [hbit, Nat.testBit_eq_decide_div_mod_eq]
    · next hbit =>
      rw [if_neg hbit, show n + 1 - 1 - (1 + clz n x) = n - 1 - clz n x by omega]
      exact ih (by omega)

theorem ctz_le (n x : Nat) : ctz n x ≤ n := by
  induction n generalizing x with
  | zero => exact Nat.le_refl 0
  | succ n ih => rw [ctz]; have := ih (x / 2); split <;> omega

/-- No counted bit is set. -/
theorem ctz_below (n x i : Nat) (h : i < ctz n x) : x.testBit i = false := by
  induction n generalizing x i with
  | zero => simp [ctz] at h
  | succ n ih =>
    rw [ctz] at h
    split at h
    · omega
    · next hbit =>
      cases i with
      | zero => simp [Nat.testBit_zero, hbit]
      | succ i => rw [Nat.testBit_succ]; exact ih _ _ (by omega)

/-- The bit that ends the count is set. -/
theorem ctz_ends (n x : Nat) (h : ctz n x < n) : x.testBit (ctz n x) = true := by
  induction n generalizing x with
  | zero => omega
  | succ n ih =>
    rw [ctz] at h ⊢
    split at h
    · next hbit => simp [hbit, Nat.testBit_zero]
    · next hbit =>
      rw [if_neg hbit, Nat.add_comm, Nat.testBit_succ]
      exact ih _ (by omega)

theorem popCount_eq_length (n x : Nat) : popCount n x = ((List.range n).filter fun i => x.testBit i).length := by
  induction n generalizing x with
  | zero => rfl
  | succ n ih =>
    rw [popCount, ih, List.range_succ_eq_map, List.filter_cons, List.filter_map, Nat.testBit_zero]
    simp only [Function.comp_def, Nat.testBit_succ]
    rcases Nat.mod_two_eq_zero_or_one x with h | h <;> simp [h, Nat.add_comm]

theorem byteRev_lt (n x : Nat) : byteRev n x < 256 ^ n := by
  induction n generalizing x with
  | zero => exact Nat.one_pos
  | succ n ih =>
    have h := ih (x / 256)
    rw [byteRev, Nat.pow_succ]
    have : x % 256 * 256 ^ n ≤ 255 * 256 ^ n := Nat.mul_le_mul_right _ (by omega)
    omega

/-- Byte `i` of the reversal is byte `n - 1 - i`. -/
theorem byteRev_byte (n x i : Nat) (hi : i < n) :
    byteRev n x / 256 ^ i % 256 = x / 256 ^ (n - 1 - i) % 256 := by
  induction n generalizing x with
  | zero => omega
  | succ n ih =>
    rw [byteRev]
    rcases Nat.lt_succ_iff_lt_or_eq.1 hi with hlt | rfl
    · have hpow : 256 ^ n = 256 ^ i * (256 * 256 ^ (n - 1 - i)) := by
        rw [← Nat.pow_succ', ← Nat.pow_add]; congr 1; omega
      have hhigh : x % 256 * 256 ^ n = 256 ^ i * (256 * (x % 256 * 256 ^ (n - 1 - i))) := by rw [hpow]; ring
      rw [hhigh, Nat.mul_add_div (Nat.pow_pos (by decide)), Nat.mul_add_mod, ih _ hlt, Nat.div_div_eq_div_mul,
        ← Nat.pow_succ']
      congr 3; omega
    · rw [Nat.mul_comm, Nat.mul_add_div (Nat.pow_pos (by decide)), Nat.div_eq_of_lt (byteRev_lt _ _)]
      simp

theorem byteRev_word_toNat (x : Nat) : (BitVec.ofNat 64 (byteRev 8 x)).toNat = byteRev 8 x := by
  have hlt : byteRev 8 x < 2 ^ 64 := (byteRev_lt 8 x).trans_eq (by norm_num)
  rw [BitVec.toNat_ofNat, Nat.mod_eq_of_lt hlt]

theorem extract_byte_toNat {n : Nat} (x : BitVec n) (i : Nat) :
    (x.extractLsb' (8 * i) 8).toNat = x.toNat / 256 ^ i % 256 := by
  have hpow : 2 ^ (8 * i) = 256 ^ i := by rw [Nat.pow_mul]
  rw [BitVec.extractLsb'_toNat, Nat.shiftRight_eq_div_pow, hpow]

/-- BSWAP's word has the bytes of its operand in reverse order (R264). -/
theorem byteRev_extract (x : Word) (i : Nat) (hi : i < 8) :
    (BitVec.ofNat 64 (byteRev 8 x.toNat)).extractLsb' (8 * i) 8 = x.extractLsb' (8 * (7 - i)) 8 := by
  apply BitVec.eq_of_toNat_eq
  rw [extract_byte_toNat, extract_byte_toNat, byteRev_word_toNat]
  exact byteRev_byte 8 x.toNat i hi

/-! ### The words that the scalar forms compute, as R264 and R265 write them -/

theorem slt_ite {α : Type} (x y : Word) (t e : α) :
    (if x.slt y then t else e) = if x.toInt < y.toInt then t else e := by
  simp only [BitVec.slt_iff_toInt_lt]

theorem ult_ite {α : Type} (x y : Word) (t e : α) :
    (if x.ult y then t else e) = if x.toNat < y.toNat then t else e := by
  simp only [BitVec.ult_iff_toNat_lt]

theorem remS_eq (x y : Word) : remS x y = if y = 0 then x else BitVec.ofInt 64 (x.toInt.tmod y.toInt) := by
  rw [remS, Int.tmod_def]

theorem divN_eq (x y : Word) : divN x y = if y = 0 then BitVec.allOnes 64 else x / y := by
  rw [divN, BitVec.udiv_def]

theorem remN_eq (x y : Word) : remN x y = if y = 0 then x else x % y := by
  rw [remN, BitVec.umod_def]

theorem flag_beq (x y : Word) : flag (x == y) = if x = y then 1 else 0 := by
  simp only [flag, beq_iff_eq]

theorem bne_decide (x y : Word) : (x != y) = decide (x ≠ y) := by
  rw [bne, beq_eq_decide, decide_not]

theorem bnot_slt (x y : Word) : (!x.slt y) = decide (y.toInt ≤ x.toInt) := by
  rw [BitVec.slt, ← decide_not, decide_eq_decide, Int.not_lt]

theorem bnot_ult (x y : Word) : (!x.ult y) = decide (y.toNat ≤ x.toNat) := by
  rw [BitVec.ult, ← decide_not, decide_eq_decide, Nat.not_lt]

/-! ### The shared frames: a result written to one register, a branch and an indirect jump -/

/-- A form of two registers writes what it computes of them (R264). -/
theorem binary_writes {i : Instr} {s : State} {w : Warp} {d a b : SReg} {f : Word → Word → Word} {x : Word}
    (hi : exec i s = binary s d a b f) (h : Claims.Issues s w { reads := [a.val, b.val], writes := [d.val] })
    (hx : f (w.sget a) (w.sget b) = x) : Claims.Writes i s w d x := by
  obtain ⟨hw, hl, hb⟩ := h
  subst hx
  exact hi.trans (alu_eq s d [a, b] _ w hw hl hb)

/-- A form of one register writes what it computes of it (R264). -/
theorem unary_writes {i : Instr} {s : State} {w : Warp} {d a : SReg} {f : Word → Word}
    (hi : exec i s = unary s d a f) (h : Claims.Issues s w { reads := [a.val], writes := [d.val] }) :
    Claims.Writes i s w d (f (w.sget a)) := by
  obtain ⟨hw, hl, hb⟩ := h
  exact hi.trans (alu_eq s d [a] _ w hw hl hb)

/-- A branch goes to its target where its condition holds, else to the next instruction (R269). -/
theorem branch_goesTo {i : Instr} {s : State} {w : Warp} {a b : SReg} {m : BitVec 14} {c : Word → Word → Bool} {t : Bool}
    (hi : exec i s = branch s a b m c) (h : Claims.Issues s w { reads := [a.val, b.val] })
    (ht : c (w.sget a) (w.sget b) = t) :
    Claims.GoesTo i s w (if t then w.pc + 4 * m.signExtend 64 else w.pc + 4) := by
  obtain ⟨hw, hl, hb⟩ := h
  subst ht
  exact hi.trans (controlOp_eq s _ w _ hw hl hb)

/-- The warp after the link write of a transfer, where it makes one (R270, R271). -/
def Warp.linked (w : Warp) (link : Bool) : Warp := if link then w.sset 63 (w.pc + 4) else w

theorem field_low_two (x : Word) : field x 1 0 = x.toNat % 4 := by simp [field]

/-- A jump to a register's value goes there, with its link written; a target that is not a multiple of four raises
ALIGNMENT instead, and nothing is linked (R271). -/
theorem jumpTo_result {i : Instr} {s : State} {w : Warp} {a : SReg} {link : Bool} (hi : exec i s = jumpTo s a link)
    (h : Claims.Issues s w { reads := [a.val], writes := if link then [63] else [] }) :
    if (w.sget a).toNat % 4 = 0 then Claims.GoesTo i s (w.linked link) (w.sget a)
    else Claims.Stops i s w (.trap { cause := 0x11, addr := w.sget a }) := by
  obtain ⟨hw, hl, hb⟩ := h
  have hjump := hi.trans (controlOp_eq s _ w _ hw hl hb)
  by_cases hal : (w.sget a).toNat % 4 = 0
  · have hneed : need (field (w.sget a) 1 0 == 0) (alignment (w.sget a)) = .ok () := by
      simp [need, field_low_two, hal]
    rw [if_pos hal]
    simp only [hneed] at hjump
    exact hjump
  · have hneed : need (field (w.sget a) 1 0 == 0) (alignment (w.sget a)) = .error (alignment (w.sget a)) := by
      simp [need, field_low_two, hal]
    rw [if_neg hal]
    simp only [hneed] at hjump
    exact hjump

end Sys2Proof.Machine

namespace Sys2Proof.Claims
open Sys2Proof.Machine

theorem aluRegisterResults : AluRegisterResults := by
  intro s w d a b h
  exact ⟨binary_writes (exec_add d a b s) h rfl, binary_writes (exec_sub d a b s) h rfl,
    binary_writes (exec_mul d a b s) h rfl, binary_writes (exec_mulh d a b s) h rfl,
    binary_writes (exec_mulhn d a b s) h rfl, binary_writes (exec_div d a b s) h rfl,
    binary_writes (exec_divn d a b s) h (divN_eq _ _), binary_writes (exec_rem d a b s) h (remS_eq _ _),
    binary_writes (exec_remn d a b s) h (remN_eq _ _), binary_writes (exec_and d a b s) h rfl,
    binary_writes (exec_or d a b s) h rfl, binary_writes (exec_xor d a b s) h rfl,
    binary_writes (exec_andn d a b s) h rfl, binary_writes (exec_shl d a b s) h rfl,
    binary_writes (exec_shr d a b s) h rfl, binary_writes (exec_sra d a b s) h rfl,
    binary_writes (exec_ror d a b s) h rfl, binary_writes (exec_min d a b s) h (slt_ite ..),
    binary_writes (exec_minn d a b s) h (ult_ite ..), binary_writes (exec_max d a b s) h (slt_ite ..),
    binary_writes (exec_maxn d a b s) h (ult_ite ..), binary_writes (exec_slt d a b s) h (slt_ite ..),
    binary_writes (exec_sltn d a b s) h (ult_ite ..), binary_writes (exec_seq d a b s) h (flag_beq _ _)⟩

theorem aluUnaryResults : AluUnaryResults := by
  intro s w d a h x
  refine ⟨⟨clz 64 x.toNat, unary_writes (exec_clz d a s) h, clz_le _ _, fun i hi => ?_, clz_ends 64 x.toNat⟩,
    ⟨ctz 64 x.toNat, unary_writes (exec_ctz d a s) h, ctz_le _ _, ctz_below 64 x.toNat, ctz_ends 64 x.toNat⟩, ?_,
    ⟨_, unary_writes (exec_bswap d a s) h, byteRev_extract x⟩⟩
  · rcases Nat.lt_or_ge i 64 with hlt | hge
    · exact clz_above 64 x.toNat i hlt hi
    · exact BitVec.getLsbD_of_ge x i hge
  · have hpop := unary_writes (exec_popc d a s) h
    rwa [popCount_eq_length] at hpop

theorem branchResults : BranchResults := by
  intro s w a b m h
  exact ⟨branch_goesTo (exec_beq a b m s) h rfl, branch_goesTo (exec_bne a b m s) h (bne_decide ..),
    branch_goesTo (exec_blt a b m s) h rfl, branch_goesTo (exec_bge a b m s) h (bnot_slt ..),
    branch_goesTo (exec_bltn a b m s) h rfl, branch_goesTo (exec_bgen a b m s) h (bnot_ult ..)⟩

theorem jumpResults : JumpResults := by
  intro s w m a
  refine ⟨fun ⟨hw, hl, hb⟩ => ?_, fun ⟨hw, hl, hb⟩ => ?_, jumpTo_result (link := false) (exec_jr a s),
    jumpTo_result (link := true) (exec_callr a s), jumpTo_result (link := false) (a := 63) (exec_ret s)⟩
  · exact (exec_jmp m s).trans (controlOp_eq s _ w _ hw hl hb)
  · exact (exec_call m s).trans (controlOp_eq s _ w _ hw hl hb)

end Sys2Proof.Claims

/-- Settles O11: each form is one scalar frame (`alu_eq`) with the word of R264 or R265 in it. -/
theorem aluRegisterForms : Obligations.AluRegisterForms :=
  ⟨Sys2Proof.Claims.aluRegisterResults, Sys2Proof.Claims.aluUnaryResults⟩

/-- Settles O13: each transfer is one control frame (`controlOp_eq`) that leaves the pc of R269-R271. -/
theorem controlTransfers : Obligations.ControlTransfers :=
  ⟨Sys2Proof.Claims.branchResults, Sys2Proof.Claims.jumpResults⟩

end

section
/-! PROOFS. Predicate logic, the mask stack and the end of a lane block (R212, R316-R319). -/

namespace Sys2Proof.Machine

/-! ### The head block of a warp, replaced -/

theorem Warp.setHead_of_active (w : Warp) (x : Option Block) (h : w.active = true) :
    w.setHead x = { w with hblock := x } := if_pos h

theorem Warp.setHead_of_inactive (w : Warp) (x : Option Block) (h : w.active = false) :
    w.setHead x = { w with queue := x.toList ++ w.queue.tail } := by
  cases x <;> exact if_neg (Bool.eq_false_iff.1 h)

@[simp] theorem Warp.setHead_active (w : Warp) (x : Option Block) : (w.setHead x).active = w.active := by
  cases h : w.active with
  | true => rw [w.setHead_of_active x h]; exact h
  | false => rw [w.setHead_of_inactive x h]; exact h

/-- Of two blocks put at the head of a warp the second stays. -/
theorem Warp.setHead_setHead (w : Warp) (x y : Block) :
    (w.setHead (some x)).setHead (some y) = w.setHead (some y) := by
  cases h : w.active with
  | true =>
    rw [(w.setHead _).setHead_of_active _ (by rwa [Warp.setHead_active]), w.setHead_of_active _ h,
      w.setHead_of_active _ h]
  | false =>
    rw [(w.setHead _).setHead_of_inactive _ (by rwa [Warp.setHead_active]), w.setHead_of_inactive _ h,
      w.setHead_of_inactive _ h]
    rfl

theorem Warp.setHead_blocks_head (w : Warp) (x : Block) : (w.setHead (some x)).blocks.head? = some x := by
  cases h : w.active with
  | true => rw [Warp.blocks, Warp.setHead_active, if_pos h, w.setHead_of_active _ h]; rfl
  | false => rw [Warp.blocks, Warp.setHead_active, if_neg (Bool.eq_false_iff.1 h), w.setHead_of_inactive _ h]; rfl

theorem Warp.pset_blocks (w : Warp) (d : PReg) (m x : BitVec 32) : (w.pset d m x).blocks = w.blocks := by
  unfold Warp.pset
  split <;> rfl

/-- A change of the head block, as a write of the warp in focus. -/
theorem State.modHead_eq_setWarp (s : State) (k : Block → Block) (w : Warp) (b : Block) (hw : s.warp? s.cur = some w)
    (hb : w.blocks.head? = some b) : s.modHead k = s.setWarp s.cur (w.setHead (some (k b))) := by
  obtain ⟨r, hr⟩ := List.head?_eq_some_iff.1 hb
  rw [State.modHead, State.modWarp_eq_setWarp s s.cur _ w hw, hr]

/-- The lane stream goes on, and the head block's stack and place are then set: one write of that block. -/
theorem laneAdvance_modHead (s : State) (w : Warp) (b : Block) (st : List MaskEntry) (pc : Word)
    (hw : s.warp? s.cur = some w) (hb : w.blocks.head? = some b) :
    (s.laneAdvance.modHead fun y => { y with stack := st, lpc := pc + 12 }) =
      Claims.lanePast s w { b with stack := st, lpc := pc } := by
  have hadv : s.laneAdvance = s.setWarp s.cur (w.setHead (some b.advance)) :=
    s.modHead_eq_setWarp Block.advance w b hw hb
  have hw' := State.setWarp_warp?_same s s.cur w (w.setHead (some b.advance)) hw
  rw [hadv, State.modHead_eq_setWarp _ _ _ b.advance hw' (w.setHead_blocks_head _), State.setWarp_cur,
    State.setWarp_setWarp, Warp.setHead_setHead]
  rfl

/-! ### The frames of the instructions that act for all threads together -/

section
variable {s : State} {w : Warp} {b : Block} {op : Nat} {f : LaneFields}

/-- With no mismatch under way, the body decides (R461). -/
theorem laneAtOnce_eq (h : Claims.AtLane s w b op f) (body : Warp → Block → BitVec 32 → State) :
    laneAtOnce s op f body = .next (body w b (participants w b f)) := by
  obtain ⟨hw, hl, hb, hf, hr, -, -, hm⟩ := h
  have hnone : (threads (participants w b f)).find? s.mismatch = none :=
    List.find?_eq_none.2 fun i _ => by simp [State.mismatch_none s w b i hw hb hm]
  rw [laneAtOnce, laneOpFrame_eq s op f _ w b hw hl hb hf hr, hnone]

/-- A predicate form writes the participating threads' bits of pD (R316). -/
theorem predForm_eq (h : Claims.AtLane s w b op f) (k : BitVec 32 → BitVec 32 → BitVec 32) (d : PReg)
    (hd : f.dest = .p d) :
    predForm s op f k = .next
      (Claims.lanePast s (w.pset d (participants w b f) (k (w.predOf f.opa) (w.predOf f.opb))) b) := by
  rw [predForm, laneAtOnce_eq h]
  obtain ⟨hw, -, hb, -⟩ := h
  simp only [hd]
  rw [State.modWarp_eq_setWarp s s.cur _ w hw, laneAdvance_eq s _ w b hw (by rw [Warp.pset_blocks]; exact hb)]

/-- A mask instruction that finds what it needs leaves the head block with the stack and at the place it computes. -/
theorem maskForm_of_some (h : Claims.AtLane s w b op f) {k : Warp → Block → Option Block} {st : List MaskEntry} {pc : Word}
    (hk : k w b = some { b with stack := st, lpc := pc + 12 }) :
    maskForm s op f k = .next (Claims.lanePast s w { b with stack := st, lpc := pc }) := by
  rw [maskForm, laneAtOnce_eq h]
  obtain ⟨hw, -, hb, -⟩ := h
  simp only [hk]
  rw [laneAdvance_modHead s w b st pc hw hb]

/-- A mask instruction that does not, raises MASK_STACK at the lowest active thread. -/
theorem maskForm_of_none (h : Claims.AtLane s w b op f) {k : Warp → Block → Option Block} {e : MaskEntry}
    {r : List MaskEntry} (hs : b.stack = e :: r) (hk : k w b = none) :
    maskForm s op f k = .next (s.laneStop (lowest e.active) (.trap { cause := 0x01, reason := 0x01 })) := by
  rw [maskForm, laneAtOnce_eq h]
  simp only [hk, Block.active, hs]
  rfl

theorem execLNop_eq (h : Claims.AtLane s w b 0x0CE f) : execLNop f s = .next (Claims.lanePast s w b) := by
  rw [execLNop, laneAtOnce_eq h]
  obtain ⟨hw, -, hb, -⟩ := h
  rw [← laneAdvance_eq s w w b hw hb, State.setWarp_self s s.cur w hw]

/-- L.END on the base entry alone completes the block (R212). -/
theorem execLEnd_of_base (h : Claims.AtLane s w b 0x0CF f) {e : MaskEntry} (hs : b.stack = [e]) :
    execLEnd f s = .next (s.setWarp s.cur w.popBlock) := by
  rw [execLEnd, laneAtOnce_eq h]
  obtain ⟨hw, -⟩ := h
  simp only [hs, List.length_singleton, if_true]
  rw [State.modWarp_eq_setWarp s s.cur _ w hw]

/-- L.END on a deeper stack raises MASK_STACK (R212). -/
theorem execLEnd_of_deeper (h : Claims.AtLane s w b 0x0CF f) {e : MaskEntry} {r : List MaskEntry}
    (hs : b.stack = e :: r) (hr : r ≠ []) :
    execLEnd f s = .next (s.laneStop (lowest e.active) (.trap { cause := 0x01, reason := 0x01 })) := by
  rw [execLEnd, laneAtOnce_eq h]
  simp only [hs, List.length_cons, Nat.add_eq_right, List.length_eq_zero_iff, hr, if_false, Block.active]
  rfl

end

/-! ### What each mask instruction makes of the stack, on a stack with top entry `e` (R318) -/

section
variable {b : Block} {e : MaskEntry} {r : List MaskEntry}

theorem Block.active_of_stack (hs : b.stack = e :: r) : b.active = e.active := by
  rw [Block.active, hs]

theorem stack_full_iff (hs : b.stack = e :: r) : maskDepth ≤ b.stack.length ↔ 31 ≤ r.length := by
  rw [hs, List.length_cons, maskDepth]
  omega

theorem maskIf_pushes (m : BitVec 32) (hs : b.stack = e :: r) (hr : r.length < 31) :
    maskIf m b = some (b.next ({ active := e.active &&& m, elseMask := e.active &&& ~~~m, kind := .ifArm } :: e :: r)) := by
  rw [maskIf, if_neg (mt (stack_full_iff hs).1 (Nat.not_le.2 hr)), Block.active_of_stack hs, hs]

theorem maskIf_full (m : BitVec 32) (hs : b.stack = e :: r) (hr : 31 ≤ r.length) : maskIf m b = none :=
  if_pos ((stack_full_iff hs).2 hr)

theorem maskLoop_pushes (hs : b.stack = e :: r) (hr : r.length < 31) :
    maskLoop b = some (b.next
      ({ active := e.active, kind := .loop, start := BitVec.ofNat 62 ((b.lpc + 12).toNat / 4) } :: e :: r)) := by
  rw [maskLoop, if_neg (mt (stack_full_iff hs).1 (Nat.not_le.2 hr)), Block.active_of_stack hs, hs]

theorem maskLoop_full (hs : b.stack = e :: r) (hr : 31 ≤ r.length) : maskLoop b = none :=
  if_pos ((stack_full_iff hs).2 hr)

theorem maskElse_of_ifArm (hs : b.stack = e :: r) (hk : e.kind = .ifArm) :
    maskElse b = some (b.next ({ e with active := e.elseMask, elseMask := 0, kind := .elseArm } :: r)) := by
  simp only [maskElse, hs, hk, if_true]

theorem maskElse_of_other (hs : b.stack = e :: r) (hk : e.kind ≠ .ifArm) : maskElse b = none := by
  simp only [maskElse, hs, hk, if_false]

theorem maskEndif_of_arm (hs : b.stack = e :: r) (hk : e.kind = .ifArm ∨ e.kind = .elseArm) :
    maskEndif b = some (b.next r) := by
  simp only [maskEndif, hs, hk, if_true]

theorem maskEndif_of_other (hs : b.stack = e :: r) (hi : e.kind ≠ .ifArm) (he : e.kind ≠ .elseArm) :
    maskEndif b = none := by
  simp only [maskEndif, hs, hi, he, or_self, if_false]

theorem maskNext_pops (hs : b.stack = e :: r) (hk : e.kind = .loop) (ha : e.active = 0) :
    maskNext b = some (b.next r) := by
  simp only [maskNext, hs, hk, ha, if_true]

/-- With a thread still active the block goes back to START, written as a place 12 bytes before the next one. -/
theorem maskNext_goesBack (hs : b.stack = e :: r) (hk : e.kind = .loop) (ha : e.active ≠ 0) :
    maskNext b = some { b with lpc := BitVec.ofNat 64 (e.start.toNat * 4) - 12 + 12 } := by
  simp only [maskNext, hs, hk, ha, if_true, if_false, BitVec.sub_add_cancel]

theorem maskNext_of_other (hs : b.stack = e :: r) (hk : e.kind ≠ .loop) : maskNext b = none := by
  simp only [maskNext, hs, hk, if_false]

/-- A mask-stack entry without the threads of `m`. -/
def MaskEntry.without (m : BitVec 32) (e : MaskEntry) : MaskEntry :=
  { e with active := e.active &&& ~~~m, elseMask := e.elseMask &&& ~~~m }

theorem dropThreads_cons (m : BitVec 32) (x : MaskEntry) (l : List MaskEntry) :
    dropThreads m (x :: l) =
      if x.kind = .loop then some (x.without m :: l) else (dropThreads m l).map (x.without m :: ·) := rfl

theorem dropThreads_to_loop (m : BitVec 32) (up down : List MaskEntry) (x : MaskEntry) (hx : x.kind = .loop)
    (hup : ∀ y ∈ up, y.kind ≠ .loop) :
    dropThreads m (up ++ x :: down) = some ((up ++ [x]).map (MaskEntry.without m) ++ down) := by
  induction up with
  | nil => rw [List.nil_append, dropThreads_cons, if_pos hx]; rfl
  | cons y up ih =>
    obtain ⟨hy, hrest⟩ := List.forall_mem_cons.1 hup
    rw [List.cons_append, dropThreads_cons, if_neg hy, ih hrest]
    rfl

theorem dropThreads_no_loop (m : BitVec 32) (l : List MaskEntry) (hl : ∀ x ∈ l, x.kind ≠ .loop) :
    dropThreads m l = none := by
  induction l with
  | nil => rfl
  | cons x l ih =>
    obtain ⟨hx, hrest⟩ := List.forall_mem_cons.1 hl
    rw [dropThreads_cons, if_neg hx, ih hrest]
    rfl

theorem maskBrk_to_loop (m : BitVec 32) {up down : List MaskEntry} {x : MaskEntry} (hs : b.stack = e :: r)
    (hsplit : e :: r = up ++ x :: down) (hx : x.kind = .loop) (hup : ∀ y ∈ up, y.kind ≠ .loop) :
    maskBrk m b = some (b.next ((up ++ [x]).map (MaskEntry.without (e.active &&& m)) ++ down)) := by
  rw [maskBrk, Block.active_of_stack hs, hs, hsplit, dropThreads_to_loop _ up down x hx hup]
  rfl

theorem maskBrk_no_loop (m : BitVec 32) (hs : b.stack = e :: r) (hl : ∀ x ∈ e :: r, x.kind ≠ .loop) :
    maskBrk m b = none := by
  rw [maskBrk, hs, dropThreads_no_loop _ _ hl]
  rfl

end

end Sys2Proof.Machine

namespace Sys2Proof.Claims
open Sys2Proof.Machine

theorem laneMaskResults : LaneMaskResults := by
  intro s w b f e r part p q at' stack logic
  refine ⟨fun ⟨h, _⟩ d => predForm_eq h (· &&& ·) d, fun ⟨h, _⟩ d => predForm_eq h (· ||| ·) d,
    fun ⟨h, _⟩ d => predForm_eq h (· ^^^ ·) d, fun ⟨h, _⟩ d => predForm_eq h (fun a _ => ~~~a) d,
    fun ⟨h, hs⟩ hr => maskForm_of_some h (maskIf_pushes p hs hr),
    fun ⟨h, hs⟩ hk => maskForm_of_some h (maskElse_of_ifArm hs hk),
    fun ⟨h, hs⟩ hk => maskForm_of_some h (maskEndif_of_arm hs hk),
    fun ⟨h, hs⟩ hr => maskForm_of_some h (maskLoop_pushes hs hr),
    fun up x down ⟨h, hs⟩ hsplit hx hup => maskForm_of_some h (maskBrk_to_loop p hs hsplit hx hup),
    fun ⟨h, hs⟩ hk ha => maskForm_of_some h (maskNext_pops hs hk ha),
    fun ⟨h, hs⟩ hk ha => maskForm_of_some h (maskNext_goesBack hs hk ha), fun ⟨h, _⟩ => execLNop_eq h, ?_, ?_⟩
  · rintro ⟨h, hs⟩ rfl hact
    rw [exec_lEnd, execLEnd_of_base h hs, Warp.popBlock, if_neg (Bool.eq_false_iff.1 hact)]
  · rintro ⟨h, hs⟩ rfl hact
    rw [exec_lEnd, execLEnd_of_base h hs, Warp.popBlock, if_pos hact]

theorem maskStackTraps : MaskStackTraps := by
  intro s w b f e r at' traps
  exact ⟨fun ⟨h, hs⟩ hr => maskForm_of_none h hs (maskIf_full _ hs hr),
    fun ⟨h, hs⟩ hr => maskForm_of_none h hs (maskLoop_full hs hr),
    fun ⟨h, hs⟩ hk => maskForm_of_none h hs (maskElse_of_other hs hk),
    fun ⟨h, hs⟩ hi he => maskForm_of_none h hs (maskEndif_of_other hs hi he),
    fun ⟨h, hs⟩ hk => maskForm_of_none h hs (maskNext_of_other hs hk),
    fun ⟨h, hs⟩ hl => maskForm_of_none h hs (maskBrk_no_loop _ hs hl),
    fun ⟨h, hs⟩ hr => execLEnd_of_deeper h hs hr⟩

end Sys2Proof.Claims

/-- Settles O20: each form is one frame for all threads together (`predForm_eq`, `maskForm_of_some`, `maskForm_of_none`)
around what the instruction makes of the head block's stack. -/
theorem laneMasks : Obligations.LaneMasks :=
  ⟨Sys2Proof.Claims.laneMaskResults, Sys2Proof.Claims.maskStackTraps⟩

end

section
/-! PROOFS. Decode of encode, for scalar words (R239-R243) and for the three words of a lane instruction (R244-R251). -/

namespace Sys2Proof

/-! ### The fields of a word that is a sum of fields -/

/-- A field below the lowest bit of the last summand does not see it. -/
theorem fld_add_above {w a l lo n : Nat} (h : lo + n ≤ l) : fld (w + a * 2 ^ l) lo n = fld w lo n := by
  obtain ⟨k, rfl⟩ := Nat.exists_eq_add_of_le h
  have hsplit : w + a * 2 ^ (lo + n + k) = w + 2 ^ lo * (2 ^ n * (a * 2 ^ k)) := by ring
  rw [fld, fld, hsplit, Nat.add_mul_div_left _ _ (Nat.two_pow_pos lo), Nat.add_mul_mod_self_left]

/-- A field above the last summand does not see it, where the bits below the field do not carry into it. -/
theorem fld_add_below {w a l lo n : Nat} (h : w % 2 ^ lo + a * 2 ^ l < 2 ^ lo) :
    fld (w + a * 2 ^ l) lo n = fld w lo n := by
  have hdiv : (w + a * 2 ^ l) / 2 ^ lo = w / 2 ^ lo := by
    conv_lhs => rw [← Nat.div_add_mod w (2 ^ lo), Nat.add_assoc]
    rw [Nat.mul_add_div (Nat.two_pow_pos lo), Nat.div_eq_of_lt h, Nat.add_zero]
  rw [fld, fld, hdiv]

/-- The field of the last summand holds its value, where the rest of the word leaves the field empty. -/
theorem fld_add_same {w a l n : Nat} (hw : w / 2 ^ l % 2 ^ n = 0) (ha : a < 2 ^ n) : fld (w + a * 2 ^ l) l n = a := by
  rw [fld, Nat.add_mul_div_right _ _ (Nat.two_pow_pos l), Nat.add_mod, hw, Nat.zero_add, Nat.mod_mod,
    Nat.mod_eq_of_lt ha]

theorem fin_eq_fld (k w lo : Nat) [NeZero (2 ^ k)] : fin (2 ^ k) w lo = Fin.ofNat (2 ^ k) (fld w lo k) := by
  simp [fin, fld, Fin.ofNat]

theorem fin_four (w lo : Nat) : fin 4 w lo = Fin.ofNat 4 (fld w lo 2) := fin_eq_fld 2 w lo
theorem fin_eight (w lo : Nat) : fin 8 w lo = Fin.ofNat 8 (fld w lo 3) := fin_eq_fld 3 w lo
theorem fin_sixteen (w lo : Nat) : fin 16 w lo = Fin.ofNat 16 (fld w lo 4) := fin_eq_fld 4 w lo
theorem fin_sixtyFour (w lo : Nat) : fin 64 w lo = Fin.ofNat 64 (fld w lo 6) := fin_eq_fld 6 w lo

theorem bv_eq_fld (n w lo : Nat) : bv n w lo = BitVec.ofNat n (fld w lo n) := by
  simp [bv, fld, ← BitVec.toNat_inj]

theorem ofNat_toNat_self {n : Nat} (x : BitVec n) : BitVec.ofNat n x.toNat = x := by simp

/-! ### The codes of R117, R241, R245, R246 and R248 -/

theorem Scope.code_lt (c : Scope) : c.code < 7 := by cases c <;> decide
theorem MemOrd.code_lt (o : MemOrd) : o.code < 6 := by cases o <;> decide
theorem MemSize.code_lt (z : MemSize) : z.code < 7 := by cases z <;> decide
theorem LType.code_lt (t : LType) : t.code < 22 := by cases t <;> decide

theorem decodeScope_code (c : Scope) : decodeScope c.code = some c := by cases c <;> rfl
theorem decodeOrd_code (o : MemOrd) : decodeOrd o.code = some o := by cases o <;> rfl
theorem decodeSize_code (z : MemSize) : decodeSize z.code = some z := by cases z <;> rfl
theorem decodeLType_code (t : LType) : decodeLType t.code = some t := by cases t <;> rfl

theorem withScope_eq (w : Nat) (k : Scope → Except DecodeReason Instr) :
    withScope w k = (decodeScope (fld w 11 3)).elim (.error .reservedCode) k := by
  rw [withScope]; cases decodeScope (fld w 11 3) <;> rfl

theorem withOrd_eq (w : Nat) (k : MemOrd → Except DecodeReason Instr) :
    withOrd w k = (decodeOrd (fld w 8 3)).elim (.error .reservedCode) k := by
  rw [withOrd]; cases decodeOrd (fld w 8 3) <;> rfl

theorem withSize_eq (w lo : Nat) (k : MemSize → Except DecodeReason Instr) :
    withSize w lo k = (decodeSize (fld w lo 3)).elim (.error .reservedCode) k := by
  rw [withSize]; cases decodeSize (fld w lo 3) <;> rfl

theorem ifZero_true (i : Instr) : ifZero true i = .ok i := rfl

theorem ofNat_val_self {n : Nat} [NeZero n] (a : Fin n) : Fin.ofNat n a.val = a := Fin.ext (Nat.mod_eq_of_lt a.isLt)

/-- A field of a literal, by operations that leave the powers of two in a sum of fields alone. -/
theorem fld_lit (k lo n : Nat) : fld (no_index (OfNat.ofNat k)) lo n = (OfNat.ofNat k : Nat) >>> lo % 1 <<< n := by
  rw [fld, Nat.shiftRight_eq_div_pow, Nat.one_shiftLeft]

/-! ### Scalar words, group by group of the opcode map (R242, R243) -/

/-- Decoding the word of `i` gives `i` back. -/
def Instr.RoundTrips (i : Instr) : Prop := ∀ x, encodeScalar i = some x → decodeScalar x = .ok i

theorem aluArithmetic_roundTrips (d a b : SReg) :
    ∀ i ∈ ([.add d a b, .sub d a b, .mul d a b, .mulh d a b, .mulhn d a b, .div d a b, .divn d a b, .rem d a b, .remn d a b,
      .and d a b, .or d a b, .xor d a b] : List Instr),
      i.RoundTrips := by
  intro i hi x h
  fin_cases hi <;>
    · obtain rfl := Option.some.inj h
      simp (disch := omega) only [decodeScalar, decodeAlu, fin_sixtyFour, fld_add_above, fld_add_below, fld_add_same,
      fld_lit, ofNat_val_self, Nat.reduceShiftLeft, Nat.reduceShiftRight, Nat.reduceMod]

theorem aluShiftCompare_roundTrips (d a b : SReg) :
    ∀ i ∈ ([.andn d a b, .shl d a b, .shr d a b, .sra d a b, .ror d a b, .min d a b, .minn d a b, .max d a b, .maxn d a b,
      .slt d a b, .sltn d a b, .seq d a b] : List Instr),
      i.RoundTrips := by
  intro i hi x h
  fin_cases hi <;>
    · obtain rfl := Option.some.inj h
      simp (disch := omega) only [decodeScalar, decodeAlu, fin_sixtyFour, fld_add_above, fld_add_below, fld_add_same,
      fld_lit, ofNat_val_self, Nat.reduceShiftLeft, Nat.reduceShiftRight, Nat.reduceMod]

theorem aluUnary_roundTrips (d a : SReg) :
    ∀ i ∈ ([.clz d a, .ctz d a, .popc d a, .bswap d a] : List Instr),
      i.RoundTrips := by
  intro i hi x h
  fin_cases hi <;>
    · obtain rfl := Option.some.inj h
      simp (disch := omega) only [decodeScalar, decodeAlu, fin_sixtyFour, ifZero_true, beq_self_eq_true,
      fld_add_above, fld_add_below, fld_add_same, fld_lit, ofNat_val_self, Nat.reduceShiftLeft, Nat.reduceShiftRight,
      Nat.reduceMod]

theorem imm14_roundTrips (d a : SReg) (m : BitVec 14) :
    ∀ i ∈ ([.addi d a m, .andi d a m, .ori d a m, .xori d a m, .slti d a m, .beq d a m, .bne d a m, .blt d a m, .bge d a m,
      .bltn d a m, .bgen d a m] : List Instr),
      i.RoundTrips := by
  intro i hi x h
  fin_cases hi <;>
    · obtain rfl := Option.some.inj h
      simp (disch := omega) only [decodeScalar, fin_sixtyFour, bv_eq_fld, ofNat_toNat_self, fld_add_below,
      fld_add_same, fld_lit, ofNat_val_self, Nat.reduceShiftLeft, Nat.reduceShiftRight, Nat.reduceMod]

theorem shiftImm_roundTrips (d a : SReg) (n : Fin 64) :
    ∀ i ∈ ([.shli d a n, .shri d a n, .srai d a n, .rori d a n] : List Instr),
      i.RoundTrips := by
  intro i hi x h
  fin_cases hi <;>
    · obtain rfl := Option.some.inj h
      simp (disch := omega) only [decodeScalar, fin_sixtyFour, ifZero_true, beq_self_eq_true, fld_add_above,
      fld_add_below, fld_add_same, fld_lit, ofNat_val_self, Nat.reduceShiftLeft, Nat.reduceShiftRight, Nat.reduceMod]

theorem imm20_roundTrips (d : SReg) (m : BitVec 20) :
    ∀ i ∈ ([.movi d m, .movk d m, .adr d m, .laneRun d m] : List Instr),
      i.RoundTrips := by
  intro i hi x h
  fin_cases hi <;>
    · obtain rfl := Option.some.inj h
      simp (disch := omega) only [decodeScalar, fin_sixtyFour, bv_eq_fld, ofNat_toNat_self, fld_add_below,
      fld_add_same, fld_lit, ofNat_val_self, Nat.reduceShiftLeft, Nat.reduceShiftRight, Nat.reduceMod]

theorem imm26_roundTrips (m : BitVec 26) :
    ∀ i ∈ ([.jmp m, .call m] : List Instr),
      i.RoundTrips := by
  intro i hi x h
  fin_cases hi <;>
    · obtain rfl := Option.some.inj h
      simp (disch := omega) only [decodeScalar, bv_eq_fld, ofNat_toNat_self, fld_add_below, fld_add_same, fld_lit,
      Nat.reduceShiftLeft, Nat.reduceShiftRight, Nat.reduceMod]

theorem indirect_roundTrips (a : SReg) :
    ∀ i ∈ ([.jr a, .callr a, .ret] : List Instr),
      i.RoundTrips := by
  intro i hi x h
  fin_cases hi <;>
    · obtain rfl := Option.some.inj h
      simp (disch := omega) only [decodeScalar, decodeIndirect, fin_sixtyFour, ifZero_true, beq_self_eq_true,
      Bool.and_self, fld_add_above, fld_add_below, fld_add_same, fld_lit, ofNat_val_self, Nat.reduceShiftLeft,
      Nat.reduceShiftRight, Nat.reduceMod]

theorem loadStore_roundTrips (d a : SReg) (z : MemSize) (m : BitVec 11) :
    ∀ i ∈ ([.ld d a z m, .st d a z m, .lds d a z m, .sts d a z m] : List Instr),
      i.RoundTrips := by
  intro i hi x h
  have hz := z.code_lt
  fin_cases hi <;>
    · obtain rfl := Option.some.inj h
      simp (disch := omega) only [decodeScalar, fin_sixtyFour, bv_eq_fld, ofNat_toNat_self, withSize_eq,
      decodeSize_code, Option.elim_some, fld_add_below, fld_add_same, fld_lit, ofNat_val_self, Nat.reduceShiftLeft,
      Nat.reduceShiftRight, Nat.reduceMod]

theorem ordered_roundTrips (d a : SReg) (c : Scope) (o : MemOrd) (z : MemSize) :
    ∀ i ∈ ([.ldOrd d a c o z, .stOrd d a c o z, .ldOrdSp d a c o z, .stOrdSp d a c o z] : List Instr),
      i.RoundTrips := by
  intro i hi x h
  have hc := c.code_lt
  have ho := o.code_lt
  have hz := z.code_lt
  fin_cases hi <;>
    · obtain rfl := Option.some.inj h
      simp (disch := omega) only [decodeScalar, decodeOrdered, decodeOrderedSp, fin_sixtyFour, withScope_eq,
      withOrd_eq, withSize_eq, decodeScope_code, decodeOrd_code, decodeSize_code, Option.elim_some, fld_add_above,
      fld_add_below, fld_add_same, fld_lit, ofNat_val_self, Nat.reduceShiftLeft, Nat.reduceShiftRight, Nat.reduceMod]

theorem atom_roundTrips (d a : SReg) (c : Scope) (o : MemOrd) (z : MemSize) :
    ∀ i ∈ ([.atomAdd d a c o z, .atomSub d a c o z, .atomMin d a c o z, .atomMinn d a c o z, .atomMax d a c o z,
      .atomMaxn d a c o z, .atomAnd d a c o z, .atomOr d a c o z, .atomXor d a c o z, .atomXchg d a c o z,
      .atomCas d a c o z] : List Instr),
      i.RoundTrips := by
  intro i hi x h
  have hc := c.code_lt
  have ho := o.code_lt
  have hz := z.code_lt
  fin_cases hi <;>
    · obtain rfl := Option.some.inj h
      simp (disch := omega) only [decodeScalar, decodeAtom, fin_sixtyFour, withScope_eq, withOrd_eq, withSize_eq,
      decodeScope_code, decodeOrd_code, decodeSize_code, Option.elim_some, fld_add_above, fld_add_below, fld_add_same,
      fld_lit, ofNat_val_self, Nat.reduceShiftLeft, Nat.reduceShiftRight, Nat.reduceMod]

theorem atomSp_roundTrips (d a : SReg) (c : Scope) (o : MemOrd) (z : MemSize) :
    ∀ i ∈ ([.atomAddSp d a c o z, .atomSubSp d a c o z, .atomMinSp d a c o z, .atomMinnSp d a c o z, .atomMaxSp d a c o z,
      .atomMaxnSp d a c o z, .atomAndSp d a c o z, .atomOrSp d a c o z, .atomXorSp d a c o z, .atomXchgSp d a c o z,
      .atomCasSp d a c o z] : List Instr),
      i.RoundTrips := by
  intro i hi x h
  have hc := c.code_lt
  have ho := o.code_lt
  have hz := z.code_lt
  fin_cases hi <;>
    · obtain rfl := Option.some.inj h
      simp (disch := omega) only [decodeScalar, decodeAtomSp, fin_sixtyFour, withScope_eq, withOrd_eq, withSize_eq,
      decodeScope_code, decodeOrd_code, decodeSize_code, Option.elim_some, fld_add_above, fld_add_below, fld_add_same,
      fld_lit, ofNat_val_self, Nat.reduceShiftLeft, Nat.reduceShiftRight, Nat.reduceMod]

theorem sync_roundTrips (d a : SReg) (c : Scope) (o : MemOrd) :
    ∀ i ∈ ([.fence c o, .rel d a c, .relAdd d a c, .acq d a c, .relSp d a c, .relAddSp d a c, .acqSp d a c, .barArr a c,
      .barWait a c, .barSync a c, .monArm a, .monArmSp a, .monWait a, .quiesceWait c, .laneSync c] : List Instr),
      i.RoundTrips := by
  intro i hi x h
  have hc := c.code_lt
  have ho := o.code_lt
  fin_cases hi <;>
    · obtain rfl := Option.some.inj h
      simp (disch := omega) only [decodeScalar, decodeSync, ifZero_true, beq_self_eq_true, Bool.and_self,
      fin_sixtyFour, withScope_eq, withOrd_eq, decodeScope_code, decodeOrd_code, Option.elim_some, fld_add_above,
      fld_add_below, fld_add_same, fld_lit, ofNat_val_self, Nat.reduceShiftLeft, Nat.reduceShiftRight, Nat.reduceMod]

theorem remote_roundTrips (d a : SReg) (k : KReg) (z : MemSize) :
    ∀ i ∈ ([.rld d a k z, .rst d a k z, .rstRelSys d a k z, .ratomAdd d a k z, .ratomAnd d a k z, .ratomOr d a k z,
      .ratomXor d a k z, .ratomXchg d a k z, .ratomCas d a k z] : List Instr),
      i.RoundTrips := by
  intro i hi x h
  have hz := z.code_lt
  fin_cases hi <;>
    · obtain rfl := Option.some.inj h
      simp (disch := omega) only [decodeScalar, decodeRemote, ifZero_true, beq_self_eq_true, fin_sixtyFour, fin_eight,
      withSize_eq, decodeSize_code, Option.elim_some, if_true, fld_add_above, fld_add_below, fld_add_same, fld_lit,
      ofNat_val_self, Nat.reduceShiftLeft, Nat.reduceShiftRight, Nat.reduceMod]

theorem cap_roundTrips (k l : KReg) (a : SReg) (n : Fin 64) :
    ∀ i ∈ ([.capLd k a, .capSt a k, .capMint k a, .capBound k l a, .capPerm k l a, .capRead a k n, .capMov k l] : List Instr),
      i.RoundTrips := by
  intro i hi x h
  fin_cases hi <;>
    · obtain rfl := Option.some.inj h
      simp (disch := omega) only [decodeScalar, decodeCap, ifZero_true, beq_self_eq_true, Bool.and_self,
      fin_sixtyFour, fin_eight, fld_add_above, fld_add_below, fld_add_same, fld_lit, ofNat_val_self,
      Nat.reduceShiftLeft, Nat.reduceShiftRight, Nat.reduceMod]

theorem engine_roundTrips (d a b : SReg) (q : Fin 4) (m : BitVec 6) :
    ∀ i ∈ ([.xferPost a q, .xferCond a q, .xferBulk a q, .gatherPost a, .qfence m, .lwInit a b, .lwWait a b, .lwRead d a,
      .spMap d a b, .spUnmap a] : List Instr),
      i.RoundTrips := by
  intro i hi x h
  fin_cases hi <;>
    · obtain rfl := Option.some.inj h
      simp (disch := omega) only [decodeScalar, decodeEngine, ifZero_true, beq_self_eq_true, Bool.and_self,
      fin_sixtyFour, fin_four, bv_eq_fld, ofNat_toNat_self, fld_add_above, fld_add_below, fld_add_same, fld_lit,
      ofNat_val_self, Nat.reduceShiftLeft, Nat.reduceShiftRight, Nat.reduceMod]

theorem affine_roundTrips (n : AReg) (a b : SReg) :
    ∀ i ∈ ([.amov n a b, .abase n a, .astride n a, .aadd n a, .aread a n, .asread a n] : List Instr),
      i.RoundTrips := by
  intro i hi x h
  fin_cases hi <;>
    · obtain rfl := Option.some.inj h
      simp (disch := omega) only [decodeScalar, decodeAffine, ifZero_true, beq_self_eq_true, Bool.and_self,
      fin_sixtyFour, fin_sixteen, fld_add_above, fld_add_below, fld_add_same, fld_lit, ofNat_val_self,
      Nat.reduceShiftLeft, Nat.reduceShiftRight, Nat.reduceMod]

theorem control_roundTrips (d : SReg) (m : BitVec 12) :
    ∀ i ∈ ([.mfcr d m, .mtcr d m] : List Instr),
      i.RoundTrips := by
  intro i hi x h
  fin_cases hi <;>
    · obtain rfl := Option.some.inj h
      simp (disch := omega) only [decodeScalar, decodeControl, fin_sixtyFour, bv_eq_fld, ofNat_toNat_self,
      fld_add_above, fld_add_below, fld_add_same, fld_lit, ofNat_val_self, Nat.reduceShiftLeft, Nat.reduceShiftRight,
      Nat.reduceMod]

theorem misc_roundTrips (a b : SReg) (n : Fin 4) (m : BitVec 8) :
    ∀ i ∈ ([.nop, .exit, .regGrow n, .regShrink, .stkChk a, .ipf a, .pfd a, .trap m, .trapRet, .launch a b] : List Instr),
      i.RoundTrips := by
  intro i hi x h
  fin_cases hi <;>
    · obtain rfl := Option.some.inj h
      simp (disch := omega) only [decodeScalar, decodeMisc, ifZero_true, beq_self_eq_true, Bool.and_self,
      fin_sixtyFour, fin_four, bv_eq_fld, ofNat_toNat_self, fld_add_above, fld_add_below, fld_add_same, fld_lit,
      ofNat_val_self, Nat.reduceShiftLeft, Nat.reduceShiftRight, Nat.reduceMod]

theorem system_roundTrips (d a : SReg) :
    ∀ i ∈ ([.sysMbox d a, .sysWbinv] : List Instr),
      i.RoundTrips := by
  intro i hi x h
  fin_cases hi <;>
    · obtain rfl := Option.some.inj h
      simp (disch := omega) only [decodeScalar, decodeSystem, ifZero_true, beq_self_eq_true, fin_sixtyFour,
      fld_add_above, fld_add_below, fld_add_same, fld_lit, ofNat_val_self, Nat.reduceShiftLeft, Nat.reduceShiftRight,
      Nat.reduceMod]

theorem matrix_roundTrips (d a b : SReg) (t u : TReg) (c : CReg) :
    ∀ i ∈ ([.ttSet d a b, .ttClr a, .ttRead a b, .mxLdt t a b, .mxLds t a, .mxZeroT t, .mxZeroC c, .mxMma c t u,
      .mxMmag c t u, .mxGang d a b, .mxDrain c a b, .mxMode c a, .witSeed a, .witEmit a] : List Instr),
      i.RoundTrips := by
  intro i hi x h
  fin_cases hi <;>
    · obtain rfl := Option.some.inj h
      simp (disch := omega) only [decodeScalar, decodeMatrix, ifZero_true, beq_self_eq_true, Bool.and_self,
      fin_sixtyFour, fin_sixteen, fin_four, fld_add_above, fld_add_below, fld_add_same, fld_lit, ofNat_val_self,
      Nat.reduceShiftLeft, Nat.reduceShiftRight, Nat.reduceMod]

theorem Instr.roundTrips_of_encodes (i : Instr) : i.RoundTrips := by
  cases i with
  | add d a b | sub d a b | mul d a b | mulh d a b | mulhn d a b | div d a b | divn d a b | rem d a b | remn d a b
    | and d a b | or d a b | xor d a b =>
    exact aluArithmetic_roundTrips d a b _ (by simp)
  | andn d a b | shl d a b | shr d a b | sra d a b | ror d a b | min d a b | minn d a b | max d a b | maxn d a b
    | slt d a b | sltn d a b | seq d a b =>
    exact aluShiftCompare_roundTrips d a b _ (by simp)
  | clz d a | ctz d a | popc d a | bswap d a =>
    exact aluUnary_roundTrips d a _ (by simp)
  | addi d a m | andi d a m | ori d a m | xori d a m | slti d a m | beq d a m | bne d a m | blt d a m | bge d a m
    | bltn d a m | bgen d a m =>
    exact imm14_roundTrips d a m _ (by simp)
  | shli d a n | shri d a n | srai d a n | rori d a n =>
    exact shiftImm_roundTrips d a n _ (by simp)
  | movi d m | movk d m | adr d m | laneRun d m =>
    exact imm20_roundTrips d m _ (by simp)
  | jmp m | call m =>
    exact imm26_roundTrips m _ (by simp)
  | jr a => exact indirect_roundTrips a _ (by simp)
  | callr a => exact indirect_roundTrips a _ (by simp)
  | ret => exact indirect_roundTrips 0 _ (by simp)
  | ld d a z m | st d a z m | lds d a z m | sts d a z m =>
    exact loadStore_roundTrips d a z m _ (by simp)
  | ldOrd d a c o z | stOrd d a c o z | ldOrdSp d a c o z | stOrdSp d a c o z =>
    exact ordered_roundTrips d a c o z _ (by simp)
  | atomAdd d a c o z | atomSub d a c o z | atomMin d a c o z | atomMinn d a c o z | atomMax d a c o z
    | atomMaxn d a c o z | atomAnd d a c o z | atomOr d a c o z | atomXor d a c o z | atomXchg d a c o z
    | atomCas d a c o z =>
    exact atom_roundTrips d a c o z _ (by simp)
  | atomAddSp d a c o z | atomSubSp d a c o z | atomMinSp d a c o z | atomMinnSp d a c o z | atomMaxSp d a c o z
    | atomMaxnSp d a c o z | atomAndSp d a c o z | atomOrSp d a c o z | atomXorSp d a c o z | atomXchgSp d a c o z
    | atomCasSp d a c o z =>
    exact atomSp_roundTrips d a c o z _ (by simp)
  | fence c o => exact sync_roundTrips 0 0 c o _ (by simp)
  | rel d a c => exact sync_roundTrips d a c .plain _ (by simp)
  | relAdd d a c => exact sync_roundTrips d a c .plain _ (by simp)
  | acq d a c => exact sync_roundTrips d a c .plain _ (by simp)
  | relSp d a c => exact sync_roundTrips d a c .plain _ (by simp)
  | relAddSp d a c => exact sync_roundTrips d a c .plain _ (by simp)
  | acqSp d a c => exact sync_roundTrips d a c .plain _ (by simp)
  | barArr a c => exact sync_roundTrips 0 a c .plain _ (by simp)
  | barWait a c => exact sync_roundTrips 0 a c .plain _ (by simp)
  | barSync a c => exact sync_roundTrips 0 a c .plain _ (by simp)
  | monArm a => exact sync_roundTrips 0 a .thread .plain _ (by simp)
  | monArmSp a => exact sync_roundTrips 0 a .thread .plain _ (by simp)
  | monWait a => exact sync_roundTrips 0 a .thread .plain _ (by simp)
  | quiesceWait c => exact sync_roundTrips 0 0 c .plain _ (by simp)
  | laneSync c => exact sync_roundTrips 0 0 c .plain _ (by simp)
  | rld d a k z | rst d a k z | rstRelSys d a k z | ratomAdd d a k z | ratomAnd d a k z | ratomOr d a k z
    | ratomXor d a k z | ratomXchg d a k z | ratomCas d a k z =>
    exact remote_roundTrips d a k z _ (by simp)
  | capLd k a => exact cap_roundTrips k 0 a 0 _ (by simp)
  | capSt a k => exact cap_roundTrips k 0 a 0 _ (by simp)
  | capMint k a => exact cap_roundTrips k 0 a 0 _ (by simp)
  | capBound k l a => exact cap_roundTrips k l a 0 _ (by simp)
  | capPerm k l a => exact cap_roundTrips k l a 0 _ (by simp)
  | capRead a k n => exact cap_roundTrips k 0 a n _ (by simp)
  | capMov k l => exact cap_roundTrips k l 0 0 _ (by simp)
  | xferPost a q => exact engine_roundTrips 0 a 0 q 0 _ (by simp)
  | xferCond a q => exact engine_roundTrips 0 a 0 q 0 _ (by simp)
  | xferBulk a q => exact engine_roundTrips 0 a 0 q 0 _ (by simp)
  | gatherPost a => exact engine_roundTrips 0 a 0 0 0 _ (by simp)
  | qfence m => exact engine_roundTrips 0 0 0 0 m _ (by simp)
  | lwInit a b => exact engine_roundTrips 0 a b 0 0 _ (by simp)
  | lwWait a b => exact engine_roundTrips 0 a b 0 0 _ (by simp)
  | lwRead d a => exact engine_roundTrips d a 0 0 0 _ (by simp)
  | spMap d a b => exact engine_roundTrips d a b 0 0 _ (by simp)
  | spUnmap a => exact engine_roundTrips 0 a 0 0 0 _ (by simp)
  | amov n a b => exact affine_roundTrips n a b _ (by simp)
  | abase n a => exact affine_roundTrips n a 0 _ (by simp)
  | astride n a => exact affine_roundTrips n a 0 _ (by simp)
  | aadd n a => exact affine_roundTrips n a 0 _ (by simp)
  | aread a n => exact affine_roundTrips n a 0 _ (by simp)
  | asread a n => exact affine_roundTrips n a 0 _ (by simp)
  | mfcr d m | mtcr d m =>
    exact control_roundTrips d m _ (by simp)
  | nop => exact misc_roundTrips 0 0 0 0 _ (by simp)
  | exit => exact misc_roundTrips 0 0 0 0 _ (by simp)
  | regGrow n => exact misc_roundTrips 0 0 n 0 _ (by simp)
  | regShrink => exact misc_roundTrips 0 0 0 0 _ (by simp)
  | stkChk a => exact misc_roundTrips a 0 0 0 _ (by simp)
  | ipf a => exact misc_roundTrips a 0 0 0 _ (by simp)
  | pfd a => exact misc_roundTrips a 0 0 0 _ (by simp)
  | trap m => exact misc_roundTrips 0 0 0 m _ (by simp)
  | trapRet => exact misc_roundTrips 0 0 0 0 _ (by simp)
  | launch a b => exact misc_roundTrips a b 0 0 _ (by simp)
  | sysMbox d a => exact system_roundTrips d a _ (by simp)
  | sysWbinv => exact system_roundTrips 0 0 _ (by simp)
  | ttSet d a b => exact matrix_roundTrips d a b 0 0 0 _ (by simp)
  | ttClr a => exact matrix_roundTrips 0 a 0 0 0 0 _ (by simp)
  | ttRead a b => exact matrix_roundTrips 0 a b 0 0 0 _ (by simp)
  | mxLdt t a b => exact matrix_roundTrips 0 a b t 0 0 _ (by simp)
  | mxLds t a => exact matrix_roundTrips 0 a 0 t 0 0 _ (by simp)
  | mxZeroT t => exact matrix_roundTrips 0 0 0 t 0 0 _ (by simp)
  | mxZeroC c => exact matrix_roundTrips 0 0 0 0 0 c _ (by simp)
  | mxMma c t u => exact matrix_roundTrips 0 0 0 t u c _ (by simp)
  | mxMmag c t u => exact matrix_roundTrips 0 0 0 t u c _ (by simp)
  | mxGang d a b => exact matrix_roundTrips d a b 0 0 0 _ (by simp)
  | mxDrain c a b => exact matrix_roundTrips 0 a b 0 0 c _ (by simp)
  | mxMode c a => exact matrix_roundTrips 0 a 0 0 0 c _ (by simp)
  | witSeed a => exact matrix_roundTrips 0 a 0 0 0 0 _ (by simp)
  | witEmit a => exact matrix_roundTrips 0 a 0 0 0 0 _ (by simp)
  | _ => exact fun _ h => nomatch h

/-! ### The three words of a lane instruction (R244-R246, R248, R251) -/

theorem ofNat_add_val {n : Nat} [NeZero n] (k : Nat) (a : Fin n) : Fin.ofNat n (n * k + a.val) = a :=
  Fin.ext (by simp [Fin.ofNat, Nat.mod_eq_of_lt a.isLt])

theorem decodeDest_code (d : Dest) : decodeDest d.code = some d := by
  cases d with
  | v n => rw [decodeDest, Dest.code, if_pos n.isLt, ofNat_val_self]
  | p n =>
    have hn : Fin.ofNat 8 (0x100 + n.val) = n := ofNat_add_val 32 n
    rw [decodeDest, Dest.code, if_neg (by omega), if_pos (by omega), hn]
  | s n =>
    have hn : Fin.ofNat 64 (0x140 + n.val) = n := ofNat_add_val 5 n
    rw [decodeDest, Dest.code, if_neg (by omega), if_neg (by omega), if_pos (by omega), hn]
  | noDest => rfl

theorem Dest.code_lt (d : Dest) : d.code < 2 ^ 9 := by
  cases d <;> simp only [Dest.code] <;> omega

theorem Operand.code_lt (o : Operand) : o.code < 2 ^ 10 := by
  cases o <;> simp only [Operand.code] <;> omega

theorem decodeOperand_code (o : Operand) : decodeOperand o.code = some o := by
  cases o with
  | v n =>
    have h : fld n.val 8 2 = 0 := by rw [fld]; omega
    simp only [decodeOperand, Operand.code, h, ofNat_val_self]
  | s n =>
    have h : fld (0x100 + n.val) 8 2 = 1 := by rw [fld]; omega
    have h' : fld (0x100 + n.val) 6 2 = 0 := by rw [fld]; omega
    have hn : Fin.ofNat 64 (0x100 + n.val) = n := ofNat_add_val 4 n
    simp only [decodeOperand, Operand.code, h, h', hn, if_true]
  | p n =>
    have h : fld (0x140 + n.val) 8 2 = 1 := by rw [fld]; omega
    have h' : fld (0x140 + n.val) 6 2 = 1 := by rw [fld]; omega
    have h'' : fld (0x140 + n.val) 3 5 = 8 := by rw [fld]; omega
    have hn : Fin.ofNat 8 (0x140 + n.val) = n := ofNat_add_val 40 n
    simp only [decodeOperand, Operand.code, h, h', h'', hn, if_true, Nat.one_ne_zero, if_false]
  | a n =>
    have h : fld (0x200 + n.val) 8 2 = 2 := by rw [fld]; omega
    have h' : fld (0x200 + n.val) 4 4 = 0 := by rw [fld]; omega
    have hn : Fin.ofNat 16 (0x200 + n.val) = n := ofNat_add_val 32 n
    simp only [decodeOperand, Operand.code, h, h', hn, if_true]
  | inl c =>
    have hc := c.isLt
    have h : fld (0x300 + c.toNat) 8 2 = 3 := by rw [fld]; omega
    have h' : fld (0x300 + c.toNat) 7 1 = 0 := by rw [fld]; omega
    have hn : BitVec.ofNat 7 (0x300 + c.toNat) = c := by
      apply BitVec.eq_of_toNat_eq
      rw [BitVec.toNat_ofNat]
      omega
    simp only [decodeOperand, Operand.code, h, h', hn, if_true]
  | w2 => rfl

theorem bool_of_bit (b : Bool) : (b.toNat == 1) = b := by cases b <;> rfl

/-- The fields of the first word (R244). -/
theorem laneWord0_fields {op p n d t r s : Nat} (hop : op < 2 ^ 10) (hp : p < 2 ^ 3) (hn : n < 2) (hd : d < 2 ^ 9)
    (ht : t < 2 ^ 5) (hr : r < 2 ^ 3) (hs : s < 2) :
    let w := op * 2 ^ 22 + p * 2 ^ 19 + n * 2 ^ 18 + d * 2 ^ 9 + t * 2 ^ 4 + r * 2 + s
    fld w 22 10 = op ∧ fld w 19 3 = p ∧ fld w 18 1 = n ∧ fld w 9 9 = d ∧ fld w 4 5 = t ∧ fld w 1 3 = r ∧
      fld w 0 1 = s := by
  simp only [fld]
  omega

/-- The fields of the second word (R244). -/
theorem laneWord1_fields {a b c s : Nat} (ha : a < 2 ^ 10) (hb : b < 2 ^ 10) (hc : c < 2 ^ 10) (hs : s < 2) :
    let w := a * 2 ^ 22 + b * 2 ^ 12 + c * 2 ^ 2 + s
    fld w 22 10 = a ∧ fld w 12 10 = b ∧ fld w 2 10 = c ∧ fld w 1 1 = 0 ∧ fld w 0 1 = s := by
  simp only [fld]
  omega

theorem decodeLaneFields_of {w0 w1 w2 : Nat} {d : Dest} {t : LType} {a b c : Operand}
    (hd : decodeDest (fld w0 9 9) = some d) (ht : decodeLType (fld w0 4 5) = some t)
    (ha : decodeOperand (fld w1 22 10) = some a) (hb : decodeOperand (fld w1 12 10) = some b)
    (hc : decodeOperand (fld w1 2 10) = some c) (hz : fld w1 1 1 = 0) :
    decodeLaneFields w0 w1 w2 = .ok (fld w0 22 10,
      { pred := fin 8 w0 19, pneg := fld w0 18 1 == 1, dest := d, ty := t, rnd := bv 3 w0 1, sat := fld w0 0 1 == 1
        opa := a, opb := b, opc := c, sweep := fld w1 0 1 == 1, w2 := bv 32 w2 0 }) := by
  simp only [decodeLaneFields, hd, ht, ha, hb, hc, hz, Nat.zero_ne_one, if_false]

/-- The decoder's fields of the words that the encoder gives for an opcode of ten bits are those it was given (R244). -/
theorem decodeLaneFields_words (op : Nat) (f : LaneFields) (hop : op < 2 ^ 10) :
    ∃ w0 w1 w2, encodeLane op f = [w0, w1, w2] ∧ fld w0 22 10 = op ∧
      decodeLaneFields w0 w1 w2 = .ok (op, f) := by
  obtain ⟨hop', hp, hn, hd, ht, hr, hs⟩ := laneWord0_fields hop f.pred.isLt f.pneg.toNat_lt f.dest.code_lt
    (f.ty.code_lt.trans (by decide)) f.rnd.isLt f.sat.toNat_lt
  obtain ⟨ha, hb, hc, hz, hw⟩ := laneWord1_fields f.opa.code_lt f.opb.code_lt f.opc.code_lt f.sweep.toNat_lt
  refine ⟨_, _, _, rfl, hop', ?_⟩
  have hw2 : bv 32 f.w2.toNat 0 = f.w2 := by rw [bv, Nat.pow_zero, Nat.div_one, ofNat_toNat_self]
  rw [decodeLaneFields_of (by rw [hd, decodeDest_code]) (by rw [ht, decodeLType_code]) (by rw [ha, decodeOperand_code])
    (by rw [hb, decodeOperand_code]) (by rw [hc, decodeOperand_code]) hz, hop', fin_eight, hp, ofNat_val_self, hn,
    bv_eq_fld 3, hr, ofNat_toNat_self, hs, hw, hw2]
  simp only [bool_of_bit]

/-- The opcode map names each lane instruction at its opcode, which has ten bits (R251). -/
theorem laneOp_of_laneParts {i : Instr} {op : Nat} {f : LaneFields} (h : laneParts i = some (op, f)) :
    op < 2 ^ 10 ∧ ∃ mk, laneOp op = some mk ∧ mk f = i := by
  cases i
  all_goals first
    | (cases h; exact ⟨by decide, _, rfl, rfl⟩)
    | exact nomatch h

theorem laneRoundTrips {i : Instr} {op : Nat} {f : LaneFields} (h : laneParts i = some (op, f)) :
    ∃ w0 w1 w2, encode i = [w0, w1, w2] ∧ decodeLane w0 w1 w2 = .ok i := by
  obtain ⟨hop, mk, hmk, rfl⟩ := laneOp_of_laneParts h
  obtain ⟨w0, w1, w2, hwords, hfld, hdec⟩ := decodeLaneFields_words op f hop
  refine ⟨w0, w1, w2, ?_, ?_⟩
  · rw [encode, h, ← hwords]
  · rw [decodeLane, hfld, hmk, hdec]
    rfl

end Sys2Proof

/-- Settles O7: each word is a sum of disjoint fields that the decoder takes apart again. -/
theorem scalarDecodesEncode : Obligations.ScalarDecodesEncode :=
  fun i x _ h => i.roundTrips_of_encodes x h

/-- Settles O8: each of the three words is a sum of disjoint fields, and every code in them decodes to what it stands for. -/
theorem laneDecodesEncode : Obligations.LaneDecodesEncode :=
  fun _ _ _ _ h => Sys2Proof.laneRoundTrips h

end

section
/-! PROOFS. Taking a trap and returning from one (R234-R237, R290, R291), the scalar immediate forms (R266-R268), and what a
queued block holds back (R210). -/

namespace Sys2Proof.Machine

/-! ### Bits of a word with a field replaced -/

theorem setField_getLsbD {w : Nat} (x : BitVec w) {hi lo : Nat} (v j : Nat) (hw : hi < w) (hlo : lo ≤ hi) :
    (setField x hi lo v).getLsbD j = if lo ≤ j ∧ j ≤ hi then v.testBit (j - lo) else x.getLsbD j := by
  let k := hi + 1 - lo
  let q := x.toNat / 2 ^ lo
  have hval : x.toNat - field x hi lo * 2 ^ lo + v % 2 ^ k * 2 ^ lo =
      2 ^ lo * (2 ^ k * (q / 2 ^ k) + v % 2 ^ k) + x.toNat % 2 ^ lo := by
    have hx : x.toNat = 2 ^ lo * (2 ^ k * (q / 2 ^ k) + q % 2 ^ k) + x.toNat % 2 ^ lo := by
      rw [Nat.div_add_mod, Nat.div_add_mod]
    have hf : field x hi lo = q % 2 ^ k := rfl
    rw [hf]
    generalize q / 2 ^ k = a, q % 2 ^ k = b, x.toNat % 2 ^ lo = c at hx ⊢
    rw [hx, Nat.mul_add, Nat.mul_comm b, Nat.mul_comm (v % 2 ^ k)]
    have : 2 ^ lo * (2 ^ k * a) + 2 ^ lo * b + c - 2 ^ lo * b = 2 ^ lo * (2 ^ k * a) + c := by omega
    rw [this, Nat.mul_add]
    omega
  have hlow : x.toNat % 2 ^ lo < 2 ^ lo := Nat.mod_lt _ (Nat.two_pow_pos lo)
  have hmid : v % 2 ^ k < 2 ^ k := Nat.mod_lt _ (Nat.two_pow_pos k)
  have hbit : (setField x hi lo v).getLsbD j =
      (decide (j < w) && (2 ^ lo * (2 ^ k * (q / 2 ^ k) + v % 2 ^ k) + x.toNat % 2 ^ lo).testBit j) := by
    rw [setField, BitVec.getLsbD_ofNat, hval]
  rw [hbit, Nat.testBit_two_pow_mul_add _ hlow, Nat.testBit_two_pow_mul_add _ hmid]
  by_cases hjw : j < w
  · rcases Nat.lt_or_ge j lo with h | h
    · rw [if_pos h, if_neg (by omega), Nat.testBit_mod_two_pow]
      simp [hjw, h, BitVec.getLsbD]
    · rw [if_neg (by omega)]
      rcases Nat.lt_or_ge hi j with h' | h'
      · rw [if_neg (by omega), if_neg (by omega), ← Nat.shiftRight_eq_div_pow q, Nat.testBit_shiftRight,
          show q = x.toNat >>> lo from (Nat.shiftRight_eq_div_pow _ _).symm, Nat.testBit_shiftRight]
        simp [hjw, BitVec.getLsbD, show lo + (k + (j - lo - k)) = j by omega]
      · rw [if_pos (by omega), if_pos ⟨h, h'⟩, Nat.testBit_mod_two_pow]
        simp [hjw, show j - lo < k by omega]
  · have hout : ¬(lo ≤ j ∧ j ≤ hi) := by omega
    rw [if_neg hout, BitVec.getLsbD_of_ge x j (by omega)]
    simp [hjw]

theorem setBit_getLsbD {w : Nat} (x : BitVec w) (i j : Nat) (b : Bool) (hi : i < w) :
    (setBit x i b).getLsbD j = if j = i then b else x.getLsbD j := by
  rw [setBit, setField_getLsbD x _ j hi (Nat.le_refl i)]
  by_cases h : j = i
  · subst h
    rw [if_pos ⟨Nat.le_refl j, Nat.le_refl j⟩, if_pos rfl, Nat.sub_self]
    cases b <;> rfl
  · rw [if_neg (by omega), if_neg h]

/-! ### trap_cause as a trap writes it (R236) -/

/-- The fields of trap_cause: CAUSE, REASON and ACTIVE. -/
theorem Trap.word_fields (t : Trap) (hc : t.cause < 256) (ht : ∀ i, t.thread = some i → i < 32) :
    field t.word 7 0 = t.cause ∧ field t.word 47 40 = t.reason % 256 ∧ bit t.word 56 = true := by
  have hth : t.thread.getD 0 < 32 := by
    cases h : t.thread with
    | none => simp
    | some i => exact ht i h
  have hif : (if t.thread.isSome then 2 ^ 55 else 0) = 0 ∨ (if t.thread.isSome then 2 ^ 55 else 0) = 2 ^ 55 := by
    cases t.thread.isSome <;> simp
  simp only [field, bit, Trap.word, BitVec.getLsbD_ofNat, BitVec.toNat_ofNat, Nat.testBit_eq_decide_div_mod_eq]
  generalize (if t.thread.isSome then 2 ^ 55 else 0) = f at hif
  generalize t.thread.getD 0 = i at hth
  refine ⟨by omega, by omega, ?_⟩
  simp only [Bool.and_eq_true, decide_eq_true_eq]
  omega

/-! ### What a trap leaves of the rest of the machine -/

theorem State.leaveLatch_warp? (s : State) (wi j : Nat) : (s.leaveLatch wi).warp? j = s.warp? j := by
  unfold State.leaveLatch
  split <;> rfl

@[simp] theorem State.leaveLatch_mem (s : State) (wi : Nat) : (s.leaveLatch wi).mem = s.mem := by
  unfold State.leaveLatch
  split <;> rfl

@[simp] theorem State.dropGrow_mem (s : State) (wi : Nat) : (s.dropGrow wi).mem = s.mem := rfl
@[simp] theorem State.dropRemotes_mem (s : State) (wi : Nat) : (s.dropRemotes wi).mem = s.mem := rfl

/-- The warp as a user-level trap leaves it (R234, R236). -/
def Warp.trapped (w : Warp) (t : Trap) (pc : Word) : Warp :=
  { w with trapCause := t.word, trapAddr := t.addr, trapPc := pc
           trapLpc := (match w.queue with | b :: _ => b.lpc | [] => 0), lpcWritten := false
           hblock := none, qfence := none, record := none, pc := w.trapVec, park := .run }

section
variable {s : State} {wi : Nat} {w : Warp} {t : Trap}

theorem trap_of_handler (pc : Word) (hw : s.warp? wi = some w) (hv : w.trapVec ≠ 0) (ha : w.active = false)
    (hm : s.midway wi t w = false) :
    s.trap wi t pc = (((s.leaveLatch wi).dropGrow wi).dropRemotes wi).setWarp wi (w.trapped t pc) := by
  rw [State.trap, hw]
  simp only [hv, ha, hm, false_or, Bool.false_eq_true, if_false]
  rfl

theorem trap_of_no_handler (pc : Word) (hw : s.warp? wi = some w) (h : w.trapVec = 0 ∨ w.active = true) :
    s.trap wi t pc = s.abortWg w.wg t.cause := by
  rw [State.trap, hw]
  simp only [h, if_true]

theorem trap_warp?_of_handler (pc : Word) (hw : s.warp? wi = some w) (hv : w.trapVec ≠ 0) (ha : w.active = false)
    (hm : s.midway wi t w = false) : (s.trap wi t pc).warp? wi = some (w.trapped t pc) := by
  rw [trap_of_handler pc hw hv ha hm]
  exact State.setWarp_warp?_same _ wi w _ ((State.leaveLatch_warp? s wi wi).trans hw)

end

/-! ### TRAP.RET (R291) -/

section
variable {s : State} {w : Warp}

theorem execTrapRet_outside (h : Claims.Issues s w {}) (ha : w.active = false) :
    execTrapRet s = .next (s.stopped s.cur w.pc illegal) := by
  obtain ⟨hw, hl, hb⟩ := h
  rw [execTrapRet, controlOp_eq s _ w _ hw hl hb, ha]
  rfl

theorem execTrapRet_inside (h : Claims.Issues s w {}) (ha : w.active = true) :
    execTrapRet s = .next (s.setWarp s.cur
      (if w.hblock = none then w.trapReturn else { w with park := .laneQueue })) := by
  obtain ⟨hw, hl, hb⟩ := h
  rw [execTrapRet, controlOp_eq s _ w _ hw hl hb, ha]
  by_cases hh : w.hblock = none
  · rw [if_pos hh, hh]
    exact congrArg _ (State.modWarp_eq_setWarp s s.cur Warp.trapReturn w hw)
  · rw [if_neg hh, Option.isNone_eq_false_iff.2 (Option.isSome_iff_ne_none.2 hh)]
    exact congrArg _ (State.modWarp_eq_setWarp s s.cur (fun w => { w with park := .laneQueue }) w hw)

theorem Warp.trapReturn_bit (w : Warp) (i : Nat) :
    bit w.trapReturn.trapCause i = if i = 56 then false else bit w.trapCause i :=
  setBit_getLsbD w.trapCause 56 i false (by omega)

theorem Warp.trapReturn_queue_cons (w : Warp) (b : Block) (r : List Block) (h : w.queue = b :: r) :
    w.trapReturn.queue = (if w.lpcWritten then
      { b with lpc := w.trapLpc, thread := 0, seg := 0, running := none, stage := .fresh, fault := none } else b) :: r := by
  rw [Warp.trapReturn, h]

theorem Warp.trapReturn_queue_nil (w : Warp) (h : w.queue = []) : w.trapReturn.queue = [] := by
  rw [Warp.trapReturn, h]

end

/-! ### Scalar results of one and of no register (R266-R268) -/

/-- A form of no register operand writes its constant (R268). -/
theorem constant_writes {i : Instr} {s : State} {w : Warp} {d : SReg} {f : Warp → Word}
    (hi : exec i s = alu s d [] f) (h : Claims.Issues s w { writes := [d.val] }) : Claims.Writes i s w d (f w) := by
  obtain ⟨hw, hl, hb⟩ := h
  exact hi.trans (alu_eq s d [] _ w hw hl hb)

/-! ### What a queued block holds back (R210) -/

section
variable {s : State} {w : Warp}

theorem issue_blocked {u : RegUse} (body : Workgroup → Except Stop State) (hw : s.warp? s.cur = some w)
    (hb : s.blocked w u = true) : s.issue u w body = s.setWarp s.cur { w with park := .laneQueue } := by
  rw [State.issue, hb, if_pos rfl, State.modWarp_eq_setWarp s s.cur _ w hw]

theorem controlOp_blocked {u : RegUse} (body : Warp → Workgroup → Except Stop State) (hw : s.warp? s.cur = some w)
    (hl : w.live = true) (hb : s.blocked w u = true) :
    controlOp s u body = .next (s.setWarp s.cur { w with park := .laneQueue }) := by
  rw [controlOp, onWarp_live s w _ hw hl, issue_blocked _ hw hb]

theorem alu_blocked {d : SReg} {srcs : List SReg} (f : Warp → Word) (hw : s.warp? s.cur = some w)
    (hl : w.live = true) (hb : s.blocked w { reads := srcs.map Fin.val, writes := [d.val] } = true) :
    alu s d srcs f = .next (s.setWarp s.cur { w with park := .laneQueue }) :=
  scalarOp_blocked s _ w _ hw hl hb

end

end Sys2Proof.Machine

namespace Sys2Proof.Claims
open Sys2Proof.Machine

theorem trapIsTaken : TrapIsTaken := by
  intro s wi w t pc hc ht hw hv ha hm
  have hact : (w.trapped t pc).active = true := (t.word_fields hc ht).2.2
  refine ⟨w.trapped t pc, trap_warp?_of_handler pc hw hv ha hm, rfl, rfl, rfl, rfl, hact, ?_, rfl, rfl, rfl, rfl, rfl, ?_⟩
  · rw [Warp.blocks, if_pos hact]
    rfl
  · rw [trap_of_handler pc hw hv ha hm]
    simp

theorem trapWithoutHandlerAborts : TrapWithoutHandlerAborts :=
  fun _ _ _ _ pc hw h => trap_of_no_handler pc hw h

theorem trapInstruction : TrapInstruction := by
  intro s w n ⟨hw, hl, hb⟩
  have hexec : exec (.trap n) s = .next (s.trap s.cur { cause := 0x07, reason := n.toNat } (w.pc + 4)) :=
    controlOp_eq s _ w _ hw hl hb
  refine ⟨hexec, fun hv ha hm => ?_⟩
  obtain ⟨hcause, hreason, hact⟩ :=
    Trap.word_fields { cause := 0x07, reason := n.toNat } (by simp) (fun _ h => nomatch h)
  refine ⟨_, _, hexec, trap_warp?_of_handler _ hw hv ha hm, rfl, rfl, hcause, ?_, hact, rfl⟩
  exact hreason.trans (Nat.mod_eq_of_lt n.isLt)

theorem trapReturns : TrapReturns := by
  intro s w h
  refine ⟨fun ha => execTrapRet_outside h ha, fun ha hh => ?_, fun ha hh => ?_⟩
  · rw [exec_trapRet, execTrapRet_inside h ha, if_neg hh]
  · have hexec := execTrapRet_inside h ha
    rw [if_pos hh] at hexec
    refine ⟨w.trapReturn, hexec, rfl, w.trapReturn_bit 56, rfl, fun i hi => ?_, ?_, fun hl => ?_, fun hl b hb => ?_⟩
    · rw [w.trapReturn_bit, if_neg hi]
    · cases hq : w.queue with
      | nil => rw [w.trapReturn_queue_nil hq]
      | cons b r => rw [w.trapReturn_queue_cons b r hq]; rfl
    · cases hq : w.queue with
      | nil => exact w.trapReturn_queue_nil hq
      | cons b r => rw [w.trapReturn_queue_cons b r hq, hl]; rfl
    · obtain ⟨r, hq⟩ := List.head?_eq_some_iff.1 hb
      rw [w.trapReturn_queue_cons b r hq, hl]
      rfl

theorem queuedBlocksHoldBack : QueuedBlocksHoldBack := by
  intro s w d a b m n k j hw hl wait
  have alu {u : RegUse} {l : List Instr}
      (h : ∀ i ∈ l, ∃ srcs f, exec i s = alu s d srcs f ∧ u = { reads := srcs.map Fin.val, writes := [d.val] }) :
      wait u l := by
    intro hb i hi
    obtain ⟨srcs, f, he, rfl⟩ := h i hi
    rw [he, alu_blocked f hw hl hb]
  have control {u : RegUse} {l : List Instr} (h : ∀ i ∈ l, ∃ body, exec i s = controlOp s u body) : wait u l := by
    intro hb i hi
    obtain ⟨body, he⟩ := h i hi
    rw [he, controlOp_blocked body hw hl hb]
  refine ⟨alu fun i hi => ⟨[a, b], ?_⟩, alu fun i hi => ⟨[a], ?_⟩, alu fun i hi => ⟨[], ?_⟩, alu fun i hi => ⟨[d], ?_⟩,
    control fun i hi => ?_, control fun i hi => ?_, control fun i hi => ?_, control fun i hi => ?_,
    control fun i hi => ?_⟩
  iterate 4 · fin_cases hi <;> exact ⟨_, rfl, rfl⟩
  all_goals fin_cases hi <;> exact ⟨_, rfl⟩

theorem nopGoesOn : NopGoesOn := by
  intro s w ⟨hw, hl, hb⟩
  rw [exec_nop, execNop, scalarOp_eq s _ w _ hw hl hb]
  exact congrArg _ (State.modWarp_eq_setWarp s s.cur Warp.advance w hw)

end Sys2Proof.Claims

open Sys2Proof.Machine

/-- Settles O9: a trap with a handler is one write of the warp (`trap_of_handler`), any other the abort. -/
theorem trapEntry : Obligations.TrapEntry :=
  ⟨Sys2Proof.Claims.trapIsTaken, Sys2Proof.Claims.trapWithoutHandlerAborts⟩

/-- Settles O10: TRAP is the taking of a trap, TRAP.RET one write of the warp (`execTrapRet_inside`). -/
theorem trapAndReturn : Obligations.TrapAndReturn :=
  ⟨Sys2Proof.Claims.trapInstruction, Sys2Proof.Claims.trapReturns⟩

/-- Settles O12: each immediate form is one scalar frame (`alu_eq`) with the word of R266-R268 in it. -/
theorem aluImmediateResults : Obligations.AluImmediateResults := by
  intro s w d a m n k
  refine ⟨fun h => ?_, fun h => ?_, fun ⟨hw, hl, hb⟩ => ?_⟩
  · have hslti := unary_writes (exec_slti d a m s) h
    rw [flag, slt_ite] at hslti
    exact ⟨unary_writes (exec_addi d a m s) h, unary_writes (exec_andi d a m s) h, unary_writes (exec_ori d a m s) h,
      unary_writes (exec_xori d a m s) h, hslti, unary_writes (exec_shli d a n s) h,
      unary_writes (exec_shri d a n s) h, unary_writes (exec_srai d a n s) h, unary_writes (exec_rori d a n s) h⟩
  · exact ⟨constant_writes (exec_movi d k s) h, constant_writes (exec_adr d k s) h⟩
  · exact (exec_movk d k s).trans (alu_eq s d [d] _ w hw hl hb)

/-- Settles O14: the frame's check of the lane queue comes before every body. -/
theorem heldBackAndNop : Obligations.HeldBackAndNop :=
  ⟨Sys2Proof.Claims.queuedBlocksHoldBack, Sys2Proof.Claims.nopGoesOn⟩

end

section
/-! PROOFS. Lane instructions that compute in registers (R303-R315, R325, R326, R334, R335), where their results land
(R298, R299), and the ARITHMETIC trap (R201). -/

namespace Sys2Proof.Machine

/-! ### Computations in registers, each by its result and flags per thread -/

/-- On a warp like `w` the instruction is the computation in registers that gives thread `t` the result and flags `r t`. -/
def Computes (i : Instr) (s : State) (w : Warp) (op : Nat) (f : LaneFields) (r : Nat → Nat × Nat) : Prop :=
  ∃ tys k, exec i s = laneCompute s op f tys k ∧ ∀ v t, Warp.Like w v → k (LaneIn.of v w f tys t) = .ok (r t)

section
variable {i : Instr} {s : State} {w : Warp} {b : Block} {op : Nat} {f : LaneFields} {r : Nat → Nat × Nat}

theorem Computes.writes (c : Computes i s w op f r) (h : Claims.AtLane s w b op f) :
    Claims.LaneWrites i s w b f (fun t => (r t).1) fun t => (r t).2 := by
  obtain ⟨tys, k, he, hk⟩ := c
  exact laneCompute_writes h he hk

theorem Computes.traps (c : Computes i s w op f r) (h : Claims.AtLane s w b op f) :
    Claims.LaneTraps i s w b f (fun t => (r t).1) fun t => (r t).2 := by
  obtain ⟨tys, k, he, hk⟩ := c
  exact laneCompute_traps h he hk

theorem lanePure_computes {k : LaneIn → Nat × Nat} (he : exec i s = lanePure s op f k)
    (hk : ∀ v t, Warp.Like w v → k (LaneIn.of v w f (OpTypes.same f) t) = r t) : Computes i s w op f r :=
  ⟨_, _, he, fun v t h => congrArg Except.ok (hk v t h)⟩

theorem intForm_computes {k : Int → Int → Int → Int} (he : exec i s = intForm s op f k) :
    Computes i s w op f fun t => (intResult f.ty f.sat
      (k (intOf f.ty (Claims.opA w f t)) (intOf f.ty (Claims.opB w f t)) (intOf f.ty (Claims.opC w f t))), 0) :=
  lanePure_computes he fun _ _ _ => rfl

theorem bitForm_computes {k : Nat → Nat → Nat → Nat} (he : exec i s = bitForm s op f k) :
    Computes i s w op f fun t => (k f.ty.width (Claims.opA w f t) (Claims.opB w f t) % 2 ^ f.ty.width, 0) :=
  lanePure_computes he fun _ _ _ => rfl

theorem intSet_computes {k : Int → Int → Bool} (he : exec i s = intSet s op f k) :
    Computes i s w op f fun t => ((k (intOf f.ty (Claims.opA w f t)) (intOf f.ty (Claims.opB w f t))).toNat, 0) :=
  lanePure_computes he fun _ _ _ => rfl

/-- SHR's result (R305). -/
theorem laneShr_computes : Computes (.laneShr f) s w 0x010 f fun t =>
    ((intOf f.ty (Claims.opA w f t) / 2 ^ (Claims.opB w f t % f.ty.width) % 2 ^ f.ty.width).toNat, 0) :=
  lanePure_computes (exec_laneShr f s) fun _ _ _ => rfl

/-- BFX's result (R306). -/
theorem bfx_computes : Computes (.bfx f) s w 0x015 f fun t =>
    (bitExtract f.ty (Claims.opA w f t) (Claims.opB w f t) (Claims.opC w f t), 0) :=
  lanePure_computes (exec_bfx f s) fun _ _ _ => rfl

/-- BFI's result (R306). -/
theorem bfi_computes : Computes (.bfi f) s w 0x016 f fun t =>
    (bitInsert f.ty (Claims.opA w f t) (Claims.opB w f t) (Claims.opC w f t), 0) :=
  lanePure_computes (exec_bfi f s) fun _ _ _ => rfl

/-- BLUT's result (R325). -/
theorem blut_computes : Computes (.blut f) s w 0x110 f fun t => (fourBytes fun k =>
    byteOf (w.operand f .n64 t f.opb + w.operand f .n64 t f.opc * 2 ^ 64) (byteOf (w.operand f .n32 t f.opa) k % 16), 0) := by
  exact ⟨_, _, exec_blut f s, fun _ _ _ => rfl⟩

/-- BPICK's result (R326). -/
theorem bpick_computes : Computes (.bpick f) s w 0x111 f fun t => (fourBytes fun k =>
    pickByte (w.operand f .n32 t f.opa + w.operand f .n32 t f.opb * 2 ^ 32) (byteOf (w.operand f .n32 t f.opc) k), 0) := by
  exact ⟨_, _, exec_bpick f s, fun _ _ _ => rfl⟩

/-- A floating result: the exact one of `k` rounded once, with the flags of both (R308, R309). -/
def floatResult (md : Mode) (k : Fp → Fp → Fp → Fp × Nat) (m : FFmt) (a b c : Nat) : Nat × Nat :=
  ((m.finish md false (k (m.decode a) (m.decode b) (m.decode c)).1).1,
    (k (m.decode a) (m.decode b) (m.decode c)).2 ||| (m.finish md false (k (m.decode a) (m.decode b) (m.decode c)).1).2)

theorem floatForm_computes {k : Mode → Fp → Fp → Fp → Fp × Nat} (he : exec i s = floatForm s op f k) :
    Computes i s w op f fun t => onElements f.ty (floatResult (w.mode f.rnd) (k (w.mode f.rnd)))
      (Claims.opA w f t) (Claims.opB w f t) (Claims.opC w f t) := by
  refine lanePure_computes he fun v t h => ?_
  simp only [LaneIn.of, h.mode]
  rfl

theorem signForm_computes {k : Fp → Fp} (he : exec i s = signForm s op f k) :
    Computes i s w op f fun t => onElements f.ty (fun m a _ _ => m.finish .rne false (k (m.decode a)))
      (Claims.opA w f t) (Claims.opB w f t) (Claims.opC w f t) :=
  lanePure_computes he fun _ _ _ => rfl

theorem specialForm_computes {fn : SpecialFn} (he : exec i s = specialForm s op f fn) :
    Computes i s w op f fun t => special fn (f.ty == .f16) (Claims.opA w f t) :=
  lanePure_computes he fun _ _ _ => rfl

/-- IDIV's result and flag (R304). -/
theorem idiv_computes : Computes (.idiv f) s w 0x005 f fun t =>
    (if Claims.opB w f t = 0 then 2 ^ f.ty.width - 1
      else ((intOf f.ty (Claims.opA w f t)).tdiv (intOf f.ty (Claims.opB w f t)) % 2 ^ f.ty.width).toNat,
      if Claims.opB w f t = 0 then fDZ else 0) := by
  refine lanePure_computes (exec_idiv f s) fun v t _ => ?_
  change laneDiv f.ty (Claims.opA w f t) (Claims.opB w f t) = _
  by_cases h : Claims.opB w f t = 0 <;> simp only [laneDiv, truncI, h, if_true, if_false]

/-- IREM's result and flag (R304). -/
theorem irem_computes : Computes (.irem f) s w 0x006 f fun t =>
    (if Claims.opB w f t = 0 then Claims.opA w f t
      else ((intOf f.ty (Claims.opA w f t)).tmod (intOf f.ty (Claims.opB w f t)) % 2 ^ f.ty.width).toNat,
      if Claims.opB w f t = 0 then fDZ else 0) := by
  refine lanePure_computes (exec_irem f s) fun v t _ => ?_
  change laneRem f.ty (Claims.opA w f t) (Claims.opB w f t) = _
  by_cases h : Claims.opB w f t = 0 <;> simp only [laneRem, truncI, Int.tmod_def, h, if_true, if_false]

theorem frnd_computes : Computes (.frnd f) s w 0x081 f fun t => onElements f.ty (fun m a _ _ =>
      ((m.finish .rne false (fpIntegral (w.mode f.rnd) (m.decode a)).1).1, (fpIntegral (w.mode f.rnd) (m.decode a)).2))
      (Claims.opA w f t) (Claims.opB w f t) (Claims.opC w f t) := by
  refine lanePure_computes (exec_frnd f s) fun v t h => ?_
  simp only [LaneIn.of, h.mode]
  rfl

/-! ### Conversions (R312-R314) -/

theorem Warp.Like.cvtMode {v : Warp} (h : Warp.Like w v) (f : LaneFields) (t g : Nat) :
    cvtMode f v t g = Machine.cvtMode f w t g := by
  simp only [Machine.cvtMode, srDraw, Warp.sget, h.s, h.wid, h.mode]

/-- The type of a conversion that its format word describes (R313). -/
def cvtNf (f : LaneFields) : LType := if f.ty.isNf then f.ty else f.cvtSrc

theorem cvt_computes (h : Claims.AtLane s w b op f)
    (hok : (cvtNf f).isNf = false ∨ formatWordOk (cvtNf f) (w.sget (Fin.ofNat 64 (cvtReg f))) = true) :
    Computes (.cvt f) s w 0x080 f fun t => convert f.cvtSrc f.ty (cvtMode f w t 0) f.sat
      (w.sget (Fin.ofNat 64 (cvtReg f))) (w.operand f f.cvtSrc t f.opa) := by
  obtain ⟨hw, -⟩ := h
  refine ⟨cvtTypesOf f, fun x => .ok (convert f.cvtSrc f.ty (cvtMode f x.w x.t x.g) f.sat
    (w.sget (Fin.ofNat 64 (cvtReg f))) x.a), ?_, fun v t hv => ?_⟩
  · have hcond : ((cvtNf f).isNf && !formatWordOk (cvtNf f) (w.sget (Fin.ofNat 64 (cvtReg f)))) = false := by
      rcases hok with h | h <;> rw [h]
      · rfl
      · rw [Bool.not_true, Bool.and_false]
    simp only [exec_cvt, execCvt, hw]
    exact if_neg (Bool.eq_false_iff.1 hcond)
  · simp only [LaneIn.of, hv.cvtMode]
    rfl

theorem cvtNf_of_int (hs : f.cvtSrc.isInt = true) (hd : f.ty.isInt = true) : (cvtNf f).isNf = false := by
  have int_not_nf (ty : LType) (h : ty.isInt = true) : ty.isNf = false := by
    revert h; cases ty <;> decide
  rw [cvtNf, int_not_nf _ hd, if_neg Bool.false_ne_true, int_not_nf _ hs]

theorem cvt_badFormat (h : Claims.AtLane s w b 0x080 f) (hn : (cvtNf f).isNf = true)
    (hbad : formatWordOk (cvtNf f) (w.sget (Fin.ofNat 64 (cvtReg f))) = false) (hp : participants w b f ≠ 0) :
    exec (.cvt f) s = .next (s.laneStop (lowest (participants w b f)) badFormat) := by
  obtain ⟨hw, hl, hb, hf, hr, -⟩ := h
  have hcond : ((cvtNf f).isNf && !formatWordOk (cvtNf f) (w.sget (Fin.ofNat 64 (cvtReg f)))) = true := by
    rw [hn, hbad]
    rfl
  simp only [exec_cvt, execCvt, hw]
  refine (if_pos hcond).trans ?_
  rw [laneOpFrame_eq s 0x080 f _ w b hw hl hb hf hr, if_neg hp]

/-! ### Floating compares (R310) -/

theorem laneLegal_type (h : laneLegal op f = true) : (laneDesc op).types.contains f.ty = true := by
  simp only [laneLegal, Bool.and_eq_true] at h
  tauto

/-- The compares take no paired type (R251). -/
theorem ieee_not_paired (h : ieeeTypes.contains f.ty = true) : f.ty.paired = false := by
  revert h; cases f.ty <;> decide

theorem floatSet_computes {k : Fp → Fp → Bool} {m : FFmt} (h : Claims.AtLane s w b op f)
    (hty : (laneDesc op).types = ieeeTypes) (hm : f.ty.ieee = some m) (he : exec i s = floatSet s op f k) :
    Computes i s w op f fun t => ((k (m.decode (Claims.opA w f t)) (m.decode (Claims.opB w f t))).toNat,
      sigFlag [m.decode (Claims.opA w f t), m.decode (Claims.opB w f t)]) := by
  obtain ⟨-, -, -, hf, -⟩ := h
  have hp : f.ty.paired = false := ieee_not_paired (hty ▸ laneLegal_type hf)
  refine lanePure_computes he fun v t _ => ?_
  simp only [onElements, hm, hp, Bool.false_eq_true, if_false]
  rfl

/-! ### Modular forms (R334, R335) -/

theorem modIssue_zero (h : Claims.AtLane s w b op f) (hq : w.modQ.toNat = 0) (k : Host.Outcome State Fault Refusal)
    (hp : participants w b f ≠ 0) :
    modIssue s op f k = .next (s.laneStop (lowest (participants w b f)) badFormat) := by
  obtain ⟨hw, hl, hb, hf, hr, -⟩ := h
  have hz : (w.modQ == 0) = true := beq_iff_eq.2 (BitVec.eq_of_toNat_eq hq)
  rw [modIssue, hw, Option.any_some, hz, if_pos rfl, laneOpFrame_eq s op f _ w b hw hl hb hf hr, if_neg hp]

theorem modIssue_pos (hw : s.warp? s.cur = some w) (hq : w.modQ.toNat ≠ 0) (k : Host.Outcome State Fault Refusal) :
    modIssue s op f k = k := by
  have hz : (w.modQ == 0) = false := beq_eq_false_iff_ne.2 fun e => hq (e ▸ rfl)
  rw [modIssue, hw, Option.any_some, hz, if_neg Bool.false_ne_true]

/-- A modular form computes on the operands reduced by the modulus. -/
theorem modForm_computes {k : Nat → Nat → Nat → Nat → Nat} (hw : s.warp? s.cur = some w) (hq : w.modQ.toNat ≠ 0)
    (he : exec i s = modForm s op f k) : Computes i s w op f fun t =>
      (k w.modQ.toNat (modOperand w.modQ.toNat f.opa (w.operand f f.ty t f.opa))
        (modOperand w.modQ.toNat f.opb (w.operand f f.ty t f.opb))
        (modOperand w.modQ.toNat f.opc (w.operand f f.ty t f.opc)) % w.modQ.toNat, 0) := by
  refine lanePure_computes (he.trans (modIssue_pos hw hq _)) fun v t h => ?_
  simp only [LaneIn.of, h.modQ, OpTypes.same]

/-- What a modular form does: BAD_FORMAT for Q = 0, else its result per thread. -/
theorem modForm_result {k : Nat → Nat → Nat → Nat → Nat} (h : Claims.AtLane s w b op f)
    (he : exec i s = modForm s op f k) :
    if w.modQ.toNat = 0 then
      participants w b f ≠ 0 → exec i s = .next (s.laneStop (lowest (participants w b f)) badFormat)
    else Claims.LaneWrites i s w b f (fun t =>
      k w.modQ.toNat (modOperand w.modQ.toNat f.opa (w.operand f f.ty t f.opa))
        (modOperand w.modQ.toNat f.opb (w.operand f f.ty t f.opb))
        (modOperand w.modQ.toNat f.opc (w.operand f f.ty t f.opc)) % w.modQ.toNat) fun _ => 0 := by
  split
  next hq => exact fun hp => he.trans (modIssue_zero h hq _ hp)
  next hq => exact (modForm_computes h.1 hq he).writes h

end

/-! ### The butterfly: thread by thread, with two pairs written (R335) -/

theorem Warp.putLane_keeps (w : Warp) (d : VReg) (ty : LType) (t x : Nat) :
    w.putLane d ty t x = { w with v := (w.putLane d ty t x).v } := by
  unfold Warp.putLane
  dsimp only
  split <;> rfl

/-- A body over threads that writes each thread's result into the warp in focus, from what it reads of a warp alike at that
thread, writes them all. -/
theorem perThread_warps (s : State) (k : State → Nat → Except Stop State) (put : Warp → Nat → Warp) (w : Warp)
    (b : Block) (hw : s.warp? s.cur = some w) (hb : w.blocks.head? = some b) (hm : b.stopAt = none) (l : List Nat)
    (hk : ∀ v, ∀ t ∈ l, Warp.LikeAt w v t → k (s.setWarp s.cur v) t = .ok (s.setWarp s.cur (put v t)))
    (hput : ∀ v i t, i < 32 → t < 32 → i ≠ t → Warp.LikeAt w v t → Warp.LikeAt w (put v i) t)
    (hlike : ∀ v i, Warp.Like w v → Warp.Like w (put v i)) (hl : ∀ t ∈ l, t < 32) (hd : l.Nodup) :
    perThread k l s = (s.setWarp s.cur (l.foldl put w), none) := by
  suffices h : ∀ (r : List Nat) (v : Warp), (∀ t ∈ r, t ∈ l) → r.Nodup → Warp.Like w v →
      (∀ t ∈ r, Warp.LikeAt w v t) →
      perThread k r (s.setWarp s.cur v) = (s.setWarp s.cur (r.foldl put v), none) by
    have := h l w (fun _ ht => ht) hd (Warp.LikeAt.refl w 0).toLike fun t _ => Warp.LikeAt.refl w t
    rwa [State.setWarp_self s s.cur w hw] at this
  intro r
  induction r with
  | nil => intro v _ _ _ _; rfl
  | cons i r ih =>
    intro v hr hd hv hat
    obtain ⟨hi, hr⟩ := List.forall_mem_cons.1 hr
    obtain ⟨hat_i, hat⟩ := List.forall_mem_cons.1 hat
    obtain ⟨hni, hd⟩ := List.nodup_cons.1 hd
    have hcur := State.setWarp_warp?_same s s.cur w v hw
    have hnone := State.mismatch_none (s.setWarp s.cur v) v b i (by rw [State.setWarp_cur]; exact hcur)
      (hv.blocks ▸ hb) hm
    rw [perThread, hnone, if_neg Bool.false_ne_true, hk v i hi hat_i]
    exact ih _ hr hd (hlike v i hv) fun t ht =>
      hput v i t (hl i hi) (hl t (hr t ht)) (fun e => hni (e ▸ ht)) (hat t ht)

section
variable {s : State} {w : Warp} {b : Block} {f : LaneFields}

/-- A thread's two results of the butterfly. -/
def Warp.butterfly (w : Warp) (f : LaneFields) (d : VReg) (v : Warp) (t : Nat) : Warp :=
  let q := w.modQ.toNat
  let c := modOperand q f.opc (w.operand f .mod64 t f.opc) * modOperand q f.opb (w.operand f .mod64 t f.opb) % q
  let a := modOperand q f.opa (w.operand f .mod64 t f.opa)
  (v.putLane d .mod64 t ((a + c) % q)).putLane (Fin.ofNat 256 (d.val + 2)) .mod64 t ((a + q - c) % q)

theorem execNttBfly_eq (h : Claims.AtLane s w b 0x184 f) (hq : w.modQ.toNat ≠ 0) {d : VReg} (hd : f.dest = .v d) :
    execNttBfly f s = .next (Claims.lanePast s ((threads (participants w b f)).foldl (w.butterfly f d) w) b) := by
  obtain ⟨hw, hl, hb, hf, hr, ht, -, hm⟩ := h
  rw [execNttBfly, modIssue_pos hw hq, laneEach, laneOpFrame_eq s _ f _ w b hw hl hb hf hr, todo_zero b _ ht,
    perThread_warps s _ (w.butterfly f d) w b hw hb hm _ ?_ ?_ ?_ (threads_lt _) (threads_nodup _)]
  · have hblocks : ∀ (l : List Nat) (v : Warp), (l.foldl (w.butterfly f d) v).blocks = v.blocks := by
      intro l
      induction l with
      | nil => exact fun _ => rfl
      | cons i r ih =>
        intro v
        rw [List.foldl_cons, ih, Warp.butterfly, Warp.putLane_keeps, Warp.putLane_keeps v]
        rfl
    dsimp only
    rw [laneAdvance_eq s _ w b hw (by rw [hblocks]; exact hb)]
  · intro v t _ hv
    have hcur := State.setWarp_warp?_same s s.cur w v hw
    simp only [State.setWarp_cur, hcur, hd, hv.operand, hv.modQ, State.setWarp_setWarp]
    rfl
  · intro v i t hi ht' hne hv
    exact (hv.putLane d .mod64 i _ hi ht' hne).putLane _ .mod64 i _ hi ht' hne
  · intro v i hv
    rw [Warp.butterfly, Warp.putLane_keeps, Warp.putLane_keeps v]
    exact { s := hv.s, aBase := hv.aBase, aStride := hv.aStride, modQ := hv.modQ, wid := hv.wid, en := hv.en
            drm := hv.drm, blocks := hv.blocks }

end

/-! ### Where the results of a list of threads land (R298, R299) -/

theorem Warp.vset_vget (w : Warp) (n k i t : Nat) (x : LaneWord) (hi : i < 32) (ht : t < 32) :
    (w.vset n i x).vget k t = if i = t ∧ n = k then x else w.vget k t := by
  unfold Warp.vset Warp.vget
  rw [Tab.get_set]
  by_cases h : i = t ∧ n = k
  · rw [if_pos (by omega), if_pos h]
  · rw [if_neg (by omega), if_neg h]

theorem Warp.putLane_vget (w : Warp) (d : VReg) (ty : LType) (i x k t : Nat) (hi : i < 32) (ht : t < 32) :
    (w.putLane d ty i x).vget k t = if i = t then
      if k = d.val then BitVec.ofNat 32 (extendTo ty x)
      else if k = d.val + 1 ∧ ty.width = 64 then BitVec.ofNat 32 (extendTo ty x / 2 ^ 32)
      else w.vget k t
    else w.vget k t := by
  unfold Warp.putLane
  dsimp only
  by_cases hw : ty.width = 64
  · rw [if_pos hw, Warp.vset_vget _ _ _ _ _ _ hi ht, Warp.vset_vget _ _ _ _ _ _ hi ht]
    split_ifs <;> first | rfl | omega
  · rw [if_neg hw, Warp.vset_vget _ _ _ _ _ _ hi ht]
    split_ifs <;> first | rfl | omega

theorem getLsbD_bit_mask (i t : Nat) (ht : t < 32) : (BitVec.ofNat 32 (2 ^ i)).getLsbD t = decide (i = t) := by
  rw [BitVec.getLsbD_ofNat, Nat.testBit_two_pow]
  simp [ht]

theorem getLsbD_bit_value (x i t : Nat) (ht : t < 32) :
    (BitVec.ofNat 32 (x % 2 * 2 ^ i)).getLsbD t = (decide (i = t) && decide (x % 2 = 1)) := by
  rw [BitVec.getLsbD_ofNat, Nat.testBit_mul_two_pow]
  by_cases hi : i = t
  · subst hi
    rcases Nat.mod_two_eq_zero_or_one x with h | h <;> simp [h, ht]
  · rcases Nat.mod_two_eq_zero_or_one x with h | h
    · simp [h]
    · obtain ⟨k, hk⟩ | hlt : (∃ k, t - i = k + 1) ∨ t < i := by
        rcases Nat.lt_or_ge t i with hlt | hge
        · exact .inr hlt
        · exact .inl ⟨t - i - 1, by omega⟩
      · simp [h, hi, hk, Nat.testBit_succ]
      · simp [h, hi, Nat.not_le.2 hlt]

theorem Warp.pset_bit_pget (w : Warp) (d k : PReg) (i x t : Nat) (ht : t < 32) :
    ((w.pset d (BitVec.ofNat 32 (2 ^ i)) (BitVec.ofNat 32 (x % 2 * 2 ^ i))).pget k).getLsbD t =
      if i = t ∧ k = d ∧ d ≠ 0 then decide (x % 2 = 1) else (w.pget k).getLsbD t := by
  unfold Warp.pset
  by_cases hd : d = 0
  · rw [if_pos hd, if_neg (fun h => h.2.2 hd)]
  · rw [if_neg hd]
    by_cases hk : k = d
    · subst hk
      have hget : ∀ y, ({ w with p := Tab.set 0 w.p k.val y } : Warp).pget k = y := fun y => by
        simp [Warp.pget, hd]
      rw [hget]
      simp only [BitVec.getLsbD_or, BitVec.getLsbD_and, BitVec.getLsbD_not, getLsbD_bit_mask _ _ ht,
        getLsbD_bit_value _ _ _ ht, ht]
      by_cases hi : i = t <;> simp [hi, hd]
    · have hget : ∀ y, ({ w with p := Tab.set 0 w.p d.val y } : Warp).pget k = w.pget k := fun y => by
        unfold Warp.pget
        rw [Tab.get_set_ne _ _ _ _ _ fun e => hk (Fin.ext e.symm)]
      rw [hget, if_neg fun h => hk h.2.1]

/-- The results of threads written to a warp in order. -/
def Warp.puts (w : Warp) (f : LaneFields) (val : Nat → Nat) (l : List Nat) : Warp :=
  l.foldl (fun v t => v.putDest f t (val t)) w

theorem Warp.puts_cons (w : Warp) (f : LaneFields) (val : Nat → Nat) (i : Nat) (l : List Nat) :
    w.puts f val (i :: l) = (w.putDest f i (val i)).puts f val l := rfl

/-- A lane register after results into a lane destination. -/
theorem Warp.puts_vget {f : LaneFields} {d : VReg} (hd : f.dest = .v d) (val : Nat → Nat) (k t : Nat) (ht : t < 32)
    (l : List Nat) (w : Warp) (hl : ∀ i ∈ l, i < 32) :
    (w.puts f val l).vget k t = if t ∈ l then
      if k = d.val then BitVec.ofNat 32 (extendTo f.ty (val t))
      else if k = d.val + 1 ∧ f.ty.width = 64 then BitVec.ofNat 32 (extendTo f.ty (val t) / 2 ^ 32)
      else w.vget k t
    else w.vget k t := by
  induction l generalizing w with
  | nil => simp [Warp.puts]
  | cons i l ih =>
    obtain ⟨hi, hl⟩ := List.forall_mem_cons.1 hl
    have hput : w.putDest f i (val i) = w.putLane d f.ty i (val i) := by rw [Warp.putDest, hd]
    rw [Warp.puts_cons, hput, ih _ hl, Warp.putLane_vget _ _ _ _ _ _ _ hi ht]
    by_cases hit : i = t
    · subst hit
      simp only [List.mem_cons, true_or, if_true]
      split_ifs <;> rfl
    · simp only [List.mem_cons, hit, Ne.symm hit, false_or, if_false]

/-- A predicate register after results into a predicate. -/
theorem Warp.puts_pget {f : LaneFields} {d : PReg} (hd : f.dest = .p d) (val : Nat → Nat) (k : PReg) (t : Nat)
    (ht : t < 32) (l : List Nat) (w : Warp) :
    ((w.puts f val l).pget k).getLsbD t = if t ∈ l ∧ k = d ∧ d ≠ 0 then decide (val t % 2 = 1)
      else (w.pget k).getLsbD t := by
  induction l generalizing w with
  | nil => simp [Warp.puts]
  | cons i l ih =>
    have hput : w.putDest f i (val i) = w.pset d (BitVec.ofNat 32 (2 ^ i)) (BitVec.ofNat 32 (val i % 2 * 2 ^ i)) := by
      rw [Warp.putDest, hd]
    rw [Warp.puts_cons, hput, ih, Warp.pset_bit_pget _ _ _ _ _ _ ht]
    by_cases hit : i = t
    · subst hit
      simp only [List.mem_cons, true_or, true_and]
      split_ifs <;> first | rfl | tauto
    · simp only [List.mem_cons, hit, Ne.symm hit, false_or, false_and, if_false]

theorem Warp.pset_keeps (w : Warp) (d : PReg) (m x : BitVec 32) : w.pset d m x = { w with p := (w.pset d m x).p } := by
  unfold Warp.pset
  split <;> rfl

/-- Results change lane registers and predicates alone; a lane destination no predicate, and a predicate no lane register. -/
theorem Warp.puts_keeps (f : LaneFields) (val : Nat → Nat) (l : List Nat) (w : Warp) :
    w.puts f val l = { w with v := (w.puts f val l).v, p := (w.puts f val l).p } ∧
      (∀ d, f.dest = .v d → (w.puts f val l).p = w.p) ∧ (∀ d, f.dest = .p d → (w.puts f val l).v = w.v) := by
  induction l generalizing w with
  | nil => exact ⟨rfl, fun _ _ => rfl, fun _ _ => rfl⟩
  | cons i l ih =>
    obtain ⟨hkeep, hv, hp⟩ := ih (w.putDest f i (val i))
    rw [Warp.puts_cons]
    refine ⟨?_, fun d hd => (hv d hd).trans ?_, fun d hd => (hp d hd).trans ?_⟩
    · rw [hkeep, Warp.putDest_keeps]
    · have hput : w.putDest f i (val i) = w.putLane d f.ty i (val i) := by rw [Warp.putDest, hd]
      rw [hput, Warp.putLane_keeps]
    · have hput : w.putDest f i (val i) = w.pset d (BitVec.ofNat 32 (2 ^ i)) (BitVec.ofNat 32 (val i % 2 * 2 ^ i)) := by
        rw [Warp.putDest, hd]
      rw [hput, Warp.pset_keeps]

theorem mem_threads (m : BitVec 32) (t : Nat) (ht : t < 32) : t ∈ threads m ↔ m.getLsbD t = true := by
  simp [threads, ht]

end Sys2Proof.Machine

namespace Sys2Proof.Claims
open Sys2Proof.Machine

theorem laneIntegerResults : LaneIntegerResults := by
  intro s w b f
  exact ⟨fun h => (intForm_computes (exec_iadd f s)).writes h, fun h => (intForm_computes (exec_isub f s)).writes h,
    fun h => (intForm_computes (exec_imul f s)).writes h, fun h => (intForm_computes (exec_imulh f s)).writes h,
    fun h => (intForm_computes (exec_imad f s)).writes h, fun h => idiv_computes.writes h,
    fun h => irem_computes.writes h, fun h => (intForm_computes (exec_imin f s)).writes h,
    fun h => (intForm_computes (exec_imax f s)).writes h, fun h => (intForm_computes (exec_iabs f s)).writes h,
    fun h => (intForm_computes (exec_ineg f s)).writes h⟩

theorem laneBitResults : LaneBitResults := by
  intro s w b f
  exact ⟨fun h => (bitForm_computes (exec_laneAnd f s)).writes h, fun h => (bitForm_computes (exec_laneOr f s)).writes h,
    fun h => (bitForm_computes (exec_laneXor f s)).writes h, fun h => (bitForm_computes (exec_not f s)).writes h,
    fun h => (bitForm_computes (exec_laneShl f s)).writes h,
    fun h => laneShr_computes.writes h,
    fun h => (bitForm_computes (exec_rol f s)).writes h, fun h => (bitForm_computes (exec_lanePopc f s)).writes h,
    fun h => (bitForm_computes (exec_laneClz f s)).writes h, fun h => (bitForm_computes (exec_brev f s)).writes h,
    fun h => bfx_computes.writes h, fun h => bfi_computes.writes h,
    fun h => (bitForm_computes (exec_mov f s)).writes h⟩

theorem laneCompareResults : LaneCompareResults := by
  intro s w b f m
  have ne (x y : Int) : (x != y) = decide (x ≠ y) := by rw [bne, beq_eq_decide, decide_not]
  refine ⟨fun h => (intSet_computes (exec_isetEq f s)).writes h, fun h => ?_,
    fun h => (intSet_computes (exec_isetLt f s)).writes h, fun h => (intSet_computes (exec_isetLe f s)).writes h,
    fun h => (intSet_computes (exec_isetGt f s)).writes h, fun h => (intSet_computes (exec_isetGe f s)).writes h,
    fun h hm => (floatSet_computes h rfl hm (exec_fsetEq f s)).writes h,
    fun h hm => (floatSet_computes h rfl hm (exec_fsetNe f s)).writes h,
    fun h hm => (floatSet_computes h rfl hm (exec_fsetLt f s)).writes h,
    fun h hm => (floatSet_computes h rfl hm (exec_fsetLe f s)).writes h,
    fun h hm => (floatSet_computes h rfl hm (exec_fsetUn f s)).writes h⟩
  have := (intSet_computes (exec_isetNe f s)).writes h
  simpa only [ne] using this

theorem laneModularResults : LaneModularResults := by
  intro s w b f
  refine ⟨fun h => blut_computes.writes h, fun h => bpick_computes.writes h,
    fun h => modForm_result (k := fun _ a b _ => a * b) h (exec_modmul f s),
    fun h => modForm_result (k := fun _ a b _ => a + b) h (exec_modadd f s),
    fun h => modForm_result (k := fun q a b _ => a + q - b) h (exec_modsub f s),
    fun h => modForm_result (k := fun _ a b c => a * b + c) h (exec_modmad f s),
    fun h hq hp => (exec_nttBfly f s).trans (modIssue_zero h hq _ hp),
    fun h hq d hd => (exec_nttBfly f s).trans (execNttBfly_eq h hq hd)⟩

theorem laneResultsLand : LaneResultsLand := by
  intro w f val m r
  have hr : r = w.puts f val (threads m) := rfl
  obtain ⟨hkeep, hp, hv⟩ := w.puts_keeps f val (threads m)
  refine ⟨fun d hd k t ht => ?_, fun d hd k t ht => ?_, ?_, ?_, ?_, hp, hv⟩
  · rw [hr, Warp.puts_vget hd val k t ht _ _ (threads_lt m)]
    simp only [mem_threads m t ht]
    cases m.getLsbD t <;> rfl
  · rw [hr, Warp.puts_pget hd val k t ht]
    simp only [mem_threads m t ht]
  all_goals rw [hr, hkeep]

theorem arithmeticTraps : ArithmeticTraps := by
  intro s w b f
  exact ⟨fun h => idiv_computes.traps h, fun h => irem_computes.traps h,
    fun h => (floatForm_computes (exec_fadd f s)).traps h, fun h => (floatForm_computes (exec_fsub f s)).traps h,
    fun h => (floatForm_computes (exec_fmul f s)).traps h, fun h => (floatForm_computes (exec_fma f s)).traps h,
    fun h => (floatForm_computes (exec_fdiv f s)).traps h, fun h => (floatForm_computes (exec_fsqrt f s)).traps h,
    fun h => (floatForm_computes (exec_fmin f s)).traps h, fun h => (floatForm_computes (exec_fmax f s)).traps h,
    fun h => (specialForm_computes (exec_frcp f s)).traps h, fun h => (specialForm_computes (exec_frsq f s)).traps h,
    fun h => (specialForm_computes (exec_fexp2 f s)).traps h, fun h => (specialForm_computes (exec_flog2 f s)).traps h,
    fun h => (specialForm_computes (exec_fsin f s)).traps h, fun h => (specialForm_computes (exec_fcos f s)).traps h,
    fun h => (specialForm_computes (exec_ftanh f s)).traps h, fun h hok => (cvt_computes h hok).traps h,
    fun h => frnd_computes.traps h⟩

end Sys2Proof.Claims

open Sys2Proof.Machine

/-- Settles O15: each form is one computation in registers (`Computes`) of its exact result. -/
theorem laneIntegerAndBits : Obligations.LaneIntegerAndBits :=
  ⟨Sys2Proof.Claims.laneIntegerResults, Sys2Proof.Claims.laneBitResults⟩

/-- Settles O16: each form is one computation in registers, rounded once in the mode that no result changes. -/
theorem laneFloatResults : Obligations.LaneFloatResults := by
  intro s w b f
  exact ⟨fun h => (floatForm_computes (exec_fadd f s)).writes h, fun h => (floatForm_computes (exec_fsub f s)).writes h,
    fun h => (floatForm_computes (exec_fmul f s)).writes h, fun h => (floatForm_computes (exec_fma f s)).writes h,
    fun h => (floatForm_computes (exec_fdiv f s)).writes h, fun h => (floatForm_computes (exec_fsqrt f s)).writes h,
    fun h => (floatForm_computes (exec_fmin f s)).writes h, fun h => (floatForm_computes (exec_fmax f s)).writes h,
    fun h => (signForm_computes (exec_fabs f s)).writes h, fun h => (signForm_computes (exec_fneg f s)).writes h⟩

/-- Settles O17: each form is one computation in registers; an ill-formed format word stops the frame before it. -/
theorem laneConvertResults : Obligations.LaneConvertResults := by
  intro s w b f
  refine ⟨fun h => (specialForm_computes (exec_frcp f s)).writes h, fun h => (specialForm_computes (exec_frsq f s)).writes h,
    fun h => (specialForm_computes (exec_fexp2 f s)).writes h, fun h => (specialForm_computes (exec_flog2 f s)).writes h,
    fun h => (specialForm_computes (exec_fsin f s)).writes h, fun h => (specialForm_computes (exec_fcos f s)).writes h,
    fun h => (specialForm_computes (exec_ftanh f s)).writes h, fun h hok => (cvt_computes h hok).writes h,
    fun h hs hd => ?_, fun h hn hbad hp => cvt_badFormat h hn hbad hp, fun h => frnd_computes.writes h⟩
  have := (cvt_computes h (.inl (cvtNf_of_int hs hd))).writes h
  simpa only [convert, hs, hd, and_self, if_true] using this

/-- Settles O18: compares and modular forms are computations in registers; the butterfly writes two pairs per thread
(`execNttBfly_eq`). -/
theorem laneCompareAndModular : Obligations.LaneCompareAndModular :=
  ⟨Sys2Proof.Claims.laneCompareResults, Sys2Proof.Claims.laneModularResults⟩

/-- Settles O19: a result lands by the write of its destination (`Warp.puts_vget`, `Warp.puts_pget`), and a computation stops
at the first thread whose flags trap (`Computes.traps`). -/
theorem laneResultsAndTraps : Obligations.LaneResultsAndTraps :=
  ⟨Sys2Proof.Claims.laneResultsLand, Sys2Proof.Claims.arithmeticTraps⟩

end

section
/-! PROOFS. Exchanges, ballots and votes, reductions and scans (R320-R324). -/

namespace Sys2Proof.Machine

/-! ### A head block put back commutes with what a lane instruction writes -/

theorem Warp.setHead_keeps (w : Warp) (x : Option Block) :
    w.setHead x = { w with hblock := (w.setHead x).hblock, queue := (w.setHead x).queue } := by
  cases h : w.active with
  | true => rw [w.setHead_of_active x h]
  | false => rw [w.setHead_of_inactive x h]

/-- A change of a warp that leaves `active`, `hblock` and `queue` alone commutes with the head block put back. -/
theorem Warp.setHead_comm (k : Warp → Warp) (w : Warp) (x : Option Block) (ha : (k w).active = w.active)
    (hq : (k w).queue = w.queue)
    (hk : ∀ h q, k { w with hblock := h, queue := q } = { k w with hblock := h, queue := q })
    (hh : (k w).hblock = w.hblock) : k (w.setHead x) = (k w).setHead x := by
  cases h : w.active with
  | true =>
    rw [w.setHead_of_active x h, (k w).setHead_of_active x (ha.trans h)]
    exact (hk x w.queue).trans (congrArg (fun q => { k w with hblock := x, queue := q }) hq.symm)
  | false =>
    rw [w.setHead_of_inactive x h, (k w).setHead_of_inactive x (ha.trans h), hq]
    exact (hk w.hblock _).trans (congrArg (fun y => { k w with hblock := y, queue := x.toList ++ w.queue.tail }) hh.symm)

theorem Warp.setHead_setFlags (w : Warp) (x : Option Block) (fl : Nat) :
    (w.setHead x).setFlags fl = (w.setFlags fl).setHead x :=
  Warp.setHead_comm (·.setFlags fl) w x rfl rfl (fun _ _ => rfl) rfl

theorem Warp.setHead_sset (w : Warp) (x : Option Block) (d : SReg) (y : Word) :
    (w.setHead x).sset d y = (w.sset d y).setHead x :=
  Warp.setHead_comm (·.sset d y) w x rfl rfl (fun _ _ => rfl) rfl

theorem Warp.putDest_active (w : Warp) (f : LaneFields) (t r : Nat) : (w.putDest f t r).active = w.active := by
  rw [Warp.putDest_keeps]
  rfl

theorem Warp.putDest_blocks (w : Warp) (f : LaneFields) (t r : Nat) : (w.putDest f t r).blocks = w.blocks := by
  rw [Warp.putDest_keeps]
  rfl

theorem Warp.setHead_putDest (w : Warp) (x : Option Block) (f : LaneFields) (t r : Nat) :
    (w.setHead x).putDest f t r = (w.putDest f t r).setHead x := by
  refine Warp.setHead_comm (·.putDest f t r) w x (w.putDest_active f t r) ?_ (fun h q => ?_) ?_
  · rw [Warp.putDest_keeps]
  · unfold Warp.putDest Warp.putLane Warp.pset
    dsimp only
    split
    · split <;> rfl
    · split <;> rfl
    · rfl
  · rw [Warp.putDest_keeps]

theorem Warp.setHead_self (w : Warp) (b : Block) (hb : w.blocks.head? = some b) : w.setHead (some b) = w := by
  obtain ⟨r, hr⟩ := List.head?_eq_some_iff.1 hb
  cases h : w.active with
  | true =>
    rw [w.setHead_of_active _ h]
    rw [Warp.blocks, if_pos h] at hr
    cases hh : w.hblock with
    | none => rw [hh] at hr; cases hr
    | some y =>
      rw [hh] at hr
      obtain rfl : y = b := by simpa using (List.cons.inj hr).1
      rw [← hh]
  | false =>
    rw [w.setHead_of_inactive _ h]
    rw [Warp.blocks, if_neg (Bool.eq_false_iff.1 h)] at hr
    rw [hr]
    exact congrArg (fun q => { w with queue := q }) hr.symm

theorem Warp.setHead_operand (w : Warp) (x : Option Block) (f : LaneFields) (ty : LType) (t : Nat) (o : Operand) :
    (w.setHead x).operand f ty t o = w.operand f ty t o := by
  rw [w.setHead_keeps x]
  cases o <;> rfl

theorem Warp.setHead_mode (w : Warp) (x : Option Block) (r : BitVec 3) : (w.setHead x).mode r = w.mode r := by
  rw [w.setHead_keeps x]
  rfl

theorem Warp.setHead_arithCtl (w : Warp) (x : Option Block) : (w.setHead x).arithCtl = w.arithCtl := by
  rw [w.setHead_keeps x]

theorem Warp.setFlags_zero (w : Warp) : w.setFlags 0 = w := by
  rw [Warp.setFlags, show BitVec.ofNat 32 (0 % 32) = 0#32 from rfl, BitVec.or_zero]

theorem Warp.LikeAt.toLike_putDest {w v : Warp} (h : Warp.Like w v) (f : LaneFields) (t r : Nat) :
    Warp.Like w (v.putDest f t r) := by
  rw [Warp.putDest_keeps]
  exact { s := h.s, aBase := h.aBase, aStride := h.aStride, modQ := h.modQ, wid := h.wid, en := h.en, drm := h.drm
          blocks := h.blocks }

/-! ### Exchanges, ballots and votes -/

section
variable {s : State} {w : Warp} {b : Block} {op : Nat} {f : LaneFields}

theorem foldl_putDest_blocks (val : Nat → Nat) (l : List Nat) (v : Warp) :
    (l.foldl (fun v t => v.putDest f t (val t)) v).blocks = v.blocks := by
  induction l generalizing v with
  | nil => rfl
  | cons i l ih => rw [List.foldl_cons, ih, Warp.putDest_blocks]

/-- The value an exchange gives a thread (R320). -/
def exchanged (w : Warp) (f : LaneFields) (n : VReg) (src : Nat → Option Nat) (t : Nat) : Nat :=
  match src t with
  | some j => (w.vget n.val j).toNat
  | none => w.operand f .n32 t f.opc

theorem exchange_eq (h : Claims.AtLane s w b op f) (src : Nat → Nat → Option Nat) {n : VReg} (hn : f.opa = .v n) :
    exchange s op f src = .next (Claims.lanePast s ((threads (participants w b f)).foldl (fun v t =>
      v.putDest f t (exchanged w f n (fun t => src t (w.operand f .n32 t f.opb)) t)) w) b) := by
  rw [exchange, laneAtOnce_eq h]
  obtain ⟨hw, -, hb, -⟩ := h
  simp only [hn]
  rw [State.modWarp_eq_setWarp s s.cur _ w hw]
  exact congrArg _ (laneAdvance_eq s _ w b hw (by rw [← hb]; exact congrArg _ (foldl_putDest_blocks _ _ _)))

theorem exchange_writes {i : Instr} (h : Claims.AtLane s w b op f) {src : Nat → Nat → Option Nat}
    (he : exec i s = exchange s op f src) {n : VReg} (hn : f.opa = .v n) :
    Claims.LaneWrites i s w b f (exchanged w f n fun t => src t (w.operand f .n32 t f.opb)) fun _ => 0 := by
  intro _
  rw [he, exchange_eq h src hn]
  simp only [Warp.setFlags_zero]

/-- A scalar result of a lane instruction lands and the block goes on, when s62's check admits it (R276, R298). -/
theorem State.putScalar_eq {t : State} {v : Warp} {d : SReg} {x : Word} {part : BitVec 32} (ht : t.warp? t.cur = some v)
    (hb : v.blocks.head? = some b) (hd : f.dest = .s d) (hs : ¬(d = 62 ∧ x.toNat < v.limit)) :
    t.putScalar f part x = Claims.lanePast t (v.sset d x) b := by
  simp only [State.putScalar, ht, hd, Warp.writeS, if_neg hs]
  exact laneAdvance_eq t _ v b ht hb

theorem execBallot_eq (h : Claims.AtLane s w b 0x104 f) {d : SReg} (hd : f.dest = .s d)
    (hs : ¬(d = 62 ∧ (w.predOf f.opa &&& participants w b f).toNat < w.limit)) :
    execBallot f s =
      .next (Claims.lanePast s (w.sset d ((w.predOf f.opa &&& participants w b f).setWidth 64)) b) := by
  rw [execBallot, laneAtOnce_eq h]
  obtain ⟨hw, -, hb, -⟩ := h
  have hwide : ((w.predOf f.opa &&& participants w b f).setWidth 64).toNat = (w.predOf f.opa &&& participants w b f).toNat :=
    BitVec.toNat_setWidth_of_le (by omega)
  exact congrArg _ (State.putScalar_eq hw hb hd (by rwa [hwide]))

theorem vote_eq (h : Claims.AtLane s w b op f) (k : BitVec 32 → BitVec 32 → Bool) {d : PReg} (hd : f.dest = .p d) :
    vote s op f k = .next (Claims.lanePast s (w.pset d (participants w b f)
      (if k (w.predOf f.opa &&& participants w b f) (participants w b f) then BitVec.allOnes 32 else 0)) b) := by
  rw [vote, laneAtOnce_eq h]
  obtain ⟨hw, -, hb, -⟩ := h
  simp only [hd]
  rw [State.modWarp_eq_setWarp s s.cur _ w hw, laneAdvance_eq s _ w b hw (by rw [Warp.pset_blocks]; exact hb)]

end

/-! ### Reductions and scans: the running value stands in the head block (R324) -/

/-- The state of a reduction or scan under way: the warp as its threads have left it, with the running value in its head
block. -/
def underWay (s : State) (b : Block) (a : Warp × Option Nat) : State :=
  s.setWarp s.cur (a.1.setHead (some { b with running := a.2.map (BitVec.ofNat 64) }))

section
variable {s : State} {w : Warp} {b : Block} {f : LaneFields}

theorem underWay_warp? (hw : s.warp? s.cur = some w) (a : Warp × Option Nat) :
    (underWay s b a).warp? (underWay s b a).cur =
      some (a.1.setHead (some { b with running := a.2.map (BitVec.ofNat 64) })) := by
  rw [underWay, State.setWarp_cur]
  exact State.setWarp_warp?_same s s.cur w _ hw

theorem underWay_start (hw : s.warp? s.cur = some w) (hb : w.blocks.head? = some b) (hr : b.running = none) :
    underWay s b (w, none) = s := by
  have hself : ({ b with running := (none : Option Nat).map (BitVec.ofNat 64) } : Block) = b := by
    rw [Option.map_none, ← hr]
  rw [underWay, hself, w.setHead_self b hb, State.setWarp_self s s.cur w hw]

/-- A running value as the block keeps it. -/
def Fits (x : Option Nat) : Prop := ∀ y, x = some y → y < 2 ^ 64

theorem underWay_running (hw : s.warp? s.cur = some w) (a : Warp × Option Nat) (hfit : Fits a.2) :
    (underWay s b a).running = a.2 := by
  rw [State.running, underWay_warp? hw]
  dsimp only
  rw [Warp.setHead_blocks_head]
  cases h : a.2 with
  | none => rfl
  | some y =>
    have : (BitVec.ofNat 64 y).toNat = y := by rw [BitVec.toNat_ofNat, Nat.mod_eq_of_lt (hfit y h)]
    exact congrArg some this

theorem underWay_raise (hw : s.warp? s.cur = some w) (a : Warp × Option Nat) (fl : Nat)
    (hn : a.1.trapsOn fl = false) :
    (underWay s b a).raise fl = .ok (underWay s b (a.1.setFlags fl, a.2)) := by
  have htr : (a.1.setHead (some { b with running := a.2.map (BitVec.ofNat 64) })).trapsOn fl = false := by
    rwa [Warp.trapsOn, Warp.setHead_arithCtl]
  have hcur := underWay_warp? (b := b) hw a
  simp only [State.raise, hcur, htr, Bool.false_eq_true, if_false]
  rw [State.modWarp_eq_setWarp _ _ _ _ hcur, underWay, State.setWarp_cur, State.setWarp_setWarp,
    Warp.setHead_setFlags]
  rfl

theorem underWay_setRunning (hw : s.warp? s.cur = some w) (a : Warp × Option Nat) (x : Nat) :
    (underWay s b a).setRunning x = underWay s b (a.1, some (x % 2 ^ 64)) := by
  have hx : BitVec.ofNat 64 (x % 2 ^ 64) = BitVec.ofNat 64 x := by
    apply BitVec.eq_of_toNat_eq
    simp
  rw [State.setRunning, State.modHead_eq_setWarp _ _ _ _ (underWay_warp? hw a) (Warp.setHead_blocks_head _ _),
    underWay, State.setWarp_cur, State.setWarp_setWarp, Warp.setHead_setHead, underWay, Option.map_some, hx]

theorem underWay_putDest (hw : s.warp? s.cur = some w) (a : Warp × Option Nat) (t x : Nat) :
    ((underWay s b a).modWarp (underWay s b a).cur fun w => w.putDest f t x) = underWay s b (a.1.putDest f t x, a.2) := by
  rw [State.modWarp_eq_setWarp _ _ _ _ (underWay_warp? hw a), underWay, State.setWarp_cur, State.setWarp_setWarp,
    Warp.setHead_putDest]
  rfl

/-- A body over threads that takes one state of a reduction or scan under way to the next, takes them all. -/
theorem perThread_underWay (hw : s.warp? s.cur = some w) (hm : b.stopAt = none) (k : State → Nat → Except Stop State)
    (step : Warp × Option Nat → Nat → Warp × Option Nat) (P : Warp × Option Nat → Nat → Prop)
    (hk : ∀ a t, t < 32 → P a t → Fits a.2 → k (underWay s b a) t = .ok (underWay s b (step a t)))
    (hP : ∀ a i t, i < 32 → t < 32 → i ≠ t → P a t → P (step a i) t) (hfit : ∀ a t, Fits (step a t).2)
    (l : List Nat) (hl : ∀ t ∈ l, t < 32) (hd : l.Nodup) (a : Warp × Option Nat) (ha : ∀ t ∈ l, P a t)
    (hf : Fits a.2) : perThread k l (underWay s b a) = (underWay s b (l.foldl step a), none) := by
  induction l generalizing a with
  | nil => rfl
  | cons i r ih =>
    obtain ⟨hi, hr⟩ := List.forall_mem_cons.1 hl
    obtain ⟨hni, hdr⟩ := List.nodup_cons.1 hd
    have hnone := State.mismatch_none _ _ _ i (underWay_warp? (b := b) hw a) (Warp.setHead_blocks_head _ _) hm
    rw [perThread, hnone, if_neg Bool.false_ne_true, hk a i hi (ha i (List.mem_cons_self ..)) hf]
    exact ih hr hdr _ (fun t ht => hP a i t hi (hr t ht) (fun e => hni (e ▸ ht)) (ha t (List.mem_cons_of_mem _ ht)))
      (hfit a i)

theorem Combine.step_int_flags (k : Combine) (ty : LType) (md : Mode) (acc : Option Nat) (x : Nat) (h : ty ≠ .f32) :
    (k.step ty md acc x).2 = 0 := by
  cases acc <;> simp only [Combine.step, h, if_false]

/-- No step of a reduction traps when a floating one has no flag enabled (R201). -/
theorem Warp.trapsOn_step {v : Warp} (hv : Warp.Like w v) (hen : f.ty = .f32 → field w.arithCtl 12 8 = 0) (k : Combine)
    (md : Mode) (acc : Option Nat) (x : Nat) : v.trapsOn (k.step f.ty md acc x).2 = false := by
  by_cases hty : f.ty = .f32
  · rw [hv.trapsOn, Warp.trapsOn, hen hty, Nat.and_zero]
    rfl
  · rw [Combine.step_int_flags _ _ _ _ _ hty, Warp.trapsOn, Nat.zero_mod, Nat.zero_and]
    rfl

/-- A reduction's step at a thread: its value with the operand of the warp before the instruction, and its flags. -/
def reduceStep (w : Warp) (f : LaneFields) (k : Combine) (a : Warp × Option Nat) (t : Nat) : Warp × Option Nat :=
  (a.1.setFlags (k.step f.ty (w.mode f.rnd) a.2 (Claims.opA w f t)).2,
    some ((k.step f.ty (w.mode f.rnd) a.2 (Claims.opA w f t)).1 % 2 ^ 64))

theorem fits_mod (x : Nat) : Fits (some (x % 2 ^ 64)) := by
  rintro y ⟨⟩
  exact Nat.mod_lt _ (by decide)

theorem reduceThread_eq (hw : s.warp? s.cur = some w) (hen : f.ty = .f32 → field w.arithCtl 12 8 = 0) (k : Combine)
    (a : Warp × Option Nat) (t : Nat) (hlike : Warp.LikeAt w a.1 t) (hfit : Fits a.2) :
    reduceThread k f (underWay s b a) t = .ok (underWay s b (reduceStep w f k a t)) := by
  have hraise := underWay_raise (b := b) hw a _
    (Warp.trapsOn_step hlike.toLike hen k (w.mode f.rnd) a.2 (Claims.opA w f t))
  simp only [reduceThread, underWay_warp? hw, underWay_running hw a hfit, Warp.setHead_mode, Warp.setHead_operand,
    hlike.operand, hlike.mode]
  refine (congrArg (· >>= _) hraise).trans ?_
  exact congrArg Except.ok (underWay_setRunning hw _ _)

/-- The warp and the value of a reduction over a list of threads. -/
def reduced (w : Warp) (f : LaneFields) (k : Combine) (l : List Nat) : Warp × Option Nat :=
  l.foldl (reduceStep w f k) (w, none)

theorem reduced_keeps (w : Warp) (f : LaneFields) (k : Combine) (l : List Nat) :
    (reduced w f k l).1.limit = w.limit ∧ Fits (reduced w f k l).2 := by
  suffices h : ∀ (a : Warp × Option Nat), Fits a.2 →
      (l.foldl (reduceStep w f k) a).1.limit = a.1.limit ∧ Fits (l.foldl (reduceStep w f k) a).2 from
    h (w, none) fun _ h => nomatch h
  induction l with
  | nil => exact fun _ hfit => ⟨rfl, hfit⟩
  | cons i l ih => exact fun a _ => ih (reduceStep w f k a i) (fits_mod _)

variable {op : Nat}

/-- A reduction lands its value and flags (R322, R324). -/
theorem redux_eq (h : Claims.AtLane s w b op f) (hrun : b.running = none)
    (hen : f.ty = .f32 → field w.arithCtl 12 8 = 0) (k : Combine) {d : SReg} (hd : f.dest = .s d) {x : Word}
    (hx : x = reduxWord f.ty ((reduced w f k (threads (participants w b f))).2.getD (k.identity f.ty)))
    (hs : ¬(d = 62 ∧ x.toNat < w.limit)) :
    redux s op f k =
      .next (Claims.lanePast s ((reduced w f k (threads (participants w b f))).1.sset d x) b) := by
  obtain ⟨hw, hl, hb, hf, hr, ht, -, hm⟩ := h
  have hall : perThread (reduceThread k f) (threads (participants w b f)) (underWay s b (w, none)) =
      (underWay s b (reduced w f k (threads (participants w b f))), none) :=
    perThread_underWay (b := b) hw hm (reduceThread k f) (reduceStep w f k) (fun a t => Warp.LikeAt w a.1 t)
    (fun a t _ => reduceThread_eq hw hen k a t) (fun a i t _ _ _ hl => hl.setFlags _) (fun a t => fits_mod _)
    (threads (participants w b f)) (threads_lt _) (threads_nodup _) (w, none) (fun t _ => Warp.LikeAt.refl w t)
    (fun _ h => nomatch h)
  rw [underWay_start hw hb hrun] at hall
  obtain ⟨hkeep, hfit⟩ := reduced_keeps w f k (threads (participants w b f))
  rw [redux, laneOpFrame_eq s op f _ w b hw hl hb hf hr, todo_zero b _ ht]
  simp only [hall]
  generalize reduced w f k (threads (participants w b f)) = red at *
  rw [underWay_running hw red hfit, ← hx]
  have hlim : ¬(d = 62 ∧ x.toNat <
      (red.1.setHead (some { b with running := red.2.map (BitVec.ofNat 64) })).limit) := by
    rw [Warp.setHead_keeps]
    exact hkeep.symm ▸ hs
  rw [State.putScalar_eq (underWay_warp? hw red) (Warp.setHead_blocks_head _ _) hd hlim, Claims.lanePast, underWay,
    State.setWarp_cur, State.setWarp_setWarp, Warp.setHead_sset, Warp.setHead_setHead]
  rfl

/-- A scan's step at a thread: inclusive, or exclusive of its own value, which no sum takes when no thread follows. -/
def scanStep (w : Warp) (f : LaneFields) (k : Combine) (excl : Bool) (l : List Nat) (a : Warp × Option Nat) (t : Nat) :
    Warp × Option Nat :=
  let r := if excl && l.all fun i => i ≤ t then (a.2.getD 0, 0)
    else k.step f.ty (w.mode f.rnd) a.2 (Claims.opA w f t)
  ((a.1.setFlags r.2).putDest f t (if excl then a.2.getD 0 else r.1), some (r.1 % 2 ^ 64))

theorem scanThread_eq (hw : s.warp? s.cur = some w) (hen : f.ty = .f32 → field w.arithCtl 12 8 = 0) (k : Combine)
    (excl : Bool) (part : BitVec 32) (a : Warp × Option Nat) (t : Nat) (hlike : Warp.LikeAt w a.1 t) (hfit : Fits a.2) :
    scanThread k excl f part (underWay s b a) t =
      .ok (underWay s b (scanStep w f k excl (threads part) a t)) := by
  have hzero : a.1.trapsOn 0 = false := by
    rw [Warp.trapsOn, Nat.zero_mod, Nat.zero_and]
    rfl
  have hstep := Warp.trapsOn_step hlike.toLike hen k (w.mode f.rnd) a.2 (Claims.opA w f t)
  simp only [scanThread, underWay_warp? hw, underWay_running hw a hfit, Warp.setHead_mode, Warp.setHead_operand,
    hlike.operand, hlike.mode, scanStep]
  cases hlast : excl && (threads part).all fun i => decide (i ≤ t) with
  | true =>
    simp only [if_true]
    refine (congrArg (· >>= _) (underWay_raise hw a _ hzero)).trans (congrArg Except.ok ?_)
    rw [underWay_putDest hw, underWay_setRunning hw]
  | false =>
    simp only [Bool.false_eq_true, if_false]
    refine (congrArg (· >>= _) (underWay_raise hw a _ hstep)).trans (congrArg Except.ok ?_)
    rw [underWay_putDest hw, underWay_setRunning hw]
    rfl

theorem scanned_blocks (k : Combine) (excl : Bool) (m l : List Nat) (a : Warp × Option Nat) :
    (l.foldl (scanStep w f k excl m) a).1.blocks = a.1.blocks := by
  induction l generalizing a with
  | nil => rfl
  | cons i l ih => exact (ih _).trans (Warp.putDest_blocks _ _ _ _)

/-- A scan lands each thread's value and flags (R323, R324). -/
theorem scan_eq (h : Claims.AtLane s w b op f) (hrun : b.running = none)
    (hen : f.ty = .f32 → field w.arithCtl 12 8 = 0) (k : Combine) (excl : Bool) :
    scan s op f k excl = .next (Claims.lanePast s ((threads (participants w b f)).foldl
      (scanStep w f k excl (threads (participants w b f))) (w, none)).1 b) := by
  obtain ⟨hw, hl, hb, hf, hr, ht, -, hm⟩ := h
  have hall := perThread_underWay (b := b) hw hm (scanThread k excl f (participants w b f))
    (scanStep w f k excl (threads (participants w b f))) (fun a t => Warp.LikeAt w a.1 t)
    (fun a t _ => scanThread_eq hw hen k excl _ a t)
    (fun a i t hi ht hne hl => (hl.setFlags _).putDest f i _ hi ht hne) (fun a t => fits_mod _)
    (threads (participants w b f)) (threads_lt _) (threads_nodup _) (w, none) (fun t _ => Warp.LikeAt.refl w t)
    (fun _ h => nomatch h)
  rw [underWay_start hw hb hrun] at hall
  rw [scan, laneOpFrame_eq s op f _ w b hw hl hb hf hr, todo_zero b _ ht]
  simp only [hall]
  rw [State.laneAdvance, State.modHead_eq_setWarp _ _ _ _ (underWay_warp? hw _) (Warp.setHead_blocks_head _ _), underWay,
    State.setWarp_cur, State.setWarp_setWarp, Warp.setHead_setHead]
  rfl

end

end Sys2Proof.Machine

namespace Sys2Proof.Claims
open Sys2Proof.Machine

theorem crossThreadResults : CrossThreadResults := by
  intro s w b f n
  refine ⟨fun h hn => exchange_writes h (exec_lxchSel f s) hn, fun h hn => exchange_writes h (exec_lxchLag f s) hn,
    fun h hn => exchange_writes h (exec_lxchLead f s) hn, fun h hn => exchange_writes h (exec_lxchMir f s) hn,
    
    fun h _ hd hs => (exec_ballot f s).trans (execBallot_eq h hd hs),
    fun h _ hd => (exec_voteAny f s).trans (vote_eq h _ hd), fun h _ hd => (exec_voteAll f s).trans (vote_eq h _ hd)⟩

theorem reductionResults : ReductionResults := by
  intro s w b f hrun hen
  exact ⟨fun h _ hd hs => (exec_reduxAdd f s).trans (redux_eq h hrun hen .add hd rfl hs),
    fun h _ hd hs => (exec_reduxMin f s).trans (redux_eq h hrun hen .min hd rfl hs),
    fun h _ hd hs => (exec_reduxMax f s).trans (redux_eq h hrun hen .max hd rfl hs),
    fun h _ hd hs => (exec_reduxAnd f s).trans (redux_eq h hrun hen .and hd rfl hs),
    fun h _ hd hs => (exec_reduxOr f s).trans (redux_eq h hrun hen .or hd rfl hs),
    fun h _ hd hs => (exec_reduxXor f s).trans (redux_eq h hrun hen .xor hd rfl hs),
    fun h => (exec_scanAdd f s).trans (scan_eq h hrun hen .add false),
    fun h => (exec_scanMax f s).trans (scan_eq h hrun hen .max false),
    fun h => (exec_scanAddx f s).trans (scan_eq h hrun hen .add true)⟩

end Sys2Proof.Claims

/-- Settles O21: exchanges and votes act at once on the warp before them; a reduction or scan goes thread by thread through
states that differ in the warp and the running value alone (`underWay`). -/
theorem crossThreadAndReductions : Obligations.CrossThreadAndReductions :=
  ⟨Sys2Proof.Claims.crossThreadResults, Sys2Proof.Claims.reductionResults⟩

end

section
/-! PROOFS. Scalar accesses to scratchpad and memory, and atomics (R273-R275, R342-R345); what a home serves (R57-R61). -/

namespace Sys2Proof.Machine

/-! ### Bodies of instructions: what each check and each part passes on -/

section
variable {α β : Type}

@[simp] theorem ok_bind (x : α) (k : α → Except Stop β) : (Except.ok x >>= k) = k x := rfl

@[simp] theorem error_bind (e : Stop) (k : α → Except Stop β) : ((Except.error e : Except Stop α) >>= k) = .error e := rfl

@[simp] theorem pure_eq_ok (x : α) : (pure x : Except Stop α) = .ok x := rfl

@[simp] theorem need_true (e : Stop) : need true e = .ok () := rfl

@[simp] theorem need_false (e : Stop) : need false e = .error e := rfl

@[simp] theorem State.keep_ok (s : State) (x : α) : s.keep (.ok x) = .ok x := rfl

theorem aligned_ok {a : Word} {n : Nat} (h : a.toNat % n = 0) : aligned a n = .ok () := by
  rw [aligned, h]
  rfl

theorem aligned_error {a : Word} {n : Nat} (h : a.toNat % n ≠ 0) : aligned a n = .error (alignment a) := by
  rw [aligned, beq_eq_false_iff_ne.2 h]
  rfl

end

section
variable {s t : State} {w : Warp} {u : RegUse} {body : Warp → Workgroup → Except Stop State}

/-- A scalar instruction whose body passes goes on. -/
theorem scalarOp_ok (h : Claims.Issues s w u) (hbody : body w (s.wgOf w) = .ok t) :
    scalarOp s u body = .next t.advance := by
  obtain ⟨hw, hl, hb⟩ := h
  rw [scalarOp_eq s u w body hw hl hb, hbody]

/-- A scalar instruction whose body stops, stops there. -/
theorem scalarOp_error (h : Claims.Issues s w u) {e : Stop} (hbody : body w (s.wgOf w) = .error e) :
    scalarOp s u body = .next (s.stopped s.cur w.pc e) := by
  obtain ⟨hw, hl, hb⟩ := h
  rw [scalarOp_eq s u w body hw hl hb, hbody]

/-- A scalar instruction whose body only writes a register is its result (R276). -/
theorem scalarOp_writes (h : Claims.Issues s w u) {d : SReg} {x : Word} (hbody : body w (s.wgOf w) = s.putS d x) :
    scalarOp s u body = .next (if d = 62 ∧ x.toNat < w.limit then s.trap s.cur { cause := 0x04 } w.pc
      else Claims.past s { w with s := Tab.set 0 w.s d.val x }) := by
  have hput := hbody.trans (putS_eq s d x w h.1)
  by_cases hs : d = 62 ∧ x.toNat < w.limit
  · rw [if_pos hs] at hput ⊢
    exact scalarOp_error h hput
  · rw [if_neg hs] at hput ⊢
    rw [scalarOp_ok h hput, advance_setWarp s _ w h.1]
    rfl

/-- A scalar result that s62's check admits. -/
theorem putS_ok {d : SReg} {x : Word} (hw : s.warp? s.cur = some w) (h : ¬(d = 62 ∧ x.toNat < w.limit)) :
    s.putS d x = .ok (s.setWarp s.cur (w.sset d x)) := by
  rw [putS_eq s d x w hw, if_neg h]

end

theorem spScope_le (c : Scope) : spScope c ≤ 3 := Nat.min_le_left 3 _

/-- An acquire part at workgroup or cluster scope changes nothing (R142). -/
theorem State.acquire_near (s : State) (core : Nat) {scope : Nat} (h : scope ≤ 3) : s.acquire core scope = s := if_pos h

theorem State.acquireOrd_near (s : State) (core : Nat) (o : MemOrd) {scope : Nat} (h : scope ≤ 3) :
    s.acquireOrd core o scope = s := by
  rw [State.acquireOrd, s.acquire_near core h, ite_self]

theorem State.spLoad_ok {s : State} {c n : Nat} (h : s.mem.spPoisoned c n = false) :
    s.spLoad c n = .ok (readN s.mem.sp c n) := by
  rw [State.spLoad, h]
  rfl

/-! ### Warps that differ in their monitors alone -/

/-- Every warp stands as before but for its monitor. -/
def MonitorsOnly (s t : State) : Prop := ∀ i w, s.warp? i = some w → ∃ m, t.warp? i = some { w with mon := m }

theorem MonitorsOnly.refl (s : State) : MonitorsOnly s s := fun _ w h => ⟨w.mon, h⟩

theorem MonitorsOnly.trans {s t u : State} (h : MonitorsOnly s t) (k : MonitorsOnly t u) : MonitorsOnly s u := by
  intro i w hw
  obtain ⟨m, hm⟩ := h i w hw
  obtain ⟨m', hm'⟩ := k i _ hm
  exact ⟨m', hm'⟩

theorem MonitorsOnly.of_warps {s t : State} (h : t.warps = s.warps) : MonitorsOnly s t := by
  intro i w hw
  exact ⟨w.mon, by rw [State.warp?, h]; exact hw⟩

/-- The warp that `wakeIf` leaves of one. -/
def Warp.wokenIf (p : Warp → Watch → Bool) (w : Warp) : Warp :=
  match w.mon with
  | some m => if p w m.watch then { w with mon := some { m with hit := true } } else w
  | none => w

theorem State.wakeIf_warp? (s : State) (p : Warp → Watch → Bool) (i : Nat) :
    (s.wakeIf p).warp? i = (s.warp? i).map (Warp.wokenIf p) := List.getElem?_map ..

theorem Warp.wokenIf_keeps (p : Warp → Watch → Bool) (w : Warp) :
    w.wokenIf p = { w with mon := (w.wokenIf p).mon } := by
  unfold Warp.wokenIf
  split
  · split <;> rfl
  · rfl

theorem State.wakeIf_monitorsOnly (s : State) (p : Warp → Watch → Bool) : MonitorsOnly s (s.wakeIf p) := by
  intro i w hw
  refine ⟨(w.wokenIf p).mon, ?_⟩
  rw [State.wakeIf_warp?, hw, ← Warp.wokenIf_keeps]
  rfl

/-! ### What a scratchpad write leaves (R51, R159) -/

/-- Keys in a run cleared one by one: they read as the default, and others as before. -/
theorem get_foldl_clear (m : Tab Bool) (a n j : Nat) :
    Tab.get false ((List.range n).foldl (fun t i => Tab.set false t (a + i) false) m) j =
      if a ≤ j ∧ j < a + n then false else Tab.get false m j := by
  induction n with
  | zero => rw [List.range_zero, List.foldl_nil, if_neg (by omega)]
  | succ n ih =>
    rw [List.range_succ, List.foldl_append, List.foldl_cons, List.foldl_nil, Tab.get_set, ih]
    by_cases h : a + n = j
    · rw [if_pos h, if_pos (by omega)]
    · rw [if_neg h]
      by_cases hj : a ≤ j ∧ j < a + n
      · rw [if_pos hj, if_pos (by omega)]
      · rw [if_neg hj, if_neg (by omega)]

theorem State.spStore_sp (s : State) (c n x : Nat) : (s.spStore c n x).mem.sp = writeN s.mem.sp c n x := rfl

theorem State.spStore_monitorsOnly (s : State) (c n x : Nat) : MonitorsOnly s (s.spStore c n x) := by
  intro i w hw
  unfold State.spStore State.wakeCells
  exact State.wakeIf_monitorsOnly _ _ i w hw

/-! ### Atomics: the word that each operation writes (R344) -/

theorem signed_eq_toInt (n x : Nat) (hn : 0 < n) : signed n x = (BitVec.ofNat n x).toInt := by
  have hpow : 2 * 2 ^ (n - 1) = 2 ^ n := by rw [← Nat.pow_succ', Nat.succ_eq_add_one, Nat.sub_add_cancel hn]
  rw [signed, BitVec.toInt_eq_toNat_cond, BitVec.toNat_ofNat]
  by_cases h : x % 2 ^ n < 2 ^ (n - 1)
  · rw [if_pos h, if_pos (by omega)]
  · rw [if_neg h, if_neg (by omega)]
    norm_cast

theorem signed_lt_iff_slt (n x y : Nat) (hn : 0 < n) :
    decide (signed n x < signed n y) = (BitVec.ofNat n x).slt (BitVec.ofNat n y) := by
  rw [signed_eq_toInt n x hn, signed_eq_toInt n y hn, BitVec.slt]

/-! ### Memory as its homes serve it: recalls and directory entries change no byte of it (R57-R61) -/

theorem writeMasked_get (m : Tab Byte) (a n mask x i : Nat) (hi : i < n) :
    Tab.get 0 (writeMasked m a n mask x) (a + i) =
      if mask.testBit i then BitVec.ofNat 8 (x / 2 ^ (8 * i)) else Tab.get 0 m (a + i) := by
  induction n generalizing m a mask x i with
  | zero => omega
  | succ n ih =>
    rw [writeMasked]
    cases i with
    | zero =>
      rw [Nat.add_zero, writeMasked_get_out _ _ _ _ _ _ (by omega), Nat.testBit_zero]
      by_cases h : mask % 2 = 1
      · simp [h]
      · simp [h]
    | succ i =>
      rw [← Nat.add_assoc, Nat.add_right_comm, ih _ _ _ _ _ (by omega), Nat.testBit_succ, Nat.div_div_eq_div_mul,
        show (256 : Nat) * 2 ^ (8 * i) = 2 ^ (8 * (i + 1)) by rw [Nat.mul_add, Nat.pow_add, Nat.mul_comm]]
      have hne : Tab.get 0 (if mask % 2 = 1 then Tab.set 0 m a (BitVec.ofNat 8 x) else m) (a + 1 + i) =
          Tab.get 0 m (a + 1 + i) := by
        split
        · exact Tab.get_set_ne _ _ _ _ _ (by omega)
        · rfl
      rw [hne]

/-- One byte as its home serves it, from the mapped row, the owner's line and memory. -/
def servedByte (m : Mem) (pa : Nat) (o : SliceLine) : Byte :=
  if o.mask.getLsbD (pa % 128) then BitVec.ofNat 8 (o.data.toNat / 2 ^ (8 * (pa % 128))) else Tab.get 0 m.bytes pa

theorem Mem.byteAt_of_unmapped {m : Mem} {pa : Nat} (h : m.mapCell (pa / 128) = none) :
    m.byteAt pa = servedByte m pa (Tab.get SliceLine.none m.slice (pa / 128)) := by
  rw [Mem.byteAt, h]
  rfl

theorem Mem.byteAt_of_mapped {m : Mem} {pa c : Nat} (h : m.mapCell (pa / 128) = some c) :
    m.byteAt pa = Tab.get 0 m.sp (c + pa % 128) := by
  rw [Mem.byteAt, h]

theorem Mem.byteAt_congr {m n : Mem} (hm : n.maps = m.maps) (hs : n.sp = m.sp) (hl : n.slice = m.slice)
    (hb : n.bytes = m.bytes) (pa : Nat) : n.byteAt pa = m.byteAt pa := by
  unfold Mem.byteAt Mem.mapCell
  rw [hm, hs, hl, hb]

theorem Mem.mapCell_congr {m n : Mem} (h : n.maps = m.maps) (line : Nat) : n.mapCell line = m.mapCell line := by
  unfold Mem.mapCell
  rw [h]

theorem SliceLine.none_mask (i : Nat) : SliceLine.none.mask.getLsbD i = false := by
  exact BitVec.getLsbD_zero

theorem Mem.recall_of_none {m : Mem} {line : Nat} (h : Tab.get SliceLine.none m.slice line = SliceLine.none) :
    m.recall line = m := by
  unfold Mem.recall
  exact if_pos h

theorem Mem.recall_of_some {m : Mem} {line : Nat} (h : Tab.get SliceLine.none m.slice line ≠ SliceLine.none) :
    m.recall line = { m with
      bytes := writeMasked m.bytes (line * 128) 128 (Tab.get SliceLine.none m.slice line).mask.toNat
        (Tab.get SliceLine.none m.slice line).data.toNat
      poison := clearPoison m.poison (line * 4) (Tab.get SliceLine.none m.slice line).mask.toNat
      slice := Tab.set SliceLine.none m.slice line SliceLine.none } := by
  unfold Mem.recall
  exact if_neg h

/-- What memory serves of a line whose owner's bytes have been written to it. -/
theorem servedByte_recalled (m n : Mem) (line pa : Nat) (o : SliceLine)
    (ho : o = Tab.get SliceLine.none m.slice line)
    (hb : n.bytes = writeMasked m.bytes (line * 128) 128 o.mask.toNat o.data.toNat)
    (hs : n.slice = Tab.set SliceLine.none m.slice line SliceLine.none) :
    servedByte n pa (Tab.get SliceLine.none n.slice (pa / 128)) =
      servedByte m pa (Tab.get SliceLine.none m.slice (pa / 128)) := by
  unfold servedByte
  rw [hb, hs]
  by_cases hp : line = pa / 128
  · subst hp
    have hpa : pa = pa / 128 * 128 + pa % 128 := by omega
    have hbyte := writeMasked_get m.bytes (pa / 128 * 128) 128 o.mask.toNat o.data.toNat (pa % 128)
      (Nat.mod_lt _ (by decide))
    rw [← hpa] at hbyte
    rw [Tab.get_set_same, SliceLine.none_mask, if_neg Bool.false_ne_true, hbyte, ← ho]
    rfl
  · rw [Tab.get_set_ne _ _ _ _ _ hp, writeMasked_get_out _ _ _ _ _ _ (by omega)]

/-- A recall puts an owner's dirty bytes where they read as before (R59, R60). -/
theorem Mem.recall_byteAt (m : Mem) (line pa : Nat) : (m.recall line).byteAt pa = m.byteAt pa := by
  by_cases ho : Tab.get SliceLine.none m.slice line = SliceLine.none
  · rw [Mem.recall_of_none ho]
  · have hr := Mem.recall_of_some ho
    have hcell := Mem.mapCell_congr (m := m) (n := m.recall line) (by rw [hr]) (pa / 128)
    cases hc : m.mapCell (pa / 128) with
    | some c => rw [Mem.byteAt_of_mapped hc, Mem.byteAt_of_mapped (hcell.trans hc), hr]
    | none =>
      rw [Mem.byteAt_of_unmapped hc, Mem.byteAt_of_unmapped (hcell.trans hc)]
      exact servedByte_recalled m _ line pa _ rfl (by rw [hr]) (by rw [hr])

theorem Mem.setDir_byteAt (m : Mem) (line : Nat) (d : DirEntry) (pa : Nat) : (m.setDir line d).byteAt pa = m.byteAt pa :=
  Mem.byteAt_congr (m := m) rfl rfl rfl rfl pa

theorem Mem.homeRead_byteAt (m : Mem) (c line pa : Nat) : (m.homeRead c line).byteAt pa = m.byteAt pa := by
  unfold Mem.homeRead
  split
  · exact m.setDir_byteAt ..
  · split
    · rfl
    · exact m.setDir_byteAt ..
  · split
    · rfl
    · rw [Mem.setDir_byteAt, Mem.recall_byteAt]
  · rfl

theorem Mem.homeLoad_byteAt (m : Mem) (line pa : Nat) : (m.homeLoad line).byteAt pa = m.byteAt pa := by
  unfold Mem.homeLoad
  split
  · rw [Mem.setDir_byteAt, Mem.recall_byteAt]
  · rfl

theorem Mem.homeOwn_byteAt (m : Mem) (c line pa : Nat) : (m.homeOwn c line).byteAt pa = m.byteAt pa := by
  unfold Mem.homeOwn
  split
  · rfl
  · split
    · rfl
    · rw [Mem.setDir_byteAt, Mem.recall_byteAt]
  · exact m.setDir_byteAt ..

theorem Mem.homeTake_byteAt (m : Mem) (line pa : Nat) : (m.homeTake line).byteAt pa = m.byteAt pa := by
  unfold Mem.homeTake
  split
  · rfl
  · rw [Mem.setDir_byteAt, Mem.recall_byteAt]

theorem Mem.leave_byteAt (m : Mem) (c line pa : Nat) : (m.leave c line).byteAt pa = m.byteAt pa := by
  unfold Mem.leave
  split
  · exact m.setDir_byteAt ..
  · split
    · rw [Mem.setDir_byteAt, Mem.recall_byteAt]
    · rfl
  · rfl

/-- Every byte is served as before, and every warp stands as before but for its monitor. -/
structure Serves (s t : State) : Prop where
  bytes : ∀ pa, t.mem.byteAt pa = s.mem.byteAt pa
  warps : MonitorsOnly s t

theorem Serves.refl (s : State) : Serves s s := ⟨fun _ => rfl, MonitorsOnly.refl s⟩

theorem Serves.trans {s t u : State} (h : Serves s t) (k : Serves t u) : Serves s u :=
  ⟨fun pa => (k.bytes pa).trans (h.bytes pa), h.warps.trans k.warps⟩

theorem Serves.of_mem {s : State} {m : Mem} (h : ∀ pa, m.byteAt pa = s.mem.byteAt pa) : Serves s { s with mem := m } :=
  ⟨h, MonitorsOnly.of_warps rfl⟩

theorem Serves.readCoh {s t : State} (h : Serves s t) (pa n : Nat) : t.mem.readCoh pa n = s.mem.readCoh pa n := by
  induction n generalizing pa with
  | zero => rfl
  | succ n ih => rw [Mem.readCoh, Mem.readCoh, h.bytes, ih]

theorem State.wakeIf_serves (s : State) (p : Warp → Watch → Bool) : Serves s (s.wakeIf p) :=
  ⟨fun _ => rfl, s.wakeIf_monitorsOnly p⟩

theorem State.count_serves (s : State) (core ev n : Nat) : Serves s (s.count core ev n) := by
  unfold State.count
  dsimp only
  split
  · exact Serves.refl s
  · exact ⟨fun _ => rfl, MonitorsOnly.of_warps rfl⟩

theorem State.homeTake_serves (s : State) (line : Nat) : Serves s (s.homeTake line) := by
  have hmem : Serves s { s with mem := s.mem.homeTake line } := Serves.of_mem (s.mem.homeTake_byteAt line)
  unfold State.homeTake
  dsimp only
  split
  · exact hmem
  · exact hmem.trans (State.wakeIf_serves _ _)

theorem State.leaveLine_serves (s : State) (c line : Nat) : Serves s (s.leaveLine c line) := by
  have hmem : Serves s { s with mem := s.mem.leave c line } := Serves.of_mem (s.mem.leave_byteAt c line)
  unfold State.leaveLine State.wakeHolders
  exact hmem.trans (State.wakeIf_serves _ _)

theorem State.victim_serves (s : State) (named : Option Nat) : Serves s (s.victim named).2 := by
  cases named with
  | some n => exact Serves.refl s
  | none => exact ⟨fun _ => rfl, MonitorsOnly.of_warps rfl⟩

theorem State.dirRoom_serves (s : State) (line : Nat) (named : Option Nat) : Serves s (s.dirRoom line named) := by
  unfold State.dirRoom
  dsimp only
  split
  · exact Serves.refl s
  · exact (s.victim_serves named).trans (State.homeTake_serves _ _)

theorem State.sliceRoom_serves (s : State) (c line : Nat) (named : Option Nat) : Serves s (s.sliceRoom c line named) := by
  unfold State.sliceRoom
  dsimp only
  split
  · exact Serves.refl s
  · exact (s.victim_serves named).trans (State.leaveLine_serves _ _ _)

theorem State.homeRead_serves (s : State) (c line : Nat) (named : Option Nat) : Serves s (s.homeRead c line named) :=
  ((s.sliceRoom_serves c line named).trans (State.dirRoom_serves _ _ named)).trans
    (Serves.of_mem (Mem.homeRead_byteAt _ c line))

theorem State.homeOwn_serves (s : State) (c line : Nat) (named : Option Nat) : Serves s (s.homeOwn c line named) := by
  have hmem := ((s.sliceRoom_serves c line named).trans (State.dirRoom_serves _ line named)).trans
    (Serves.of_mem (Mem.homeOwn_byteAt _ c line))
  unfold State.homeOwn
  dsimp only
  split
  · exact hmem
  · exact hmem.trans (State.wakeIf_serves _ _)

theorem State.homeLoad_serves (s : State) (line : Nat) : Serves s (s.homeLoad line) :=
  Serves.of_mem (s.mem.homeLoad_byteAt line)

theorem State.readForSlice_serves (s : State) (c line : Nat) : Serves s (s.readForSlice c line) := by
  unfold State.readForSlice
  split
  · exact Serves.refl s
  · split
    · exact Serves.refl s
    · exact s.homeRead_serves c line none

theorem State.countL2_serves (s : State) (core line : Nat) : Serves s (s.countL2 core line) := by
  unfold State.countL2
  split
  · exact Serves.refl s
  · split
    · exact Serves.refl s
    · exact s.count_serves _ _ _

theorem State.sliceRead_serves (s : State) (core line : Nat) : Serves s (s.sliceRead core line) :=
  (s.countL2_serves core line).trans (State.readForSlice_serves _ _ _)

/-! ### An L1 that holds nothing -/

theorem State.l1WriteBack_of_empty {s : State} (h : s.mem.l1 = []) (core line : Nat) : s.l1WriteBack core line = s := by
  unfold State.l1WriteBack Mem.l1At
  rw [h]
  rfl

theorem Mem.l1Put_none_of_empty {m : Mem} (h : m.l1 = []) (core line : Nat) : m.l1Put core line L1Line.none = m := by
  have hset : Tab.set L1Line.none m.l1 (l1Key core line) L1Line.none = m.l1 := by
    rw [h, Tab.set, if_pos rfl]
    rfl
  rw [Mem.l1Put, hset]

theorem State.l1Drop_of_empty {s : State} (h : s.mem.l1 = []) (core line : Nat) : s.l1Drop core line = s := by
  unfold State.l1Drop
  dsimp only
  rw [s.l1WriteBack_of_empty h, Mem.l1Put_none_of_empty h]

theorem State.l1WriteBackAll_of_empty {s : State} (h : s.mem.l1 = []) (line : Nat) (cores : List Nat) :
    s.l1WriteBackAll cores line = s := by
  unfold State.l1WriteBackAll
  induction cores with
  | nil => rfl
  | cons c r ih => rw [List.foldl_cons, s.l1WriteBack_of_empty h, ih]

/-! ### A write at its home (R57-R61) -/

theorem testBit_run (n o i : Nat) : ((2 ^ n - 1) * 2 ^ o).testBit i = decide (o ≤ i ∧ i < o + n) := by
  rw [Nat.testBit_mul_two_pow, Nat.testBit_two_pow_sub_one, ← Bool.decide_and, decide_eq_decide]
  omega

theorem run_byte (x n o i : Nat) (hi : i < n) :
    BitVec.ofNat 8 (x % 2 ^ (8 * n) * 2 ^ (8 * o) / 2 ^ (8 * (o + i))) = BitVec.ofNat 8 (x / 2 ^ (8 * i)) := by
  have hlow : x % 2 ^ (8 * n) * 2 ^ (8 * o) / 2 ^ (8 * (o + i)) = x % 2 ^ (8 * n) / 2 ^ (8 * i) := by
    rw [Nat.mul_add, Nat.pow_add, ← Nat.div_div_eq_div_mul, Nat.mul_div_cancel _ (Nat.two_pow_pos _)]
  have hmod : x % 2 ^ (8 * n) / 2 ^ (8 * i) % 2 ^ 8 = x / 2 ^ (8 * i) % 2 ^ 8 := by
    refine Nat.eq_of_testBit_eq fun j => ?_
    simp only [Nat.testBit_mod_two_pow, Nat.testBit_div_two_pow]
    by_cases hj : j < 8
    · have : j + 8 * i < 8 * n := by omega
      simp [this]
    · simp [hj]
  apply BitVec.eq_of_toNat_eq
  rw [BitVec.toNat_ofNat, BitVec.toNat_ofNat, hlow, hmod]

end Sys2Proof.Machine

end

section
/-! PROOFS. Scratchpad accesses, atomics, a write at its home, and scalar loads and stores (R57-R61, R273-R275,
R342-R345). -/

namespace Sys2Proof.Machine

/-! ### A write at a home that does not hold it back -/

section
variable {m : Mem} {line : Nat}

theorem Mem.homeTake_of_unmapped (h : ∀ c, m.dirOf line ≠ .mapped c) :
    m.homeTake line = (m.recall line).setDir line .uncached := by
  unfold Mem.homeTake
  split
  next c hc => exact absurd hc (h c)
  next => rfl

theorem Mem.recall_maps (m : Mem) (line : Nat) : (m.recall line).maps = m.maps := by
  by_cases h : Tab.get SliceLine.none m.slice line = SliceLine.none
  · rw [Mem.recall_of_none h]
  · rw [Mem.recall_of_some h]

theorem Mem.homeTake_maps (m : Mem) (line : Nat) : (m.homeTake line).maps = m.maps := by
  unfold Mem.homeTake
  split
  · rfl
  · exact m.recall_maps line

theorem Mem.recall_slice (m : Mem) (line : Nat) :
    Tab.get SliceLine.none (m.recall line).slice line = SliceLine.none := by
  by_cases h : Tab.get SliceLine.none m.slice line = SliceLine.none
  · rw [Mem.recall_of_none h, h]
  · rw [Mem.recall_of_some h]
    simp only [Tab.get_set_same]

/-- A line that its home has taken has no owner's bytes. -/
theorem Mem.homeTake_slice (h : ∀ c, m.dirOf line ≠ .mapped c) :
    Tab.get SliceLine.none (m.homeTake line).slice line = SliceLine.none := by
  rw [Mem.homeTake_of_unmapped h]
  exact m.recall_slice line

theorem Mem.homeTake_dirOf (h : ∀ c, m.dirOf line ≠ .mapped c) : (m.homeTake line).dirOf line = .uncached := by
  rw [Mem.homeTake_of_unmapped h, Mem.dirOf, Mem.setDir, Tab.get_set_same]

/-- What a write at its home leaves of memory: the masked bytes over what was served before. -/
theorem Mem.writeHome_byteAt (hc : m.mapCell line = none) (h : ∀ c, m.dirOf line ≠ .mapped c) (mask data pa : Nat) :
    (m.writeHome line mask data).byteAt pa =
      if pa / 128 = line ∧ mask.testBit (pa % 128) then BitVec.ofNat 8 (data / 2 ^ (8 * (pa % 128)))
      else m.byteAt pa := by
  have hw : m.writeHome line mask data = { m.homeTake line with
      bytes := writeMasked (m.homeTake line).bytes (line * 128) 128 mask data
      tags := clearTags (m.homeTake line).tags (line * 8) mask
      poison := clearPoison (m.homeTake line).poison (line * 4) mask } := by
    unfold Mem.writeHome
    rw [hc]
  have hmaps : (m.writeHome line mask data).maps = (m.homeTake line).maps := by rw [hw]
  have hslice : (m.writeHome line mask data).slice = (m.homeTake line).slice := by rw [hw]
  have hsp : (m.writeHome line mask data).sp = (m.homeTake line).sp := by rw [hw]
  have hbytes : (m.writeHome line mask data).bytes = writeMasked (m.homeTake line).bytes (line * 128) 128 mask data := by
    rw [hw]
  rw [← m.homeTake_byteAt line pa]
  have hcell := Mem.mapCell_congr hmaps (pa / 128)
  by_cases hp : pa / 128 = line
  · have hpa : pa = line * 128 + pa % 128 := by omega
    have hnone : (m.homeTake line).mapCell (pa / 128) = none := by
      rw [hp, Mem.mapCell_congr (m.homeTake_maps line), hc]
    have hbyte := writeMasked_get (m.homeTake line).bytes (line * 128) 128 mask data (pa % 128)
      (Nat.mod_lt _ (by decide))
    rw [← hpa] at hbyte
    rw [Mem.byteAt_of_unmapped hnone, Mem.byteAt_of_unmapped (hcell.trans hnone), servedByte, servedByte, hslice, hp,
      Mem.homeTake_slice h, SliceLine.none_mask, if_neg Bool.false_ne_true, if_neg Bool.false_ne_true, hbytes, hbyte]
    simp only [true_and]
  · rw [if_neg fun e => hp e.1]
    cases hm : (m.homeTake line).mapCell (pa / 128) with
    | some c => rw [Mem.byteAt_of_mapped hm, Mem.byteAt_of_mapped (hcell.trans hm), hsp]
    | none =>
      rw [Mem.byteAt_of_unmapped hm, Mem.byteAt_of_unmapped (hcell.trans hm), servedByte, servedByte, hslice, hbytes,
        writeMasked_get_out _ _ _ _ _ _ (by omega)]

end

theorem State.performWrite_home_mem (s : State) (line mask data : Nat) :
    (s.performWrite none line mask data).mem = (s.mem.homeTake line).writeHome line mask data := by
  have htake : (s.homeTake line).mem = s.mem.homeTake line := by
    unfold State.homeTake
    dsimp only
    split <;> rfl
  unfold State.performWrite State.wakeLine
  rw [State.wakeIf_mem]
  dsimp only
  rw [htake]

theorem State.writePa_mem {s : State} {pa : Nat} (n x : Nat) (hfree : s.writeHeld (pa / 128) 128 = false) :
    (s.writePa pa n x).mem = (s.mem.homeTake (pa / 128)).writeHome (pa / 128) ((2 ^ n - 1) * 2 ^ (pa % 128))
      (x % 2 ^ (8 * n) * 2 ^ (8 * (pa % 128))) := by
  unfold State.writePa State.writeLine State.writeVia
  rw [Option.getD_none, hfree, if_neg Bool.false_ne_true]
  exact s.performWrite_home_mem ..

/-- A byte after a run of one line was written at its home. -/
theorem State.writePa_byteAt {s : State} {pa : Nat} (n x : Nat) (hn : pa % 128 + n ≤ 128)
    (hc : s.mem.mapCell (pa / 128) = none) (hd : ∀ c, s.mem.dirOf (pa / 128) ≠ .mapped c)
    (hfree : s.writeHeld (pa / 128) 128 = false) (a : Nat) :
    (s.writePa pa n x).mem.byteAt a =
      if pa ≤ a ∧ a < pa + n then BitVec.ofNat 8 (x / 2 ^ (8 * (a - pa))) else s.mem.byteAt a := by
  have hc' : (s.mem.homeTake (pa / 128)).mapCell (pa / 128) = none := by
    rw [Mem.mapCell_congr (s.mem.homeTake_maps _), hc]
  have hd' : ∀ c, (s.mem.homeTake (pa / 128)).dirOf (pa / 128) ≠ .mapped c := by
    intro c
    rw [Mem.homeTake_dirOf hd]
    exact nofun
  rw [s.writePa_mem n x hfree, Mem.writeHome_byteAt hc' hd', Mem.homeTake_byteAt, testBit_run]
  by_cases h : pa ≤ a ∧ a < pa + n
  · have hline : a / 128 = pa / 128 := by omega
    have hoff : a % 128 = pa % 128 + (a - pa) := by omega
    rw [if_pos h, if_pos ⟨hline, by simp only [decide_eq_true_eq]; omega⟩, hoff, run_byte x n _ _ (by omega)]
  · rw [if_neg h, if_neg]
    rintro ⟨hline, hin⟩
    rw [decide_eq_true_eq] at hin
    omega

/-! ### An ordered load at a home that is free -/

theorem State.confine_uncertified {s : State} {g : Workgroup} (h : g.cert = false) (t : Trans) (write : Bool) (va : Word)
    (n : Nat) : s.confine g t write va n = .ok () := by
  rw [State.confine, h]
  rfl

theorem State.loadAt_mem {t : Trans} (h : t.kind.isMem = true) (s : State) (wi : Nat) (th : Option Nat) (core : Nat)
    (ord : Bool) (va : Word) (n : Nat) :
    s.loadAt wi th core t ord va n = if ord then s.orderedLoadMem core t n else s.loadMem core t n va := by
  unfold State.loadAt
  cases hk : t.kind <;> rw [hk] at h <;> first | rfl | cases h

section
variable {u : State} {core : Nat} {t : Trans}

theorem State.orderedLoadMem_ready (hl : u.mem.l1 = []) (hh : u.homeReady (t.pa / 128) (t.copyAt core) false = .ok u)
    (n : Nat) : u.orderedLoadMem core t n = (do
      need (!u.mem.poisoned t.pa n) poisonConsumed
      let v := if t.cache = 2 then u.homeLoad (t.pa / 128) else u.sliceRead core (t.pa / 128)
      return (v.mem.readCoh t.pa n, v)) := by
  unfold State.orderedLoadMem
  dsimp only
  rw [State.l1WriteBackAll_of_empty hl, State.l1Drop_of_empty hl, hh, ok_bind]

/-- A free home serves an ordered load, and nothing else changes for any reader. -/
theorem State.orderedLoadMem_serves (hl : u.mem.l1 = [])
    (hh : u.homeReady (t.pa / 128) (t.copyAt core) false = .ok u) (n : Nat) (hp : u.mem.poisoned t.pa n = false) :
    ∃ v, u.orderedLoadMem core t n = .ok (u.mem.readCoh t.pa n, v) ∧ Serves u v := by
  have hserve : Serves u (if t.cache = 2 then u.homeLoad (t.pa / 128) else u.sliceRead core (t.pa / 128)) := by
    split
    · exact u.homeLoad_serves _
    · exact u.sliceRead_serves _ _
  rw [State.orderedLoadMem_ready hl hh, hp]
  exact ⟨_, congrArg (fun x => Except.ok (x, _)) (hserve.readCoh t.pa n), hserve⟩

theorem State.orderedLoadMem_poisoned (hl : u.mem.l1 = [])
    (hh : u.homeReady (t.pa / 128) (t.copyAt core) false = .ok u) (n : Nat) (hp : u.mem.poisoned t.pa n = true) :
    u.orderedLoadMem core t n = .error poisonConsumed := by
  rw [State.orderedLoadMem_ready hl hh, hp]
  rfl

end

theorem State.gRead_uncertified {s u : State} {g : Workgroup} {va : Word} {t : Trans} (hg : g.cert = false)
    (ht : s.translate (s.whoOf g) .read .r false va = .ok (t, u)) (wi : Nat) (th : Option Nat) (ord : Bool) (n : Nat) :
    s.gRead wi th g ord va n = u.keep (u.loadAt wi th g.core t ord va n) := by
  rw [State.gRead, ht, ok_bind]
  dsimp only
  rw [State.confine_uncertified hg, ok_bind]

/-! ### Atomics: one indivisible update between the release and the acquire part (R345) -/

section
variable {s q p r t : State} {w x v : Warp} {d a : SReg} {z : MemSize} {sc : Scope} {o : MemOrd} {op : AtomOp} {old c : Nat}

theorem sizeBytes_wide (h : z = .n32 ∨ z = .n64) : (z == .n32 || z == .n64) = true := by
  rcases h with rfl | rfl <;> rfl

/-- The encoding rule of an atomic (R344, R345). -/
theorem atom_need (ho : o ≠ .plain) (hz : z = .n32 ∨ z = .n64) (hd : op = .cas → d ≠ 63) :
    (atomOk o z && (op != .cas || d != 63)) = true := by
  have hcas : (op != .cas || d != 63) = true := by
    by_cases h : op = .cas
    · rw [bne_iff_ne.2 (hd h), Bool.or_true]
    · rw [bne_iff_ne.2 h, Bool.true_or]
  rw [atomOk, bne_iff_ne.2 ho, sizeBytes_wide hz, hcas]
  rfl

theorem ofNat_below (hold : old < 2 ^ 64) (hs : ¬(d = 62 ∧ old < v.limit)) :
    ¬(d = 62 ∧ (BitVec.ofNat 64 old).toNat < v.limit) := by
  rwa [BitVec.toNat_ofNat, Nat.mod_eq_of_lt hold]

theorem atomGlobal_eq (h : Claims.Issues s w (atomUse op d a)) (ho : o ≠ .plain) (hz : z = .n32 ∨ z = .n64)
    (hd : op = .cas → d ≠ 63) (hal : (w.sget a).toNat % sizeBytes z = 0) (hs : ¬(d = 62 ∧ old < v.limit))
    (hold : old < 2 ^ 64) (hdr : s.drained w sc.code = .ok q)
    (hpre : q.precheck (s.wgOf w) .atomic .rw (w.sget a) (sizeBytes z) = .ok p)
    (hrel : p.releaseOrd q.cur (s.wgOf w).core o sc.code = .ok r)
    (hat : r.gAtomic q.cur none (s.wgOf w) (w.sget a) (sizeBytes z) (fun old => atomNew op (sizeBytes z) old
      (lowBytes (w.sget d) (sizeBytes z)) (lowBytes (w.sget (nextReg d)) (sizeBytes z))) = .ok (old, t))
    (hv : t.warp? t.cur = some v) :
    atomGlobal op d a sc o z s = .next
      ((t.setWarp t.cur (v.sset d (BitVec.ofNat 64 old))).acquireOrd (s.wgOf w).core o sc.code).advance := by
  refine scalarOp_ok h ?_
  simp only [atom_need ho hz hd, need_true, hdr, aligned_ok hal, hpre, hrel, hat, putS_ok hv (ofNat_below hold hs), ok_bind,
    pure_eq_ok]

theorem atomSp_eq (h : Claims.Issues s w (atomUse op d a)) (ho : o ≠ .plain) (hz : z = .n32 ∨ z = .n64)
    (hd : op = .cas → d ≠ 63) (hal : (w.sget a).toNat % sizeBytes z = 0) (hs : ¬(d = 62 ∧ old < v.limit))
    (hold : old < 2 ^ 64) (hdr : s.drained w (spScope sc) = .ok s)
    (hc : s.spCell (s.wgOf w) (w.sget a) (sizeBytes z) = .ok c)
    (hrel : s.releaseOrd s.cur (s.wgOf w).core o (spScope sc) = .ok r)
    (hat : r.spAtomic c (sizeBytes z) (fun old => atomNew op (sizeBytes z) old
      (lowBytes (w.sget d) (sizeBytes z)) (lowBytes (w.sget (nextReg d)) (sizeBytes z))) = .ok (old, t))
    (hv : t.warp? t.cur = some v) :
    atomSp op d a sc o z s = .next (t.setWarp t.cur (v.sset d (BitVec.ofNat 64 old))).advance := by
  refine scalarOp_ok h ?_
  simp only [atom_need ho hz hd, need_true, hdr, aligned_ok hal, hc, hrel, hat, putS_ok hv (ofNat_below hold hs), ok_bind,
    State.acquireOrd_near _ _ _ (spScope_le sc), pure_eq_ok]

end

end Sys2Proof.Machine

namespace Sys2Proof.Claims
open Sys2Proof.Machine

theorem scratchpadAccesses : ScratchpadAccesses := by
  intro s w d a z off sc o c
  dsimp only
  refine ⟨fun h => ⟨fun hal hc hp => ?_, fun hal => ?_, fun hq ho hal hc hp => ?_⟩,
    fun h => ⟨fun hz hal hc => ?_, fun hz hal => ?_, fun hz => ?_, fun t hq ho hz hal hc hr => ?_⟩⟩
  · refine (exec_lds d a z off s).trans (scalarOp_writes h ?_)
    simp only [plainAddr, aligned_ok hal, hc, State.spLoad_ok hp, ok_bind]
  · refine (exec_lds d a z off s).trans (scalarOp_error h ?_)
    simp only [plainAddr, aligned_error hal, error_bind]
    rfl
  · refine (exec_ldOrdSp d a sc o z s).trans (scalarOp_writes h ?_)
    have hq' : s.drained w (spScope sc) = .ok s := hq
    simp only [ho, hq', aligned_ok hal, hc, State.spLoad_ok hp, ok_bind, need_true,
      State.acquire_near _ _ (spScope_le sc), pure_eq_ok]
    cases s.putS d (extend z (readN s.mem.sp c (sizeBytes z))) <;> rfl
  · refine (exec_sts d a z off s).trans (scalarOp_ok h ?_)
    simp only [plainAddr, hz, need_true, aligned_ok hal, hc, ok_bind]
    rfl
  · refine (exec_sts d a z off s).trans (scalarOp_error h ?_)
    simp only [plainAddr, hz, need_true, aligned_error hal, ok_bind, error_bind]
    rfl
  · refine (exec_sts d a z off s).trans (scalarOp_error h ?_)
    simp only [hz, need_false, error_bind]
    rfl
  · refine (exec_stOrdSp d a sc o z s).trans (scalarOp_ok h ?_)
    have hq' : s.drained w (spScope sc) = .ok s := hq
    have hr' : s.release s.cur (s.wgOf w).core (spScope sc) = .ok t := hr
    simp only [ho, hz, Bool.and_self, need_true, hq', aligned_ok hal, hc, hr', ok_bind]
    rfl

theorem scratchpadWriteLands : ScratchpadWriteLands := by
  intro s c n x hn t
  refine ⟨?_, fun a ha => ?_, rfl, fun i hlo hhi => ?_, fun i w hw => ?_, rfl⟩
  · exact readN_writeN s.mem.sp c n x
  · exact writeN_get_out s.mem.sp c n x a ha
  · exact (get_foldl_clear s.mem.spTags (c / 16) _ i).trans (if_pos (by omega))
  · obtain ⟨m, hm⟩ := s.spStore_monitorsOnly c n x i w hw
    exact ⟨_, hm, rfl⟩

theorem globalAccesses : GlobalAccesses := by
  intro s p t u w q v d a z off sc o x
  dsimp only
  intro hv hs
  have hput := putS_ok hv hs
  refine ⟨fun h => ⟨fun hal hread => ?_, fun hal => ?_, fun hdr ho hal hread => ?_⟩,
    fun h => ⟨fun hz hal hwrite => ?_, fun hz => ?_, fun hdr ho hz hal hpre hrel r hwrite => ?_⟩⟩
  · refine (exec_ld d a z off s).trans (scalarOp_ok h ?_)
    simp only [plainAddr, aligned_ok hal, State.gLoad, hread, ok_bind, hput, State.keep_ok]
    rfl
  · refine (exec_ld d a z off s).trans (scalarOp_error h ?_)
    simp only [plainAddr, aligned_error hal, error_bind]
    rfl
  · refine (exec_ldOrd d a sc o z s).trans (scalarOp_ok h ?_)
    simp only [ho, hdr.1, need_true, aligned_ok hal, State.gLoadOrd, hread, ok_bind, hput, pure_eq_ok, State.keep_ok]
    rfl
  · refine (exec_st d a z off s).trans (scalarOp_ok h ?_)
    simp only [plainAddr, hz, need_true, aligned_ok hal, ok_bind]
    exact hwrite
  · refine (exec_st d a z off s).trans (scalarOp_error h ?_)
    simp only [hz, need_false, error_bind]
    rfl
  · refine (exec_stOrd d a sc o z s).trans (scalarOp_ok h ?_)
    simp only [ho, hz, Bool.and_self, need_true, hdr.1, aligned_ok hal, hpre, hrel, ok_bind]
    exact hwrite

theorem atomicValues : AtomicValues := by
  intro n old x y hn hold hx b c
  have hpos : 0 < 8 * n := by omega
  have hb : b.toNat = old := by rw [BitVec.toNat_ofNat, Nat.mod_eq_of_lt hold]
  have hc : c.toNat = x := by rw [BitVec.toNat_ofNat, Nat.mod_eq_of_lt hx]
  refine ⟨?_, ?_, ?_, ?_, rfl, rfl, ?_, ?_, ?_, rfl, rfl⟩
  · rw [BitVec.toNat_add, hb, hc]
    rfl
  · rw [BitVec.toNat_sub, hb, hc, atomNew, Nat.mod_eq_of_lt hx]
    congr 2
    omega
  · have hlt := signed_lt_iff_slt _ x old hpos
    simp only [atomNew, hlt]
    rw [apply_ite BitVec.toNat, hb, hc]
  · have hlt := signed_lt_iff_slt _ old x hpos
    simp only [atomNew, hlt]
    rw [apply_ite BitVec.toNat, hb, hc]
  · rw [BitVec.toNat_and, hb, hc]
    rfl
  · rw [BitVec.toNat_or, hb, hc]
    rfl
  · rw [BitVec.toNat_xor, hb, hc]
    rfl

theorem atomicsUpdate : AtomicsUpdate := by
  intro s q p r t u w x v d a z sc o c old
  dsimp only
  have glob {i : Instr} {op : AtomOp} (hi : exec i s = atomGlobal op d a sc o z s) (h : Issues s w (atomUse op d a))
      (hl : o ≠ .plain ∧ sizeBytes z ∈ [4, 8] ∧ (z = .n32 ∨ z = .n64) ∧ (op = .cas → d ≠ 63) ∧
        (w.sget a).toNat % sizeBytes z = 0 ∧ ¬(d = 62 ∧ old < v.limit) ∧ old < 2 ^ 64) (hdr : Drained s w sc.code q x)
      (hpre : q.precheck (s.wgOf w) .atomic .rw (w.sget a) (sizeBytes z) = .ok p)
      (hrel : p.releaseOrd q.cur (s.wgOf w).core o sc.code = .ok r)
      (hat : r.gAtomic q.cur none (s.wgOf w) (w.sget a) (sizeBytes z) (fun old => atomNew op (sizeBytes z) old
        (lowBytes (w.sget d) (sizeBytes z)) (lowBytes (w.sget (nextReg d)) (sizeBytes z))) = .ok (old, t))
      (hv : t.warp? t.cur = some v) : exec i s = .next
        ((t.setWarp t.cur (v.sset d (BitVec.ofNat 64 old))).acquireOrd (s.wgOf w).core o sc.code).advance := by
    obtain ⟨ho, -, hz, hd, hal, hs, hold⟩ := hl
    exact hi.trans (atomGlobal_eq h ho hz hd hal hs hold hdr.1 hpre hrel hat hv)
  have scratch {i : Instr} {op : AtomOp} (hi : exec i s = atomSp op d a sc o z s) (h : Issues s w (atomUse op d a))
      (hl : o ≠ .plain ∧ sizeBytes z ∈ [4, 8] ∧ (z = .n32 ∨ z = .n64) ∧ (op = .cas → d ≠ 63) ∧
        (w.sget a).toNat % sizeBytes z = 0 ∧ ¬(d = 62 ∧ old < v.limit) ∧ old < 2 ^ 64) (hq : Quiet s w (spScope sc))
      (hc : s.spCell (s.wgOf w) (w.sget a) (sizeBytes z) = .ok c)
      (hrel : s.releaseOrd s.cur (s.wgOf w).core o (spScope sc) = .ok r)
      (hat : r.spAtomic c (sizeBytes z) (fun old => atomNew op (sizeBytes z) old
        (lowBytes (w.sget d) (sizeBytes z)) (lowBytes (w.sget (nextReg d)) (sizeBytes z))) = .ok (old, u))
      (hv : u.warp? u.cur = some v) : exec i s = .next (u.setWarp u.cur (v.sset d (BitVec.ofNat 64 old))).advance := by
    obtain ⟨ho, -, hz, hd, hal, hs, hold⟩ := hl
    exact hi.trans (atomSp_eq h ho hz hd hal hs hold hq hc hrel hat hv)
  exact ⟨glob (exec_atomAdd d a sc o z s), glob (exec_atomSub d a sc o z s), glob (exec_atomMin d a sc o z s),
    glob (exec_atomMinn d a sc o z s), glob (exec_atomMax d a sc o z s), glob (exec_atomMaxn d a sc o z s),
    glob (exec_atomAnd d a sc o z s), glob (exec_atomOr d a sc o z s), glob (exec_atomXor d a sc o z s),
    glob (exec_atomXchg d a sc o z s), glob (exec_atomCas d a sc o z s), scratch (exec_atomAddSp d a sc o z s),
    scratch (exec_atomSubSp d a sc o z s), scratch (exec_atomMinSp d a sc o z s),
    scratch (exec_atomMinnSp d a sc o z s), scratch (exec_atomMaxSp d a sc o z s),
    scratch (exec_atomMaxnSp d a sc o z s), scratch (exec_atomAndSp d a sc o z s),
    scratch (exec_atomOrSp d a sc o z s), scratch (exec_atomXorSp d a sc o z s),
    scratch (exec_atomXchgSp d a sc o z s), scratch (exec_atomCasSp d a sc o z s)⟩

theorem orderedLoadReadsHomes : OrderedLoadReadsHomes := by
  intro s u g va n t hg ht hk hl hh
  have hread := State.gRead_uncertified hg ht s.cur none true n
  rw [State.loadAt_mem hk] at hread
  refine ⟨fun hp => ?_, fun hp => ?_⟩
  · obtain ⟨v, hv, hserve⟩ := State.orderedLoadMem_serves hl hh n hp
    rw [if_pos rfl, hv] at hread
    exact ⟨v, hread, hserve.warps⟩
  · rw [if_pos rfl, State.orderedLoadMem_poisoned hl hh n hp] at hread
    exact hread

end Sys2Proof.Claims

/-- Settles O22: each form is one scalar frame around one cell; a scratchpad write changes its cells, their tags and the
monitors on them. -/
theorem scratchpadLoadsStores : Obligations.ScratchpadLoadsStores :=
  ⟨Sys2Proof.Claims.scratchpadAccesses, Sys2Proof.Claims.scratchpadWriteLands⟩

/-- Settles O23: an atomic's value is its operation on words of its size, and its update one scalar frame. -/
theorem atomics : Obligations.Atomics :=
  ⟨Sys2Proof.Claims.atomicValues, Sys2Proof.Claims.atomicsUpdate⟩

open Sys2Proof.Machine in
/-- Settles O24: the home takes the line, which changes no byte that is served, and the masked bytes land over it. -/
theorem homeWriteReadsBack : Obligations.HomeWriteReadsBack := by
  intro s pa n x hn hc hd hfree
  refine ⟨fun i hi => ?_, fun a ha => ?_⟩
  · rw [State.writePa_byteAt n x hn hc hd hfree, if_pos (by omega), Nat.add_sub_cancel_left]
  · rw [State.writePa_byteAt n x hn hc hd hfree, if_neg (by omega)]

/-- Settles O25: each form is one scalar frame around its access; an ordered load is served by a free home, whose service
changes no byte (`Serves`). -/
theorem globalLoadsStores : Obligations.GlobalLoadsStores :=
  ⟨Sys2Proof.Claims.globalAccesses, Sys2Proof.Claims.orderedLoadReadsHomes⟩

end

section
/-! PROOFS. What goes on in the memory system beside the warps: each of its operations leaves the warp in focus, the
workgroups and the tick as they are, of the warps changes monitors alone, and keeps memory's canonical form. -/

namespace Sys2Proof.Machine

structure Background (s t : State) : Prop where
  cur : t.cur = s.cur
  wgs : t.wgs = s.wgs
  tick : t.tick = s.tick
  warps : MonitorsOnly s t
  wf : Memory.wf s.mem.bytes = true → Memory.wf t.mem.bytes = true

namespace Background

theorem refl (s : State) : Background s s := ⟨rfl, rfl, rfl, MonitorsOnly.refl s, id⟩

theorem trans {s t u : State} (h : Background s t) (k : Background t u) : Background s u :=
  ⟨k.cur.trans h.cur, k.wgs.trans h.wgs, k.tick.trans h.tick, h.warps.trans k.warps, fun w => k.wf (h.wf w)⟩

/-- A change of memory alone. -/
theorem of_mem {s : State} {m : Mem} (h : Memory.wf s.mem.bytes = true → Memory.wf m.bytes = true) :
    Background s { s with mem := m } := ⟨rfl, rfl, rfl, MonitorsOnly.of_warps rfl, h⟩

/-- A change of other parts of the state. -/
theorem of_eq {s t : State} (hc : t.cur = s.cur) (hg : t.wgs = s.wgs) (ht : t.tick = s.tick) (hw : t.warps = s.warps)
    (hm : t.mem.bytes = s.mem.bytes) : Background s t := ⟨hc, hg, ht, MonitorsOnly.of_warps hw, fun h => hm ▸ h⟩

/-- Operations of one kind over a list. -/
theorem foldl {α : Type} (f : State → α → State) (hf : ∀ s x, Background s (f s x)) (l : List α) (s : State) :
    Background s (l.foldl f s) := by
  induction l generalizing s with
  | nil => exact refl s
  | cons x l ih => exact (hf s x).trans (ih _)

end Background

namespace State

theorem wakeIf_background (s : State) (p : Warp → Watch → Bool) : Background s (s.wakeIf p) :=
  ⟨rfl, rfl, rfl, s.wakeIf_monitorsOnly p, id⟩

theorem send_background (s : State) (m : Msg) : Background s (s.send m) := .of_eq rfl rfl rfl rfl rfl

theorem setCore_background (s : State) (c : Nat) (x : Core) : Background s (s.setCore c x) := .of_eq rfl rfl rfl rfl rfl

theorem count_background (s : State) (core ev n : Nat) : Background s (s.count core ev n) := by
  unfold State.count
  dsimp only
  split
  · exact .refl s
  · exact s.setCore_background _ _

theorem untrack_background (s : State) (line : Nat) : Background s (s.untrack line) := by
  unfold State.untrack
  split
  · exact .refl s
  · exact .of_eq rfl rfl rfl rfl rfl

theorem homeTake_background (s : State) (line : Nat) : Background s (s.homeTake line) := by
  have hmem : Background s { s with mem := s.mem.homeTake line } := .of_mem (Memory.wf_homeTake _ _)
  unfold State.homeTake
  dsimp only
  split
  · exact hmem
  · exact hmem.trans (wakeIf_background _ _)

theorem leaveLine_background (s : State) (c line : Nat) : Background s (s.leaveLine c line) := by
  have hmem : Background s { s with mem := s.mem.leave c line } := .of_mem (s.leaveLine_wf c line)
  unfold State.leaveLine State.wakeHolders
  exact hmem.trans (wakeIf_background _ _)

theorem victim_background (s : State) (named : Option Nat) : Background s (s.victim named).2 := by
  cases named with
  | some n => exact .refl s
  | none => exact .of_eq rfl rfl rfl rfl rfl

theorem dirRoom_background (s : State) (line : Nat) (named : Option Nat) : Background s (s.dirRoom line named) := by
  unfold State.dirRoom
  dsimp only
  split
  · exact .refl s
  · exact (s.victim_background named).trans (homeTake_background _ _)

theorem sliceRoom_background (s : State) (c line : Nat) (named : Option Nat) :
    Background s (s.sliceRoom c line named) := by
  unfold State.sliceRoom
  dsimp only
  split
  · exact .refl s
  · exact (s.victim_background named).trans (leaveLine_background _ _ _)

theorem homeRead_background (s : State) (c line : Nat) (named : Option Nat := none) :
    Background s (s.homeRead c line named) :=
  ((s.sliceRoom_background c line named).trans (dirRoom_background _ _ named)).trans
    (.of_mem (Memory.wf_homeRead _ c line))

theorem homeOwn_background (s : State) (c line : Nat) (named : Option Nat := none) :
    Background s (s.homeOwn c line named) := by
  have hmem := ((s.sliceRoom_background c line named).trans (dirRoom_background _ line named)).trans
    (.of_mem (Memory.wf_homeOwn _ c line))
  unfold State.homeOwn
  dsimp only
  split
  · exact hmem
  · exact hmem.trans (wakeIf_background _ _)

theorem homeLoad_background (s : State) (line : Nat) : Background s (s.homeLoad line) :=
  .of_mem (Memory.wf_homeLoad _ line)

theorem askHost_background (s : State) (line : Nat) : Background s (s.askHost line) := by
  unfold State.askHost
  split
  · exact .refl s
  · exact s.send_background _

theorem performWrite_background (s : State) (slice : Option Nat) (line mask data : Nat) :
    Background s (s.performWrite slice line mask data) := by
  unfold State.performWrite State.wakeLine
  cases slice with
  | none =>
    exact ((s.homeTake_background line).trans (.of_mem (Memory.wf_writeHome _ line mask data))).trans
      (wakeIf_background _ _)
  | some c =>
    have hown : Background s (if (s.mem.mapCell line).isSome then s else s.homeOwn c line) := by
      split
      · exact .refl s
      · exact s.homeOwn_background c line
    exact (hown.trans (.of_mem (Memory.wf_writeSlice _ c line mask data))).trans (wakeIf_background _ _)

theorem writeVia_background (s : State) (slice : Option Nat) (line mask data : Nat) (host core : Option Nat) :
    Background s (s.writeVia slice line mask data host core) := by
  unfold State.writeVia
  dsimp only
  split
  · have hask : Background s (if s.mem.snoop.contains line then s.askHost line else s) := by
      split
      · exact s.askHost_background line
      · exact .refl s
    exact hask.trans (.of_eq rfl rfl rfl rfl rfl)
  · have hwrite := s.performWrite_background slice line mask data
    split
    · exact hwrite.trans (send_background _ _)
    · exact hwrite

theorem writeLine_background (s : State) (line mask data : Nat) (core : Option Nat := none) :
    Background s (s.writeLine line mask data core) := s.writeVia_background none line mask data none core

theorem writePa_background (s : State) (pa n x : Nat) (core : Option Nat := none) :
    Background s (s.writePa pa n x core) := s.writeLine_background _ _ _ core

theorem writeRun_background (s : State) (pa n x k : Nat) (core : Option Nat := none) :
    Background s (s.writeRun pa n x k core) := by
  induction k generalizing s pa n x with
  | zero => exact .refl s
  | succ k ih =>
    unfold State.writeRun
    dsimp only
    split
    · exact .refl s
    · exact (s.writePa_background _ _ _ core).trans (ih _ _ _ _)

/-! ### The caches of a cluster -/

theorem writeAtSlice_background (s : State) (c line mask data : Nat) : Background s (s.writeAtSlice c line mask data) :=
  s.writeVia_background (some c) line mask data none none

theorem countL2_background (s : State) (core line : Nat) : Background s (s.countL2 core line) := by
  unfold State.countL2
  split
  · exact .refl s
  · split
    · exact .refl s
    · exact s.count_background _ _ _

theorem sliceWrite_background (s : State) (core line mask data : Nat) : Background s (s.sliceWrite core line mask data) :=
  (s.countL2_background core line).trans (writeAtSlice_background _ _ _ _ _)

theorem l1Put_background (s : State) (core line : Nat) (x : L1Line) :
    Background s { s with mem := s.mem.l1Put core line x } := .of_mem id

theorem l1WriteBack_background (s : State) (core line : Nat) : Background s (s.l1WriteBack core line) := by
  unfold State.l1WriteBack
  dsimp only
  split
  · exact .refl s
  · exact (s.sliceWrite_background core line _ _).trans (l1Put_background _ _ _ _)

theorem l1Drop_background (s : State) (core line : Nat) : Background s (s.l1Drop core line) :=
  (s.l1WriteBack_background core line).trans (l1Put_background _ _ _ _)

theorem wakeCluster_background (s : State) (c line : Nat) : Background s (s.wakeCluster c line) := s.wakeIf_background _

theorem l1Evict_background (s : State) (core line : Nat) : Background s (s.l1Evict core line) :=
  (s.l1Drop_background core line).trans (wakeCluster_background _ _ _)

theorem l1WriteBackAll_background (s : State) (cores : List Nat) (line : Nat) :
    Background s (s.l1WriteBackAll cores line) :=
  .foldl _ (fun s c => s.l1WriteBack_background c line) cores s

theorem l1DropAll_background (s : State) (cores : List Nat) (line : Nat) : Background s (s.l1DropAll cores line) :=
  .foldl _ (fun s c => s.l1Drop_background c line) cores s

theorem l1Clean_background (s : State) (core : Nat) : Background s (s.l1Clean core) :=
  .foldl _ (fun s l => s.l1WriteBack_background core l) _ s

theorem l1Flush_background (s : State) (core : Nat) : Background s (s.l1Flush core) :=
  .foldl _ (fun s l => s.l1Drop_background core l) _ s

theorem readForSlice_background (s : State) (c line : Nat) : Background s (s.readForSlice c line) := by
  unfold State.readForSlice
  split
  · exact .refl s
  · split
    · exact .refl s
    · exact s.homeRead_background c line

theorem sliceRead_background (s : State) (core line : Nat) : Background s (s.sliceRead core line) :=
  (s.countL2_background core line).trans (readForSlice_background _ _ _)

theorem acquire_background (s : State) (core scope : Nat) : Background s (s.acquire core scope) := by
  unfold State.acquire
  split
  · exact .refl s
  · exact (s.count_background _ _ _).trans (l1Flush_background _ _)

theorem acquireSig_background (s : State) (core scope : Nat) (b : Sig) : Background s (s.acquireSig core scope b) := by
  unfold State.acquireSig
  split
  · exact .refl s
  · have hcount : Background s (if b.full then s.count core 6 1 else s) := by
      split
      · exact s.count_background _ _ _
      · exact .refl s
    exact (hcount.trans (.foldl _ (fun s l => s.l1Drop_background core l) _ _)).trans (setCore_background _ _ _)

end State

/-- The warp in focus after what went on beside it. -/
theorem Background.warp? {s t : State} {w : Warp} (h : Background s t) (hw : s.warp? s.cur = some w) :
    ∃ m, t.warp? t.cur = some { w with mon := m } := by
  rw [h.cur]
  exact h.warps _ w hw

end Sys2Proof.Machine

end

section
/-! PROOFS. Fences, waits and monitors (R343, R346, R351-R353), sync blocks and barriers (R138, R139, R347-R350). -/

namespace Sys2Proof.Machine

/-! ### Waits of a scalar instruction -/

section
variable {s p : State} {w q : Warp}

/-- The warp in focus goes on past its scalar instruction. -/
theorem advance_eq (hw : s.warp? s.cur = some w) : s.advance = Claims.past s w := by
  rw [← s.setWarp_self s.cur w hw, advance_setWarp s w w hw, s.setWarp_self s.cur w hw]
  rfl

/-- A change of the warp in focus, past its scalar instruction. -/
theorem modWarp_advance (hw : s.warp? s.cur = some w) (k : Warp → Warp) :
    (s.modWarp s.cur k).advance = Claims.past s (k w) := by
  rw [State.modWarp_eq_setWarp s s.cur k w hw, advance_setWarp s _ w hw]
  rfl

/-- What a scalar instruction with a body's answer leaves: it goes on, or stops at its pc. -/
def State.outcome (s : State) (w : Warp) : Except Stop State → State
  | .ok t => t.advance
  | .error e => s.stopped s.cur w.pc e

theorem scalarOp_outcome {u : RegUse} {body : Warp → Workgroup → Except Stop State} {y : Except Stop State}
    (h : Claims.Issues s w u) (hbody : body w (s.wgOf w) = y) : scalarOp s u body = .next (s.outcome w y) := by
  cases y with
  | ok t => exact scalarOp_ok h hbody
  | error e => exact scalarOp_error h hbody

theorem stopped_park (hw : s.warp? s.cur = some w) (pc : Word) (x : Park) :
    s.stopped s.cur pc (.park x s) = s.setWarp s.cur { w with park := x } :=
  State.modWarp_eq_setWarp s s.cur _ w hw

theorem drained_blocked {k : Nat} (h : w.blocks ≠ []) : s.drained w k = .error (.park .laneQueue s) := by
  rw [State.drained, List.isEmpty_eq_false_iff.2 h]
  rfl

/-- Below system scope a wait for the lane blocks' accesses leaves the warp in focus where it is. -/
theorem drained_cur {k : Nat} (hk : k < 6) (h : s.drained w k = .ok p) : p.cur = s.cur := by
  rw [State.drained] at h
  cases hb : w.blocks.isEmpty with
  | false => rw [hb] at h; cases h
  | true =>
    rw [hb, need_true, ok_bind, State.lanePerformed] at h
    cases hw : s.warp? s.cur with
    | none => rw [hw] at h; cases h; rfl
    | some v =>
      rw [hw] at h
      dsimp only at h
      have hwrote : Background s (if 4 ≤ k then v.laneLines.foldl (fun t l => t.l1WriteBack (s.wgOf w).core l) s else s) := by
        split
        · exact .foldl _ (fun t l => t.l1WriteBack_background _ l) _ s
        · exact .refl s
      have h6 : ¬(k = 6 ∧ v.laneSent = true) := by omega
      rw [if_neg h6, ok_bind] at h
      by_cases hd : 3 ≤ k ∧ v.laneLines ≠ []
      · rw [if_pos hd] at h
        generalize (if 4 ≤ k then v.laneLines.foldl (fun t l => t.l1WriteBack (s.wgOf w).core l) s else s) = t at hwrote h
        cases hn : t.writesDone with
        | false => rw [hn] at h; cases h
        | true => rw [hn] at h; cases h; exact hwrote.cur
      · rw [if_neg hd] at h
        cases h
        exact hwrote.cur

end

/-! ### Monitors -/

theorem Warp.wokenIf_hit {p : Warp → Watch → Bool} {w : Warp} {m : Mon} (hm : w.mon = some m) (hp : p w m.watch = true) :
    w.wokenIf p = { w with mon := some { m with hit := true } } := by
  unfold Warp.wokenIf
  rw [hm]
  exact if_pos hp

theorem State.wakeIf_hit {s : State} {p : Warp → Watch → Bool} {i : Nat} {w : Warp} {m : Mon} (hw : s.warp? i = some w)
    (hm : w.mon = some m) (hp : p w m.watch = true) :
    (s.wakeIf p).warp? i = some { w with mon := some { m with hit := true } } := by
  rw [State.wakeIf_warp?, hw, Option.map_some, Warp.wokenIf_hit hm hp]

/-- A write of a scratchpad word gives the monitor on it its wake (R152, R153). -/
theorem State.spStore_wakes {s : State} {i k c n x : Nat} {w : Warp} {m : Mon} (hw : s.warp? i = some w)
    (hm : w.mon = some m) (hk : m.watch = .word k) (hlo : k < c + n) (hhi : c < k + 4) :
    (s.spStore c n x).warp? i = some { w with mon := some { m with hit := true } } := by
  unfold State.spStore State.wakeCells
  refine State.wakeIf_hit (s := { s with mem := _ }) hw hm ?_
  rw [hk]
  exact decide_eq_true ⟨hlo, hhi⟩

/-! ### Sync blocks -/

section
variable {s q t u : State} {w x v : Warp} {d a : SReg} {sc : Scope} {b : SyncBlk} {l : BlkLoc} {snap : Sig}

theorem relBlock_eq {sp add : Bool} (h : Claims.Issues s w { reads := [a.val, d.val] })
    (hdr : s.drained w sc.code = .ok q) (hb : q.blkAt (s.wgOf w) sp false (w.sget a) sc.code = .ok (b, l, t))
    (hr : t.releasePart q.cur (s.wgOf w).core sc.code = .ok (snap, u)) :
    relBlock sp add d a sc s = .next ((u.blkWrite (s.wgOf w).core
      (b.update u.tick (w.sget d) add (s.wgOf w).core sc.code snap) l).releaseDone (s.wgOf w).core sc.code).advance := by
  refine scalarOp_ok h ?_
  simp only [hdr, hb, hr, ok_bind, pure_eq_ok]

/-- The copies of a block's lines that an acquire leaves at its cluster. -/
def State.blkRead (s : State) (core : Nat) : BlkLoc → State
  | .mem x => (List.range 4).foldl (fun (t : State) i => t.sliceRead core (x.pa / 128 + i)) s
  | .cell _ => s

theorem State.blkRead_background (s : State) (core : Nat) (l : BlkLoc) : Background s (s.blkRead core l) := by
  cases l with
  | mem x => exact .foldl _ (fun t i => t.sliceRead_background core _) _ s
  | cell c => exact .refl s

theorem writeS_ok {w : Warp} {r : SReg} {x : Word} (h : r = 62 → w.limit ≤ x.toNat) : w.writeS r x = .ok (w.sset r x) :=
  if_neg fun hr => Nat.not_lt.2 (h hr.1) hr.2

theorem nextReg_val (hd : d ≠ 63) : (Fin.ofNat 64 (d.val + 1)).val = d.val + 1 := by
  have : d.val ≠ 63 := fun e => hd (Fin.ext e)
  exact Nat.mod_eq_of_lt (by omega)

/-- The writes of an acquire's two registers, when s62's check admits them. -/
theorem acquire_lands {t : State} {core i : Nat} {v v₁ v₂ : Warp} {x y : Word} {r : SReg} {scope : Nat} {sig : Sig}
    (hv : t.warp? i = some v) (h₁ : v.writeS d x = .ok v₁) (h₂ : v₁.writeS r y = .ok v₂) :
    (do
      let v₁ ← ((t.warp? i).getD w).writeS d x
      let v₂ ← v₁.writeS r y
      return (t.setWarp i v₂).acquireSig core scope sig : Except Stop State) =
      .ok ((t.setWarp i v₂).acquireSig core scope sig) := by
  simp only [hv, Option.getD_some, h₁, h₂, ok_bind, pure_eq_ok]

/-- The body of an acquire once its block is found. -/
theorem acqBlock_body {sp : Bool} (hd : d ≠ 63) (hdr : s.drained w sc.code = .ok q)
    (hb : q.blkAt (s.wgOf w) sp true (w.sget a) sc.code = .ok (b, l, t))
    (h : Claims.Issues s w { reads := [a.val], writes := [d.val, d.val + 1] })
    (hr : (do
      let v₁ ← (((t.blkRead (s.wgOf w).core l).warp? q.cur).getD w).writeS d (BitVec.ofNat 64 b.value)
      let v₂ ← v₁.writeS (Fin.ofNat 64 (d.val + 1)) (BitVec.ofNat 64 b.gen)
      return ((t.blkRead (s.wgOf w).core l).setWarp q.cur v₂).acquireSig (s.wgOf w).core sc.code b.sig) = .ok u) :
    acqBlock sp d a sc s = .next u.advance := by
  refine scalarOp_ok h ?_
  simp only [bne_iff_ne.2 hd, need_true, hdr, hb, ok_bind]
  cases l with
  | mem x =>
    simp only [State.blkRead] at hr ⊢
    rw [hr]
    rfl
  | cell c =>
    simp only [State.blkRead] at hr ⊢
    rw [hr]
    rfl

/-- A warp after a background change of its state, two writes of its registers, and another background change. -/
theorem acqBlock_eq {sp : Bool} (h : Claims.Issues s w { reads := [a.val], writes := [d.val, d.val + 1] }) (hd : d ≠ 63)
    (hdr : s.drained w sc.code = .ok q) (hb : q.blkAt (s.wgOf w) sp true (w.sget a) sc.code = .ok (b, l, t))
    (hc : t.cur = q.cur) (hv : t.warp? q.cur = some v) (h62 : d = 62 → v.limit ≤ b.value % 2 ^ 64)
    (h61 : d = 61 → v.limit ≤ b.gen % 2 ^ 64) :
    ∃ u m, acqBlock sp d a sc s = .next u ∧ u.warp? q.cur = some { v with
      s := Tab.set 0 (Tab.set 0 v.s d.val (BitVec.ofNat 64 b.value)) (d.val + 1) (BitVec.ofNat 64 b.gen)
      pc := v.pc + 4, park := .run, mon := m } := by
  have hread := t.blkRead_background (s.wgOf w).core l
  obtain ⟨m, hm⟩ := hread.warps q.cur v hv
  generalize ht' : t.blkRead (s.wgOf w).core l = t' at hread hm
  let v₁ := ({ v with mon := m } : Warp).sset d (BitVec.ofNat 64 b.value)
  let v₂ := v₁.sset (Fin.ofNat 64 (d.val + 1)) (BitVec.ofNat 64 b.gen)
  have h₁ : ({ v with mon := m } : Warp).writeS d (BitVec.ofNat 64 b.value) = .ok v₁ :=
    writeS_ok fun e => (h62 e).trans_eq (BitVec.toNat_ofNat ..).symm
  have h₂ : v₁.writeS (Fin.ofNat 64 (d.val + 1)) (BitVec.ofNat 64 b.gen) = .ok v₂ := by
    refine writeS_ok fun e => ?_
    have hval := congrArg Fin.val e
    rw [nextReg_val hd] at hval
    exact (h61 (Fin.ext (Nat.succ.inj hval))).trans_eq (BitVec.toNat_ofNat ..).symm
  have hsig := (t'.setWarp q.cur v₂).acquireSig_background (s.wgOf w).core sc.code b.sig
  obtain ⟨n, hn⟩ := hsig.warps q.cur _ (State.setWarp_warp?_same _ _ _ _ hm)
  have hcur : ((t'.setWarp q.cur v₂).acquireSig (s.wgOf w).core sc.code b.sig).cur = q.cur := by
    rw [hsig.cur, State.setWarp_cur, hread.cur, hc]
  refine ⟨_, n, acqBlock_body hd hdr hb h (by rw [ht']; exact acquire_lands hm h₁ h₂), ?_⟩
  rw [State.advance, hcur, State.modWarp_warp?_same, hn, Option.map_some]
  have hs : v₂.s = Tab.set 0 (Tab.set 0 v.s d.val (BitVec.ofNat 64 b.value)) (d.val + 1) (BitVec.ofNat 64 b.gen) :=
    congrArg (fun k => Tab.set 0 v₁.s k (BitVec.ofNat 64 b.gen)) (nextReg_val hd)
  rw [← hs]
  rfl

end

/-! ### Barriers -/

section
variable {s t u : State} {w : Warp} {a : SReg} {sc : Scope} {c x : Nat} {b : BarWord}

theorem BarWord.arrive_eq (b : BarWord) :
    if b.pending = 1 then b.arrive = { b with pending := b.expected, phase := (b.phase + 1) % 2 ^ 16 }
      else b.arrive = { b with pending := b.pending - 1 } := by
  unfold BarWord.arrive
  split <;> rfl

theorem barCell_ok {g : Workgroup} {va : Word} (hal : va.toNat % 8 = 0) (hsc : sc.code ≤ 3) (hc : s.spCell g va 8 = .ok c) :
    s.barCell g va sc = .ok c := by
  rw [State.barCell, aligned_ok hal, ok_bind, decide_eq_true hsc, need_true, ok_bind, hc]

theorem barWait_eq {g : Workgroup} {va : Word} {r : BarRec} (hw : s.warp? s.cur = some w) (hr : w.bar = some r)
    (hcell : r.cell = c) (hsc : sc.code ≤ 3) (hc : s.spCell g va 8 = .ok c) (hx : s.spLoad c 8 = .ok x) :
    s.barWait g va sc = if x / 2 ^ 48 = r.phase.toNat then .error (.park .barrier s)
      else .ok (s.modWarp s.cur fun w => { w with bar := none }) := by
  have hnames : s.namesWord g va r.cell = true := by
    rw [State.namesWord, hc, hcell]
    exact beq_self_eq_true c
  have hbar : (s.warp? s.cur).bind Warp.bar = some r := by
    rw [hw]
    exact hr
  simp only [State.barWait, decide_eq_true hsc, need_true, ok_bind, hbar, hnames, hcell ▸ hx,
    State.acquire_near _ _ hsc]
  by_cases h : x / 2 ^ 48 = r.phase.toNat
  · rw [if_pos h, bne_eq_false_iff_eq.2 h]
    rfl
  · rw [if_neg h, bne_iff_ne.2 h]
    rfl

theorem barWait_outcome {u : RegUse} {r : BarRec} {body : Warp → Workgroup → Except Stop State}
    (h : Claims.Issues s w u) (hr : w.bar = some r) (hcell : r.cell = c) (hsc : sc.code ≤ 3)
    (hc : s.spCell (s.wgOf w) (w.sget a) 8 = .ok c) (hx : s.spLoad c 8 = .ok x)
    (hbody : body w (s.wgOf w) = s.barWait (s.wgOf w) (w.sget a) sc) :
    scalarOp s u body = .next (if x / 2 ^ 48 = r.phase.toNat then s.setWarp s.cur { w with park := .barrier }
      else Claims.past s { w with bar := none }) := by
  have hwait := hbody.trans (barWait_eq h.1 hr hcell hsc hc hx)
  by_cases hp : x / 2 ^ 48 = r.phase.toNat
  · rw [if_pos hp] at hwait ⊢
    rw [scalarOp_error h hwait, stopped_park h.1]
  · rw [if_neg hp] at hwait ⊢
    rw [scalarOp_ok h hwait, modWarp_advance h.1]

theorem barArrive_eq {core : Nat} {va : Word} {sync : Bool} (hr : s.release s.cur core sc.code = .ok t)
    (hx : t.spLoad c 8 = .ok x) (hb : BarWord.parse x = some b) :
    s.barArrive core c va sc sync = .ok (((t.modWarp s.cur fun w => { w with
      bar := some { cell := c, phase := BitVec.ofNat 16 b.phase, sync := sync } }).spStore c 8 b.arrive.pack).wakeBarrier c
        b.arrive.phase) := by
  simp only [State.barArrive, hr, hx, hb, ok_bind]
  rfl

/-- BAR.SYNC of a warp whose record does not say that it has arrived through one arrives, and then waits. -/
theorem execBarSync_arrives (h : Claims.Issues s w { reads := [a.val] }) (hq : s.drained w sc.code = .ok s)
    (hcell : s.barCell (s.wgOf w) (w.sget a) sc = .ok c) (hrec : ∀ r, w.bar = some r → r.cell = c → r.sync = false)
    (harr : s.barArrive (s.wgOf w).core c (w.sget a) sc true = .ok t) :
    execBarSync a sc s = .next (s.outcome w (t.barWait (s.wgOf w) (w.sget a) sc)) := by
  refine scalarOp_outcome h ?_
  simp only [hq, hcell, ok_bind]
  split
  next rc ph hbar =>
    have hne : rc ≠ c := fun e => Bool.noConfusion (hrec _ hbar e)
    rw [if_neg hne, harr, ok_bind]
  next => rw [harr, ok_bind]

/-- BAR.SYNC of a warp that has arrived through one only waits. -/
theorem execBarSync_waits {r : BarRec} (h : Claims.Issues s w { reads := [a.val] }) (hq : s.drained w sc.code = .ok s)
    (hr : w.bar = some r) (hrc : r.cell = c) (hsync : r.sync = true) (hsc : sc.code ≤ 3) (hal : (w.sget a).toNat % 8 = 0)
    (hc : s.spCell (s.wgOf w) (w.sget a) 8 = .ok c) (hx : s.spLoad c 8 = .ok x) :
    execBarSync a sc s = .next (if x / 2 ^ 48 = r.phase.toNat then s.setWarp s.cur { w with park := .barrier }
      else Claims.past s { w with bar := none }) := by
  refine barWait_outcome h hr hrc hsc hc hx ?_
  obtain ⟨rc, ph, sync⟩ := r
  dsimp only at hrc hsync
  subst hsync
  simp only [hq, barCell_ok hal hsc hc, ok_bind, hr, if_pos hrc]

end

end Sys2Proof.Machine

namespace Sys2Proof.Claims
open Sys2Proof.Machine

theorem fencesAndWaits : FencesAndWaits := by
  intro s p t w q a sc o h0 h1
  have hw := h0.1
  refine ⟨fun hdr ho hrel => ?_, fun ho => ?_, fun hdr => ?_, fun hb => ?_, fun hm => ?_, fun x hm => ?_, fun x hm => ?_,
    fun hdr hsc hp => ?_, fun n since hdr hsc hp => ?_, fun h4 h5 => ?_⟩
  · have hok : fenceOk o = true := by rcases ho with rfl | rfl | rfl | rfl <;> rfl
    refine (exec_fence sc o s).trans (scalarOp_ok h0 ?_)
    simp only [hok, need_true, hdr.1, hrel, ok_bind, pure_eq_ok]
  · have hbad : fenceOk o = false := by rcases ho with rfl | rfl <;> rfl
    refine (exec_fence sc o s).trans (scalarOp_error h0 ?_)
    simp only [hbad, need_false, error_bind]
    rfl
  · refine (exec_laneSync sc s).trans ?_
    rw [← advance_eq hdr.2]
    exact scalarOp_ok h0 hdr.1
  · refine (exec_laneSync sc s).trans ((scalarOp_error h0 (drained_blocked hb)).trans ?_)
    rw [stopped_park hw]
  · refine (exec_monWait a s).trans ?_
    rw [← advance_eq hw]
    refine scalarOp_ok h1 ?_
    simp only [hm]
  · refine (exec_monWait a s).trans ((scalarOp_ok h1 (t := s.modWarp s.cur fun w => { w with
      mon := some { watch := x, hit := false } }) ?_).trans ?_)
    · simp only [hm, if_true]
    · rw [modWarp_advance hw]
  · refine (exec_monWait a s).trans ((scalarOp_error h1 (e := .park (.monitor (monDue s.tick (w.sget a))) s) ?_).trans ?_)
    · simp only [hm, Bool.false_eq_true, if_false]
    · rw [stopped_park hw]
      rfl
  · have hok : (sc == .course || sc == .package) = true := by rcases hsc with rfl | rfl <;> rfl
    have hcode : sc.code < 6 := by rcases hsc with rfl | rfl <;> decide
    refine (exec_quiesceWait sc s).trans ((scalarOp_error h0 (e := .park (.quiesce sc.code none) p) ?_).trans ?_)
    · simp only [hok, need_true, hdr.1, ok_bind]
    · rw [← drained_cur hcode hdr.1, State.stopped, State.modWarp_eq_setWarp p p.cur _ q hdr.2]
  · have hok : (sc == .course || sc == .package) = true := by rcases hsc with rfl | rfl <;> rfl
    have hcode : sc.code < 6 := by rcases hsc with rfl | rfl <;> decide
    refine (exec_quiesceWait sc s).trans ((scalarOp_error h0 (e := .park (.quiesce n since) p) ?_).trans ?_)
    · simp only [hok, need_true, hdr.1, ok_bind, hp]
    · rw [← drained_cur hcode hdr.1, State.stopped, State.modWarp_eq_setWarp p p.cur _ q hdr.2]
  · have hbad : (sc == .course || sc == .package) = false := by
      rw [beq_eq_false_iff_ne.2 h4, beq_eq_false_iff_ne.2 h5]
      rfl
    refine (exec_quiesceWait sc s).trans (scalarOp_error h0 ?_)
    simp only [hbad, need_false, error_bind]
    rfl

theorem monitorsWake : MonitorsWake := by
  intro s t w a tr c i v m
  refine ⟨fun h => ⟨fun ht hcert hw hready => ?_, fun hal hc => ?_⟩, fun hv hm => ⟨fun l hl => ?_,
    fun k at' n x hk hlo hhi => s.spStore_wakes hv hm hk hlo hhi, fun b hp => ?_, fun due hp => ?_, fun hp => ?_⟩⟩
  · obtain ⟨r, hr, hback⟩ : ∃ r, (execMonArm a s) = .next ((r : State).modWarp r.cur fun w =>
        { w with mon := some { watch := .line (tr.pa / 128), hit := false } }).advance ∧ Background t r := by
      by_cases hmem : tr.kind.isMem = true
      · refine ⟨t.sliceRead (s.wgOf w).core (tr.pa / 128), scalarOp_ok h ?_, t.sliceRead_background _ _⟩
        simp only [ht, ok_bind, State.confine_uncertified hcert, hmem, if_true, hready hmem, pure_eq_ok, State.keep_ok]
      · refine ⟨t, scalarOp_ok h ?_, .refl t⟩
        simp only [ht, ok_bind, State.confine_uncertified hcert, hmem, Bool.false_eq_true, if_false, pure_eq_ok,
          State.keep_ok]
    obtain ⟨m, hm⟩ := hback.warp? hw
    refine ⟨_, (exec_monArm a s).trans hr, ?_⟩
    rw [modWarp_advance hm, ← hback.cur]
    exact State.setWarp_warp?_same _ _ _ _ hm
  · refine (exec_monArmSp a s).trans ((scalarOp_ok h (t := s.modWarp s.cur fun w => { w with
      mon := some { watch := .word c, hit := false } }) ?_).trans ?_)
    · simp only [aligned_ok hal, hc, ok_bind, pure_eq_ok]
    · rw [modWarp_advance h.1]
  · exact State.wakeIf_hit hv hm hl
  · rw [exec_monitorWake, execMonitorWake, State.modWarp_eq_setWarp s i _ v hv]
    simp only [hp, hm]
  · rw [exec_monTimeout, execMonTimeout, State.modWarp_eq_setWarp s i _ v hv]
    simp only [hp, hm]
    split
    · rfl
    · rw [State.setWarp_self s i v hv]
  · rw [exec_monTimeout, execMonTimeout, State.modWarp_eq_setWarp s i _ v hv]
    simp only [hp, State.setWarp_self s i v hv]

theorem barrierResults : BarrierResults := by
  intro s t u w a sc c x b
  dsimp only
  intro h hq hal hsc hc
  have hcell := barCell_ok hal hsc hc
  refine ⟨fun hr hx hb => ⟨b.arrive, b.arrive_eq, (exec_barArr a sc s).trans (scalarOp_ok h ?_)⟩,
    fun r hr hrc hx => ⟨(exec_barWait a sc s).trans (barWait_outcome h hr hrc hsc hc hx ?_), fun hsync =>
      (exec_barSync a sc s).trans (execBarSync_waits h hq hr hrc hsync hsc hal hc hx)⟩,
    fun hrec harr => ?_, fun hnone => (exec_barWait a sc s).trans (scalarOp_error h ?_)⟩
  · have hq' : s.drained w sc.code = .ok s := hq
    simp only [hq', hcell, ok_bind, barArrive_eq hr hx hb]
  · have hq' : s.drained w sc.code = .ok s := hq
    simp only [hq', ok_bind]
  · have hsync := (exec_barSync a sc s).trans (execBarSync_arrives h hq hcell hrec harr)
    exact ⟨fun hu => by rw [hsync, hu]; rfl, fun hu => by rw [hsync, hu]; rfl⟩
  · have hq' : s.drained w sc.code = .ok s := hq
    have hbar : (s.warp? s.cur).bind Warp.bar = none := by
      rw [h.1]
      exact hnone
    simp only [hq', ok_bind, State.barWait, decide_eq_true hsc, need_true, hbar]
    rfl

theorem barrierFreesWaiters : BarrierFreesWaiters := by
  intro s c n i w hw
  exact (List.getElem?_map ..).trans (congrArg (Option.map _) (show s.warps[i]? = some w from hw))

end Sys2Proof.Claims

/-- Settles O26: each form is one scalar frame; a wake is one pass over the warps (`State.wakeIf_hit`). -/
theorem fencesAndMonitors : Obligations.FencesAndMonitors :=
  ⟨Sys2Proof.Claims.fencesAndWaits, Sys2Proof.Claims.monitorsWake⟩

open Sys2Proof.Machine in
/-- Settles O27: a release writes its updated block, and an acquire's two registers land in a warp that nothing else of it
changes but its monitor. -/
theorem syncBlockResults : Obligations.SyncBlockResults := by
  intro s q t u w x v d a sc b l snap
  have rel {i : Sys2Proof.Instr} {sp add : Bool} (hi : exec i s = relBlock sp add d a sc s)
      (h : Sys2Proof.Claims.Issues s w { reads := [a.val, d.val] }) (hdr : Sys2Proof.Claims.Drained s w sc.code q x)
      (hb : q.blkAt (s.wgOf w) sp false (w.sget a) sc.code = .ok (b, l, t))
      (hr : t.releasePart q.cur (s.wgOf w).core sc.code = .ok (snap, u)) :
      ∃ c : SyncBlk, exec i s = .next ((u.blkWrite (s.wgOf w).core c l).releaseDone (s.wgOf w).core sc.code).advance ∧
        c.value = (if add then b.value + (w.sget d).toNat else (w.sget d).toNat) % 2 ^ 64 ∧
        c.gen = (b.gen + 1) % 2 ^ 64 ∧ c.scope = sc.code ∧ c.releaser = (s.wgOf w).core ∧
        (sc.code ≤ 3 → c.sig = b.sig) :=
    ⟨_, hi.trans (relBlock_eq h hdr.1 hb hr), rfl, rfl, rfl, rfl, fun hk => if_pos hk⟩
  have acq63 {i : Sys2Proof.Instr} {sp : Bool} (hi : exec i s = acqBlock sp 63 a sc s)
      (h : Sys2Proof.Claims.Issues s w { reads := [a.val], writes := [63, 64] }) :
      Sys2Proof.Claims.Stops i s w (.trap { cause := 0x01 }) := hi.trans (scalarOp_error h rfl)
  exact ⟨rel (exec_rel d a sc s), rel (exec_relAdd d a sc s), rel (exec_relSp d a sc s), rel (exec_relAddSp d a sc s),
    fun h hd hdr hb hc hv h62 h61 => (exec_acq d a sc s).symm ▸ acqBlock_eq h hd hdr.1 hb hc hv h62 h61,
    fun h hd hdr hb hc hv h62 h61 => (exec_acqSp d a sc s).symm ▸ acqBlock_eq h hd hdr.1 hb hc hv h62 h61,
    fun h => ⟨acq63 (exec_acq 63 a sc s) h, acq63 (exec_acqSp 63 a sc s) h⟩⟩

/-- Settles O28: an arrival is one update of the word, a wait one look at it, and the step of a phase one pass over the
warps. -/
theorem barriers : Obligations.Barriers :=
  ⟨Sys2Proof.Claims.barrierResults, Sys2Proof.Claims.barrierFreesWaiters⟩

end

section
/-! PROOFS. Lane accesses to scratchpad, to global memory and by tensor (R327-R331, R342), and sweeps (R336-R338). -/

namespace Sys2Proof.Machine

/-! ### Threads in order: what the frame's loop and the statements' say -/

/-- The threads one after another, with no mismatch at any, are the frame's loop without a stop. -/
theorem perThread_of_eachThread {k : State → Nat → Except Stop State} {l : List Nat} {r u : State}
    (h : Claims.eachThread l k r = .ok u) : perThread k l r = (u, none) := by
  induction l generalizing r with
  | nil =>
    obtain rfl : r = u := Except.ok.inj h
    rfl
  | cons i l ih =>
    rw [Claims.eachThread, List.foldlM_cons] at h
    cases hm : r.mismatch i with
    | true => rw [hm] at h; cases h
    | false =>
      rw [hm] at h
      cases hk : k r i with
      | error e => rw [Bool.not_false, need_true, ok_bind, hk] at h; cases h
      | ok t =>
        rw [Bool.not_false, need_true, ok_bind, hk] at h
        rw [perThread, hm, if_neg Bool.false_ne_true, hk]
        exact ih h

/-- A body over threads whose every step is known where an invariant holds. -/
theorem perThread_foldl {k : State → Nat → Except Stop State} {step : State → Nat → State} (Inv : State → Prop)
    {l : List Nat} (hm : ∀ u i, Inv u → u.mismatch i = false) (hk : ∀ u, ∀ i ∈ l, Inv u → k u i = .ok (step u i))
    (hinv : ∀ u i, Inv u → Inv (step u i)) {s : State} (hs : Inv s) : perThread k l s = (l.foldl step s, none) := by
  induction l generalizing s with
  | nil => rfl
  | cons i l ih =>
    obtain ⟨hi, hl⟩ : (∀ u, Inv u → k u i = .ok (step u i)) ∧ ∀ u, ∀ i ∈ l, Inv u → k u i = .ok (step u i) :=
      ⟨fun u hu => hk u i (List.mem_cons_self ..) hu, fun u j hj hu => hk u j (List.mem_cons_of_mem _ hj) hu⟩
    rw [perThread, hm s i hs, if_neg Bool.false_ne_true, hi s hs]
    exact ih hl (hinv s i hs)

theorem perThread_single {k : State → Nat → Except Stop State} {s t : State} {i : Nat} (hm : s.mismatch i = false)
    (hk : k s i = .ok t) : perThread k [i] s = (t, none) := by
  rw [perThread, hm, if_neg Bool.false_ne_true, hk]
  rfl

/-! ### The frame of a memory form -/

section
variable {s r : State} {w : Warp} {b : Block} {op : Nat} {f : LaneFields} {rel acq sp : Bool}
  {k : Warp → Workgroup → State → Nat → Except Stop State}

/-- The scope of a memory form: on scratchpad those beyond cluster act as cluster (R342). -/
def laneScope (f : LaneFields) (sp : Bool) : Nat := if sp then Nat.min 3 f.rnd.toNat else f.rnd.toNat

/-- What a memory form's threads leave: a stop at one, or the acquire part and the next instruction. -/
def memOutcome (acq : Bool) (core scope : Nat) : State × Option (Nat × Stop) → State
  | (t, some (i, e)) => t.laneStop i e
  | (t, none) => (if acq then t.acquire core scope else t).laneAdvance

/-- After its release part a memory form is its threads in order. -/
theorem memFrame_eq (h : Claims.AtLane s w b op f) (hseg : b.seg = 0)
    (hr : Claims.laneStart s (s.wgOf w) rel (laneScope f sp) r) :
    memFrame s op f rel acq sp k = .next (memOutcome acq (s.wgOf w).core (laneScope f sp)
      (perThread (k w (s.wgOf w)) (threads (participants w b f)) r)) := by
  obtain ⟨hw, hl, hb, hf, hreg, ht, -, -⟩ := h
  have hfirst : (if rel && b.seg == 0 then (s.release s.cur (s.wgOf w).core (laneScope f sp)).map fun s =>
      s.modHead fun b => { b with seg := 1 } else .ok s) = .ok r := by
    cases rel with
    | false => exact congrArg Except.ok hr.symm
    | true =>
      obtain ⟨t, ht, rfl⟩ := hr
      rw [hseg, ht]
      rfl
  rw [memFrame, laneOpFrame_eq s op f _ w b hw hl hb hf hreg, todo_zero b _ ht]
  unfold laneScope at hfirst ⊢
  simp only [hfirst]
  obtain ⟨t, _ | ⟨i, e⟩⟩ := perThread (k w (s.wgOf w)) (threads (participants w b f)) r <;> rfl

/-- A memory form, as the statements say it. -/
theorem memFrame_each {ins : Instr} (hi : exec ins s = memFrame s op f rel acq sp k) (h : Claims.AtLane s w b op f)
    (hseg : b.seg = 0) {finish : State → State}
    (hfin : ∀ t, (if acq then t.acquire (s.wgOf w).core (laneScope f sp) else t) = finish t) :
    Claims.LaneEach ins s (threads (participants w b f)) (Claims.laneStart s (s.wgOf w) rel (laneScope f sp)) finish
      (k w (s.wgOf w)) := by
  intro r u hr
  have hframe := hi.trans (memFrame_eq (acq := acq) (k := k) h hseg hr)
  refine ⟨fun hall => ?_, fun j hj e hbefore hm he => ?_⟩
  · rw [hframe, perThread_of_eachThread hall, memOutcome, hfin]
  · obtain ⟨rest, hsplit⟩ := rising_split (threads (participants w b f)) j
      ((List.pairwise_lt_range (n := 32)).filter _) hj
    rw [hframe, hsplit, perThread_stops _ _ rest j r u e (perThread_of_eachThread hbefore) hm he, memOutcome]

end

/-! ### Scratchpad accesses of a lane -/

theorem spCell_congr {s t : State} (h : t.wgs = s.wgs) (g : Workgroup) (a : Word) (n : Nat) :
    t.spCell g a n = s.spCell g a n := by
  unfold State.spCell State.member
  rw [h]

theorem State.spStore_background (s : State) (c n x : Nat) : Background s (s.spStore c n x) :=
  ⟨rfl, rfl, rfl, s.spStore_monitorsOnly c n x, id⟩

theorem Background.mismatch {s t : State} {w : Warp} {b : Block} (h : Background s t) (hw : s.warp? s.cur = some w)
    (hb : w.blocks.head? = some b) (hm : b.stopAt = none) (i : Nat) : t.mismatch i = false := by
  obtain ⟨m, hv⟩ := h.warp? hw
  exact State.mismatch_none t _ b i hv hb hm

section
variable {s : State} {w : Warp} {b : Block} {f : LaneFields} {g : Workgroup}

/-- The scratchpad address of a thread (R328). -/
def laneSpAddr (w : Warp) (f : LaneFields) (i : Nat) : Int := (w.operand f .n32 i f.opa : Nat) + signed 29 f.w2.toNat

/-- The cell that a thread's access finds. -/
def Placed (s : State) (g : Workgroup) (f : LaneFields) (w : Warp) (i c : Nat) : Prop :=
  0 ≤ laneSpAddr w f i ∧ laneSpAddr w f i < 2 ^ 32 ∧ laneSpAddr w f i % (f.ty.width / 8 : Nat) = 0 ∧
    s.spCell g (BitVec.ofInt 64 (laneSpAddr w f i)) (f.ty.width / 8) = .ok c

theorem ofInt_toNat_mod {x : Int} {n : Nat} (h0 : 0 ≤ x) (h1 : x < 2 ^ 32) (hn : x % (n : Nat) = 0) :
    (BitVec.ofInt 64 x).toNat % n = 0 := by
  obtain ⟨y, rfl⟩ := Int.eq_ofNat_of_zero_le h0
  have hy : y < 2 ^ 64 := by omega
  rw [BitVec.ofInt_natCast, BitVec.toNat_ofNat, Nat.mod_eq_of_lt hy]
  exact_mod_cast hn

theorem laneCell_ok {t : State} {v : Warp} {i c : Nat} (h : Placed s g f w i c) (hg : t.wgs = s.wgs)
    (hv : v.operand f .n32 i f.opa = w.operand f .n32 i f.opa) : t.laneCell g f v i = .ok c := by
  obtain ⟨h0, h1, hn, hc⟩ := h
  have hal : aligned (BitVec.ofInt 64 (laneSpAddr w f i)) (typeBytes f.ty) = .ok () :=
    aligned_ok (ofInt_toNat_mod h0 h1 hn)
  have hneed : (decide (0 ≤ laneSpAddr w f i) && decide (laneSpAddr w f i < 2 ^ 32)) = true := by
    rw [decide_eq_true h0, decide_eq_true h1]
    rfl
  unfold State.laneCell
  rw [hv]
  change (do
    need (decide (0 ≤ laneSpAddr w f i) && decide (laneSpAddr w f i < 2 ^ 32)) (spRange _)
    aligned (BitVec.ofInt 64 (laneSpAddr w f i)) (typeBytes f.ty)
    t.spCell g (BitVec.ofInt 64 (laneSpAddr w f i)) (typeBytes f.ty)) = _
  rw [hneed, need_true, ok_bind, hal, ok_bind, spCell_congr hg]
  exact hc

theorem withMon_operand (w : Warp) (m : Option Mon) (f : LaneFields) (ty : LType) (i : Nat) (o : Operand) :
    ({ w with mon := m } : Warp).operand f ty i o = w.operand f ty i o := by
  cases o <;> rfl

/-- What a thread's scratchpad load leaves, before or after other threads' results. -/
theorem lLds_thread (hw : s.warp? s.cur = some w) {v : Warp} {i c : Nat} (hlike : Warp.LikeAt w v i)
    (h : Placed s g f w i c) (hp : s.mem.spPoisoned c (f.ty.width / 8) = false) :
    (do
      let c ← (s.setWarp s.cur v).laneCell g f ((s.setWarp s.cur v).focus w) i
      let x ← (s.setWarp s.cur v).spLoad c (typeBytes f.ty)
      return (s.setWarp s.cur v).putThread f i x) =
      .ok (s.setWarp s.cur (v.putDest f i (readN s.mem.sp c (f.ty.width / 8)))) := by
  have hcur := State.setWarp_warp?_same s s.cur w v hw
  have hfocus : (s.setWarp s.cur v).focus w = v := by rw [State.focus, State.setWarp_cur, hcur, Option.getD_some]
  have hload : (s.setWarp s.cur v).spLoad c (typeBytes f.ty) = .ok (readN s.mem.sp c (f.ty.width / 8)) := State.spLoad_ok hp
  rw [hfocus, laneCell_ok (t := s.setWarp s.cur v) h rfl (hlike.operand f .n32 f.opa), ok_bind, hload, ok_bind, pure_eq_ok, State.putThread,
    State.setWarp_cur, State.modWarp_eq_setWarp _ _ _ v hcur, State.setWarp_setWarp]

/-- L.LDS writes each thread the value of its cell. -/
theorem execLLds_writes (h : Claims.AtLane s w b 0x142 f) (hseg : b.seg = 0) {cell : Nat → Nat}
    (hplaced : ∀ i ∈ threads (participants w b f), Placed s (s.wgOf w) f w i (cell i))
    (hp : ∀ i ∈ threads (participants w b f), s.mem.spPoisoned (cell i) (f.ty.width / 8) = false) :
    Claims.LaneWrites (.lLds f) s w b f (fun i => readN s.mem.sp (cell i) (f.ty.width / 8)) fun _ => 0 := by
  intro _
  have hloop := perThread_warps s (fun t i => do
      let c ← t.laneCell (s.wgOf w) f (t.focus w) i
      let x ← t.spLoad c (typeBytes f.ty)
      return t.putThread f i x)
    (fun v i => v.putDest f i (readN s.mem.sp (cell i) (f.ty.width / 8))) w b h.1 h.2.2.1 h.2.2.2.2.2.2.2
    (threads (participants w b f)) (fun v i hi hlike => lLds_thread h.1 hlike (hplaced i hi) (hp i hi))
    (fun v i t hi ht hne hlike => hlike.putDest f i _ hi ht hne) (fun v i hlike => Warp.LikeAt.toLike_putDest hlike f i _)
    (threads_lt _) (threads_nodup _)
  simp only [Warp.setFlags_zero]
  refine ((exec_lLds f s).trans (memFrame_eq (rel := false) (sp := true) h hseg rfl)).trans ?_
  have hnear : laneScope f true ≤ 3 := Nat.min_le_left 3 _
  rw [hloop, memOutcome, State.acquire_near _ _ hnear, ite_self]
  exact congrArg _ (laneAdvance_eq s _ w b h.1 (by rw [← h.2.2.1]; exact congrArg _ (foldl_putDest_blocks _ _ _)))

/-- A plain L.STS writes each thread's bytes at its cell. -/
theorem execLSts_plain (h : Claims.AtLane s w b 0x143 f) (hseg : b.seg = 0) (ho : memOrder f = .plain) {cell : Nat → Nat}
    (hplaced : ∀ i ∈ threads (participants w b f), Placed s (s.wgOf w) f w i (cell i)) :
    exec (.lSts f) s = .next ((threads (participants w b f)).foldl
      (fun u i => u.spStore (cell i) (f.ty.width / 8) (w.operand f f.ty i f.opb)) s).laneAdvance := by
  have hloop := perThread_foldl (s := s) (k := fun t i => do
      let v := t.focus w
      let c ← t.laneCell (s.wgOf w) f v i
      return t.spStore c (typeBytes f.ty) (v.operand f f.ty i f.opb))
    (step := fun u i => u.spStore (cell i) (f.ty.width / 8) (w.operand f f.ty i f.opb)) (Background s)
    (l := threads (participants w b f)) (fun u i hu => hu.mismatch h.1 h.2.2.1 h.2.2.2.2.2.2.2 i)
    (fun u i hi hu => ?_) (fun u i hu => hu.trans (u.spStore_background _ _ _)) (.refl s)
  · refine ((exec_lSts f s).trans (memFrame_eq (rel := memOrder f != .plain) (sp := true) (r := s) h hseg ?_)).trans ?_
    · rw [ho]
      rfl
    · rw [hloop]
      rfl
  · obtain ⟨m, hm⟩ := hu.warp? h.1
    have hfocus : u.focus w = { w with mon := m } := by rw [State.focus, hm, Option.getD_some]
    dsimp only
    rw [hfocus, laneCell_ok (hplaced i hi) hu.wgs (withMon_operand w m f _ i _), ok_bind, withMon_operand]
    rfl

end

/-! ### Sweeps -/

theorem threads_single {i : Nat} (hi : i < 32) : threads (BitVec.ofNat 32 (2 ^ i)) = [i] := by
  have hall : ∀ j : Fin 32, threads (BitVec.ofNat 32 (2 ^ j.val)) = [j.val] := by decide
  exact hall ⟨i, hi⟩

theorem State.raise_zero {s : State} {w : Warp} (hw : s.warp? s.cur = some w) : s.raise 0 = .ok s := by
  have htr : w.trapsOn 0 = false := by
    rw [Warp.trapsOn, Nat.zero_mod, Nat.zero_and]
    rfl
  simp only [State.raise, hw, htr, Bool.false_eq_true, if_false]
  rw [State.modWarp_eq_setWarp s s.cur _ w hw, Warp.setFlags_zero, State.setWarp_self s s.cur w hw]

/-- One thread of one segment of a sweep, from its cells, its second operand in a register. -/
theorem sweepThread_eq {s : State} {w : Warp} {f : LaneFields} {d a : VReg} {k : LaneIn → Except Stop (Nat × Nat)} {gg i : Nat}
    {inB : Bool} {cd ca x r : Nat} (hw : s.warp? s.cur = some w) (hd : f.dest = .v d) (ha : f.opa = .v a)
    (hb : ∀ k, f.opb ≠ .v k) (hcd : s.sweepCell (s.wgOf w) (sweepAddr w i gg d (sweepStep f 12)) (elemBytes f.ty) = .ok cd)
    (hca : s.sweepCell (s.wgOf w) (sweepAddr w i gg a (sweepStep f 6)) (elemBytes f.ty) = .ok ca)
    (hx : s.spLoad ca (elemBytes f.ty) = .ok x)
    (hk : k { w := w, t := i, g := gg, a := x % 2 ^ f.ty.width, b := w.operand f f.ty i f.opb % 2 ^ f.ty.width
              c := w.operand f f.ty i f.opc } = .ok (r, 0)) :
    s.sweepThread f inB (OpTypes.same f) k gg i = .ok (s.spStore cd (elemBytes f.ty) (r % 2 ^ f.ty.width)) := by
  unfold State.sweepThread
  simp only [hw, hd, ha, OpTypes.same, hcd, hca, ok_bind]
  split
  next k hk => exact absurd hk (hb k)
  next => simp only [hx, hk, State.raise_zero hw, ok_bind, pure_eq_ok]

/-! ### A misaligned thread (R328) -/

section
variable {f : LaneFields} {g : Workgroup} {w : Warp} {u : State} {j : Nat} {va : Word}

theorem laneAligned_error (h : va.toNat % (f.ty.width / 8) ≠ 0) :
    Claims.laneAligned f va = .error (.trap { cause := 0x11, addr := va }) := aligned_error h

theorem laneLoad_misaligned (h : (Claims.laneVa f (Claims.now u w) j).toNat % (f.ty.width / 8) ≠ 0) :
    Claims.laneLoad f g w u j = .error (.trap { cause := 0x11, addr := Claims.laneVa f (Claims.now u w) j }) := by
  simp only [Claims.laneLoad, laneAligned_error h, error_bind]

theorem laneStore_misaligned (h : (Claims.laneVa f (Claims.now u w) j).toNat % (f.ty.width / 8) ≠ 0) :
    Claims.laneStore f g w u j = .error (.trap { cause := 0x11, addr := Claims.laneVa f (Claims.now u w) j }) := by
  simp only [Claims.laneStore, laneAligned_error h, error_bind]

theorem laneAtom_misaligned (k : LaneAtom) (h : (Claims.laneVa f (Claims.now u w) j).toNat % (f.ty.width / 8) ≠ 0) :
    Claims.laneAtom f g w k u j = .error (.trap { cause := 0x11, addr := Claims.laneVa f (Claims.now u w) j }) := by
  simp only [Claims.laneAtom, laneAligned_error h, error_bind]

/-- The address that a thread names by tensor. -/
def laneTensorVa (f : LaneFields) (v : Warp) (e : BitVec 512) (j : Nat) : Word :=
  teBase e + BitVec.ofNat 64 (v.operand f .n64 j f.opb) + BitVec.ofInt 64 (signed 29 f.w2.toNat)

theorem laneEntry_misaligned {e : BitVec 512}
    (he : u.resolve g.ctx ((Claims.now u w).operand f .n32 j f.opa) = some e)
    (h : (laneTensorVa f (Claims.now u w) e j).toNat % (f.ty.width / 8) ≠ 0) :
    Claims.laneEntry f g w u j = .error (.trap { cause := 0x11, addr := laneTensorVa f (Claims.now u w) e j }) := by
  have hal : Claims.laneAligned f (teBase e + BitVec.ofNat 64 ((Claims.now u w).operand f .n64 j f.opb) +
      BitVec.ofInt 64 (signed 29 f.w2.toNat)) = .error (.trap { cause := 0x11, addr := _ }) := laneAligned_error h
  simp only [Claims.laneEntry, he, hal, error_bind]
  rfl

end

/-! ### The memory forms by what each thread does -/

section
variable (f : LaneFields) (s : State)

theorem lLd_frame : exec (.lLd f) s =
    memFrame s 0x140 f false (memOrder f != .plain) false fun w g => Claims.laneLoad f g w := rfl

theorem lSt_frame : exec (.lSt f) s =
    memFrame s 0x141 f (memOrder f != .plain) false false fun w g => Claims.laneStore f g w := rfl

theorem lLdt_frame : exec (.lLdt f) s =
    memFrame s 0x144 f false (memOrder f != .plain) false fun w g => Claims.laneLoadTensor f g w := rfl

theorem lStt_frame : exec (.lStt f) s =
    memFrame s 0x145 f (memOrder f != .plain) false false fun w g => Claims.laneStoreTensor f g w := rfl

theorem laneAtomic_frame (op : Nat) (k : LaneAtom) : laneAtomic s op f k =
    memFrame s op f (releases (memOrder f)) (acquires (memOrder f)) false fun w g => Claims.laneAtom f g w k := rfl

/-- A thread's scratchpad store (R327-R330). -/
def laneStoreSp (g : Workgroup) (w : Warp) (u : State) (i : Nat) : Except Stop State := do
  let c ← u.laneCell g f (Claims.now u w) i
  return u.spStore c (f.ty.width / 8) ((Claims.now u w).operand f f.ty i f.opb)

/-- A thread's scratchpad atomic (R331). -/
def laneAtomSp (k : LaneAtom) (g : Workgroup) (w : Warp) (u : State) (i : Nat) : Except Stop State := do
  let c ← u.laneCell g f (Claims.now u w) i
  let (old, u) ← u.spAtomic c (f.ty.width / 8) fun old => laneAtomNew k f.ty old ((Claims.now u w).operand f f.ty i f.opb)
    ((Claims.now u w).operand f f.ty i f.opc)
  return u.modWarp u.cur fun w => w.putDest f i old

theorem lSts_frame : exec (.lSts f) s =
    memFrame s 0x143 f (memOrder f != .plain) false true fun w g => laneStoreSp f g w := rfl

theorem laneAtomicSp_frame (op : Nat) (k : LaneAtom) : laneAtomicSp s op f k =
    memFrame s op f (releases (memOrder f)) (acquires (memOrder f)) true fun w g => laneAtomSp f k g w := rfl

end

end Sys2Proof.Machine

namespace Sys2Proof.Claims
open Sys2Proof.Machine

theorem laneGlobalAccesses : LaneGlobalAccesses := by
  intro s w b f
  dsimp only
  have atom {i : Instr} {op : Nat} {k : LaneAtom} (hi : exec i s = laneAtomic s op f k) (h : AtLane s w b op f)
      (hseg : b.seg = 0) : LaneEach i s (threads (participants w b f))
      (laneStart s (s.wgOf w) (releases (memOrder f)) f.rnd.toNat)
      (fun u => if acquires (memOrder f) then u.acquire (s.wgOf w).core f.rnd.toNat else u)
      (laneAtom f (s.wgOf w) w k) :=
    memFrame_each (sp := false) (k := fun w g => laneAtom f g w k) (hi.trans (laneAtomic_frame f s op k)) h hseg
      fun _ => rfl
  exact ⟨fun h hseg => memFrame_each (sp := false) (k := fun w g => laneLoad f g w) (lLd_frame f s) h hseg fun _ => rfl,
    fun h hseg => memFrame_each (sp := false) (k := fun w g => laneStore f g w) (lSt_frame f s) h hseg fun _ => rfl,
    fun h hseg => memFrame_each (sp := false) (k := fun w g => laneLoadTensor f g w) (lLdt_frame f s) h hseg fun _ => rfl,
    fun h hseg => memFrame_each (sp := false) (k := fun w g => laneStoreTensor f g w) (lStt_frame f s) h hseg fun _ => rfl,
    atom (exec_lAtomAdd f s),
    atom (exec_lAtomMin f s),
    atom (exec_lAtomMax f s),
    atom (exec_lAtomAnd f s),
    atom (exec_lAtomOr f s),
    atom (exec_lAtomXor f s),
    atom (exec_lAtomXchg f s),
    atom (exec_lAtomCas f s)⟩

theorem laneMisalignedTraps : LaneMisalignedTraps := by
  intro s r u w b f j e
  dsimp only
  intro hj hm
  have traps {i : Instr} {op : Nat} {rel acq : Bool}
      {k : LaneFields → Workgroup → Warp → State → Nat → Except Stop State} {a : Word}
      (hi : exec i s = memFrame s op f rel acq false fun w g => k f g w)
      (he : a.toNat % (f.ty.width / 8) ≠ 0 → k f (s.wgOf w) w u j = .error (.trap { cause := 0x11, addr := a }))
      (h : AtLane s w b op f) (hseg : b.seg = 0) (hr : laneStart s (s.wgOf w) rel f.rnd.toNat r)
      (hbefore : eachThread ((threads (participants w b f)).filter fun i => decide (i < j)) (k f (s.wgOf w) w) r = .ok u)
      (ha : a.toNat % (f.ty.width / 8) ≠ 0) : exec i s = .next (u.laneStop j (.trap { cause := 0x11, addr := a })) :=
    (memFrame_each (sp := false) (k := fun w g => k f g w) hi h hseg (fun _ => rfl) r u hr).2 j hj _ hbefore hm (he ha)
  have atom {i : Instr} {op : Nat} {k : LaneAtom} (hi : exec i s = laneAtomic s op f k) :=
    traps (a := laneVa f (now u w) j) (k := fun f g w => laneAtom f g w k) (hi.trans (laneAtomic_frame f s op k))
      fun ha => laneAtom_misaligned k ha
  exact ⟨traps (k := laneLoad) (lLd_frame f s) laneLoad_misaligned,
    traps (k := laneStore) (lSt_frame f s) laneStore_misaligned,
    fun he => ⟨traps (k := laneLoadTensor) (lLdt_frame f s) fun ha => congrArg (· >>= _) (laneEntry_misaligned he ha),
      traps (k := laneStoreTensor) (lStt_frame f s) fun ha => congrArg (· >>= _) (laneEntry_misaligned he ha)⟩,
    atom (exec_lAtomAdd f s),
    atom (exec_lAtomMin f s),
    atom (exec_lAtomMax f s),
    atom (exec_lAtomAnd f s),
    atom (exec_lAtomOr f s),
    atom (exec_lAtomXor f s),
    atom (exec_lAtomXchg f s),
    atom (exec_lAtomCas f s)⟩

end Sys2Proof.Claims

open Sys2Proof.Machine in
/-- Settles O29: a memory form is its threads in order (`memFrame_each`), and a scratchpad access changes nothing that a
later thread's address or value is made of. -/
theorem laneScratchpadAccesses : Obligations.LaneScratchpadAccesses := by
  intro s w b f cell
  dsimp only
  have near (acq : Bool) (t : State) : (if acq then t.acquire (s.wgOf w).core (laneScope f true) else t) = id t := by
    have hle : laneScope f true ≤ 3 := Nat.min_le_left 3 _
    rw [State.acquire_near _ _ hle, ite_self, id]
  have atom {i : Sys2Proof.Instr} {op : Nat} {k : LaneAtom} (hi : exec i s = laneAtomicSp s op f k)
      (h : Sys2Proof.Claims.AtLane s w b op f ∧ b.seg = 0 ∧ f.ty.width ∈ [8, 16, 32, 64]) :
      Sys2Proof.Claims.LaneEach i s (threads (participants w b f))
        (Sys2Proof.Claims.laneStart s (s.wgOf w) (releases (memOrder f)) (Nat.min 3 f.rnd.toNat)) id
        (laneAtomSp f k (s.wgOf w) w) :=
    memFrame_each (sp := true) (k := fun w g => laneAtomSp f k g w) (hi.trans (laneAtomicSp_frame f s op k)) h.1 h.2.1
      fun t => near _ t
  exact ⟨fun h hplaced hp => execLLds_writes h.1 h.2.1 hplaced hp, fun h ho hplaced => execLSts_plain h.1 h.2.1 ho hplaced,
    fun h => memFrame_each (sp := true) (k := fun w g => laneStoreSp f g w) (lSts_frame f s) h.1 h.2.1 fun t => near _ t,
    atom (exec_lSatomAdd f s),
    atom (exec_lSatomMin f s),
    atom (exec_lSatomMax f s),
    atom (exec_lSatomAnd f s),
    atom (exec_lSatomOr f s),
    atom (exec_lSatomXor f s),
    atom (exec_lSatomXchg f s),
    atom (exec_lSatomCas f s)⟩

/-- Settles O30: a memory form is its threads in order; a misaligned thread's body stops before its access. -/
theorem laneGlobalMemory : Obligations.LaneGlobalMemory :=
  ⟨Sys2Proof.Claims.laneGlobalAccesses, Sys2Proof.Claims.laneMisalignedTraps⟩

open Sys2Proof.Machine in
/-- Settles O31: one thread of one segment (`sweepThread_eq`), in the frame of a sweep. -/
theorem sweepDoesOneSegment : Obligations.SweepDoesOneSegment := by
  intro s w b f i d a cd ca
  dsimp only
  intro hw hl hb ht hm hf hr hs hpart hi hd ha hnb hcd hca hp
  have hthread := sweepThread_eq (inB := readsB 0x000) (gg := b.seg)
    (k := fun x => .ok (intResult f.ty f.sat (intOf f.ty x.a + intOf f.ty x.b), 0)) hw hd ha hnb hcd hca
    (State.spLoad_ok hp) rfl
  have hloop := perThread_single (k := fun s t => s.sweepThread f (readsB 0x000) (OpTypes.same f)
    (fun x => .ok (intResult f.ty f.sat (intOf f.ty x.a + intOf f.ty x.b), 0)) b.seg t)
    (State.mismatch_none s w b i hw hb hm) hthread
  have htodo : todo b (participants w b f) = [i] := by rw [todo_zero b _ ht, hpart, threads_single hi]
  refine (exec_iadd f s).trans ?_
  rw [execIadd, intForm, lanePure, laneCompute, if_pos hs, sweepOp, laneOpFrame_eq s _ f _ w b hw hl hb hf hr, htodo]
  rw [hloop]
  rfl

end

section
/-! PROOFS. Capabilities (R158-R160, R356, R357), remote accesses of both streams (R161-R169, R332, R354, R355). -/

namespace Sys2Proof.Machine

/-! ### Fields of a word with a field replaced -/

theorem field_testBit {w : Nat} (x : BitVec w) (hi lo i : Nat) :
    (field x hi lo).testBit i = (decide (i < hi + 1 - lo) && x.getLsbD (lo + i)) := by
  rw [field, Nat.testBit_mod_two_pow, Nat.testBit_div_two_pow, Nat.add_comm i lo]
  rfl

theorem field_setField_same {w : Nat} (x : BitVec w) {hi lo v : Nat} (hw : hi < w) (hlo : lo ≤ hi)
    (hv : v < 2 ^ (hi + 1 - lo)) : field (setField x hi lo v) hi lo = v := by
  refine Nat.eq_of_testBit_eq fun i => ?_
  rw [field_testBit, setField_getLsbD x v _ hw hlo]
  by_cases hi : i < hi + 1 - lo
  · rw [if_pos (by omega), decide_eq_true hi, Bool.true_and, Nat.add_sub_cancel_left]
  · rw [decide_eq_false hi, Bool.false_and]
    exact (Nat.testBit_lt_two_pow (hv.trans_le (Nat.pow_le_pow_right (by omega) (by omega)))).symm

theorem field_setField_other {w : Nat} (x : BitVec w) {hi lo v hi' lo' : Nat} (hw : hi < w) (hlo : lo ≤ hi)
    (h : hi < lo' ∨ hi' < lo) : field (setField x hi lo v) hi' lo' = field x hi' lo' := by
  refine Nat.eq_of_testBit_eq fun i => ?_
  rw [field_testBit, field_testBit, setField_getLsbD x v _ hw hlo]
  by_cases hi : i < hi' + 1 - lo'
  · rw [if_neg (by omega)]
  · rw [decide_eq_false hi, Bool.false_and, Bool.false_and]

/-! ### Capability registers -/

/-- A capability with its range replaced (R160). -/
def capRange (c : BitVec 128) (base len : Nat) : BitVec 128 := setField (setField c 127 71 base) 70 31 len

theorem capRange_fields (c : BitVec 128) {base len : Nat} (hb : base < 2 ^ 57) (hl : len < 2 ^ 40) :
    capBase (capRange c base len) = base ∧ capLength (capRange c base len) = len ∧
      (capRange c base len).setWidth 31 = c.setWidth 31 := by
  refine ⟨?_, field_setField_same _ (by omega) (by omega) hl, ?_⟩
  · rw [capBase, capRange, field_setField_other _ (by omega) (by omega) (.inl (by omega)),
      field_setField_same _ (by omega) (by omega) hb]
  · refine BitVec.eq_of_getLsbD_eq fun i hi => ?_
    rw [BitVec.getLsbD_setWidth, BitVec.getLsbD_setWidth, capRange, setField_getLsbD _ _ _ (by omega) (by omega),
      if_neg (by omega), setField_getLsbD _ _ _ (by omega) (by omega), if_neg (by omega)]

theorem capPerms_bit (c : BitVec 128) (b : Word) (i : Nat) : bit (capPerms c b) i =
    if i = 10 then bit c 10 && bit b 0 && (bit c 12 && bit b 2)
    else if i = 11 then bit c 11 && bit b 1 && (bit c 13 && bit b 3) && (bit c 12 && bit b 2)
    else if i = 12 then bit c 12 && bit b 2
    else if i = 13 then bit c 13 && bit b 3
    else bit c i := by
  simp only [bit, capPerms, capREAD, capWRITE, capATOM, capPULL, setBit_getLsbD _ _ _ _ (by omega : 10 < 128),
    setBit_getLsbD _ _ _ _ (by omega : 11 < 128), setBit_getLsbD _ _ _ _ (by omega : 12 < 128),
    setBit_getLsbD _ _ _ _ (by omega : 13 < 128)]

theorem capPerms_spec (c : BitVec 128) (b : Word) :
    (∀ i, i < 10 ∨ 14 ≤ i → bit (capPerms c b) i = bit c i) ∧ (bit (capPerms c b) 13 = (bit c 13 && bit b 3)) ∧
      (bit (capPerms c b) 12 = (bit c 12 && bit b 2)) ∧
      (bit (capPerms c b) 11 = (bit c 11 && bit b 1 && bit (capPerms c b) 13 && bit (capPerms c b) 12)) ∧
      (bit (capPerms c b) 10 = (bit c 10 && bit b 0 && bit (capPerms c b) 12)) := by
  refine ⟨fun i hi => ?_, capPerms_bit c b 13, capPerms_bit c b 12, ?_, ?_⟩
  · rw [capPerms_bit, if_neg (by omega), if_neg (by omega), if_neg (by omega), if_neg (by omega)]
  · rw [capPerms_bit c b 13, capPerms_bit c b 12]
    exact capPerms_bit c b 11
  · rw [capPerms_bit c b 12]
    exact capPerms_bit c b 10

theorem Workgroup.egress_open {g : Workgroup} (h : g.cert = false) (va : Word) : g.egress va = .ok () := by
  rw [Workgroup.egress, h]
  rfl

theorem Workgroup.egress_certified {g : Workgroup} (h : g.cert = true) (va : Word) :
    g.egress va = .error (kilnAccess kEgress va) := by
  rw [Workgroup.egress, h]
  rfl

section
variable {s : State} {w : Warp}

/-- A scalar instruction that changes the warp in focus alone. -/
theorem scalarOp_changes {u : RegUse} {body : Warp → Workgroup → Except Stop State} (h : Claims.Issues s w u)
    (k : Warp → Warp) (hbody : body w (s.wgOf w) = .ok (s.modWarp s.cur k)) :
    scalarOp s u body = .next (Claims.past s (k w)) :=
  (scalarOp_ok h hbody).trans (congrArg _ (modWarp_advance h.1 k))

end

end Sys2Proof.Machine

namespace Sys2Proof.Claims
open Sys2Proof.Machine

theorem capabilityResults : CapabilityResults := by
  intro s w d a x r n
  dsimp only
  refine ⟨fun h => ⟨scalarOp_error h rfl, scalarOp_error h rfl⟩, fun hcert => ⟨fun h => ?_, fun h hx => ⟨?_, ?_⟩,
    fun h => ⟨?_, ?_, ?_⟩, fun h hn => ?_⟩, fun hcert => ⟨fun h hx => ⟨fun hgood => ?_, fun hgood => ?_, fun htag hin => ?_,
      fun htag hin => ?_, fun htag => ?_⟩, fun h => ⟨fun htag => ?_, fun htag => ?_⟩, fun h => ⟨?_, ?_, ?_, fun hn => ?_⟩,
      fun h => ?_⟩⟩
  case refine_1 => exact scalarOp_error h (by simp only [Workgroup.egress_certified hcert, error_bind]; rfl)
  case refine_2 | refine_3 =>
    exact scalarOp_error h (by
      simp only [bne_iff_ne.2 hx, need_true, ok_bind, Workgroup.egress_certified hcert, error_bind]; rfl)
  case refine_4 | refine_5 | refine_6 =>
    exact scalarOp_error h (by simp only [Workgroup.egress_certified hcert, error_bind]; rfl)
  case refine_7 =>
    exact scalarOp_error h (by
      simp only [decide_eq_true hn, need_true, ok_bind, Workgroup.egress_certified hcert, error_bind]; rfl)
  case refine_8 =>
    obtain ⟨hsys, hok, hstate, hlease⟩ := hgood
    have hneed : (s.ctxSys (s.wgOf w).ctx && capOk (w.sget (nextReg x) ++ w.sget x) &&
        field (s.peer (s.wgOf w).part (capPeer (w.sget (nextReg x) ++ w.sget x))) 63 62 == 2 &&
        field (s.peer (s.wgOf w).part (capPeer (w.sget (nextReg x) ++ w.sget x))) 57 48 ==
          capLease (w.sget (nextReg x) ++ w.sget x)) = true := by
      rw [hsys, Bool.true_and, Bool.and_eq_true, Bool.and_eq_true, beq_iff_eq, beq_iff_eq]
      exact ⟨⟨hok, hstate⟩, hlease⟩
    refine scalarOp_changes h (fun w' => w'.kset d (w.sget (nextReg x) ++ w.sget x) true) ?_
    simp only [bne_iff_ne.2 hx, need_true, ok_bind, Workgroup.egress_open hcert, hneed, pure_eq_ok]
  case refine_9 =>
    have hneed : (s.ctxSys (s.wgOf w).ctx && capOk (w.sget (nextReg x) ++ w.sget x) &&
        field (s.peer (s.wgOf w).part (capPeer (w.sget (nextReg x) ++ w.sget x))) 63 62 == 2 &&
        field (s.peer (s.wgOf w).part (capPeer (w.sget (nextReg x) ++ w.sget x))) 57 48 ==
          capLease (w.sget (nextReg x) ++ w.sget x)) = false := by
      rw [Bool.eq_false_iff]
      intro e
      rw [Bool.and_eq_true, Bool.and_eq_true, Bool.and_eq_true, beq_iff_eq, beq_iff_eq] at e
      obtain ⟨⟨⟨hsys, hok⟩, hstate⟩, hlease⟩ := e
      exact hgood ⟨hsys, hok, hstate, hlease⟩
    refine scalarOp_error h ?_
    simp only [bne_iff_ne.2 hx, need_true, need_false, ok_bind, error_bind, Workgroup.egress_open hcert, hneed]
    rfl
  case refine_10 =>
    obtain ⟨⟨hlo, hhi⟩, hbase⟩ := hin
    have hlen : (w.sget (Fin.ofNat 64 (x.val + 1))).toNat % 2 ^ 40 < 2 ^ 40 := Nat.mod_lt _ (by decide)
    refine ⟨_, scalarOp_changes h (fun w' => w'.kset d (capRange (w.kget a) (w.sget x).toNat _) true) ?_,
      capRange_fields (w.kget a) hbase hlen⟩
    have htag' : (w.cap a).tag = true := htag
    have hneed : (decide (capBase (w.cap a).bits ≤ (w.sget x).toNat) && decide ((w.sget x).toNat < 2 ^ 57) &&
        decide ((w.sget x).toNat + (w.sget (nextReg x)).toNat % 2 ^ 40 ≤ capBase (w.cap a).bits +
          capLength (w.cap a).bits)) = true := by
      rw [Bool.and_eq_true, Bool.and_eq_true]
      exact ⟨⟨decide_eq_true hlo, decide_eq_true hbase⟩, decide_eq_true hhi⟩
    simp only [bne_iff_ne.2 hx, need_true, ok_bind, Workgroup.egress_open hcert, htag', hneed, pure_eq_ok]
    rfl
  case refine_11 =>
    have htag' : (w.cap a).tag = true := htag
    have hneed : (decide (capBase (w.cap a).bits ≤ (w.sget x).toNat) && decide ((w.sget x).toNat < 2 ^ 57) &&
        decide ((w.sget x).toNat + (w.sget (nextReg x)).toNat % 2 ^ 40 ≤ capBase (w.cap a).bits +
          capLength (w.cap a).bits)) = false := by
      rw [Bool.eq_false_iff]
      intro e
      rw [Bool.and_eq_true, Bool.and_eq_true, decide_eq_true_eq, decide_eq_true_eq, decide_eq_true_eq] at e
      obtain ⟨⟨hlo, hbase⟩, hhi⟩ := e
      exact hin ⟨⟨hlo, hhi⟩, hbase⟩
    refine scalarOp_error h ?_
    simp only [bne_iff_ne.2 hx, need_true, ok_bind, Workgroup.egress_open hcert, htag', hneed, need_false, error_bind]
    rfl
  case refine_12 =>
    have htag' : (w.cap a).tag = false := htag
    refine scalarOp_error h ?_
    simp only [bne_iff_ne.2 hx, need_true, ok_bind, Workgroup.egress_open hcert, htag', need_false, error_bind]
    rfl
  case refine_13 =>
    have htag' : (w.cap a).tag = true := htag
    refine ⟨_, scalarOp_changes h (fun w' => w'.kset d (capPerms (w.kget a) (w.sget x)) true) ?_,
      capPerms_spec (w.kget a) (w.sget x)⟩
    simp only [need_true, ok_bind, Workgroup.egress_open hcert, htag', pure_eq_ok]
    rfl
  case refine_14 =>
    have htag' : (w.cap a).tag = false := htag
    refine scalarOp_error h ?_
    simp only [ok_bind, Workgroup.egress_open hcert, htag', need_false, error_bind]
    rfl
  case refine_15 | refine_16 =>
    exact scalarOp_writes h (by simp only [Workgroup.egress_open hcert, ok_bind]; rfl)
  case refine_17 =>
    refine scalarOp_writes h ?_
    have hword : BitVec.ofNat 64 (w.cap a).tag.toNat = if w.ktag a then (1 : Word) else 0 := by
      change BitVec.ofNat 64 (w.ktag a).toNat = _
      cases w.ktag a <;> rfl
    rw [← hword]
    simp only [Workgroup.egress_open hcert, ok_bind]
    rfl
  case refine_18 =>
    refine scalarOp_error h ?_
    simp only [decide_eq_false (Nat.not_le.2 hn), need_false, error_bind]
    rfl
  case refine_19 =>
    refine scalarOp_changes h (fun w' => w'.kset d (w.kget a) (w.ktag a)) ?_
    simp only [Workgroup.egress_open hcert, ok_bind, pure_eq_ok]

theorem capabilityMemory : CapabilityMemory := by
  intro s t u w v d a tr x tag
  dsimp only
  intro h hcert
  refine ⟨fun hal htr hload hv => ?_, fun hal htr hstore => ?_, fun hal => ⟨?_, ?_⟩⟩
  · refine ((exec_capLd d a s).trans (scalarOp_ok h
      (t := u.modWarp u.cur fun w => w.kset d (BitVec.ofNat 128 x) tag) ?_)).trans
        (congrArg _ (modWarp_advance hv _))
    simp only [Workgroup.egress_open hcert, beq_iff_eq.2 hal, need_true, htr, hload, ok_bind, pure_eq_ok, State.keep_ok]
  · refine (exec_capSt a d s).trans (scalarOp_ok h ?_)
    have hst : t.capStore (s.wgOf w) tr (w.sget a) (w.cap d) = .ok u := hstore
    simp only [Workgroup.egress_open hcert, beq_iff_eq.2 hal, need_true, htr, hst, ok_bind, State.keep_ok]
  · refine scalarOp_error h ?_
    simp only [Workgroup.egress_open hcert, beq_eq_false_iff_ne.2 hal, need_false, ok_bind, error_bind]
    rfl
  · refine scalarOp_error h ?_
    simp only [Workgroup.egress_open hcert, beq_eq_false_iff_ne.2 hal, need_false, ok_bind, error_bind]
    rfl

end Sys2Proof.Claims

/-- Settles O32: each form by its checks in turn; CAP.BOUND replaces the range alone and CAP.PERM the permission bits. -/
theorem capabilities : Obligations.Capabilities :=
  ⟨Sys2Proof.Claims.capabilityResults, Sys2Proof.Claims.capabilityMemory⟩

end

section
/-! PROOFS. Remote accesses of both streams (R161-R169, R332, R354, R355). -/

namespace Sys2Proof.Machine

/-- A change of the fabric's state. -/
theorem Background.of_fab (s : State) (f : Fabric) : Background s { s with fab := f } := .of_eq rfl rfl rfl rfl rfl

namespace State

theorem sticky_background (s : State) (ctx bits : Nat) : Background s (s.sticky ctx bits) := by
  unfold State.sticky
  split
  · exact s.writePa_background _ _ _
  · exact .refl s

theorem aer_background (s : State) (ctx : Nat) (e : AerEntry) : Background s (s.aer ctx e) := by
  unfold State.aer
  dsimp only
  split
  · exact .refl s
  · split
    · exact s.sticky_background _ _
    · exact ((s.writePa_background _ _ _).trans (writePa_background _ _ _ _)).trans (sticky_background _ _ _)

theorem drainEntry_background (s : State) (e : WcEntry) : Background s (s.drainEntry e) := by
  unfold State.drainEntry
  dsimp only
  split
  · exact (Background.of_fab s _).trans (aer_background _ _ _)
  · exact (Background.of_fab s _).trans (send_background _ _)

theorem drainAll_background (l : List WcEntry) (s : State) : Background s (s.drainAll l) := by
  induction l generalizing s with
  | nil => exact .refl s
  | cons e l ih =>
    rw [State.drainAll]
    split
    · exact ih s
    · exact (s.drainEntry_background e).trans (ih _)

theorem wcMerge_background (s : State) (e : WcEntry) (o n : Nat) (x : Word) : Background s (s.wcMerge e o n x) := by
  unfold State.wcMerge
  dsimp only
  split
  · exact (Background.of_fab s _).trans (drainAll_background _ _)
  · exact .of_eq rfl rfl rfl rfl rfl

theorem hostFlush_background {s t : State} {wi core : Nat} (h : s.hostFlush wi core = .ok t) : Background s t := by
  unfold State.hostFlush at h
  dsimp only at h
  split at h
  · split at h
    · cases h
      exact .of_eq rfl rfl rfl rfl rfl
    · cases h
  · split at h
    · cases h
      exact .refl s
    · cases h

theorem systemQuiet_background {s t : State} {wi core : Nat} (h : s.systemQuiet wi core = .ok t) : Background s t := by
  unfold State.systemQuiet at h
  dsimp only at h
  cases hq : (s.drainCore core).wcbQuiet core && !(s.drainCore core).oldFlights wi with
  | false => rw [hq] at h; cases h
  | true =>
    rw [hq, need_true, ok_bind] at h
    exact (drainAll_background _ s).trans (hostFlush_background h)

end State

/-- A body that goes on after a check went on because the check holds. -/
theorem need_bind_ok {α : Type} {c : Bool} {e : Stop} {k : Unit → Except Stop α} {x : α}
    (h : (need c e >>= k) = .ok x) : c = true ∧ k () = .ok x := by
  cases c with
  | false => cases h
  | true => exact ⟨rfl, h⟩

theorem bind_ok {α β : Type} {m : Except Stop α} {k : α → Except Stop β} {y : β} (h : (m >>= k) = .ok y) :
    ∃ x, m = .ok x ∧ k x = .ok y := by
  cases m with
  | error e => cases h
  | ok x => exact ⟨x, rfl, h⟩

theorem State.remoteStore_background {s t : State} {g : Workgroup} {c : Cap} {x : Int} {n : Nat} {v : Word}
    (h : s.remoteStore g c x n v = .ok t) : Background s t := by
  unfold State.remoteStore at h
  obtain ⟨-, -, h⟩ := bind_ok h
  obtain ⟨-, -, h⟩ := bind_ok h
  obtain ⟨-, h⟩ := need_bind_ok h
  dsimp only at h
  split at h
  · cases h
    exact s.wcMerge_background _ _ _ _
  · obtain ⟨-, h⟩ := need_bind_ok h
    have hroom : Background s (if (s.fab.wcb.filter fun e => e.core == g.core).length < 64 then s
        else s.drainAll ((s.fab.wcb.filter fun e => e.core == g.core).take 1)) := by
      split
      · exact .refl s
      · exact State.drainAll_background _ s
    cases h
    exact (hroom.trans (.of_fab _ _)).trans (State.wcMerge_background _ _ _ _ _)

/-- The wait of a system-scope release leaves the warp in focus. -/
theorem quietPart_cur {t p : State} {b : Prop} [Decidable b] {wi core : Nat} {k : State → Except Stop State}
    (hk : ∀ u u', k u = .ok u' → u'.cur = u.cur)
    (h : (if b then t.systemQuiet wi core >>= k else Except.ok t >>= k) = .ok p) : p.cur = t.cur := by
  split at h
  · obtain ⟨u, hu, h⟩ := bind_ok h
    rw [hk u p h, (State.systemQuiet_background hu).cur]
  · exact hk t p h

/-- The waits of a scalar instruction leave its warp in focus. -/
theorem drained_focus {s p : State} {w : Warp} {k : Nat} (h : s.drained w k = .ok p) : p.cur = s.cur := by
  replace h := (need_bind_ok (k := fun _ => s.lanePerformed s.cur (s.wgOf w).core k) h).2
  rw [State.lanePerformed] at h
  cases hw : s.warp? s.cur with
  | none => rw [hw] at h; cases h; rfl
  | some v =>
    rw [hw] at h
    dsimp only at h
    have hwrote : Background s (if 4 ≤ k then v.laneLines.foldl (fun t l => t.l1WriteBack (s.wgOf w).core l) s else s) := by
      split
      · exact .foldl _ (fun t l => t.l1WriteBack_background _ l) _ s
      · exact .refl s
    generalize (if 4 ≤ k then v.laneLines.foldl (fun t l => t.l1WriteBack (s.wgOf w).core l) s else s) = t at hwrote h
    by_cases hd : 3 ≤ k ∧ v.laneLines ≠ []
    · rw [if_pos hd] at h
      exact (quietPart_cur (fun _ _ e => by cases e; rfl) (need_bind_ok h).2).trans hwrote.cur
    · rw [if_neg hd] at h
      exact (quietPart_cur (fun _ _ e => by cases e; rfl) h).trans hwrote.cur

/-! ### The checks of a remote access (R161) -/

section
variable {s : State} {g : Workgroup} {c : Cap} {x : Int} {n perm : Nat}

/-- The bounds that a remote access stays within. -/
def Cap.Inside (c : Cap) (x : Int) (n : Nat) : Prop := 0 ≤ x ∧ capBase c.bits + x + n ≤ capBase c.bits + capLength c.bits

theorem Cap.check_untagged (ht : c.tag = false) : c.check x n perm = .error (capability 1 (BitVec.ofInt 64 (c.at x))) := by
  simp only [Cap.check, ht, need_false, error_bind]

theorem Cap.check_outside (ht : c.tag = true) (hin : ¬c.Inside x n) :
    c.check x n perm = .error (capability 2 (BitVec.ofInt 64 (c.at x))) := by
  have hb : (decide (0 ≤ x) && decide (c.at x + n ≤ capBase c.bits + capLength c.bits)) = false := by
    rw [Bool.eq_false_iff, Ne, Bool.and_eq_true, decide_eq_true_eq, decide_eq_true_eq]
    exact hin
  simp only [Cap.check, ht, need_true, ok_bind, hb, need_false, error_bind]

theorem Cap.inside_eq (hin : c.Inside x n) :
    (decide (0 ≤ x) && decide (c.at x + n ≤ capBase c.bits + capLength c.bits)) = true := by
  rw [Bool.and_eq_true, decide_eq_true_eq, decide_eq_true_eq]
  exact hin

theorem Cap.check_forbidden (ht : c.tag = true) (hin : c.Inside x n) (hp : bit c.bits perm = false) :
    c.check x n perm = .error (capability 3 (BitVec.ofInt 64 (c.at x))) := by
  simp only [Cap.check, ht, need_true, ok_bind, Cap.inside_eq hin, hp, need_false]

theorem Cap.check_ok (ht : c.tag = true) (hin : c.Inside x n) (hp : bit c.bits perm = true) : c.check x n perm = .ok () := by
  simp only [Cap.check, ht, need_true, ok_bind, Cap.inside_eq hin, hp]

theorem State.peerCheck_idle {part : Nat} {va : Word} (h : field (s.peer part (capPeer c.bits)) 63 62 ≠ 2) :
    s.peerCheck part c va = .error (noPeer va) := by
  simp only [State.peerCheck, State.peerActive, beq_eq_false_iff_ne.2 h, need_false, error_bind]

theorem State.peerCheck_lease {part : Nat} {va : Word} (h : field (s.peer part (capPeer c.bits)) 63 62 = 2)
    (hl : field (s.peer part (capPeer c.bits)) 57 48 ≠ capLease c.bits) :
    s.peerCheck part c va = .error (capability 4 va) := by
  simp only [State.peerCheck, State.peerActive, beq_iff_eq.2 h, need_true, ok_bind, beq_eq_false_iff_ne.2 hl, need_false]

theorem State.peerCheck_ok {part : Nat} {va : Word} (h : field (s.peer part (capPeer c.bits)) 63 62 = 2)
    (hl : field (s.peer part (capPeer c.bits)) 57 48 = capLease c.bits) : s.peerCheck part c va = .ok () := by
  simp only [State.peerCheck, State.peerActive, beq_iff_eq.2 h, need_true, ok_bind, beq_iff_eq.2 hl]

variable {wi : Nat} {th : Option Nat} {r : RemAcc}

theorem State.remoteSend_unchecked (hg : g.cert = false) {e : Stop} (h : c.check x r.size (remPerm r.op) = .error e) :
    s.remoteSend wi th g c x r = .error e := by
  simp only [State.remoteSend, Workgroup.egress_open hg, ok_bind, h, error_bind]

theorem State.remoteSend_misaligned (hg : g.cert = false) (h : c.check x r.size (remPerm r.op) = .ok ())
    (hal : c.at x % r.size ≠ 0) : s.remoteSend wi th g c x r = .error (capability 7 (BitVec.ofInt 64 (c.at x))) := by
  simp only [State.remoteSend, Workgroup.egress_open hg, ok_bind, h, decide_eq_false hal, need_false, error_bind]

theorem State.remoteSend_noPeer (hg : g.cert = false) (h : c.check x r.size (remPerm r.op) = .ok ())
    (hal : c.at x % r.size = 0) {e : Stop} (hp : s.peerCheck g.part c (BitVec.ofInt 64 (c.at x)) = .error e) :
    s.remoteSend wi th g c x r = .error e := by
  simp only [State.remoteSend, Workgroup.egress_open hg, ok_bind, h, decide_eq_true hal, need_true, hp, error_bind]

/-- What a remote access whose checks pass sends, with no write of its line buffered or in flight. -/
def State.sentRemote (s : State) (wi : Nat) (th : Option Nat) (g : Workgroup) (c : Cap) (x : Int) (r : RemAcc) : State :=
  let q : RemReq := { id := s.fab.nextId, warp := wi, thread := th, peer := capPeer c.bits, part := g.part, sent := s.tick
                      answer := none }
  State.send { s with fab := { s.fab with nextId := s.fab.nextId + 1, remotes := s.fab.remotes ++ [q] } }
    (.remote s.fab.nextId (capPeer c.bits) (capTarget c.bits) (capLease c.bits) (c.at x).toNat r.op r.size r.x r.y)

theorem State.remoteSend_ok (hg : g.cert = false) (h : c.check x r.size (remPerm r.op) = .ok ())
    (hal : c.at x % r.size = 0) (hp : s.peerCheck g.part c (BitVec.ofInt 64 (c.at x)) = .ok ())
    (hb : s.fab.wcb = []) (hf : s.fab.flights = []) : s.remoteSend wi th g c x r = .ok (s.sentRemote wi th g c x r) := by
  have hdrain : s.drainLine g.core c ((c.at x).toNat / 128) = s := by
    rw [State.drainLine, hb]
    rfl
  have hnone : (s.fab.wcb.any fun e => e.core == g.core && e.peer == capPeer c.bits && e.target == capTarget c.bits &&
      e.line == (c.at x).toNat / 128) = false := by
    rw [hb]
    rfl
  have hflight : s.lineInFlight g.core c ((c.at x).toNat / 128) = false := by
    rw [State.lineInFlight, hf]
    rfl
  simp only [State.remoteSend, Workgroup.egress_open hg, ok_bind, h, decide_eq_true hal, need_true, hp, hdrain, hflight,
    hnone, Bool.or_false, Bool.not_false, pure_eq_ok]
  rfl

end

/-! ### Answers and waits of a remote access (R162-R164) -/

section
variable {s : State} {wi : Nat} {th : Option Nat} {g : Workgroup} {c : Cap} {x : Int} {r : RemAcc} {q : RemReq}

theorem State.remote_data {d : Word} (h : s.request? wi th = some q) (ha : q.answer = some (.data d)) :
    s.remote wi th g c x r = .ok (d.toNat % 2 ^ (8 * r.size), s.dropRequest q.id) := by
  obtain ⟨id, warp, thread, peer, part, sent, answer⟩ := q
  cases ha
  rw [State.remote, h]

theorem State.remote_fault {reason detail : Nat} (h : s.request? wi th = some q) (ha : q.answer = some (.fault reason detail)) :
    s.remote wi th g c x r = .error (remoteFault reason detail (BitVec.ofInt 64 (c.at x))) := by
  obtain ⟨id, warp, thread, peer, part, sent, answer⟩ := q
  cases ha
  rw [State.remote, h]

theorem State.remote_waits (h : s.request? wi th = some q) (ha : q.answer = none) :
    s.remote wi th g c x r = .error (.park .response s) := by
  obtain ⟨id, warp, thread, peer, part, sent, answer⟩ := q
  cases ha
  rw [State.remote, h]

theorem State.remote_sends {t : State} (h : s.request? wi th = none) (ht : s.remoteSend wi th g c x r = .ok t) :
    s.remote wi th g c x r = .error (.park .response t) := by
  rw [State.remote, h]
  dsimp only
  rw [ht, ok_bind]

/-- A remote access is done only when its answer is there, and leaves the warps as they are. -/
theorem State.remote_background {y : Nat} {t : State} (h : s.remote wi th g c x r = .ok (y, t)) : Background s t := by
  unfold State.remote at h
  split at h
  · cases h
    exact .of_eq rfl rfl rfl rfl rfl
  · cases h
  · cases h
  · obtain ⟨u, -, h⟩ := bind_ok h
    cases h

end

end Sys2Proof.Machine

namespace Sys2Proof.Machine

/-! ### Scalar remote instructions (R354, R355) -/

section
variable {s t : State} {w : Warp} {op : RemOp} {d a : SReg} {k : KReg} {z : MemSize} {q : RemReq} {x : Word}

/-- What a remote instruction asks for (R354). -/
def remAcc (op : RemOp) (d : SReg) (z : MemSize) (w : Warp) : RemAcc :=
  { op := op, size := sizeBytes z, x := if op = .load then 0 else BitVec.ofNat 64 (lowBytes (w.sget d) (sizeBytes z))
    y := if op = .cas then BitVec.ofNat 64 (lowBytes (w.sget (nextReg d)) (sizeBytes z)) else 0 }

/-- The registers of a remote instruction. -/
def remUse (op : RemOp) (d a : SReg) : RegUse :=
  { reads := a.val :: (if op = .load then [] else if op = .cas then [d.val, d.val + 1] else [d.val]), writes := [d.val] }

/-- SIZE and the pair of a remote instruction. -/
theorem remSize_ok (h : op = .load ∨ ((z = .n32 ∨ z = .n64) ∧ (op = .cas → d ≠ 63))) :
    (op == .load || ((z == .n32 || z == .n64) && (op != .cas || d != 63))) = true := by
  rcases h with rfl | ⟨hz, hd⟩
  · rfl
  · rw [Bool.or_eq_true, Bool.and_eq_true, Bool.or_eq_true, Bool.or_eq_true, beq_iff_eq, beq_iff_eq, beq_iff_eq,
      bne_iff_ne, bne_iff_ne]
    exact .inr ⟨hz, Decidable.not_or_of_imp hd⟩

theorem remoteOp_stops (hi : Claims.Issues s w (remUse op d a))
    (hl : op = .load ∨ ((z = .n32 ∨ z = .n64) ∧ (op = .cas → d ≠ 63))) {e : Stop}
    (h : s.remote s.cur none (s.wgOf w) (w.cap k) (w.sget a).toNat (remAcc op d z w) = .error e) :
    remoteOp op d a k z s = .next (s.stopped s.cur w.pc e) := by
  refine scalarOp_error hi ?_
  rw [remSize_ok hl, need_true, ok_bind]
  exact congrArg (· >>= fun p => p.2.putS d (if op = .load then extend z p.1 else BitVec.ofNat 64 p.1)) h

theorem remoteOp_answered (hi : Claims.Issues s w (remUse op d a))
    (hl : op = .load ∨ ((z = .n32 ∨ z = .n64) ∧ (op = .cas → d ≠ 63))) (hq : s.request? s.cur none = some q)
    (ha : q.answer = some (.data x)) {y : Word} (hy : y = if op = .load then extend z (x.toNat % 2 ^ (8 * sizeBytes z))
      else BitVec.ofNat 64 (x.toNat % 2 ^ (8 * sizeBytes z))) (h62 : ¬(d = 62 ∧ y.toNat < w.limit)) :
    remoteOp op d a k z s = .next (Claims.past (s.dropRequest q.id) { w with s := Tab.set 0 w.s d.val y }) := by
  have hw : (s.dropRequest q.id).warp? (s.dropRequest q.id).cur = some w := hi.1
  have hdata := State.remote_data (g := s.wgOf w) (c := w.cap k) (x := (w.sget a).toNat) (r := remAcc op d z w) hq ha
  refine (scalarOp_ok hi (t := (s.dropRequest q.id).setWarp (s.dropRequest q.id).cur (w.sset d y)) ?_).trans
    (congrArg _ (advance_setWarp _ _ w hw))
  rw [remSize_ok hl, need_true, ok_bind]
  refine (congrArg (· >>= fun p => p.2.putS d (if op = .load then extend z p.1 else BitVec.ofNat 64 p.1)) hdata).trans ?_
  subst hy
  exact putS_ok hw h62

end

/-! ### Remote stores (R165, R169) -/

section
variable {s t : State} {g : Workgroup} {c : Cap} {n addr : Nat} {v : Word} {z : MemSize}

theorem byteMask_small {o : Nat} (hn : n ≤ 8) : 0 ||| byteMask o n ≠ BitVec.allOnes 128 := by
  rw [show (0 : BitVec 128) ||| byteMask o n = byteMask o n from BitVec.zero_or]
  intro h
  have hbit (i : Nat) (hi : i < 128) : (byteMask o n).getLsbD i = true := by
    rw [h, BitVec.getLsbD_allOnes]
    exact decide_eq_true hi
  have hval (i : Nat) (hi : i < 128) : o ≤ i ∧ i - o < n := by
    have := hbit i hi
    rw [byteMask, BitVec.getLsbD_ofNat, Nat.testBit_mul_two_pow, Nat.testBit_two_pow_sub_one] at this
    simpa [hi] using this
  have h0 := hval 0 (by omega)
  have h8 := hval 8 (by omega)
  omega

/-- The first entry of an empty write-combining buffer. -/
theorem State.wcMerge_first (hn : n ≤ 8) {e : WcEntry} {o : Nat} (he : e.mask = 0) :
    State.wcMerge { s with fab := { s.fab with wcb := [e] } } e o n v =
      { s with fab := { s.fab with wcb :=
        [{ e with data := mergeLine e.data (lineAt o n v.toNat) (byteMask o n), mask := byteMask o n }] } } := by
  unfold State.wcMerge
  dsimp only
  rw [he, if_neg (byteMask_small hn), List.map_cons, List.map_nil, if_pos rfl,
    show (0 : BitVec 128) ||| byteMask o n = byteMask o n from BitVec.zero_or]

/-- The entry that a store opens in the write-combining buffer (R165). -/
def wcFirst (s : State) (g : Workgroup) (c : Cap) (x : Int) (n : Nat) (v : Word) : WcEntry :=
  { core := g.core, peer := capPeer c.bits, target := capTarget c.bits, lease := capLease c.bits
    line := (c.at x).toNat / 128, data := mergeLine 0 (lineAt ((c.at x).toNat % 128) n v.toNat) (byteMask ((c.at x).toNat % 128) n)
    mask := byteMask ((c.at x).toNat % 128) n, tick := s.tick, part := g.part, ctx := g.ctx }

theorem State.remoteStore_first {x : Int} (hg : g.cert = false) (h : c.check x n capWRITE = .ok ()) (hal : c.at x % n = 0)
    (hb : s.fab.wcb = []) (hn : n ≤ 8) :
    s.remoteStore g c x n v = .ok { s with fab := { s.fab with wcb := [wcFirst s g c x n v] } } := by
  have hnone : s.wcEntry? g.core c ((c.at x).toNat / 128) = none := by
    rw [State.wcEntry?, hb]
    rfl
  have hroom : (s.fab.wcb.filter fun e => e.core == g.core).length < 64 := by
    rw [hb]
    exact Nat.zero_lt_succ _
  simp only [State.remoteStore, Workgroup.egress_open hg, ok_bind, h, decide_eq_true hal, need_true, hnone, if_pos hroom,
    decide_eq_true hroom, pure_eq_ok]
  rw [hb, List.nil_append, State.wcMerge_first hn rfl]
  rfl

theorem Cap.at_ofNat (c : Cap) (k : Nat) : c.at k = (capBase c.bits + k : Nat) := (Int.natCast_add _ _).symm

theorem sizeBytes_le (z : MemSize) : sizeBytes z ≤ 8 := by cases z <;> decide

end

end Sys2Proof.Machine

namespace Sys2Proof.Claims
open Sys2Proof.Machine

theorem remoteAccesses : RemoteAccesses := by
  intro s w d a k z q x reason detail n g c off low acc use legal val goes
  have all (i : Instr) (op : RemOp) (hi : exec i s = remoteOp op d a k z s) : goes i op := by
    intro h hl
    refine ⟨fun hq ha h62 => hi.trans (remoteOp_answered h hl hq ha rfl h62), fun hq ha => hi.trans ?_,
      fun hq ha => hi.trans ?_, fun t hq ht => hi.trans ?_⟩
    · exact remoteOp_stops h hl (State.remote_fault hq ha)
    · exact (remoteOp_stops h hl (State.remote_waits hq ha)).trans (congrArg _ (stopped_park h.1 w.pc .response))
    · exact remoteOp_stops h hl (State.remote_sends hq ht)
  exact ⟨all _ _ (exec_rld d a k z s), all _ _ (exec_ratomAdd d a k z s), all _ _ (exec_ratomAnd d a k z s),
    all _ _ (exec_ratomOr d a k z s), all _ _ (exec_ratomXor d a k z s), all _ _ (exec_ratomXchg d a k z s),
    all _ _ (exec_ratomCas d a k z s)⟩

theorem remoteChecks : RemoteChecks := by
  intro s wi th g c x r
  dsimp only
  refine ⟨fun hg => ?_, fun hg => ⟨fun ht => ?_, fun ht hin => ?_, fun ht hin hp => ?_, fun ht hin hp => ?_⟩⟩
  · simp only [State.remoteSend, Workgroup.egress_certified hg, error_bind]
    rfl
  · exact State.remoteSend_unchecked hg (Cap.check_untagged ht)
  · exact State.remoteSend_unchecked hg (Cap.check_outside ht hin)
  · exact State.remoteSend_unchecked hg (Cap.check_forbidden ht hin hp)
  · have hcheck : c.check x r.size (remPerm r.op) = .ok () := Cap.check_ok ht hin hp
    exact ⟨fun hal => State.remoteSend_misaligned hg hcheck hal,
      fun hal hidle => State.remoteSend_noPeer hg hcheck hal (State.peerCheck_idle hidle),
      fun hal hst hlease => State.remoteSend_noPeer hg hcheck hal (State.peerCheck_lease hst hlease),
      fun hal hst hlease hb hf => ⟨_, State.remoteSend_ok hg hcheck hal (State.peerCheck_ok hst hlease) hb hf,
        rfl, rfl, rfl⟩⟩

theorem remoteStores : RemoteStores := by
  intro s p t w v d a k z q x
  dsimp only
  intro h hz
  refine ⟨fun ht => ?_, fun hg htag hin hp hal hb => ?_, fun hd hq => ⟨fun ha => ?_, fun ha => ?_⟩⟩
  · refine (exec_rst d a k z s).trans (scalarOp_ok h ?_)
    rw [hz, need_true, ok_bind]
    exact ht
  · have hcheck : (w.cap k).check (w.sget a).toNat (sizeBytes z) capWRITE = .ok () :=
      Cap.check_ok htag ⟨Int.natCast_nonneg _, by exact_mod_cast hin⟩ hp
    have hmod : (w.cap k).at (w.sget a).toNat % (sizeBytes z : Nat) = 0 := by
      rw [Cap.at_ofNat]
      exact_mod_cast hal
    refine (exec_rst d a k z s).trans ((scalarOp_ok h (t := { s with fab := { s.fab with wcb :=
      [wcFirst s (s.wgOf w) (w.cap k) (w.sget a).toNat (sizeBytes z) (w.sget d)] } }) ?_).trans
      (congrArg _ (advance_eq h.1)))
    rw [hz, need_true, ok_bind]
    exact State.remoteStore_first hg hcheck hmod hb (sizeBytes_le z)
  · obtain ⟨hdr, hv⟩ := hd
    obtain ⟨id, warp, thread, peer, part, sent, answer⟩ := q
    cases ha
    refine (exec_rstRelSys d a k z s).trans ((scalarOp_ok h (t := p.dropRequest id) ?_).trans
      (congrArg _ (advance_eq (s := p.dropRequest id) hv)))
    have hdr' : s.drained w scopeSystem = .ok p := hdr
    rw [hz, need_true, ok_bind, hdr', ok_bind]
    simp only [hq]
    rfl
  · obtain ⟨hdr, hv⟩ := hd
    have hcur := drained_focus hdr
    obtain ⟨id, warp, thread, peer, part, sent, answer⟩ := q
    cases ha
    refine (exec_rstRelSys d a k z s).trans ((scalarOp_error h (e := .park .response p) ?_).trans (congrArg _ ?_))
    · have hdr' : s.drained w scopeSystem = .ok p := hdr
      rw [hz, need_true, ok_bind, hdr', ok_bind]
      simp only [hq]
    · rw [← hcur]
      exact stopped_park hv w.pc .response

end Sys2Proof.Claims

/-- Settles O33: a remote access by its checks in order, by whether its request has been answered, and a store by the
write-combining entry that it opens. -/
theorem scalarRemote : Obligations.ScalarRemote :=
  ⟨Sys2Proof.Claims.remoteAccesses, Sys2Proof.Claims.remoteChecks, Sys2Proof.Claims.remoteStores⟩

namespace Sys2Proof.Machine

/-! ### Remote accesses of a lane (R163, R332) -/

/-- Threads in order by a body that goes on as another does wherever a warp is in focus. -/
theorem eachThread_congr {k k' : State → Nat → Except Stop State} (hk : ∀ u i w, u.warp? u.cur = some w → k' u i = k u i)
    (hkeep : ∀ u i t w, u.warp? u.cur = some w → k u i = .ok t → ∃ v, t.warp? t.cur = some v) {l : List Nat} {s : State}
    {w : Warp} (hw : s.warp? s.cur = some w) {t : State} (h : Claims.eachThread l k s = .ok t) :
    Claims.eachThread l k' s = .ok t := by
  induction l generalizing s w with
  | nil => exact h
  | cons i l ih =>
    rw [Claims.eachThread, List.foldlM_cons] at h ⊢
    obtain ⟨u, hu, h⟩ := bind_ok h
    obtain ⟨hm, hu⟩ := need_bind_ok hu
    obtain ⟨v, hv⟩ := hkeep s i u w hw hu
    rw [hm, need_true, ok_bind, hk s i w hw, hu, ok_bind]
    exact ih hv h

theorem laneEach_eachThread {s t : State} {w : Warp} {b : Block} {op : Nat} {f : LaneFields}
    {k : State → Nat → Except Stop State} (h : Claims.AtLane s w b op f)
    (ht : Claims.eachThread (threads (participants w b f)) k s = .ok t) : laneEach s op f k = .next t.laneAdvance := by
  obtain ⟨hw, hl, hb, hf, hreg, hth, -, -⟩ := h
  rw [laneEach, laneOpFrame_eq s op f _ w b hw hl hb hf hreg, todo_zero b _ hth, perThread_of_eachThread ht]

theorem modWarp_focus {s t : State} {w : Warp} (h : Background s t) (hw : s.warp? s.cur = some w) (k : Warp → Warp) :
    ∃ v, (t.modWarp t.cur k).warp? (t.modWarp t.cur k).cur = some v := by
  obtain ⟨m, hm⟩ := h.warp? hw
  refine ⟨k { w with mon := m }, ?_⟩
  rw [State.modWarp_cur, State.modWarp_warp?_same, hm]
  rfl

theorem sendThreads_sent {k : State → Nat → Except Stop State} {s : State} {l : List Nat} (h : ∀ i ∈ l, k s i = .ok s) :
    sendThreads k l s = s := by
  induction l with
  | nil => rfl
  | cons i l ih =>
    rw [sendThreads, h i (List.mem_cons_self ..)]
    exact ih fun j hj => h j (List.mem_cons_of_mem _ hj)

end Sys2Proof.Machine

open Sys2Proof.Machine in
/-- Settles O34: each form is its threads in order; a thread's remote access leaves a warp in focus, and a load whose
requests are all out sends none. -/
theorem laneRemoteAccesses : Obligations.LaneRemoteAccesses := by
  intro s t w b f l n g k now cap off low each
  have atomic {i : Sys2Proof.Instr} {op : Nat} {r : Warp → Nat → RemAcc} (hi : exec i s = laneRemAtom s op f r)
      (h : Sys2Proof.Claims.AtLane s w b op f) (ht : Sys2Proof.Claims.eachThread l (each r) s = .ok t) :
      exec i s = .next t.laneAdvance := by
    refine hi.trans (laneEach_eachThread h (eachThread_congr (k := each r) (fun u i v hv => ?_) (fun u i t' v hv ht' => ?_)
      h.1 ht))
    · simp only [hv, each, now, Sys2Proof.Claims.now, Option.getD_some]
      rfl
    · obtain ⟨⟨x, u'⟩, hu, ht'⟩ := bind_ok ht'
      cases ht'
      exact modWarp_focus (State.remote_background hu) hv _
  refine ⟨fun h hsent ht => (exec_lRld f s).trans ?_, fun h ht _ => (exec_lRst f s).trans ?_, atomic (exec_lRatomAdd f s),
    atomic (exec_lRatomCas f s)⟩
  · obtain ⟨hw, hl, hb, hf, hreg, hth, -, -⟩ := h
    have hnone : ∀ i ∈ l, (match s.request? s.cur (some i) with
        | some _ => Except.ok s
        | none => s.remoteSend s.cur (some i) (s.wgOf w) (laneCap f w) (laneRemOff f w i)
            { op := .load, size := typeBytes f.ty }) = .ok s := by
      intro i hi
      obtain ⟨q, hq⟩ := Option.ne_none_iff_exists'.1 (hsent i hi)
      rw [hq]
    rw [execLRld, laneOpFrame_eq s 0x160 f _ w b hw hl hb hf hreg, todo_zero b _ hth]
    dsimp only
    rw [sendThreads_sent hnone]
    have hall := perThread_of_eachThread ht
    split
    next u hu =>
      cases hu.symm.trans hall
      rfl
    next u i e hu => cases hu.symm.trans hall
  · refine laneEach_eachThread h (eachThread_congr (fun u i v hv => ?_) (fun u i t' v hv ht' => ?_) h.1 ht)
    · simp only [hv, now, Sys2Proof.Claims.now, Option.getD_some]
      rfl
    · obtain ⟨u', hu, ht'⟩ := bind_ok ht'
      cases ht'
      exact modWarp_focus (State.remoteStore_background hu) hv _

end

section
/-! PROOFS. Posts to the engine queues and QFENCE (R358, R364-R371), landing words (R359-R363), scratchpad mappings
(R372, R373). -/

namespace Sys2Proof.Machine

/-! ### The end of a post (R365) -/

/-- An operation at the end of its queue. -/
def State.queueOp (s : State) (o : EngOp) : State :=
  { s with eng := { s.eng with ops := s.eng.ops ++ [{ o with id := s.eng.nextId }], nextId := s.eng.nextId + 1 } }

section
variable {s t : State} {w : Warp} {g : Workgroup} {wi n : Nat} {o : EngOp} {e : Stop}

theorem State.post_ok (hl : o.land = 0) (hroom : s.queueLen g.core o.q < queueCap o.q)
    (hr : s.release wi g.core 3 = .ok t) : s.post g wi o n = .ok (t.queueOp o) := by
  simp only [State.post, State.landOpt, if_pos hl, decide_eq_true hroom, need_true, ok_bind, hr, pure_eq_ok]
  rfl

theorem State.post_full (hl : o.land = 0) (hroom : ¬s.queueLen g.core o.q < queueCap o.q) :
    s.post g wi o n = .error (.park .engine s) := by
  simp only [State.post, State.landOpt, if_pos hl, decide_eq_false hroom, need_false, ok_bind, error_bind]

theorem handleCell_none : s.handleCell g 0#64 16 = .ok () := if_neg Bool.false_ne_true

theorem landOpt_none : s.landOpt g 0#64 = .ok (.nowhere, s) := if_pos rfl

/-- Side kinds: by address is neither by scratchpad address nor by TID. -/
theorem side_address : ((0 : Nat) = 1) = False ∧ ((0 : Nat) = 2) = False := by decide

/-- A handle whose word is found is in order. -/
theorem handleCell_of_landing {h : Word} {k : Nat} {a : AccKind} {p : Perm} {l : LandLoc}
    (hl : s.landing g h k a p = .ok (l, t)) : s.handleCell g h k = .ok () := by
  unfold State.landing at hl
  replace hl := (need_bind_ok hl).2
  unfold State.handleCell
  split
  · next hsp =>
    rw [if_pos hsp] at hl
    obtain ⟨c, hc, -⟩ := bind_ok hl
    rw [hc]
    rfl
  · rfl

theorem hostBarred_uncertified (hg : g.cert = false) (l : List (Nat × Nat)) : s.hostBarred g l = .ok () := by
  unfold State.hostBarred
  rw [hg]
  rfl

/-- A side that goes by address raises nothing outside a certified launch. -/
theorem sideCheck_address (hg : g.cert = false) (row : Nat → Int) (rows k : Nat) (b : Bool) :
    s.sideCheck g 0 row rows k b = .ok none := by
  unfold State.sideCheck
  simp only [hostBarred_uncertified hg]
  cases b <;> rfl

theorem sideLooks_address (hg : g.cert = false) (row : Nat → Int) (rows k : Nat) (b : Bool) :
    s.sideLooks g 0 row rows k b = s := by
  unfold State.sideLooks
  rw [hg]
  refine if_neg ?_
  simp

end

/-! ### Posts whose landing handle is 0 -/

section
variable {s t : State} {w : Warp} {a : SReg} {q : Fin 4} {r : BitVec 1024}

theorem copyPost_malformed {cond : Bool} (h : Claims.Issues s w { reads := [a.val] }) (hg : (s.wgOf w).cert = false)
    (hr : s.release s.cur (s.wgOf w).core 3 = .ok t) (hreq : s.request (s.wgOf w) (w.sget a) 128 = .ok r)
    (hland : reqGet r 56 8 = 0) (hbad : copyBad r = true)
    (hroom : s.queueLen (s.wgOf w).core q.val < queueCap q.val) :
    copyPost cond a q s = .next (t.queueOp (newOp w (s.wgOf w) q.val .malformed r 0)).advance := by
  refine scalarOp_ok h ?_
  simp only [hreq, ok_bind, hland, hg, Bool.not_false, Bool.true_or, need_true, hbad, if_true]
  exact State.post_ok rfl hroom hr

/-- The last step of a copy by address. -/
theorem copyPost_plain (h : Claims.Issues s w { reads := [a.val] }) (hg : (s.wgOf w).cert = false)
    (hreq : s.request (s.wgOf w) (w.sget a) 128 = .ok r) (hland : reqGet r 56 8 = 0) (hbad : copyBad r = false)
    (hsrc : srcKind r = 0) (hdst : dstKind r = 0) {y : Except Stop State}
    (hpost : ∀ n, s.post (s.wgOf w) s.cur (newOp w (s.wgOf w) q.val .post r 0) n = y) :
    copyPost false a q s = .next (s.outcome w y) := by
  refine scalarOp_outcome h ?_
  simp only [hreq, ok_bind, hland, hg, Bool.not_false, Bool.true_or, need_true, hbad, Bool.false_and, Bool.or_false,
    Bool.false_eq_true, if_false, hsrc, hdst, sideCheck_address hg, sideLooks_address hg, side_address, handleCell_none]
  exact hpost _

theorem reqWord_ne_zero {lo : Nat} (h : reqGet r lo 8 ≠ 0) : BitVec.ofNat 64 (reqGet r lo 8) ≠ 0 := by
  intro e
  have hlt : reqGet r lo 8 < 2 ^ 64 := Nat.mod_lt _ (Nat.two_pow_pos _)
  have hval := congrArg BitVec.toNat e
  rw [BitVec.toNat_ofNat, Nat.mod_eq_of_lt hlt] at hval
  exact h hval

theorem copyPost_cond {l : LandLoc} {u v : State} (h : Claims.Issues s w { reads := [a.val] })
    (hg : (s.wgOf w).cert = false) (hreq : s.request (s.wgOf w) (w.sget a) 128 = .ok r) (hland : reqGet r 56 8 = 0)
    (hbad : copyBad r = false) (hsrc : srcKind r = 0) (hdst : dstKind r = 0) (hsize : rowBytes r * rowCount r ≤ 4096)
    (hin : s.versionInside (s.wgOf w) r = false) (hver : reqGet r 72 8 ≠ 0)
    (hl : s.landing (s.wgOf w) (BitVec.ofNat 64 (reqGet r 72 8)) 8 .atomic .rw = .ok (l, u))
    (hroom : u.queueLen (s.wgOf w).core q.val < queueCap q.val) (hv : u.release s.cur (s.wgOf w).core 3 = .ok v) :
    copyPost true a q s = .next (v.queueOp (newOp w (s.wgOf w) q.val .cond r 0)).advance := by
  have hne := reqWord_ne_zero hver
  refine scalarOp_ok h ?_
  simp only [hreq, ok_bind, hland, hg, Bool.not_false, Bool.true_or, need_true, hbad, hin,
    decide_eq_false (Nat.not_lt.2 hsize), Bool.and_false, Bool.or_false, Bool.false_eq_true, if_false, hsrc, hdst, if_true,
    handleCell_of_landing hl, sideCheck_address hg, sideLooks_address hg, side_address,
    handleCell_none, landOpt_none]
  rw [bne_iff_ne.2 hne, need_true, ok_bind, hl, ok_bind]
  exact State.post_ok (o := newOp w (s.wgOf w) q.val .cond r 0) rfl hroom hv

theorem xferBulk_malformed (h : Claims.Issues s w { reads := [a.val] }) (hg : (s.wgOf w).cert = false)
    (hr : s.release s.cur (s.wgOf w).core 3 = .ok t) (hreq : s.request (s.wgOf w) (w.sget a) 128 = .ok r)
    (hland : reqGet r 56 8 = 0) (hbad : bulkBad r (capBase (w.cap (Fin.ofNat 8 (reqGet r 72 1))).bits) = true)
    (hroom : s.queueLen (s.wgOf w).core q.val < queueCap q.val) :
    execXferBulk a q s = .next (t.queueOp (newOp w (s.wgOf w) q.val .malformed r 0)).advance := by
  refine scalarOp_ok h ?_
  simp only [hreq, ok_bind, hland, Workgroup.egress_open hg, hbad, if_true]
  exact State.post_ok rfl hroom hr

theorem xferBulk_posts {c : Cap} (hc : c = w.cap (Fin.ofNat 8 (reqGet r 72 1)))
    (h : Claims.Issues s w { reads := [a.val] }) (hg : (s.wgOf w).cert = false)
    (hr : s.release s.cur (s.wgOf w).core 3 = .ok t) (hreq : s.request (s.wgOf w) (w.sget a) 128 = .ok r)
    (hland : reqGet r 56 8 = 0) (hbad : bulkBad r (capBase c.bits) = false) (htag : c.tag = true)
    (hwr : bit c.bits 12 = true) (hin : reqGet r 16 8 + reqGet r 104 8 ≤ capLength c.bits)
    (hpull : reqGet r 104 8 ≤ 8192 ∨ bit c.bits 10 = true) (hver : reqGet r 88 8 = 2 ^ 64 - 1)
    (hseq : reqGet r 80 8 = 2 ^ 64 - 1) (hroom : s.queueLen (s.wgOf w).core q.val < queueCap q.val) :
    execXferBulk a q s = .next (t.queueOp { newOp w (s.wgOf w) q.val .bulk r 0 with cap := c.bits }).advance := by
  subst hc
  have hcheck : (w.cap (Fin.ofNat 8 (reqGet r 72 1))).check (reqGet r 16 8 : Nat) (reqGet r 104 8) capWRITE = .ok () :=
    Cap.check_ok htag ⟨Int.natCast_nonneg _, by omega⟩ hwr
  have hlong : (decide (reqGet r 104 8 ≤ 8192) || bit (w.cap (Fin.ofNat 8 (reqGet r 72 1))).bits capPULL) = true := by
    rw [Bool.or_eq_true, decide_eq_true_eq]
    exact hpull
  refine scalarOp_ok h ?_
  simp only [hreq, ok_bind, hland, Workgroup.egress_open hg, hbad, Bool.false_eq_true, if_false, hcheck, hlong, need_true,
    hver, hseq, ne_eq, not_true_eq_false,
    handleCell_none]
  exact State.post_ok (o := { newOp w (s.wgOf w) q.val .bulk r 0 with cap := (w.cap (Fin.ofNat 8 (reqGet r 72 1))).bits }) rfl hroom hr

theorem gatherPost_malformed (h : Claims.Issues s w { reads := [a.val] }) (hg : (s.wgOf w).cert = false)
    (hr : s.release s.cur (s.wgOf w).core 3 = .ok t) (hreq : s.request (s.wgOf w) (w.sget a) 64 = .ok r)
    (hland : reqGet r 48 8 = 0) (hbad : gatherBad r = true) (hroom : s.queueLen (s.wgOf w).core 4 < queueCap 4) :
    execGatherPost a s = .next (t.queueOp (newOp w (s.wgOf w) 4 .malformed r 0)).advance := by
  refine scalarOp_ok h ?_
  simp only [hreq, ok_bind, hland, hg, Bool.not_false, Bool.true_or, need_true, hbad, if_true]
  exact State.post_ok rfl hroom hr

theorem gatherPost_posts {x y : Nat} (h : Claims.Issues s w { reads := [a.val] }) (hg : (s.wgOf w).cert = false)
    (hr : s.release s.cur (s.wgOf w).core 3 = .ok t) (hreq : s.request (s.wgOf w) (w.sget a) 64 = .ok r)
    (hland : reqGet r 48 8 = 0) (hbad : gatherBad r = false) (hva : reqGet r 56 1 % 2 = 0)
    (hx : s.spCell (s.wgOf w) (BitVec.ofNat 64 (reqGet r 16 4))
      (reqGet r 24 4 * if reqGet r 56 1 / 2 % 2 = 1 then 8 else 4) = .ok x)
    (hy : s.spCell (s.wgOf w) (BitVec.ofNat 64 (reqGet r 20 4)) (reqGet r 24 4 * reqGet r 28 4) = .ok y)
    (hroom : s.queueLen (s.wgOf w).core 4 < queueCap 4) :
    execGatherPost a s = .next (t.queueOp (newOp w (s.wgOf w) 4 .gather r 0)).advance := by
  have hva' : (reqGet r 56 1 % 2 == 1) = false := by
    rw [hva]
    rfl
  refine scalarOp_ok h ?_
  simp only [hreq, ok_bind, hland, hg, Bool.not_false, Bool.true_or, need_true, hbad, Bool.false_eq_true, if_false, hx, hy,
    hva', hostBarred_uncertified hg, if_true, or_false,
    handleCell_none]
  exact State.post_ok (o := newOp w (s.wgOf w) 4 .gather r 0) rfl hroom hr

end

end Sys2Proof.Machine

namespace Sys2Proof.Claims
open Sys2Proof.Machine

theorem enginePosts : EnginePosts := by
  intro s t w a q r
  dsimp only
  intro h hg hr
  refine ⟨fun hreq hland => ⟨fun hbad hsrc hdst => ⟨fun hroom => ?_, fun hroom => ?_⟩, fun hbad hroom => ⟨?_, ?_⟩,
    fun hbad hsrc hdst hsize hin l u v hver hl hroom hv => ?_,
    fun hbad htag hwr hin hpull hver hseq hroom => ?_, fun hbad hroom => ?_⟩,
    fun hreq hland => ⟨fun hbad hroom => ?_, fun hbad hva hroom ⟨x, hx⟩ ⟨y, hy⟩ => ?_⟩⟩
  · exact copyPost_plain h hg hreq hland hbad hsrc hdst fun n => State.post_ok rfl hroom hr
  · exact (copyPost_plain h hg hreq hland hbad hsrc hdst fun n => State.post_full rfl hroom).trans
      (congrArg _ (stopped_park h.1 w.pc .engine))
  · exact copyPost_malformed h hg hr hreq hland hbad hroom
  · exact copyPost_malformed h hg hr hreq hland hbad hroom
  · exact copyPost_cond h hg hreq hland hbad hsrc hdst hsize hin hver hl hroom hv
  · exact xferBulk_posts rfl h hg hr hreq hland hbad htag hwr hin hpull hver hseq hroom
  · exact xferBulk_malformed h hg hr hreq hland hbad hroom
  · exact gatherPost_malformed h hg hr hreq hland hbad hroom
  · exact gatherPost_posts h hg hr hreq hland hbad hva hx hy hroom

end Sys2Proof.Claims

namespace Sys2Proof.Machine

/-! ### QFENCE (R371) -/

section
variable {s : State} {w : Warp} {g : Workgroup} {id : Nat} {m : BitVec 6}

/-- The fence entry of an engine queue. -/
def fenceOp (w : Warp) (g : Workgroup) (id : Nat) (m : BitVec 6) (i : Nat) : EngOp :=
  { newOp w g i (.fence m) 0 0 with id := id }

/-- Fence entries of the named queues below `k`. -/
def State.fenced (s : State) (w : Warp) (g : Workgroup) (id : Nat) (m : BitVec 6) (k : Nat) : State :=
  { s with eng := { s.eng with ops := s.eng.ops ++ ((List.range k).filter fun i => bit m i).map (fenceOp w g id m) } }

/-- The fence entries of other queues leave a queue's length. -/
theorem fenced_queueLen {k j : Nat} (h : k ≤ j) : (s.fenced w g id m k).queueLen g.core j = s.queueLen g.core j := by
  have hnone : ((((List.range k).filter fun i => bit m i).map (fenceOp w g id m)).filter
      fun o => o.core == g.core && o.q == j) = [] := by
    rw [List.filter_eq_nil_iff]
    intro o ho
    obtain ⟨i, hi, rfl⟩ := List.mem_map.1 ho
    have hlt : i < k := List.mem_range.1 (List.mem_filter.1 hi).1
    have hq : (fenceOp w g id m i).q = i := rfl
    rw [hq, Bool.and_eq_true, beq_iff_eq, beq_iff_eq]
    omega
  rw [State.queueLen, State.fenced, List.filter_append, hnone, List.append_nil]
  rfl

theorem fenced_succ (k : Nat) : s.fenced w g id m (k + 1) =
    if bit m k then (s.fenced w g id m k).addOp (fenceOp w g id m k) else s.fenced w g id m k := by
  unfold State.fenced State.addOp
  rw [List.range_succ, List.filter_append]
  by_cases h : bit m k
  · rw [if_pos h, List.filter_cons_of_pos h, List.filter_nil, List.map_append, ← List.append_assoc]
    rfl
  · rw [if_neg h, List.filter_cons_of_neg h, List.filter_nil, List.append_nil]

/-- One step of the fence: the queue `i`. -/
def fenceStep (w : Warp) (g : Workgroup) (id : Nat) (m : BitVec 6) (a : State × BitVec 6) (i : Nat) : State × BitVec 6 :=
  let s := a.1
  if !bit a.2 i then a
  else if i = 5 then
    if s.mxLen g.core < mxCap then
      let o : MxOp := { MxOp.blank with id := id, core := g.core, kind := .fence m, wg := w.wg, ctx := g.ctx }
      ({ s with eng := { s.eng with mx := s.eng.mx ++ [o] } }, setBit a.2 i false)
    else a
  else if s.queueLen g.core i < queueCap i then
    (s.addOp { newOp w g i (.fence m) 0 0 with id := id }, setBit a.2 i false)
  else a

theorem addFence_eq (rest : BitVec 6) : s.addFence w g id m rest = (List.range 6).foldl (fenceStep w g id m) (s, rest) := rfl

/-- With room in every engine queue that the mask names, the first `k` have their fences and are done. -/
theorem fenceSteps_engines (hroom : ∀ i < 5, bit m i = true → s.queueLen g.core i < queueCap i) {k : Nat} (hk : k ≤ 5) :
    ∃ rest, (List.range k).foldl (fenceStep w g id m) (s, m) = (s.fenced w g id m k, rest) ∧
      ∀ i, bit rest i = (bit m i && decide (k ≤ i)) := by
  induction k with
  | zero =>
    refine ⟨m, ?_, fun i => ?_⟩
    · rw [List.range_zero, List.foldl_nil, State.fenced, List.range_zero, List.filter_nil, List.map_nil, List.append_nil]
    · rw [decide_eq_true (Nat.zero_le i), Bool.and_true]
  | succ k ih =>
    obtain ⟨rest, hfold, hrest⟩ := ih (by omega)
    have hbit : bit rest k = bit m k := by rw [hrest, decide_eq_true (Nat.le_refl k), Bool.and_true]
    rw [List.range_succ, List.foldl_append, hfold, List.foldl_cons, List.foldl_nil, fenced_succ]
    unfold fenceStep
    dsimp only
    rw [hbit]
    by_cases h : bit m k
    · rw [h, Bool.not_true, if_neg Bool.false_ne_true, if_neg (by omega), fenced_queueLen (Nat.le_refl k),
        if_pos (hroom k (by omega) h), if_pos rfl]
      refine ⟨_, rfl, fun i => ?_⟩
      rw [bit, setBit_getLsbD _ _ _ _ (by omega)]
      by_cases hi : i = k
      · rw [if_pos hi, decide_eq_false (by omega), Bool.and_false]
      · rw [if_neg hi]
        refine (hrest i).trans (congrArg _ (decide_eq_decide.2 ?_))
        omega
    · rw [Bool.not_eq_true] at h
      rw [h, Bool.not_false, if_pos rfl, if_neg Bool.false_ne_true]
      refine ⟨_, rfl, fun i => (hrest i).trans ?_⟩
      by_cases hi : i = k
      · rw [hi, h, Bool.false_and, Bool.false_and]
      · refine congrArg _ (decide_eq_decide.2 ?_)
        omega

/-- Fence entries of every named queue, the MX queue among them. -/
def State.fencedAll (s : State) (w : Warp) (g : Workgroup) (id : Nat) (m : BitVec 6) : State :=
  { s with eng := { s.eng with
      ops := s.eng.ops ++ ((List.range 5).filter fun i => bit m i).map (fenceOp w g id m)
      mx := s.eng.mx ++ if bit m 5 then
        [{ MxOp.blank with id := id, core := g.core, kind := .fence m, wg := w.wg, ctx := g.ctx }] else [] } }

theorem addFence_all (hroom : ∀ i < 5, bit m i = true → s.queueLen g.core i < queueCap i)
    (hmx : bit m 5 = true → s.mxLen g.core < mxCap) : s.addFence w g id m m = (s.fencedAll w g id m, 0) := by
  obtain ⟨rest, hfold, hrest⟩ := fenceSteps_engines (w := w) (id := id) hroom (Nat.le_refl 5)
  rw [addFence_eq, List.range_succ, List.foldl_append, hfold, List.foldl_cons, List.foldl_nil, fenceStep, State.fencedAll]
  dsimp only
  have h5 : bit rest 5 = bit m 5 := by rw [hrest, decide_eq_true (Nat.le_refl 5), Bool.and_true]
  rw [h5]
  by_cases h : bit m 5
  · have hlen : (s.fenced w g id m 5).mxLen g.core < mxCap := hmx h
    rw [h, Bool.not_true, if_neg Bool.false_ne_true, if_pos rfl, if_pos hlen, if_pos rfl]
    refine congrArg (Prod.mk _) (BitVec.eq_of_getLsbD_eq fun i hi => ?_)
    rw [setBit_getLsbD _ _ _ _ (by omega)]
    by_cases h5 : i = 5
    · rw [if_pos h5]
      exact BitVec.getLsbD_zero.symm
    · rw [if_neg h5]
      refine (hrest i).trans ?_
      rw [decide_eq_false (by omega), Bool.and_false]
      exact BitVec.getLsbD_zero.symm
  · rw [Bool.not_eq_true] at h
    rw [h, Bool.not_false, if_pos rfl, if_neg Bool.false_ne_true, List.append_nil]
    refine congrArg (Prod.mk _) (BitVec.eq_of_getLsbD_eq fun i hi => (hrest i).trans ?_)
    rw [show (0 : BitVec 6).getLsbD i = false from BitVec.getLsbD_zero]
    by_cases h5 : i = 5
    · rw [h5, h, Bool.false_and]
    · rw [decide_eq_false (by omega), Bool.and_false]

theorem execQfence_all (h : Claims.Issues s w {}) (hq : w.qfence = none) (hm : m ≠ 0)
    (hroom : ∀ i < 5, bit m i = true → s.queueLen (s.wgOf w).core i < queueCap i)
    (hmx : bit m 5 = true → s.mxLen (s.wgOf w).core < mxCap) :
    execQfence m s = .next (Claims.past
      (State.fencedAll { s with eng := { s.eng with nextId := s.eng.nextId + 1 } } w (s.wgOf w) s.eng.nextId m) w) := by
  have hself : { w with qfence := none } = w := by rw [← hq]
  have hw : (State.fencedAll { s with eng := { s.eng with nextId := s.eng.nextId + 1 } } w (s.wgOf w) s.eng.nextId m).warp?
      s.cur = some w := h.1
  have hfence : State.addFence { s with eng := { s.eng with nextId := s.eng.nextId + 1 } } w (s.wgOf w) s.eng.nextId m m =
      (_, 0) := addFence_all hroom hmx
  refine (scalarOp_ok h ?_).trans (congrArg _ ((modWarp_advance hw fun w => { w with qfence := none }).trans
    (congrArg (Claims.past _) hself)))
  rw [bne_iff_ne.2 hm, need_true, ok_bind, hq]
  dsimp only [Option.getD_none, Option.isSome_none]
  rw [if_neg Bool.false_ne_true, hfence]
  rfl

end

/-! ### Walks and landing words beside the warps (R26, R37, R359, R363) -/

namespace State

theorem orEntry_background (s : State) (a i : Nat) : Background s (s.orEntry a i) := by
  unfold State.orEntry State.wakeLine
  dsimp only
  split
  · exact .refl s
  · exact (Background.of_mem (Memory.wf_writeHome s.mem _ _ _)).trans (wakeIf_background _ _)

theorem markUsed_background (s : State) (t : Trans) (p : Perm) : Background s (s.markUsed t p) := by
  have hused := Background.foldl (fun (s : State) a => s.orEntry a 5) (fun s a => s.orEntry_background a 5) t.used s
  unfold State.markUsed
  cases p with
  | w | rw => exact hused.trans (orEntry_background _ _ _)
  | r | x => exact hused

theorem cacheWalk_background (s : State) (die : Nat) (w : Who) (va : Word) (t : Trans) :
    Background s (s.cacheWalk die w va t) := by
  unfold State.cacheWalk
  dsimp only
  split
  · exact .of_eq rfl rfl rfl rfl rfl
  · exact .of_eq rfl rfl rfl rfl rfl

theorem translate_background {s u : State} {w : Who} {kind : AccKind} {p : Perm} {tid : Bool} {va : Word} {t : Trans}
    (h : s.translate w kind p tid va = .ok (t, u)) : Background s u := by
  unfold State.translate at h
  split at h
  · split at h
    · cases h
    · split at h
      · cases h
      · split at h
        · cases h
        · cases h
          exact (s.markUsed_background t p).trans (cacheWalk_background _ _ _ _ _)
  · split at h <;> cases h

/-- What follows a walk goes on only where it passed. -/
theorem keep_eq_ok {α : Type} {s : State} {x : Except Stop α} {y : α} (h : s.keep x = .ok y) : x = .ok y := by
  cases x with
  | ok z => exact h
  | error e => cases e <;> cases h

theorem landing_background {s u : State} {g : Workgroup} {h : Word} {n : Nat} {kind : AccKind} {p : Perm} {l : LandLoc}
    (hl : s.landing g h n kind p = .ok (l, u)) : Background s u := by
  unfold State.landing at hl
  replace hl := (need_bind_ok hl).2
  split at hl
  · obtain ⟨c, -, hl⟩ := bind_ok hl
    cases hl
    exact .refl s
  · obtain ⟨⟨t, v⟩, ht, hl⟩ := bind_ok hl
    replace hl := (need_bind_ok (keep_eq_ok hl)).2
    cases hl
    exact translate_background ht

theorem landRead_background (s : State) (core : Nat) (l : LandLoc) (n : Nat) : Background s (s.landRead core l n).2 := by
  cases l with
  | nowhere => exact .refl s
  | cell c => exact .refl s
  | mem t => exact s.l1DropAll_background _ _

theorem landLook_background {s u : State} {g : Workgroup} {h : Word} {x : LandWord} (hx : s.landLook g h = .ok (x, u)) :
    Background s u := by
  replace hx := (need_bind_ok (k := fun _ => _) hx).2
  obtain ⟨⟨l, t⟩, ht, hx⟩ := bind_ok hx
  replace hx := (need_bind_ok (keep_eq_ok hx)).2
  cases hx
  exact (landing_background ht).trans (landRead_background _ _ _ _)

end State

/-! ### Landing words (R359, R363) -/

section
variable {s t : State} {w : Warp} {d a b : SReg} {l : LandLoc} {x : LandWord}

theorem landing_aligned {g : Workgroup} {h : Word} {k : Nat} {c : AccKind} {p : Perm}
    (hl : s.landing g h k c p = .ok (l, t)) : (field h 31 0 % k == 0) = true :=
  (need_bind_ok hl).1

theorem execLwInit_eq (h : Claims.Issues s w { reads := [a.val, b.val] }) (hne : w.sget a ≠ 0)
    (hg : (s.wgOf w).cert = false) (hl : s.landing (s.wgOf w) (w.sget a) 16 .atomic .rw = .ok (l, t)) :
    execLwInit a b s = .next (t.landUpdate (s.wgOf w).core l fun x =>
      { x with expected := (w.sget b).toNat % 2 ^ 16, pending := (w.sget b).toNat % 2 ^ 16, sectors := 0
               status := 0 }).advance := by
  refine scalarOp_ok h ?_
  simp only [bne_iff_ne.2 hne, landing_aligned hl, Bool.and_self, need_true, ok_bind, hg, Bool.not_false, Bool.true_or, hl,
    pure_eq_ok]

theorem landLook_none {g : Workgroup} : s.landLook g 0#64 = .error (alignment 0) := rfl

theorem execLwWait_eq (h : Claims.Issues s w { reads := [a.val, b.val] })
    (hl : s.landLook (s.wgOf w) (w.sget a) = .ok (x, t)) :
    execLwWait a b s = .next (if x.phase = (w.sget b).toNat % 16 then
      t.modWarp s.cur fun v => { v with park := .landing (w.sget a) ((v.sget b).toNat % 16) } else t.advance) := by
  by_cases hp : x.phase = (w.sget b).toNat % 16
  · obtain ⟨m, hv⟩ := (State.landLook_background hl).warps _ w h.1
    rw [if_pos hp, State.modWarp_eq_setWarp t s.cur _ _ hv]
    refine Eq.trans ?_ (congrArg _ (State.modWarp_eq_setWarp t s.cur
      (fun v => { v with park := .landing (w.sget a) ((w.sget b).toNat % 16) }) _ hv))
    refine scalarOp_error h (e := .park (.landing (w.sget a) ((w.sget b).toNat % 16)) t) ?_
    simp only [hl, ok_bind, bne_eq_false_iff_eq.2 hp, need_false, error_bind]
  · rw [if_neg hp]
    refine scalarOp_ok h ?_
    simp only [hl, ok_bind, bne_iff_ne.2 hp, need_true, t.acquire_near _ (Nat.le_refl 3), pure_eq_ok]

theorem execLwRead_eq (h : Claims.Issues s w { reads := [a.val], writes := [d.val] })
    (hl : s.landLook (s.wgOf w) (w.sget a) = .ok (x, t)) (hw : t.warp? t.cur = some w)
    (h62 : ¬(d = 62 ∧ x.read.toNat < w.limit)) :
    execLwRead d a s = .next (Claims.past t { w with s := Tab.set 0 w.s d.val x.read }) := by
  refine (scalarOp_ok h (t := t.setWarp t.cur (w.sset d x.read)) ?_).trans (congrArg _ (advance_setWarp _ _ w hw))
  rw [hl, ok_bind]
  dsimp only
  rw [t.acquire_near _ (Nat.le_refl 3)]
  exact putS_ok hw h62

end

/-! ### SP.MAP and SP.UNMAP (R372, R373) -/

section
variable {s t : State} {w v : Warp} {d a b : SReg} {n : Nat}

/-- What SP.MAP asks of its operands (R372). -/
structure MapLegal (w : Warp) (g : Workgroup) (a b : SReg) : Prop where
  va : (w.sget a).toNat % 128 = 0
  row : field (w.sget b) 31 0 % 128 = 0
  reserved : field (w.sget b) 63 45 = 0
  some : 1 ≤ field (w.sget b) 44 32
  most : field (w.sget b) 44 32 ≤ 4096
  inside : field (w.sget b) 31 0 + 128 * field (w.sget b) 44 32 ≤ g.spBytes

/-- What SP.MAP does once its operands are legal. -/
def State.mapRows (s : State) (w : Warp) (g : Workgroup) (d : SReg) (va row count : Nat) : Except Stop State :=
  let taken := s.mem.maps.any fun m => m.core == g.core && overlaps m.row (128 * m.lines.length) (g.cell row) (128 * count)
  let full := decide (16 ≤ (s.mem.maps.filter fun m => m.core == g.core).length)
  let i := w.mapped.getD 0
  if i = 0 ∧ (taken || full) then (s.modWarp s.cur fun w => { w with mapped := none }).putS d 0
  else do
    let (n, t) ← s.mapLines w.wg g va (g.cell row) (count - i) i
    (t.modWarp s.cur fun w => { w with mapped := none }).putS d (BitVec.ofNat 64 n)

section
variable (hl : MapLegal w (s.wgOf w) a b)
include hl

theorem MapLegal.rowAligned : aligned (BitVec.ofNat 64 (field (w.sget b) 31 0)) 128 = .ok () := by
  have hlt : field (w.sget b) 31 0 < 2 ^ 32 := Nat.mod_lt _ (by decide)
  refine aligned_ok ?_
  rw [BitVec.toNat_ofNat, Nat.mod_eq_of_lt (hlt.trans (by decide)), hl.row]

theorem MapLegal.count : (field (w.sget b) 63 45 == 0 && decide (1 ≤ field (w.sget b) 44 32) &&
    decide (field (w.sget b) 44 32 ≤ 4096) &&
    decide (field (w.sget b) 31 0 + 128 * field (w.sget b) 44 32 ≤ (s.wgOf w).spBytes)) = true := by
  rw [beq_iff_eq.2 hl.reserved, decide_eq_true hl.some, decide_eq_true hl.most, decide_eq_true hl.inside]
  rfl

theorem execSpMap_legal (h : Claims.Issues s w { reads := [a.val, b.val], writes := [d.val] })
    (hg : (s.wgOf w).cert = false) :
    execSpMap d a b s = .next (s.outcome w (s.mapRows w (s.wgOf w) d (w.sget a).toNat (field (w.sget b) 31 0)
      (field (w.sget b) 44 32))) := by
  refine scalarOp_outcome h ?_
  simp only [aligned_ok hl.va, hl.rowAligned, hl.count, hg, Bool.not_false, need_true, ok_bind]
  rfl

theorem execSpMap_certified (h : Claims.Issues s w { reads := [a.val, b.val], writes := [d.val] })
    (hg : (s.wgOf w).cert = true) :
    execSpMap d a b s = .next (s.stopped s.cur w.pc (.trap { cause := 0x0C, reason := 3, addr := w.sget a })) := by
  refine scalarOp_error h ?_
  simp only [aligned_ok hl.va, hl.rowAligned, hl.count, hg, Bool.not_true, need_true, need_false, ok_bind, error_bind]
  rfl

end

/-- A home that does not hold a request back is left as it is. -/
theorem homeReady_ok {line c : Nat} {write : Bool} (h : s.homeReady line c write = .ok t) : t = s := by
  unfold State.homeReady at h
  split at h
  · cases h
  · split at h
    · cases h
    · split at h
      · cases h
      · split at h
        · cases h
        · split at h
          · cases h
          · split at h
            · cases h
            · cases h
              rfl

theorem State.mapLine_background (s : State) (core line cell : Nat) : Background s (s.mapLine core line cell) := by
  have htaken := ((s.l1DropAll_background (clusterCores core) line).trans (State.homeTake_background _ line)).trans
    (State.dirRoom_background _ line none)
  unfold State.mapLine State.wakeLine State.wakeCells
  generalize ((s.l1DropAll (clusterCores core) line).homeTake line).dirRoom line = u at htaken
  refine Background.trans (Background.trans (htaken.trans ?_) (State.wakeIf_background _ _)) (State.wakeIf_background _ _)
  exact .of_eq rfl rfl rfl rfl rfl

theorem State.addMapping_background (s : State) (wi : Nat) (g : Workgroup) (va row line : Nat) :
    Background s (s.addMapping wi g va row line) := .of_mem id

/-- Mapping stops with a count only after walks and lines mapped. The recursion is opened by hand, since its equations hold
a line of memory. -/
theorem State.mapLines_background {wgi : Nat} {g : Workgroup} {va row k i : Nat} {s t : State} {n : Nat}
    (h : s.mapLines wgi g va row k i = .ok (n, t)) : Background s t := by
  induction k generalizing s i with
  | zero =>
    delta State.mapLines at h
    cases h
    exact .refl _
  | succ k ih =>
    delta State.mapLines at h
    dsimp only at h
    generalize hrest : (Nat.rec ⟨State.mapLines._f wgi g va row Nat.zero PUnit.unit, PUnit.unit⟩
      (fun n n_ih => ⟨State.mapLines._f wgi g va row n.succ n_ih, n_ih⟩) k :
        Nat.below (motive := fun _ => State → Nat → Except Stop (Nat × State)) k.succ) = rest at h
    have hnext (u : State) (j : Nat) : rest.1 u j = u.mapLines wgi g va row k j := by
      rw [← hrest]
      delta State.mapLines
      rfl
    clear hrest
    delta State.mapLines._f at h
    dsimp only at h
    split at h
    · split at h
      · cases h
        exact .refl _
      · cases h
    · cases h
    · next tr u htr =>
      have hwalk := State.translate_background htr
      split at h
      · cases h
        exact hwalk
      · split at h
        · cases h
        · next v hready =>
          split at h
          · cases h
          · obtain rfl := homeReady_ok hready
            exact (((hwalk.trans (u.l1DropAll_background _ _)).trans (State.mapLine_background _ _ _ _)).trans
              (State.addMapping_background _ _ _ _ _ _)).trans (ih ((hnext _ _).symm.trans h))

/-- The rows overlap a mapping of the core. -/
def MapBusy (s : State) (g : Workgroup) (row count : Nat) : Prop :=
  ∃ m ∈ s.mem.maps, m.core = g.core ∧ m.row < g.cell row + 128 * count ∧ g.cell row < m.row + 128 * m.lines.length

theorem mapTaken_iff (g : Workgroup) (row count : Nat) : ((s.mem.maps.any fun m =>
      m.core == g.core && overlaps m.row (128 * m.lines.length) (g.cell row) (128 * count)) ||
      decide (16 ≤ (s.mem.maps.filter fun m => m.core == g.core).length)) = true ↔
    MapBusy s g row count ∨ 16 ≤ (s.mem.maps.filter fun m => m.core == g.core).length := by
  simp only [Bool.or_eq_true, List.any_eq_true, Bool.and_eq_true, beq_iff_eq, overlaps, decide_eq_true_eq, MapBusy]

theorem mapRows_refused {g : Workgroup} {va row count : Nat} (hi : w.mapped.getD 0 = 0)
    (hb : MapBusy s g row count ∨ 16 ≤ (s.mem.maps.filter fun m => m.core == g.core).length) :
    s.mapRows w g d va row count = (s.modWarp s.cur fun w => { w with mapped := none }).putS d 0 :=
  if_pos ⟨hi, (mapTaken_iff g row count).2 hb⟩

theorem mapRows_maps {g : Workgroup} {va row count : Nat}
    (hb : ¬(w.mapped.getD 0 = 0 ∧ (MapBusy s g row count ∨ 16 ≤ (s.mem.maps.filter fun m => m.core == g.core).length)))
    (hm : s.mapLines w.wg g va (g.cell row) (count - w.mapped.getD 0) (w.mapped.getD 0) = .ok (n, t)) :
    s.mapRows w g d va row count = (t.modWarp t.cur fun w => { w with mapped := none }).putS d (BitVec.ofNat 64 n) := by
  refine (if_neg fun h => hb ⟨h.1, (mapTaken_iff g row count).1 h.2⟩).trans ?_
  rw [hm, (State.mapLines_background hm).cur]
  rfl

/-- A result of SP.MAP put in its register, with the count of lines done taken back. -/
theorem putMapped {x : Word} (hv : t.warp? t.cur = some v) (h62 : ¬(d = 62 ∧ x.toNat < v.limit)) :
    s.outcome w ((t.modWarp t.cur fun w => { w with mapped := none }).putS d x) =
      Claims.past t { v with s := Tab.set 0 v.s d.val x, mapped := none } := by
  have hput := putS_ok (s := t.setWarp t.cur { v with mapped := none }) (State.setWarp_warp?_same t t.cur v _ hv) h62
  rw [State.modWarp_eq_setWarp t t.cur _ v hv, hput, State.outcome, State.setWarp_cur, State.setWarp_setWarp,
    advance_setWarp t _ v hv]
  rfl

theorem putMapped_refused {x : Word} (hw : s.warp? s.cur = some w) (hd : d = 62) (hx : x.toNat < w.limit) :
    s.outcome w ((s.modWarp s.cur fun w => { w with mapped := none }).putS d x) =
      s.stopped s.cur w.pc (.trap { cause := 0x04 }) := by
  have hput := (putS_eq (s.setWarp s.cur { w with mapped := none }) d x { w with mapped := none }
    (State.setWarp_warp?_same s s.cur w _ hw)).trans (if_pos ⟨hd, hx⟩)
  rw [State.modWarp_eq_setWarp s s.cur _ w hw, hput]
  rfl

end

end Sys2Proof.Machine

namespace Sys2Proof.Claims
open Sys2Proof.Machine

theorem fenceAndLandingResults : FenceAndLandingResults := by
  intro s t w d a b m l x
  dsimp only
  refine ⟨fun h hq => ⟨fun hm => ?_, fun hm hroom hmx => execQfence_all h hq hm hroom hmx⟩,
    fun h hne => ⟨fun hg hl => execLwInit_eq h hne hg hl, fun hl => execLwWait_eq h hl⟩,
    fun h0 => ⟨fun h => ⟨?_, ?_⟩, fun h => ?_⟩, fun h hl hw hcur h62 => execLwRead_eq h hl hw h62⟩
  · subst hm
    exact scalarOp_error h rfl
  · refine scalarOp_error h ?_
    rw [h0]
    rfl
  · refine scalarOp_error h ?_
    rw [h0]
    rfl
  · refine scalarOp_error h ?_
    rw [h0]
    rfl

end Sys2Proof.Claims

/-- Settles O35: a post is its checks in order and `post_ok`; QFENCE by the queues its mask names, one after another. -/
theorem enginePostsAndLandings : Obligations.EnginePostsAndLandings :=
  ⟨Sys2Proof.Claims.enginePosts, Sys2Proof.Claims.fenceAndLandingResults⟩

open Sys2Proof.Machine in
/-- Settles O36: SP.MAP is its checks and then `mapRows`; SP.UNMAP finds the mapping that begins at its address. -/
theorem scratchpadMappings : Obligations.ScratchpadMappings := by
  intro s t w v d a b n
  dsimp only
  refine ⟨fun h hl hg => ?_, fun h hal => ?_, fun h hl hg => ?_, fun h => ⟨fun hnone => ?_, fun m r hm hwg hva => ?_⟩⟩
  · obtain ⟨hva, hrow, hres, hsome, hmost, hin⟩ := hl
    have hexec := (exec_spMap d a b s).trans (execSpMap_legal ⟨hva, hrow, hres, hsome, hmost, hin⟩ h hg)
    refine ⟨fun hi hb h62 => hexec.trans (congrArg _ ?_), fun hi hb hd hlim => hexec.trans (congrArg _ ?_),
      fun hb hmap hv h62 => hexec.trans (congrArg _ ?_)⟩
    · rw [mapRows_refused hi hb]
      exact putMapped h.1 h62
    · rw [mapRows_refused hi hb]
      exact putMapped_refused h.1 hd hlim
    · rw [mapRows_maps hb hmap]
      exact putMapped hv h62
  · refine scalarOp_error h ?_
    dsimp only
    rw [aligned_error hal]
    rfl
  · obtain ⟨hva, hrow, hres, hsome, hmost, hin⟩ := hl
    exact execSpMap_certified ⟨hva, hrow, hres, hsome, hmost, hin⟩ h hg
  · refine (exec_spUnmap a s).trans ((scalarOp_ok h (t := s) ?_).trans (congrArg _ (advance_eq h.1)))
    have hfind : (s.mem.maps.find? fun m => m.wg == w.wg && m.va == (w.sget a).toNat) = none := by
      rw [List.find?_eq_none]
      intro m hm
      rw [Bool.and_eq_true, beq_iff_eq, beq_iff_eq]
      exact hnone m hm
    rw [hfind]
    rfl
  · refine (exec_spUnmap a s).trans (scalarOp_ok h ?_)
    have hfind : (s.mem.maps.find? fun m => m.wg == w.wg && m.va == (w.sget a).toNat) = some m := by
      rw [hm, List.find?_cons_of_pos]
      rw [Bool.and_eq_true, beq_iff_eq, beq_iff_eq]
      exact ⟨hwg, hva⟩
    rw [hfind]
    rfl

end

section
/-! PROOFS. Affine and control registers (R200, R279-R285, R382-R389). -/

namespace Sys2Proof.Machine

/-! ### Affine registers -/

theorem affineOp_eq {s : State} {w : Warp} {d : AReg} {srcs : List SReg} (h : Claims.Issues s w
    { reads := srcs.map Fin.val, aff := [d.val] }) (f : Warp → Warp) :
    affineOp s d srcs f = .next (Claims.past s (f w)) :=
  scalarOp_changes h f rfl

/-! ### The numbers of the control registers (R282, R382) -/

theorem crOf_tshape {n : Nat} (h : n < 16) : crOf (BitVec.ofNat 12 (0x040 + n)).toNat = some (.tshape n) := by
  have hall : ∀ n : Fin 16, crOf (BitVec.ofNat 12 (0x040 + n.val)).toNat = some (.tshape n.val) := by decide
  exact hall ⟨n, h⟩

theorem crOf_cmode {n : Nat} (h : n < 4) : crOf (BitVec.ofNat 12 (0x060 + n)).toNat = some (.cmode n) := by
  have hall : ∀ n : Fin 4, crOf (BitVec.ofNat 12 (0x060 + n.val)).toNat = some (.cmode n.val) := by decide
  exact hall ⟨n, h⟩

theorem crOf_dres {n : Nat} (h : n < 4) : crOf (BitVec.ofNat 12 (0x068 + n)).toNat = some (.dres n) := by
  have hall : ∀ n : Fin 4, crOf (BitVec.ofNat 12 (0x068 + n.val)).toNat = some (.dres n.val) := by decide
  exact hall ⟨n, h⟩

theorem crOf_dland {n : Nat} (h : n < 4) : crOf (BitVec.ofNat 12 (0x06C + n)).toNat = some (.dland n) := by
  have hall : ∀ n : Fin 4, crOf (BitVec.ofNat 12 (0x06C + n.val)).toNat = some (.dland n.val) := by decide
  exact hall ⟨n, h⟩

theorem crOf_perfSel {n : Nat} (h : n < 8) : crOf (BitVec.ofNat 12 (0x810 + n)).toNat = some (.perfSel n) := by
  have hall : ∀ n : Fin 8, crOf (BitVec.ofNat 12 (0x810 + n.val)).toNat = some (.perfSel n.val) := by decide
  exact hall ⟨n, h⟩

/-! ### The checks of a control-register move -/

section
variable {s t : State} {w : Warp} {g : Workgroup} {c : BitVec 12} {r : Cr} {d : SReg} {b : Bool}

theorem crCheck_none (h : crOf c.toNat = none) : s.crCheck g c b = .error illegal := by
  rw [State.crCheck, h]

theorem crCheck_ok (h : crOf c.toNat = some r) (hw : b = true → r.writable = true)
    (hs : r.system = true → s.ctxSys g.ctx = true) (ha : r.allocated g = true) : s.crCheck g c b = .ok r := by
  have hw' : (!b || r.writable) = true := by cases b <;> simp_all
  have hs' : (!r.system || s.ctxSys g.ctx) = true := by cases hr : r.system <;> simp_all
  rw [State.crCheck, h]
  simp only [hw', hs', ha, need_true, ok_bind, pure_eq_ok]

theorem crCheck_readOnly (h : crOf c.toNat = some r) (hw : r.writable = false) : s.crCheck g c true = .error illegal := by
  rw [State.crCheck, h]
  simp only [hw, Bool.not_true, Bool.false_or, need_false, error_bind]

theorem crCheck_system (h : crOf c.toNat = some r) (hr : r.system = true) (hs : s.ctxSys g.ctx = false) :
    s.crCheck g c false = .error privileged := by
  rw [State.crCheck, h]
  simp only [Bool.not_false, Bool.true_or, need_true, ok_bind, hr, hs, Bool.not_true, Bool.false_or, need_false, error_bind]

theorem crCheck_unallocated (h : crOf c.toNat = some r) (hr : r.system = false) (ha : r.allocated g = false) :
    s.crCheck g c false = .error (regRange 3) := by
  rw [State.crCheck, h]
  simp only [Bool.not_false, Bool.true_or, need_true, ok_bind, hr, ha, need_false, error_bind]

/-- A read of a control register that is as it stands. -/
theorem execMfcr_reads (hi : Claims.Issues s w { writes := [d.val] }) (h : crOf c.toNat = some r)
    (hs : r.system = true → s.ctxSys (s.wgOf w).ctx = true) (ha : r.allocated (s.wgOf w) = true)
    (harith : r = .arithCtl → w.blocks = []) (hstat : r ≠ .mxStat) {x : Word} (hx : s.readCr w (s.wgOf w) r = (x, s)) :
    Claims.Writes (.mfcr d c) s w d x := by
  have hq : (r != .arithCtl || w.blocks.isEmpty) = true := by
    by_cases hr : r = .arithCtl
    · rw [harith hr]
      exact Bool.or_true _
    · rw [bne_iff_ne.2 hr, Bool.true_or]
  refine scalarOp_writes hi ?_
  simp only [crCheck_ok h (fun e => absurd e Bool.false_ne_true) hs ha, hq, bne_iff_ne.2 hstat, Bool.true_or, need_true,
    ok_bind, hx]

theorem execMfcr_stops (hi : Claims.Issues s w { writes := [d.val] }) {e : Stop}
    (h : s.crCheck (s.wgOf w) c false = .error e) : Claims.Stops (.mfcr d c) s w e :=
  scalarOp_error hi (congrArg (· >>= _) h)

theorem execMtcr_stops (hi : Claims.Issues s w { reads := [d.val] }) {e : Stop}
    (h : s.crCheck (s.wgOf w) c true = .error e) : Claims.Stops (.mtcr d c) s w e :=
  scalarOp_error hi (congrArg (· >>= _) h)

/-- A write of a control register whose checks pass is `writeCr`. -/
theorem execMtcr_eq (hi : Claims.Issues s w { reads := [d.val] }) (h : crOf c.toNat = some r) (hw : r.writable = true)
    (hs : r.system = true → s.ctxSys (s.wgOf w).ctx = true) (ha : r.allocated (s.wgOf w) = true) :
    exec (.mtcr d c) s = .next (s.outcome w (s.writeCr w (s.wgOf w) (w.sget d) r)) :=
  scalarOp_outcome hi (by rw [crCheck_ok h (fun _ => hw) hs ha, ok_bind])

/-- A write of a register of the warp. -/
theorem execMtcr_warp (hi : Claims.Issues s w { reads := [d.val] }) (h : crOf c.toNat = some r) (hw : r.writable = true)
    (hs : r.system = true → s.ctxSys (s.wgOf w).ctx = true) (ha : r.allocated (s.wgOf w) = true) (k : Warp → Warp)
    (hk : s.writeCr w (s.wgOf w) (w.sget d) r = .ok (s.modWarp s.cur k)) :
    exec (.mtcr d c) s = .next (Claims.past s (k w)) := by
  rw [execMtcr_eq hi h hw hs ha, hk]
  exact congrArg _ (modWarp_advance hi.1 k)

/-- A write of a register of the workgroup. -/
theorem execMtcr_goes (hi : Claims.Issues s w { reads := [d.val] }) (h : crOf c.toNat = some r) (hw : r.writable = true)
    (hs : r.system = true → s.ctxSys (s.wgOf w).ctx = true) (ha : r.allocated (s.wgOf w) = true)
    (hk : s.writeCr w (s.wgOf w) (w.sget d) r = .ok t) : exec (.mtcr d c) s = .next t.advance := by
  rw [execMtcr_eq hi h hw hs ha, hk]
  rfl

theorem execMtcr_refuses (hi : Claims.Issues s w { reads := [d.val] }) (h : crOf c.toNat = some r) (hw : r.writable = true)
    (hs : r.system = true → s.ctxSys (s.wgOf w).ctx = true) (ha : r.allocated (s.wgOf w) = true) {e : Stop}
    (hk : s.writeCr w (s.wgOf w) (w.sget d) r = .error e) : Claims.Stops (.mtcr d c) s w e := by
  rw [Claims.Stops, execMtcr_eq hi h hw hs ha, hk]
  rfl

end

/-- A word with its low bits cleared. -/
theorem setField_low (x m : Word) {hi : Nat} (h : hi < 64) (hm : m = BitVec.ofNat 64 (2 ^ (hi + 1) - 1)) :
    x &&& ~~~m = setField x hi 0 0 := by
  subst hm
  refine (BitVec.eq_of_getLsbD_eq fun i hlt => ?_).symm
  rw [setField_getLsbD x 0 i h (Nat.zero_le _), BitVec.getLsbD_and, BitVec.getLsbD_not, BitVec.getLsbD_ofNat,
    Nat.testBit_two_pow_sub_one, decide_eq_true hlt, Bool.true_and, Bool.true_and]
  by_cases hi : i ≤ hi
  · rw [if_pos ⟨Nat.zero_le _, hi⟩, decide_eq_true (by omega), Nat.zero_testBit, Bool.not_true, Bool.and_false]
  · rw [if_neg (by omega), decide_eq_false (by omega), Bool.not_false, Bool.and_true]

theorem arithWrite_fields (old : BitVec 32) (x : Word) : field (arithWrite old x) 4 0 = field x 4 0 ∧
    field (arithWrite old x) 12 8 = field x 12 8 ∧
    field (arithWrite old x) 18 16 = if field x 18 16 ≤ 3 then field x 18 16 else field old 18 16 := by
  have hdrm : (if field x 18 16 ≤ 3 then field x 18 16 else field old 18 16) < 8 := by
    split
    · omega
    · exact Nat.mod_lt _ (by decide)
  have hlow : field x 4 0 < 32 := Nat.mod_lt _ (by decide)
  have hen : field x 12 8 < 32 := Nat.mod_lt _ (by decide)
  unfold arithWrite
  dsimp only
  generalize (if field x 18 16 ≤ 3 then field x 18 16 else field old 18 16) = drm at hdrm ⊢
  generalize field x 4 0 = low, field x 12 8 = en at hlow hen ⊢
  simp only [field, BitVec.toNat_ofNat]
  omega

end Sys2Proof.Machine

namespace Sys2Proof.Claims
open Sys2Proof.Machine

theorem affineResults : AffineResults := by
  intro s w d a b r
  dsimp only
  exact ⟨fun h => affineOp_eq (srcs := [a, b]) h _,
    fun h => ⟨affineOp_eq (srcs := [a]) h _, affineOp_eq (srcs := [a]) h _, affineOp_eq (srcs := [a]) h _⟩,
    fun h => ⟨scalarOp_writes h rfl, scalarOp_writes h rfl⟩⟩

theorem controlRegisterReads (s : State) (w : Warp) (d : SReg) (n : Nat) (c : BitVec 12)
    (h : Issues s w { writes := [d.val] }) :
    let g := s.wgOf w
    let reads (k : BitVec 12) (v : Word) := Writes (.mfcr d k) s w d v
    let stops i cause reason := Stops i s w (.trap { cause := cause, reason := reason })
    reads 0x000 w.wid ∧ reads 0x003 w.laneBase ∧ reads 0x009 w.modQ ∧ reads 0x010 w.stackLim ∧ reads 0x018 w.trapCause ∧
      reads 0x019 w.trapPc ∧ reads 0x01A w.trapLpc ∧ reads 0x01B w.trapAddr ∧ reads 0x01C w.trapVec ∧
      reads 0x001 (BitVec.ofNat 64 (g.core + w.slot * 2 ^ 10 + g.slot * 2 ^ 16)) ∧
      reads 0x030 g.splitFirst ∧ reads 0x031 g.splitEnd ∧ reads 0x032 g.splitFix ∧
      reads 0x101 (BitVec.ofNat 64 (s.tick % 2 ^ 43)) ∧
      (w.blocks = [] → reads 0x008 (w.arithCtl.setWidth 64)) ∧
      (n < 16 → n < g.tiles → reads (BitVec.ofNat 12 (0x040 + n)) (Tab.get 0 g.mxcr (0x040 + n))) ∧
      (n < 4 → n < g.accs → reads (BitVec.ofNat 12 (0x060 + n)) (Tab.get 0 g.mxcr (0x060 + n))) ∧
      (n < 16 → ¬n < g.tiles → stops (.mfcr d (BitVec.ofNat 12 (0x040 + n))) 0x13 3) ∧
      (n < 8 → s.ctxSys g.ctx = false → stops (.mfcr d (BitVec.ofNat 12 (0x810 + n))) 0x12 0) ∧
      (crOf c.toNat = none → stops (.mfcr d c) 0x01 0) := by
  dsimp only
  have plain {k : BitVec 12} {r : Cr} {x : Word} (hk : crOf k.toNat = some r) (hs : r.system = false)
      (ha : r.allocated (s.wgOf w) = true) (hn : r ≠ .arithCtl ∧ r ≠ .mxStat) (hx : s.readCr w (s.wgOf w) r = (x, s)) :
      Writes (.mfcr d k) s w d x :=
    execMfcr_reads h hk (fun e => absurd (hs.symm.trans e) Bool.false_ne_true) ha (fun e => absurd e hn.1) hn.2 hx
  refine ⟨plain (r := .wid) rfl rfl rfl (by decide) rfl, plain (r := .laneBase) rfl rfl rfl (by decide) rfl,
    plain (r := .modQ) rfl rfl rfl (by decide) rfl, plain (r := .stackLim) rfl rfl rfl (by decide) rfl,
    plain (r := .trapCause) rfl rfl rfl (by decide) rfl, plain (r := .trapPc) rfl rfl rfl (by decide) rfl,
    plain (r := .trapLpc) rfl rfl rfl (by decide) rfl, plain (r := .trapAddr) rfl rfl rfl (by decide) rfl,
    plain (r := .trapVec) rfl rfl rfl (by decide) rfl, plain (r := .coreId) rfl rfl rfl (by decide) rfl,
    plain (r := .splitFirst) rfl rfl rfl (by decide) rfl, plain (r := .splitEnd) rfl rfl rfl (by decide) rfl,
    plain (r := .splitFix) rfl rfl rfl (by decide) rfl, plain (r := .ticks) rfl rfl rfl (by decide) rfl,
    fun hb => execMfcr_reads h (r := .arithCtl) rfl (fun e => absurd e Bool.false_ne_true) rfl (fun _ => hb) (by decide) rfl,
    fun hn hg => plain (crOf_tshape hn) rfl (decide_eq_true hg) ⟨Cr.noConfusion, Cr.noConfusion⟩ rfl,
    fun hn hg => plain (crOf_cmode hn) rfl (decide_eq_true hg) ⟨Cr.noConfusion, Cr.noConfusion⟩ rfl,
    fun hn hg => execMfcr_stops h (crCheck_unallocated (crOf_tshape hn) rfl (decide_eq_false hg)),
    fun hn hs => execMfcr_stops h (crCheck_system (crOf_perfSel hn) rfl hs),
    fun hc => execMfcr_stops h (crCheck_none hc)⟩

theorem controlRegisterResults : ControlRegisterResults := by
  intro s w d n c
  dsimp only
  refine ⟨controlRegisterReads s w d n c, fun h => ?_⟩
  have user {r : Cr} (hs : r.system = false) (e : r.system = true) : s.ctxSys (s.wgOf w).ctx = true :=
    absurd (hs.symm.trans e) Bool.false_ne_true
  have sets (c : BitVec 12) (r : Cr) (k : Warp → Warp) (hc : crOf c.toNat = some r) (hw : r.writable = true)
      (hs : r.system = false) (ha : r.allocated (s.wgOf w) = true)
      (hk : s.writeCr w (s.wgOf w) (w.sget d) r = .ok (s.modWarp s.cur k)) :
      exec (.mtcr d c) s = .next (past s (k w)) := execMtcr_warp h hc hw (user hs) ha k hk
  refine ⟨?_, ?_, ?_, fun hb => ?_, fun hb hq => ?_, fun h0 hq => ?_, fun hg hn hs => ?_, fun hg hn hs => ?_,
    fun hg hn => ⟨?_, ?_⟩, ?_, ?_, ?_, ?_⟩
  · have hx := setField_low (w.sget d) 0xF (hi := 3) (by decide) (by decide)
    rw [hx]
    exact sets 0x010 .stackLim (fun v => { v with stackLim := setField (w.sget d) 3 0 0 }) rfl rfl rfl rfl rfl
  · have hx := setField_low (w.sget d) 3 (hi := 1) (by decide) (by decide)
    rw [hx]
    exact sets 0x019 .trapPc (fun v => { v with trapPc := setField (w.sget d) 1 0 0 }) rfl rfl rfl rfl rfl
  · have hx := setField_low (w.sget d) 3 (hi := 1) (by decide) (by decide)
    rw [hx]
    exact sets 0x01A .trapLpc (fun v => { v with trapLpc := setField (w.sget d) 1 0 0, lpcWritten := true }) rfl rfl rfl rfl
      rfl
  · refine ⟨arithWrite w.arithCtl (w.sget d), sets 0x008 .arithCtl
      (fun v => { v with arithCtl := arithWrite v.arithCtl (w.sget d) }) rfl rfl rfl rfl ?_, arithWrite_fields w.arithCtl (w.sget d)⟩
    rw [State.writeCr, hb]
    rfl
  · refine sets 0x009 .modQ (fun v => { v with modQ := w.sget d }) rfl rfl rfl rfl ?_
    have hneed : (w.sget d == 0 || legalQ (w.sget d).toNat) = true := by
      rw [Bool.or_eq_true, beq_iff_eq]
      exact hq
    rw [State.writeCr, hneed, hb]
    rfl
  · refine execMtcr_refuses h (r := .modQ) rfl rfl (user rfl) rfl ?_
    rw [State.writeCr, beq_eq_false_iff_ne.2 h0, hq]
    rfl
  · refine execMtcr_refuses h (crOf_tshape hn) rfl (user rfl) (decide_eq_true hg) ?_
    rw [State.writeCr, hs]
    rfl
  · refine execMtcr_goes h (crOf_tshape hn) rfl (user rfl) (decide_eq_true hg) ?_
    rw [State.writeCr, hs]
    rfl
  · exact execMtcr_goes h (crOf_dres hn) rfl (user rfl) (decide_eq_true hg) rfl
  · exact execMtcr_goes h (crOf_dland hn) rfl (user rfl) (decide_eq_true hg) rfl
  · exact execMtcr_goes h (r := .mxKey) rfl rfl (user rfl) rfl rfl
  · exact execMtcr_goes h (r := .mxStat) rfl rfl (user rfl) rfl rfl
  · exact execMtcr_stops h (crCheck_readOnly (r := .wid) rfl rfl)
  · exact execMtcr_stops h (crCheck_readOnly (r := .trapVec) rfl rfl)

end Sys2Proof.Claims

/-- Settles O37: a move of a control register is its checks and then `readCr` or `writeCr`. -/
theorem affineAndControlRegisters : Obligations.AffineAndControlRegisters :=
  ⟨Sys2Proof.Claims.affineResults, Sys2Proof.Claims.controlRegisterResults⟩

end

section
/-! PROOFS. Lane blocks and register holdings (R209, R221, R286, R288), hints (R289), the stack check (R277), EXIT (R292)
and SYS.WBINV (R296). -/

namespace Sys2Proof.Machine

/-! ### LANE.RUN (R286) -/

section
variable {s p : State} {w q : Warp} {b : Block} {a : SReg} {loff : BitVec 20}

theorem dropEmpty_cons {l : List Block} (h : b.mask ≠ 0) : dropEmpty (b :: l) = b :: l := by
  rw [dropEmpty, if_neg h]

theorem dropEmpty_append (hne : b.mask ≠ 0 ∨ w.queue ≠ []) (hhead : ∀ x ∈ w.queue.head?, x.mask ≠ 0) :
    dropEmpty (w.queue ++ [b]) = w.queue ++ [b] := by
  cases hq : w.queue with
  | nil => exact dropEmpty_cons (hne.resolve_right (absurd hq))
  | cons x l =>
    rw [hq] at hhead
    exact dropEmpty_cons (hhead x rfl)

theorem Warp.append_queue (ha : w.active = false) (hne : b.mask ≠ 0 ∨ w.queue ≠ [])
    (hhead : ∀ x ∈ w.queue.head?, x.mask ≠ 0) : w.append b = { w with queue := w.queue ++ [b] } := by
  rw [Warp.append, ha, dropEmpty_append hne hhead]
  rfl

theorem Warp.append_handler (ha : w.active = true) (hb : b.mask ≠ 0) : w.append b = { w with hblock := some b } := by
  rw [Warp.append, if_pos ha, if_neg hb]

/-- A block without threads that would stand at the head completes at once (R286). -/
theorem Warp.append_empty (hb : b.mask = 0) (h : w.active = true ∨ (w.active = false ∧ w.queue = [])) : w.append b = w := by
  rw [Warp.append]
  rcases h with ha | ⟨ha, hq⟩
  · rw [if_pos ha, if_pos hb]
  · rw [if_neg (ha ▸ Bool.false_ne_true), hq, List.nil_append, dropEmpty, if_pos hb, dropEmpty, ← hq]

theorem execLaneRun_appends (h : Claims.Issues s w { reads := [a.val] }) (hf : w.slotFull = false) :
    execLaneRun a loff s = .next (Claims.past s (w.append (newBlock w loff ((w.sget a).setWidth 32)))) := by
  refine scalarOp_changes h (fun v => v.append (newBlock v loff ((v.sget a).setWidth 32))) ?_
  rw [hf]
  rfl

theorem execLaneRun_waits (h : Claims.Issues s w { reads := [a.val] }) (hf : w.slotFull = true) :
    execLaneRun a loff s = .next (s.setWarp s.cur { w with park := .laneQueue }) := by
  refine (scalarOp_error h (e := .park .laneQueue s) ?_).trans (congrArg _ (stopped_park h.1 w.pc .laneQueue))
  rw [hf]
  rfl

end

/-! ### PFD (R289) -/

namespace State

theorem enterLines_background (s : State) (die : Nat) (l : List Nat) : Background s (s.enterLines die l) :=
  .of_eq rfl rfl rfl rfl rfl

theorem free_background {α : Type} (s : State) (f : Nat → α) : Background s (s.free f).2 := .of_eq rfl rfl rfl rfl rfl

theorem l1Room_background (s : State) (core line : Nat) : Background s (s.l1Room core line) := by
  unfold State.l1Room
  dsimp only
  split
  · exact .refl s
  · exact (s.free_background Config.freeChoice).trans (l1Evict_background _ _ _)

theorem l1Alloc_background (s : State) (core line : Nat) : Background s (s.l1Alloc core line) := by
  unfold State.l1Alloc
  dsimp only
  split
  · exact .refl s
  · exact (s.l1Room_background core line).trans (l1Put_background _ _ _ _)

theorem l1Fill_background (s : State) (core line sec : Nat) : Background s (s.l1Fill core line sec) :=
  ((s.l1Alloc_background core line).trans (sliceRead_background _ core line)).trans (l1Put_background _ _ _ _)

end State

theorem scalarOp_background {s : State} {w : Warp} {u : RegUse} {body : Warp → Workgroup → Except Stop State}
    (h : Claims.Issues s w u) (hbody : ∃ t, body w (s.wgOf w) = .ok t ∧ Background s t) :
    ∃ t, scalarOp s u body = .next t.advance ∧ Background s t := by
  obtain ⟨t, ht, hback⟩ := hbody
  exact ⟨t, scalarOp_ok h ht, hback⟩

/-- A prefetch goes on, with walks and cache lines beside the warps (R289). -/
theorem execPfd_background {s : State} {w : Warp} {a : SReg} (h : Claims.Issues s w { reads := [a.val] }) :
    ∃ t, execPfd a s = .next t.advance ∧ Background s t := by
  refine scalarOp_background h ?_
  dsimp only
  split
  · refine ⟨_, rfl, ?_⟩
    split
    · exact .refl s
    · exact s.enterLines_background _ _
  · next t ht =>
    have hwalk := (s.markUsed_background t .r).trans
      (State.cacheWalk_background _ (srcDie (s.whoOf (s.wgOf w)).src) (s.whoOf (s.wgOf w)) (w.sget a) t)
    split
    · exact ⟨_, rfl, .refl s⟩
    · split
      · exact ⟨_, rfl, hwalk⟩
      · split
        · exact ⟨_, rfl, hwalk.trans (State.sliceRead_background _ _ _)⟩
        · split
          · exact ⟨_, rfl, hwalk⟩
          · refine ⟨_, rfl, (hwalk.trans (State.l1WriteBackAll_background _ _ _)).trans (.foldl _ (fun s i => ?_) _ _)⟩
            split
            · exact .refl s
            · exact s.l1Fill_background _ _ _

/-! ### REG.SHRINK (R221, R288) -/

section
variable {s : State} {w : Warp}

/-- What REG.SHRINK owes the pool. -/
def Warp.shrinkOwed (s : State) (w : Warp) : Nat × List Nat :=
  if w.held = 0 then w.owed else (s.blocksOf s.cur w, w.owed.2 ++ s.regsOut s.cur)

/-- A block that REG.SHRINK finds inside an instruction owes. -/
def Block.shrunk (held : Nat) (b : Block) : Block := if held ≠ 0 ∧ b.stage = .running then { b with owes := true } else b

/-- A warp after REG.SHRINK. -/
def Warp.shrunk (w : Warp) (o : Nat × List Nat) : Warp :=
  { w with held := 0, owed := o, queue := w.queue.map (Block.shrunk w.held), hblock := w.hblock.map (Block.shrunk w.held) }

theorem execRegShrink_eq (h : Claims.Issues s w {}) :
    execRegShrink s = .next (Claims.past s (w.shrunk (w.shrinkOwed s))) :=
  scalarOp_changes h (fun v => { v with
    held := 0, owed := w.shrinkOwed s, queue := v.queue.map (Block.shrunk w.held)
    hblock := v.hblock.map (Block.shrunk w.held) }) rfl

theorem shrunk_blocks (o : Nat × List Nat) : (w.shrunk o).queue ++ (w.shrunk o).hblock.toList =
    (w.queue ++ w.hblock.toList).map (Block.shrunk w.held) := by
  rw [List.map_append]
  cases hb : w.hblock <;> simp only [Warp.shrunk, hb] <;> rfl

/-- The blocks that count as a shrunk warp's: those it owes, while something may still write them. -/
theorem blocksOf_shrunk (hl : w.live = true) (o : Nat × List Nat) : s.blocksOf s.cur (w.shrunk o) =
    if (o.2.any (s.regsOut s.cur).contains || ((w.queue ++ w.hblock.toList).map (Block.shrunk w.held)).any fun b => b.owes)
    then o.1 else 0 := by
  have hlive : (w.shrunk o).live = true := hl
  rw [State.blocksOf, shrunk_blocks, hlive, Bool.true_and]
  have hheld : (if s.occupiesSlot s.cur (w.shrunk o) = true then (w.shrunk o).held else 0) = 0 := ite_self 0
  rw [hheld, Nat.zero_add]
  rfl

theorem shrink_nothingOut (hl : w.live = true) (hout : s.regsOut s.cur = [])
    (hidle : ∀ b ∈ w.queue ++ w.hblock.toList, b.owes = false ∧ b.stage ≠ .running) (o : Nat × List Nat) :
    s.blocksOf s.cur (w.shrunk o) = 0 := by
  rw [blocksOf_shrunk hl, if_neg]
  rw [Bool.or_eq_true, List.any_eq_true, List.any_eq_true, hout]
  rintro (⟨x, -, hx⟩ | ⟨x, hx, howes⟩)
  · exact absurd hx Bool.false_ne_true
  · obtain ⟨b, hb, rfl⟩ := List.mem_map.1 hx
    obtain ⟨hno, hrun⟩ := hidle b hb
    rw [Block.shrunk, if_neg fun e => hrun e.2, hno] at howes
    exact absurd howes Bool.false_ne_true

theorem shrink_stillOut (hl : w.live = true)
    (hout : s.regsOut s.cur ≠ [] ∨ ∃ b ∈ w.queue ++ w.hblock.toList, b.stage = .running) :
    s.blocksOf s.cur (w.shrunk (w.shrinkOwed s)) = s.blocksOf s.cur w := by
  by_cases hh : w.held = 0
  · have hmark : Block.shrunk w.held = id := by
      funext b
      exact if_neg fun e => e.1 hh
    have hself : w.shrunk (w.shrinkOwed s) = w := by
      rw [Warp.shrunk, hmark, Warp.shrinkOwed, if_pos hh, List.map_id, Option.map_id, id, ← hh]
    rw [hself]
  · rw [blocksOf_shrunk hl, Warp.shrinkOwed, if_neg hh, if_pos]
    rw [Bool.or_eq_true, List.any_eq_true, List.any_eq_true]
    rcases hout with hne | ⟨b, hb, hrun⟩
    · obtain ⟨x, hx⟩ := List.exists_mem_of_ne_nil _ hne
      exact .inl ⟨x, List.mem_append_right _ hx, List.contains_iff_mem.2 hx⟩
    · refine .inr ⟨Block.shrunk w.held b, List.mem_map_of_mem hb, ?_⟩
      rw [Block.shrunk, if_pos ⟨hh, hrun⟩]

end

/-! ### REG.GROW and its grant (R221, R288) -/

section
variable {s : State} {w : Warp} {n : Fin 4} {t : Nat}

theorem controlOp_ok {u : RegUse} {body : Warp → Workgroup → Except Stop State} {r : State} (h : Claims.Issues s w u)
    (hbody : body w (s.wgOf w) = .ok r) : controlOp s u body = .next r := by
  rw [controlOp_eq s u w body h.1 h.2.1 h.2.2, hbody]

theorem controlOp_error {u : RegUse} {body : Warp → Workgroup → Except Stop State} {e : Stop} (h : Claims.Issues s w u)
    (hbody : body w (s.wgOf w) = .error e) : controlOp s u body = .next (s.stopped s.cur w.pc e) := by
  rw [controlOp_eq s u w body h.1 h.2.1 h.2.2, hbody]

/-- The time at which a warp's request for blocks was issued (R221). -/
def Warp.growTime (s : State) (w : Warp) : Nat :=
  match w.growTick with
  | some (t, pc) => if pc = w.pc then t else s.tick
  | none => s.tick

theorem growTime_eq (h : w.growTick = some (t, w.pc) ∨ (t = s.tick ∧ ∀ x, w.growTick ≠ some (x, w.pc))) :
    w.growTime s = t := by
  rw [Warp.growTime]
  rcases h with h | ⟨rfl, h⟩
  · rw [h]
    exact if_pos rfl
  · split
    · next x pc hx =>
      rw [if_neg]
      rintro rfl
      exact h x hx
    · rfl

theorem execRegGrow_queues (h : Claims.Issues s w {}) (hn : n ≠ 0) (hh : w.held = 0)
    (hnew : ∀ x ∈ s.eng.grow, x.2.1 ≠ s.cur) : execRegGrow n s =
    .next (State.setWarp { s with eng := { s.eng with grow := growInsert (w.growTime s, s.cur, n.val) s.eng.grow } } s.cur
      { w with growTick := some (w.growTime s, w.pc), park := .grow }) := by
  have hnone : (s.eng.grow.any fun x => x.2.1 == s.cur) = false := by
    rw [List.any_eq_false]
    intro x hx
    rw [beq_iff_eq]
    exact hnew x hx
  refine controlOp_ok h ?_
  simp only [bne_iff_ne.2 hn, beq_iff_eq.2 hh, need_true, ok_bind, hnone, Bool.false_eq_true, if_false, pure_eq_ok]
  exact congrArg Except.ok (State.modWarp_eq_setWarp _ s.cur _ w h.1)

theorem Tab.get_filterKeys {α : Type} (d : α) (m : Tab α) (p : Nat → Bool) (k : Nat) :
    Tab.get d (Tab.filterKeys m p) k = if p k then Tab.get d m k else d := by
  induction m with
  | nil => exact (ite_self d).symm
  | cons e m ih =>
    obtain ⟨j, v⟩ := e
    rw [Tab.filterKeys, List.filter_cons, ← Tab.filterKeys]
    by_cases hj : p j
    · rw [if_pos hj, Tab.get_cons, Tab.get_cons, ih]
      by_cases hk : j = k
      · rw [if_pos hk, if_pos hk, if_pos (hk ▸ hj)]
      · rw [if_neg hk, if_neg hk]
    · rw [if_neg hj, ih, Tab.get_cons]
      by_cases hk : j = k
      · rw [if_neg (hk ▸ hj), if_neg (hk ▸ hj)]
      · rw [if_neg hk]

/-- A warp whose request for blocks is granted. -/
def Warp.granted (w : Warp) (n : Nat) : Warp :=
  { w.advance with held := n, growTick := none, v := Tab.filterKeys w.v fun k => k < 64 * 32 }

theorem granted_vget (k j l : Nat) (hl : l < 32) :
    (w.granted k).vget j l = if j < 64 then w.vget j l else 0 := by
  rw [Warp.vget, Warp.granted, Tab.get_filterKeys, Warp.vget]
  refine if_congr ?_ rfl rfl
  rw [decide_eq_true_eq]
  omega

theorem execRegGrowGrant_eq {i k : Nat} {r : List (Nat × Nat × Nat)} (hg : s.eng.grow = (t, i, k) :: r)
    (hw : s.warp? i = some w) (hp : w.park = .grow) (hroom : s.blocksHeld (s.wgOf w).core + k ≤ 128) :
    execRegGrowGrant (s.wgOf w).core s = .next ((s.dropGrow i).setWarp i (w.granted k)) := by
  have hfind : (s.eng.grow.find? fun x => match s.warp? x.2.1 with
      | some v => (s.wgOf v).core == (s.wgOf w).core
      | none => false) = some (t, i, k) := by
    rw [hg, List.find?_cons_of_pos]
    dsimp only
    rw [hw]
    exact beq_self_eq_true _
  unfold execRegGrowGrant
  split
  next h => cases h.symm.trans hfind
  next h =>
    cases h.symm.trans hfind
    rw [hw]
    exact if_pos ⟨hp, hroom⟩

end

/-! ### EXIT (R292) -/

namespace State

theorem idleFrom_background (s : State) (c : Nat) : Background s (s.idleFrom c) := by
  unfold State.idleFrom
  split
  · exact .refl s
  · exact s.setCore_background _ _

theorem unmapLine_background (s : State) (line cell : Nat) : Background s (s.unmapLine line cell) := by
  obtain ⟨whole, hwhole⟩ : ∃ mask, mask = 2 ^ 128 - 1 := ⟨_, rfl⟩
  unfold State.unmapLine State.wakeLine
  rw [← hwhole]
  refine Background.trans ?_ (wakeIf_background _ _)
  exact ⟨rfl, rfl, rfl, MonitorsOnly.of_warps rfl, writeMasked_wf _ _ _ whole _⟩

theorem unmap_background (s : State) (x : Mapping) : Background s (s.unmap x) := by
  unfold State.unmap
  refine Background.trans ?_ (.foldl _ (fun s i => s.unmapLine_background _ _) _ _)
  exact (Background.of_mem (m := { s.mem with maps := s.mem.maps.filter fun y => y != x }) id).trans
    (idleFrom_background _ _)

theorem unmapAll_background (s : State) (gi : Nat) : Background s (s.unmapAll gi) :=
  .foldl _ (fun s x => s.unmap_background x) _ s

theorem queueEmits_background (s : State) (gi : Nat) : Background s (s.queueEmits gi) := by
  refine .foldl _ (fun s i => ?_) _ s
  dsimp only
  split
  · exact .refl s
  · exact .of_eq rfl rfl rfl rfl rfl

theorem idleFrom_warps (s : State) (c : Nat) : (s.idleFrom c).warps = s.warps := by
  unfold State.idleFrom
  split <;> rfl

theorem foldl_idleFrom_warps {α : Type} (l : List α) (f : α → Nat) (s : State) :
    (l.foldl (fun s x => s.idleFrom (f x)) s).warps = s.warps := by
  induction l generalizing s with
  | nil => rfl
  | cons x l ih => rw [List.foldl_cons, ih, idleFrom_warps]

theorem leave_warps (s : State) (gi : Nat) : (s.leave gi).warps = s.warps := by
  unfold State.leave
  exact (foldl_idleFrom_warps _ (fun x : Workgroup => x.core) _).trans (idleFrom_warps _ _)

end State

/-- What the last warp's end takes with it leaves the warps but for their monitors. -/
theorem exitLast_warp? {u : State} {i gi : Nat} {v : Warp} (hv : u.warp? i = some v) :
    ∃ m, (if (u.warpsOf gi).isEmpty then ((u.unmapAll gi).queueEmits gi).leave gi else u).warp? i =
      some { v with mon := m } := by
  split
  · obtain ⟨m, hm⟩ := ((u.unmapAll_background gi).trans (State.queueEmits_background _ gi)).warps i v hv
    refine ⟨m, ?_⟩
    rw [State.warp?, State.leave_warps]
    exact hm
  · exact ⟨v.mon, hv⟩

theorem modWarp_ended {u : State} {i : Nat} {v : Warp} (hv : u.warp? i = some v) :
    ((u.modWarp i Warp.ended).dropGrow i).warp? i = some v.ended := by
  refine (State.modWarp_warp?_same u i Warp.ended).trans ?_
  rw [hv]
  rfl

/-- EXIT ends its warp (R292). -/
theorem exitWarp_live {p : State} {i : Nat} {w : Warp} (hw : p.warp? i = some w) :
    ∃ v, (p.exitWarp i).warp? i = some v ∧ v.live = false := by
  rw [State.exitWarp, hw]
  dsimp only
  cases hg : w.gang with
  | none =>
    obtain ⟨m, hm⟩ := exitLast_warp? (gi := w.wg) (modWarp_ended hw)
    exact ⟨_, hm, rfl⟩
  | some x =>
    have hv : (p.dissolve w.wg x.g).warp? i = some _ := (List.getElem?_map ..).trans (congrArg (Option.map _) hw)
    obtain ⟨m, hm⟩ := exitLast_warp? (gi := w.wg) (modWarp_ended hv)
    exact ⟨_, hm, rfl⟩

end Sys2Proof.Machine

open Sys2Proof.Machine in
/-- Settles O38: each instruction by the branch of its body; REG.SHRINK by what is still out, REG.GROW by its place in the
queue, and EXIT by `exitWarp_live`. -/
theorem warpResourceResults : Obligations.WarpResourceResults := by
  intro s w a loff n
  dsimp only
  refine ⟨fun h => ⟨fun ha hlen hne hhead => ?_, fun ha hlen => ?_, fun ha hb hm => ?_, fun ha hb => ?_, fun hm hfree => ?_, ?_,
      ?_⟩, fun h => ⟨fun hle => ?_, fun hlt => ?_⟩,
    fun h => ⟨⟨w.shrinkOwed s, execRegShrink_eq h, fun h0 => if_pos h0,
        fun hout hidle => shrink_nothingOut h.2.1 hout hidle _, fun hout => shrink_stillOut h.2.1 hout⟩,
      fun hn => ?_, fun hn hh => ?_, fun t hn hh ht hnew => ?_, fun hs hd => ?_, fun hs => ?_, fun p q hd => ?_, fun hb => ?_⟩,
    fun t i k r v hg hv hp hroom => ?_⟩
  · have hfull : w.slotFull = false := by
      rw [Warp.slotFull, ha, if_neg Bool.false_ne_true, decide_eq_false (Nat.not_le.2 hlen)]
    rw [exec_laneRun, execLaneRun_appends h hfull, Warp.append_queue ha hne hhead]
    rfl
  · refine (exec_laneRun a loff s).trans (execLaneRun_waits h ?_)
    rw [Warp.slotFull, ha, if_neg Bool.false_ne_true, decide_eq_true hlen]
  · have hfull : w.slotFull = false := by
      rw [Warp.slotFull, if_pos ha, hb]
      rfl
    rw [exec_laneRun, execLaneRun_appends h hfull, Warp.append_handler ha hm]
    rfl
  · refine (exec_laneRun a loff s).trans (execLaneRun_waits h ?_)
    rw [Warp.slotFull, if_pos ha, Option.isSome_iff_ne_none]
    exact hb
  · have hfull : w.slotFull = false := by
      rw [Warp.slotFull]
      rcases hfree with ⟨ha, hb⟩ | ⟨ha, hq⟩
      · rw [if_pos ha, hb]
        rfl
      · rw [ha, hq]
        rfl
    rw [exec_laneRun, execLaneRun_appends h hfull, Warp.append_empty hm (hfree.imp And.left id)]
  · exact (exec_ipf a s).trans ((scalarOp_ok h rfl).trans (congrArg _ (advance_eq h.1)))
  · obtain ⟨t, ht, hback⟩ := execPfd_background h
    obtain ⟨m, hm⟩ := hback.warps _ w h.1
    have hadv : t.advance.warp? s.cur = some { w with pc := w.pc + 4, park := .run, mon := m } := by
      rw [State.advance, hback.cur, State.modWarp_warp?_same, hm]
      rfl
    exact ⟨_, _, (exec_pfd a s).trans ht, hadv, rfl⟩
  · refine (exec_stkChk a s).trans ((scalarOp_ok h (t := s) ?_).trans (congrArg _ (advance_eq h.1)))
    dsimp only
    have hneed : (decide ((w.sget a).toNat ≤ (w.sget 62).toNat) &&
        decide (w.limit ≤ (w.sget 62).toNat - (w.sget a).toNat)) = true := by
      rw [Bool.and_eq_true, decide_eq_true_eq, decide_eq_true_eq]
      omega
    rw [hneed]
    rfl
  · refine scalarOp_error h ?_
    dsimp only
    have hneed : (decide ((w.sget a).toNat ≤ (w.sget 62).toNat) &&
        decide (w.limit ≤ (w.sget 62).toNat - (w.sget a).toNat)) = false := by
      rw [Bool.eq_false_iff, Ne, Bool.and_eq_true, decide_eq_true_eq, decide_eq_true_eq]
      omega
    rw [hneed]
    rfl
  · subst hn
    exact controlOp_error h rfl
  · refine controlOp_error h ?_
    rw [bne_iff_ne.2 hn, beq_eq_false_iff_ne.2 hh]
    rfl
  · have htime := growTime_eq ht
    subst htime
    exact execRegGrow_queues h hn hh hnew
  · refine (exec_sysWbinv s).trans (scalarOp_ok h ?_)
    simp only [hs, hd, need_true, ok_bind, pure_eq_ok]
  · refine scalarOp_error h ?_
    rw [hs]
    rfl
  · obtain ⟨hdr, hq⟩ := hd
    refine ⟨(exec_exit s).trans (controlOp_ok h ?_), exitWarp_live hq⟩
    rw [hdr]
    rfl
  · refine (exec_exit s).trans ((controlOp_error h (e := .park .laneQueue s) ?_).trans
      (congrArg _ (stopped_park h.1 w.pc .laneQueue)))
    rw [drained_blocked hb]
    rfl
  · have hw : (s.dropGrow i).warp? i = some v := hv
    exact ⟨_, _, (exec_regGrowGrant _ s).trans (execRegGrowGrant_eq hg hv hp hroom),
      State.setWarp_warp?_same _ i v _ hw, rfl, rfl, rfl, fun j l hl => granted_vget k j l hl, rfl⟩

end

section
/-! PROOFS. Tensor table instructions (R379, R380), LAUNCH (R293, R415) and SYS.MBOX (R295, R477). -/

namespace Sys2Proof.Machine

/-! ### The tensor table -/

section
variable {s t : State} {w v : Warp} {a b d : SReg} {c x : Nat} {e : BitVec 512} {g : Workgroup}

theorem needTid64_stale {y : Word} (h : field y 63 32 ≠ 0 ∨ s.resolve g.ctx y.toNat = none) :
    s.needTid64 g y = .error (staleTid 0) := by
  by_cases hf : field y 63 32 = 0
  · have hlow : y.toNat % 2 ^ 32 = y.toNat := by
      have := y.isLt
      simp only [field] at hf
      omega
    rw [State.needTid64, beq_iff_eq.2 hf, need_true, ok_bind, State.needTid, hlow, h.resolve_left (absurd hf)]
  · rw [State.needTid64, beq_eq_false_iff_ne.2 hf, need_false, error_bind]

theorem needTid64_ok {y : Word} (hf : field y 63 32 = 0) (h : s.resolve g.ctx y.toNat = some e) :
    s.needTid64 g y = .ok e := by
  have hlow : y.toNat % 2 ^ 32 = y.toNat := by
    have := y.isLt
    simp only [field] at hf
    omega
  rw [State.needTid64, beq_iff_eq.2 hf, need_true, ok_bind, State.needTid, hlow, h]

/-- A slot that a TT.SET may name (R379). -/
theorem ttSlot_ok {slot n : Nat} (h0 : 0 < slot) (h1 : slot < n) (h2 : slot < 2 ^ 16) :
    (decide (0 < slot) && decide (slot < n) && decide (slot < 2 ^ 16)) = true := by
  rw [decide_eq_true h0, decide_eq_true h1, decide_eq_true h2]
  rfl

theorem ttSlot_bad {slot n : Nat} (h : ¬(0 < slot ∧ slot < n ∧ slot < 2 ^ 16)) :
    (decide (0 < slot) && decide (slot < n) && decide (slot < 2 ^ 16)) = false := by
  rw [Bool.eq_false_iff, Ne, Bool.and_eq_true, Bool.and_eq_true, decide_eq_true_eq, decide_eq_true_eq, decide_eq_true_eq,
    and_assoc]
  exact h

/-- A result written to a register of the warp that another state has in focus. -/
theorem putS_advance {y : Word} (hv : t.warp? t.cur = some v) (h62 : ¬(d = 62 ∧ y.toNat < v.limit)) :
    ∃ u, t.putS d y = .ok u ∧ u.advance = Claims.past t { v with s := Tab.set 0 v.s d.val y } :=
  ⟨_, putS_ok hv h62, advance_setWarp t _ v hv⟩

/-- A scalar instruction whose body ends with a result for the warp in focus. -/
theorem scalarOp_puts {u : RegUse} {body : Warp → Workgroup → Except Stop State} {y : Word} (h : Claims.Issues s w u)
    (hv : t.warp? t.cur = some v) (h62 : ¬(d = 62 ∧ y.toNat < v.limit)) (hbody : body w (s.wgOf w) = t.putS d y) :
    scalarOp s u body = .next (Claims.past t { v with s := Tab.set 0 v.s d.val y }) := by
  obtain ⟨r, hr, hadv⟩ := putS_advance hv h62
  rw [scalarOp_ok h (hbody.trans hr), hadv]

end

/-! ### LAUNCH -/

section
variable {s p t u v x r k : State} {w y z : Warp} {a b : SReg} {ta tb : Trans} {data : EngData} {q : QBlock}

/-- The record of a LAUNCH as its warp has kept it, or as it reads it now (R293). -/
def LaunchReads (w : Warp) (core : Nat) (tb : Trans) (v : State) (data : EngData) (x : State) : Prop :=
  match w.record with
  | some n => data = { len := 128, x := n.toNat } ∧ x = v
  | none => (tb.kind.isMem = true → v.mem.poisoned tb.pa 128 = false) ∧
      v.engReadAt (launchTag v.cur) core tb none 128 0 128 {} = (data, x) ∧ data.wait = false

/-- The state in which a LAUNCH has its record. -/
def State.launchRead (v x : State) : State :=
  (x.engHostDone (launchTag v.cur)).modWarp x.cur fun w => { w with record := none }

/-- What LAUNCH does with its record (R415). -/
def State.launchSubmit (s : State) (g : Workgroup) (ta : Trans) (img : Nat) : Except Stop State := do
  if !ta.kind.isMem then return s
  let s := s.l1DropBlock g.core ta.pa
  let s ← (s.homesReady ta.pa 512 128 true).mapError (keepRecord img s.cur)
  match s.queueBlock ta.pa with
  | none => return s
  | some q =>
    if q.producer = 1 then return s.rejectLaunch ta.pa q.rejected
    else if q.tail < q.head + 2 ^ q.size then
      let s ← (s.homesReady (q.ring + 128 * (q.tail % 2 ^ q.size)) 128 128 true).mapError (keepRecord img s.cur)
      let s := s.coreWrite g.core ta (q.ring + 128 * (q.tail % 2 ^ q.size)) 128 img
      return s.coreWrite g.core ta ta.pa 8 (q.tail + 1)
    else .error (.park .ring (s.modWarp s.cur fun w => { w with record := some (BitVec.ofNat 1024 img) }))

theorem execLaunch_confined (h : Claims.Issues s w { reads := [a.val, b.val] }) (hd : Claims.Drained s w 5 p y)
    (ha : (w.sget a).toNat % 512 = 0) (hb : (w.sget b).toNat % 128 = 0) (hg : (s.wgOf w).cert = true) :
    execLaunch a b s = .next (s.stopped s.cur w.pc (.trap { cause := 0x0C, reason := 3, addr := w.sget a })) := by
  refine scalarOp_error h ?_
  simp only [hd.1, aligned_ok ha, aligned_ok hb, hg, Bool.not_true, need_false, ok_bind, error_bind]
  rfl

/-- A LAUNCH that has its record answers what `launchSubmit` leaves. -/
theorem execLaunch_eq (h : Claims.Issues s w { reads := [a.val, b.val] }) (hd : Claims.Drained s w 5 p y)
    (ha : (w.sget a).toNat % 512 = 0) (hb : (w.sget b).toNat % 128 = 0) (hg : (s.wgOf w).cert = false)
    (hta : p.translate (p.whoOf (s.wgOf w)) .atomic .rw false (w.sget a) = .ok (ta, t))
    (htb : t.translate (t.whoOf (s.wgOf w)) .read .r false (w.sget b) = .ok (tb, u))
    (hv : u.release u.cur (s.wgOf w).core 5 = .ok v) (hx : LaunchReads w (s.wgOf w).core tb v data x) :
    execLaunch a b s = .next (s.outcome w (u.keep ((v.launchRead x).launchSubmit (s.wgOf w) ta data.x))) := by
  refine scalarOp_outcome h ?_
  simp only [hd.1, aligned_ok ha, aligned_ok hb, hg, Bool.not_false, need_true, ok_bind, hta, htb, hv]
  refine congrArg _ ?_
  unfold LaunchReads at hx
  split at hx
  · next n hn =>
    obtain ⟨rfl, rfl⟩ := hx
    rw [hn]
    rfl
  · next hn =>
    obtain ⟨hp, hread, hwait⟩ := hx
    have hneed : (!tb.kind.isMem || !v.mem.poisoned tb.pa 128) = true := by
      cases hm : tb.kind.isMem with
      | false => rfl
      | true => rw [hp hm]; rfl
    rw [hn]
    simp only [Option.isSome_none, Bool.false_or, hneed, need_true, ok_bind, hread, hwait, Bool.not_false]
    rfl

theorem launchSubmit_elsewhere {g : Workgroup} {img : Nat} (hm : ta.kind.isMem = false) :
    s.launchSubmit g ta img = .ok s := by
  rw [State.launchSubmit, hm]
  rfl

theorem launchSubmit_block {g : Workgroup} {img : Nat} (hm : ta.kind.isMem = true)
    (hr : (s.l1DropBlock g.core ta.pa).homesReady ta.pa 512 128 true = .ok r) :
    (r.queueBlock ta.pa = none → s.launchSubmit g ta img = .ok r) ∧
    (r.queueBlock ta.pa = some q →
      (q.producer = 1 → s.launchSubmit g ta img = .ok (r.rejectLaunch ta.pa q.rejected)) ∧
      (q.producer ≠ 1 → q.tail < q.head + 2 ^ q.size →
        r.homesReady (q.ring + 128 * (q.tail % 2 ^ q.size)) 128 128 true = .ok k → s.launchSubmit g ta img =
          .ok ((k.coreWrite g.core ta (q.ring + 128 * (q.tail % 2 ^ q.size)) 128 img).coreWrite g.core ta ta.pa 8 (q.tail + 1))) ∧
      (q.producer ≠ 1 → q.head + 2 ^ q.size ≤ q.tail → s.launchSubmit g ta img =
        .error (.park .ring (r.modWarp r.cur fun w => { w with record := some (BitVec.ofNat 1024 img) })))) := by
  have hready : ((s.l1DropBlock g.core ta.pa).homesReady ta.pa 512 128 true).mapError
      (keepRecord img (s.l1DropBlock g.core ta.pa).cur) = .ok r := by
    rw [hr]
    rfl
  refine ⟨fun hq => ?_, fun hq => ⟨fun hp => ?_, fun hp hlt hk => ?_, fun hp hle => ?_⟩⟩
  · simp only [State.launchSubmit, hm, Bool.not_true, Bool.false_eq_true, if_false, hready, ok_bind, hq, pure_eq_ok]
  · simp only [State.launchSubmit, hm, Bool.not_true, Bool.false_eq_true, if_false, hready, ok_bind, hq, if_pos hp,
      pure_eq_ok]
  · have hslot : (r.homesReady (q.ring + 128 * (q.tail % 2 ^ q.size)) 128 128 true).mapError (keepRecord img r.cur) =
        .ok k := by
      rw [hk]
      rfl
    simp only [State.launchSubmit, hm, Bool.not_true, Bool.false_eq_true, if_false, hready, ok_bind, hq, if_neg hp,
      if_pos hlt, hslot, pure_eq_ok]
  · simp only [State.launchSubmit, hm, Bool.not_true, Bool.false_eq_true, if_false, hready, ok_bind, hq, if_neg hp,
      if_neg (Nat.not_lt.2 hle)]

end

/-! ### SYS.MBOX -/

section
variable {s p t r u : State} {w x v : Warp} {d a : SReg} {ta : Trans}

/-- What SYS.MBOX does with its block once it is read (R295). -/
def State.mailboxPost (s : State) (g : Workgroup) (t : Trans) (d : SReg) : Except Stop State :=
  if t.cache = 2 ∨ s.mem.readCoh (t.pa + 3) 1 ≠ 0 then s.putS d 2
  else if 16 ≤ (s.unanswered.filter fun p => p.issuer != .host && s.issuerPart p.issuer == s.ctxPart g.ctx).length then
    s.putS d 1
  else
    let p : Pending := { issuer := .ctx g.ctx, addr := t.pa, block := BitVec.ofNat 4096 (s.mem.readCoh t.pa 512) }
    State.putS { s with host := { s.host with pending := s.host.pending ++ [p] } } d 0

/-- A SYS.MBOX that has its block answers what `mailboxPost` writes. -/
theorem execSysMbox_puts {y : State} {c : Word} (h : Claims.Issues s w { reads := [a.val], writes := [d.val] })
    (hs : s.ctxSys (s.wgOf w).ctx = true) (hd : Claims.Drained s w 5 p x) (ha : (w.sget a).toNat % 512 = 0)
    (hta : p.translate (p.whoOf (s.wgOf w)) .write .w false (w.sget a) = .ok (ta, t))
    (hr : t.release t.cur (s.wgOf w).core 5 = .ok r)
    (hu : if ta.cache = 2 then u = r else r.homesReady ta.pa 512 (clusterOf (s.wgOf w).core) false = .ok u)
    (hv : y.warp? y.cur = some v) (h62 : ¬(d = 62 ∧ v.limit > 0)) (hpost : u.mailboxPost (s.wgOf w) ta d = y.putS d c) :
    execSysMbox d a s = .next (Claims.past y { v with s := Tab.set 0 v.s d.val c }) := by
  have hok : ¬(d = 62 ∧ c.toNat < v.limit) := fun e => h62 ⟨e.1, Nat.zero_lt_of_lt e.2⟩
  refine scalarOp_puts h hv hok ?_
  simp only [hs, need_true, ok_bind, hd.1, aligned_ok ha, hta, hr]
  have hkeep : t.keep (y.putS d c) = y.putS d c := by
    rw [putS_ok hv hok]
    rfl
  rw [← hkeep, ← hpost]
  refine congrArg t.keep ?_
  split
  · next hc =>
    rw [if_pos hc] at hu
    rw [hu]
    rfl
  · next hc =>
    rw [if_neg hc] at hu
    rw [hu]
    rfl

end

end Sys2Proof.Machine

namespace Sys2Proof.Claims
open Sys2Proof.Machine

theorem launchResults : LaunchResults := by
  intro s p t u v x r k w y z a b ta tb data q
  dsimp only
  intro h hd ha hb
  refine ⟨fun hg => execLaunch_confined h hd ha hb hg, fun hg hta htb hv hx => ?_⟩
  have hexec := (exec_launch a b s).trans (execLaunch_eq h hd ha hb hg hta htb hv hx)
  have goes {u' : State} (hu : (v.launchRead x).launchSubmit (s.wgOf w) ta data.x = .ok u') :
      exec (.launch a b) s = .next u'.advance := by
    rw [hexec, hu]
    rfl
  refine ⟨fun hm => goes (launchSubmit_elsewhere hm), fun hm hr => ?_⟩
  obtain ⟨hnone, hsome⟩ := launchSubmit_block (s := v.launchRead x) (img := data.x) (q := q) (k := k) hm hr
  refine ⟨fun hq => goes (hnone hq), fun hq => ?_⟩
  obtain ⟨hreject, hroom, hfull⟩ := hsome hq
  refine ⟨fun hp => goes (hreject hp), fun hp hlt hk => goes (hroom hp hlt hk), fun hp hle hcur hz => ?_⟩
  rw [hexec, hfull hp hle, hcur, State.modWarp_eq_setWarp r s.cur _ z hz]
  refine congrArg _ ((State.modWarp_eq_setWarp _ s.cur _ _ (State.setWarp_warp?_same r s.cur z _ hz)).trans ?_)
  rw [State.setWarp_setWarp]

theorem mailboxCommandResults : MailboxCommandResults := by
  intro s p t r u w x v d a ta
  dsimp only
  intro h
  refine ⟨fun hs => ?_, fun hs hd ha hta hr hu hv h62 => ⟨fun hbad => ?_, fun hbad hmine => ?_, fun hbad hmine => ?_⟩⟩
  · refine scalarOp_error h ?_
    rw [hs]
    rfl
  · exact (exec_sysMbox d a s).trans (execSysMbox_puts h hs hd ha hta hr hu hv h62 (if_pos hbad))
  · exact (exec_sysMbox d a s).trans
      (execSysMbox_puts h hs hd ha hta hr hu hv h62 ((if_neg hbad).trans (if_pos hmine)))
  · refine (exec_sysMbox d a s).trans
      (execSysMbox_puts (y := { u with host := _ }) h hs hd ha hta hr hu hv h62
        ((if_neg hbad).trans (if_neg (Nat.not_le.2 hmine))))

end Sys2Proof.Claims

open Sys2Proof.Machine in
/-- Settles O39: a tensor table instruction by its checks in turn. -/
theorem tensorTableResults : Obligations.TensorTableResults := by
  intro s w v d a b c x e
  dsimp only
  refine ⟨fun h => ⟨fun hslot => ?_, fun h0 h1 h2 hal hc hx => ⟨fun hg => ?_, fun hg himg => ?_, fun hg himg hv h62 => ?_⟩⟩,
    fun hstale => ⟨fun h => ?_, fun h => ?_⟩, fun h hf => ⟨fun he hg => ?_, fun he hg => ?_⟩, fun h hf he hal hc => ?_⟩
  · refine scalarOp_error h ?_
    simp only [ttSlot_bad hslot, need_false, error_bind]
    rfl
  · refine scalarOp_error h ?_
    simp only [ttSlot_ok h0 h1 h2, need_true, ok_bind, aligned_ok hal, hc, hx, hg, Bool.not_true, need_false, error_bind]
    rfl
  · refine scalarOp_error h ?_
    simp only [ttSlot_ok h0 h1 h2, need_true, ok_bind, aligned_ok hal, hc, hx, hg, Bool.not_false, himg, need_false,
      error_bind]
    rfl
  · refine (exec_ttSet d a b s).trans (scalarOp_puts h hv h62 ?_)
    simp only [ttSlot_ok h0 h1 h2, need_true, ok_bind, aligned_ok hal, hc, hx, hg, Bool.not_false, himg]
  · refine scalarOp_error h ?_
    simp only [needTid64_stale hstale, error_bind]
    rfl
  · refine scalarOp_error h ?_
    simp only [needTid64_stale hstale, error_bind]
    rfl
  · refine scalarOp_error h ?_
    simp only [needTid64_ok hf he, ok_bind, hg, Bool.not_true, need_false, error_bind]
    rfl
  · refine (exec_ttClr a s).trans (scalarOp_ok h ?_)
    simp only [needTid64_ok hf he, ok_bind, hg, Bool.not_false, need_true, pure_eq_ok]
  · refine (exec_ttRead a b s).trans (scalarOp_ok h ?_)
    simp only [needTid64_ok hf he, ok_bind, aligned_ok hal, hc, pure_eq_ok]

/-- Settles O40: LAUNCH reads its record and submits it, SYS.MBOX reads its block and posts it. -/
theorem launchAndMailbox : Obligations.LaunchAndMailbox :=
  ⟨Sys2Proof.Claims.launchResults, Sys2Proof.Claims.mailboxCommandResults⟩

end

section
/-! PROOFS. Tensor instructions entering the MX queue (R384-R396), gangs (R226-R228, R397, R398), MX.DRAIN (R399) and
the projection slots at issue (R405). -/

namespace Sys2Proof.Machine

/-! ### The operand queue (R390) -/

/-- An entry at the end of an MX core's queue. -/
def State.mxQueued (s : State) (o : MxOp) : State :=
  { s with eng := { s.eng with mx := s.eng.mx ++ [{ o with id := s.eng.nextId }], nextId := s.eng.nextId + 1 } }

/-- An entry as a warp of a workgroup issues it. -/
def MxOp.issuedBy (o : MxOp) (wi wgi : Nat) (g : Workgroup) : MxOp :=
  { o with core := g.core, wg := wgi, ctx := g.ctx, warp := wi }

section
variable {s t : State} {w : Warp} {g : Workgroup} {wi wgi : Nat} {o : MxOp} {fx : State → State} {d : TReg} {c : CReg}

theorem enqueue_ok (hroom : s.mxLen g.core < mxCap) (hr : s.release wi g.core 3 = .ok t) :
    s.enqueue wi wgi g o fx = .ok ((fx t).mxQueued (o.issuedBy wi wgi g)) := by
  simp only [State.enqueue, decide_eq_true hroom, need_true, ok_bind, hr, pure_eq_ok]
  rfl

theorem enqueue_full (hroom : mxCap ≤ s.mxLen g.core) : s.enqueue wi wgi g o fx = .error (.park .engine s) := by
  simp only [State.enqueue, decide_eq_false (Nat.not_lt.2 hroom), need_false, error_bind]

theorem needTile_ok (h : d.val < g.tiles) : needTile g d = .ok () := by
  rw [needTile, decide_eq_true h, need_true]

theorem needTile_error (h : ¬d.val < g.tiles) : needTile g d = .error (.trap { cause := 0x13, reason := 3 }) := by
  rw [needTile, decide_eq_false h, need_false]
  rfl

theorem needAcc_ok (h : c.val < g.accs) : needAcc g c = .ok () := by
  rw [needAcc, decide_eq_true h, need_true]

theorem needAcc_error (h : ¬c.val < g.accs) : needAcc g c = .error (.trap { cause := 0x13, reason := 3 }) := by
  rw [needAcc, decide_eq_false h, need_false]
  rfl

/-- What a checked instruction of the warp in focus comes to when it enters the queue. -/
theorem scalarOp_enqueues {u : RegUse} {body : Warp → Workgroup → Except Stop State} (h : Claims.Issues s w u)
    (hroom : s.mxLen (s.wgOf w).core < mxCap) (hr : s.release s.cur (s.wgOf w).core 3 = .ok t)
    (hbody : body w (s.wgOf w) = s.enqueue s.cur w.wg (s.wgOf w) o fx) :
    scalarOp s u body = .next ((fx t).mxQueued (o.issuedBy s.cur w.wg (s.wgOf w))).advance :=
  scalarOp_ok h (hbody.trans (enqueue_ok hroom hr))

theorem scalarOp_queueFull {u : RegUse} {body : Warp → Workgroup → Except Stop State} (h : Claims.Issues s w u)
    (hroom : mxCap ≤ s.mxLen (s.wgOf w).core)
    (hbody : body w (s.wgOf w) = s.enqueue s.cur w.wg (s.wgOf w) o fx) :
    scalarOp s u body = .next (s.setWarp s.cur { w with park := .engine }) := by
  rw [scalarOp_error h (hbody.trans (enqueue_full hroom)), stopped_park h.1]

end

/-! ### Tile loads -/

/-- Looking up leaves changes the translation directory alone. -/
theorem looks_changes (s : State) (w : Who) (vas : List Word) :
    ∃ d, s.looks w vas = { s with xlat := { s.xlat with tdir := d } } := by
  induction vas generalizing s with
  | nil => exact ⟨s.xlat.tdir, rfl⟩
  | cons va vas ih =>
    obtain ⟨d, hd⟩ := ih (s.looks w [va])
    exact ⟨d, hd⟩

theorem looks_mxLen (s : State) (w : Who) (vas : List Word) (core : Nat) : (s.looks w vas).mxLen core = s.mxLen core := by
  obtain ⟨d, hd⟩ := looks_changes s w vas
  rw [hd]
  rfl

theorem looks_cur (s : State) (w : Who) (vas : List Word) : (s.looks w vas).cur = s.cur := by
  obtain ⟨d, hd⟩ := looks_changes s w vas
  rw [hd]

section
variable {s t : State} {w : Warp} {d : TReg} {a b : SReg} {e : BitVec 512} {cell : Nat}

/-- A tile load that its shape or its tensor's format forbids. -/
theorem mxLdt_badFormat (h : Claims.Issues s w { reads := [a.val, b.val] })
    (he : s.needTid64 (s.wgOf w) (w.sget a) = .ok e) (hd : d.val < (s.wgOf w).tiles)
    (hbad : shRows ((s.wgOf w).mxr (0x040 + d.val)) = 0 ∨ teFormat e ≠ shFmt ((s.wgOf w).mxr (0x040 + d.val))) :
    execMxLdt d a b s = .next (s.stopped s.cur w.pc (.trap { cause := 0x10 })) := by
  have hno : (shRows ((s.wgOf w).mxr (0x040 + d.val)) != 0 &&
      teFormat e == shFmt ((s.wgOf w).mxr (0x040 + d.val))) = false := by
    rw [Bool.and_eq_false_iff, bne_eq_false_iff_eq, beq_eq_false_iff_ne]
    exact hbad
  refine scalarOp_error h ?_
  simp only [he, ok_bind, needTile_ok hd, hno, need_false, error_bind]
  rfl

/-- The tile registers that a tile load changes at issue (R391). -/
def Workgroup.loadsTile (g : Workgroup) (d : TReg) (f : Nat) (e : BitVec 512) : Workgroup :=
  (g.setMxr (0x040 + d.val) (setField (g.mxr (0x040 + d.val)) 31 16 (teDesc e))).setMxr (0x050 + d.val)
    (if f = 14 then BitVec.ofNat 64 (teAux e) else 0)

section
variable {sh : Word} (h : Claims.Issues s w { reads := [a.val, b.val] })
  (he : s.needTid64 (s.wgOf w) (w.sget a) = .ok e) (hd : d.val < (s.wgOf w).tiles)
  (hsh : (s.wgOf w).mxr (0x040 + d.val) = sh) (hrows : shRows sh ≠ 0) (hfmt : teFormat e = shFmt sh)
  (hsparse : teSparse e = true → shCols sh % 4 = 0) (hblock : fmtBlock (shFmt sh) = true → rec64 e 47 1 / 2 % 4 = shBlock sh)
include h he hd hsh hrows hfmt hsparse hblock

theorem mxLdt_misaligned (hbits : (tileOff e (w.sget b).toNat).2 % fmtBits (shFmt sh) ≠ 0) :
    execMxLdt d a b s = .next (s.stopped s.cur w.pc (.trap { cause := 0x11, addr := w.sget b })) := by
  have hform : (shRows sh != 0 && teFormat e == shFmt sh) = true := by simp [hrows, hfmt]
  have hsp : (!teSparse e || shCols sh % 4 == 0) = true := by simpa [Bool.or_eq_true, imp_iff_not_or] using hsparse
  have hbl : (!fmtBlock (shFmt sh) || rec64 e 47 1 / 2 % 4 == shBlock sh) = true := by
    simpa [Bool.or_eq_true, imp_iff_not_or] using hblock
  have hno : ((tileOff e (w.sget b).toNat).2 % fmtBits (shFmt sh) == 0) = false := beq_eq_false_iff_ne.2 hbits
  refine scalarOp_error h ?_
  simp only [he, ok_bind, needTile_ok hd, hsh, hform, hsp, hbl, need_true, hno, need_false, error_bind]
  rfl

/-- A tile load enters the queue once its rows pass their checks. -/
theorem mxLdt_enters (hbits : (tileOff e (w.sget b).toNat).2 % fmtBits (shFmt sh) = 0)
    (hcol4 : teSparse e = true →
      (tileOff e (w.sget b).toNat).2 / fmtBits (shFmt sh) * (if teSparse e then 2 else 1) % 4 = 0)
    (hcolb : fmtBlock (shFmt sh) = true →
      (tileOff e (w.sget b).toNat).2 / fmtBits (shFmt sh) * (if teSparse e then 2 else 1) % teBlock e = 0)
    {rows : List Nat} {n : Nat}
    (hrs : rows = (List.range (shRows sh)).map fun i =>
      rowVa e ((tileOff e (w.sget b).toNat).1 + i) ((tileOff e (w.sget b).toNat).2 / 8))
    (hn : n = ((if teSparse e then shCols sh / 2 else shCols sh) * fmtBits (shFmt sh) + 7) / 8)
    (hcheck : s.tileRows (s.wgOf w) .mxFetch false (teBase e) rows n = .ok ())
    (hroom : s.mxLen (s.wgOf w).core < mxCap)
    (hr : (s.looks (s.whoOf (s.wgOf w)) (tileVas (teBase e) rows n)).release s.cur (s.wgOf w).core 3 = .ok t) :
    execMxLdt d a b s = .next ((t.modWg w.wg fun g => g.loadsTile d (shFmt sh) e).mxQueued
      (({ MxOp.blank with kind := .ldt, d := d.val, off := w.sget b, tid := (w.sget a).setWidth 32, entry := e
                          shA := sh } : MxOp).issuedBy s.cur w.wg (s.wgOf w))).advance := by
  have hform : (shRows sh != 0 && teFormat e == shFmt sh) = true := by simp [hrows, hfmt]
  have hsp : (!teSparse e || shCols sh % 4 == 0) = true := by simpa [Bool.or_eq_true, imp_iff_not_or] using hsparse
  have hbl : (!fmtBlock (shFmt sh) || rec64 e 47 1 / 2 % 4 == shBlock sh) = true := by
    simpa [Bool.or_eq_true, imp_iff_not_or] using hblock
  have hb : ((tileOff e (w.sget b).toNat).2 % fmtBits (shFmt sh) == 0) = true := beq_iff_eq.2 hbits
  have hc4 : (!teSparse e ||
      (tileOff e (w.sget b).toNat).2 / fmtBits (shFmt sh) * (if teSparse e then 2 else 1) % 4 == 0) = true := by
    rw [Bool.or_eq_true, Bool.not_eq_true', beq_iff_eq, ← Bool.not_eq_true]
    exact imp_iff_not_or.1 hcol4
  have hcb : (!fmtBlock (shFmt sh) ||
      (tileOff e (w.sget b).toNat).2 / fmtBits (shFmt sh) * (if teSparse e then 2 else 1) % teBlock e == 0) = true := by
    rw [Bool.or_eq_true, Bool.not_eq_true', beq_iff_eq, ← Bool.not_eq_true]
    exact imp_iff_not_or.1 hcolb
  rw [← looks_mxLen s (s.whoOf (s.wgOf w)) (tileVas (teBase e) rows n)] at hroom
  refine scalarOp_ok h ?_
  simp only [he, ok_bind, needTile_ok hd, hsh, hform, hsp, hbl, need_true, hb, hc4, hcb, Bool.and_self, ← hrs, ← hn, hcheck,
    looks_cur]
  exact enqueue_ok (fx := fun s => s.modWg w.wg fun g => g.loadsTile d (shFmt sh) e) hroom hr

end

theorem mxLds_badFormat (h : Claims.Issues s w { reads := [a.val] }) (ha : (w.sget a).toNat % 16 = 0)
    (hd : d.val < (s.wgOf w).tiles) (hbad : shRows ((s.wgOf w).mxr (0x040 + d.val)) = 0) :
    execMxLds d a s = .next (s.stopped s.cur w.pc (.trap { cause := 0x10 })) := by
  refine scalarOp_error h ?_
  simp only [aligned_ok ha, needTile_ok hd, ok_bind, hbad, bne_self_eq_false, need_false, error_bind]
  rfl

theorem mxLds_enters {sh : Word} (h : Claims.Issues s w { reads := [a.val] }) (ha : (w.sget a).toNat % 16 = 0)
    (hd : d.val < (s.wgOf w).tiles) (hsh : (s.wgOf w).mxr (0x040 + d.val) = sh) (hrows : shRows sh ≠ 0)
    (hcell : s.spCell (s.wgOf w) (w.sget a) (shRows sh * (ldsRow sh + ldsScales sh)) = .ok cell)
    (hroom : s.mxLen (s.wgOf w).core < mxCap) (hr : s.release s.cur (s.wgOf w).core 3 = .ok t) :
    execMxLds d a s = .next (t.mxQueued (({ MxOp.blank with kind := .lds, d := d.val, off := w.sget a
                                                            shA := sh } : MxOp).issuedBy s.cur w.wg (s.wgOf w))).advance := by
  refine scalarOp_enqueues (fx := id) h hroom hr ?_
  simp only [aligned_ok ha, needTile_ok hd, ok_bind, hsh, bne_iff_ne.2 hrows, need_true, hcell]

end

end Sys2Proof.Machine

namespace Sys2Proof.Claims
open Sys2Proof.Machine

section
variable {s t : State} {w : Warp} {d x y : TReg} {c : CReg} {n : Fin 64} {z : Word × Word × Word}

theorem zeroT_results (h : Claims.Issues s w {}) :
    (¬d.val < (s.wgOf w).tiles → execMxZeroT d s = .next (s.stopped s.cur w.pc (.trap { cause := 0x13, reason := 3 }))) ∧
    (s.mxLen (s.wgOf w).core < mxCap → s.release s.cur (s.wgOf w).core 3 = .ok t → d.val < (s.wgOf w).tiles →
      execMxZeroT d s = .next (t.mxQueued (({ MxOp.blank with kind := .zeroT, d := d.val } : MxOp).issuedBy
        s.cur w.wg (s.wgOf w))).advance) ∧
    (mxCap ≤ s.mxLen (s.wgOf w).core → d.val < (s.wgOf w).tiles →
      execMxZeroT d s = .next (s.setWarp s.cur { w with park := .engine })) := by
  refine ⟨fun hd => scalarOp_error h ?_, fun hroom hr hd => scalarOp_enqueues (fx := id) h hroom hr ?_,
    fun hroom hd => scalarOp_queueFull h hroom (fx := id) (o := { MxOp.blank with kind := .zeroT, d := d.val }) ?_⟩
  · simp only [needTile_error hd, error_bind]
  · simp only [needTile_ok hd, ok_bind]
  · simp only [needTile_ok hd, ok_bind]

/-- What a change of a workgroup reads of it may be read before. -/
theorem modWg_reads {α : Type} (t : State) (i : Nat) (f : Workgroup → α → Workgroup) (k : Workgroup → α) :
    (t.modWg i fun g => f g (k g)) = t.modWg i fun g => f g (k (t.wg i)) := rfl

theorem zeroC_results (h : Claims.Issues s w {}) :
    (¬c.val < (s.wgOf w).accs → execMxZeroC c s = .next (s.stopped s.cur w.pc (.trap { cause := 0x13, reason := 3 }))) ∧
    (s.mxLen (s.wgOf w).core < mxCap → s.release s.cur (s.wgOf w).core 3 = .ok t → c.val < (s.wgOf w).accs →
      execMxZeroC c s = .next (((t.modWg w.wg fun g => g.setMxr (0x060 + c.val)
        (cmodeWord (cMode ((t.wg w.wg).mxr (0x060 + c.val))) 0)).mxQueued
          (({ MxOp.blank with kind := .zeroC, d := c.val } : MxOp).issuedBy s.cur w.wg (s.wgOf w)))).advance) := by
  refine ⟨fun hc => scalarOp_error h ?_, fun hroom hr hc => ?_⟩
  · simp only [needAcc_error hc, error_bind]
  rw [← modWg_reads t w.wg (fun g v => g.setMxr (0x060 + c.val) (cmodeWord v 0)) fun g => cMode (g.mxr (0x060 + c.val))]
  refine scalarOp_enqueues
    (fx := fun s => s.modWg w.wg fun g => g.setMxr (0x060 + c.val) (cmodeWord (cMode (g.mxr (0x060 + c.val))) 0))
    h hroom hr ?_
  simp only [needAcc_ok hc, ok_bind]

theorem mode_results (h : Claims.Issues s w {}) :
    (2 ≤ n.val → execMxMode c n s = .next (s.stopped s.cur w.pc (.trap { cause := 0x01 }))) ∧
    (s.mxLen (s.wgOf w).core < mxCap → s.release s.cur (s.wgOf w).core 3 = .ok t → c.val < (s.wgOf w).accs → n.val < 2 →
      execMxMode c n s = .next (((t.modWg w.wg fun g => g.setMxr (0x060 + c.val) (cmodeWord (n.val == 1) 0)).mxQueued
        (({ MxOp.blank with kind := .mode, d := c.val } : MxOp).issuedBy s.cur w.wg (s.wgOf w)))).advance) := by
  refine ⟨fun hn => scalarOp_error h ?_, fun hroom hr hc hn => scalarOp_enqueues
    (o := { MxOp.blank with kind := .mode, d := c.val })
    (fx := fun s => s.modWg w.wg fun g => g.setMxr (0x060 + c.val) (cmodeWord (n.val == 1) 0)) h hroom hr ?_⟩
  · have hno : ¬n.val ≤ 1 := by omega
    simp only [decide_eq_false hno, need_false, error_bind]
    rfl
  · have hle : n.val ≤ 1 := by omega
    simp only [decide_eq_true hle, need_true, ok_bind, needAcc_ok hc]

/-- The entry of a multiply, and what its issue changes (R396). -/
theorem mma_results (h : Claims.Issues s w {}) :
    (s.mxLen (s.wgOf w).core < mxCap → s.release s.cur (s.wgOf w).core 3 = .ok t → mmaCheck (s.wgOf w) c x y = .ok z →
      execMxMma c x y s = .next ((if z.2.2 = 0 then t
          else t.modWg w.wg fun g => g.setMxr (0x060 + c.val) (cmodeWord true z.2.2.toNat)).mxQueued
        (({ MxOp.blank with kind := .mma, d := c.val, a := x.val, b := y.val, shA := z.1, shB := z.2.1
                            mode := z.2.2 } : MxOp).issuedBy s.cur w.wg (s.wgOf w))).advance) ∧
    (mxCap ≤ s.mxLen (s.wgOf w).core → mmaCheck (s.wgOf w) c x y = .ok z →
      execMxMma c x y s = .next (s.setWarp s.cur { w with park := .engine })) ∧
    (∀ e, mmaCheck (s.wgOf w) c x y = .error e → execMxMma c x y s = .next (s.stopped s.cur w.pc e)) := by
  refine ⟨fun hroom hr hz => ?_, fun hroom hz => ?_, fun e hz => scalarOp_error h ?_⟩
  · refine scalarOp_enqueues (fx := fun s => if z.2.2 = 0 then s
      else s.modWg w.wg fun g => g.setMxr (0x060 + c.val) (cmodeWord true z.2.2.toNat)) h hroom hr ?_
    simp only [hz, ok_bind, State.queueMma]
  · rw [execMxMma, scalarOp_error h (e := .park .engine s), stopped_park h.1]
    simp only [hz, ok_bind, State.queueMma]
    exact enqueue_full hroom
  · simp only [hz, error_bind]

end

end Sys2Proof.Claims

open Sys2Proof.Machine Sys2Proof.Claims in
/-- Settles O41: each tensor instruction's checks, then its entry with the values at issue behind a cluster release. -/
theorem matrixQueueResults : Obligations.MatrixQueueResults := by
  intro s t w d x y c a b n e z cell
  refine ⟨fun h => ?_, fun h he hd => ⟨fun hbad => mxLdt_badFormat h he hd hbad, fun hrows hfmt hsparse hblock =>
    ⟨fun hb => mxLdt_misaligned h he hd rfl hrows hfmt hsparse hblock hb, fun hb hc4 hcb hcheck hroom hr =>
      mxLdt_enters h he hd rfl hrows hfmt hsparse hblock hb hc4 hcb rfl rfl hcheck hroom hr⟩⟩,
    fun h ha hd => ⟨fun hbad => mxLds_badFormat h ha hd hbad, fun hrows hcell hroom hr =>
      mxLds_enters h ha hd rfl hrows hcell hroom hr⟩⟩
  obtain ⟨hbadT, hT, hfullT⟩ := zeroT_results (t := t) (d := d) h
  obtain ⟨hbadC, hC⟩ := zeroC_results (t := t) (c := c) h
  obtain ⟨hbadN, hN⟩ := mode_results (t := t) (c := c) (n := n) h
  obtain ⟨hM, hfullM, hbadM⟩ := mma_results (t := t) (c := c) (x := x) (y := y) (z := z) h
  exact ⟨hbadT, hbadC, hbadN, fun hroom hr => ⟨hT hroom hr, fun hc => ⟨hC hroom hr hc, hN hroom hr hc⟩, hM hroom hr⟩,
    hfullT, hfullM, hbadM⟩

end

section
/-! PROOFS. Gangs and the rendezvous latch (R226-R228, R397, R398). -/

namespace Sys2Proof.Machine

/-! ### MX.GANG (R397) -/

/-- Another warp of the workgroup holds the index, or counts the gang's members otherwise (R397). -/
def State.gangClash (s : State) (wi gi n m : Nat) : Bool :=
  (s.warpsOf wi).any fun i => match s.warp? i with
    | some v => i != s.cur && (match v.gang with
      | some y => y.g == gi && (y.m == m || y.n != n)
      | none => false)
    | none => false

/-- The gang a warp leaves is dissolved (R397). -/
def State.leaveGang (s : State) (w : Warp) : State :=
  match w.gang with
  | some y => s.dissolve w.wg y.g
  | none => s

section
variable {s t u : State} {w : Warp} {gi n m : Fin 64} {c : CReg} {a b : TReg} {z : GangSet} {x : Word × Word × Word}

theorem mxGang_illegal (h : Claims.Issues s w {})
    (hno : ¬(gi.val ≤ 3 ∧ 2 ≤ n.val ∧ n.val ≤ 6 ∧ m.val < n.val)) :
    execMxGang gi n m s = .next (s.stopped s.cur w.pc (.trap { cause := 0x01 })) := by
  refine scalarOp_error h ?_
  simp only [decide_eq_false hno, need_false, error_bind]
  rfl

theorem mxGang_clash (h : Claims.Issues s w {}) (hok : gi.val ≤ 3 ∧ 2 ≤ n.val ∧ n.val ≤ 6 ∧ m.val < n.val)
    (hc : s.gangClash w.wg gi.val n.val m.val = true) :
    execMxGang gi n m s = .next (s.stopped s.cur w.pc (.trap { cause := 0x05 })) := by
  refine scalarOp_error h ?_
  rw [decide_eq_true hok, need_true, ok_bind]
  exact (congrArg (fun b => need (!b) gangMismatch >>= _) hc).trans rfl

theorem mxGang_joins (h : Claims.Issues s w {}) (hok : gi.val ≤ 3 ∧ 2 ≤ n.val ∧ n.val ≤ 6 ∧ m.val < n.val)
    (hc : s.gangClash w.wg gi.val n.val m.val = false) :
    execMxGang gi n m s = .next ((s.leaveGang w).modWarp s.cur fun w => { w with
      gang := some { g := gi.val, n := n.val, m := m.val, seq := 0 } }).advance := by
  refine scalarOp_ok h ?_
  rw [decide_eq_true hok, need_true, ok_bind]
  refine (congrArg (fun b => need (!b) gangMismatch >>= _) hc).trans ?_
  unfold State.leaveGang
  cases w.gang <;> rfl

/-! ### MX.MMAG (R398) -/

/-- The state in which a member has arrived (R226). -/
def State.arrives (s : State) (wi gang : Nat) (y : Arrival) : State :=
  (s.modWg wi fun g => { g with arrivals := g.arrivals ++ [(gang, y)] }).modWarp s.cur fun w => { w with park := .latch }

theorem arrives_warp? {wi gang i : Nat} {y : Arrival} (hi : i ≠ s.cur) :
    (s.arrives wi gang y).warp? i = s.warp? i :=
  (State.modWarp_warp?_ne _ _ _ _ hi.symm).trans rfl

/-- The others of a gang stand at the latch: each is live and parked there. -/
def State.othersWait (s : State) (l : List Arrival) : Prop :=
  ∀ v ∈ l, ∃ k, s.warp? v.warp = some k ∧ k.live = true ∧ k.park = .latch

theorem arrives_atLatch {wi gang : Nat} {l : List Arrival} {y : Arrival} (hy : y.warp = s.cur)
    (hl : ∀ v ∈ l, v.warp ≠ s.cur) :
    (l ++ [y]).all (s.arrives wi gang y).atLatch = true ↔ s.othersWait l := by
  rw [List.all_append, Bool.and_eq_true, List.all_eq_true]
  have hcur : (s.arrives wi gang y).cur = s.cur := rfl
  have hself : [y].all (s.arrives wi gang y).atLatch = true := by simp [State.atLatch, hy, hcur]
  refine (and_iff_left hself).trans (forall₂_congr fun v hv => ?_)
  rw [State.atLatch, arrives_warp? (hl v hv), hcur, beq_eq_false_iff_ne.2 (hl v hv), Bool.false_or]
  cases s.warp? v.warp <;> simp

theorem latch_others {g : Workgroup} {gang cur : Nat} (hno : ∀ y ∈ g.arrivals, y.2.warp ≠ cur) :
    ∀ v ∈ g.latch gang, v.warp ≠ cur := by
  intro v hv
  obtain ⟨y, hy, rfl⟩ := List.mem_map.1 hv
  exact hno y (List.mem_of_mem_filter hy)

theorem here_none {g : Workgroup} {cur : Nat} (hno : ∀ y ∈ g.arrivals, y.2.warp ≠ cur) :
    g.arrivals.find? (fun x => x.2.warp == cur) = none :=
  List.find?_eq_none.2 fun y hy => by simpa using hno y hy

theorem gangComplete_iff {wi gang k : Nat} {l : List Arrival} {y : Arrival} (hy : y.warp = s.cur)
    (hl : ∀ v ∈ l, v.warp ≠ s.cur) :
    (s.arrives wi gang y).gangComplete k (l ++ [y]) = true ↔ k ≤ (l ++ [y]).length ∧ s.othersWait l := by
  rw [State.gangComplete, Bool.and_eq_true, decide_eq_true_eq, arrives_atLatch hy hl]

/-- Every member of a gang past its multiply, its sequence one further (R227). -/
def State.freeGang (s : State) (l : List Arrival) : State :=
  l.foldl (fun r v => r.modWarp v.warp fun w =>
    { w with pc := w.pc + 4, park := .run, gang := w.gang.map fun k => { k with seq := k.seq + 1 } }) s

theorem rendezvous_mismatch {wi gang : Nat} {l : List Arrival} {y : Arrival}
    (hbad : ∃ v ∈ l ++ [y], v.ops ≠ y.ops) :
    s.rendezvous wi gang (l ++ [y]) = .ok (s.modWg wi fun g => { g with arrivals := g.arrivals.map fun v =>
      if v.1 = gang then (v.1, { v.2 with bad := true }) else v }) := by
  have hno : ((l ++ [y]).all fun v => v.ops == y.ops) = false := by
    obtain ⟨v, hv, hne⟩ := hbad
    exact List.all_eq_false.2 ⟨v, hv, by simpa using hne⟩
  simp only [State.rendezvous, List.getLast?_concat, hno, Bool.false_eq_true, if_false, pure_eq_ok]

theorem rendezvous_together {wi gang : Nat} {l : List Arrival} {y : Arrival} {v : State}
    (hall : ∀ v ∈ l ++ [y], v.ops = y.ops)
    (hq : s.queueMma y.warp wi (s.wg wi) y.ops.1 y.ops.2.1 y.ops.2.2 y.shapes = .ok v) :
    s.rendezvous wi gang (l ++ [y]) = .ok ((v.modWg wi fun g =>
      { g with arrivals := g.arrivals.filter fun a => a.1 != gang || a.2.bad }).freeGang (l ++ [y])) := by
  have hyes : ((l ++ [y]).all fun v => v.ops == y.ops) = true :=
    List.all_eq_true.2 fun v hv => by simpa using hall v hv
  simp only [State.rendezvous, List.getLast?_concat, hyes, if_true, hq, ok_bind, pure_eq_ok]
  rfl

section
variable (h : Claims.Issues s w {}) (hno : ∀ y ∈ (s.wgOf w).arrivals, y.2.warp ≠ s.cur)
include h hno

theorem mxMmag_orphan (hg : w.gang = none) (hp : w.park ≠ .latch) (hx : mmaCheck (s.wgOf w) c a b = .ok x) :
    execMxMmag c a b s = .next (s.stopped s.cur w.pc (.trap { cause := 0x06 })) := by
  refine controlOp_error h ?_
  simp only [here_none hno, Option.any_none, Bool.false_eq_true, if_false, hg, bne_iff_ne.2 hp, need_true, ok_bind, hx]
  rfl

section
variable {y : Arrival} (hg : w.gang = some z) (hx : mmaCheck (s.wgOf w) c a b = .ok x)
  (hy : y = { warp := s.cur, m := z.m, seq := z.seq, ops := (c.val, a.val, b.val), shapes := x, bad := false })
include hg hx hy

theorem mxMmag_waits (hwait : ((s.wgOf w).latch z.g ++ [y]).length < z.n ∨ ¬s.othersWait ((s.wgOf w).latch z.g)) :
    execMxMmag c a b s = .next (s.arrives w.wg z.g y) := by
  have hinc : (s.arrives w.wg z.g y).gangComplete z.n ((s.wgOf w).latch z.g ++ [y]) = false := by
    rw [← Bool.not_eq_true, gangComplete_iff (by rw [hy]) (latch_others hno), not_and_or, Nat.not_le]
    exact hwait
  refine controlOp_ok h ?_
  simp only [here_none hno, Option.any_none, Bool.false_eq_true, if_false, hg, hx, ok_bind, ← hy]
  exact if_neg (Bool.eq_false_iff.1 hinc)

/-- The last member's rendezvous is its outcome, where it can take place. -/
theorem mxMmag_completes {v : State} (hn : z.n ≤ ((s.wgOf w).latch z.g ++ [y]).length)
    (hhere : s.othersWait ((s.wgOf w).latch z.g))
    (hv : (s.arrives w.wg z.g y).rendezvous w.wg z.g ((s.wgOf w).latch z.g ++ [y]) = .ok v) :
    execMxMmag c a b s = .next v := by
  have hcomp : (s.arrives w.wg z.g y).gangComplete z.n ((s.wgOf w).latch z.g ++ [y]) = true :=
    (gangComplete_iff (by rw [hy]) (latch_others hno)).2 ⟨hn, hhere⟩
  refine controlOp_ok h ?_
  simp only [here_none hno, Option.any_none, Bool.false_eq_true, if_false, hg, hx, ok_bind, ← hy]
  unfold State.arrives at hcomp hv
  rw [if_pos hcomp, hv]
  rfl

end

end

end

end Sys2Proof.Machine

open Sys2Proof.Machine in
/-- Settles O42: MX.GANG's checks and membership, and what a member's arrival at the latch comes to. -/
theorem gangResults : Obligations.GangResults := by
  intro s u w gi n m c a b z x
  dsimp only
  intro h
  refine ⟨mxGang_illegal h, mxGang_clash h, mxGang_joins h, fun hno => ⟨mxMmag_orphan h hno, fun hg hx => ⟨?_, ?_, ?_⟩⟩⟩
  · exact mxMmag_waits h hno hg hx rfl
  · intro hn hhere hbad
    exact mxMmag_completes h hno hg hx rfl hn hhere (rendezvous_mismatch hbad)
  · intro hn hhere hall hroom hr
    refine mxMmag_completes h hno hg hx rfl hn hhere (rendezvous_together hall ?_)
    exact enqueue_ok hroom hr

end

section
/-! PROOFS. MX.DRAIN at issue (R399), WIT.SEED and WIT.EMIT (R405). -/

namespace Sys2Proof.Machine

section
variable {s t u : State} {w : Warp} {c : CReg} {a b : SReg} {e : BitVec 512} {r : Option (BitVec 512)} {k : Dctl}
  {g : Workgroup}

/-! ### MX.DRAIN -/

theorem mxDrain_range (h : Claims.Issues s w { reads := [a.val, b.val] }) (hc : ¬c.val < (s.wgOf w).accs) :
    execMxDrain c a b s = .next (s.stopped s.cur w.pc (.trap { cause := 0x13, reason := 3 })) := by
  refine scalarOp_error h ?_
  simp only [needAcc_error hc, error_bind]

/-- The residual's entry that a drain takes at issue (R399). -/
def State.drainResidual (s : State) (g : Workgroup) (c : CReg) : Except Stop (Option (BitVec 512)) :=
  if (dctlOf (g.mxr (0x064 + c.val))).resid then (s.needTid g (field (g.mxr (0x068 + c.val)) 31 0)).map some else .ok none

/-- A drain with a residual has its entry, and one without has none. -/
theorem drainResidual_ok (hk : dctlOf (g.mxr (0x064 + c.val)) = k) (hr : s.drainResidual g c = .ok r) :
    (k.resid = true ∧ ∃ re, s.needTid g (field (g.mxr (0x068 + c.val)) 31 0) = .ok re ∧ r = some re) ∨
    (k.resid = false ∧ r = none) := by
  rw [State.drainResidual, hk] at hr
  cases hres : k.resid with
  | true =>
    rw [hres, if_pos rfl] at hr
    cases hn : s.needTid g (field (g.mxr (0x068 + c.val)) 31 0) with
    | ok re =>
      rw [hn] at hr
      exact .inl ⟨rfl, re, rfl, (Except.ok.inj hr).symm⟩
    | error e =>
      rw [hn] at hr
      cases hr
  | false =>
    rw [hres, if_neg Bool.false_ne_true] at hr
    exact .inr ⟨rfl, (Except.ok.inj hr).symm⟩

/-- A drain's controls and formats are in order (R387, R399). -/
def Workgroup.drainLegal (g : Workgroup) (c : CReg) (e : BitVec 512) (r : Option (BitVec 512)) : Bool :=
  drainOk (dctlOf (g.mxr (0x064 + c.val))) (g.mxr (0x064 + c.val)) (cMode (g.mxr (0x060 + c.val))) (cQ (g.mxr (0x060 + c.val)))
    e r

section
variable (h : Claims.Issues s w { reads := [a.val, b.val] }) (hc : c.val < (s.wgOf w).accs)
  (he : s.needTid64 (s.wgOf w) (w.sget a) = .ok e) (hr : s.drainResidual (s.wgOf w) c = .ok r)
include h hc he hr

theorem mxDrain_badFormat (hbad : (s.wgOf w).drainLegal c e r = false) :
    execMxDrain c a b s = .next (s.stopped s.cur w.pc (.trap { cause := 0x10 })) := by
  unfold Workgroup.drainLegal at hbad
  obtain ⟨hres, re, hre, rfl⟩ | ⟨hres, rfl⟩ := drainResidual_ok rfl hr
  · refine scalarOp_error h ?_
    simp only [needAcc_ok hc, ok_bind, he, hres, if_true, hre, Except.map, hbad, need_false, error_bind]
    rfl
  · refine scalarOp_error h ?_
    simp only [needAcc_ok hc, ok_bind, he, hres, Bool.false_eq_true, if_false, hbad, need_false, error_bind]
    rfl

section
variable {width : Nat} {slot : ProjSlot} {cls : Nat} (hk : dctlOf ((s.wgOf w).mxr (0x064 + c.val)) = k)
  (hok : (s.wgOf w).drainLegal c e r = true) (hwidth : fmtBits k.out = width) (hslot : (s.wgOf w).pslot k.slot = slot)
  (hcls : projClass (cMode ((s.wgOf w).mxr (0x060 + c.val))) k = cls)
  (hproj : k.proj = true → slot.issued = 0 ∨ slot.issuedCls = 0 ∨ slot.issuedCls = cls)
include hk hok hwidth hslot hcls hproj

theorem mxDrain_misaligned
    (hno : ¬((tileOff e (w.sget b).toNat).2 % width = 0 ∧
      (fmtBlock k.out = true → (tileOff e (w.sget b).toNat).2 / width % teBlock e = 0))) :
    execMxDrain c a b s = .next (s.stopped s.cur w.pc (.trap { cause := 0x11, addr := w.sget b })) := by
  have hb : ((tileOff e (w.sget b).toNat).2 % width == 0 &&
      (!fmtBlock k.out || (tileOff e (w.sget b).toNat).2 / width % teBlock e == 0)) = false := by
    rw [Bool.eq_false_iff]
    intro hyes
    rw [Bool.and_eq_true, Bool.or_eq_true, Bool.not_eq_true', beq_iff_eq, beq_iff_eq, ← Bool.not_eq_true,
      ← imp_iff_not_or] at hyes
    exact hno hyes
  have hp : (!k.proj || slot.issued == 0 || slot.issuedCls == 0 || slot.issuedCls == cls) = true := by
    cases hpr : k.proj with
    | false => rfl
    | true => simpa [or_assoc] using hproj hpr
  unfold Workgroup.drainLegal at hok
  rw [hk] at hok
  obtain ⟨hres, re, hre, rfl⟩ | ⟨hres, rfl⟩ := drainResidual_ok hk hr
  · refine scalarOp_error h ?_
    simp only [needAcc_ok hc, ok_bind, he, hk, hres, if_true, hre, Except.map, hok, need_true, hwidth, hslot, hcls, hp, hb,
      need_false, error_bind]
    rfl
  · refine scalarOp_error h ?_
    simp only [needAcc_ok hc, ok_bind, he, hk, hres, Bool.false_eq_true, if_false, hok, need_true, hwidth, hslot, hcls, hp,
      hb, need_false, error_bind]
    rfl

/-- The rows of a drain's destination or residual. -/
def drainRows (e : BitVec 512) (off n : Nat) : List Nat :=
  (List.range n).map fun i => rowVa e ((tileOff e off).1 + i) ((tileOff e off).2 / 8)

/-- What a drain looks up: the rows of its destination, and of its residual where it has one. -/
def drainLooks (e : BitVec 512) (r : Option (BitVec 512)) (rows rrows : List Nat) (n rn : Nat) : List Word :=
  tileVas (teBase e) rows n ++ if r.isSome then tileVas (teBase (r.getD 0)) rrows rn else []

/-- What the issue of a drain changes: its sectors are posted, and its slot keeps its class (R399, R409). -/
def State.drainIssues (s : State) (wgi core : Nat) (loc : LandLoc) (sectors : Nat) (k : Dctl) (slot : ProjSlot)
    (cls : Nat) : State :=
  if k.proj = true ∧ slot.issued ≠ 0 then
    (s.landUpdate core loc fun l => l.post sectors).modWg wgi fun g =>
      g.setSlot k.slot { g.pslot k.slot with issuedCls := cls }
  else s.landUpdate core loc fun l => l.post sectors

/-- The queue entry of a drain (R399). -/
def drainEntry (w : Warp) (g : Workgroup) (c : CReg) (a b : SReg) (e re : BitVec 512) (k : Dctl) : MxOp :=
  { MxOp.blank with
    kind := .drain, d := c.val, off := w.sget b, tid := (w.sget a).setWidth 32, entry := e
    rtid := BitVec.ofNat 32 (field (g.mxr (0x068 + c.val)) 31 0), rentry := re, mode := g.mxr (0x060 + c.val)
    dctl := g.mxr (0x064 + c.val), dres := g.mxr (0x068 + c.val), dland := g.mxr (0x06C + c.val), key := g.mxr 0x070
    rnd := BitVec.ofNat 3 (if k.rnd = 5 then field w.arithCtl 18 16 else k.rnd) }

theorem mxDrain_enters {land : Word} {loc : LandLoc} {rows rrows : List Nat} {n rn : Nat}
    (hwhole : (tileOff e (w.sget b).toNat).2 % width = 0 ∧
      (fmtBlock k.out = true → (tileOff e (w.sget b).toNat).2 / width % teBlock e = 0))
    (hrwhole : r.isSome = true →
      (tileOff (r.getD 0) (field ((s.wgOf w).mxr (0x068 + c.val)) 63 32)).2 % fmtBits (teFormat (r.getD 0)) = 0)
    (hland : (s.wgOf w).mxr (0x06C + c.val) = land) (hland16 : land = 0 ∨ field land 31 0 % 16 = 0)
    (hcert : (s.wgOf w).cert = true → landIsGlobal land = false) (hloc : s.landOpt (s.wgOf w) land = .ok (loc, t))
    (hrows : rows = drainRows e (w.sget b).toNat k.rows) (hn : n = rowLen k.cols width)
    (hrrows : rrows = drainRows (r.getD 0) (field ((s.wgOf w).mxr (0x068 + c.val)) 63 32) k.rows)
    (hrn : rn = rowLen k.cols (fmtBits (teFormat (r.getD 0))))
    (hcheck : t.tileRows (s.wgOf w) .mxDrain true (teBase e) rows n = .ok ())
    (hrcheck : r.isSome = true → t.tileRows (s.wgOf w) .mxFetch false (teBase (r.getD 0)) rrows rn = .ok ())
    (hrule : t.projRule (s.wgOf w) k e = .ok ())
    (hconf : t.certDrain (s.wgOf w) k e ((s.wgOf w).mxr (0x068 + c.val)) (tileOff e (w.sget b).toNat).1
      ((tileOff e (w.sget b).toNat).2 / width) = .ok ())
    (hroom : t.mxLen (s.wgOf w).core < mxCap)
    (hu : (t.looks (t.whoOf (s.wgOf w)) (drainLooks e r rows rrows n rn)).release t.cur (s.wgOf w).core 3 = .ok u)
    (hcur : t.cur = s.cur) :
    execMxDrain c a b s = .next ((u.drainIssues w.wg (s.wgOf w).core loc
        (rows.foldl (fun n va => n + sectorsOf va (rowLen k.cols width)) 0) k slot cls).mxQueued
      ((drainEntry w (s.wgOf w) c a b e (r.getD 0) k).issuedBy s.cur w.wg (s.wgOf w))).advance := by
  have hb : ((tileOff e (w.sget b).toNat).2 % width == 0 &&
      (!fmtBlock k.out || (tileOff e (w.sget b).toNat).2 / width % teBlock e == 0)) = true := by
    rw [Bool.and_eq_true, Bool.or_eq_true, Bool.not_eq_true', beq_iff_eq, beq_iff_eq, ← Bool.not_eq_true, ← imp_iff_not_or]
    exact hwhole
  have hp : (!k.proj || slot.issued == 0 || slot.issuedCls == 0 || slot.issuedCls == cls) = true := by
    cases hpr : k.proj with
    | false => rfl
    | true => simpa [or_assoc] using hproj hpr
  have hl : (land == 0 || field land 31 0 % 16 == 0) = true := by
    rw [Bool.or_eq_true, beq_iff_eq, beq_iff_eq]
    exact hland16
  have hg : ((s.wgOf w).cert && landIsGlobal land) = false := by
    cases hc : (s.wgOf w).cert with
    | false => rfl
    | true => exact hcert hc
  have hg' : (!(s.wgOf w).cert || !landIsGlobal land) = true := by
    rw [← Bool.not_and, hg]
    rfl
  rw [← looks_mxLen t (t.whoOf (s.wgOf w)) (drainLooks e r rows rrows n rn)] at hroom
  have hend := enqueue_ok (wgi := w.wg) (o := drainEntry w (s.wgOf w) c a b e (r.getD 0) k)
    (fx := fun x => x.drainIssues w.wg (s.wgOf w).core loc
      (rows.foldl (fun n va => n + sectorsOf va (rowLen k.cols width)) 0) k slot cls) hroom hu
  unfold Workgroup.drainLegal at hok
  unfold drainRows at hrows hrrows
  rw [hk] at hok
  rw [hcur] at hend
  subst hland
  obtain ⟨hres, re, hre, rfl⟩ | ⟨hres, rfl⟩ := drainResidual_ok hk hr
  · have hrb := beq_iff_eq.2 (hrwhole rfl)
    refine scalarOp_ok h ?_
    simp only [needAcc_ok hc, ok_bind, he, hk, hres, if_true, hre, Except.map, hok, need_true, hwidth, hslot, hcls, hp, hb,
      hrb, Bool.or_true, hl, hg, hg', Bool.false_eq_true, if_false, hloc, Option.isSome_some, ← hrows, ← hrrows,
      ← hn, ← hrn, hcheck, hrcheck, hrule, hconf, looks_cur, hcur]
    rw [hn] at hend ⊢
    exact hend
  · refine scalarOp_ok h ?_
    simp only [needAcc_ok hc, ok_bind, he, hk, hres, hok, need_true, hwidth, hslot, hcls, hp, hb, Option.isNone_none,
      Bool.true_or, hl, hg, hg', Bool.false_eq_true, if_false, hloc, Option.isSome_none, ← hrows,
      ← hn, hcheck, hrule, hconf, looks_cur, hcur]
    rw [hn] at hend ⊢
    exact hend

end

end

/-! ### WIT.SEED and WIT.EMIT -/

section
variable {x : Word} {pages : Option (List Nat)} {page id : Nat} (h : Claims.Issues s w { reads := [a.val] })
include h

theorem witSeed_badFormat (hf : field (w.sget a) 31 1 ≠ 0) :
    execWitSeed a s = .next (s.stopped s.cur w.pc (.trap { cause := 0x10 })) := by
  refine scalarOp_error h ?_
  simp only [beq_eq_false_iff_ne.2 hf, need_false, error_bind]
  rfl

theorem witSeed_range (hf : field (w.sget a) 31 1 = 0) (ha : (s.wgOf w).accs = 0) :
    execWitSeed a s = .next (s.stopped s.cur w.pc (.trap { cause := 0x13, reason := 3 })) := by
  refine scalarOp_error h ?_
  simp only [hf, beq_self_eq_true, need_true, ok_bind, ha, bne_self_eq_false, need_false, error_bind]
  rfl

theorem witSeed_noGemm (hf : field (w.sget a) 31 1 = 0) (ha : (s.wgOf w).accs ≠ 0) (hg : s.isGemm (s.wgOf w) = false) :
    execWitSeed a s = .next (s.stopped s.cur w.pc (.trap { cause := 0x0C, reason := kState })) := by
  refine scalarOp_error h ?_
  simp only [hf, beq_self_eq_true, need_true, ok_bind, bne_iff_ne.2 ha, hg, need_false, error_bind]
  rfl

theorem witSeed_enters (hf : field (w.sget a) 31 1 = 0) (ha : (s.wgOf w).accs ≠ 0) (hg : s.isGemm (s.wgOf w) = true)
    (he : s.needTid (s.wgOf w) (field (w.sget a) 63 32) = .ok e)
    (hp : s.kilnPages (s.whoOf (s.wgOf w)) .mxDrain e = .ok pages) (hb : s.bindingOf pages = some page)
    (hid : s.recordOf (s.wgOf w) = id) (hid0 : id ≠ 0) (hw : kWitness (s.kpage page) = id)
    (hroom : s.mxLen (s.wgOf w).core < mxCap)
    (ht : (s.looks (s.whoOf (s.wgOf w)) (kilnVas e)).release s.cur (s.wgOf w).core 3 = .ok t) :
    execWitSeed a s = .next ((t.modWg w.wg fun g => g.setSlot (field (w.sget a) 0 0)
        { g.pslot (field (w.sget a) 0 0) with issued := id, issuedCls := 0 }).mxQueued
      (({ MxOp.blank with kind := .seed, d := field (w.sget a) 0 0, off := BitVec.ofNat 64 id } : MxOp).issuedBy
        s.cur w.wg (s.wgOf w))).advance := by
  rw [← looks_mxLen s (s.whoOf (s.wgOf w)) (kilnVas e)] at hroom
  refine scalarOp_ok h ?_
  simp only [hf, beq_self_eq_true, need_true, ok_bind, bne_iff_ne.2 ha, hg, he, hp, hb, hid, bne_iff_ne.2 hid0, hw,
    Bool.and_self, looks_cur]
  exact enqueue_ok (fx := fun s => s.modWg w.wg fun g => g.setSlot (field (w.sget a) 0 0)
    { g.pslot (field (w.sget a) 0 0) with issued := id, issuedCls := 0 }) hroom ht

theorem witEmit_badFormat (hf : field (w.sget a) 63 1 ≠ 0) :
    execWitEmit a s = .next (s.stopped s.cur w.pc (.trap { cause := 0x10 })) := by
  refine scalarOp_error h ?_
  simp only [beq_eq_false_iff_ne.2 hf, need_false, error_bind]
  rfl

theorem witEmit_enters (hf : field (w.sget a) 63 1 = 0) (hroom : s.mxLen (s.wgOf w).core < mxCap)
    (ht : s.release s.cur (s.wgOf w).core 3 = .ok t) :
    execWitEmit a s = .next (t.mxQueued
      (({ MxOp.blank with kind := .emit, d := field (w.sget a) 0 0 } : MxOp).issuedBy s.cur w.wg (s.wgOf w))).advance := by
  refine scalarOp_enqueues (fx := id) h hroom ht ?_
  simp only [hf, beq_self_eq_true, need_true, ok_bind]

end

end

end Sys2Proof.Machine

open Sys2Proof.Machine in
/-- Settles O43: MX.DRAIN's checks and its entry with what it takes at issue, and WIT.SEED and WIT.EMIT. -/
theorem drainAndWitnessResults : Obligations.DrainAndWitnessResults := by
  intro s t u w c a b e r loc pages page
  dsimp only
  refine ⟨fun h => ⟨mxDrain_range h, fun hc he hr => ⟨mxDrain_badFormat h hc he hr, fun hok hproj =>
    ⟨mxDrain_misaligned h hc he hr rfl hok rfl rfl rfl hproj, ?_⟩⟩⟩, fun h => ⟨witSeed_badFormat h, witSeed_range h,
      witSeed_noGemm h, fun hf ha hg he hp hb hid hw hroom ht => witSeed_enters h hf ha hg he hp hb rfl hid hw hroom ht,
      witEmit_badFormat h, witEmit_enters h⟩⟩
  intro hwhole hrwhole hland hcert hloc hcheck hrcheck hrule hconf hroom hu hcur
  have hdrain := mxDrain_enters h hc he hr rfl hok rfl rfl rfl hproj hwhole hrwhole rfl hland hcert hloc rfl rfl rfl rfl
    hcheck hrcheck hrule hconf hroom hu hcur
  unfold State.drainIssues at hdrain
  exact hdrain

end

section
/-! PROOFS. The grant of a lane (R213), the idle tree (R353), and open grains (R70-R72). -/

namespace Sys2Proof.Machine

/-! ### The choice of a warp for a lane -/

/-- The younger of two choices gives way (R213). -/
def elder (age : Nat → Nat) (best : Option Nat) (i : Nat) : Option Nat :=
  match best with
  | none => some i
  | some j => if age i < age j then some i else some j

/-- An entry that is strictly first by age is what the choice ends with. -/
theorem foldl_elder {age : Nat → Nat} {i : Nat} {l : List Nat} {acc : Option Nat} (hin : i ∈ l ∨ acc = some i)
    (hl : ∀ j ∈ l, j ≠ i → age i < age j) (hacc : ∀ j, acc = some j → j ≠ i → age i < age j) :
    l.foldl (elder age) acc = some i := by
  induction l generalizing acc with
  | nil => exact hin.resolve_left (List.not_mem_nil)
  | cons k l ih =>
    have hk := hl k List.mem_cons_self
    refine ih ?_ (fun j hj => hl j (List.mem_cons_of_mem _ hj)) fun j hj hne => ?_
    · by_cases hki : k = i
      · subst hki
        right
        cases acc with
        | none => rfl
        | some j =>
          by_cases hj : j = k
          · rw [hj, elder, if_neg (Nat.lt_irrefl _)]
          · rw [elder, if_pos (hacc j rfl hj)]
      · rcases hin with hin | rfl
        · exact .inl ((List.mem_cons.1 hin).resolve_left (Ne.symm hki))
        · right
          rw [elder, if_neg (Nat.not_lt.2 (Nat.le_of_lt (hk hki)))]
    · cases acc with
      | none =>
        cases hj
        exact hk hne
      | some m =>
        rw [elder] at hj
        split at hj
        · cases hj
          exact hk hne
        · cases hj
          exact hacc _ rfl hne

/-- A warp of a core that may take a lane. -/
def State.laneReady (s : State) (core : Nat) (w : Warp) : Bool :=
  (w.live && (s.wgOf w).core == core && (s.wgOf w).saved.isNone) && !w.lane && !w.blocks.isEmpty &&
    (s.wgOf w).stopping.isNone

/-- The lanes of a core that are held. -/
def State.lanesUsed (s : State) (core : Nat) : Nat :=
  (s.warps.filter fun w => (w.live && (s.wgOf w).core == core && (s.wgOf w).saved.isNone) && w.lane).length

/-- The warps of a core that may take a lane, by index. -/
def State.readyWarps (s : State) (core : Nat) : List Nat :=
  (List.range s.warps.length).filter fun i => match s.warp? i with
    | some w => s.laneReady core w
    | none => false

/-- The age of a warp by index (R213). -/
def State.warpAge (s : State) (i : Nat) : Nat :=
  match s.warp? i with
  | some w => (s.wgOf w).age * 16 + w.idx
  | none => 0

section
variable {s : State} {core i : Nat} {w : Warp}

theorem laneGrant_eq : s.laneGrant core =
    if 32 ≤ s.lanesUsed core then s
    else match (s.readyWarps core).foldl (elder s.warpAge) none with
      | some i => s.modWarp i fun w => { w with lane := true }
      | none => s := rfl

theorem mem_readyWarps : i ∈ s.readyWarps core ↔ ∃ w, s.warp? i = some w ∧ s.laneReady core w = true := by
  rw [State.readyWarps, List.mem_filter, List.mem_range]
  constructor
  · rintro ⟨-, h⟩
    cases hw : s.warp? i with
    | none =>
      rw [hw] at h
      cases h
    | some w =>
      rw [hw] at h
      exact ⟨w, rfl, h⟩
  · rintro ⟨w, hw, h⟩
    exact ⟨(List.getElem?_eq_some_iff.1 hw).1, by rw [hw]; exact h⟩

theorem laneGrant_grants (hw : s.warp? i = some w) (hr : s.laneReady core w = true)
    (hfirst : ∀ j v, s.warp? j = some v → s.laneReady core v = true → j ≠ i →
      (s.wgOf w).age * 16 + w.idx < (s.wgOf v).age * 16 + v.idx) (hroom : s.lanesUsed core < 32) :
    s.laneGrant core = s.setWarp i { w with lane := true } := by
  have hage : ∀ j ∈ s.readyWarps core, j ≠ i → s.warpAge i < s.warpAge j := by
    intro j hj hne
    obtain ⟨v, hv, hrv⟩ := mem_readyWarps.1 hj
    rw [State.warpAge, State.warpAge, hw, hv]
    exact hfirst j v hv hrv hne
  have hchoice := foldl_elder (acc := none) (.inl (mem_readyWarps.2 ⟨w, hw, hr⟩)) hage nofun
  rw [laneGrant_eq, if_neg (Nat.not_le.2 hroom), hchoice]
  exact State.modWarp_eq_setWarp s i _ w hw

theorem laneGrant_none (h : 32 ≤ s.lanesUsed core ∨ ∀ j v, s.warp? j = some v → s.laneReady core v = false) :
    s.laneGrant core = s := by
  rw [laneGrant_eq]
  by_cases hu : 32 ≤ s.lanesUsed core
  · rw [if_pos hu]
  · have hno : s.readyWarps core = [] := List.eq_nil_iff_forall_not_mem.2 fun j hj => by
      obtain ⟨v, hv, hr⟩ := mem_readyWarps.1 hj
      rw [h.resolve_left hu j v hv] at hr
      cases hr
    rw [if_neg hu, hno]
    rfl

/-! ### The idle tree -/

section
variable {n : Nat} {since : Option Nat} (hw : s.warp? i = some w) (hl : w.live = true) (hp : w.park = .quiesce n since)
include hw hl hp

theorem quiesceIdle_busy
    (hbusy : ¬((∀ c ∈ s.quiesceCores (s.wgOf w) n, s.coreIdle c = true) ∧ s.quiesceHeld (s.wgOf w) n = false)) :
    execQuiesceIdle i s = .next (s.setWarp i { w with park := .quiesce n none }) := by
  have hno : ((s.quiesceCores (s.wgOf w) n).all s.coreIdle && !s.quiesceHeld (s.wgOf w) n) = false := by
    rw [Bool.eq_false_iff, Ne, Bool.and_eq_true, List.all_eq_true, Bool.not_eq_true']
    exact hbusy
  rw [← State.modWarp_eq_setWarp s i (fun w => { w with park := .quiesce n none }) w hw]
  simp only [execQuiesceIdle, hw, hp, hl, Bool.not_true, Bool.false_eq_true, if_false, hno, Bool.not_false, if_true]

end

section
variable {n : Nat} (hw : s.warp? i = some w) (hl : w.live = true)
  (hidle : (∀ c ∈ s.quiesceCores (s.wgOf w) n, s.coreIdle c = true) ∧ s.quiesceHeld (s.wgOf w) n = false)
include hw hl hidle

omit hw hl in
theorem quiesceIdle_looked :
    ((s.quiesceCores (s.wgOf w) n).all s.coreIdle && !s.quiesceHeld (s.wgOf w) n) = true := by
  rw [Bool.and_eq_true, List.all_eq_true, Bool.not_eq_true']
  exact hidle

theorem quiesceIdle_starts (hp : w.park = .quiesce n none) :
    execQuiesceIdle i s = .next (s.setWarp i { w with park := .quiesce n (some s.tick) }) := by
  rw [← State.modWarp_eq_setWarp s i (fun w => { w with park := .quiesce n (some s.tick) }) w hw]
  simp only [execQuiesceIdle, hw, hp, hl, Bool.not_true, Bool.false_eq_true, if_false, quiesceIdle_looked hidle]

theorem quiesceIdle_timed {t : Nat} (hp : w.park = .quiesce n (some t)) :
    execQuiesceIdle i s = if t + transitBound n ≤ s.tick then
      .next ((s.acquire (s.wgOf w).core n).modWarp i Warp.advance) else .next s := by
  simp only [execQuiesceIdle, hw, hp, hl, Bool.not_true, Bool.false_eq_true, if_false, quiesceIdle_looked hidle]

end

end

/-! ### Open grains -/

/-- The entry that a registration puts into the table of open grains. -/
def State.grainEntered (s : State) (core g : Nat) (due : Option Nat) : State :=
  { s with mem := { s.mem with
    grains := s.mem.grains ++ [{ grain := g, core := core, due := due }], grainWait := s.mem.othersWait core g } }

/-- A registration that waits for room. -/
def State.grainWaits (s : State) (core g j : Nat) : State :=
  { s with mem := { s.mem with grainWait := s.mem.othersWait core g ++ [(core, g, j)] } }

section
variable {s : State} {core c g pa i j : Nat} {va : Word} {due : Option Nat}

theorem enterGrain_eq : s.enterGrain core g j due =
    if (s.grainSetMates g).length < 8 then s.grainEntered core g due else s.grainWaits core g j := rfl

theorem grainEntered_owner (h : s.grainOwner g = none) : (s.grainEntered core g due).grainOwner g = some core := by
  have hno : s.mem.grains.find? (fun e => e.grain == g) = none := Option.map_eq_none_iff.1 h
  unfold State.grainOwner State.grainEntered
  dsimp only
  rw [List.find?_append, hno]
  simp

theorem grainWaits_owner : (s.grainWaits core g j).grainOwner g = s.grainOwner g := rfl

section
variable (hopen : ∀ e ∈ s.mem.grains.filter fun e => e.core == core, e.closing = false)
include hopen

theorem noneClosing : (s.mem.grains.any fun e => e.core == core && e.closing) = false := by
  rw [List.any_eq_false]
  intro e he hb
  rw [Bool.and_eq_true] at hb
  rw [hopen e (List.mem_filter.2 ⟨he, hb.1⟩)] at hb
  exact Bool.false_ne_true hb.2

theorem registerGrain_open (ho : s.grainOwner (pa / 512) = some c) :
    s.registerGrain core pa va = if c = core then .ok (s.grainSettled core (pa / 512))
      else .error (.late (s.grainSettled core (pa / 512)) (.trap { cause := 0x03, addr := va })) := by
  simp only [State.registerGrain, noneClosing hopen, Bool.false_eq_true, if_false, ho]
  rfl

theorem registerGrain_first (ho : s.grainOwner (pa / 512) = none)
    (hroom : (s.mem.grains.filter fun e => e.core == core).length < 256) :
    (¬8 ≤ (s.grainSetMates (pa / 512)).length → s.registerGrain core pa va = .ok (s.grainEntered core (pa / 512) none)) ∧
    (8 ≤ (s.grainSetMates (pa / 512)).length →
      s.registerGrain core pa va = .error (.park .response (s.grainWaits core (pa / 512) s.cur))) := by
  have hbody : s.registerGrain core pa va =
      if (s.enterGrain core (pa / 512) s.cur none).grainOwner (pa / 512) = some core
      then .ok (s.enterGrain core (pa / 512) s.cur none)
      else .error (.park .response (s.enterGrain core (pa / 512) s.cur none)) := by
    simp only [State.registerGrain, noneClosing hopen, Bool.false_eq_true, if_false, ho, if_neg (Nat.not_le.2 hroom)]
  refine ⟨fun hfree => ?_, fun hfull => ?_⟩
  · rw [hbody, enterGrain_eq, if_pos (Nat.not_le.1 hfree), if_pos (grainEntered_owner ho)]
  · rw [hbody, enterGrain_eq, if_neg (Nat.not_lt.2 hfull), grainWaits_owner, ho, if_neg nofun]

end

/-- The store that waits for a registration is still there (R71). -/
def State.storeWaits (s : State) (i : Nat) : Bool :=
  match s.warp? i with
  | some x => x.live && x.park == .response
  | none => false

theorem storeWaits_iff : s.storeWaits i = true ↔ ∃ w, s.warp? i = some w ∧ w.live = true ∧ w.park = .response := by
  unfold State.storeWaits
  cases s.warp? i <;> simp

theorem grainRegister_asked (h : s.mem.grainWait.find? (fun e => e.1 == core && e.2.1 == pa / 512) = some (c, g, i)) :
    execGrainRegister core pa s = .next (if s.storeWaits i && (s.grainOwner g).isNone then s.enterGrain core g i (some i)
      else { s with mem := { s.mem with grainWait := s.mem.othersWait core (pa / 512) } }) := by
  simp only [execGrainRegister, h]
  rfl

theorem grainRegister_unasked (h : s.mem.grainWait.find? (fun e => e.1 == core && e.2.1 == pa / 512) = none) :
    execGrainRegister core pa s = .next s := by
  simp only [execGrainRegister, h]

end

section
variable {s : State} {core i : Nat} {w : Warp} {m : Mon}

theorem count_mem (s : State) (core ev n : Nat) : (s.count core ev n).mem = s.mem := by
  unfold State.count
  dsimp only
  split <;> rfl

theorem count_warps (s : State) (core ev n : Nat) : (s.count core ev n).warps = s.warps := by
  unfold State.count
  dsimp only
  split <;> rfl

theorem count_wgs (s : State) (core ev n : Nat) : (s.count core ev n).wgs = s.wgs := by
  unfold State.count
  dsimp only
  split <;> rfl

/-- A core's interval closes: its open grains are marked, and its monitors have their wake (R72). -/
def State.closesInterval (s : State) (core : Nat) : State :=
  { s.count core 5 1 with mem := { (s.count core 5 1).mem with
    grains := (s.count core 5 1).mem.grains.map fun (g : OpenGrain) => if g.core = core then { g with closing := true } else g } }

theorem forcedClose_due (h : s.closeDue core = true) :
    execForcedClose core s = .next ((s.closesInterval core).wakeIf fun x _ =>
      ((s.closesInterval core).wg x.wg).core == core) := by
  rw [execForcedClose, if_pos h]
  rfl

theorem forcedClose_idle (h : s.closeDue core = false) : execForcedClose core s = .next s := by
  rw [execForcedClose, if_neg (Bool.eq_false_iff.1 h)]

theorem closesInterval_wakes (hw : s.warp? i = some w) (hm : w.mon = some m) (hc : (s.wg w.wg).core = core) :
    ((s.closesInterval core).wakeIf fun x _ => ((s.closesInterval core).wg x.wg).core == core).warp? i =
      some { w with mon := some { m with hit := true } } := by
  have hsame : (s.closesInterval core).warp? i = some w := (congrArg (·[i]?) (count_warps s core 5 1)).trans hw
  have hcore : ((s.closesInterval core).wg w.wg).core = core :=
    (congrArg (fun l => (l.getD w.wg Workgroup.none).core) (count_wgs s core 5 1)).trans hc
  rw [State.wakeIf_warp?, hsame, Option.map_some, Warp.wokenIf, hm]
  dsimp only
  rw [hcore, if_pos (beq_self_eq_true core)]

end

end Sys2Proof.Machine

namespace Sys2Proof.Claims
open Sys2Proof.Machine

theorem laneGrantAndQuiesce : Claims.LaneGrantAndQuiesce := by
  intro s core i n w
  refine ⟨fun hw hr hfirst hroom => ?_, fun h => ?_, fun since hw hl hp => ⟨?_, ?_, ?_⟩⟩
  · exact congrArg _ (laneGrant_grants hw hr hfirst hroom)
  · exact congrArg _ (laneGrant_none h)
  · exact quiesceIdle_busy hw hl hp
  · rintro hidle rfl
    exact quiesceIdle_starts hw hl hidle hp
  · rintro t hidle rfl
    refine ⟨fun hle => ?_, fun hlt => ?_⟩
    · exact (quiesceIdle_timed hw hl hidle hp).trans (if_pos hle)
    · exact (quiesceIdle_timed hw hl hidle hp).trans (if_neg (Nat.not_le.2 hlt))

theorem grainEvents : Claims.GrainEvents := by
  intro s core c pa grain i va w m
  refine ⟨fun ho hopen => registerGrain_open hopen ho, fun ho hopen hroom => registerGrain_first hopen ho hroom,
    fun hq hp ho => ?_, fun hq hno => ?_, fun hq => grainRegister_unasked hq, fun hd => ?_, forcedClose_idle, rfl,
    fun _ _ => rfl⟩
  · rw [exec_grainRegister, grainRegister_asked hq, storeWaits_iff.2 hp, ho, enterGrain_eq]
    by_cases hfull : 8 ≤ (s.grainSetMates (pa / 512)).length
    · rw [if_pos hfull, if_neg (Nat.not_lt.2 hfull)]
      rfl
    · rw [if_neg hfull, if_pos (Nat.not_le.1 hfull)]
      rfl
  · have hgone : (s.storeWaits i && (s.grainOwner (pa / 512)).isNone) = false := by
      rcases hno with ho | hp
      · rw [ho]
        exact Bool.and_false _
      · rw [Bool.eq_false_iff.2 fun h => hp (storeWaits_iff.1 h)]
        rfl
    rw [exec_grainRegister, grainRegister_asked hq, hgone]
    rfl
  · have hbytes := congrArg Mem.bytes (count_mem s core 5 1)
    refine ⟨_, forcedClose_due hd, hbytes, ?_, closesInterval_wakes⟩
    exact congrArg (fun x : Mem => x.grains.map fun e => if e.core = core then { e with closing := true } else e)
      (count_mem s core 5 1)

end Sys2Proof.Claims

/-- Settles O45: the lane goes to the first runnable warp, the idle tree is timed, and each event at the open-grain tables
leaves what it should. -/
theorem laneAndGrainEvents : Obligations.LaneAndGrainEvents :=
  ⟨Sys2Proof.Claims.laneGrantAndQuiesce, Sys2Proof.Claims.grainEvents⟩

end

section
/-! PROOFS. Page walks, invalidations of translations, writes a home holds, REPLAY (R22, R37-R48), and requests at a
home (R57-R60, R475). -/

namespace Sys2Proof.Machine

/-! ### Page walks (R22, R26, R38, R44) -/

/-- None of the lines at some addresses has a request in progress. -/
def State.allFree (s : State) (l : List Nat) : Prop := ∀ a ∈ l, s.lineBusy (a / 128) = false

/-- The homes of the lines at some addresses can be asked by a die. -/
def State.allNear (s : State) (die : Nat) (l : List Nat) : Prop := ∀ a ∈ l, s.homeAway (some die) (a / 128) = false

section
variable {s : State} {die src ctx hold kind line : Nat} {tensor : Bool} {va : Word} {t : Trans} {f : WalkFault} {w : Who}

theorem anyBusy_eq_false {l : List Nat} : (l.any fun a => s.lineBusy (a / 128)) = false ↔ s.allFree l := by
  simp [State.allFree]

theorem anyBlocked_eq_false {l : List Nat} :
    (l.any fun a => s.lineBusy (a / 128) || s.homeAway (some die) (a / 128)) = false ↔
      s.allFree l ∧ s.allNear die l := by
  simp [State.allFree, State.allNear, forall_and]

section
variable (hd : die < 11) (hc : s.ctxValid ctx = true) (hw : w = { ctx := ctx, src := src, hold := hold })
include hd hc hw

theorem pageWalk_found (h : s.walk w (kindPerm kind) tensor va = .ok t) :
    execPageWalk die src ctx hold kind tensor va s =
      .next (if (t.used.any fun a => s.lineBusy (a / 128)) || s.asksAway die w va t then s
        else (s.markUsed t (kindPerm kind)).cacheWalk die w va t) := by
  subst hw
  have hgo : ¬(11 ≤ die ∨ (!s.ctxValid ctx) = true) := by
    rw [hc]
    simpa using hd
  simp only [execPageWalk, if_neg hgo, h]

theorem pageWalk_fails (h : s.walk w (kindPerm kind) tensor va = .error f) :
    execPageWalk die src ctx hold kind tensor va s =
      .next (if f.used.any fun a => s.lineBusy (a / 128) || s.homeAway (some die) (a / 128) then s
        else s.joinFault (w.key (kindOf kind) va) f.reason f.level va) := by
  subst hw
  have hgo : ¬(11 ≤ die ∨ (!s.ctxValid ctx) = true) := by
    rw [hc]
    simpa using hd
  simp only [execPageWalk, if_neg hgo, h]

end

theorem pageWalk_results (hd : die < 11) (hc : s.ctxValid ctx = true) (hw : w = { ctx := ctx, src := src, hold := hold }) :
    (s.walk w (kindPerm kind) tensor va = .ok t → s.allFree t.used → s.asksAway die w va t = false →
      execPageWalk die src ctx hold kind tensor va s = .next ((s.markUsed t (kindPerm kind)).cacheWalk die w va t)) ∧
    (s.walk w (kindPerm kind) tensor va = .error f → s.allFree f.used → s.allNear die f.used →
      execPageWalk die src ctx hold kind tensor va s = .next (s.joinFault (w.key (kindOf kind) va) f.reason f.level va)) ∧
    ((s.walk w (kindPerm kind) tensor va = .ok t ∧ (¬s.allFree t.used ∨ s.asksAway die w va t = true)) ∨
        (s.walk w (kindPerm kind) tensor va = .error f ∧ (¬s.allFree f.used ∨ ¬s.allNear die f.used)) →
      execPageWalk die src ctx hold kind tensor va s = .next s) := by
  refine ⟨fun h hfree hnear => ?_, fun h hfree hnear => ?_, ?_⟩
  · rw [pageWalk_found hd hc hw h, anyBusy_eq_false.2 hfree, hnear]
    rfl
  · rw [pageWalk_fails hd hc hw h, anyBlocked_eq_false.2 ⟨hfree, hnear⟩]
    rfl
  · rintro (⟨h, hno⟩ | ⟨h, hno⟩)
    · have hstop : ((t.used.any fun a => s.lineBusy (a / 128)) || s.asksAway die w va t) = true := by
        rw [← Bool.not_eq_false, Bool.or_eq_false_iff, anyBusy_eq_false, not_and_or, Bool.not_eq_false]
        exact hno
      rw [pageWalk_found hd hc hw h, if_pos hstop]
    · have hstop : (f.used.any fun a => s.lineBusy (a / 128) || s.homeAway (some die) (a / 128)) = true := by
        rw [← Bool.not_eq_false, anyBlocked_eq_false, not_and_or]
        exact hno
      rw [pageWalk_fails hd hc hw h, if_pos hstop]

/-! ### Invalidations of translations (R39, R41) -/

/-- What a die that drops its translations of a line leaves. -/
def State.dieDrops (s : State) (die line : Nat) : State :=
  { s with xlat := { s.xlat with
    tlb := s.xlat.tlb.filter fun e => !(e.die == die && e.lines.contains line)
    tdir := Tab.set 0 s.xlat.tdir line (Tab.get 0 s.xlat.tdir line &&& ~~~(BitVec.ofNat 11 (2 ^ die)))
    heldWrites := s.xlat.heldWrites.map fun h =>
      if h.line = line then { h with waiting := h.waiting.filter fun d => d != die } else h } }

theorem invalidation_out (hr : s.reaches (s.homeDie line) die = false) :
    execTranslationInvalidation die line s = .next s := by
  rw [execTranslationInvalidation, hr, if_pos (.inr rfl)]

theorem invalidation_drops (hd : die < 11) (hr : s.reaches (s.homeDie line) die = true) :
    execTranslationInvalidation die line s = .next (s.dieDrops die line) := by
  have hgo : ¬(11 ≤ die ∨ (!s.reaches (s.homeDie line) die) = true) := by
    rw [hr]
    simpa using hd
  rw [execTranslationInvalidation, if_neg hgo]
  rfl

theorem mem_dieDrops_tlb {e : TlbEntry} :
    e ∈ (s.dieDrops die line).xlat.tlb ↔ e ∈ s.xlat.tlb ∧ ¬(e.die = die ∧ line ∈ e.lines) := by
  simp [State.dieDrops, List.mem_filter, imp_iff_not_or]

theorem dieDrops_tdir (hd : die < 11) : (Tab.get 0 (s.dieDrops die line).xlat.tdir line).getLsbD die = false := by
  rw [State.dieDrops]
  simp only [Tab.get_set_same, BitVec.getLsbD_and, BitVec.getLsbD_not, BitVec.getLsbD_ofNat, Nat.testBit_two_pow_self, hd]
  simp

theorem dieDrops_heldWrites {h : HeldWrite} (hh : h ∈ (s.dieDrops die line).xlat.heldWrites) (hl : h.line = line) :
    die ∉ h.waiting := by
  obtain ⟨k, -, rfl⟩ := List.mem_map.1 hh
  split at hl
  · next he =>
    rw [if_pos he]
    simp
  · next hne => exact absurd hl hne

/-! ### Writes that a home holds, and REPLAY (R39, R48, R59) -/

/-- A held write may be performed: no die and no host is waited for, nothing else holds it, the dies concerned can be
reached (R39, R42, R63). -/
def State.heldReady (s : State) (line : Nat) (h : HeldWrite) : Prop :=
  h.waiting = [] ∧ (∀ e ∈ s.mem.snoopWait, e.1 ≠ line) ∧ Tab.get 0 s.xlat.tdir line = 0 ∧ line ∉ s.mem.snoop ∧
    s.snoopsReach line (h.slice.getD 128) true = true ∧ s.homeAway (askDie (h.slice.getD 128)) line = false ∧
    (h.slice.getD 128 < 128 → s.roomAwaited (h.slice.getD 128) line = false)

theorem heldReady_iff {h : HeldWrite} :
    (h.waiting.isEmpty && !({ s with xlat := { s.xlat with
      heldWrites := s.xlat.heldWrites.filter fun x => x.line != line } } : State).writeHeld line (h.slice.getD 128)) = true ↔
    s.heldReady line h := by
  have hbusy : ({ s with xlat := { s.xlat with
      heldWrites := s.xlat.heldWrites.filter fun x => x.line != line } } : State).writeHeld line (h.slice.getD 128) =
      ((s.mem.snoopWait.any fun e => e.1 == line) || Tab.get 0 s.xlat.tdir line != 0 || s.mem.snoop.contains line ||
        !s.snoopsReach line (h.slice.getD 128) true || s.homeAway (askDie (h.slice.getD 128)) line ||
        (decide (h.slice.getD 128 < 128) && s.roomAwaited (h.slice.getD 128) line)) := by
    have hnone : ((s.xlat.heldWrites.filter fun x => x.line != line).any fun h => h.line == line) = false := by
      rw [List.any_eq_false]
      intro k hk
      simpa using (List.mem_filter.1 hk).2
    unfold State.writeHeld
    rw [State.lineBusy, hnone, Bool.or_false]
    rfl
  simp only [hbusy, Bool.and_eq_true, Bool.not_eq_true', Bool.or_eq_false_iff, Bool.and_eq_false_imp]
  simp [State.heldReady, and_assoc]

/-- A held write once its home performs it: its host, if it has one, is answered. -/
def State.performHeld (s : State) (line : Nat) (h : HeldWrite) : State :=
  let t := { s with xlat := { s.xlat with heldWrites := s.xlat.heldWrites.erase h } }.performWrite h.slice line h.mask h.data
  match h.host with
  | some pa => t.send (.hostWritten pa)
  | none => t

theorem trackedWritePerform_eq {h : HeldWrite} (hf : s.xlat.heldWrites.find? (fun h => h.line == line) = some h) :
    (s.heldReady line h → execTrackedWritePerform line s = .next (s.performHeld line h)) ∧
    (¬s.heldReady line h → execTrackedWritePerform line s = .next s) := by
  refine ⟨fun hr => ?_, fun hr => ?_⟩
  · simp only [execTrackedWritePerform, hf, heldReady_iff.2 hr, if_true]
    rfl
  · simp only [execTrackedWritePerform, hf, mt heldReady_iff.1 hr, if_false, Bool.false_eq_true]

end

/-! ### What the home's bookkeeping leaves (R57-R60) -/

/-- What waits at the homes is as before: the lines the host holds, the requests behind them, and what is translated. -/
structure SameWaits (s t : State) : Prop where
  snoop : t.mem.snoop = s.mem.snoop
  snoopWait : t.mem.snoopWait = s.mem.snoopWait
  xlat : t.xlat = s.xlat

namespace SameWaits

theorem refl (s : State) : SameWaits s s := ⟨rfl, rfl, rfl⟩

theorem trans {s t u : State} (h : SameWaits s t) (k : SameWaits t u) : SameWaits s u :=
  ⟨k.snoop.trans h.snoop, k.snoopWait.trans h.snoopWait, k.xlat.trans h.xlat⟩

end SameWaits

theorem Mem.recall_waits (m : Mem) (line : Nat) :
    (m.recall line).snoop = m.snoop ∧ (m.recall line).snoopWait = m.snoopWait ∧ (m.recall line).dir = m.dir := by
  unfold Mem.recall
  dsimp only
  split <;> exact ⟨rfl, rfl, rfl⟩

theorem Mem.leave_waits (m : Mem) (c line : Nat) :
    (m.leave c line).snoop = m.snoop ∧ (m.leave c line).snoopWait = m.snoopWait := by
  obtain ⟨h1, h2, -⟩ := m.recall_waits line
  unfold Mem.leave
  split
  · exact ⟨rfl, rfl⟩
  · split
    · exact ⟨h1, h2⟩
    · exact ⟨rfl, rfl⟩
  · exact ⟨rfl, rfl⟩

theorem Mem.homeTake_waits (m : Mem) (line : Nat) :
    (m.homeTake line).snoop = m.snoop ∧ (m.homeTake line).snoopWait = m.snoopWait := by
  obtain ⟨h1, h2, -⟩ := m.recall_waits line
  unfold Mem.homeTake
  split
  · exact ⟨rfl, rfl⟩
  · exact ⟨h1, h2⟩

theorem Mem.homeOwn_waits (m : Mem) (c line : Nat) :
    (m.homeOwn c line).snoop = m.snoop ∧ (m.homeOwn c line).snoopWait = m.snoopWait := by
  obtain ⟨h1, h2, -⟩ := m.recall_waits line
  unfold Mem.homeOwn
  split
  · exact ⟨rfl, rfl⟩
  · split
    · exact ⟨rfl, rfl⟩
    · exact ⟨h1, h2⟩
  · exact ⟨rfl, rfl⟩

theorem leaveLine_waits (s : State) (c line : Nat) : SameWaits s (s.leaveLine c line) :=
  ⟨(s.mem.leave_waits c line).1, (s.mem.leave_waits c line).2, rfl⟩

theorem homeTake_waits (s : State) (line : Nat) : SameWaits s (s.homeTake line) := by
  obtain ⟨h1, h2⟩ := s.mem.homeTake_waits line
  unfold State.homeTake
  dsimp only
  split <;> exact ⟨h1, h2, rfl⟩

theorem victim_waits (s : State) (named : Option Nat) : SameWaits s (s.victim named).2 := by
  cases named <;> exact ⟨rfl, rfl, rfl⟩

theorem dirRoom_waits (s : State) (line : Nat) (named : Option Nat) : SameWaits s (s.dirRoom line named) := by
  unfold State.dirRoom
  dsimp only
  split
  · exact .refl s
  · exact (victim_waits s named).trans (homeTake_waits _ _)

theorem sliceRoom_waits (s : State) (c line : Nat) (named : Option Nat) : SameWaits s (s.sliceRoom c line named) := by
  unfold State.sliceRoom
  dsimp only
  split
  · exact .refl s
  · exact (victim_waits s named).trans (leaveLine_waits _ _ _)

theorem homeOwn_waits (s : State) (c line : Nat) (named : Option Nat) : SameWaits s (s.homeOwn c line named) := by
  have hroom := (sliceRoom_waits s c line named).trans (dirRoom_waits _ line named)
  obtain ⟨h1, h2⟩ := ((s.sliceRoom c line named).dirRoom line named).mem.homeOwn_waits c line
  unfold State.homeOwn
  dsimp only
  split
  · exact hroom.trans ⟨h1, h2, rfl⟩
  · exact hroom.trans ⟨h1, h2, rfl⟩

/-! ### The directory entry that a request leaves (R58, R59) -/

/-- The directory has a given entry for a line, and every other line's as before. -/
structure DirBecomes (m n : Mem) (line : Nat) (e : DirEntry) : Prop where
  entry : n.dirOf line = e
  others : ∀ k, k ≠ line → n.dirOf k = m.dirOf k

section
variable {m : Mem} {line c d : Nat} {e : DirEntry} {vec : Bool} {l : List Nat}

theorem setDir_becomes (m : Mem) (line : Nat) (e : DirEntry) : DirBecomes m (m.setDir line e) line e :=
  ⟨Tab.get_set_same _ _ _ _, fun _ hk => Tab.get_set_ne _ _ _ _ _ (Ne.symm hk)⟩

theorem recall_setDir_becomes (m : Mem) (line : Nat) (e : DirEntry) :
    DirBecomes m ((m.recall line).setDir line e) line e := by
  obtain ⟨h1, h2⟩ := setDir_becomes (m.recall line) line e
  obtain ⟨-, -, hdir⟩ := m.recall_waits line
  exact ⟨h1, fun k hk => (h2 k hk).trans (congrArg (fun t => Tab.get DirEntry.uncached t k) hdir)⟩

theorem same_becomes (h : m.dirOf line = e) : DirBecomes m m line e := ⟨h, fun _ _ => rfl⟩

theorem homeRead_uncached (h : m.dirOf line = .uncached) : DirBecomes m (m.homeRead c line) line (.shared false [c]) := by
  rw [Mem.homeRead, h]
  exact setDir_becomes m line _

theorem homeRead_shared (h : m.dirOf line = .shared vec l) (hc : l.contains c = false) :
    DirBecomes m (m.homeRead c line) line (.shared (vec || 4 ≤ l.length) (l ++ [c])) := by
  simp only [Mem.homeRead, h, hc, Bool.false_eq_true, if_false]
  exact setDir_becomes m line _

theorem homeRead_owned (h : m.dirOf line = .owned d) (hd : d ≠ c) :
    DirBecomes m (m.homeRead c line) line (.shared false [d, c]) := by
  simp only [Mem.homeRead, h, if_neg hd]
  exact recall_setDir_becomes m line _

theorem homeOwn_becomes (h : ∀ k, m.dirOf line ≠ .mapped k) : DirBecomes m (m.homeOwn c line) line (.owned c) := by
  unfold Mem.homeOwn
  split
  · next k hk => exact absurd hk (h k)
  · next d hd =>
    split
    · next he => exact same_becomes (hd.trans (congrArg _ he))
    · exact recall_setDir_becomes m line _
  · exact setDir_becomes m line _

theorem leave_owned (h : m.dirOf line = .owned c) : DirBecomes m (m.leave c line) line .uncached := by
  simp only [Mem.leave, h, if_true]
  exact recall_setDir_becomes m line _

theorem leave_shared (h : m.dirOf line = .shared vec l) : DirBecomes m (m.leave c line) line
    (if (l.filter fun k => k != c).isEmpty then .uncached else .shared vec (l.filter fun k => k != c)) := by
  simp only [Mem.leave, h]
  exact setDir_becomes m line _

end

section
variable {s : State} {line c n : Nat} {e : DirEntry}

/-- With less than 16 entries at all, nothing has to give way. -/
theorem sliceRoom_short (h : s.mem.dir.length < 16) (named : Option Nat) : s.sliceRoom c line named = s := by
  have hv : s.sliceVictims c line = [] := by
    rw [State.sliceVictims, State.sliceFull, if_pos (.inl h), List.filter_nil]
  unfold State.sliceRoom
  rw [hv]
  rfl

theorem dirRoom_short (h : s.mem.dir.length < 16) (named : Option Nat) : s.dirRoom line named = s := by
  have hv : s.dirVictims line = [] := by
    rw [State.dirVictims, State.dirFull, if_pos (.inl h), List.filter_nil, List.map_nil]
  unfold State.dirRoom
  rw [hv]
  rfl

theorem homeRead_mem_short (h : s.mem.dir.length < 16) (named : Option Nat) :
    (s.homeRead c line named).mem = s.mem.homeRead c line := by
  unfold State.homeRead
  rw [sliceRoom_short h, dirRoom_short h]

theorem homeOwn_mem_short (h : s.mem.dir.length < 16) (named : Option Nat) :
    (s.homeOwn c line named).mem = s.mem.homeOwn c line := by
  unfold State.homeOwn
  rw [sliceRoom_short h, dirRoom_short h]
  dsimp only
  split <;> rfl

/-! ### Requests at a home: what is served, and what waits -/

/-- Where no entry of a line but a mapped one or its owner's names a copy, a read has no one to ask. -/
theorem snoopsReach_read (h : ∀ d, s.mem.dirOf line ≠ .owned d) : s.snoopsReach line c false = true := by
  unfold State.snoopsReach
  split
  · next d hd => exact absurd hd (h d)
  · simp

section
variable (hc : c < 128) (hbusy : s.lineBusy line = false) (haway : s.homeAway (some (clusterDie c)) line = false)
  (hroom : s.roomAwaited c line = false)
include hc hbusy haway hroom

theorem homeReady_readable (hs : s.snoopsReach line c false = true) : s.homeReady line c false = .ok s := by
  have hdie : askDie c = some (clusterDie c) := if_pos hc
  simp [State.homeReady, hbusy, hdie, haway, hroom, hs]

theorem homeReady_ownable (ht : Tab.get 0 s.xlat.tdir line = 0) (hn : line ∉ s.mem.snoop)
    (hs : s.snoopsReach line c true = true) : s.homeReady line c true = .ok s := by
  have hdie : askDie c = some (clusterDie c) := if_pos hc
  have ht' : Tab.get (0#11) s.xlat.tdir line = 0#11 := ht
  simp [State.homeReady, hbusy, hdie, haway, hroom, hs, ht', hn]

theorem execHomeRead_serves (hh : s.hasHome line = true) (hs : s.snoopsReach line c false = true) :
    execHomeRead c line n s = .next (s.homeRead c line (some n)) := by
  have hgo : ¬(128 ≤ c ∨ (!s.hasHome line) = true) := by
    rw [hh]
    simpa using hc
  rw [execHomeRead, if_neg hgo, homeReady_readable hc hbusy haway hroom hs]
  rfl

theorem execHomeOwnership_serves (hh : s.hasHome line = true) (ht : Tab.get 0 s.xlat.tdir line = 0)
    (hn : line ∉ s.mem.snoop) (hs : s.snoopsReach line c true = true) :
    execHomeOwnership c line n s = .next (s.homeOwn c line (some n)) := by
  have hdie : askDie c = some (clusterDie c) := if_pos hc
  have hgo : ¬(128 ≤ c ∨ (!s.hasHome line) = true ∨ s.homeAway (askDie c) line = true) := by
    rw [hh, hdie, haway]
    simpa using hc
  have hno : ¬(s.mem.snoop.contains line && !s.lineBusy line && Tab.get 0 s.xlat.tdir line == 0) = true := by
    simp [hn]
  rw [execHomeOwnership, if_neg hgo, if_neg hno, homeReady_ownable hc hbusy haway hroom ht hn hs]
  rfl

omit hroom in
theorem execHomeOwnership_asks (hh : s.hasHome line = true) (ht : Tab.get 0 s.xlat.tdir line = 0)
    (hn : line ∈ s.mem.snoop) : execHomeOwnership c line n s = .next { s.askHost line with
      mem := { s.mem with snoopWait := s.mem.snoopWait ++ [(line, c)] } } := by
  have hdie : askDie c = some (clusterDie c) := if_pos hc
  have hgo : ¬(128 ≤ c ∨ (!s.hasHome line) = true ∨ s.homeAway (askDie c) line = true) := by
    rw [hh, hdie, haway]
    simpa using hc
  have ht' : Tab.get (0#11) s.xlat.tdir line = 0#11 := ht
  have hyes : (s.mem.snoop.contains line && !s.lineBusy line && Tab.get 0 s.xlat.tdir line == 0) = true := by
    simp [hn, hbusy, ht']
  rw [execHomeOwnership, if_neg hgo, if_pos hyes]

end

/-- A request that finds its line busy, its home away or no room waits, and changes nothing. -/
theorem homeReady_waits {write : Bool}
    (h : s.lineBusy line = true ∨ s.homeAway (askDie c) line = true ∨ (c < 128 ∧ s.roomAwaited c line = true)) :
    s.homeReady line c write = .error (.park .response s) := by
  unfold State.homeReady
  split
  · rfl
  · next hb =>
    split
    · rfl
    · next ha => rw [if_pos ((h.resolve_left hb).resolve_left ha)]

theorem execHomeRead_waits
    (h : s.lineBusy line = true ∨ s.homeAway (askDie c) line = true ∨ (c < 128 ∧ s.roomAwaited c line = true)) :
    execHomeRead c line n s = .next s := by
  rw [execHomeRead, homeReady_waits h]
  exact congrArg _ (ite_self s)

theorem execHomeOwnership_waits (hask : s.lineBusy line = true ∨ s.homeAway (askDie c) line = true ∨ line ∉ s.mem.snoop)
    (h : s.lineBusy line = true ∨ s.homeAway (askDie c) line = true ∨ (c < 128 ∧ s.roomAwaited c line = true)) :
    execHomeOwnership c line n s = .next s := by
  rw [execHomeOwnership, homeReady_waits h]
  by_cases ha : s.homeAway (askDie c) line = true
  · rw [if_pos (.inr (.inr ha))]
  · have hno : ¬(s.mem.snoop.contains line && !s.lineBusy line && Tab.get 0 s.xlat.tdir line == 0) = true := by
      rcases hask with hb | ha' | hn
      · simp [hb]
      · exact absurd ha' ha
      · simp [hn]
    rw [if_neg hno]
    exact congrArg _ (ite_self s)

/-! ### Copies that leave, and the host's answer -/

theorem leaveLine_mem : (s.leaveLine c line).mem = s.mem.leave c line := rfl

theorem ownerWriteback_leaves {k : Nat} (hd : s.mem.dirOf line = .owned k) (hb : s.lineBusy line = false) :
    execOwnerWriteback c line s = .next (s.leaveLine c line) := by
  rw [execOwnerWriteback, hb, if_neg Bool.false_ne_true, hd]

theorem cleanEvictionNotice_leaves {vec : Bool} {l : List Nat} (hd : s.mem.dirOf line = .shared vec l)
    (hb : s.lineBusy line = false) : execCleanEvictionNotice c line s = .next (s.leaveLine c line) := by
  rw [execCleanEvictionNotice, hb, if_neg Bool.false_ne_true, hd]

theorem invalidation_leaves (hr : s.reaches (s.homeCourse line) (clusterDie c) = true) :
    execInvalidation c line s = .next (s.leaveLine c line) := by
  rw [execInvalidation, if_pos hr]

/-- The host has given a line up: nothing waits for it any more (R475). -/
def State.hostGivesUp (s : State) (line : Nat) : State :=
  { s with mem := { s.mem with snoop := s.mem.snoop.filter fun l => l != line
                               snoopWait := s.mem.snoopWait.filter fun x => x.1 != line }
           xlat := { s.xlat with heldWrites := s.xlat.heldWrites.map fun h =>
                      if h.line = line then { h with waiting := h.waiting.filter fun d => d != 11 } else h } }

theorem bisnpResponse_serves (hf : s.mem.snoopWait.find? (fun e => e.1 == line) = some (line, c)) (hc : c < 128)
    (hs : s.snoopsReach line c true = true) (ha : s.homeAway (some (clusterDie c)) line = false)
    (hr : s.roomAwaited c line = false) :
    execBisnpResponse line s = .next ((s.hostGivesUp line).homeOwn c line) := by
  have hdie : askDie c = some (clusterDie c) := if_pos hc
  have hgo : c < 128 ∧ (s.hostGivesUp line).snoopsReach line c true = true ∧
      (!(s.hostGivesUp line).homeAway (askDie c) line) = true ∧ (!(s.hostGivesUp line).roomAwaited c line) = true := by
    refine ⟨hc, hs, ?_, ?_⟩
    · rw [hdie]
      exact congrArg not ha
    · exact congrArg not hr
  simp only [execBisnpResponse, hf]
  exact congrArg _ (if_pos hgo)

theorem hostGivesUp_free (hh : ∀ h ∈ s.xlat.heldWrites, h.line ≠ line) :
    line ∉ (s.hostGivesUp line).mem.snoop ∧ (s.hostGivesUp line).lineBusy line = false := by
  refine ⟨by simp [State.hostGivesUp], ?_⟩
  rw [State.lineBusy, Bool.or_eq_false_iff, List.any_eq_false, List.any_eq_false]
  refine ⟨fun e he => ?_, fun h hm => ?_⟩
  · simpa using (List.mem_filter.1 he).2
  · obtain ⟨k, hk, rfl⟩ := List.mem_map.1 hm
    split
    · next he => exact absurd he (hh k hk)
    · simpa using hh k hk

theorem SameWaits.lineBusy {t : State} (h : SameWaits s t) : t.lineBusy line = s.lineBusy line := by
  rw [State.lineBusy, State.lineBusy, h.snoopWait, h.xlat]

end

end Sys2Proof.Machine

namespace Sys2Proof.Claims
open Sys2Proof.Machine

theorem translationEvents : Claims.TranslationEvents := by
  intro s die src ctx hold kind line part tensor va t f h b
  refine ⟨fun hd hc => pageWalk_results hd hc rfl, fun _ => invalidation_out, fun hd hr => ⟨_, invalidation_drops hd hr, rfl, rfl,
    fun e => mem_dieDrops_tlb, dieDrops_tdir hd, fun h hh hl => dieDrops_heldWrites hh hl⟩, fun hf => ?_, fun hb hle => ?_,
    fun hb hlt => ?_⟩
  · exact trackedWritePerform_eq hf
  · rw [exec_replay, execReplay, hb]
    exact congrArg _ (if_neg (Nat.not_lt.2 hle))
  · rw [exec_replay, execReplay, hb]
    exact congrArg _ (if_pos hlt)

theorem homeRequests : Claims.HomeRequests := by
  intro s c line victim a vec l dir goes room
  have serves : ∀ {t : State} {e : DirEntry}, Serves s t → DirBecomes s.mem t.mem line e → dir t e :=
    fun hs hd => ⟨hd.entry, hs.bytes a, hd.others⟩
  have readRoom : ∀ {e : DirEntry}, DirBecomes s.mem (s.mem.homeRead c line) line e →
      execHomeRead c line victim s = .next (s.homeRead c line (some victim)) → room (.homeRead c line victim) e :=
    fun hd he => ⟨_, he, (s.homeRead_serves c line (some victim)).bytes a, fun hlen =>
      serves (s.homeRead_serves c line (some victim)) (homeRead_mem_short hlen (some victim) ▸ hd)⟩
  have leaves : ∀ {i : Instr} {e : DirEntry}, DirBecomes s.mem (s.mem.leave c line) line e →
      exec i s = .next (s.leaveLine c line) → goes i e :=
    fun hd he => ⟨_, he, serves (s.leaveLine_serves c line) hd⟩
  refine ⟨fun hc hh hb ha hr => ⟨?_, ?_, ?_, fun ht => ⟨?_, ?_⟩⟩, fun hb => ⟨?_, ?_⟩, fun hc ha => ⟨?_, ?_⟩,
    fun hc hr => ⟨?_, ?_⟩, fun hd => ⟨?_, ?_⟩, fun hd => ⟨?_, ?_⟩, ?_⟩
  · intro hd
    exact readRoom (homeRead_uncached hd)
      (execHomeRead_serves hc hb ha hr hh (snoopsReach_read fun d => by rw [hd]; exact nofun))
  · intro hd hl
    exact readRoom (homeRead_shared hd hl)
      (execHomeRead_serves hc hb ha hr hh (snoopsReach_read fun d => by rw [hd]; exact nofun))
  · intro d hd hne hs
    exact readRoom (homeRead_owned hd hne) (execHomeRead_serves hc hb ha hr hh hs)
  · intro hm hn hs
    refine ⟨_, execHomeOwnership_serves hc hb ha hr hh ht hn hs, (s.homeOwn_serves c line _).bytes a, fun hlen => ?_⟩
    exact serves (s.homeOwn_serves c line _) (homeOwn_mem_short hlen (some victim) ▸ homeOwn_becomes hm)
  · exact execHomeOwnership_asks hc hb ha hh ht
  · exact execHomeRead_waits (.inl hb)
  · exact execHomeOwnership_waits (.inl hb) (.inl hb)
  · exact execHomeRead_waits (.inr (.inl ((congrArg (s.homeAway · line) (if_pos hc)).trans ha)))
  · have ha' : s.homeAway (askDie c) line = true := (congrArg (s.homeAway · line) (if_pos hc)).trans ha
    exact execHomeOwnership_waits (.inr (.inl ha')) (.inr (.inl ha'))
  · exact execHomeRead_waits (.inr (.inr ⟨hc, hr⟩))
  · exact fun hn => execHomeOwnership_waits (.inr (.inr hn)) (.inr (.inr ⟨hc, hr⟩))
  · exact fun hb => leaves (leave_owned hd) (ownerWriteback_leaves hd hb)
  · exact fun hr => leaves (leave_owned hd) (invalidation_leaves hr)
  · exact fun hb => leaves (leave_shared hd) (cleanEvictionNotice_leaves hd hb)
  · exact fun hr => leaves (leave_shared hd) (invalidation_leaves hr)
  · intro hf hc hs ha hr hm hh
    obtain ⟨hsnoop, hfree⟩ := hostGivesUp_free (s := s) hh
    have hw := homeOwn_waits (s.hostGivesUp line) c line none
    have hserves := (s.hostGivesUp line).homeOwn_serves c line none
    refine ⟨_, bisnpResponse_serves hf hc hs ha hr, hserves.bytes a, fun hlen => ?_, ?_, hw.lineBusy.trans hfree⟩
    · obtain ⟨he, ho⟩ := homeOwn_becomes (m := (s.hostGivesUp line).mem) (c := c) hm
      rw [← homeOwn_mem_short (s := s.hostGivesUp line) hlen none] at he ho
      exact ⟨he, hserves.bytes a, ho⟩
    · rw [hw.snoop]
      exact hsnoop

end Sys2Proof.Claims

/-- Settles O44: walks, invalidations, held writes and REPLAY, and what each request leaves at its home. -/
theorem translationsAndHomes : Obligations.TranslationsAndHomes :=
  ⟨Sys2Proof.Claims.translationEvents, Sys2Proof.Claims.homeRequests⟩

end

section
/-! PROOFS. The heads of the copy and gather queues (R362, R366, R367, R370, R371). -/

namespace Sys2Proof.Machine

/-! ### Bytes that follow each other -/

theorem readN_lt (m : Tab Byte) (a n : Nat) : readN m a n < 2 ^ (8 * n) := by
  induction n generalizing a with
  | zero => exact Nat.one_pos
  | succ n ih =>
    have h := ih (a + 1)
    have hb := (Tab.get 0 m a).isLt
    rw [readN, Nat.mul_add, Nat.pow_add]
    omega

theorem readN_append (m : Tab Byte) (a i j : Nat) :
    readN m a (i + j) = 2 ^ (8 * i) * readN m (a + i) j + readN m a i := by
  induction i generalizing a with
  | zero => rw [Nat.zero_add, Nat.mul_zero, Nat.pow_zero, Nat.one_mul, Nat.add_zero]; rfl
  | succ i ih =>
    have hpow : (2 : Nat) ^ (8 * (i + 1)) = 256 * 2 ^ (8 * i) := by rw [Nat.mul_add, Nat.pow_add, Nat.mul_comm]
    have hplace : a + 1 + i = a + (i + 1) := by omega
    rw [Nat.add_right_comm i 1 j, readN, readN, ih (a + 1), hplace, hpow]
    ring

theorem readN_low (m : Tab Byte) (a i j : Nat) : readN m a (i + j) % 2 ^ (8 * i) = readN m a i := by
  rw [readN_append, Nat.mul_add_mod, Nat.mod_eq_of_lt (readN_lt m a i)]

theorem readN_high (m : Tab Byte) (a i j : Nat) :
    readN m a (i + j) / 2 ^ (8 * i) % 2 ^ (8 * j) = readN m (a + i) j := by
  rw [readN_append, Nat.mul_add_div (Nat.two_pow_pos _), Nat.div_eq_of_lt (readN_lt m a i), Nat.add_zero,
    Nat.mod_eq_of_lt (readN_lt m _ j)]

/-! ### What an engine has read -/

section
variable {s t : State} {o p : EngOp} {d : EngData} {c n m : Nat}

theorem status_or_zero (x : BitVec 16) : x ||| 0 = x := BitVec.or_zero

/-- Nothing before it: what follows stands as it is. -/
theorem EngData.empty_append (d : EngData) : EngData.append {} d = d := by
  cases d
  simp [EngData.append]

theorem EngData.part_clean {len x i m : Nat} :
    EngData.part { len := len, x := x } i m = { len := m, x := x / 2 ^ (8 * i) % 2 ^ (8 * m) } := rfl

/-- A whole piece to scratchpad is written in one go. -/
theorem engPiece_cell {x a row off : Nat} {k : Nat} (hp : o.poisoned = false) :
    ∃ landed, s.engPiece o (.cell c) { len := m, x := x } a row k off = (s.spStore c m x, 0, landed) := by
  have hstops : (srcParts a m).any (partStops o (.cell c) { len := m, x := x }) = false := by
    rw [List.any_eq_false]
    intro p _
    simp [partStops, partKept, LandLoc.outside, runsMeet]
  refine ⟨landedBy row k (off + 0 + m) - landedBy row k (off + 0), ?_⟩
  rw [State.engPiece]
  dsimp only
  rw [hstops, if_neg Bool.false_ne_true]
  simp only [hp, State.engTo, State.engWriteSp]
  rfl

/-- Where there is no landing word, sectors that land change nothing but the count of free values. -/
theorem landSectors_nowhere (core n : Nat) : ∃ f, s.landSectors core .nowhere n = { s with freeCtr := f } := by
  unfold State.landSectors
  dsimp only
  split
  · exact ⟨s.freeCtr, rfl⟩
  · exact ⟨s.freeCtr + 1, rfl⟩

theorem landAt_none {kind : AccKind} (h : o.land = 0) : s.landAt o.wg o.ctx o.core o.land o.who kind = .ok (.nowhere, s) := by
  rw [State.landAt, if_pos h]

/-! ### The end of an operation (R362) -/

/-- The STATUS that an operation ends with. -/
def State.endStatus (s : State) (o : EngOp) : BitVec 16 :=
  (if s.staleOp o then o.status ||| stStale else o.status) ||| (if o.poisoned then stPoison else 0)

theorem endOp_arrives {loc : LandLoc} {st : BitVec 16} (hst : st = s.endStatus o)
    (h : s.landAt o.wg o.ctx o.core o.land o.who .copyWrite = .ok (loc, t)) :
    s.endOp o = ((t.landUpdate o.core loc fun l => l.arrive st.toNat).lateStatus o.wg o.ctx st.toNat).dropOp o := by
  subst hst
  unfold State.endOp
  rw [h]
  unfold State.endStatus
  cases o.poisoned with
  | true => rfl
  | false =>
    dsimp only
    rw [if_neg Bool.false_ne_true, if_neg Bool.false_ne_true, status_or_zero]

end

/-! ### The head of a copy queue -/

/-- No send of a copy queue stands before its head. -/
def State.sendsClear (s : State) (core q : Nat) : Prop :=
  (s.fab.sends.find? fun x => x.core == core && x.q == q && (x.fault.isSome || !x.held.isEmpty)) = none

section
variable {s t u v x y z : State} {core q : Nat} {o p : EngOp} (hs : s.sendsClear core q) (hq : q < 4)
  (ho : s.headOp core q = some o) (hp : o.park = none)
include hs hq ho hp

/-- What the head of a copy queue does, by its kind. -/
theorem copyQueue_head :
    (∀ r, o.kind = .post → s.copyPiece o = r → execCopyQueueOperation core q s = .next (s.engDo o r)) ∧
    (∀ r, o.kind = .cond → s.condCopy o = r → execCopyQueueOperation core q s = .next (s.engDo o r)) ∧
    (o.kind = .bulk → execCopyQueueOperation core q s = .next (s.bulkStart o)) ∧
    (o.kind = .malformed → execCopyQueueOperation core q s = .next (s.endOp { o with status := stMalformed })) ∧
    (∀ x, o.kind = .fence x → execCopyQueueOperation core q s = .next (s.passFence o.id)) := by
  unfold State.sendsClear at hs
  simp only [execCopyQueueOperation, hs, if_neg (Nat.not_le.2 hq), ho, hp, Option.isSome_none, Bool.false_eq_true, if_false]
  refine ⟨fun r hk hr => ?_, fun r hk hr => ?_, fun hk => ?_, fun hk => ?_, fun x hk => ?_⟩
  · rw [hk, ← hr]
  · rw [hk, ← hr]
  · rw [hk]
  · rw [hk]
  · rw [hk]

end

section
variable {s t u v x y z : State} {o p : EngOp}

theorem copyPiece_done (h : rowCount o.req * rowBytes o.req ≤ o.done) : s.copyPiece o = .ok (.finish o, s) := if_pos h

theorem condCopy_done (h : o.done ≠ 0) : s.condCopy o = .ok (.finish o, s) := if_pos h

/-- A conditional copy whose version word differs writes nothing (R367). -/
theorem condCopy_fails {loc ver : LandLoc} {data : List EngData} {places : List LandLoc} {old : Nat} (h0 : o.done = 0)
    (hl : s.landAt o.wg o.ctx o.core o.land o.who .copyWrite = .ok (loc, t))
    (hd : t.condRead o (condPieces o.req o.src o.dst 4096 0) = .ok (data, u)) (hw : ∀ d ∈ data, d.wait = false)
    (hv : u.versionAt o = .ok (ver, v)) (hpl : v.condPlaces o (condPieces o.req o.src o.dst 4096 0) = .ok (places, x))
    (hr : x.engReady o.id 8 ver = .ok y) (hold : (y.engHostDone o.id).landRead o.core ver 8 = (old, z))
    (hne : old ≠ reqGet o.req 80 8) :
    s.condCopy o = .ok (.more { o with done := 1, status := o.status ||| stCondFail }, z) := by
  have hnone : (data.any fun d => d.wait) = false := List.any_eq_false.2 fun d hm => by rw [hw d hm]; exact Bool.false_ne_true
  unfold State.condCopy
  rw [if_neg (not_not.2 h0), hl, ok_bind]
  dsimp only
  rw [hd, ok_bind]
  dsimp only
  rw [hnone, if_neg Bool.false_ne_true, hv, ok_bind]
  dsimp only
  rw [hpl, ok_bind]
  dsimp only
  rw [hr, ok_bind, hold]
  dsimp only
  rw [if_pos hne]
  rfl

/-- The bytes of a piece to scratchpad (R366, entry 63). -/
theorem pieceLen_rows (da : Int) (left : Nat) :
    pieceLen 1 da left = if left ≤ 512 then left else 512 - (da.toNat + 512) % 8 := by
  have hmin : Nat.min (Nat.min 512 left) (pageRoom 1 da) = Nat.min 512 left := by
    have hroom : pageRoom 1 da = 0x10000 := if_pos rfl
    rw [hroom]
    exact Nat.min_eq_left ((Nat.min_le_left 512 left).trans (by decide))
  unfold pieceLen
  dsimp only
  rw [hmin]
  by_cases h : left ≤ 512
  · rw [if_pos h, if_pos (Nat.min_eq_right h)]
    exact Nat.min_eq_right h
  · have h512 : Nat.min 512 left = 512 := Nat.min_eq_left (Nat.le_of_not_le h)
    rw [if_neg h, h512, if_neg (by omega)]

/-- A piece between scratchpad rows. -/
theorem copyPiece_rows {off m more cs cd n k : Nat} {sa da : Int} (hn : rowBytes o.req = n) (hk : o.done / n = k)
    (hoff : o.done % n = off) (hlt : o.done < rowCount o.req * n) (hsrc : srcKind o.req = 1) (hdst : dstKind o.req = 1)
    (hland : o.land = 0) (hpois : o.poisoned = false) (hahead : o.ahead = {})
    (hsa : sa = (srcRow o.req o.src k + off) % (2 ^ 64 : Int)) (hda : da = (dstRow o.req o.dst k + off) % (2 ^ 64 : Int))
    (hm : m = if n - off ≤ 512 then n - off else 512 - (da.toNat + 512) % 8)
    (hmore : more = readAhead o.req sa (srcRow o.req o.src k) (dstRow o.req o.dst k) m (n - off - m))
    (hcs : s.spRow (s.wg o.wg) sa (m + more) = .ok cs) (hcd : s.spRow (s.wg o.wg) da m = .ok cd)
    (hclean : s.spPoisonRuns cs (m + more) = []) :
    ∃ f, s.copyPiece o = .ok (.more { o with
      done := o.done + m, keptLine := none
      ahead := if more = 0 then {} else { len := more, x := readN s.mem.sp (cs + m) more } },
      { (s.engHostDone o.id).spStore cd m (readN s.mem.sp cs m) with freeCtr := f }) := by
  have hgo : ¬rowCount o.req * n ≤ o.done := Nat.not_le.2 hlt
  have hsame : (sa + (({} : EngData).len : Nat)) % (2 ^ 64 : Int) = sa := by
    rw [hsa]
    simp
  have hfrom : s.engFrom o 1 sa (m + more) = .ok ({ len := m + more, x := readN s.mem.sp cs (m + more) }, s) := by
    rw [State.engFrom, if_pos rfl, hcs, ok_bind, hclean]
    rfl
  have hplace : s.engPlace o 1 da m = .ok (.cell cd, s) := by
    rw [State.engPlace, if_pos rfl, hcd]
    rfl
  have hlow := readN_low s.mem.sp cs m more
  have hhigh := readN_high s.mem.sp cs m more
  obtain ⟨landed, hpiece⟩ := engPiece_cell (s := s.engHostDone o.id) (c := cd) (m := m) (x := readN s.mem.sp cs m)
    (a := sa.toNat) (row := (dstRow o.req o.dst k).toNat) (off := off) (k := n) hpois
  obtain ⟨f, hf⟩ := landSectors_nowhere (s := (s.engHostDone o.id).spStore cd m (readN s.mem.sp cs m)) o.core landed
  have hkept : lastKept (.cell cd) { len := m, x := readN s.mem.sp cs m } sa.toNat = none := by
    have hno : ((srcParts sa.toNat m).getLast?.filter fun p =>
        partKept (.cell cd) { len := m, x := readN s.mem.sp cs m } p) = none := by
      simp [partKept, LandLoc.outside]
    rw [lastKept, hno, Option.map_none]
  refine ⟨f, ?_⟩
  unfold State.copyPiece
  simp only [hn, if_neg hgo, hk, hoff, landAt_none hland, ok_bind, ← hsa, ← hda, hdst, pieceLen_rows, ← hm, ← hmore, hsrc,
    hahead, hsame, Nat.sub_zero, hfrom, hplace, Bool.false_eq_true, if_false, State.engReady, EngData.empty_append,
    EngData.part_clean, Nat.mul_zero, Nat.pow_zero, Nat.div_one, hlow, hhigh, hpiece, hf, hkept, ite_self, status_or_zero,
    pure_eq_ok]

end

/-! ### The head of a gather queue -/

section
variable {s t : State} {core : Nat} {o : EngOp}

theorem gather_head (ho : s.headOp core 4 = some o) (hp : o.park = none) :
    (∀ r, o.kind = .gather → s.gatherRow o = r → execGatherOperation core s = .next (s.engDo o r)) ∧
    (∀ x, o.kind = .fence x → execGatherOperation core s = .next (s.passFence o.id)) := by
  simp only [execGatherOperation, ho, hp, Option.isSome_none, Bool.false_eq_true, if_false]
  refine ⟨fun r hk hr => ?_, fun x hk => ?_⟩
  · rw [hk, ← hr]
  · rw [hk]

theorem gatherRow_done (h : reqGet o.req 24 4 ≤ o.done) : s.gatherRow o = .ok (.finish o, s) := if_pos h

/-- The width of a gather's indices. -/
def gatherWidth (r : BitVec 1024) : Nat := if reqGet r 56 1 / 2 % 2 = 1 then 8 else 4

/-- A gather's index at a scratchpad cell is all ones (R370). -/
def State.idleIndex (s : State) (r : BitVec 1024) (ci : Nat) : Prop :=
  readN s.mem.sp ci (gatherWidth r) = 2 ^ (8 * gatherWidth r) - 1

theorem spPoisonRange_leaves (s : State) (c n : Nat) :
    (s.spPoisonRange c n).mem.sp = s.mem.sp ∧ (s.spPoisonRange c n).eng = s.eng := by
  unfold State.spPoisonRange
  split <;> exact ⟨rfl, rfl⟩

section
variable {ci cd : Nat} (hk : o.kind = .gather) (hland : o.land = 0) (hpois : o.poisoned = false)
  (hlt : o.done < reqGet o.req 24 4)
  (hci : s.spCell (s.wg o.wg) (BitVec.ofNat 64 (reqGet o.req 16 4 + o.done * gatherWidth o.req)) (gatherWidth o.req) = .ok ci)
  (hcd : s.spCell (s.wg o.wg) (BitVec.ofNat 64 (reqGet o.req 20 4 + o.done * reqGet o.req 28 4)) (reqGet o.req 28 4) = .ok cd)
include hland hlt hci hcd

theorem gatherRow_poisoned (hbad : s.mem.spPoisoned ci (gatherWidth o.req) = true) :
    ∃ f, s.gatherRow o = .ok (.more { o with done := o.done + 1, status := o.status ||| stPoison },
      { s.spPoisonRange cd (reqGet o.req 28 4) with freeCtr := f }) := by
  obtain ⟨f, hf⟩ := landSectors_nowhere (s := s.spPoisonRange cd (reqGet o.req 28 4)) o.core
    (sectorsOf (reqGet o.req 20 4 + o.done * reqGet o.req 28 4) (reqGet o.req 28 4))
  refine ⟨f, ?_⟩
  unfold gatherWidth at hci hbad
  simp only [State.gatherRow, if_neg (Nat.not_le.2 hlt), landAt_none hland, ok_bind, hci, hcd, hbad, if_true, pure_eq_ok,
    State.engWriteSp, hf]

/-- What a gather does with the row it has read, once its index is known. -/
def State.gatherWrites (s : State) (o : EngOp) (cd : Nat) (out : Bool) (d : EngData) : EngNext × State :=
  if o.cert ∧ d.host ≠ [] then (.more { o with done := o.done + 1, status := o.status ||| stEgress }, s.engHostDone o.id)
  else (.more { o with done := o.done + 1, status :=
      if d.poison.isEmpty && !o.poisoned then (if out then o.status ||| stRange else o.status)
      else (if out then o.status ||| stRange else o.status) ||| stPoison },
    ((s.engHostDone o.id).engWriteSp cd d o.poisoned).landSectors o.core .nowhere
      (sectorsOf (reqGet o.req 20 4 + o.done * reqGet o.req 28 4) (reqGet o.req 28 4)))

section
variable (hgood : s.mem.spPoisoned ci (gatherWidth o.req) = false)
include hgood

theorem gatherRow_zeros {out : Bool}
    (hz : s.idleIndex o.req ci ∧ out = false ∨
      ¬s.idleIndex o.req ci ∧ reqGet o.req 32 8 ≤ readN s.mem.sp ci (gatherWidth o.req) ∧ out = true) :
    s.gatherRow o = .ok (s.gatherWrites o cd out { len := reqGet o.req 28 4 }) := by
  unfold State.idleIndex gatherWidth at hz
  unfold gatherWidth at hci hgood
  obtain ⟨hi, rfl⟩ | ⟨hi, hle, rfl⟩ := hz
  · simp only [State.gatherRow, if_neg (Nat.not_le.2 hlt), landAt_none hland, ok_bind, hci, hcd, hgood, Bool.false_eq_true,
      if_false, beq_iff_eq.2 hi, Bool.not_true, Bool.false_and, Bool.true_or, if_true, pure_eq_ok]
    unfold State.gatherWrites
    split <;> rfl
  · simp only [State.gatherRow, if_neg (Nat.not_le.2 hlt), landAt_none hland, ok_bind, hci, hcd, hgood, Bool.false_eq_true,
      if_false, beq_eq_false_iff_ne.2 hi, Bool.not_false, Bool.true_and, decide_eq_true hle, Bool.or_true, if_true, pure_eq_ok]
    unfold State.gatherWrites
    split <;> rfl

theorem gatherRow_reads {d : EngData} {base : Nat} (hi : ¬s.idleIndex o.req ci)
    (hx : readN s.mem.sp ci (gatherWidth o.req) < reqGet o.req 32 8)
    (hb : base = sideBase (if reqGet o.req 56 1 % 2 == 1 then 2 else 0) (reqGet o.req 0 8) (reqGet o.req 8 8) o.src)
    (hread : s.engRead o.who o.id o.core .gather (reqGet o.req 56 1 % 2 == 1) none o.cert
      (pageParts (rowAddr 0 base (reqInt o.req 40) (readN s.mem.sp ci (gatherWidth o.req))).toNat (reqGet o.req 28 4)) {} =
        .ok (d, t)) (hw : d.wait = false) :
    s.gatherRow o = .ok (t.gatherWrites o cd false d) := by
  unfold State.idleIndex gatherWidth at hi
  unfold gatherWidth at hci hgood hx hread
  subst hb
  simp only [State.gatherRow, if_neg (Nat.not_le.2 hlt), landAt_none hland, ok_bind, hci, hcd, hgood, Bool.false_eq_true,
    if_false, beq_eq_false_iff_ne.2 hi, Bool.not_false, Bool.true_and, decide_eq_false (Nat.not_le.2 hx), Bool.or_false,
    hread, hw, pure_eq_ok]
  unfold State.gatherWrites
  split <;> rfl

end

end

theorem gatherWrites_writes {out : Bool} {d : EngData} {cd : Nat} (hpois : o.poisoned = false)
    (hhost : o.cert = false ∨ d.host = []) (hclean : d.poison = []) :
    ∃ f, s.gatherWrites o cd out d = (.more { o with done := o.done + 1, status := if out then o.status ||| stRange else o.status },
      { (s.engHostDone o.id).spStore cd d.len d.x with freeCtr := f }) := by
  have hno : ¬(o.cert = true ∧ d.host ≠ []) := by
    rintro ⟨hc, hh⟩
    rcases hhost with h | h
    · exact Bool.false_ne_true (h.symm.trans hc)
    · exact hh h
  obtain ⟨f, hf⟩ := landSectors_nowhere (s := (s.engHostDone o.id).spStore cd d.len d.x) o.core
    (sectorsOf (reqGet o.req 20 4 + o.done * reqGet o.req 28 4) (reqGet o.req 28 4))
  refine ⟨f, ?_⟩
  simp only [State.gatherWrites, if_neg hno, hclean, hpois, State.engWriteSp, List.isEmpty_nil, Bool.not_false, Bool.and_self,
    if_true, Bool.false_eq_true, if_false, List.foldl_nil, hf]

theorem gatherWrites_barred {out : Bool} {d : EngData} {cd : Nat} (hc : o.cert = true) (hh : d.host ≠ []) :
    s.gatherWrites o cd out d =
      (.more { o with done := o.done + 1, status := o.status ||| stEgress }, s.engHostDone o.id) :=
  if_pos ⟨hc, hh⟩

end

end Sys2Proof.Machine

namespace Sys2Proof.Claims
open Sys2Proof.Machine

theorem copyQueueEvents : Claims.CopyQueueEvents := by
  intro s t u v x y z core q cs cd old o p loc ver data places
  dsimp only
  intro hs hq ho hp
  obtain ⟨hpost, hcond, hbulk, hbad, hfence⟩ := copyQueue_head hs hq ho hp
  refine ⟨fun hk hlt hsrc hdst hland hpois hahead hcs hcd hclean => ?_, fun hk hc => ?_, fun hk hle st hst hl => ?_,
    fun hk hc => ?_, fun hk h0 hl hd hw hv hpl hr hold hne => ?_, fun hk h0 st hst hl => ?_, fun hk st hst hl => ?_, hfence,
    fun hk _ => hbulk hk⟩
  · obtain ⟨f, hf⟩ := copyPiece_rows rfl rfl rfl hlt hsrc hdst hland hpois hahead rfl rfl rfl rfl hcs hcd hclean
    exact ⟨_, hpost _ hk hf, rfl, rfl, rfl⟩
  · exact hpost _ hk hc
  · exact (hpost _ hk (copyPiece_done hle)).trans (congrArg Host.Outcome.next (endOp_arrives hst hl))
  · exact hcond _ hk hc
  · exact hcond _ hk (condCopy_fails h0 hl hd hw hv hpl hr hold hne)
  · exact (hcond _ hk (condCopy_done h0)).trans (congrArg Host.Outcome.next (endOp_arrives hst hl))
  · exact (hbad hk).trans (congrArg Host.Outcome.next (endOp_arrives (o := { o with status := stMalformed }) hst hl))

theorem gatherEvents : Claims.GatherEvents := by
  intro s t core ci cd o d loc
  dsimp only
  intro ho hp
  obtain ⟨hrow, hfence⟩ := gather_head ho hp
  refine ⟨fun hk hland hpois hlt hci hcd => ⟨fun hbad => ?_, fun hgood => ⟨fun hi => ?_, fun hi hle => ?_,
    fun hi hx hread hw => ⟨fun hhost hclean => ?_, fun hc hh => ?_⟩⟩⟩, fun hk hle hl st hst => ?_, hfence⟩
  · obtain ⟨f, hf⟩ := gatherRow_poisoned hland hlt hci hcd hbad
    obtain ⟨hsp, heng⟩ := spPoisonRange_leaves s cd (reqGet o.req 28 4)
    refine ⟨_, hrow _ hk hf, hsp, ?_⟩
    exact congrArg (fun e : Engines => e.ops.map fun y => if y.id = o.id ∧ y.q = o.q ∧ y.core = o.core then
      { o with done := o.done + 1, status := o.status ||| stPoison } else y) heng
  · obtain ⟨f, hf⟩ := gatherWrites_writes (s := s) (out := false) (cd := cd) (d := { len := reqGet o.req 28 4 }) hpois
      (.inr rfl) rfl
    exact ⟨_, hrow _ hk ((gatherRow_zeros hland hlt hci hcd hgood (.inl ⟨hi, rfl⟩)).trans (congrArg _ hf)), rfl, rfl⟩
  · obtain ⟨f, hf⟩ := gatherWrites_writes (s := s) (out := true) (cd := cd) (d := { len := reqGet o.req 28 4 }) hpois
      (.inr rfl) rfl
    exact ⟨_, hrow _ hk ((gatherRow_zeros hland hlt hci hcd hgood (.inr ⟨hi, hle, rfl⟩)).trans (congrArg _ hf)), rfl, rfl⟩
  · obtain ⟨f, hf⟩ := gatherWrites_writes (s := t) (out := false) (cd := cd) hpois hhost hclean
    exact ⟨_, hrow _ hk ((gatherRow_reads hland hlt hci hcd hgood hi hx rfl hread hw).trans (congrArg _ hf)), rfl⟩
  · exact ⟨_, hrow _ hk ((gatherRow_reads hland hlt hci hcd hgood hi hx rfl hread hw).trans
      (congrArg _ (gatherWrites_barred hc hh))), rfl⟩
  · exact (hrow _ hk (gatherRow_done hle)).trans (congrArg Host.Outcome.next (endOp_arrives hst hl))

end Sys2Proof.Claims

/-- Settles O46: what the head of a copy queue and of a gather queue does, by its kind and its progress. -/
theorem copyEngineEvents : Obligations.CopyEngineEvents :=
  ⟨Sys2Proof.Claims.copyQueueEvents, Sys2Proof.Claims.gatherEvents⟩

end

section
/-! PROOFS. The head of an MX core's queue (R390-R396, R403, R405, R408). -/

namespace Sys2Proof.Machine

/-! ### Tables of tiles and accumulators -/

/-- A run filled with the default reads as the default. -/
theorem get_fill_default {α : Type} [DecidableEq α] (d : α) (m : Tab α) {a n k : Nat} (ha : a ≤ k) (hk : k < a + n) :
    Tab.get d (Tab.fill d m a n d) k = d := by
  rw [Tab.fill, if_pos rfl, Tab.get_filterKeys]
  have hno : (decide (k < a) || decide (a + n ≤ k)) = false := by
    rw [decide_eq_false (by omega), decide_eq_false (by omega)]
    rfl
  rw [hno]
  rfl

/-- Cells written one by one from a key: those are what was written, and the others stand as before. -/
theorem get_foldl_set {α : Type} [DecidableEq α] (d : α) (t : Tab α) (b n k : Nat) (f : Nat → α) :
    Tab.get d ((List.range n).foldl (fun t j => Tab.set d t (b + j) (f j)) t) k =
      if b ≤ k ∧ k < b + n then f (k - b) else Tab.get d t k := by
  induction n with
  | zero => rw [List.range_zero, List.foldl_nil, if_neg (by omega)]
  | succ n ih =>
    rw [List.range_succ, List.foldl_append, List.foldl_cons, List.foldl_nil, Tab.get_set, ih]
    by_cases h : b + n = k
    · rw [if_pos h, if_pos (by omega)]
      exact congrArg f (by omega)
    · rw [if_neg h]
      by_cases hk : b ≤ k ∧ k < b + n
      · rw [if_pos hk, if_pos (by omega)]
      · rw [if_neg hk, if_neg (by omega)]

/-- Rows of at most `w` cells, `w` apart, written one after the other. -/
theorem get_foldl_rows {α : Type} [DecidableEq α] (d : α) (t : Tab α) (b w : Nat) {rows cols i j : Nat} (hw : cols ≤ w)
    (f : Nat → Nat → α) (hj : j < cols) :
    Tab.get d ((List.range rows).foldl (fun t i => (List.range cols).foldl (fun t j => Tab.set d t (b + i * w + j) (f i j)) t) t)
      (b + i * w + j) = if i < rows then f i j else Tab.get d t (b + i * w + j) := by
  induction rows with
  | zero => rw [List.range_zero, List.foldl_nil, if_neg (Nat.not_lt_zero i)]
  | succ rows ih =>
    rw [List.range_succ, List.foldl_append, List.foldl_cons, List.foldl_nil, get_foldl_set, ih]
    by_cases h : i = rows
    · subst h
      rw [if_pos (by omega), if_pos (Nat.lt_succ_self i)]
      exact congrArg (f i) (by omega)
    · have hapart : ¬(b + rows * w ≤ b + i * w + j ∧ b + i * w + j < b + rows * w + cols) := by
        rintro ⟨h1, h2⟩
        rcases Nat.lt_or_gt_of_ne h with hlt | hgt
        · have := Nat.mul_le_mul_right w (Nat.succ_le_of_lt hlt)
          rw [Nat.succ_mul] at this
          omega
        · have := Nat.mul_le_mul_right w (Nat.succ_le_of_lt hgt)
          rw [Nat.succ_mul] at this
          omega
      rw [if_neg hapart]
      by_cases hi : i < rows
      · rw [if_pos hi, if_pos (Nat.lt_succ_of_lt hi)]
      · rw [if_neg hi, if_neg (by omega)]

/-! ### What an entry leaves -/

/-- An MX core's queue without an entry. -/
def State.mxLeft (s : State) (o : MxOp) : List MxOp := s.eng.mx.filter fun x => !(x.id == o.id && x.core == o.core)

theorem dropMx_leaves (s : State) (o : MxOp) :
    (s.dropMx o).eng.mx = s.mxLeft o ∧ (s.dropMx o).mem = s.mem ∧ (s.dropMx o).mx = s.mx := by
  unfold State.dropMx State.idleFrom
  split <;> exact ⟨rfl, rfl, rfl⟩

section
variable {s t : State} {o p : MxOp} {core : Nat}

/-- What the head of an MX queue does, by its kind. -/
theorem mxQueue_head (ho : s.headMx core = some o) (hp : o.park = none) (hc : core < 256) :
    (o.kind = .zeroT → execMxQueueEntry core s = .next ((s.zeroTile ((s.wg o.wg).tileKey o.d)).dropMx o)) ∧
    (o.kind = .zeroC ∨ o.kind = .mode → execMxQueueEntry core s = .next ((s.zeroAcc ((s.wg o.wg).accKey o.d)).dropMx o)) ∧
    (o.kind = .mma → execMxQueueEntry core s = .next ((s.multiply o).dropMx o)) ∧
    (∀ r, o.kind = .ldt → s.ldtRow o = r → execMxQueueEntry core s = .next (s.mxDo o r)) ∧
    (∀ r, o.kind = .lds → s.ldsRowLoad o = r → execMxQueueEntry core s = .next (s.mxDo o r)) ∧
    (∀ r, o.kind = .drain → o.abort = 0 → s.drainSegment o = r → execMxQueueEntry core s = .next (s.mxDo o r)) ∧
    (o.kind = .seed → execMxQueueEntry core s = .next ((s.bindSlot o).dropMx o)) ∧
    (o.kind = .emit → execMxQueueEntry core s = .next ((s.emitSlot o.wg o.d).dropMx o)) ∧
    (∀ x, o.kind = .fence x → execMxQueueEntry core s = .next (s.passFence o.id)) := by
  have hgo : ¬(o.park.isSome = true ∨ 256 ≤ core) := by
    rw [hp]
    simpa using hc
  have other : o.kind ≠ .drain → ¬(o.abort ≠ 0 ∧ o.kind = .drain) := fun h hd => h hd.2
  simp only [execMxQueueEntry, ho]
  refine ⟨fun hk => ?_, ?_, fun hk => ?_, fun r hk hr => ?_, fun r hk hr => ?_, fun r hk ha hr => ?_, fun hk => ?_,
    fun hk => ?_, fun x hk => ?_⟩
  · rw [if_neg (other (by rw [hk]; decide)), if_neg hgo, hk]
  · rintro (hk | hk)
    · rw [if_neg (other (by rw [hk]; decide)), if_neg hgo, hk]
    · rw [if_neg (other (by rw [hk]; decide)), if_neg hgo, hk]
  · rw [if_neg (other (by rw [hk]; decide)), if_neg hgo, hk]
  · rw [if_neg (other (by rw [hk]; decide)), if_neg hgo, hk, ← hr]
  · rw [if_neg (other (by rw [hk]; decide)), if_neg hgo, hk, ← hr]
  · rw [if_neg (fun h => h.1 ha), if_neg hgo, hk, ← hr]
  · rw [if_neg (other (by rw [hk]; decide)), if_neg hgo, hk]
  · rw [if_neg (other (by rw [hk]; decide)), if_neg hgo, hk]
  · rw [if_neg (other (by rw [hk]; exact nofun)), if_neg hgo, hk]

theorem ldtRow_done (h : shRows o.shA ≤ o.done) : s.ldtRow o = .ok (.finish o, s) := if_pos h

theorem ldsRowLoad_done (h : shRows o.shA ≤ o.done) : s.ldsRowLoad o = .ok (.finish o, s) := if_pos h

theorem zeroTile_tile {key i : Nat} (hi : i < 32768) : Tab.get 0 (s.zeroTile key).mx.tile (key * 32768 + i) = 0 :=
  get_fill_default 0 _ (by omega) (by omega)

theorem zeroAcc_acc {g : Workgroup} {c i j : Nat} (hi : i < 128) (hj : j < 192) :
    Tab.get 0 (s.zeroAcc (g.accKey c)).mx.acc (g.cellKey c i j) = 0 := by
  have hkey : g.cellKey c i j = g.accKey c * 24576 + i * 192 + j := rfl
  exact get_fill_default 0 _ (by omega) (by omega)

/-! ### An integer multiply (R207, R396) -/

theorem truncI_lt (n : Nat) (x : Int) : truncI n x < 2 ^ n := by
  have hpos : (0 : Int) < 2 ^ n := by positivity
  have hlt := Int.emod_lt_of_pos x hpos
  have hnn := Int.emod_nonneg x (ne_of_gt hpos)
  rw [truncI, Int.toNat_lt hnn]
  exact_mod_cast hlt

/-- The sum of the products of a row and a column (R396). -/
def State.dotProduct (s : State) (o : MxOp) (i j : Nat) : Int :=
  (List.range (shCols o.shA)).foldl (fun (a : Int) k =>
    a + elemInt (shFmt o.shA) o.mode.toNat (s.tileCode (s.wg o.wg) o.a o.shA i k) *
      elemInt (shFmt o.shA) o.mode.toNat (s.tileCode (s.wg o.wg) o.b o.shB k j)) 0

theorem multiply_mem : (s.multiply o).mem = s.mem ∧ (s.multiply o).eng = s.eng := ⟨rfl, rfl⟩

theorem multiply_cell {i j : Nat} (hf : fmtFloat (shFmt o.shA) = false) (h14 : shFmt o.shA ≠ 14) (hcols : shCols o.shB ≤ 192)
    (hi : i < shRows o.shA) (hj : j < shCols o.shB) :
    (s.multiply o).cell (s.wg o.wg) o.d false i j =
      truncI 32 (signed 32 (s.cell (s.wg o.wg) o.d false i j) + s.dotProduct o i j) := by
  have hacc := get_foldl_rows (0 : BitVec 32) s.mx.acc ((s.wg o.wg).accKey o.d * 24576) 192 (rows := shRows o.shA) (i := i)
    hcols (fun i j => BitVec.ofNat 32 (truncI 32 (signed 32 (s.cell (s.wg o.wg) o.d false i j) + s.dotProduct o i j))) hj
  rw [if_pos hi] at hacc
  have hmul : (s.multiply o).mx.acc = (List.range (shRows o.shA)).foldl (fun t i =>
      (List.range (shCols o.shB)).foldl (fun t j => Tab.set 0 t ((s.wg o.wg).accKey o.d * 24576 + i * 192 + j)
        (BitVec.ofNat 32 (truncI 32 (signed 32 (s.cell (s.wg o.wg) o.d false i j) + s.dotProduct o i j)))) t) s.mx.acc := by
    simp only [State.multiply, beq_eq_false_iff_ne.2 h14, hf, Bool.false_eq_true, if_false, setCell, intCell, if_neg h14,
      List.foldl_map, State.dotProduct, Workgroup.cellKey]
  rw [State.cell, if_neg Bool.false_ne_true, hmul, Workgroup.cellKey, hacc, BitVec.toNat_ofNat,
    Nat.mod_eq_of_lt (truncI_lt 32 _)]

end

end Sys2Proof.Machine

open Sys2Proof.Machine in
/-- Settles O47: what each kind of entry does at the head of an MX queue. -/
theorem matrixQueueEvents : Obligations.MatrixQueueEvents := by
  intro s t core o p
  dsimp only
  intro ho hp hc
  obtain ⟨hzeroT, hzeroC, hmma, hldt, hlds, hdrain, hseed, hemit, hfence⟩ := mxQueue_head ho hp hc
  refine ⟨fun hk => ?_, fun hk => ?_, fun hk hf h14 hcols => ?_, hmma, fun hk => ⟨hldt _ hk, fun hle => hldt _ hk (ldtRow_done hle)⟩,
    fun hk => ⟨hlds _ hk, fun hle => hlds _ hk (ldsRowLoad_done hle)⟩, fun hk ha => ⟨hdrain _ hk ha, hdrain _ hk ha⟩, hseed,
    hemit, hfence⟩
  · obtain ⟨hmx, hmem, htabs⟩ := dropMx_leaves (s.zeroTile ((s.wg o.wg).tileKey o.d)) o
    refine ⟨_, hzeroT hk, hmx, hmem, fun i hi => ?_⟩
    rw [htabs]
    exact zeroTile_tile hi
  · obtain ⟨hmx, hmem, htabs⟩ := dropMx_leaves (s.zeroAcc ((s.wg o.wg).accKey o.d)) o
    refine ⟨_, hzeroC hk, hmx, hmem, fun i j hi hj => ?_⟩
    rw [htabs]
    exact zeroAcc_acc hi hj
  · obtain ⟨hmx, hmem, htabs⟩ := dropMx_leaves (s.multiply o) o
    refine ⟨_, hmma hk, hmx, hmem, fun i j hi hj => ?_⟩
    rw [State.cell, htabs]
    exact multiply_cell hf h14 hcols hi hj

end

section
/-! PROOFS. What comes back to an issuer of the fabric (R162-R169, R175), and what an IO die does with what arrives (R164,
R168, R170-R173). -/

namespace Sys2Proof.Machine

/-! ### At the issuer -/

section
variable {s : State} {id reason detail core code : Nat} {data : Word} {f : Flight} {e : WcEntry}

theorem remoteResponse_answers (h : s.awaitsAck id = false) : execRemoteResponse id reason detail data s =
    .next (s.answerRequest id (if reason = 0 then .data data else .fault reason detail)) := by
  rw [execRemoteResponse, h, if_neg Bool.false_ne_true]

theorem remoteTimeout_late (h : s.awaitsAck id = false) (hl : ∃ r ∈ s.fab.remotes, r.id = id ∧ r.sent + 15000 ≤ s.tick) :
    execRemoteTimeout id s = .next (s.answerRequest id (.fault 4 0)) := by
  have hyes : (s.fab.remotes.any fun r => r.id == id && decide (r.sent + 15000 ≤ s.tick)) = true := by
    obtain ⟨r, hr, hid, ht⟩ := hl
    exact List.any_eq_true.2 ⟨r, hr, by rw [hid, decide_eq_true ht, beq_self_eq_true, Bool.and_self]⟩
  rw [execRemoteTimeout, h, hyes]
  rfl

theorem remoteTimeout_early (hl : ∀ r ∈ s.fab.remotes, r.id = id → s.tick < r.sent + 15000) :
    execRemoteTimeout id s = .next s := by
  have hno : (s.fab.remotes.any fun r => r.id == id && decide (r.sent + 15000 ≤ s.tick)) = false := by
    rw [List.any_eq_false]
    intro r hr hb
    rw [Bool.and_eq_true, beq_iff_eq, decide_eq_true_eq] at hb
    exact absurd (hl r hr hb.1) (Nat.not_lt.2 hb.2)
  rw [execRemoteTimeout, hno, Bool.and_false]
  rfl

theorem lineWriteAck_performed (h : s.fab.flights.find? (fun f => f.id == id) = some f) :
    execLineWriteAck id 0 s = .next (({ s with fab := { s.fab with
      flights := s.fab.flights.filter fun g => g.id != id } } : State).answerRequest id (.data 0)) := by
  simp only [execLineWriteAck, h, if_true]

theorem lineWriteAck_failed (h : s.fab.flights.find? (fun f => f.id == id) = some f) (hc : code ≠ 0) :
    execLineWriteAck id code s = .next ((({ s with fab := { s.fab with
        flights := s.fab.flights.filter fun g => g.id != id } } : State).aer f.ctx
      { va := f.line * 128, bytes := f.bytes, peer := f.peer, target := f.target
        kind := if code = 1 then 3 else 4 }).answerRequest id (.data 0)) := by
  simp only [execLineWriteAck, h, if_neg hc]

theorem drainAll_one (h : s.keyInFlight e = false) : s.drainAll [e] = s.drainEntry e := by
  rw [State.drainAll, h, if_neg Bool.false_ne_true, State.drainAll]

theorem drainEntry_sends (hh : field (s.peer e.part e.peer) 63 62 = 2) (hl : field (s.peer e.part e.peer) 57 48 = e.lease) :
    s.drainEntry e = ({ s with fab := { s.fab with
      wcb := s.fab.wcb.filter fun x => x != e
      nextId := s.fab.nextId + 1
      flights := s.fab.flights ++ [({ id := s.fab.nextId, core := e.core, peer := e.peer, target := e.target, lease := e.lease
                                      line := e.line, bytes := popCount 128 e.mask.toNat, ctx := e.ctx } : Flight)] } }.send
      (.lineWrite s.fab.nextId e.peer e.target e.lease (e.line * 128) e.data e.mask 0 (Config.plane s.fab.nextId).val)) :=
  if_neg (not_or.2 ⟨not_not.2 hh, not_not.2 hl⟩)

theorem drainEntry_drops (h : field (s.peer e.part e.peer) 63 62 ≠ 2 ∨ field (s.peer e.part e.peer) 57 48 ≠ e.lease) :
    s.drainEntry e = ({ s with fab := { s.fab with
      wcb := s.fab.wcb.filter fun x => x != e, dropped := s.fab.dropped + 1 } }.aer e.ctx {
        va := e.line * 128, bytes := popCount 128 e.mask.toNat, peer := e.peer, target := e.target
        kind := if field (s.peer e.part e.peer) 63 62 ≠ 2 then 1 else 2 }) :=
  if_pos h

end

/-! ### At the target: accesses (R164) -/

section
variable {s u : State} {id peer part ctx lease va n seq : Nat} {op : RemOp} {x y : Word} {data : BitVec 1024}
  {mask : BitVec 128} {rel : Bool} {t : Trans}

/-- An access as it stands at the IO die. -/
def State.inAccess (s : State) (id peer ctx va : Nat) (op : RemOp) (n : Nat) (x y : Word) : InRemote :=
  { id := id, peer := peer, ctx := ctx, va := va, op := op, size := n, x := x, y := y
    key := (ioWho ctx (ioDie id peer)).key (remKind op) (BitVec.ofNat 64 va), tick := s.tick }

theorem access_refused (h : s.accepts ctx peer part lease = false) :
    execInboundRemoteAccess id peer part ctx lease va op n x y s =
      .next (s.send (.remoteAnswer id peer (.fault 1 0))) := by
  rw [execInboundRemoteAccess, h]
  rfl

theorem access_deferred (h : s.accepts ctx peer part lease = true) (hc : s.checkpointing = true) (hop : op ≠ .load) :
    execInboundRemoteAccess id peer part ctx lease va op n x y s = .next s.defer := by
  rw [execInboundRemoteAccess, h, Bool.not_true, if_neg Bool.false_ne_true, if_pos ⟨hc, hop⟩]

section
variable (h : s.accepts ctx peer part lease = true) (hgo : s.checkpointing = false ∨ op = .load)
include h hgo

theorem access_held (hh : s.remHeld id peer ctx va op n = some u) :
    execInboundRemoteAccess id peer part ctx lease va op n x y s = .next u := by
  have hno : ¬(s.checkpointing = true ∧ op ≠ .load) := by
    rintro ⟨hc, hop⟩
    rcases hgo with hg | hg
    · exact Bool.false_ne_true (hg.symm.trans hc)
    · exact hop hg
  rw [execInboundRemoteAccess, h, Bool.not_true, if_neg Bool.false_ne_true, if_neg hno, hh]

theorem access_performs (hh : s.remHeld id peer ctx va op n = none) :
    execInboundRemoteAccess id peer part ctx lease va op n x y s =
      .next (s.inRemote (s.inAccess id peer ctx va op n x y)) := by
  have hno : ¬(s.checkpointing = true ∧ op ≠ .load) := by
    rintro ⟨hc, hop⟩
    rcases hgo with hg | hg
    · exact Bool.false_ne_true (hg.symm.trans hc)
    · exact hop hg
  rw [execInboundRemoteAccess, h, Bool.not_true, if_neg Bool.false_ne_true, if_neg hno, hh]
  rfl

end

section
variable (ht : s.ioTranslate ctx (ioDie id peer) (remKind op) (if op = .load then .r else .rw) va = .ok (t, u))
include ht

theorem inRemote_poisoned (hp : u.mem.poisoned t.pa n = true) :
    s.inRemote (s.inAccess id peer ctx va op n x y) = u.send (.remoteAnswer id peer (.fault 5 0)) := by
  unfold State.inRemote State.inAccess remNeeds
  dsimp only
  rw [ht]
  dsimp only
  rw [if_pos hp]

theorem inRemote_reads (hp : u.mem.poisoned t.pa n = false) (hop : op = .load) :
    s.inRemote (s.inAccess id peer ctx va op n x y) =
      (u.homeLoad (t.pa / 128)).send (.remoteAnswer id peer
        (.data (BitVec.ofNat 64 ((u.homeLoad (t.pa / 128)).mem.readCoh t.pa n)))) := by
  unfold State.inRemote State.inAccess remNeeds
  dsimp only
  rw [ht]
  dsimp only
  rw [if_neg (by rw [hp]; exact Bool.false_ne_true), if_pos hop, hop]
  rfl

theorem inRemote_updates (hp : u.mem.poisoned t.pa n = false) (hop : op ≠ .load) :
    s.inRemote (s.inAccess id peer ctx va op n x y) =
      ((match remNew op n ((u.homeTake (t.pa / 128)).mem.readCoh t.pa n) x y with
        | some v => (u.homeTake (t.pa / 128)).writePa t.pa n v
        | none => u.homeTake (t.pa / 128)).send (.remoteAnswer id peer
          (.data (BitVec.ofNat 64 ((u.homeTake (t.pa / 128)).mem.readCoh t.pa n))))) := by
  unfold State.inRemote State.inAccess remNeeds
  dsimp only
  rw [ht]
  dsimp only
  rw [if_neg (by rw [hp]; exact Bool.false_ne_true), if_neg hop] <;> rfl

end

/-! ### At the target: line writes and the store-fault log (R168, R170-R173) -/

/-- A line write as it stands at the IO die. -/
def State.inWrite (s : State) (id peer ctx va : Nat) (data : BitVec 1024) (mask : BitVec 128) (rel : Bool) : Inbound :=
  { id := id, peer := peer, ctx := ctx, va := va / 128 * 128, data := data, mask := mask, kind := rel.toNat, reason := 0
    tick := s.tick, bulk := none }

theorem write_refused (h : s.accepts ctx peer part lease = false) :
    execInboundLineWrite id peer part ctx lease va data mask rel s =
      .next ((s.countRefused (ioDie id peer) 1).send (.writeAck id peer 1)) := by
  rw [execInboundLineWrite, h]
  rfl

theorem write_deferred (h : s.accepts ctx peer part lease = true) (hc : s.checkpointing = true) :
    execInboundLineWrite id peer part ctx lease va data mask rel s = .next s.defer := by
  rw [execInboundLineWrite, h, Bool.not_true, if_neg Bool.false_ne_true, if_pos hc]

section
variable (h : s.accepts ctx peer part lease = true) (hc : s.checkpointing = false)
include h hc

theorem write_held (hh : s.ioHeld ctx (ioDie id peer) .write .w (va / 128 * 128) 128 = some u) :
    execInboundLineWrite id peer part ctx lease va data mask rel s = .next u := by
  rw [execInboundLineWrite, h, Bool.not_true, if_neg Bool.false_ne_true, hc, if_neg Bool.false_ne_true]
  dsimp only
  rw [hh]

section
variable (hh : s.ioHeld ctx (ioDie id peer) .write .w (va / 128 * 128) 128 = none)
include hh

theorem write_performed (ht : s.ioTranslate ctx (ioDie id peer) .write .w (va / 128 * 128) = .ok (t, u)) :
    execInboundLineWrite id peer part ctx lease va data mask rel s =
      .next ((u.writeLine (t.pa / 128) mask.toNat data.toNat).send (.writeAck id peer 0)) := by
  have hland : s.landLine (ioDie id peer) (s.inWrite id peer ctx va data mask rel) =
      (.performed, u.writeLine (t.pa / 128) mask.toNat data.toNat) := by
    unfold State.landLine State.inWrite
    dsimp only
    rw [ht]
  unfold State.inWrite at hland
  rw [execInboundLineWrite, h, Bool.not_true, if_neg Bool.false_ne_true, hc, if_neg Bool.false_ne_true]
  dsimp only
  rw [hh, hland]
  rfl

section
variable {k : FaultKey} {r lv : Nat} {a : Word}
  (ht : s.ioTranslate ctx (ioDie id peer) .write .w (va / 128 * 128) = .error (.fault k r lv a))
include ht

theorem write_faultRefused (hr : 2 < r) :
    execInboundLineWrite id peer part ctx lease va data mask rel s =
      .next ((s.countRefused (ioDie id peer) 1).send (.writeAck id peer 1)) := by
  have hland : s.landLine (ioDie id peer) (s.inWrite id peer ctx va data mask rel) =
      (.refused, s.countRefused (ioDie id peer) 1) := by
    unfold State.landLine State.inWrite
    dsimp only
    rw [ht]
    dsimp only
    rw [if_neg (Nat.not_le.2 hr)]
  unfold State.inWrite at hland
  rw [execInboundLineWrite, h, Bool.not_true, if_neg Bool.false_ne_true, hc, if_neg Bool.false_ne_true]
  dsimp only
  rw [hh, hland]
  rfl

theorem write_logged {b : LogBlock} (hr : r ≤ 2) (hb : s.logBlock (s.ctxPart ctx) = some b)
    (hroom : b.head < b.tail + 2 ^ b.log2) (hfirst : ∀ y ∈ s.fab.logWait, s.ctxPart y.ctx ≠ s.ctxPart ctx) :
    execInboundLineWrite id peer part ctx lease va data mask rel s =
      .next (s.logWrite (s.ctxPart ctx) b { s.inWrite id peer ctx va data mask rel with reason := r }) := by
  have hnone : (s.fab.logWait.any fun y => s.ctxPart y.ctx == s.ctxPart ctx) = false :=
    List.any_eq_false.2 fun y hy => by simpa using hfirst y hy
  have hlog : s.logFault { s.inWrite id peer ctx va data mask rel with reason := r } =
      (.logged, s.logWrite (s.ctxPart ctx) b { s.inWrite id peer ctx va data mask rel with reason := r }) := by
    unfold State.logFault State.inWrite
    dsimp only
    rw [hb]
    dsimp only
    rw [hnone, if_pos ⟨hroom, rfl⟩]
  have hland : s.landLine (ioDie id peer) (s.inWrite id peer ctx va data mask rel) =
      (.logged, s.logWrite (s.ctxPart ctx) b { s.inWrite id peer ctx va data mask rel with reason := r }) := by
    unfold State.inWrite at hlog
    unfold State.landLine State.inWrite
    dsimp only
    rw [ht]
    dsimp only
    rw [if_pos hr, hlog]
  unfold State.inWrite at hland
  rw [execInboundLineWrite, h, Bool.not_true, if_neg Bool.false_ne_true, hc, if_neg Bool.false_ne_true]
  dsimp only
  rw [hh, hland]
  rfl

end

end

end

theorem remoteFaultTimeout_eq {i : InRemote} (hf : s.fab.inRemote.find? (fun x => x.id == id && x.peer == peer) = some i) :
    ((∃ e ∈ s.xlat.faults, e.key = i.key ∧ s.replayLate e = true) → execRemoteFaultTimeout id peer s =
      .next ({ s with fab := { s.fab with inRemote := s.fab.inRemote.filter fun y => y != i } }.send
        (.remoteAnswer id peer (.fault 3 0)))) ∧
    (¬(∃ e ∈ s.xlat.faults, e.key = i.key ∧ s.replayLate e = true) → execRemoteFaultTimeout id peer s = .next s) := by
  have hany : (s.xlat.faults.any fun e => e.key == i.key && s.replayLate e) = true ↔
      ∃ e ∈ s.xlat.faults, e.key = i.key ∧ s.replayLate e = true := by simp
  refine ⟨fun hl => ?_, fun hl => ?_⟩
  · simp only [execRemoteFaultTimeout, hf, if_pos (hany.2 hl)]
  · simp only [execRemoteFaultTimeout, hf, if_neg (mt hany.1 hl)]

end

end Sys2Proof.Machine

namespace Sys2Proof.Claims
open Sys2Proof.Machine

theorem fabricIssuerEvents : Claims.FabricIssuerEvents := by
  intro s id reason detail core code data f e
  refine ⟨fun h => ⟨?_, fun hr => ?_, remoteTimeout_late h, remoteTimeout_early⟩, fun hf => ⟨lineWriteAck_performed hf,
    lineWriteAck_failed hf⟩, rfl, fun hdue hfree => ⟨fun hh hl => ?_, fun hno => ?_⟩⟩
  · exact remoteResponse_answers h
  · refine (remoteResponse_answers h).trans ?_
    rw [if_neg hr]
    rfl
  · rw [exec_writeCombiningDrain, execWriteCombiningDrain, hdue, drainAll_one hfree, drainEntry_sends hh hl]
  · rw [exec_writeCombiningDrain, execWriteCombiningDrain, hdue, drainAll_one hfree, drainEntry_drops hno]

theorem fabricTargetEvents : Claims.FabricTargetEvents := by
  intro s u id peer part ctx lease va n seq op x y data mask rel t i l b z
  dsimp only
  refine ⟨fun h => ⟨access_refused h, write_refused h⟩, fun h hc => ⟨write_deferred h hc, access_deferred h hc⟩,
    fun h hc => ⟨access_held h (.inl hc), write_held h hc⟩, fun h hgo hh ht => ⟨fun hp => ?_, fun hp => ⟨fun hop => ?_,
      fun v hv => ?_, fun hop hv => ?_⟩⟩, fun h hc hh => ⟨write_performed h hc hh, fun k r lv a ht =>
        ⟨write_faultRefused h hc hh ht, write_logged h hc hh ht⟩⟩, remoteFaultTimeout_eq, fun hb => ?_,
    ⟨rfl, fun hk => ?_, fun hk => ?_⟩, fun v hv hz => ?_⟩
  · exact (access_performs h hgo hh).trans (congrArg _ (inRemote_poisoned ht hp))
  · exact (access_performs h hgo hh).trans (congrArg _ (inRemote_reads ht hp hop))
  · have hop : op ≠ .load := by
      rintro rfl
      cases hv
    refine (access_performs h hgo hh).trans (congrArg _ ((inRemote_updates ht hp hop).trans ?_))
    rw [hv]
  · refine (access_performs h hgo hh).trans (congrArg _ ((inRemote_updates ht hp hop).trans ?_))
    rw [hv]
  · rw [exec_done, execDone, State.readDone, hb]
  · rw [exec_storeFaultTimeout, execStoreFaultTimeout, hk]
  · rw [exec_storeFaultTimeout, execStoreFaultTimeout, hk]
  · subst hv
    rw [exec_storeFaultLogFullTimeout, execStoreFaultLogFullTimeout]
    dsimp only
    rw [hz]

end Sys2Proof.Claims

/-- Settles O48: answers, acknowledgements and drains at the issuer, and each fate of what reaches an IO die. -/
theorem fabricEvents : Obligations.FabricEvents :=
  ⟨Sys2Proof.Claims.fabricIssuerEvents, Sys2Proof.Claims.fabricTargetEvents⟩

end

section
/-! PROOFS. Bulk transfers at the sender (R177, R181, R182) and at the receiver (R177-R180). -/

namespace Sys2Proof.Machine

/-! ### The sender -/

section
variable {s t : State} {send num off n left tick k : Nat} {req : TokenRef} {orphaned : Bool} {x : BulkSend} {d : EngData}

section
variable (hx : s.bulkSend? send = some x)
include hx

section
variable (hr : x.request = none) (hf : x.fault = none)
include hr hf

theorem bulkRetry_busy (hb : x.busy = none) :
    execBulkRequestRetry send s = .next (s.setSend { x with busy := some s.tick }) := by
  simp [execBulkRequestRetry, hx, hr, hf, hb]

theorem bulkRetry_again (hb : x.busy = some tick) (ht : tick + 20 ≤ s.tick) :
    execBulkRequestRetry send s = .next (match s.sendPrefix x with | .ok t => t | .error e => s.sendStop x e) := by
  simp only [execBulkRequestRetry, hx, hr, hf, hb, Option.isSome_none, Bool.false_eq_true, or_self, if_false, if_pos ht] <;>
    rfl

theorem bulkRetry_early (hb : x.busy = some tick) (ht : s.tick < tick + 20) : execBulkRequestRetry send s = .next s := by
  simp only [execBulkRequestRetry, hx, hr, hf, hb, Option.isSome_none, Bool.false_eq_true, or_self, if_false,
    if_neg (Nat.not_le.2 ht)]

end

omit hx in
theorem sendStop_parks {key : FaultKey} {r lv : Nat} {va : Word} (he : s.endedLaunch x.launch = false) :
    s.sendStop x (.fault key r lv va) = (s.joinFault key r lv va).setSend { x with fault := some key } := by
  rw [State.sendStop, he, if_neg Bool.false_ne_true]

theorem finalAck_egress (he : x.egress = true) :
    execFinalAcknowledgement send s = .next (if x.left = 0 then s.dropSend send else s) := by
  simp only [execFinalAcknowledgement, hx, he, if_true]

theorem finalResponse_egress (he : x.egress = true) :
    execFinalResponse send left orphaned s = .next (s.dropSend send) := by
  simp only [execFinalResponse, hx, he, if_true]

theorem tokenArrival_ended (h : x.parked = true ∨ x.egress = true) :
    execTokenArrival send req off n false s = .next (s.setSend { x with request := some req.req }) := by
  simp only [execTokenArrival, hx, if_pos h]

theorem tokenArrival_served (hp : x.parked = false) (he : x.egress = false) (hf : x.fault = none) (hh : x.held = []) :
    execTokenArrival send req off n false s =
      .next (s.serveToken { x with request := some req.req } req off n false) := by
  simp [execTokenArrival, hx, hp, he, hf, hh]

theorem tokenAck_lost {code : Nat} (hc : code ≠ 0) : execTokenAcknowledgement send num off n code s =
    .next ((s.setSend { x with request := some num }).aer x.ctx {
      va := (capBase x.cap + x.dest + off) / 128 * 128, bytes := n, peer := capPeer x.cap, target := capTarget x.cap
      kind := if code = 1 then 3 else 4 }) := by
  simp only [execTokenAcknowledgement, hx, if_neg hc]

/-- What a token's bytes that have landed leave at the sender (R181). -/
def State.sendTold (s : State) (send num off n : Nat) (x : BulkSend) : State :=
  let y := { x with request := some num, got := addRun (off, n) x.got }
  let t := (s.setSend y).sendSectors y (runBytes x.got) (runBytes y.got)
  if y.egress = true ∧ y.left = 0 then t.dropSend send else t

theorem tokenAck_event : execTokenAcknowledgement send num off n 0 s =
    .next (s.sendEvent x (s.sendTold send num off n x)) := by
  simp only [execTokenAcknowledgement, hx, if_true]
  rfl

/-- The arrival of a send that has ended well (R181). -/
def State.sendEnds (s : State) (send : Nat) (x : BulkSend) : State :=
  if x.left = 0 then (s.sendArrive x 0).dropSend send else (s.sendArrive x 0).setSend { x with egress := true }

theorem finalAck_event (he : x.egress = false) :
    execFinalAcknowledgement send s = .next (s.sendEvent x (s.sendEnds send x)) := by
  simp only [execFinalAcknowledgement, hx, he, Bool.false_eq_true, if_false]
  rfl

/-- A send that ends ORPHANED or REFUSED (R182). -/
def State.sendFails (s : State) (send left : Nat) (orphaned : Bool) (x : BulkSend) : State :=
  (((s.sendSectors x (runBytes x.got) (x.total - left)).sendArrive x
    (if orphaned then stOrphaned else stRefused)).sendError x left (if orphaned then 5 else 6)).dropSend send

theorem finalResponse_event (he : x.egress = false) :
    execFinalResponse send left orphaned s = .next (s.sendEvent x (s.sendFails send left orphaned x)) := by
  simp only [execFinalResponse, hx, he, Bool.false_eq_true, if_false]
  rfl

end

theorem sendEvent_reached {go : State} (h : s.sendReach x = .ok t) : s.sendEvent x go = go := by
  rw [State.sendEvent, h]

theorem sendEvent_parks {go : State} {key : FaultKey} {r lv : Nat} {va : Word}
    (h : s.sendReach x = .error (.fault key r lv va)) (hk : x.fault ≠ some key) (he : s.endedLaunch x.launch = false) :
    s.sendEvent x go = (s.joinFault key r lv va).setSend { x with fault := some key } := by
  rw [State.sendEvent, h]
  dsimp only
  rw [if_neg hk, sendStop_parks he]

theorem sendEvent_waits {go u : State} {p : Park} (h : s.sendReach x = .error (.park p u)) : s.sendEvent x go = s := by
  rw [State.sendEvent, h]

theorem BulkSend.out_clean (h : x.poisoned = false) : x.out d = d := by
  rw [BulkSend.out, h, if_neg Bool.false_ne_true]

section
variable (hd : s.sendRead x false off n = .ok (d, t)) (hp : x.poisoned = false) (hclean : d.poison = [])
include hd hp hclean

theorem serveToken_whole (hk : d.kept = []) (hlen : d.len ≠ 0) : s.serveToken x req off n false =
    (t.setSend x).send (.bulkData x.id (capPeer x.cap) req off d.len (d.bytes 0 d.len) []) := by
  have hgood : d.good = d.len := by rw [EngData.good, hk]
  rw [State.serveToken, hd]
  dsimp only
  rw [BulkSend.out_clean hp, hk, hclean, hgood]
  dsimp only [List.isEmpty_nil]
  rw [if_pos rfl]
  dsimp only
  rw [if_neg hlen, if_pos rfl, if_pos rfl]

theorem serveToken_upTo (hk : d.kept ≠ []) (hgood : d.good ≠ 0) (hr : t.sendReach x = .ok t) :
    s.serveToken x req off n false =
      ((t.setSend x).send (.bulkData x.id (capPeer x.cap) req off d.good (d.bytes 0 d.good) [])).sendEgress x := by
  have hne : d.kept.isEmpty = false := List.isEmpty_eq_false_iff.2 hk
  rw [State.serveToken, hd]
  dsimp only
  rw [BulkSend.out_clean hp, hne, hclean, if_neg Bool.false_ne_true, hr]
  dsimp only [List.isEmpty_nil]
  rw [if_neg hgood, if_neg Bool.false_ne_true, if_pos rfl]

end

end

/-! ### The receiver: requests and grants -/

section
variable {s t : State} {send peer part ctx lease base dest total prio len data num off n : Nat} {req : TokenRef}
  {flag : Option (Nat × Word)} {rx : Option Nat} {r : BulkReq} {k : Token} {rest : List (Nat × Nat)}

theorem bulkRequest_full (h : 4096 ≤ s.fab.reqs.length) :
    execBulkRequest send peer part ctx lease base dest total prio flag rx len data [] s =
      .next (s.send (.bulkBusy send peer)) := by
  rw [execBulkRequest, if_pos h]

section
variable (h : s.fab.reqs.length < 4096)
include h

theorem bulkRequest_refused (ha : s.accepts ctx peer part lease = false) :
    execBulkRequest send peer part ctx lease base dest total prio flag rx len data [] s =
      .next ((s.refusePrefix send peer dest (min len (prefixBytes total))).send (.bulkEnd send peer total false)) := by
  rw [execBulkRequest, if_neg (Nat.not_le.2 h), ha]
  rfl

theorem bulkRequest_deferred (ha : s.accepts ctx peer part lease = true) (hc : s.checkpointing = true) :
    execBulkRequest send peer part ctx lease base dest total prio flag rx len data [] s = .next s.defer := by
  rw [execBulkRequest, if_neg (Nat.not_le.2 h), ha, Bool.not_true, if_neg Bool.false_ne_true, if_pos hc]

end

/-- A request without its prefix as it enters the table (R177). -/
def State.newReq (s : State) (send peer ctx base dest total prio : Nat) (flag : Option (Nat × Word)) (rx : Option Nat) :
    BulkReq :=
  { num := s.fab.nextId, peer := peer, send := send, ctx := ctx, base := base, dest := dest
    todo := addRun (0, prefixBytes total)
      (if prefixBytes total < total then [(prefixBytes total, total - prefixBytes total)] else [])
    left := total, level := prio % 4, age := 0, since := s.tick, expiries := 0, second := none, heard := s.tick, data := false
    state := .waiting, tokens := [], rxLand := rx, flag := flag, park := none }

/-- A new entry put back in the table it stands at the end of. -/
theorem setReq_last {l : List BulkReq} {q q' : BulkReq} {num : Nat} (hnum : q.num = num) (hl : ∀ y ∈ l, y.num ≠ num) :
    (l ++ [q]).map (fun y => if y.num = num then q' else y) = l ++ [q'] := by
  rw [List.map_append, List.map_singleton, if_pos hnum]
  refine congrArg (· ++ [q']) ((List.map_congr_left fun y hy => if_neg (hl y hy)).trans (List.map_id l))

theorem find_last {l : List BulkReq} {q : BulkReq} {num : Nat} (hnum : q.num = num) (hl : ∀ y ∈ l, y.num ≠ num) :
    (l ++ [q]).find? (fun y => y.num == num) = some q := by
  have hno : l.find? (fun y => y.num == num) = none := List.find?_eq_none.2 fun y hy => by simpa using hl y hy
  rw [List.find?_append, hno, Option.none_or, List.find?_singleton, hnum, beq_self_eq_true, if_pos rfl]

theorem bulkRequest_enters (h : s.fab.reqs.length < 4096) (ha : s.accepts ctx peer part lease = true)
    (hc : s.checkpointing = false) (htot : 0 < total) (hnum : ∀ q ∈ s.fab.reqs, q.num ≠ s.fab.nextId) :
    execBulkRequest send peer part ctx lease base dest total prio flag rx 0 data [] s = .next { s with fab := { s.fab with
      nextId := s.fab.nextId + 1, reqs := s.fab.reqs ++ [s.newReq send peer ctx base dest total prio flag rx] } } := by
  have hzero : Nat.min 0 (prefixBytes total) = 0 := Nat.zero_min _
  have hhead : 0 < prefixBytes total := Nat.lt_min.2 ⟨htot, by decide⟩
  have hparts : lineParts dest 0 = [] := rfl
  rw [execBulkRequest, if_neg (Nat.not_le.2 h), ha, Bool.not_true, if_neg Bool.false_ne_true, hc, if_neg Bool.false_ne_true]
  simp only [hzero, hparts, State.anyHeldBack, if_pos hhead, Nat.sub_zero, State.landPrefix, State.setReq, State.bulkReq?]
  rw [setReq_last (num := s.fab.nextId) rfl hnum, find_last (num := s.fab.nextId) rfl hnum]
  dsimp only
  rw [if_neg Bool.false_ne_true, if_neg (Nat.ne_of_gt htot)]
  rfl

theorem length_eraseDups_le {α : Type} [BEq α] (l : List α) : l.eraseDups.length ≤ l.length := by
  induction hn : l.length using Nat.strong_induction_on generalizing l with
  | _ n ih =>
    cases l with
    | nil => exact Nat.le_of_eq hn
    | cons a l =>
      have hle := List.length_filter_le (fun b => !b == a) l
      rw [List.length_cons] at hn
      rw [List.eraseDups_cons, List.length_cons]
      have := ih _ (by omega) (l.filter fun b => !b == a) rfl
      omega

theorem tokenPlanes_eight (n : Nat) : (tokenPlanes n).length ≤ 8 ∧ ∀ p ∈ tokenPlanes n, p < 64 := by
  refine ⟨?_, fun p hp => ?_⟩
  · have hlen : ((List.range 8).map fun i => (Config.plane (n + i)).val).length = 8 := by
      rw [List.length_map, List.length_range]
    exact (length_eraseDups_le _).trans hlen.le
  · obtain ⟨i, -, rfl⟩ := List.mem_map.1 (List.mem_eraseDups.1 hp)
    exact (Config.plane (n + i)).isLt

theorem freeAnswered_none (h : ∀ q ∈ s.fab.reqs, q.answered = false) : s.freeAnswered = s := by
  have hno : s.fab.reqs.find? (fun r => r.answered) = none :=
    List.find?_eq_none.2 fun q hq => by rw [h q hq]; exact Bool.false_ne_true
  rw [State.freeAnswered, hno]

theorem tokenGrant_completes (h : ∀ q ∈ s.fab.reqs, q.answered = false) (hr : s.fab.reqs.find? BulkReq.landed = some r) :
    execTokenGrant s = .next (s.completeReq r) := by
  rw [execTokenGrant, freeAnswered_none h, hr]

theorem tokenGrant_grants (h : ∀ q ∈ s.fab.reqs, q.answered = false) (hl : s.fab.reqs.find? BulkReq.landed = none)
    (hr : s.nextReq = some r) (hout : s.tokensOut < 256) : execTokenGrant s = .next (s.grantToken r) := by
  rw [execTokenGrant, freeAnswered_none h, hl]
  dsimp only
  rw [hr]
  dsimp only
  rw [if_neg (Nat.not_le.2 hout)]

theorem grantToken_grants {p : Trans} (htodo : r.todo = (off, n) :: rest)
    (hparts : pageParts (r.dest + off) (min n 16384) = [(r.dest + off, min n 16384)])
    (ht : ({ s with fab := { s.fab with lastPeer := Tab.set 512 s.fab.lastPeer r.level r.peer } } : State).ioTranslate r.ctx
      r.die .copyWrite .w (r.dest + off) = .ok (p, t)) :
    ∃ q, s.grantToken r = (({ (t.free tokenPlanes).2 with fab := { (t.free tokenPlanes).2.fab with
        nextId := (t.free tokenPlanes).2.fab.nextId + 1 } }.setReq q).send
          (.token r.send r.peer ⟨r.num, (t.free tokenPlanes).2.fab.nextId⟩ off (min n 16384) (t.free tokenPlanes).1)) ∧
      q.num = r.num ∧ q.state = .granted ∧
      q.tokens = r.tokens ++ [{ num := (t.free tokenPlanes).2.fab.nextId, off := off, len := min n 16384, tick := s.tick
                                landed := [], planes := (t.free tokenPlanes).1 }] ∧ q.left = r.left := by
  have hparts' : pageParts (r.dest + off) (Nat.min n 16384) = [(r.dest + off, min n 16384)] := hparts
  simp only [State.grantToken, htodo, hparts', List.foldl_cons, List.foldl_nil, ht, Except.map]
  exact ⟨_, rfl, rfl, rfl, rfl, rfl⟩

/-! ### The receiver: data and timers -/

theorem tokenData_unknown (h : s.bulkReq? req.req = none) : execTokenDataLand req off n data [] s = .next (s.discard n) := by
  rw [execTokenDataLand, h]

section
variable (h : s.bulkReq? req.req = some r) (hc : s.checkpointing = false) (ho : r.state ≠ .orphaned)
include h hc ho

theorem tokenData_expired (hno : ∀ k ∈ r.tokens, k.num ≠ req.tok) :
    execTokenDataLand req off n data [] s = .next ((s.setReq { r with heard := s.tick }).discard n) := by
  have hfind : r.tokens.find? (fun t => t.num == req.tok && decide (t.off ≤ off ∧ off + n ≤ t.off + t.len)
      && !(t.landed.any fun x => overlaps x.1 x.2 off n)) = none :=
    List.find?_eq_none.2 fun k hk => by simp [hno k hk]
  simp only [execTokenDataLand, h, hc, Bool.false_eq_true, if_false, if_neg ho, hfind]

omit h hc ho in
theorem settle_of_tokens {q : BulkReq} (hq : q.tokens.isEmpty = false) : q.settle = q := by
  unfold BulkReq.settle
  split
  · rw [if_neg (fun e => Bool.false_ne_true (hq.symm.trans e.1))]
  · rfl

theorem tokenData_lands (hk : r.tokens = [k]) (hnum : k.num = req.tok) (hlo : k.off ≤ off) (hhi : off + n ≤ k.off + k.len)
    (hfresh : k.landed = []) (hpart : n < k.len) (hleft : n < r.left)
    (hheld : (s.setReq { r with heard := s.tick }).anyHeldBack r.ctx r.die .copyWrite (pageParts (r.dest + off) n) = none)
    (hland : (s.setReq { r with heard := s.tick }).landPages r.ctx r.die { len := n, x := data }
      (pageParts (r.dest + off) n) 0 = .ok t) :
    ∃ q, execTokenDataLand req off n data [] s =
      .next ((t.setReq q).send (.tokenAck r.send r.peer r.num off n 0)) ∧ q.left = r.left - n ∧
      q.tokens = [{ k with landed := [(off, n)] }] := by
  have hfind : r.tokens.find? (fun t => t.num == req.tok && decide (t.off ≤ off ∧ off + n ≤ t.off + t.len)
      && !(t.landed.any fun x => overlaps x.1 x.2 off n)) = some k := by
    simp [hk, hnum, hlo, hhi, hfresh]
  have hbytes : runBytes [(off, n)] = n := Nat.zero_add n
  have hwhole : decide (runBytes (addRun (off, n) k.landed) = k.len) = false := by
    rw [hfresh, addRun, hbytes]
    exact decide_eq_false (Nat.ne_of_lt hpart)
  have htokens : r.tokens.map (fun x => if x = k then { k with landed := addRun (off, n) k.landed } else x) =
      [{ k with landed := [(off, n)] }] := by
    rw [hk, List.map_singleton, if_pos rfl, hfresh, addRun]
  refine ⟨{ r with heard := s.tick, tokens := [{ k with landed := [(off, n)] }], left := r.left - n, data := true }, ?_, rfl,
    rfl⟩
  have hdie : ({ r with heard := s.tick } : BulkReq).die = r.die := rfl
  simp only [execTokenDataLand, h, hc, Bool.false_eq_true, if_false, if_neg ho, hfind, hdie, hheld, hland, hwhole,
    Bool.false_and, htokens]
  rw [settle_of_tokens rfl]
  exact congrArg _ (if_neg (Nat.sub_ne_zero_of_lt hleft))

end

section
variable (h : s.bulkReq? num = some r)
include h

theorem tokenExpiry_due (hk : r.tokens.find? (fun t => t.off == off) = some k) (ht : k.tick + 20 ≤ s.tick) :
    execTokenExpiry num off s = .next (s.setReq { (r.expire k) with
      expiries := r.expiries + 1, data := false, second := if r.expiries + 1 = 2 then some s.tick else r.second
      state := if r.live then .waiting else r.state }) := by
  simp only [execTokenExpiry, h, hk, if_pos ht]

theorem agePromotion_due (hl : r.live = true) (ha : 200 ≤ r.ageAt s.tick) :
    execAgePromotion num s = .next (s.setReq { r with level := r.level - 1, age := 0, since := s.tick }) := by
  simp only [execAgePromotion, h, if_pos (And.intro hl ha)]

theorem park_live (hl : r.live = true) : execPark num s = .next (s.setReq { (r.tokens.foldl BulkReq.expire r) with
    age := r.ageAt s.tick, heard := s.tick, state := .parked }) := by
  simp only [execPark, h, if_pos hl]

theorem resume_parked (hst : r.state = .parked) :
    execResume num s = .next (s.setReq { r with since := s.tick, heard := s.tick, state := .waiting }) := by
  simp only [execResume, h, hst]

theorem resume_orphaned (hst : r.state = .orphaned) : execResume num s = .next (s.answerOrphan r) := by
  simp only [execResume, h, hst]

omit h in
theorem expire_rxLand (l : List Token) (r : BulkReq) : (l.foldl BulkReq.expire r).rxLand = r.rxLand := by
  induction l generalizing r with
  | nil => rfl
  | cons k l ih => exact ih (r.expire k)

theorem orphan_silent {w : Nat} (hl : r.live = true) (he : 2 ≤ r.expiries) (hrx : r.rxLand = none) (hs : r.second = some w)
    (hw : w + 1000 ≤ s.tick) (hh : r.heard ≤ w) :
    execOrphan num s = .next ((s.setReq { (r.tokens.foldl BulkReq.expire r) with
      age := r.ageAt s.tick, state := .orphaned }).aer (r.tokens.foldl BulkReq.expire r).ctx {
        va := (r.tokens.foldl BulkReq.expire r).dest, bytes := (r.tokens.foldl BulkReq.expire r).left
        peer := (r.tokens.foldl BulkReq.expire r).peer, target := (r.tokens.foldl BulkReq.expire r).ctx, kind := 5 }) := by
  have hgo : r.live = true ∧ 2 ≤ r.expiries ∧ w + 1000 ≤ s.tick ∧ r.heard ≤ w ∧ (!false) = true := ⟨hl, he, hw, hh, rfl⟩
  simp only [execOrphan, h, hs, hrx, if_pos hgo, State.rxUpdate, (expire_rxLand r.tokens r).trans hrx]

end

end

end Sys2Proof.Machine

namespace Sys2Proof.Claims
open Sys2Proof.Machine

theorem bulkSenderEvents : Claims.BulkSenderEvents := by
  intro s t send num off n left tick req orphaned x d
  dsimp only
  intro hx
  refine ⟨fun hr hf => ⟨bulkRetry_busy hx hr hf, fun hb ht hp => ?_, fun k r lv va hb ht hp he => ?_, bulkRetry_early hx hr hf⟩,
    fun he => ⟨finalAck_egress hx he, finalResponse_egress hx he⟩, tokenArrival_ended hx,
    fun hp he hf hh hd hpo hcl => ⟨fun hk hlen => ?_, fun hk hg hr => ?_⟩, fun code hc => tokenAck_lost hx hc,
    fun hr => ⟨?_, fun he => ⟨?_, ?_⟩⟩, fun k r lv va hr hk hl => ⟨?_, fun he => ⟨?_, ?_⟩⟩,
    fun p u hr => ⟨?_, fun he => ⟨?_, ?_⟩⟩⟩
  · exact (bulkRetry_again hx hr hf hb ht).trans (by rw [hp])
  · exact (bulkRetry_again hx hr hf hb ht).trans (by rw [hp]; exact congrArg _ (sendStop_parks he))
  · exact (tokenArrival_served hx hp he hf hh).trans
      (congrArg _ (serveToken_whole (x := { x with request := some req.req }) hd hpo hcl hk hlen))
  · exact (tokenArrival_served hx hp he hf hh).trans
      (congrArg _ (serveToken_upTo (x := { x with request := some req.req }) hd hpo hcl hk hg hr))
  · exact (tokenAck_event hx).trans (congrArg _ (sendEvent_reached hr))
  · exact (finalAck_event hx he).trans (congrArg _ (sendEvent_reached hr))
  · exact (finalResponse_event hx he).trans (congrArg _ (sendEvent_reached hr))
  · exact (tokenAck_event hx).trans (congrArg _ (sendEvent_parks hr hk hl))
  · exact (finalAck_event hx he).trans (congrArg _ (sendEvent_parks hr hk hl))
  · exact (finalResponse_event hx he).trans (congrArg _ (sendEvent_parks hr hk hl))
  · exact (tokenAck_event hx).trans (congrArg _ (sendEvent_waits hr))
  · exact (finalAck_event hx he).trans (congrArg _ (sendEvent_waits hr))
  · exact (finalResponse_event hx he).trans (congrArg _ (sendEvent_waits hr))

theorem bulkReceiverEvents : Claims.BulkReceiverEvents := by
  intro s t send peer part ctx lease base dest total prio len data num off n req flag rx r k rest
  dsimp only
  refine ⟨bulkRequest_full, bulkRequest_refused, bulkRequest_deferred, ?_, tokenPlanes_eight, tokenGrant_completes, ?_,
    tokenData_unknown, fun h hc ho => ⟨tokenData_expired h hc ho, tokenData_lands h hc ho⟩, fun h => ⟨tokenExpiry_due h,
      agePromotion_due h, park_live h, resume_parked h, resume_orphaned h, fun hl he hrx w => orphan_silent h hl he hrx⟩⟩
  · rintro h ha hc rfl htot hnum
    exact ⟨_, _, bulkRequest_enters (data := data) h ha hc htot hnum, rfl, rfl, rfl, rfl, rfl, rfl, rfl, rfl⟩
  · intro h hl hr hout htodo hparts p ht
    obtain ⟨q, hq, hfields⟩ := grantToken_grants htodo hparts ht
    exact ⟨q, (tokenGrant_grants h hl hr hout).trans (congrArg _ hq), hfields⟩

end Sys2Proof.Claims

/-- Settles O49: retries, tokens, acknowledgements and ends at the sender; requests, grants, data and timers at the
receiver. -/
theorem bulkEvents : Obligations.BulkEvents := ⟨Sys2Proof.Claims.bulkSenderEvents, Sys2Proof.Claims.bulkReceiverEvents⟩

end

section
/-! PROOFS. Launches taken and opened (R415-R423), work records and placement (R224, R425, R426). -/

namespace Sys2Proof.Machine

/-! ### Records taken from a queue -/

section
variable {s : State} {part level : Nat} {b : QBlock}
variable (hp : part < 16) (hl : level < 8) (hb : (s.queue (8 * part + level)).block ≠ 0)
  (he : (s.queue (8 * part + level)).qerr = 0)
include hp hl hb he

/-- A queue that is there and in no error is not skipped. -/
theorem take_looked : ¬ (16 ≤ part ∨ 8 ≤ level ∨ (s.queue (8 * part + level)).block = 0 ∨
    (s.queue (8 * part + level)).qerr ≠ 0) := by
  rintro (h | h | h | h)
  · omega
  · omega
  · exact hb h
  · exact h he

theorem take_malformed (h : s.mem.poisoned (s.queue (8 * part + level)).block 512 = true ∨
      s.queueBlock (s.queue (8 * part + level)).block = none) :
    execTakeLaunchRecord part level s = .next (s.queueError (8 * part + level) 2) := by
  simp only [execTakeLaunchRecord, if_neg (take_looked hp hl hb he)]
  rcases h with h | h <;> simp [h]

variable (hm : s.mem.poisoned (s.queue (8 * part + level)).block 512 = false)
  (hq : s.queueBlock (s.queue (8 * part + level)).block = some b)
include hm hq

theorem take_otherLevel (h : b.level ≠ level) :
    execTakeLaunchRecord part level s = .next (s.queueError (8 * part + level) 2) := by
  simp only [execTakeLaunchRecord, if_neg (take_looked hp hl hb he), hm, hq, Bool.false_eq_true, if_false, if_pos h]

theorem take_outOfRange (h : b.level = level)
    (ht : b.tail < (s.queue (8 * part + level)).taken ∨ (s.queue (8 * part + level)).head + 2 ^ b.size < b.tail) :
    execTakeLaunchRecord part level s = .next (s.queueError (8 * part + level) 1) := by
  simp only [execTakeLaunchRecord, if_neg (take_looked hp hl hb he), hm, hq, Bool.false_eq_true, if_false,
    if_neg (not_not.2 h), if_pos ht]

/-- The next record of a queue becomes a launch. -/
theorem take_record (h : b.level = level) (ht : (s.queue (8 * part + level)).taken < b.tail)
    (hr : b.tail ≤ (s.queue (8 * part + level)).head + 2 ^ b.size) (hroom : s.launchRoom part = true) :
    let k := 8 * part + level
    let q := { s.queue k with ring := b.ring, size := b.size, work := b.work, workLog := b.workLog }
    let pa := b.ring + 128 * (q.taken % 2 ^ b.size)
    let r := BitVec.ofNat 1024 (s.mem.readCoh pa 128)
    let code := if s.mem.poisoned pa 128 then 2 else s.recordCode part r
    let l := { newLaunch s.sched.nextLaunch part level r with
      slot := some q.taken, code := code, state := if code = 0 then .waiting else .refused }
    let t := (((s.setQueue k q).addLaunch l).setQueue k { q with taken := q.taken + 1 }).writeQueue k
    execTakeLaunchRecord part level s = .next (if code = 0 then t.storeStatus l.num else t) := by
  intro k q pa r code l t
  have hrange : ¬ (b.tail < (s.queue (8 * part + level)).taken ∨
      (s.queue (8 * part + level)).head + 2 ^ b.size < b.tail) := by omega
  have hgo : ∀ q' : Queue, ¬ (b.tail ≤ (s.queue (8 * part + level)).taken ∨
      (!(s.setQueue (8 * part + level) q').launchRoom part) = true) := by
    intro q'
    rintro (h' | h')
    · omega
    · rw [show (s.setQueue (8 * part + level) q').launchRoom part = s.launchRoom part from rfl, hroom] at h'
      cases h'
  rw [execTakeLaunchRecord]
  dsimp only
  rw [if_neg (take_looked hp hl hb he), hm, hq, if_neg Bool.false_ne_true]
  dsimp only
  rw [if_neg (not_not.2 h), if_neg hrange, if_neg (hgo _)]
  rfl

end

/-! ### Launches opened -/

section
variable {s t u : State} {num c : Nat} {l : Launch} {h : BitVec 512} {hold : List Nat} {p : OpenPlan}
variable (hl : s.launch? num = some l) (hs : l.state = .waiting) (hp : l.park = none) (hc : l.code = 0)
include hl hs hp hc

omit hl in
theorem open_waiting : ¬ (l.state ≠ .waiting ∨ l.park.isSome = true ∨ l.code ≠ 0) := by
  simp [hs, hp, hc]

theorem open_deferred (hcert : lrec l.record 61 1 % 2 = 1) (hk : s.kilnDeferred = true) :
    execLaunchOpen num s = .next s.defer := by
  simp only [execLaunchOpen, hl, if_neg (open_waiting hs hp hc), hcert, hk, and_self, if_true]

variable (hd : lrec l.record 61 1 % 2 = 1 → s.kilnDeferred = false)
include hd

omit hl hs hp hc in
theorem open_looked : ¬ (lrec l.record 61 1 % 2 = 1 ∧ s.kilnDeferred = true) := by
  rintro ⟨hcert, hk⟩
  rw [hd hcert] at hk
  cases hk

theorem open_counter (hw : s.waitCounter l = .error t) : execLaunchOpen num s = .next t := by
  simp only [execLaunchOpen, hl, if_neg (open_waiting hs hp hc), if_neg (open_looked hd), hw]

variable (hw : s.waitCounter l = .ok t)
include hw

theorem open_badHeader (hr : t.readHeader l = .bad u) : execLaunchOpen num s = .next (u.refuseLaunch num 1) := by
  simp only [execLaunchOpen, hl, if_neg (open_waiting hs hp hc), if_neg (open_looked hd), hw, hr]

theorem open_waitHeader (hr : t.readHeader l = .wait u) : execLaunchOpen num s = .next u := by
  simp only [execLaunchOpen, hl, if_neg (open_waiting hs hp hc), if_neg (open_looked hd), hw, hr]

variable (hr : t.readHeader l = .got h u)
include hr

theorem open_illegal (hh : headerOk h l.record = false) : execLaunchOpen num s = .next (u.refuseLaunch num 1) := by
  simp only [execLaunchOpen, hl, if_neg (open_waiting hs hp hc), if_neg (open_looked hd), hw, hr, hh, Bool.not_false,
    if_true]

variable (hh : headerOk h l.record = true)
include hh

theorem open_nowhere (hn : (List.range 64).any (u.admits l.part (BitVec.ofNat 64 (lrec l.record 64 8))) = false) :
    execLaunchOpen num s = .next (u.refuseLaunch num 4) := by
  simp only [execLaunchOpen, hl, if_neg (open_waiting hs hp hc), if_neg (open_looked hd), hw, hr, hh, hn, Bool.not_false,
    Bool.not_true, Bool.false_eq_true, if_false, if_true]

variable (hn : (List.range 64).any (u.admits l.part (BitVec.ofNat 64 (lrec l.record 64 8))) = true)
include hn

theorem open_plain (hcert : lrec l.record 61 1 % 2 = 0) : execLaunchOpen num s =
    .next (u.runLaunch num h (u.placeBits l.part (BitVec.ofNat 64 (lrec l.record 64 8)) fun _ => true)) := by
  simp only [execLaunchOpen, hl, if_neg (open_waiting hs hp hc), if_neg (open_looked hd), hw, hr, hh, hn,
    Bool.not_true, Bool.false_eq_true, if_false, if_pos hcert]

variable (hcert : lrec l.record 61 1 % 2 = 1)
include hcert

theorem open_refused (hk : u.certChecks l h = .error (.refuse c)) : execLaunchOpen num s =
    .next ((u.openLooks l.record h
      (((recTids l.record).1 ++ (recTids l.record).2).filterMap (u.resolve (recCtx l.record)))).refuseLaunch num c) := by
  simp only [execLaunchOpen, hl, if_neg (open_waiting hs hp hc), if_neg (open_looked hd), hw, hr, hh, hn,
    Bool.not_true, Bool.false_eq_true, if_false, if_neg (show ¬ lrec l.record 61 1 % 2 = 0 by omega), hk]

theorem open_held (hk : u.certChecks l h = .error (.wait hold)) :
    execLaunchOpen num s = .next (u.modLaunch num fun l => { l with hold := hold }) := by
  simp only [execLaunchOpen, hl, if_neg (open_waiting hs hp hc), if_neg (open_looked hd), hw, hr, hh, hn,
    Bool.not_true, Bool.false_eq_true, if_false, if_neg (show ¬ lrec l.record 61 1 % 2 = 0 by omega), hk]

theorem open_certified (hk : u.certChecks l h = .ok p) : execLaunchOpen num s = .next
    (((u.modLaunch num fun l => { l with header := h }).commitOpen num p 0 0).runLaunch num h
      ((u.modLaunch num fun l => { l with header := h }).placeBits l.part (BitVec.ofNat 64 (lrec l.record 64 8))
        fun n => n / 16 == p.course)) := by
  simp only [execLaunchOpen, hl, if_neg (open_waiting hs hp hc), if_neg (open_looked hd), hw, hr, hh, hn,
    Bool.not_true, Bool.false_eq_true, if_false, if_neg (show ¬ lrec l.record 61 1 % 2 = 0 by omega), hk]

end

/-! ### Work records -/

section
variable {s : State} {num : Nat} {l : Launch}
variable (hl : s.launch? num = some l) (hs : l.state = .running) (hc : l.code = 0) (hn : l.nextOrd < l.count)
include hl hs hc hn

omit hl in
theorem workWrite_running : ¬ (l.state ≠ .running ∨ l.code ≠ 0 ∨ l.count ≤ l.nextOrd) := by
  rintro (h | h | h)
  · exact h hs
  · exact h hc
  · omega

theorem workWrite_noRing (hq : (s.queue l.queue).block = 0) :
    let next := s.modLaunch num fun l' => { l' with nextOrd := l'.nextOrd + l.unit }
    execWorkRecordWrite num s = .next { next with sched := { next.sched with work := next.sched.work ++
      [{ part := l.part, level := l.level, launch := num, queue := l.queue, ring := none
         ordinals := (List.range l.unit).map fun i => l.nextOrd + i, resume := [], tick := s.tick }] } } := by
  simp only [execWorkRecordWrite, hl, if_neg (workWrite_running hs hc hn), if_pos hq]

theorem workWrite_ring (hq : (s.queue l.queue).block ≠ 0)
    (hr : (s.queue l.queue).written + l.unit ≤ s.oldestWork l.queue + 2 ^ (s.queue l.queue).workLog) :
    let q := s.queue l.queue
    let next := s.modLaunch num fun l' => { l' with nextOrd := l'.nextOrd + l.unit }
    let t := ((List.range l.unit).foldl (fun s i =>
      s.writePa (q.work + 32 * ((q.written + i) % 2 ^ q.workLog)) 32 (workImage l (l.nextOrd + i))) next).setQueue l.queue
        { q with written := q.written + l.unit }
    execWorkRecordWrite num s = .next { t with sched := { t.sched with work := t.sched.work ++
      [{ part := l.part, level := l.level, launch := num, queue := l.queue, ring := some q.written
         ordinals := (List.range l.unit).map fun i => l.nextOrd + i, resume := [], tick := s.tick }] } } := by
  intro q next t
  have hroom : ¬ (next.oldestWork l.queue + 2 ^ q.workLog < q.written + l.unit) := Nat.not_lt.2 hr
  simp only [execWorkRecordWrite, hl, if_neg (workWrite_running hs hc hn), if_neg hq]
  rw [if_neg hroom]

end

/-! ### Placement -/

/-- `t` has the workgroups and the warps of `s`. -/
def SameGroups (s t : State) : Prop := t.wgs = s.wgs ∧ t.warps = s.warps

namespace SameGroups

theorem foldl {α : Type} (f : State → α → State) (hf : ∀ s x, SameGroups s (f s x)) (l : List α) (s : State) :
    SameGroups s (l.foldl f s) := by
  induction l generalizing s with
  | nil => exact ⟨rfl, rfl⟩
  | cons x l ih =>
    obtain ⟨hg, hw⟩ := ih (f s x)
    obtain ⟨hg', hw'⟩ := hf s x
    exact ⟨hg.trans hg', hw.trans hw'⟩

theorem claimSp (s : State) (ctx : Nat) (cert : Option Nat) (unit : Nat) : SameGroups s (s.claimSp ctx cert unit) :=
  ⟨rfl, rfl⟩

theorem claimTile (s : State) (ctx : Nat) (cert : Option Nat) (key : Nat) : SameGroups s (s.claimTile ctx cert key) := by
  unfold State.claimTile
  dsimp only
  split <;> exact ⟨rfl, rfl⟩

theorem claimAcc (s : State) (ctx : Nat) (cert : Option Nat) (key : Nat) : SameGroups s (s.claimAcc ctx cert key) := by
  unfold State.claimAcc
  dsimp only
  split <;> exact ⟨rfl, rfl⟩

theorem trans {s t u : State} (h : SameGroups s t) (h' : SameGroups t u) : SameGroups s u :=
  ⟨h'.1.trans h.1, h'.2.trans h.2⟩

end SameGroups

/-- Allocation gives a workgroup its core and changes no other workgroup, and no warp. -/
theorem allocate_groups (s : State) (i c : Nat) : ∃ g : Workgroup, g.core = c ∧ g.launch = (s.wg i).launch ∧
    g.live = (s.wg i).live ∧ SameGroups (s.setWg i g) (s.allocate i c) := by
  refine ⟨?group, ?core, ?launch, ?live, ?same⟩
  case same =>
    rw [State.allocate]
    refine SameGroups.trans ?_ (SameGroups.foldl _ (fun s _ => SameGroups.claimAcc s _ _ _) _ _)
    refine SameGroups.trans ?_ (SameGroups.foldl _ (fun s _ => SameGroups.claimTile s _ _ _) _ _)
    exact SameGroups.foldl _ (fun s _ => SameGroups.claimSp s _ _ _) _ _
  all_goals rfl

/-- What starting a workgroup adds to the state. -/
theorem startWg_groups (s : State) (l : Launch) (o c : Nat) : ∃ (g : Workgroup) (slot : Nat → Nat) (wid : Nat → Word),
    g.core = c ∧ g.launch = l.num ∧ g.live = true ∧ (s.startWg l o c).wgs = s.wgs ++ [g] ∧
      (s.startWg l o c).warps = s.warps ++
        (List.range (hdrWarps l.header)).map fun j => newWarp l s.wgs.length o j (slot j) (wid j) := by
  have hform : ∃ (g₀ : Workgroup) (slot : Nat → Nat) (wid : Nat → Word), g₀.launch = l.num ∧ g₀.live = true ∧
      (s.startWg l o c).wgs = (State.allocate { s with wgs := s.wgs ++ [g₀] } s.wgs.length c).wgs ∧
      (s.startWg l o c).warps = (State.allocate { s with wgs := s.wgs ++ [g₀] } s.wgs.length c).warps ++
        (List.range (hdrWarps l.header)).map fun j => newWarp l s.wgs.length o j (slot j) (wid j) :=
    ⟨_, _, _, rfl, rfl, rfl, rfl⟩
  obtain ⟨g₀, slot, wid, hlaunch, hlive, hwgs, hwarps⟩ := hform
  obtain ⟨g, hcore, hlaunch', hlive', hsame⟩ := allocate_groups { s with wgs := s.wgs ++ [g₀] } s.wgs.length c
  have hnew : State.wg { s with wgs := s.wgs ++ [g₀] } s.wgs.length = g₀ := by simp [State.wg]
  rw [hnew] at hlaunch' hlive'
  refine ⟨g, slot, wid, hcore, hlaunch'.trans hlaunch, hlive'.trans hlive, ?_, hwarps.trans (by rw [hsame.2]; rfl)⟩
  rw [hwgs, hsame.1]
  simp [State.setWg]

/-- A new warp's scalar registers (R224). -/
theorem newWarp_sget (l : Launch) (gi o j slot : Nat) (wid : Word) (i : SReg) (h : i ≠ 62) :
    (newWarp l gi o j slot wid).sget i = if i = 0 then BitVec.ofNat 64 (lrec l.record 8 8) else 0 := by
  refine (Warp.sset_sget_ne _ 62 i _ (Ne.symm h)).trans ?_
  by_cases h0 : i = 0
  · rw [h0, Warp.sset_sget, if_pos rfl]
  · rw [Warp.sset_sget_ne _ _ _ _ (Ne.symm h0), if_neg h0]
    rfl

section
variable {s : State} {core o : Nat} {r : WorkRec} {l : Launch}
variable (hc : core < 256) (hp : s.pick core = some r) (hl : s.launch? r.launch = some l) (hr : r.resume = [])
include hc hp hl hr

theorem place_altered (h : s.workIntact l r = false) : execPlaceWorkgroup core s = .next (s.queueError r.queue 2) := by
  simp only [execPlaceWorkgroup, if_neg (Nat.not_le.2 hc), hp, hl, hr, h, List.isEmpty_nil, Bool.not_true, Bool.not_false,
    Bool.false_eq_true, if_false, if_true]

variable (h : s.workIntact l r = true)
include h

theorem place_intact : execPlaceWorkgroup core s =
    .next (((unitCores r.ordinals.length core).zip r.ordinals).foldl (fun s e => s.startWg l e.2 e.1) (s.dropWork r)) := by
  simp only [execPlaceWorkgroup, if_neg (Nat.not_le.2 hc), hp, hl, hr, h, List.isEmpty_nil, Bool.not_true,
    Bool.false_eq_true, if_false]

theorem place_one (ho : r.ordinals = [o]) : execPlaceWorkgroup core s = .next ((s.dropWork r).startWg l o core) := by
  rw [place_intact hc hp hl hr h, ho]
  rfl

end

end Sys2Proof.Machine

namespace Sys2Proof.Claims
open Sys2Proof.Machine

theorem launchEvents : LaunchEvents := by
  intro s t u part level num b l h p c hold k q takes opens place cert
  refine ⟨fun hp hl hb he => ⟨take_malformed hp hl hb he, fun hm hq => ⟨take_otherLevel hp hl hb he hm hq,
    take_outOfRange hp hl hb he hm hq, take_record hp hl hb he hm hq⟩⟩, open_deferred, ?_⟩
  intro hl hs hp hc hd
  refine ⟨fun t => open_counter hl hs hp hc hd, open_badHeader hl hs hp hc hd, open_waitHeader hl hs hp hc hd, ?_⟩
  intro hw hr
  refine ⟨open_illegal hl hs hp hc hd hw hr, open_nowhere hl hs hp hc hd hw hr, fun hh hn => ?_⟩
  exact ⟨open_plain hl hs hp hc hd hw hr hh hn, open_refused hl hs hp hc hd hw hr hh hn,
    open_held hl hs hp hc hd hw hr hh hn, open_certified hl hs hp hc hd hw hr hh hn⟩

theorem placementEvents : PlacementEvents := by
  intro s num core o l r q k next rec' add
  refine ⟨fun hl hs hc hn => ⟨workWrite_noRing hl hs hc hn, workWrite_ring hl hs hc hn⟩, ?_⟩
  intro hc hp hl hr
  refine ⟨place_altered hc hp hl hr, place_intact hc hp hl hr, fun h ho => ⟨_, place_one hc hp hl hr h ho, ?_⟩⟩
  obtain ⟨g, slot, wid, hcore, hlaunch, hlive, hwgs, hwarps⟩ := startWg_groups (s.dropWork r) l o core
  have hnew : State.wg ((s.dropWork r).startWg l o core) s.wgs.length = g := by
    rw [State.wg, hwgs, show (s.dropWork r).wgs = s.wgs from rfl]
    simp
  rw [hnew, hwarps]
  refine ⟨by simp [State.dropWork], hcore, hlaunch, hlive, fun j hj => ⟨newWarp l s.wgs.length o j (slot j) (wid j), ?_⟩⟩
  refine ⟨?_, rfl, rfl, rfl, rfl, ?_, rfl, ?_, fun _ _ _ => rfl⟩
  · rw [State.warp?, hwarps]
    simp [State.dropWork, hj]
  · rw [newWarp_sget _ _ _ _ _ _ _ (by decide), if_pos rfl]
  · intro i h0 h62
    rw [newWarp_sget _ _ _ _ _ _ _ h62, if_neg h0]

end Sys2Proof.Claims

/-- Settles O50, from what taking and opening a launch, writing a work record and starting a workgroup do. -/
theorem launchAndPlacementEvents : Obligations.LaunchAndPlacementEvents :=
  ⟨Sys2Proof.Claims.launchEvents, Sys2Proof.Claims.placementEvents⟩
end

section
/-! PROOFS. Launches completed (R424), pre-emption, saving and resuming (R429-R432). -/

namespace Sys2Proof.Machine

/-! ### Completion -/

/-- A launch has finished as R424 means it: refused, waiting with a code, or running with nothing left to do. -/
def Launch.ended (l : Launch) (s : State) : Prop :=
  l.state = .refused ∨ (l.state = .waiting ∧ l.code ≠ 0) ∨
    (l.state = .running ∧ s.launchQuiet l = true ∧ l.count ≤ l.nextOrd)

/-- The frames held for a launch. -/
def State.heldFor (s : State) (num : Nat) : List Nat := (s.xlat.heldBy.filter fun e => e.2 == num + 1).map fun e => e.1

/-- The state a launch ends in. -/
def Launch.close (l : Launch) : Launch :=
  { l with step := 1, state := match l.state with
      | .refused => .refused
      | _ => if l.code = 0 then .done else .aborted }

/-- The model's test of a finished launch. -/
def Launch.finished (l : Launch) (s : State) : Bool :=
  match l.state with
  | .refused => true
  | .running => s.launchQuiet l && decide (l.count ≤ l.nextOrd)
  | .waiting => l.code != 0
  | _ => false

theorem finished_iff (l : Launch) (s : State) : l.finished s = true ↔ l.ended s := by
  unfold Launch.finished Launch.ended
  cases l.state <;> simp

section
variable {s t : State} {num : Nat} {l : Launch}
variable (hl : s.launch? num = some l)
include hl

theorem complete_last (h : l.step = 3) : execLaunchComplete num s = .next s := by
  simp only [execLaunchComplete, hl, h, true_or, if_true]

theorem complete_parked (hp : l.park ≠ none) (hn : s.noSignal l = false) : execLaunchComplete num s = .next s := by
  have h : l.park.isSome = true := Option.isSome_iff_ne_none.2 hp
  simp [execLaunchComplete, hl, h, hn]

theorem complete_signals (h : l.step = 1 ∨ l.step = 2) (hp : l.park = none ∨ s.noSignal l = true) :
    execLaunchComplete num s = .next ((s.modLaunch num fun l => { l with park := none }).signalLaunch num) := by
  have h0 : l.step ≠ 0 := by omega
  have hgo : ¬ (l.step = 3 ∨ (l.park.isSome = true ∧ (!decide (l.step ≠ 0 ∧ s.noSignal l = true)) = true)) := by
    rintro (h3 | ⟨hpark, hsig⟩)
    · omega
    · rcases hp with hp | hn
      · simp [hp] at hpark
      · simp [h0, hn] at hsig
  simp only [execLaunchComplete, hl, if_neg hgo, if_pos h0]

section
variable (hp : l.park = none)
include hp

omit hl in
theorem complete_looked (h0 : l.step = 0) :
    ¬ (l.step = 3 ∨ (l.park.isSome = true ∧ (!decide (l.step ≠ 0 ∧ s.noSignal l = true)) = true)) := by
  simp [h0, hp]

theorem complete_deferred (h0 : l.step = 0) (hc : l.witness ≠ none ∨ l.kernelOf ≠ none) (hk : s.kilnDeferred = true) :
    execLaunchComplete num s = .next s.defer := by
  have hcert : (l.witness.isSome = true ∨ l.kernelOf.isSome = true) ∧ s.kilnDeferred = true :=
    ⟨hc.imp Option.isSome_iff_ne_none.2 Option.isSome_iff_ne_none.2, hk⟩
  simp only [execLaunchComplete, hl, if_neg (complete_looked hp h0), if_neg (not_not.2 h0), if_pos hcert]

variable (hk : l.witness = none ∧ l.kernelOf = none ∨ s.kilnDeferred = false) (h0 : l.step = 0)
include hk h0

/-- Completion past the tests that put it off. -/
theorem complete_head : execLaunchComplete num s = .next (
    if !l.finished s then s
    else if !s.framesReady (s.heldFor num) then s.askFrames (s.heldFor num)
    else match s.releaseCores num l.cores with
      | .error (.park _ t) => t
      | .error _ => s
      | .ok s' =>
        if !(s'.kernelBoundary l.cores).writesDone then s'.kernelBoundary l.cores
        else (((((((s'.kernelBoundary l.cores).sealLaunch l).kernelEnd l).dropFrames (s.heldFor num)).modLaunch num
          Launch.close).storeStatus num).signalLaunch num)) := by
  have hcert : ¬ ((l.witness.isSome = true ∨ l.kernelOf.isSome = true) ∧ s.kilnDeferred = true) := by
    rintro ⟨hc, hd⟩
    rcases hk with ⟨hw, ho⟩ | hk
    · simp [hw, ho] at hc
    · simp [hk] at hd
  simp only [execLaunchComplete, hl, if_neg (complete_looked hp h0), if_neg (not_not.2 h0), if_neg hcert]
  rfl

theorem complete_unfinished (h : ¬ l.ended s) : execLaunchComplete num s = .next s := by
  rw [complete_head hl hp hk h0, Bool.eq_false_iff.2 (mt (finished_iff l s).1 h)]
  rfl

variable (he : l.ended s)
include he

theorem complete_asks (hf : s.framesReady (s.heldFor num) = false) :
    execLaunchComplete num s = .next (s.askFrames (s.heldFor num)) := by
  rw [complete_head hl hp hk h0, (finished_iff l s).2 he, hf]
  rfl

variable (hf : s.framesReady (s.heldFor num) = true) (hr : s.releaseCores num l.cores = .ok t)
include hf hr

theorem complete_waits (hw : (t.kernelBoundary l.cores).writesDone = false) :
    execLaunchComplete num s = .next (t.kernelBoundary l.cores) := by
  rw [complete_head hl hp hk h0, (finished_iff l s).2 he, hf, hr]
  simp only [hw, Bool.not_true, Bool.not_false, Bool.false_eq_true, if_false, if_true]

theorem complete_closes (hw : (t.kernelBoundary l.cores).writesDone = true) : execLaunchComplete num s =
    .next (((((((t.kernelBoundary l.cores).sealLaunch l).kernelEnd l).dropFrames (s.heldFor num)).modLaunch num
      Launch.close).storeStatus num).signalLaunch num) := by
  rw [complete_head hl hp hk h0, (finished_iff l s).2 he, hf, hr]
  simp only [hw, Bool.not_true, Bool.false_eq_true, if_false]

end

end

/-! ### Pre-emption -/

section
variable {s t : State} {i : Nat} {r : WorkRec} {gone : List Nat}

theorem preempt_within (hr : s.sched.work[i]? = some r)
    (h : field (Tab.get 0 s.sched.cfg (16 * r.part)) 15 0 = 0 ∨
      s.tick ≤ r.tick + field (Tab.get 0 s.sched.cfg (16 * r.part)) 15 0) : execPreemption i false s = .next s := by
  have hstop : s.startPreemption r = s := by
    rw [State.startPreemption]
    exact if_pos (.inr (.inr (h.imp id .inl)))
  simp only [execPreemption, Bool.false_eq_true, if_false, hr, hstop]

/-- The preferred choice of workgroups to save for a record (R429). -/
def State.bestChoice (s : State) (r : WorkRec) : Option (List Nat) :=
  (s.choices r).foldl (fun b l => match b with
    | none => some l
    | some x => if s.betterChoice l x then some l else some x) none

theorem preempt_begins (hr : s.sched.work[i]? = some r) (hd : s.host.devState = 5) (hz : s.sched.frozen = false)
    (hu : field (Tab.get 0 s.sched.cfg (16 * r.part)) 15 0 ≠ 0)
    (ht : r.tick + field (Tab.get 0 s.sched.cfg (16 * r.part)) 15 0 < s.tick)
    (hs : (List.range 256).filter (s.admissible r) ≠ [])
    (hf : ((List.range 256).filter (s.admissible r)).any (s.fits r) = false) (hb : s.bestChoice r = some gone) :
    execPreemption i false s = .next
      ({ s with sched := { s.sched with work := s.sched.work.map fun (x : WorkRec) =>
        if x = r then { x with tick := s.tick } else x } }.beginSave gone) := by
  have hgo : ¬ (s.host.devState ≠ 5 ∨ s.sched.frozen = true ∨ field (Tab.get 0 s.sched.cfg (16 * r.part)) 15 0 = 0 ∨
      s.tick ≤ r.tick + field (Tab.get 0 s.sched.cfg (16 * r.part)) 15 0 ∨
      ((List.range 256).filter (s.admissible r)).isEmpty = true ∨
      ((List.range 256).filter (s.admissible r)).any (s.fits r) = true) := by
    rintro (h | h | h | h | h | h)
    · exact h hd
    · rw [hz] at h; cases h
    · exact hu h
    · omega
    · exact hs (List.isEmpty_iff.1 h)
    · rw [hf] at h; cases h
  have hstart : s.startPreemption r = { s with sched := { s.sched with work := s.sched.work.map fun (x : WorkRec) =>
      if x = r then { x with tick := s.tick } else x } }.beginSave gone := by
    rw [State.startPreemption]
    dsimp only
    rw [if_neg hgo]
    split
    · next h => cases h.symm.trans hb
    · next x h => rw [Option.some.inj (h.symm.trans hb)]
  simp only [execPreemption, Bool.false_eq_true, if_false, hr, hstart]

section
variable (hg : s.stoppedWith i = gone) (hlive : gone.any (fun j => (s.wg j).live) = true)
include hg hlive

theorem save_waits (hr : gone.all s.saveReady = false) : execPreemption i true s = .next s := by
  have hsave : s.finishSave i = s := by
    rw [State.finishSave]
    dsimp only
    rw [hg, hlive, hr]
    cases gone <;> rfl
  simp only [execPreemption, if_true, hsave]

/-- A save that can be made puts one resume record at the end of the work. -/
theorem save_saves (hr : gone.all s.saveReady = true) (hw : (s.saveReleases gone).writesDone = true) :
    let u := gone.foldl (fun s j => s.saveWg j) (s.saveReleases gone)
    ∃ x : WorkRec, x.resume.Perm gone ∧ x.launch = (u.wg i).launch ∧ x.level = (u.wg i).level ∧ x.ordinals = [] ∧
      execPreemption i true s = .next { u with sched := { u.sched with work := u.sched.work ++ [x] } } := by
  intro u
  have hne : gone.isEmpty = false := by
    cases gone with
    | nil => cases hlive
    | cons => rfl
  refine ⟨?rec, ?resume, ?launch, ?level, ?ordinals, ?saved⟩
  case saved =>
    refine congrArg Host.Outcome.next ?_
    rw [if_pos rfl, State.finishSave]
    dsimp only
    rw [hg, hne, hlive, hr, hw]
    rfl
  case resume => exact List.mergeSort_perm gone _
  all_goals rfl

end

/-- Which cell a saved address names depends on the workgroups alone. -/
theorem spCellOf_of_wgs {s t : State} (h : t.wgs = s.wgs) (i a : Nat) : t.spCellOf i a = s.spCellOf i a := by
  unfold State.spCellOf State.wg State.member
  rw [h]

/-- A warp whose barrier record's cell is found anew. -/
def Warp.moveBar (w : Warp) (f : Nat → Nat) : Warp := { w with bar := w.bar.map fun b => { b with cell := f b.cell } }

/-- The barrier records of a list of warps, their cells found in the state as it goes, or in the state before. -/
theorem foldl_moveBar (v : State) (n : Nat) (l : List Nat) (u : State) (h : u.wgs = v.wgs) :
    l.foldl (fun s wi => s.modWarp wi fun w => w.moveBar (s.spCellOf n)) u =
      l.foldl (fun s wi => s.modWarp wi fun w => w.moveBar (v.spCellOf n)) u := by
  induction l generalizing u with
  | nil => simp only [List.foldl_nil]
  | cons wi l ih =>
    have hcell : u.spCellOf n = v.spCellOf n := funext fun a => spCellOf_of_wgs h n a
    rw [List.foldl_cons, List.foldl_cons, hcell]
    exact ih _ ((State.modWarp_wgs _ _ _).trans h)

theorem resume_one {core n : Nat} (hc : core < 256) (hp : s.pick core = some r) (hr : r.resume = [n])
    (hready : s.remapReady core n = .ok t) :
    let u := (t.dropWork r).restoreWg n core
    let maps := match u.wgs[n]? with | some g => g.store.maps | none => []
    let v := (maps.foldl (fun s m => s.remap n m.1 m.2.1 m.2.2 0) u).modWg n fun g => { g with store := {} }
    execResumeWorkgroup core s = .next (((v.warpsOf n).foldl (fun s wi => s.modWarp wi fun w =>
      { w with bar := w.bar.map fun b => { b with cell := v.spCellOf n b.cell } }) v).acquire core 5) := by
  have hunit : (unitCores [n].length core).zip [n] = [(core, n)] := rfl
  have hfold : [(core, n)].foldlM (fun s e => State.remapReady s e.1 e.2) s = .ok t := by
    simp [hready, pure, Except.pure]
  simp only [execResumeWorkgroup, if_neg (Nat.not_le.2 hc), hp, hr, hunit, hfold, List.isEmpty_cons, Bool.false_eq_true,
    if_false, List.foldl_cons, List.foldl_nil]
  exact congrArg (fun u => Host.Outcome.next (State.acquire u core 5)) (foldl_moveBar _ _ _ _ rfl)

end

end Sys2Proof.Machine

open Sys2Proof.Machine in
/-- Settles O51, from the steps of LAUNCH_COMPLETE, PREEMPTION and RESUME_WORKGROUP. -/
theorem completionEvents : Obligations.CompletionEvents := by
  intro s t num core i n l r gone ended us some' best held
  refine ⟨complete_deferred, fun hl hp hk => ?_, fun hl hstep => ⟨complete_signals hl hstep, complete_parked hl⟩,
    preempt_begins, fun h hr => preempt_within hr h, save_saves, fun hg _ => save_waits hg.symm, resume_one⟩
  exact ⟨complete_asks hl hp hk, complete_waits hl hp hk, complete_closes hl hp hk, complete_unfinished hl hp hk,
    complete_last hl⟩
end

section
/-! PROOFS. Witness kernels, tests, re-execution and seeds (R99, R442-R454). -/

namespace Sys2Proof.Machine

/-! ### Witness kernels placed -/

section
variable {s : State} {id course : Nat} {record : BitVec 1024} {header : BitVec 512} {r : BitVec 2048}
variable (hr : s.record? id = some r) (hf : s.sched.frozen = false)
  (hk : s.sched.launches.any (fun l => l.kernelOf == some id) = false) (hd : id ∉ s.cert.delivered)
  (hs : rState r = 1 ∨ (rState r = 2 ∧ bit r 45 = false))
include hr hf hk hd hs

omit hr in
/-- A record whose test is due, and no kernel of which is under way, is not skipped. -/
theorem witnessPlace_due : ¬ ((s.sched.launches.any (fun l => l.kernelOf == some id) || s.cert.delivered.contains id) = true ∨
    s.sched.frozen = true ∨ (!(rState r == 1 || (rState r == 2 && !bit r 45))) = true) := by
  rintro (h | h | h)
  · rw [hk, Bool.false_or, List.contains_iff_mem] at h
    exact hd h
  · rw [hf] at h
    cases h
  · rcases hs with hs | ⟨hs, hb⟩
    · simp [hs] at h
    · simp [hs, hb] at h

theorem witnessPlace_nowhere (h : s.kernelCourses (recPart r) (kernelExcluded r (bit r 45 || rState r == 2)) = []) :
    execWitnessPlace id course record header s =
      .next (s.failRecord id (if bit r 45 || rState r == 2 then recCores r else [])) := by
  simp only [execWitnessPlace, hr, if_neg (witnessPlace_due hf hk hd hs), h, List.isEmpty_nil, if_true]

/-- A kernel that may be placed on a course takes its holds, and the record becomes TESTING. -/
theorem witnessPlace_placed (hc : course ∈ s.kernelCourses (recPart r) (kernelExcluded r (bit r 45 || rState r == 2)))
    (h0 : s.courseState course = 0) (hw : s.witnessCtx (recPart r) = some (recCtx record))
    (hcode : s.recordCode (recPart r) record = 0) (hcert : lrec record 61 1 % 2 = 0) (hh : headerOk header record = true)
    (hroom : s.launchRoom (recPart r) = true) (hhold : ∀ f ∈ s.kernelHolds id r, kHolders (s.kpage f) < 4095) :
    let recheck := bit r 45 || rState r == 2
    let holds := s.kernelHolds id r
    let l := newLaunch s.sched.nextLaunch (recPart r) 0 record
    let u := (holds.foldl (fun s f => s.hold f 1) (s.addLaunch { l with kernelOf := some id, hold := holds })).modRecord id
      fun r => setRState (recSet r 5 1 (if recheck then recGet r 5 1 % 32 + 32 else recGet r 5 1 % 4 + course * 4 + 16)) 2
    execWitnessPlace id course record header s =
      .next (u.runLaunch l.num header (u.placeBits (recPart r) 0 fun n => n / 16 == course && u.clusterGood n)) := by
  have hable : (s.kernelCourses (recPart r) (kernelExcluded r (bit r 45 || rState r == 2))).isEmpty = false :=
    List.isEmpty_eq_false_iff.2 (List.ne_nil_of_mem hc)
  have hall : (s.kernelHolds id r).all (fun f => decide (kHolders (s.kpage f) < 4095)) = true :=
    List.all_eq_true.2 fun f hfm => decide_eq_true (hhold f hfm)
  simp only [execWitnessPlace, hr, if_neg (witnessPlace_due hf hk hd hs), hable, List.contains_iff_mem.2 hc, h0, hw, hcode, hcert,
    hh, hroom, hall, beq_self_eq_true, Bool.and_self, Bool.not_true, Bool.false_eq_true, if_false]

end

/-! ### Tests -/

section
variable {s : State} {id i : Nat} {values : List (BitVec 64)} {r : BitVec 2048} {t : TestOf} {l : List (Option Rat)}

theorem delivered_none : s.delivered t [] = s.kernelValues t t.floats := rfl

theorem delivered_named (hn : values ≠ []) (hl : values.length = t.count)
    (hm : s.magnitudesBound t (values.map t.value) = true) : s.delivered t values = some (values.map t.value) := by
  simp only [State.delivered, List.isEmpty_eq_false_iff.2 hn, Bool.false_eq_true, if_false, hl, hm, and_self, if_true]

theorem delivered_refused (hn : values ≠ []) (h : values.length ≠ t.count ∨ s.magnitudesBound t (values.map t.value) = false) :
    s.delivered t values = none := by
  have hno : ¬ (values.length = t.count ∧ s.magnitudesBound t (values.map t.value) = true) := by
    rintro ⟨hl, hm⟩
    rcases h with h | h
    · exact h hl
    · rw [hm] at h
      cases h
  simp only [State.delivered, List.isEmpty_eq_false_iff.2 hn, Bool.false_eq_true, if_false, if_neg hno]

variable (hd : id ∈ s.cert.delivered) (hk : s.kilnDeferred = false) (hr : s.record? id = some r) (h2 : rState r = 2)
  (ht : s.testOf id r = some t)
include hd hk hr h2 ht

theorem witnessTest_refused (hv : s.delivered t values = none) : execWitnessTest id values s = .next s := by
  simp only [execWitnessTest, List.contains_iff_mem.2 hd, hk, hr, h2, ht, hv, Bool.not_true, Bool.false_eq_true, if_false,
    ne_eq, not_true_eq_false]

/-- The state without a record among those whose values stand delivered. -/
def State.taken (s : State) (id : Nat) : State :=
  { s with cert := { s.cert with delivered := s.cert.delivered.filter fun x => x != id } }

variable (hv : s.delivered t values = some l)
include hv

theorem witnessTest_passes (hp : s.runTest t l = none) (hb : bit r 45 = false) : execWitnessTest id values s =
    .next ((((s.taken id).countTest false).setRecord id (setRState (recSet r 152 8 s.tick) 3)).passRecord id) := by
  simp only [execWitnessTest, List.contains_iff_mem.2 hd, hk, hr, h2, ht, hv, hp, hb, Bool.not_true, Bool.false_eq_true, if_false,
    ne_eq, not_true_eq_false, State.taken]

variable (hp : s.runTest t l = some i)
include hp

theorem witnessTest_marks (hb : bit (recSet (recSet r 152 8 s.tick) 28 4 i) 45 = false) : execWitnessTest id values s =
    .next (((s.taken id).countTest true).setRecord id (recSet (recSet r 152 8 s.tick) 28 4 i)) := by
  simp only [execWitnessTest, List.contains_iff_mem.2 hd, hk, hr, h2, ht, hv, hp, hb, Bool.not_true, Bool.false_eq_true, if_false,
    ne_eq, not_true_eq_false, State.taken]

theorem witnessTest_fails (hb : bit (recSet (recSet r 152 8 s.tick) 28 4 i) 45 = true) : execWitnessTest id values s =
    .next ((((s.taken id).countTest true).setRecord id (recSet (recSet r 152 8 s.tick) 28 4 i)).failRecord id
      (recCores (recSet (recSet r 152 8 s.tick) 28 4 i))) := by
  simp only [execWitnessTest, List.contains_iff_mem.2 hd, hk, hr, h2, ht, hv, hp, hb, Bool.not_true, Bool.false_eq_true, if_false,
    ne_eq, not_true_eq_false, State.taken, if_true]

end

/-! ### Re-execution -/

/-- An output page still bears the version of a record, tainted. -/
def State.ours (s : State) (id f : Nat) : Prop := kWitness (s.kpage f) = id ∧ kSt (s.kpage f) = 5

section
variable {s : State} {id : Nat} {r : BitVec 2048} {st : Stored}
variable (hr : s.record? id = some r) (hst : (s.cert.stored.find? fun (x : Stored) => x.witness == id) = some st)
  (hs : rState r = 3 ∨ rState r = 4 ∨ rState r = 5) (hb : bit r 61 = false) (hk : s.kilnDeferred = false)
  (ho : ∀ o ∈ st.outs, s.ours id o.1)
include hs hb hk ho hr hst

omit hr hst hs hb hk in
theorem outs_ours : (st.outs.map (·.1)).all (fun f => kWitness (s.kpage f) == id && kSt (s.kpage f) == 5) = true := by
  rw [List.all_map, List.all_eq_true]
  intro o hm
  obtain ⟨hw, h5⟩ := ho o hm
  simp [hw, h5]

omit hr hst hk ho in
theorem reexecute_due {ours : Bool} (h : ours = true) :
    ¬ ((!(rState r == 4 || rState r == 5 || (rState r == 3 && ours))) = true ∨ bit r 61 = true) := by
  subst h
  rcases hs with hs | hs | hs <;> simp [hs, hb]

theorem reexecute_failed (ht : 2 ≤ st.tries) : execReexecute id s = .next (s.operatorFailed id) := by
  simp only [execReexecute, hr, hst, if_neg (reexecute_due hs hb (outs_ours ho)), hk, Bool.false_eq_true, if_false,
    if_pos (Or.inl ht)]

/-- An operator that can be tried again is opened from its stored copy. -/
theorem reexecute_opens {ins : List (Nat × Nat × Nat)} {frames : List Nat} {k : Nat} (ht : st.tries < 2)
    (hctx : s.ctxValid (recCtx st.record) = true) (hin : s.inputsNow st = .ready ins)
    (hfree : ∀ o ∈ st.outs, kHolders (s.kpage o.1) = 0)
    (hstack : s.stackFrames (recCtx st.record) st.record st.header = some frames) (hcourse : s.retryCourse st = some k)
    (hregion : (s.newRegion (regionBytes (lrec st.record 62 1 % 8)
      (st.entries.getD (recTids st.record).1.length 0))).isSome = true)
    (hheld : ∀ o ∈ st.outs, s.runHeld (o.1 * 0x200000) (o.2 * 0x200000) = false) (hun : s.framesUntracked frames = true)
    (hby : ∀ f ∈ frames, Tab.get 0 s.xlat.heldBy f = 0) (hrecs : s.cert.records.length < 65536)
    (hroom : s.launchRoom st.part = true) (hhold : ∀ f ∈ holdSet (ins.map (·.2)) [], kHolders (s.kpage f) < 4095) :
    let z := st.outs.foldl (fun s o => s.zeroRun (o.1 * 0x200000) (o.2 * 0x200000)) s
    let l := newLaunch z.sched.nextLaunch st.part st.level st.record
    let u := (z.addLaunch { l with header := st.header }).commitOpen l.num
      { course := k, entries := st.entries, ins := ins, outs := st.outs, frames := frames } (st.tries + 1) id
    let v := u.rebind st.part ((recOutputs r).zip (st.outs.map fun o => kVersion (u.kpage o.1)))
    execReexecute id s = .next (v.runLaunch l.num st.header
      (v.placeBits st.part (BitVec.ofNat 64 (lrec st.record 64 8)) fun n => n / 16 == k)) := by
  have hours := outs_ours ho
  have htry : ¬ (2 ≤ st.tries ∨ (!s.ctxValid (recCtx st.record)) = true) := by
    rintro (h | h)
    · omega
    · simp [hctx] at h
  have hnone : ((st.outs.map (·.1)).any fun f => kHolders (s.kpage f) != 0) = false := by
    rw [List.any_map, List.any_eq_false]
    intro o hm
    simp [hfree o hm]
  have hruns : ((st.outs.map fun o => (o.1 * 0x200000, o.2 * 0x200000)).any fun p => s.runHeld p.1 p.2) = false := by
    rw [List.any_map, List.any_eq_false]
    intro o hm
    simp [hheld o hm]
  have hframes : (frames.any fun f => Tab.get 0 s.xlat.heldBy f != 0) = false :=
    List.any_eq_false.2 fun f hm => by simp [hby f hm]
  have hholders : ((holdSet (ins.map (·.2)) []).any fun f => decide (4095 ≤ kHolders (s.kpage f))) = false :=
    List.any_eq_false.2 fun f hm => by simpa using hhold f hm
  have hgo := reexecute_due (r := r) hs hb (rfl : true = true)
  simp only [execReexecute, hr, hst, if_neg hgo, hk, if_neg htry, hin, hours, hnone, hstack, hcourse, hruns, hregion, hun,
    hframes, hroom, hholders, Bool.not_true, Bool.false_eq_true, if_false, or_self, if_neg (Nat.not_le.2 hrecs), or_false,
    false_or]

end

/-! ### Seeds -/

theorem seedEpoch_over {s : State} (h : s.cert.epochTick + field s.cert.cfg 23 0 ≤ s.tick)
    (hl : (s.cert.epoch :: s.liveEpochs).eraseDups.length < 4096) :
    execSeedEpoch s = .next (s.drawSeeds (s.cert.epoch + 1)) := by
  rw [execSeedEpoch, if_neg (by omega)]

theorem seedEpoch_within {s : State} (h : s.tick < s.cert.epochTick + field s.cert.cfg 23 0) : execSeedEpoch s = .next s := by
  rw [execSeedEpoch, if_pos (Or.inl h)]

end Sys2Proof.Machine

open Sys2Proof.Machine in
/-- Settles O52, from what placing a witness kernel, testing its values, re-executing an operator and ending an epoch do. -/
theorem certificationEvents : Obligations.CertificationEvents := by
  intro s id course i record header values r t st l part recheck able holds gone tests
  refine ⟨fun hr hf hk hd hs => ⟨witnessPlace_nowhere hr hf hk hd hs, witnessPlace_placed hr hf hk hd hs⟩, ?_, ?_,
    seedEpoch_over, seedEpoch_within⟩
  · intro hd hk hr h2 ht
    refine ⟨fun hv => by rw [hv, delivered_none], fun hl hn hm => delivered_named hn hl hm, ?_, ?_, ?_⟩
    · exact fun hn h => witnessTest_refused hd hk hr h2 ht (delivered_refused hn h)
    · exact fun hv hp hb => witnessTest_passes hd hk hr h2 ht hv hp hb
    · exact fun hv hp => ⟨witnessTest_marks hd hk hr h2 ht hv hp, witnessTest_fails hd hk hr h2 ht hv hp⟩
  · intro hr hst hs hb hk
    refine ⟨fun ht ho => reexecute_failed hr hst hs hb hk ho ht, ?_⟩
    intro ht hctx ins frames k hin ho hstack hcourse hregion hheld hun hby hrecs hroom hhold
    exact reexecute_opens hr hst hs hb hk (fun o hm => ⟨(ho o hm).1, (ho o hm).2.1⟩) ht hctx hin
      (fun o hm => (ho o hm).2.2) hstack hcourse hregion hheld hun hby hrecs hroom hhold
end

section
/-! PROOFS. Time, scrubbing and re-striping (R76-R83, R87, R135, R456), errors and gating of core pairs (R461-R466). -/

namespace Sys2Proof.Machine

/-! ### Time -/

/-- A change of translation's state alone. -/
theorem Background.of_xlat (s : State) (x : Xlat) : Background s { s with xlat := x } := .of_eq rfl rfl rfl rfl rfl

/-- A change of the fabric's state and of translation's alone. -/
theorem Background.of_fab_xlat (s : State) (f : Fabric) (x : Xlat) : Background s { s with fab := f, xlat := x } :=
  .of_eq rfl rfl rfl rfl rfl

namespace State

theorem flushFaults_background (l : List FaultEntry) (s : State) : Background s (s.flushFaults l) := by
  induction l generalizing s with
  | nil => exact .refl s
  | cons e l ih =>
    unfold State.flushFaults
    dsimp only
    split
    · split
      · refine Background.trans ?_ (ih _)
        refine Background.trans ?_ (send_background _ _)
        refine Background.trans ?_ (.of_xlat _ _)
        exact (s.writePa_background _ _ _).trans (writePa_background _ _ _ _)
      · exact ih s
    · exact ih s

theorem flushAllFaults_background (s : State) : Background s s.flushAllFaults := flushFaults_background _ s

theorem logWrite_background (s : State) (p : Nat) (b : LogBlock) (x : Inbound) : Background s (s.logWrite p b x) := by
  unfold State.logWrite
  refine Background.trans ?_ (send_background _ _)
  refine Background.trans ?_ (.of_fab_xlat _ _ _)
  exact (s.writeRun_background _ _ _ _).trans (writePa_background _ _ _ _)

theorem flushLogs_background (l : List Inbound) (s : State) : Background s (s.flushLogs l) := by
  induction l generalizing s with
  | nil => exact .refl s
  | cons x l ih =>
    unfold State.flushLogs
    dsimp only
    split
    · split
      · refine Background.trans ?_ (ih _)
        exact (Background.of_fab _ _).trans (logWrite_background _ _ _ _)
      · exact ih s
    · exact ih s

end State

theorem deviceTick_next (s : State) : ∃ t, execDeviceTick s = .next t ∧ t.tick = s.tick + 1 ∧
    ∀ i w, s.warp? i = some w → ∃ v, t.warp? i = some v ∧ v.s = w.s ∧ v.pc = w.pc := by
  have hform : ∃ r l u, u = { s with tick := s.tick + 1, rel := r }.flushAllFaults ∧
      execDeviceTick s = .next (u.flushLogs l) := ⟨_, _, _, rfl, rfl⟩
  obtain ⟨r, l, u, rfl, hform⟩ := hform
  have h := (State.flushAllFaults_background { s with tick := s.tick + 1, rel := r }).trans (State.flushLogs_background l _)
  refine ⟨_, hform, h.tick, fun i w hw => ?_⟩
  obtain ⟨m, hm⟩ := h.warps i w hw
  exact ⟨_, hm, rfl, rfl⟩

theorem l1Age_old {s : State} {core line : Nat} (hx : s.mem.l1At core line ≠ L1Line.none)
    (h : 2 ^ 40 < ticksBack (s.tick % 2 ^ 43) (s.mem.l1At core line).tick) :
    execL1AgeInvalidate core line s = .next (s.l1Drop core line) := by
  rw [execL1AgeInvalidate, if_pos ⟨hx, h⟩]

theorem hourly_clears {s : State} (h : s.tick % 3600000000 = 0) : execHourlyCounterClear s =
    .next (s.rel.banks.foldl (fun s e => s.setBank e.1 (setField e.2 23 0 0)) s) := by
  rw [execHourlyCounterClear, if_neg (not_not.2 h)]

/-! ### Scrubbing -/

/-- A code corrects an error: few enough symbols are wrong, or all on one data pin under the strong code (R76). -/
def corrects (strong : Bool) (symbols : Nat) (pin : Bool) : Prop :=
  symbols ≤ (if strong = true then 2 else 1) ∨ (strong = true ∧ pin = true)

section
variable {strong pin : Bool} {symbols : Nat}

theorem codeOutcome_corrects (h0 : symbols ≠ 0) (h : corrects strong symbols pin) : codeOutcome strong symbols pin = some 1 := by
  rw [codeOutcome, if_neg h0]
  exact if_pos h

variable (h : ¬ corrects strong symbols pin)
include h

theorem not_corrects_pos : symbols ≠ 0 := fun h0 => h (.inl (h0 ▸ Nat.zero_le _))

theorem codeOutcome_detects (hd : symbols ≤ (if strong = true then 3 else 2)) : codeOutcome strong symbols pin = some 2 := by
  rw [codeOutcome, if_neg (not_corrects_pos h)]
  exact (if_neg h).trans (if_pos hd)

theorem codeOutcome_beyond (hd : (if strong = true then 3 else 2) < symbols) : codeOutcome strong symbols pin = none := by
  rw [codeOutcome, if_neg (not_corrects_pos h)]
  exact (if_neg h).trans (if_neg (Nat.not_le.2 hd))

end

section
variable {s : State} {b : Nat}

theorem withBanks_cfg (r : Reliab) (t : Tab (BitVec 32)) : { r with banks := t }.hbmCfg = r.hbmCfg := rfl

theorem setBank_rel (s : State) (b : Nat) (x : BitVec 32) :
    (s.setBank b x).rel = { s.rel with banks := Tab.set 0 s.rel.banks b x } := rfl

theorem setBank_cfg (s : State) (b : Nat) (x : BitVec 32) : (s.setBank b x).rel.hbmCfg = s.rel.hbmCfg :=
  (congrArg Reliab.hbmCfg (setBank_rel s b x)).trans (withBanks_cfg _ _)

theorem bankCorrected_first (h : field (s.bank b) 31 30 = 0) :
    let n := Nat.min 0xFFFF (field (s.bank b) 15 0 + 1)
    let t := s.setBank b (setField (s.bank b) 15 0 n)
    s.bankCorrected b = if field s.rel.hbmCfg 15 0 ≤ n then t.bankEvent b false else t := by
  intro n t
  rw [State.bankCorrected]
  by_cases hn : field s.rel.hbmCfg 15 0 ≤ n
  · rw [if_pos hn, if_pos ⟨h, hn⟩]
  · rw [if_neg hn, if_neg fun hc => hn hc.2, if_neg fun hc => absurd (h.symm.trans hc.1) Nat.zero_ne_one]

theorem bankCorrected_strong (h : field (s.bank b) 31 30 = 1) :
    let n := Nat.min 0xFFFF (field (s.bank b) 15 0 + 1)
    let t := s.setBank b (setField (s.bank b) 15 0 n)
    s.bankCorrected b = if field s.rel.hbmCfg 31 16 ≤ n then t.bankEvent b true else t := by
  intro n t
  rw [State.bankCorrected, if_neg fun hc => absurd (hc.1.symm.trans h) Nat.zero_ne_one]
  by_cases hn : field s.rel.hbmCfg 31 16 ≤ n
  · rw [if_pos hn, if_pos ⟨h, hn⟩]
  · rw [if_neg hn, if_neg fun hc => hn hc.2]

theorem bankCorrected_other (h : field (s.bank b) 31 30 = 2 ∨ field (s.bank b) 31 30 = 3) :
    s.bankCorrected b = s.setBank b (setField (s.bank b) 15 0 (Nat.min 0xFFFF (field (s.bank b) 15 0 + 1))) := by
  rw [State.bankCorrected, if_neg (by omega), if_neg (by omega)]

theorem bankFailed_counts (h : field (s.bank b) 31 30 ≠ 3) :
    let n := Nat.min 255 (field (s.bank b) 23 16 + 1)
    let t := s.setBank b (setField (s.bank b) 23 16 n)
    s.bankFailed b = if field s.rel.hbmCfg 39 32 ≤ n then t.bankEvent b true else t := by
  dsimp only
  rw [State.bankFailed, setBank_cfg]
  by_cases hn : field s.rel.hbmCfg 39 32 ≤ Nat.min 255 (field (s.bank b) 23 16 + 1)
  · rw [if_pos hn, if_pos ⟨h, hn⟩]
  · rw [if_neg hn, if_neg fun hc => hn hc.2]

theorem bankFailed_dropped (h : field (s.bank b) 31 30 = 3) :
    s.bankFailed b = s.setBank b (setField (s.bank b) 23 16 (Nat.min 255 (field (s.bank b) 23 16 + 1))) := by
  rw [State.bankFailed, if_neg fun hc => hc.1 h]

end

/-- What bytes drawn for a sector leave as it was. -/
def OnlySector (sec : Nat) (s t : State) : Prop :=
  t.warps = s.warps ∧ t.rel = s.rel ∧ t.mem.poison = s.mem.poison ∧ ∀ a, a / 32 ≠ sec → t.mem.byteAt a = s.mem.byteAt a

namespace OnlySector

theorem trans {sec : Nat} {s t u : State} (h : OnlySector sec s t) (k : OnlySector sec t u) : OnlySector sec s u :=
  ⟨k.1.trans h.1, k.2.1.trans h.2.1, k.2.2.1.trans h.2.2.1, fun a ha => (k.2.2.2 a ha).trans (h.2.2.2 a ha)⟩

/-- Eight bytes of a sector written in memory. -/
theorem of_bytes {sec i : Nat} (hi : i < 4) (s t : State) (x : Nat) (hw : t.warps = s.warps) (hr : t.rel = s.rel)
    (hm : t.mem = { s.mem with bytes := writeMasked s.mem.bytes (sec * 32 + 8 * i) 8 0xFF x }) : OnlySector sec s t := by
  refine ⟨hw, hr, by rw [hm], fun a ha => ?_⟩
  rw [hm]
  have hout : Tab.get 0 (writeMasked s.mem.bytes (sec * 32 + 8 * i) 8 0xFF x) a = Tab.get 0 s.mem.bytes a :=
    writeMasked_get_out _ _ _ _ _ _ (by omega)
  unfold Mem.byteAt
  rw [hout]
  rfl

theorem foldl {sec : Nat} (f : State → Nat → State) (hf : ∀ s i, i < 4 → OnlySector sec s (f s i)) (l : List Nat)
    (hl : ∀ i ∈ l, i < 4) (s : State) : OnlySector sec s (l.foldl f s) := by
  induction l generalizing s with
  | nil => exact ⟨rfl, rfl, rfl, fun _ _ => rfl⟩
  | cons i l ih =>
    exact (hf s i (hl i List.mem_cons_self)).trans (ih (fun j hj => hl j (List.mem_cons_of_mem _ hj)) _)

end OnlySector

/-- An error beyond a code's detection poisons its sector, or leaves free bytes in that sector alone (entry 49). -/
theorem beyondCode_or (s : State) (sec : Nat) :
    s.beyondCode sec = (((s.free Config.freeChoice).2.poisonStored sec).bankFailed (s.bankOf (sec / 4))) ∨
      OnlySector sec s (s.beyondCode sec) := by
  by_cases h : (s.free Config.freeChoice).1 % 2 = 0
  · left
    rw [State.beyondCode]
    dsimp only
    rw [if_pos h]
    rfl
  · right
    rw [State.beyondCode]
    dsimp only
    rw [if_neg h]
    refine OnlySector.trans (t := (s.free Config.freeChoice).2) ⟨rfl, rfl, rfl, fun _ _ => rfl⟩ ?_
    refine OnlySector.foldl _ (fun s i hi => ?_) _ (fun i hi => List.mem_range.1 hi) _
    exact OnlySector.of_bytes hi s _ _ rfl rfl rfl

section
variable {s : State} {sec symbols : Nat} {pin : Bool}

theorem scrub_far (hk : s.paKind (sec * 32) = .far) :
    execScrub sec symbols pin s = .next (if symbols = 0 then s else s.poisonStored sec) := by
  simp only [execScrub, hk]

variable (hk : s.paKind (sec * 32) = .hbm)
include hk

theorem scrub_clean (h : symbols = 0) : execScrub sec symbols pin s = .next s := by
  simp only [execScrub, hk, codeOutcome, if_pos h]

theorem scrub_corrected (h0 : symbols ≠ 0) (h : corrects (s.rowStrong (sec / 4)) symbols pin) :
    execScrub sec symbols pin s = .next (s.bankCorrected (s.bankOf (sec / 4))) := by
  simp only [execScrub, hk, codeOutcome_corrects h0 h]

variable (h : ¬ corrects (s.rowStrong (sec / 4)) symbols pin)
include h

theorem scrub_failed (hd : symbols ≤ (if s.rowStrong (sec / 4) = true then 3 else 2)) :
    execScrub sec symbols pin s = .next ((s.poisonStored sec).bankFailed (s.bankOf (sec / 4))) := by
  simp only [execScrub, hk, codeOutcome_detects h hd]

theorem scrub_beyond (hd : (if s.rowStrong (sec / 4) = true then 3 else 2) < symbols) :
    execScrub sec symbols pin s = .next (s.beyondCode sec) := by
  simp only [execScrub, hk, codeOutcome_beyond h hd]

end

theorem rowStrong_of_code {s : State} {line : Nat} (h : field (s.bank (s.bankOf line)) 31 30 = 1) :
    s.rowStrong line = true := by
  simp only [State.rowStrong, h, beq_self_eq_true, Bool.true_or]

/-! ### Re-encoding and re-striping -/

section
variable {s : State} {bank region : Nat}

theorem reencode_waits {last : Bool} (h : field (s.bank bank) 31 30 ≠ 2 ∨ s.striped = false) :
    execReencodeRow bank last s = .next s := by
  rw [execReencodeRow, if_pos (h.imp id fun h => by rw [h]; rfl)]

section
variable (h2 : field (s.bank bank) 31 30 = 2) (hs : s.striped = true)
include h2 hs

theorem reencode_due : ¬ (field (s.bank bank) 31 30 ≠ 2 ∨ (!s.striped) = true) := by simp [h2, hs]

theorem reencode_last : execReencodeRow bank true s =
    .next ((s.setStrong bank (2 ^ 20)).setBank bank (setField (s.bank bank) 31 30 1)) := by
  rw [execReencodeRow, if_neg (reencode_due h2 hs), if_pos rfl]

theorem reencode_row : execReencodeRow bank false s =
    .next (s.setStrong bank (Nat.min (2 ^ 20) (Tab.get 0 s.rel.strongRows bank + 1))) := by
  rw [execReencodeRow, if_neg (reencode_due h2 hs), if_neg Bool.false_ne_true]

end

/-- A field replaced holds the value modulo its width. -/
theorem field_setField_mod {w : Nat} (x : BitVec w) {hi lo v : Nat} (hw : hi < w) (hlo : lo ≤ hi) :
    field (setField x hi lo v) hi lo = v % 2 ^ (hi + 1 - lo) := by
  have hv : setField x hi lo v = setField x hi lo (v % 2 ^ (hi + 1 - lo)) := by
    rw [setField, setField, Nat.mod_mod]
  rw [hv, field_setField_same x hw hlo (Nat.mod_lt _ (Nat.two_pow_pos _))]

/-- Room made at a directory changes memory, the warps and the free values alone. -/
theorem dirRoom_rel (s : State) (line : Nat) : (s.dirRoom line).rel = s.rel := by
  unfold State.dirRoom State.homeTake
  dsimp only
  split
  · rfl
  · split <;> rfl

theorem setDir_dirOf (m : Mem) (line : Nat) (d : DirEntry) : (m.setDir line d).dirOf line = d := by
  simp [Mem.setDir, Mem.dirOf]

theorem setRegion_region (s : State) (n : Nat) (x : BitVec 128) : (s.setRegion n x).region n = x := by
  simp [State.setRegion, State.region]

theorem withRegions_banks (r : Reliab) (t : Tab (BitVec 128)) : { r with regions := t }.banks = r.banks := rfl

theorem setRegion_rel (s : State) (n : Nat) (x : BitVec 128) :
    (s.setRegion n x).rel = { s.rel with regions := Tab.set (BitVec.ofNat 128 (2 ^ 127)) s.rel.regions n x } := rfl

theorem setRegion_banks (s : State) (n : Nat) (x : BitVec 128) : (s.setRegion n x).rel.banks = s.rel.banks :=
  (congrArg Reliab.banks (setRegion_rel s n x)).trans (withRegions_banks _ _)

/-- The course of the home of a line at its region's WATERMARK, under a hash version, is fenced or in reset. -/
def State.moveFenced (s : State) (region v : Nat) : Prop :=
  let k := stackCourse (grainChannel v ((region * 2 ^ 23 + field (s.region region) 87 64) / 4) / 64)
  s.courseState k = 2 ∨ s.courseState k = 3

theorem migrate_valid {r : BitVec 128} (hv : bit r 127 = true) (hr : region < 768) : ¬ (768 ≤ region ∨ (!bit r 127) = true) := by
  rintro (h | h)
  · omega
  · simp [hv] at h

section
variable (hr : region < 768) (hv : bit (s.region region) 127 = true)
include hr hv

theorem migrate_begins (hm : bit (s.region region) 126 = false) (hn : field (s.region region) 15 0 ≠ s.rel.hashVersion)
    (hb : ((List.range 768).filter fun n => bit (s.region n) 126).length < 4) :
    execMigrateLine { region := region, bad := [] } s = .next (s.setRegion region
      (setBit (setField (setField (s.region region) 87 64 0) 47 32 s.rel.hashVersion) 126 true)) := by
  have hgo : ¬ (field (s.region region) 15 0 = s.rel.hashVersion ∨
      4 ≤ ((List.range 768).filter fun n => bit (s.region n) 126).length) := by omega
  simp only [execMigrateLine, if_neg (migrate_valid hv hr), hm, Bool.not_false, if_true, if_neg hgo]

variable (hm : bit (s.region region) 126 = true)
include hm

theorem migrate_waits (h : s.moveFenced region (field (s.region region) 15 0) ∨
      s.moveFenced region (field (s.region region) 47 32) ∨ s.moveAwaited region = true) :
    execMigrateLine { region := region, bad := [] } s = .next s := by
  simp only [State.moveFenced] at h
  simp only [execMigrateLine, if_neg (migrate_valid hv hr), hm, Bool.not_true, Bool.false_eq_true, if_false]
  rw [if_pos]
  simpa [or_assoc] using h

theorem migrate_moves (h1 : ¬ s.moveFenced region (field (s.region region) 15 0))
    (h2 : ¬ s.moveFenced region (field (s.region region) 47 32)) (h3 : s.moveAwaited region = false) :
    execMigrateLine { region := region, bad := [] } s = .next (s.moveLine region []) := by
  simp only [State.moveFenced] at h1 h2
  simp only [execMigrateLine, if_neg (migrate_valid hv hr), hm, Bool.not_true, Bool.false_eq_true, if_false]
  rw [if_neg]
  simpa [h3, not_or] using And.intro h1 h2

end

/-- A line that is not its region's last moves with its directory entry. -/
theorem moveLine_eq (hlast : field (s.region region) 87 64 + 1 ≠ 0x800000) :
    let moved := region * 2 ^ 23 + field (s.region region) 87 64
    let u := ({ s with mem := s.mem.setDir moved .uncached } : State).pastWatermark region
    let v := if s.mem.dirOf moved = .uncached then u else u.dirRoom moved
    s.moveLine region [] = { v with mem := v.mem.setDir moved (s.mem.dirOf moved) } := by
  have hwater : ∀ t : State, t.region region = s.region region →
      ¬ field ((t.pastWatermark region).region region) 87 64 = 0x800000 := by
    intro t ht
    rw [State.pastWatermark, setRegion_region, field_setField_mod _ (by decide) (by decide), ht]
    have hlt : field (s.region region) 87 64 < 2 ^ 24 := Nat.mod_lt _ (Nat.two_pow_pos _)
    omega
  have hgo := hwater { s with mem := s.mem.setDir (region * 2 ^ 23 + field (s.region region) 87 64) .uncached } rfl
  rw [State.moveLine]
  dsimp only [List.filter_nil, List.foldl_nil]
  erw [if_neg hgo]
  rfl

theorem moveLine_rel (hlast : field (s.region region) 87 64 + 1 ≠ 0x800000) : (s.moveLine region []).rel =
    (s.setRegion region (setField (s.region region) 87 64 (field (s.region region) 87 64 + 1))).rel := by
  rw [moveLine_eq hlast]
  split
  · rfl
  · exact dirRoom_rel _ _

/-- A line that is not its region's last moves with its directory entry. -/
theorem moveLine_moves (hlast : field (s.region region) 87 64 + 1 ≠ 0x800000) :
    (s.moveLine region []).region region = setField (s.region region) 87 64 (field (s.region region) 87 64 + 1) ∧
      (s.moveLine region []).mem.dirOf (region * 2 ^ 23 + field (s.region region) 87 64) =
        s.mem.dirOf (region * 2 ^ 23 + field (s.region region) 87 64) ∧
      (s.moveLine region []).rel.banks = s.rel.banks ∧
      (s.mem.dirOf (region * 2 ^ 23 + field (s.region region) 87 64) = .uncached →
        (s.moveLine region []).warps = s.warps ∧ (s.moveLine region []).mem.bytes = s.mem.bytes) := by
  refine ⟨?_, ?_, ?_, fun hd => ?_⟩
  · rw [State.region, moveLine_rel hlast]
    exact setRegion_region _ _ _
  · rw [moveLine_eq hlast]
    exact setDir_dirOf _ _ _
  · rw [moveLine_rel hlast, setRegion_banks]
  · rw [moveLine_eq hlast, if_pos hd]
    exact ⟨rfl, rfl⟩

end

/-! ### The window of failures -/

/-- The counts of cores taken anew change no charge, no warp and no memory. -/
theorem foldl_recount (l : List Nat) (s : State) : (l.foldl (fun s c => s.recount c) s).cert.charges = s.cert.charges ∧
    (l.foldl (fun s c => s.recount c) s).warps = s.warps ∧ (l.foldl (fun s c => s.recount c) s).mem = s.mem := by
  induction l generalizing s with
  | nil => exact ⟨rfl, rfl, rfl⟩
  | cons c l ih => exact ih (s.recount c)

theorem window_expires (s : State) : ∃ t, execFailureWindowExpiry s = .next t ∧
    t.cert.charges = s.cert.charges.filter (fun e => decide (s.tick < e.tick + 86400000000)) ∧
    t.warps = s.warps ∧ t.mem = s.mem :=
  ⟨_, rfl, foldl_recount _ _⟩

end Sys2Proof.Machine

namespace Sys2Proof.Claims
open Sys2Proof.Machine

theorem reliabilityEvents : ReliabilityEvents := by
  intro s core line sec symbols region pin bank x code power corrects' runs z cfg ce ue s1 s2 r
  refine ⟨deviceTick_next s, l1Age_old, hourly_clears, fun hk => ⟨scrub_clean hk, ?_, ?_, ?_⟩, scrub_far, rowStrong_of_code,
    fun h2 hs => ⟨reencode_last h2 hs, reencode_row h2 hs⟩, fun last h => reencode_waits h, migrate_begins, ?_,
    window_expires s⟩
  · intro h0 h
    have hrun : runs = .next (s.bankCorrected bank) := scrub_corrected hk h0 h
    exact ⟨fun hc => hrun.trans (congrArg Host.Outcome.next (bankCorrected_first hc)),
      fun hc => hrun.trans (congrArg Host.Outcome.next (bankCorrected_strong hc)),
      fun hc => hrun.trans (congrArg Host.Outcome.next (bankCorrected_other hc))⟩
  · intro h hd
    have hrun : runs = .next ((s.poisonStored sec).bankFailed bank) := scrub_failed hk h hd
    exact ⟨fun hc => hrun.trans (congrArg Host.Outcome.next (bankFailed_counts hc)),
      fun hc => hrun.trans (congrArg Host.Outcome.next (bankFailed_dropped hc))⟩
  · intro h hd
    have hrun : runs = .next (s.beyondCode sec) := scrub_beyond hk h hd
    exact (beyondCode_or s sec).imp (fun hb => hrun.trans (congrArg Host.Outcome.next hb)) fun hb => ⟨_, hrun, hb⟩
  · intro hr hv hm
    exact ⟨migrate_waits hr hv hm, fun h1 h2 h3 hlast => ⟨_, migrate_moves hr hv hm h1 h2 h3, moveLine_moves hlast⟩⟩

end Sys2Proof.Claims
end

section
/-! PROOFS. Errors and gating of core pairs (R461-R466). -/

namespace Sys2Proof.Machine

/-! ### Pipeline errors -/

section
variable {s : State} {i j : Nat} {w : Warp} {b : Block}
variable (hw : s.warp? i = some w)
include hw

section
variable (hl : w.live = true) (hs : (s.wgOf w).saved = none) (hp : w.park ≠ .pipeline)
include hl hs hp

omit hw in
theorem pipeline_strikes : ¬ ((!w.live) = true ∨ (s.wgOf w).saved.isSome = true ∨ w.park = .pipeline) := by
  simp [hl, hs, hp]

theorem pipelineError_scalar : execPipelineError { warp := i, thread := none } s =
    .next ({ s with rel := { s.rel with retry := s.rel.retry ++ [i] } }.setWarp i { w with park := .pipeline }) := by
  simp only [execPipelineError, hw, if_neg (pipeline_strikes hl hs hp)]
  exact congrArg Host.Outcome.next (State.modWarp_eq_setWarp _ i _ w hw)

theorem pipelineError_lane (hlane : w.lane = true) (hb : w.blocks.head? = some b) :
    execPipelineError { warp := i, thread := some j } s =
      .next (s.setWarp i (w.setHead (some { b with stopAt := some j }))) := by
  obtain ⟨rest, hblocks⟩ := List.head?_eq_some_iff.1 hb
  simp only [execPipelineError, hw, if_neg (pipeline_strikes hl hs hp)]
  rw [State.modWarp_eq_setWarp s _ _ w hw, hlane, hblocks]

theorem pipelineError_nothing (h : w.lane = false ∨ w.blocks = []) :
    execPipelineError { warp := i, thread := some j } s = .next s := by
  simp only [execPipelineError, hw, if_neg (pipeline_strikes hl hs hp)]
  rw [State.modWarp_eq_setWarp s _ _ w hw]
  refine congrArg Host.Outcome.next ((congrArg (s.setWarp i) ?_).trans (State.setWarp_self s i w hw))
  rcases h with h | h
  · rw [h]
  · rw [h]
    split
    · next hb => cases hb
    · rfl

end

section
variable (hp : w.park = .pipeline) (hr : i ∈ s.rel.retry)
include hp hr

/-- The state once a retry has been taken up. -/
def State.retried (s : State) (i core : Nat) : State :=
  { s with rel := { s.rel with retry := s.rel.retry.filter fun j => j != i } }.count core 9 1

omit hw in
theorem retry_due : ¬ (w.park ≠ .pipeline ∨ (!s.rel.retry.contains i) = true) := by
  simp [hp, hr]

theorem pipelineRetry_passed : execPipelineRetry i true s =
    .next (((s.retried i (s.wgOf w).core).logEvent 1 0 (s.wgOf w).core 0x30).modWarp i fun w => { w with park := .run }) := by
  simp only [execPipelineRetry, hw, if_neg (retry_due hp hr), if_true, State.retried]

theorem pipelineRetry_failed : execPipelineRetry i false s =
    .next ((((s.retried i (s.wgOf w).core).logEvent 2 0 (s.wgOf w).core 0x30).charge (s.wgOf w).core 1 0
      (field (s.retried i (s.wgOf w).core).rel.faultCfg 31 24) 2).abortWg w.wg 0x30) := by
  simp only [execPipelineRetry, hw, if_neg (retry_due hp hr), Bool.false_eq_true, if_false, State.retried]

end

end

/-! ### Uncorrectable errors and gating -/

section
variable {s : State} {core t : Nat} {x : CoreHit}
variable (hc : core < 256)
include hc

/-- The workgroups that an error in a core's state strikes. -/
def State.struck (s : State) (core : Nat) (x : CoreHit) : List Nat :=
  x.wgs.filter fun i => (s.wg i).live && (s.wg i).core == core && (s.wg i).saved.isNone

/-- The state once single errors have been corrected and struck lines poisoned. -/
def State.lineErrors (s : State) (x : CoreHit) : State :=
  x.lines.foldl (fun s l => s.poisonLine l) { s with rel := { s.rel with corrected := s.rel.corrected + x.single } }

theorem coreUe_spares (h : s.struck core x = []) : execCoreUe core x s = .next (s.lineErrors x) := by
  have hnone : (s.struck core x).isEmpty = true := List.isEmpty_iff.2 h
  rw [State.struck] at hnone
  simp only [execCoreUe, if_neg (Nat.not_le.2 hc), hnone, if_true, State.lineErrors]

theorem coreUe_aborts (h : s.struck core x ≠ []) : execCoreUe core x s =
    .next (((s.struck core x).foldl (fun s i => s.abortWg i 0x21 2) (s.lineErrors x)).charge core 2 0
      (field (s.lineErrors x).rel.faultCfg 23 16) 2) := by
  have hsome : (s.struck core x).isEmpty = false := List.isEmpty_eq_false_iff.2 h
  rw [State.struck] at hsome
  simp only [execCoreUe, if_neg (Nat.not_le.2 hc), hsome, Bool.false_eq_true, if_false, State.lineErrors, State.struck]

theorem powerGate_gates (hg : (s.core core).gate = .ready) (he : s.pairEmpty core = true)
    (h : s.retired core = true ∨
      (field s.rel.faultCfg 15 0 ≠ 0 ∧ (s.core core).idleSince + field s.rel.faultCfg 15 0 ≤ s.tick)) :
    ∃ t, execPowerGate core s = .next t ∧ (t.core core).gate = .gated := by
  have hgo : ¬ (256 ≤ core ∨ (s.core core).gate ≠ .ready ∨ (!s.pairEmpty core) = true ∨ (!(s.retired core ||
      (field s.rel.faultCfg 15 0 != 0 && decide ((s.core core).idleSince + field s.rel.faultCfg 15 0 ≤ s.tick)))) = true) := by
    rintro (hn | hn | hn | hn)
    · omega
    · exact hn hg
    · simp [he] at hn
    · rcases h with h | ⟨h0, ht⟩
      · simp [h] at hn
      · simp [h0, ht] at hn
  rw [execPowerGate, if_neg hgo]
  refine ⟨_, rfl, ?_⟩
  simp [State.setCore, State.core]

theorem coreWake_wakes (hg : (s.core core).gate = .gated) (hr : s.retired core = false) :
    execCoreWake core s = .next (s.setCore core { s.core core with gate := .waking s.tick }) := by
  have hgo : core < 256 ∧ (s.core core).gate = .gated ∧ (!s.retired core) = true := ⟨hc, hg, by rw [hr]; rfl⟩
  rw [execCoreWake, if_pos hgo]

section
variable (hg : (s.core core).gate = .waking t) (ht : t + 44 ≤ s.tick)
include hg ht

theorem selfTest_passed : execSelfTestDone core true s = .next (s.setCore core
    { s.core core with gate := if s.retired core then .gated else .ready, idleSince := s.tick }) := by
  simp [execSelfTestDone, hg, ht, hc]

theorem selfTest_failed : execSelfTestDone core false s =
    .next (((s.setCore core { s.core core with gate := .gated }).logEvent 4 0 core 3).retireCore core 3) := by
  simp [execSelfTestDone, hg, ht, hc]

end

end

end Sys2Proof.Machine

namespace Sys2Proof.Claims
open Sys2Proof.Machine

theorem coreErrorEvents : CoreErrorEvents := by
  intro s i j core x w b c us u
  refine ⟨fun hw hl hs hp => ⟨pipelineError_scalar hw hl hs hp, pipelineError_lane hw hl hs hp,
    pipelineError_nothing hw hl hs hp⟩, fun hw hp hr => ⟨pipelineRetry_passed hw hp hr, pipelineRetry_failed hw hp hr⟩,
    fun hc => ⟨coreUe_spares hc, coreUe_aborts hc⟩, powerGate_gates, coreWake_wakes,
    fun t hc hg ht => ⟨selfTest_passed hc hg ht, selfTest_failed hc hg ht⟩⟩

end Sys2Proof.Claims

/-- Settles O53, from what each reliability event and each event of a core pair does. -/
theorem reliabilityAndCoreErrors : Obligations.ReliabilityAndCoreErrors :=
  ⟨Sys2Proof.Claims.reliabilityEvents, Sys2Proof.Claims.coreErrorEvents⟩
end

section
/-! PROOFS. Links, course resets and heat (R464, R467-R469, R487). -/

namespace Sys2Proof.Machine

/-! ### Links -/

section
variable {s : State} {a b t : Nat}

section
variable (ha : a < 11) (hb : b < 11) (hab : a ≠ b)
include ha hb hab

theorem link_sleeps (h : s.link a b = .awake) : execLinkLowPowerEntry a b s = .next (s.setLink a b .lowPower) := by
  rw [execLinkLowPowerEntry, if_pos ⟨ha, hb, hab, h⟩]

theorem link_inRange : ¬ (11 ≤ a ∨ 11 ≤ b ∨ a = b) := by omega

theorem link_unanswered (h : s.link a b = .awake) :
    execLinkWakeTimeout a b s = .next (s.setLink a b (.silent s.tick)) := by
  simp only [execLinkWakeTimeout, if_neg (link_inRange ha hb hab), h]

theorem link_wakeLate (h : s.link a b = .waking t) (ht : t + 3 ≤ s.tick) :
    execLinkWakeTimeout a b s = .next (s.setLink a b (.silent s.tick)) := by
  simp only [execLinkWakeTimeout, if_neg (link_inRange ha hb hab), h, if_pos ht]

end

theorem link_wakes (h : s.link a b = .lowPower) : execLinkWake a b s = .next (s.setLink a b (.waking s.tick)) := by
  rw [execLinkWake, if_pos h]

theorem link_trains (h : s.link a b = .waking t ∨ s.link a b = .silent t) :
    execLinkTrained a b s = .next (s.setLink a b .awake) := by
  rcases h with h | h <;> simp only [execLinkTrained, h]

theorem link_fences (h : s.link a b = .silent t) (ht : t + 250 ≤ s.tick) :
    let u := ((s.setLink a b .fenced).destroyDie b fun l => s.homeDie l == a).logEvent 8 3 (a * 11 + b) 0
    execLinkFenceTimeout a b s =
      .next (if b < 8 then u.startReset (b % 4) 2 else if a < 8 then u.startReset (a % 4) 2 else u) := by
  simp only [execLinkFenceTimeout, h, if_neg (Nat.not_lt.2 ht)]

end

/-! ### Course resets -/

section
variable {s : State} {k : Nat} {lost : List Nat} {r : CourseReset}

theorem drain_done (h1 : s.courseState k = 1) (hw : s.wgIds.any (s.onCourse k) = false)
    (he : (courseCores k).all s.pairEmpty = true)
    (hs : s.fab.sends.any (fun x => (courseCores k).contains x.core && !x.parked) = false)
    (hd : ∀ l ∈ s.courseDirty k, s.fencedOff k l = true ∨ s.homeAway (some k) l = false) :
    execCourseDrainDone k s = .next ((s.drainCourse k []).resetDies k) := by
  have hsent : (s.courseDirty k).all (fun l => s.fencedOff k l || !s.homeAway (some k) l) = true := by
    refine List.all_eq_true.2 fun l hl => ?_
    rcases hd l hl with h | h <;> simp [h]
  simp only [execCourseDrainDone, h1, hw, he, hs, hsent, ne_eq, not_true_eq_false, Bool.not_true, Bool.false_eq_true, or_self,
    if_false]

theorem drain_deadline (hr : (s.rel.resets.find? fun r => r.course == k && r.phase == 1) = some r)
    (ht : r.start + 250 ≤ s.tick) : execCourseDrainDeadline k lost s =
      .next ((((s.wgIds.filter (s.onCourse k)).foldl (fun s i => s.abortWg i 0x21 3) s).drainCourse k lost).resetDies k) := by
  simp only [execCourseDrainDeadline, hr, if_neg (Nat.not_lt.2 ht)]

theorem atDieReset_none (h : s.host.dieReset = none) (k : Nat) (f : State → State) : s.atDieReset k f = f s := by
  simp only [State.atDieReset, h]

theorem course_rejoins (h3 : s.courseState k = 3) (ht : (courseCores k).all (fun c => (s.core c).gate != .testing) = true)
    (hr : s.host.dieReset = none) :
    let u := (s.setLinks k .awake).setCourse k fun x => setField x 2 0 0
    let v := (u.mem.dir.map fun e => e.1).foldl (fun s l => if s.homedOn k l then s.homeTake l else s) u
    execCourseRejoin k s = .next ({ v with
      sched := { v.sched with stopped := v.sched.stopped.filter fun c => c != k }
      rel := { v.rel with resets := v.rel.resets.filter fun r => r.course != k } }.endDieReset k) := by
  simp only [execCourseRejoin, h3, ht, ne_eq, not_true_eq_false, Bool.not_true, Bool.false_eq_true, or_self, if_false,
    atDieReset_none hr]

theorem course_fails (hf : (s.rel.resets.find? fun r => r.course == k) = some r) (ht : r.start + 10000 ≤ s.tick)
    (hr : s.host.dieReset = none) :
    let u := s.setCourse k fun x => setField (setField x 27 24 4) 2 0 4
    execCourseFailed k s = .next (((({ u with rel := { u.rel with resets := u.rel.resets.filter fun r =>
      r.course != k } }.logEvent 7 1 k 4).send (.msix 0)).retireCourse k).endDieReset k) := by
  simp only [execCourseFailed, hf, if_neg (Nat.not_lt.2 ht), atDieReset_none hr]

end

/-! ### Heat -/

theorem throttle_lower {s : State} (h : 100 < s.host.mhz) :
    execThrottle true s = .next { s with host := { s.host with mhz := s.host.mhz - 100 } } := by
  rw [execThrottle, if_pos rfl, if_pos h]

theorem throttle_raise {s : State} (h : s.host.mhz < 3000) :
    execThrottle false s = .next { s with host := { s.host with mhz := s.host.mhz + 100 } } := by
  rw [execThrottle, if_neg Bool.false_ne_true, if_pos h]

end Sys2Proof.Machine

open Sys2Proof.Machine in
/-- Settles O54, from what each event of a link, of a course's reset and of the clock does. -/
theorem linkAndCourseEvents : Obligations.LinkAndCourseEvents := by
  intro s a b k t lost r cores
  exact ⟨fun ha hb hab h => ⟨link_sleeps ha hb hab h, link_unanswered ha hb hab h⟩, link_wakes, link_trains, link_wakeLate,
    link_fences, rfl, drain_done, drain_deadline, course_rejoins, course_fails, throttle_lower, throttle_raise⟩
end

section
/-! PROOFS. Boot, reset and heat (R442, R476, R477, R481, R485, R487), attestation and assignment (R482, R484). -/

namespace Sys2Proof.Machine

/-! ### What the abandoning of commands leaves of the host's registers -/

theorem homeTake_host (s : State) (line : Nat) : (s.homeTake line).host = s.host := by
  unfold State.homeTake
  dsimp only
  split <;> rfl

theorem abandon_host (s : State) (p : Pending) : (s.abandon p).host = s.host := by
  unfold State.abandon
  cases p.issuer with
  | host => rfl
  | ctx c => exact homeTake_host s _

theorem foldl_abandon_host (l : List Pending) (s : State) : (l.foldl (fun s p => s.abandon p) s).host = s.host := by
  induction l generalizing s with
  | nil => rfl
  | cons p l ih => exact (ih _).trans (abandon_host s p)

theorem abandonAll_keys (s : State) : s.abandonAll.host.keys = s.host.keys := by
  have h : (s.unanswered.foldl (fun s p => s.abandon p) s).host.keys = s.host.keys :=
    congrArg HostIf.keys (foldl_abandon_host s.unanswered s)
  exact h

/-! ### Boot -/

section
variable {s : State}

theorem powerUp_starts (ports : List Nat) (h : s.host.devState = 0) : ∃ t, execPowerUp ports s = .next t ∧
    t.host.devState = 1 ∧ t.freeCtr = s.freeCtr + 4 ∧ t.mem = s.mem ∧
      ∀ i < 16, Tab.get 0 t.host.farPort i = if ports.getD i 0 % 0x200000 = 0 then ports.getD i 0 else 0 := by
  rw [execPowerUp, if_neg (not_not.2 h)]
  refine ⟨_, rfl, rfl, rfl, rfl, fun i hi => ?_⟩
  have hcells := get_foldl_set 0 ([] : Tab Nat) 0 16 i fun i =>
    let n := ports.getD i 0
    if n % 0x200000 = 0 then n else 0
  rw [if_pos (by omega)] at hcells
  simpa only [Nat.zero_add, Nat.sub_zero] using hcells

theorem powerUp_up (ports : List Nat) (h : s.host.devState ≠ 0) : execPowerUp ports s = .next s := by
  rw [execPowerUp, if_pos h]

theorem fwGo_starts (length : BitVec 32) (h : s.host.devState = 1 ∨ s.host.devState = 3) :
    execFwGo length s = .next { s with host := { s.host with devState := 2, fwLength := length } } := by
  rw [execFwGo, if_pos h]

theorem authentication_passes (h : s.host.devState = 2) (hok : Config.firmwareOk s.host.fwSet = true) :
    execAuthentication s = .next { s with
      freeCtr := s.freeCtr + 1
      host := { s.host with
        devState := 4, firmware := s.host.fwSet, keys := s.host.keys.derive (Config.sha384 s.host.fwSet) s.freeCtr } } := by
  simp only [execAuthentication, ne_eq, h, not_true_eq_false, if_false, hok, if_true]

theorem authentication_fails (h : s.host.devState = 2) (hok : Config.firmwareOk s.host.fwSet = false) :
    execAuthentication s = .next { s with host := { s.host with devState := 3 } } := by
  simp only [execAuthentication, ne_eq, h, not_true_eq_false, if_false, hok, Bool.false_eq_true]

theorem bringup_readies (banks cores : List Nat) (h : s.host.devState = 4) :
    let u := (banks.filter fun b => decide (b < 49152)).foldl (fun s b => s.bankEvent b true) s
    let v := (cores.filter fun c => decide (c < 256)).foldl (fun s c =>
      ((s.logEvent 4 0 c 3).retireCore c 3).setCore c { s.core c with gate := .gated }) u.applyFuses
    execBringup banks cores s = .next { v.drawSeeds 1 with host := { (v.drawSeeds 1).host with devState := 5 } } := by
  intro u v
  rw [execBringup, if_neg (not_not.2 h)]

end

/-- A package reset leaves what HBM holds, the fuses and the keys that have signed. -/
theorem packageReset_leaves (s : State) : ∃ t, execPackageReset s = .next t ∧ t.mem.bytes = s.abandonAll.mem.bytes ∧
    t.mem.tags = s.abandonAll.mem.tags ∧
    t.host = { State.reset.host with keys := { State.reset.host.keys with
      identity := s.host.keys.identity, old := s.host.keys.checkpoint :: s.host.keys.old } } ∧
    t.warps = State.reset.warps ∧ t.xlat = State.reset.xlat ∧ t.rel.fuseCore = s.abandonAll.rel.fuseCore ∧
    t.rel.boots = s.abandonAll.rel.boots + 1 := by
  refine ⟨_, rfl, rfl, rfl, ?_, rfl, rfl, rfl, rfl⟩
  dsimp only
  rw [abandonAll_keys]
  rfl

/-! ### Attestation -/

section
variable {s : State} {f op : Nat}
variable (hf : f < 17)
include hf

theorem spdm_opens (h : Tab.get 0 s.host.sessions f < 4) : execSpdmRequest f 0 s = .next { s with host := { s.host with
    sessions := Tab.set 0 s.host.sessions f (Tab.get 0 s.host.sessions f + 1) } } := by
  rw [execSpdmRequest, if_neg (Nat.not_le.2 hf), if_pos rfl, if_pos h]

theorem spdm_full (h : 4 ≤ Tab.get 0 s.host.sessions f) : execSpdmRequest f 0 s = .next s := by
  rw [execSpdmRequest, if_neg (Nat.not_le.2 hf), if_pos rfl, if_neg (Nat.not_lt.2 h)]

theorem spdm_closes : execSpdmRequest f 1 s = .next { s with host := { s.host with
    sessions := Tab.set 0 s.host.sessions f (Tab.get 0 s.host.sessions f - 1) } } := by
  rw [execSpdmRequest, if_neg (Nat.not_le.2 hf), if_neg Nat.one_ne_zero, if_pos rfl]

section
variable (ho : 2 ≤ op)
include ho

theorem spdm_unsigned (h : ¬ (s.host.devState = 4 ∨ s.host.devState = 5)) : execSpdmRequest f op s = .next s := by
  rw [execSpdmRequest, if_neg (Nat.not_le.2 hf), if_neg (by omega), if_neg (by omega), if_pos (not_or.1 h)]

theorem spdm_signs (h : s.host.devState = 4 ∨ s.host.devState = 5) :
    let blocks := (if f = 0 then [1, 2, 3, 4] else [1, 2, 3, 4, 5, 6, 7]).map fun b => (b, Config.sha384 (s.measured (f - 1) b))
    execSpdmRequest f op s = .next ({ s with freeCtr := s.freeCtr + 1 }.send (.spdm f blocks
      (Config.signature s.host.keys.attest s.freeCtr (blocks.flatMap fun (b : Nat × BitVec 384) => bytesOf 48 b.2.toNat)))) := by
  intro blocks
  rw [execSpdmRequest, if_neg (Nat.not_le.2 hf), if_neg (by omega), if_neg (by omega), if_neg fun hn => not_or.2 hn h]
  rfl

end

end

/-! ### Assignment -/

section
variable {s : State} {part : Nat}
variable (hp : part < 16)
include hp

section
variable {old : Tdi} (ho : Tab.get .unlocked s.host.tdi part = old)
include ho

theorem tdisp_locks (h : old = .unlocked) :
    execTdispRequest part 0 s = .next ((s.setTdi part .locked).send (.tdisp (part + 1) .locked)) := by
  simp only [execTdispRequest, if_neg (Nat.not_le.2 hp), ho, h]

theorem tdisp_starts (h : old = .locked) :
    execTdispRequest part 1 s = .next ((s.setTdi part .run).send (.tdisp (part + 1) .run)) := by
  simp only [execTdispRequest, if_neg (Nat.not_le.2 hp), ho, h]

theorem tdisp_runs (h : old = .run) :
    execTdispRequest part 0 s = .next ((s.setTdi part .run).send (.tdisp (part + 1) .run)) := by
  simp only [execTdispRequest, if_neg (Nat.not_le.2 hp), ho, h]

theorem tdisp_errs (h : old = .locked ∨ old = .run) :
    execTdispRequest part 2 s = .next ((s.setTdi part .error).send (.tdisp (part + 1) .error)) := by
  rcases h with h | h <;> simp only [execTdispRequest, if_neg (Nat.not_le.2 hp), ho, h]

end

theorem stop_deferred (hk : s.kilnDeferred = true) : execStopInterface part s = .next s.defer := by
  rw [execStopInterface, if_neg (Nat.not_le.2 hp), if_pos hk]

/-- A partition that nothing holds back ends. -/
theorem stop_stops (hk : s.kilnDeferred = false) (hc : ∀ c ∈ s.partCtxs part, s.ctxEnds c = true)
    (hb : ∀ b ∈ s.partBlocks part, s.runHeld b.1 b.2 = false ∧ s.framesUntracked (blockFrames b.1 b.2) = true)
    (hz : ∀ j ∈ s.xlat.zero, ¬(bit j.owner 31 = true ∧ oPart j.owner = part) ∧
      ∀ b ∈ s.partBlocks part, ¬(b.1 < j.pa + j.len ∧ j.pa < b.1 + b.2)) :
    let v := (s.partCtxs part).foldl (fun s c => s.endContext c) s
    let u := (v.bindings.filter fun f => kPart (v.kpage f) == part).foldl (fun s f => s.freeBinding f) v
    execStopInterface part s = .next (((((s.partBlocks part).foldl (fun s b =>
      (s.zeroRun b.1 b.2).placeOwner b.1 b.2 0) u).released.setTdi part .unlocked).send (.tdisp (part + 1) .unlocked))) := by
  have hctx : (s.partCtxs part).all s.ctxEnds = true := List.all_eq_true.2 hc
  have hblocks : ((s.partBlocks part).all fun b => !s.runHeld b.1 b.2 && s.framesUntracked (blockFrames b.1 b.2)) = true :=
    List.all_eq_true.2 fun b hm => by
      obtain ⟨h1, h2⟩ := hb b hm
      rw [h1, h2]
      rfl
  have hmoving : (s.xlat.zero.any fun j => (s.partBlocks part).any (fun b => decide (b.1 < j.pa + j.len ∧ j.pa < b.1 + b.2)) ||
      (bit j.owner 31 && oPart j.owner == part)) = false := by
    refine List.any_eq_false.2 fun j hj => ?_
    obtain ⟨hown, hover⟩ := hz j hj
    have hnone : ((s.partBlocks part).any fun b => decide (b.1 < j.pa + j.len ∧ j.pa < b.1 + b.2)) = false :=
      List.any_eq_false.2 fun b hm => by simpa using hover b hm
    rw [hnone]
    simpa using hown
  simp only [execStopInterface, if_neg (Nat.not_le.2 hp), hk, hctx, hblocks, hmoving, Bool.not_false, Bool.and_self,
    Bool.not_true, Bool.false_eq_true, if_false]

end

end Sys2Proof.Machine

namespace Sys2Proof.Claims
open Sys2Proof.Machine

theorem bootEvents : BootEvents := by
  intro s ports banks cores length
  exact ⟨powerUp_starts ports, powerUp_up ports, fwGo_starts length, fun h => ⟨authentication_passes h, authentication_fails h⟩,
    bringup_readies banks cores, packageReset_leaves s, rfl⟩

theorem attestationEvents : AttestationEvents := by
  intro s f part op n set goes old
  refine ⟨fun hf => ⟨spdm_opens hf, spdm_full hf, spdm_closes hf, fun ho => ⟨spdm_unsigned hf ho, spdm_signs hf ho⟩⟩, ?_⟩
  intro hp
  exact ⟨tdisp_locks hp rfl, fun h => ⟨tdisp_starts hp rfl h, tdisp_errs hp rfl (.inl h)⟩,
    fun h => ⟨tdisp_runs hp rfl h, tdisp_errs hp rfl (.inr h)⟩, stop_deferred hp, stop_stops hp⟩

end Sys2Proof.Claims

/-- Settles O56, from what each event of boot, reset, attestation and assignment does. -/
theorem bootAndAttestation : Obligations.BootAndAttestation :=
  ⟨Sys2Proof.Claims.bootEvents, Sys2Proof.Claims.attestationEvents⟩
end

section
/-! PROOFS. The frame of a mailbox command and what each command does (R477-R480 and each command's own rule). -/

namespace Sys2Proof.Machine

/-! ### Steps of a command's body -/

section
variable {α β : Type}

theorem mbOk_bind (x : α) (k : α → Except (Nat × Nat) β) : (Except.ok x >>= k) = k x := rfl

theorem mbError_bind (e : Nat × Nat) (k : α → Except (Nat × Nat) β) :
    ((Except.error e : Except (Nat × Nat) α) >>= k) = .error e := rfl

theorem mbPure (x : α) : (pure x : Except (Nat × Nat) α) = .ok x := rfl

theorem mbNeed_true (st d : Nat) : mbNeed true st d = .ok () := rfl

theorem mbNeed_holds {c : Bool} (h : c = true) (st d : Nat) : mbNeed c st d = .ok () := by rw [mbNeed, if_pos h]

theorem mbNeed_fails {c : Bool} (h : c = false) (st d : Nat) : mbNeed c st d = .error (st, d) := by
  rw [mbNeed, h, if_neg Bool.false_ne_true]

end

theorem mbUnlocked_ok {s : State} {p : Pending} {part : Nat} (off : Nat) (h : p.issuer ≠ .host ∨ s.tdiLocked part = false) :
    s.mbUnlocked p part off = .ok () := by
  refine mbNeed_holds ?_ _ _
  rcases h with h | h <;> simp [h]

/-! ### The frame of a command -/

section
variable {s t : State} {n code st d r : Nat} {p : Pending} {i : Instr} {body : Pending → State → Ans}
variable (hi : exec i s = .next (s.command n code body)) (hp : Claims.Posted s n code p)
include hi hp

/-- What a command that is taken up answers, by its checks and its body. -/
theorem turnedAway_of_check (he : (Claims.took s n).mbCheck p = .error (st, d)) : Claims.TurnedAway i s n p st d :=
  hi.trans (congrArg Host.Outcome.next (command_of_error s n code p body st d hp he))

variable (hk : (Claims.took s n).mbCheck p = .ok ())
include hk

theorem turnedAway_of_body (hb : body p (Claims.took s n) = .error (st, d)) : Claims.TurnedAway i s n p st d := by
  rw [Claims.TurnedAway, hi, command_of_ok s n code p body hp hk, hb]

theorem does_of_body (hb : body p (Claims.took s n) = .ok (some r, t)) : Claims.Does i s p t r := by
  rw [Claims.Does, hi, command_of_ok s n code p body hp hk, hb]

theorem goes_of_body (hb : body p (Claims.took s n) = .ok (none, t)) : exec i s = .next t := by
  rw [hi, command_of_ok s n code p body hp hk, hb]

omit hp hk in
/-- Every way a command can be answered. -/
theorem command_answers (hp : Claims.Posted s n code p) :
    (∀ st d, (Claims.took s n).mbCheck p = .error (st, d) → Claims.TurnedAway i s n p st d) ∧
    ((Claims.took s n).mbCheck p = .ok () →
      (∀ st d, body p (Claims.took s n) = .error (st, d) → Claims.TurnedAway i s n p st d) ∧
      (∀ r t, body p (Claims.took s n) = .ok (some r, t) → Claims.Does i s p t r) ∧
      (∀ t, body p (Claims.took s n) = .ok (none, t) → exec i s = .next t)) :=
  ⟨fun _ _ => turnedAway_of_check hi hp, fun hk => ⟨fun _ _ => turnedAway_of_body hi hp hk,
    fun _ _ => does_of_body hi hp hk, fun _ => goes_of_body hi hp hk⟩⟩

end

theorem execCheckpoint_command {s : State} (n : Nat) (h : s.host.copying = none) :
    execCheckpoint n s = .next (s.command n 0x0A fun p s => s.checkpoint p) := by
  rw [execCheckpoint, h]

/-! ### Register commands -/

/-- A number with the bits of a run masked out of it has none there. -/
theorem land_run (x lo k : Nat) : x &&& ((2 ^ k - 1) * 2 ^ lo) = x / 2 ^ lo % 2 ^ k * 2 ^ lo := by
  refine Nat.eq_of_testBit_eq fun i => ?_
  rw [Nat.testBit_land, Nat.testBit_mul_two_pow, Nat.testBit_mul_two_pow, Nat.testBit_two_pow_sub_one, Nat.testBit_mod_two_pow,
    Nat.testBit_div_two_pow]
  by_cases h : lo ≤ i
  · rw [Nat.sub_add_cancel h]
    simp only [h, decide_true, Bool.true_and]
    exact Bool.and_comm _ _
  · simp [h]

theorem land_run_zero {x lo k : Nat} (h : x / 2 ^ lo % 2 ^ k = 0) : x &&& ((2 ^ k - 1) * 2 ^ lo) = 0 := by
  rw [land_run, h, Nat.zero_mul]

theorem land_high_zero {x lo k : Nat} (h : x < 2 ^ lo) : x &&& ((2 ^ k - 1) * 2 ^ lo) = 0 :=
  land_run_zero (by rw [Nat.div_eq_of_lt h, Nat.zero_mod])

/-- A legal image of a register command. -/
theorem regImage_ok {p : Pending} {reserved : Nat} {fields : List (Nat × Nat × Nat × Nat)} (hx : p.arg 24 8 < 2 ^ 64)
    (hbad : p.arg 24 8 &&& reserved = 0)
    (hf : ∀ f ∈ fields, f.2.2.1 ≤ p.arg 24 8 / 2 ^ f.1 % 2 ^ f.2.1 ∧ p.arg 24 8 / 2 ^ f.1 % 2 ^ f.2.1 ≤ f.2.2.2) :
    regImage p reserved fields = .ok (BitVec.ofNat 64 (p.arg 24 8)) := by
  have hnat : (BitVec.ofNat 64 (p.arg 24 8)).toNat = p.arg 24 8 := by
    rw [BitVec.toNat_ofNat, Nat.mod_eq_of_lt hx]
  have hnone : (fields.find? fun f => decide (p.arg 24 8 / 2 ^ f.1 % 2 ^ f.2.1 < f.2.2.1 ∨
      f.2.2.2 < p.arg 24 8 / 2 ^ f.1 % 2 ^ f.2.1)) = none := by
    refine List.find?_eq_none.2 fun f hm => ?_
    obtain ⟨h1, h2⟩ := hf f hm
    simp only [decide_eq_true_eq]
    omega
  simp only [regImage, hnat, hbad, beq_self_eq_true, mbNeed_holds, mbOk_bind, hnone, mbPure]

end Sys2Proof.Machine

namespace Sys2Proof.Claims
open Sys2Proof.Machine

theorem commandsAnswered : CommandsAnswered := by
  intro s n p u answers
  have h : ∀ code i body, exec i s = .next (s.command n code body) → answers code i body :=
    fun _ _ _ hi => command_answers hi
  refine ⟨h _ (.partSet n) (fun p s => s.partSet p) rfl,
    h _ (.ctxSet n) (fun p s => s.ctxSet p) rfl,
    h _ (.ctxEnd n) (fun p s => s.ctxEnd p) rfl,
    h _ (.frameAssign n) (fun p s => s.frameAssign p) rfl,
    h _ (.kilnAssign n) (fun p s => s.kilnAssign p) rfl,
    h _ (.kilnFree n) (fun p s => s.kilnFree p) rfl,
    h _ (.queueSet n) (fun p s => s.queueSet p) rfl,
    h _ (.peerSet n) (fun p s => s.peerSet p) rfl,
    h _ (.launchEnd n) (fun p s => s.launchEnd p) rfl,
    h _ (.restore n) (fun p s => s.restore p) rfl,
    fun hc => h _ (.checkpoint n) _ (execCheckpoint_command n hc),
    h _ (.certify n) (fun p s => s.certify p) rfl,
    h _ (.farSet n) (fun p s => s.setFar p) rfl⟩

section
variable {s : State} {n : Nat} {p : Pending}
variable (hk : (took s n).mbCheck p = .ok ())
include hk

theorem relSet_sets (hp : Posted s n 0x10 p) (hx : p.arg 24 8 < 2 ^ 56)
    (h1 : 1 ≤ p.arg 24 8 / 2 ^ 0 % 2 ^ 16 ∧ p.arg 24 8 / 2 ^ 0 % 2 ^ 16 ≤ 65535)
    (h2 : 1 ≤ p.arg 24 8 / 2 ^ 16 % 2 ^ 16 ∧ p.arg 24 8 / 2 ^ 16 % 2 ^ 16 ≤ 65535)
    (h3 : 1 ≤ p.arg 24 8 / 2 ^ 32 % 2 ^ 8 ∧ p.arg 24 8 / 2 ^ 32 % 2 ^ 8 ≤ 255)
    (h4 : 50 ≤ p.arg 24 8 / 2 ^ 40 % 2 ^ 16 ∧ p.arg 24 8 / 2 ^ 40 % 2 ^ 16 ≤ 2000) :
    Does (.relSet n) s p { took s n with rel := { (took s n).rel with hbmCfg := BitVec.ofNat 64 (p.arg 24 8) } } 0 := by
  refine does_of_body rfl hp hk ?_
  dsimp only
  rw [regImage_ok (hx.trans (by decide)) (show p.arg 24 8 &&& 0xFF * 2 ^ 56 = 0 from land_high_zero (k := 8) hx) (by
    rw [Nat.pow_zero, Nat.div_one] at h1
    simpa using ⟨h1, h2, h3, h4⟩)]
  rfl

theorem certSet_sets (hp : Posted s n 0x11 p) (hx : p.arg 24 8 < 2 ^ 48) (h0 : p.arg 24 8 / 2 ^ 24 % 2 ^ 8 = 0)
    (h1 : 100 ≤ p.arg 24 8 / 2 ^ 0 % 2 ^ 24 ∧ p.arg 24 8 / 2 ^ 0 % 2 ^ 24 ≤ 100000)
    (h2 : 1 ≤ p.arg 24 8 / 2 ^ 32 % 2 ^ 8 ∧ p.arg 24 8 / 2 ^ 32 % 2 ^ 8 ≤ 255)
    (h3 : 1 ≤ p.arg 24 8 / 2 ^ 40 % 2 ^ 8 ∧ p.arg 24 8 / 2 ^ 40 % 2 ^ 8 ≤ 255) :
    Does (.certSet n) s p { took s n with cert := { (took s n).cert with cfg := BitVec.ofNat 64 (p.arg 24 8) } } 0 := by
  have hmask : 0xFFFF * 2 ^ 48 + 0xFF * 2 ^ 24 = (2 ^ 16 - 1) * 2 ^ 48 ||| (2 ^ 8 - 1) * 2 ^ 24 := rfl
  have hbad : p.arg 24 8 &&& (0xFFFF * 2 ^ 48 + 0xFF * 2 ^ 24) = 0 := by
    rw [hmask, Nat.and_or_distrib_left, land_high_zero hx, land_run_zero h0]
    rfl
  refine does_of_body rfl hp hk ?_
  dsimp only
  rw [regImage_ok (hx.trans (by decide)) hbad (by
    rw [Nat.pow_zero, Nat.div_one] at h1
    simpa using ⟨h1, h2, h3⟩)]
  rfl

theorem faultSet_sets (hp : Posted s n 0x12 p) (hx : p.arg 24 8 < 2 ^ 32)
    (h1 : 1 ≤ p.arg 24 8 / 2 ^ 16 % 2 ^ 8 ∧ p.arg 24 8 / 2 ^ 16 % 2 ^ 8 ≤ 255)
    (h2 : 1 ≤ p.arg 24 8 / 2 ^ 24 % 2 ^ 8 ∧ p.arg 24 8 / 2 ^ 24 % 2 ^ 8 ≤ 255) :
    Does (.faultSet n) s p { took s n with rel := { (took s n).rel with faultCfg := BitVec.ofNat 64 (p.arg 24 8) } } 0 := by
  refine does_of_body rfl hp hk ?_
  dsimp only
  rw [regImage_ok (hx.trans (by decide)) (show p.arg 24 8 &&& 0xFFFFFFFF * 2 ^ 32 = 0 from land_high_zero (k := 32) hx) (by simpa using ⟨h1, h2⟩)]
  rfl

theorem powerSet_sets (hp : Posted s n 0x14 p) (hx : p.arg 24 8 < 2 ^ 16)
    (h1 : 1500 ≤ p.arg 24 8 / 2 ^ 0 % 2 ^ 16 ∧ p.arg 24 8 / 2 ^ 0 % 2 ^ 16 ≤ 4600) :
    Does (.powerSet n) s p { took s n with host := { (took s n).host with powerCap := BitVec.ofNat 64 (p.arg 24 8) } } 0 := by
  refine does_of_body rfl hp hk ?_
  dsimp only
  rw [regImage_ok (hx.trans (by decide)) (land_high_zero hx) (by simpa using h1)]
  rfl

section
variable (hp : Posted s n 0x08 p) (hpart : p.arg 16 1 < 16) (hpeer : p.arg 18 2 < 512) (h0 : p.arg 24 8 % 2 ^ 48 = 0)
  (ha : field (BitVec.ofNat 64 (p.arg 24 8)) 63 62 = 2) (hl : p.issuer ≠ .host ∨ (took s n).tdiLocked (p.arg 16 1) = false)
  (hlease : field ((took s n).peer (p.arg 16 1) (p.arg 18 2)) 63 62 = 2 ∨
    field (BitVec.ofNat 64 (p.arg 24 8)) 57 48 ≠ field ((took s n).peer (p.arg 16 1) (p.arg 18 2)) 57 48)
include hpart hpeer h0 ha hl hlease

omit hk hp in
/-- An entry that becomes, or stays, ACTIVE with a new lease passes PEER_SET's checks, and no request of its peer's is
answered for it. -/
theorem peerSet_checked : (took s n).peerSet p =
    if !(took s n).peersReached then (took s n).repost p
    else .ok (some 0, { took s n with fab := { (took s n).fab with
      peers := Tab.set 0 (took s n).fab.peers (512 * p.arg 16 1 + p.arg 18 2) (BitVec.ofNat 64 (p.arg 24 8)) } }) := by
  have hlow : field (BitVec.ofNat 64 (p.arg 24 8)) 47 0 = 0 := by
    rw [field, BitVec.toNat_ofNat, Nat.pow_zero, Nat.div_one]
    omega
  have hnew : (field ((took s n).peer (p.arg 16 1) (p.arg 18 2)) 63 62 == 2 ||
      field (BitVec.ofNat 64 (p.arg 24 8)) 57 48 != field ((took s n).peer (p.arg 16 1) (p.arg 18 2)) 57 48) = true := by
    rcases hlease with h | h <;> simp [h]
  rw [State.peerSet]
  simp only [decide_eq_true hpart, decide_eq_true hpeer, hlow, ha, hnew, mbUnlocked_ok 16 hl, mbNeed_true, mbOk_bind, mbPure,
    Nat.reduceBEq, Nat.reduceBNe, Bool.not_true, Bool.and_false, Bool.false_and, Bool.false_or, Bool.false_eq_true, if_false,
    List.map_id']

include hk hp

theorem peerSet_sets (hr : (took s n).peersReached = true) : Does (.peerSet n) s p { took s n with fab := { (took s n).fab with
    peers := Tab.set 0 (took s n).fab.peers (512 * p.arg 16 1 + p.arg 18 2) (BitVec.ofNat 64 (p.arg 24 8)) } } 0 := by
  refine does_of_body rfl hp hk ((peerSet_checked hpart hpeer h0 ha hl hlease).trans ?_)
  rw [hr, Bool.not_true, if_neg Bool.false_ne_true]

theorem peerSet_waits (hr : (took s n).peersReached = false) : exec (.peerSet n) s =
    .next { took s n with host := { (took s n).host with pending := p :: (took s n).host.pending } } := by
  refine goes_of_body rfl hp hk ((peerSet_checked hpart hpeer h0 ha hl hlease).trans ?_)
  rw [hr, Bool.not_false, if_pos rfl, State.repost]

end

section
variable (hp : Posted s n 0x03 p)
include hp

theorem ctxEnd_none (hv : (took s n).ctxValid (p.arg 16 1) = false) : Does (.ctxEnd n) s p (took s n) 0 := by
  refine does_of_body rfl hp hk ?_
  simp only [State.ctxEnd, hv, Bool.not_false, if_true, mbPure]

variable (hv : (took s n).ctxValid (p.arg 16 1) = true)
  (ho : (took s n).mbOwn p ((took s n).ctxPart (p.arg 16 1)) 16 = .ok ())
include hv ho

theorem ctxEnd_ends (he : (took s n).ctxEnds (p.arg 16 1) = true) :
    Does (.ctxEnd n) s p ((took s n).endContext (p.arg 16 1)) 0 := by
  refine does_of_body rfl hp hk ?_
  simp only [State.ctxEnd, hv, ho, he, mbOk_bind, Bool.not_true, Bool.false_eq_true, if_false, mbPure]

theorem ctxEnd_waits (he : (took s n).ctxEnds (p.arg 16 1) = false) : exec (.ctxEnd n) s =
    .next { took s n with host := { (took s n).host with pending := p :: (took s n).host.pending } } := by
  refine goes_of_body rfl hp hk ?_
  simp only [State.ctxEnd, hv, ho, he, mbOk_bind, Bool.not_true, Bool.not_false, Bool.false_eq_true, if_false, if_true,
    State.repost]

end

theorem queueSet_removes (hp : Posted s n 0x07 p) (hpart : p.arg 16 1 < 16) (hlevel : p.arg 17 1 < 8) (hx : p.arg 24 8 = 0)
    (ho : (took s n).mbOwn p (p.arg 16 1) 16 = .ok ()) (hl : (took s n).mbUnlocked p (p.arg 16 1) 16 = .ok ()) :
    let t := (took s n).endQueue (8 * p.arg 16 1 + p.arg 17 1)
    Does (.queueSet n) s p
      { t with sched := { t.sched with cfg := Tab.set 0 t.sched.cfg (16 * p.arg 16 1 + 1 + p.arg 17 1) 0 } } 0 := by
  refine does_of_body rfl hp hk ?_
  have h512 : 0 % 512 == 0 := rfl
  have h52 : decide (0 < 2 ^ 52) = true := rfl
  simp only [State.queueSet, decide_eq_true hpart, decide_eq_true hlevel, hx, h512, h52, ho, hl, mbNeed_true, mbOk_bind, if_true,
    mbPure]
  rfl

theorem kilnFree_frees (hp : Posted s n 0x06 p) (hi : (took s n).isKiln (p.arg 16 4) = true)
    (ho : (took s n).mbOwn p (kPart ((took s n).kpage (p.arg 16 4))) 16 = .ok ())
    (h4 : kSt ((took s n).kpage (p.arg 16 4)) = 4) (hf : kFirst ((took s n).kpage (p.arg 16 4)) = p.arg 16 4)
    (h0 : kHolders ((took s n).kpage (p.arg 16 4)) = 0)
    (hr : (took s n).runHeld (p.arg 16 4 * 0x200000) (kCount ((took s n).kpage (p.arg 16 4)) * 0x200000) = false) :
    Does (.kilnFree n) s p ((took s n).freeBinding (p.arg 16 4)) 0 := by
  refine does_of_body rfl hp hk ?_
  simp only [State.kilnFree, hi, ho, h4, hf, h0, hr, beq_self_eq_true, Bool.true_or, Bool.and_self, mbNeed_true, mbOk_bind,
    OfNat.ofNat_ne_zero, Bool.false_eq_true, if_false, mbPure]

section
variable (hp : Posted s n 0x0C p)
include hp

theorem dieReset_unknown (h : 4 ≤ p.arg 16 1) : TurnedAway (.dieReset n) s n p 2 16 := by
  refine turnedAway_of_body rfl hp hk ?_
  dsimp only
  rw [mbNeed_fails (decide_eq_false (Nat.not_lt.2 h)), mbError_bind]
  rfl

theorem dieReset_nothing (h : p.arg 16 1 < 4) (hc : (took s n).courseState (p.arg 16 1) ≠ 0) :
    Does (.dieReset n) s p (took s n) 0 := by
  refine does_of_body rfl hp hk ?_
  dsimp only
  rw [mbNeed_holds (decide_eq_true h), mbOk_bind, if_pos hc, mbPure]

theorem dieReset_starts (h : p.arg 16 1 < 4) (hc : (took s n).courseState (p.arg 16 1) = 0) : exec (.dieReset n) s =
    .next (({ took s n with host := { (took s n).host with dieReset := some (p, p.arg 16 1) } }.startReset (p.arg 16 1) 1)) := by
  refine goes_of_body rfl hp hk ?_
  dsimp only
  rw [mbNeed_holds (decide_eq_true h), mbOk_bind, if_neg (not_not.2 hc), mbPure]

end

section
variable (hp : Posted s n 0x0E p)
include hp

theorem faultExport_short (h : p.arg 32 8 < 1280 + 32 * (took s n).rel.entries.length) :
    TurnedAway (.faultExport n) s n p 4 32 := by
  refine turnedAway_of_body rfl hp hk ?_
  dsimp only
  rw [mbNeed_fails (decide_eq_false (Nat.not_le.2 h)), mbError_bind]
  rfl

theorem faultExport_exports {t : State} (h : 1280 + 32 * (took s n).rel.entries.length ≤ p.arg 32 8)
    (hb : (took s n).faultImage.2.putBuffer p (p.arg 24 8) (1280 + 32 * (took s n).rel.entries.length)
      (took s n).faultImage.1 24 = .ok t) :
    Does (.faultExport n) s p t (1280 + 32 * (took s n).rel.entries.length) := by
  refine does_of_body rfl hp hk ?_
  dsimp only
  rw [mbNeed_holds (decide_eq_true h), mbOk_bind, hb, mbOk_bind, mbPure]

end

omit hk in
/-- FAULT_IMPORT of an image of the length named is a command, and of an image that fails a check of R471 it leaves an empty
history. -/
theorem faultImport_command {image : List (BitVec 8)} (hp : s.host.pending[n]? = some p) (hl : image.length = p.arg 32 8) :
    ∃ body : Pending → State → Ans, execFaultImport n image s = .next (s.command n 0x0F body) ∧
      ∀ q t, State.importOk t image = false → body q t = .ok (some image.length,
        { t with rel := { t.rel with entries := [], dropped := 0 } }.logEvent 13 5 0 0) := by
  unfold execFaultImport
  rw [hp]
  exact ⟨_, congrArg Host.Outcome.next (if_neg (not_not.2 hl)),
    fun q t h => if_neg (by rw [h]; exact Bool.false_ne_true)⟩

theorem faultImport_discards {image : List (BitVec 8)} (hp : Posted s n 0x0F p) (hl : image.length = p.arg 32 8)
    (hi : (took s n).importOk image = false) :
    Does (.faultImport n image) s p
      ({ took s n with rel := { (took s n).rel with entries := [], dropped := 0 } }.logEvent 13 5 0 0) image.length := by
  obtain ⟨body, hbody, hdoes⟩ := faultImport_command hp.1 hl
  exact does_of_body ((exec_faultImport n image s).trans hbody) hp hk (hdoes p _ hi)

end

theorem commandResults : CommandResults := by
  intro s n p image u x w part peer f hk
  refine ⟨relSet_sets hk, certSet_sets hk, faultSet_sets hk, powerSet_sets hk, ?_, ?_, queueSet_removes hk, kilnFree_frees hk,
    fun hp => ⟨dieReset_unknown hk hp, dieReset_nothing hk hp, dieReset_starts hk hp⟩,
    fun hp => ⟨faultExport_short hk hp, fun h t => faultExport_exports hk hp h⟩, faultImport_discards hk⟩
  · intro hp hpart hpeer h0 ha hl hlease
    exact ⟨peerSet_sets hk hp hpart hpeer h0 ha hl hlease, peerSet_waits hk hp hpart hpeer h0 ha hl hlease⟩
  · exact fun hp => ⟨ctxEnd_none hk hp, ctxEnd_ends hk hp, ctxEnd_waits hk hp⟩

end Sys2Proof.Claims

/-- Settles O57, from the frame of a command (`command_of_posted`) and each command's body. -/
theorem mailboxCommands : Obligations.MailboxCommands :=
  ⟨Sys2Proof.Claims.commandsAnswered, Sys2Proof.Claims.commandResults⟩
end

section
/-! PROOFS. Checkpoint, restore and zeroing (R29, R30, R109-R113). -/

namespace Sys2Proof.Machine

/-- A command whose answer can be written ends. -/
theorem atAnswer_ready {s t : State} {p : Pending} (h : s.answerReady p = .ok t) (k : State → State) :
    s.atAnswer p k = k t := by
  simp only [State.atAnswer, h]

/-! ### Checkpoint -/

section
variable {s : State} {n : Nat} {c : Copying}
variable (hc : s.host.copying = some c) (hr : c.restore = false)
include hc hr

section
variable (ht : c.time = none)
include ht

omit hr ht in
theorem checkpoint_waits (hq : s.allQuiet = false) : execCheckpoint n s = .next s := by
  simp [execCheckpoint, hc, hq]

theorem checkpoint_quiet (hq : s.allQuiet = true) : execCheckpoint n s = .next (
    if !s.writeBackAll.xlat.heldWrites.isEmpty then s.writeBackAll
    else { s.writeBackAll with host := { s.writeBackAll.host with
      copying := some { c with time := some s.writeBackAll.tick } } }) := by
  simp [execCheckpoint, hc, hr, ht, hq]

theorem checkpoint_held (hq : s.allQuiet = true) (hw : s.writeBackAll.xlat.heldWrites ≠ []) :
    execCheckpoint n s = .next s.writeBackAll := by
  rw [checkpoint_quiet hc hr ht hq, List.isEmpty_eq_false_iff.2 hw, Bool.not_false, if_pos rfl]

theorem checkpoint_copies (hq : s.allQuiet = true) (hw : s.writeBackAll.xlat.heldWrites = []) :
    execCheckpoint n s = .next { s.writeBackAll with host := { s.writeBackAll.host with
      copying := some { c with time := some s.writeBackAll.tick } } } := by
  rw [checkpoint_quiet hc hr ht hq, List.isEmpty_iff.2 hw, Bool.not_true, if_neg Bool.false_ne_true]

end

section
variable {time : Nat} (ht : c.time = some time) (ha : s.answerReady c.cmd = .ok s)
include ht ha

theorem checkpointComplete_eq : execCheckpointComplete s = .next (
    if c.len < s.ckptPlan.total then
      ({ s with host := { s.host with ckpts := s.host.ckpts.filter fun d => d.1 != c.base } }.thaw).answer c.cmd mbRefused 32 0
    else
      let v := s.copyBlocks c.base s.ckptPlan.blocks s.ckptPlan.imageAt
      let w := v.2.writeLists c.base time (s.host.ckptSeq + 1) s.ckptPlan v.1
      ({ w with host := { w.host with ckptSeq := s.host.ckptSeq + 1 } }.thaw).answer c.cmd mbDone 0
        ((s.host.ckptSeq + 1) % 2 ^ 64 + s.ckptPlan.total * 2 ^ 64)) := by
  obtain ⟨restore, cmd, base, len, time', deferred⟩ := c
  subst hr ht
  rw [execCheckpointComplete, hc]
  dsimp only
  rw [atAnswer_ready ha]

theorem checkpointComplete_outgrown (h : c.len < s.ckptPlan.total) : execCheckpointComplete s =
    .next (({ s with host := { s.host with ckpts := s.host.ckpts.filter fun d => d.1 != c.base } }.thaw).answer c.cmd
      mbRefused 32 0) := by
  rw [checkpointComplete_eq hc hr ht ha, if_pos h]

theorem checkpointComplete_ends (h : s.ckptPlan.total ≤ c.len) :
    let seq := s.host.ckptSeq + 1
    let v := s.copyBlocks c.base s.ckptPlan.blocks s.ckptPlan.imageAt
    let w := v.2.writeLists c.base time seq s.ckptPlan v.1
    execCheckpointComplete s = .next (({ w with host := { w.host with ckptSeq := seq } }.thaw).answer c.cmd mbDone 0
      (seq % 2 ^ 64 + s.ckptPlan.total * 2 ^ 64)) := by
  intro seq v w
  rw [checkpointComplete_eq hc hr ht ha, if_neg (Nat.not_lt.2 h)]

end

end

/-! ### Restore -/

section
variable {s : State} {c : Copying}
variable (hc : s.host.copying = some c) (hr : c.restore = true) (ha : s.answerReady c.cmd = .ok s)
include hc hr ha

theorem restoreComplete_unread (hn : s.readCkpt c.base = none) : execRestoreComplete s =
    .next ({ s with host := { s.host with
      copying := none, ckpts := s.host.ckpts.filter fun d => d.1 != c.base } }.answer c.cmd mbRefused 24 0) := by
  obtain ⟨restore, cmd, base, len, time, deferred⟩ := c
  subst hr
  rw [execRestoreComplete, hc]
  dsimp only
  rw [atAnswer_ready ha, hn]

theorem restoreComplete_restores {r : CkptRead} (hn : s.readCkpt c.base = some r)
    (hb : r.blocks.all s.blockReady = true) :
    let done := { s with host := { s.host with copying := none, ckpts := s.host.ckpts.filter fun d => d.1 != c.base } }
    let z := State.restoreBlocks done c.base r r.blocks 0
    execRestoreComplete s =
      .next (z.2.answer c.cmd mbDone 0 (z.1.length + packList 4 (z.1.take 62) * 2 ^ 32)) := by
  obtain ⟨restore, cmd, base, len, time, deferred⟩ := c
  subst hr
  rw [execRestoreComplete, hc]
  dsimp only
  rw [atAnswer_ready ha, hn]
  dsimp only
  rw [hb, Bool.not_true, if_neg Bool.false_ne_true]

end

/-! ### Zeroing -/

section
variable {s : State} {j : ZeroJob} {rest : List ZeroJob}
variable (hd : s.xlat.drops = [])
include hd

theorem zeroDrops_none : s.zeroDrops s.xlat.drops = s := by rw [hd, State.zeroDrops]

theorem zeroing_idle (hz : s.xlat.zero = []) : execZeroing s = .next s := by
  rw [execZeroing, zeroDrops_none hd, hz]

variable (hz : s.xlat.zero = j :: rest) (hr : s.runHeld j.pa j.len = false)
  (hu : s.framesUntracked (blockFrames j.pa j.len) = true)
include hz hr hu

theorem zeroing_owner (hn : j.cmd = none) : execZeroing s =
    .next (({ s with xlat := { s.xlat with zero := rest } }.zeroRun j.pa j.len).placeOwner j.pa j.len j.owner) := by
  simp only [execZeroing, zeroDrops_none hd, hz, State.zeroJob, hr, hu, hn, Bool.false_eq_true, Bool.not_true, if_false]

theorem zeroing_answers {p : Pending} (hn : j.cmd = some p) (ha : s.answerReady p = .ok s) : execZeroing s =
    .next ((({ s with xlat := { s.xlat with zero := rest } }.zeroRun j.pa j.len).placeOwner j.pa j.len j.owner).answer p
      mbDone 0 0) := by
  simp only [execZeroing, zeroDrops_none hd, hz, State.zeroJob, hr, hu, hn, atAnswer_ready ha, Bool.false_eq_true, Bool.not_true,
    if_false]

end

end Sys2Proof.Machine

namespace Sys2Proof.Claims
open Sys2Proof.Machine

section
variable {s : State} {n : Nat} {p : Pending}
variable (hk : (took s n).mbCheck p = .ok ())
include hk

theorem checkpoint_begins (hp : Posted s n 0x0A p) (hc : s.host.copying = none)
    (hf : (took s n).farFree (p.arg 24 8) (p.arg 32 8) = true) (hl : (took s n).ckptPlan.total ≤ p.arg 32 8) :
    exec (.checkpoint n) s = .next ({ took s n with
      sched := { (took s n).sched with frozen := true }
      host := { (took s n).host with
        copying := some { restore := false, cmd := p, base := p.arg 24 8, len := p.arg 32 8, time := none }
        ckpts := (took s n).host.ckpts ++ [(p.arg 24 8, p.arg 32 8)] } }.saveCores (List.range 256) fun _ => true) := by
  refine goes_of_body (execCheckpoint_command n hc) hp hk ?_
  simp only [State.checkpoint, hf, decide_eq_true hl, mbNeed_true, mbOk_bind, mbPure]

section
variable (hp : Posted s n 0x0B p)
include hp

theorem restore_unread (hn : (took s n).readCkpt (p.arg 24 8) = none) :
    exec (.restore n) s = .next ((took s n).answer p 4 24 0) := by
  refine turnedAway_of_body (i := .restore n) rfl hp hk ?_
  simp only [State.restore, hn]
  rfl

variable {r : CkptRead} (hn : (took s n).readCkpt (p.arg 24 8) = some r)
include hn

theorem restore_begins (hb : r.blocks.all (took s n).restorable = true) : exec (.restore n) s =
    .next { took s n with host := { (took s n).host with
      copying := some { restore := true, cmd := p, base := p.arg 24 8, len := 0, time := none } } } := by
  refine goes_of_body rfl hp hk ?_
  simp only [State.restore, hn, hb, mbNeed_true, mbOk_bind, mbPure]

theorem restore_refused (hb : r.blocks.all (took s n).restorable = false) :
    exec (.restore n) s = .next ((took s n).answer p 4 noByte 0) := by
  refine turnedAway_of_body (i := .restore n) rfl hp hk ?_
  simp only [State.restore, hn, hb, mbNeed_fails, mbError_bind]
  rfl

end

end

end Sys2Proof.Claims

open Sys2Proof.Machine Sys2Proof.Claims in
/-- Settles O58, from the commands' bodies and what each completion does. -/
theorem checkpointEvents : Obligations.CheckpointEvents := by
  intro s n p c j rest u base len
  refine ⟨fun hp hk => checkpoint_begins hk hp,
    fun hc hr ht => ⟨checkpoint_waits hc, checkpoint_held hc hr ht, checkpoint_copies hc hr ht⟩,
    fun time hc hr ht ha => ⟨checkpointComplete_outgrown hc hr ht ha, checkpointComplete_ends hc hr ht ha⟩, ?_, ?_, ?_,
    zeroing_idle⟩
  · intro hp hk
    cases hn : u.readCkpt base with
    | none => exact restore_unread hk hp hn
    | some r =>
      cases hb : r.blocks.all u.restorable with
      | true => exact (restore_begins hk hp hn hb).trans (congrArg Host.Outcome.next (if_pos hb).symm)
      | false =>
        exact (restore_refused hk hp hn hb).trans
          (congrArg Host.Outcome.next (if_neg (Bool.eq_false_iff.1 hb)).symm)
  · intro hc hr ha hready done
    cases hn : s.readCkpt c.base with
    | none => exact restoreComplete_unread hc hr ha hn
    | some r => exact restoreComplete_restores hc hr ha hn (hready r hn)
  · intro hd hz hr hu ha v
    cases hn : j.cmd with
    | none => exact zeroing_owner hd hz hr hu hn
    | some p => exact zeroing_answers hd hz hr hu hn (ha p hn)
end

section
/-! PROOFS. The mailbox commands that set tables, end launches, report and assign frames (R19-R21, R27, R29, R89, R413,
R419, R458, R471, R480, R486). -/

namespace Sys2Proof.Machine

/-! ### What a write at a home leaves of the tables -/

/-- The scheduler's registers and the partition table stand as they stood. -/
structure SameTables (s t : State) : Prop where
  sched : t.sched = s.sched
  parts : t.xlat.partTab = s.xlat.partTab

namespace SameTables

theorem refl (s : State) : SameTables s s := ⟨rfl, rfl⟩

theorem trans {s t u : State} (h : SameTables s t) (k : SameTables t u) : SameTables s u :=
  ⟨k.sched.trans h.sched, k.parts.trans h.parts⟩

end SameTables

namespace State

theorem homeTake_tables (s : State) (line : Nat) : SameTables s (s.homeTake line) := by
  unfold State.homeTake
  dsimp only
  split <;> exact ⟨rfl, rfl⟩

theorem askHost_tables (s : State) (line : Nat) : SameTables s (s.askHost line) := by
  unfold State.askHost
  split <;> exact ⟨rfl, rfl⟩

theorem writeLine_tables (s : State) (line mask data : Nat) (core : Option Nat) :
    SameTables s (s.writeLine line mask data core) := by
  unfold State.writeLine State.writeVia
  dsimp only
  split
  · split
    · obtain ⟨hsched, hparts⟩ := s.askHost_tables line
      exact ⟨hsched, hparts⟩
    · exact ⟨rfl, rfl⟩
  · obtain ⟨hsched, hparts⟩ := s.homeTake_tables line
    exact ⟨hsched, hparts⟩

theorem writePa_tables (s : State) (pa n x : Nat) (core : Option Nat := none) : SameTables s (s.writePa pa n x core) :=
  s.writeLine_tables _ _ _ core

theorem writeRun_tables (s : State) (pa n x k : Nat) (core : Option Nat := none) :
    SameTables s (s.writeRun pa n x k core) := by
  induction k generalizing s pa n x with
  | zero => exact .refl s
  | succ k ih =>
    rw [State.writeRun]
    split
    · exact .refl s
    · exact (s.writePa_tables _ _ _ core).trans (ih _ _ _ _)

theorem clearRing_tables (s : State) (b : Nat) : SameTables s (s.clearRing b) := by
  unfold State.clearRing
  split
  · exact s.writeRun_tables _ _ _ _
  · exact .refl s

theorem startPartition_parts (s : State) (n : Nat) : (s.startPartition n).xlat.partTab = s.xlat.partTab := by
  have h (t : State) (a b : Nat) : ((t.clearRing a).clearRing b).xlat.partTab = t.xlat.partTab :=
    ((t.clearRing_tables a).trans (clearRing_tables _ b)).parts
  simp only [State.startPartition, h]

theorem writeQueue_sched (s : State) (k : Nat) : (s.writeQueue k).sched = s.sched := by
  unfold State.writeQueue
  dsimp only
  split
  · rfl
  · exact ((((s.writePa_tables _ _ _).trans (writePa_tables _ _ _ _)).trans (writePa_tables _ _ _ _)).trans
      (writePa_tables _ _ _ _)).sched

end State

/-! ### A block assigned -/

section
variable {s : State} {p : Pending} {pa len : Nat} {e : BitVec 32} (hu : s.framesUntracked (blockFrames pa len) = true)
include hu

theorem assign_removes (hv : bit e 31 = false) : s.assign p pa len e = .ok (some 0, (s.placeOwner pa len 0).released) := by
  simp only [State.assign, hu, hv, Bool.not_true, Bool.not_false, Bool.false_eq_true, if_false, if_true]

theorem assign_keeps (hv : bit e 31 = true)
    (hf : ∀ f ∈ blockFrames pa len, sameOwner (s.ownerAt f) e = true ∧ s.oldHeld f = false) :
    s.assign p pa len e = .ok (some 0, s.placeOwner pa len e) := by
  have hall : ((blockFrames pa len).all fun f => sameOwner (s.ownerAt f) e && !s.oldHeld f) = true :=
    List.all_eq_true.2 fun f hm => by rw [(hf f hm).1, (hf f hm).2]; rfl
  simp only [State.assign, hu, hv, hall, Bool.not_true, Bool.false_eq_true, if_false, if_true]

theorem assign_zeroes (hv : bit e 31 = true)
    (hf : ¬∀ f ∈ blockFrames pa len, sameOwner (s.ownerAt f) e = true ∧ s.oldHeld f = false) :
    let v := (blockFrames pa len).foldl (fun s f => s.setOwner f (setBit (s.ownerAt f) 30 true)) s
    s.assign p pa len e = .ok (none,
      { v with xlat := { v.xlat with zero := v.xlat.zero ++ [{ pa := pa, len := len, owner := e, cmd := some p }] } }) := by
  have hall : ((blockFrames pa len).all fun f => sameOwner (s.ownerAt f) e && !s.oldHeld f) = false := by
    refine Bool.eq_false_iff.2 fun h => hf fun f hm => ?_
    simpa only [Bool.and_eq_true, Bool.not_eq_true'] using List.all_eq_true.1 h f hm
  simp only [State.assign, hu, hv, hall, Bool.not_true, Bool.false_eq_true, if_false]

end

theorem kilnOwner_kiln : ∀ part < 16, ∀ span ∈ [1, 2],
    bit (kilnOwner span part) 31 = true ∧ oKiln (kilnOwner span part) = true := by decide

/-- A block below the far tier begins with a frame. -/
theorem ownerIndex_mem_blockFrames {pa span : Nat} (h : pa < farBase) : ownerIndex pa ∈ blockFrames pa (spanBytes span) := by
  have hpos : 0 < spanBytes span / frameBytes pa := by
    rw [frameBytes, if_pos h]
    unfold spanBytes
    split <;> decide
  exact List.mem_map.2 ⟨0, List.mem_range.2 hpos, Nat.add_zero _⟩

end Sys2Proof.Machine

namespace Sys2Proof.Claims
open Sys2Proof.Machine

section
variable {s : State} {n : Nat} {p : Pending}
variable (hk : (took s n).mbCheck p = .ok ())
include hk

theorem partSet_sets {i : Nat} {d : BitVec 256} (ha : p.arg 16 1 = i) (hd : BitVec.ofNat 256 (p.arg 32 32) = d)
    (hp : Posted s n 0x01 p) (hi : i < 16) (hbad : d.toNat &&& partReserved = 0) (hpairs : field d 63 0 = field d 127 64)
    (hl : (took s n).mbUnlocked p i 16 = .ok ())
    (hmeets : bit d 192 = true → ∀ j < 16, j ≠ i → (took s n).partValid j = true →
      (((took s n).partDesc j).toNat &&& d.toNat) % 2 ^ 128 = 0)
    (hbusy : ∀ k ∈ (took s n).busyClusters i, bit d 192 = true ∧ bit d k = true)
    (hold : (took s n).partValid i = true ∨ bit d 192 = false ∨ Tab.get [] (took s n).xlat.oldPart i = []) :
    ∃ t, Does (.partSet n) s p t 0 ∧ t.xlat.partTab = Tab.set 0 (took s n).xlat.partTab i d := by
  have hmeets' : (!bit d 192 || !(List.range 16).any fun m => m != i &&
      (took s n).partValid m && (((took s n).partDesc m).toNat &&& d.toNat) % 2 ^ 128 != 0) = true := by
    cases hv : bit d 192 with
    | false => rfl
    | true =>
      simp only [Bool.not_true, Bool.false_or, Bool.not_eq_true', List.any_eq_false, Bool.and_eq_true, bne_iff_ne, ne_eq,
        not_and, not_not, List.mem_range]
      exact fun j hj h => hmeets hv j hj h.1 h.2
  have hbusy' : (((took s n).busyClusters i).all fun c => bit d 192 && bit d c) = true :=
    List.all_eq_true.2 fun k hm => by rw [(hbusy k hm).1, (hbusy k hm).2]; rfl
  have hold' : ((took s n).partValid i || !bit d 192 || (Tab.get [] (took s n).xlat.oldPart i).isEmpty) = true := by
    rcases hold with h | h | h <;> simp [h]
  refine ⟨?t, does_of_body rfl hp hk ?body, ?parts⟩
  case body =>
    rw [State.partSet]
    dsimp only
    rw [ha, hd, mbNeed_holds (decide_eq_true hi), mbOk_bind, hbad, mbNeed_holds (beq_self_eq_true 0), mbOk_bind, hpairs,
      mbNeed_holds (beq_self_eq_true _), mbOk_bind, hl, mbOk_bind, mbNeed_holds hmeets', mbOk_bind, mbNeed_holds hbusy', mbOk_bind,
      mbNeed_holds hold', mbOk_bind, mbPure]
  case parts =>
    split
    · exact State.startPartition_parts _ _
    · rfl

theorem ctxSet_sets {i part : Nat} {c : BitVec 512} (ha : p.arg 16 1 = i) (hc : BitVec.ofNat 512 (p.arg 64 64) = c)
    (hpart : field c 59 56 = part) (hp : Posted s n 0x02 p) (hbad : c.toNat &&& ctxReserved = 0) (hv : bit c 63 = true)
    (hsys : bit c 61 = true → bit c 62 = true) (hlo : 8 ≤ field c 108 104) (hhi : field c 108 104 ≤ 16)
    (ho : (took s n).mbOwn p part 71 = .ok ()) (hl : (took s n).mbUnlocked p part 71 = .ok ())
    (hwas : (took s n).ctxValid i = true → (took s n).mbOwn p ((took s n).ctxPart i) 16 = .ok () ∧
      (took s n).mbUnlocked p ((took s n).ctxPart i) 16 = .ok ())
    (hpv : (took s n).partValid part = true)
    (hold : (took s n).ctxValid i = false → Tab.get [] (took s n).xlat.oldCtx i = [])
    (hbusy : (took s n).ctxValid i = true → (took s n).ctxPart i = part ∨ (took s n).ctxBusy i = false)
    (hframes : ((took s n).inFrames (field c 103 64 * 4096) (64 * 2 ^ field c 108 104) fun e =>
      bit e 24 && !oShared e && oCtx e == i && oPart e == part) = true) (hclear : (took s n).ctxClear i = true) :
    Does (.ctxSet n) s p
      { took s n with xlat := { (took s n).xlat with ctxTab := Tab.set 0 (took s n).xlat.ctxTab i c } } 0 := by
  have hmode : (bit c 63 && (!bit c 61 || bit c 62)) = true := by
    rw [hv, Bool.true_and]
    cases h : bit c 61 with
    | false => rfl
    | true => exact hsys h
  have hold' : ((took s n).ctxValid i || (Tab.get [] (took s n).xlat.oldCtx i).isEmpty) = true := by
    cases h : (took s n).ctxValid i with
    | true => rfl
    | false => rw [hold h]; rfl
  have hbusy' : (!(took s n).ctxValid i || (took s n).ctxPart i == part || !(took s n).ctxBusy i) = true := by
    cases h : (took s n).ctxValid i with
    | false => rfl
    | true => rcases hbusy h with h | h <;> simp [h]
  refine does_of_body rfl hp hk ?_
  dsimp only
  rw [State.ctxSet]
  dsimp only
  rw [ha, hc, hpart, hbad, mbNeed_holds (beq_self_eq_true 0), mbOk_bind, mbNeed_holds hmode, mbOk_bind,
    mbNeed_holds (decide_eq_true ⟨hlo, hhi⟩), mbOk_bind, ho, mbOk_bind, hl, mbOk_bind]
  split
  next h =>
    rw [(hwas h).1, mbOk_bind, (hwas h).2, mbOk_bind, mbNeed_holds hpv, mbOk_bind, mbNeed_holds hold', mbOk_bind,
      mbNeed_holds hbusy', mbOk_bind, mbNeed_holds hframes, mbOk_bind, hclear, Bool.not_true, if_neg Bool.false_ne_true, mbPure]
  next =>
    rw [mbNeed_holds hpv, mbOk_bind, mbNeed_holds hold', mbOk_bind, mbNeed_holds hbusy', mbOk_bind, mbNeed_holds hframes,
      mbOk_bind, hclear, Bool.not_true, if_neg Bool.false_ne_true, mbPure]

theorem queueSet_registers {i q addr : Nat} (hi' : p.arg 16 1 = i) (hq' : p.arg 17 1 = q) (ha' : p.arg 24 8 = addr)
    (hp : Posted s n 0x07 p) (hi : i < 16) (hq : q < 8) (h0 : addr ≠ 0) (hal : addr % 512 = 0) (hlt : addr < 2 ^ 52)
    (ho : (took s n).mbOwn p i 16 = .ok ()) (hl : (took s n).mbUnlocked p i 16 = .ok ())
    (hr : ∀ r ∈ (addr, 512) :: (took s n).rawRings addr,
      (took s n).inFrames r.1 r.2 (fun e => oShared e && !oKiln e && oPart e == i) = true) :
    ∃ t, Does (.queueSet n) s p t ((took s n).mem.readCoh addr 8) ∧ (t.queue (8 * i + q)).block = addr := by
  obtain ⟨hblock, hrings⟩ := List.forall_mem_cons.1 hr
  refine ⟨?t, does_of_body rfl hp hk ?body, ?block⟩
  case body =>
    rw [State.queueSet]
    dsimp only
    rw [hi', hq', ha', mbNeed_holds (decide_eq_true hi), mbOk_bind, mbNeed_holds (decide_eq_true hq), mbOk_bind, hal,
      mbNeed_holds (beq_self_eq_true 0), mbOk_bind, mbNeed_holds (decide_eq_true hlt), mbOk_bind, ho, mbOk_bind, hl, mbOk_bind,
      if_neg h0, mbNeed_holds hblock, mbOk_bind, mbNeed_holds (List.all_eq_true.2 hrings), mbOk_bind, mbPure]
  case block =>
    simp only [State.queue, State.writeQueue_sched, State.setQueue, Tab.get_set_same]
    split <;> rfl

section
variable {x : Nat} (hp : Posted s n 0x09 p) (hx : (took s n).queueAt (p.arg 24 8) = some x)
  (ho : (took s n).mbOwn p (x / 8) 24 = .ok ()) (hn : p.arg 32 8 < ((took s n).queue x).taken)
include hp hx ho hn

theorem launchEnd_gone (hf : ((took s n).sched.launches.find? fun l => l.queue == x && l.slot == some (p.arg 32 8)) = none) :
    Does (.launchEnd n) s p (took s n) ((took s n).mem.readCoh
      (((took s n).queue x).ring + 128 * (p.arg 32 8 % 2 ^ ((took s n).queue x).size) + 56) 4) := by
  refine does_of_body rfl hp hk ?_
  simp only [State.launchEnd, hx, ho, mbOk_bind, decide_eq_true hn, mbNeed_true, hf, mbPure]

theorem launchEnd_ends {l : Launch}
    (hf : ((took s n).sched.launches.find? fun l => l.queue == x && l.slot == some (p.arg 32 8)) = some l)
    (hs : (took s n).stuckWaits ((took s n).stuckOf l.num) = false) :
    Does (.launchEnd n) s p ((took s n).endLaunch l.num 5)
      ((((took s n).endLaunch l.num 5).launch? l.num).map Launch.endStatus |>.getD 0) := by
  refine does_of_body rfl hp hk ?_
  simp only [State.launchEnd, hx, ho, mbOk_bind, decide_eq_true hn, mbNeed_true, hf, hs, Bool.false_eq_true, if_false, mbPure]

end

theorem certify_certifies (hp : Posted s n 0x0D p) (hh : p.issuer = .host) (hi : (took s n).isKiln (p.arg 16 4) = true)
    (h4 : kSt ((took s n).kpage (p.arg 16 4)) = 4)
    (hr : Tab.get 0 (took s n).cert.released (kFirst ((took s n).kpage (p.arg 16 4))) ≠ 0) :
    Does (.certify n) s p (((took s n).certificate (kFirst ((took s n).kpage (p.arg 16 4)))).2.send (.hostBytes (p.arg 24 8)
      (bytesOf 256 ((took s n).certificate (kFirst ((took s n).kpage (p.arg 16 4)))).1))) 0 := by
  refine does_of_body rfl hp hk ?_
  have ho (part : Nat) : (took s n).mbOwn p part 16 = .ok () := by rw [State.mbOwn, hh]
  have hb (t : State) (a size x off : Nat) : t.putBuffer p a size x off = .ok (t.send (.hostBytes a (bytesOf size x))) := by
    rw [State.putBuffer, hh]
  simp only [State.certify, hi, h4, bne_iff_ne.2 hr, ho, hb, beq_self_eq_true, Bool.and_self, if_true, mbNeed_true, mbOk_bind,
    mbPure]

theorem farSet_sets {far : Nat → Nat} (hfar' : (fun j => p.arg (16 + j) 1) = far) (hp : Posted s n 0x13 p)
    (hfar : ∀ j < 16, far j ≤ 15 ∨ far j = 0xFF) (hck : (took s n).host.ckpts = [])
    (hown : ∀ e ∈ (took s n).xlat.owner, 12582912 ≤ e.1 → bit e.2 31 = false)
    (hports : ∀ j < 16, far j ≠ 0xFF → Tab.get 0 (took s n).host.farPort j ≠ 0 ∧
      ((List.range 16).filter fun k => far k == far j).length ∈ [1, 2, 4, 8, 16] ∧
      ∀ k ∈ (List.range 16).filter fun k => far k == far j,
        Tab.get 0 (took s n).host.farPort k = Tab.get 0 (took s n).host.farPort j) :
    ∃ t, Does (.farSet n) s p t 0 ∧ ∀ j < 16, Tab.get 0xFF t.host.farSet j = far j := by
  have hset (j : Nat) : p.arg (16 + j) 1 = far j := congrFun hfar' j
  have hlegal : ((List.range 16).find? fun i => decide (15 < far i) && far i != 0xFF) = none := by
    refine List.find?_eq_none.2 fun j hj => ?_
    rcases hfar j (List.mem_range.1 hj) with h | h
    · simp [Nat.not_lt.2 h]
    · simp [h]
  have howned : ((took s n).xlat.owner.any fun (e : Nat × BitVec 32) => decide (12582912 ≤ e.1) && bit e.2 31) = false := by
    refine List.any_eq_false.2 fun e he => ?_
    by_cases h : 12582912 ≤ e.1
    · simp [hown e he h]
    · simp [h]
  have hgood : ((List.range 16).find? fun i => far i != 0xFF && (Tab.get 0 (took s n).host.farPort i == 0 ||
      !(([1, 2, 4, 8, 16] : List Nat).contains ((List.range 16).filter fun j => far j == far i).length) ||
      ((List.range 16).filter fun j => far j == far i).any fun j =>
        Tab.get 0 (took s n).host.farPort j != Tab.get 0 (took s n).host.farPort i)) = none := by
    refine List.find?_eq_none.2 fun j hj => ?_
    by_cases h : far j = 0xFF
    · simp [h]
    · obtain ⟨hcap, hlen, hall⟩ := hports j (List.mem_range.1 hj) h
      have hlen' := List.contains_iff_mem.2 hlen
      have hany : ((List.range 16).filter fun k => far k == far j).any (fun k =>
          Tab.get 0 (took s n).host.farPort k != Tab.get 0 (took s n).host.farPort j) = false :=
        List.any_eq_false.2 fun k hm => by simp [hall k hm]
      rw [hlen', hany, beq_eq_false_iff_ne.2 hcap]
      simp
  refine ⟨?t, does_of_body rfl hp hk ?body, ?table⟩
  case body =>
    rw [State.setFar]
    simp only [hset, hlegal, howned, hck, hgood, List.isEmpty_nil, Bool.not_false, Bool.and_self, mbNeed_true, mbOk_bind, mbPure]
    rfl
  case table =>
    intro j hj
    have h := get_foldl_set 0xFF ([] : Tab Nat) 0 16 j far
    simp only [Nat.zero_add, Nat.sub_zero, Nat.zero_le, true_and, if_pos hj] at h
    exact h

theorem faultExport_sent (hp : Posted s n 0x0E p) (hh : p.issuer = .host)
    (h : 1280 + 32 * (took s n).rel.entries.length ≤ p.arg 32 8) :
    Does (.faultExport n) s p ((took s n).faultImage.2.send (.hostBytes (p.arg 24 8)
      (bytesOf (1280 + 32 * (took s n).rel.entries.length) (took s n).faultImage.1)))
      (1280 + 32 * (took s n).rel.entries.length) :=
  faultExport_exports hk hp h (by rw [State.putBuffer, hh])

theorem faultImport_accepts {image : List (BitVec 8)} {bytes : Nat}
    (hb : image.foldr (fun b n => b.toNat + 256 * n) 0 = bytes) (hp : Posted s n 0x0F p) (hl : image.length = p.arg 32 8)
    (hi : (took s n).importOk image = true) :
    ∃ t, Does (.faultImport n image) s p t (1280 + 32 * (bytes / 2 ^ 96 % 2 ^ 32)) ∧
      t.rel.boots = Nat.max (took s n).rel.boots (bytes / 2 ^ 192 % 2 ^ 64 + 1) := by
  obtain ⟨body, hbody, t, ht, hboots⟩ : ∃ body : Pending → State → Ans,
      execFaultImport n image s = .next (s.command n 0x0F body) ∧
      ∃ t, body p (took s n) = .ok (some (1280 + 32 * (bytes / 2 ^ 96 % 2 ^ 32)), t) ∧
        t.rel.boots = Nat.max (took s n).rel.boots (bytes / 2 ^ 192 % 2 ^ 64 + 1) := by
    unfold execFaultImport
    -- what the trimming keeps does not matter, and the kernel must not evaluate it
    obtain ⟨trim, htrim⟩ : ∃ f, f = trimRecord := ⟨_, rfl⟩
    rw [hp.1, ← htrim]
    refine ⟨_, congrArg Host.Outcome.next (if_neg (not_not.2 hl)), ?_⟩
    dsimp only
    rw [hb, if_pos hi]
    exact ⟨_, rfl, rfl⟩
  exact ⟨t, does_of_body ((exec_faultImport n image s).trans hbody) hp hk ht, hboots⟩

section
variable {pa : Nat} {e : BitVec 32} (ha : p.arg 16 8 = pa) (he : BitVec.ofNat 32 (p.arg 24 4) = e) (hp : Posted s n 0x04 p)
  (hbad : e.toNat &&& ownerReserved = 0) (hspan : field e 29 28 ≠ 3) (hkiln : oKiln e = false)
  (hctx : bit e 24 = true → oShared e = false) (hfar : farBase ≤ pa → field e 29 28 ≠ 0)
  (hfree : (took s n).pagesFree pa (spanBytes (field e 29 28)) = true)
include ha he hbad hspan hkiln hctx hfar hfree

omit hk in
/-- What FRAME_ASSIGN of a legal block does once the block passes its checks. -/
theorem frameAssign_checked (hc : (took s n).blockCheck p pa (spanBytes (field e 29 28)) 16
      (if bit e 31 then some (oPart e, 25) else none) = .ok ()) :
    (took s n).frameAssign p = (if bit e 31 = true then took s n
      else { took s n with host := { (took s n).host with
        ckpts := (took s n).host.ckpts.filter fun c => !decide (c.1 < pa + spanBytes (field e 29 28) ∧ pa < c.1 + c.2) } }).assign p pa (spanBytes (field e 29 28)) e := by
  have hmode : (!(bit e 24 && (oShared e || oKiln e))) = true := by
    cases h : bit e 24 with
    | false => rfl
    | true => rw [hctx h, hkiln]; rfl
  have hpage : (!(decide (farBase ≤ pa) && field e 29 28 == 0)) = true := by
    by_cases h : farBase ≤ pa
    · simp [hfar h]
    · simp [h]
  have hlegal : (field e 29 28 != 3 && !(oKiln e && (!oShared e || field e 29 28 == 0)) &&
      !(bit e 24 && (oShared e || oKiln e)) && !(decide (farBase ≤ pa) && field e 29 28 == 0)) = true := by
    rw [hmode, hpage, bne_iff_ne.2 hspan, hkiln]
    rfl
  have hplain : (!oKiln e) = true := by rw [hkiln]; rfl
  rw [State.frameAssign]
  dsimp only
  rw [ha, he, hbad, mbNeed_holds (beq_self_eq_true 0), mbOk_bind, mbNeed_holds hlegal, mbOk_bind, mbNeed_holds hplain, mbOk_bind,
    hc, mbOk_bind, mbNeed_holds hfree, mbOk_bind]

variable (hu : (took s n).framesUntracked (blockFrames pa (spanBytes (field e 29 28))) = true)
include hp hu

theorem frameAssign_removes (hv : bit e 31 = false)
    (hc : (took s n).blockCheck p pa (spanBytes (field e 29 28)) 16 none = .ok ()) :
    let v := { took s n with host := { (took s n).host with
      ckpts := (took s n).host.ckpts.filter fun c => !decide (c.1 < pa + spanBytes (field e 29 28) ∧ pa < c.1 + c.2) } }
    Does (.frameAssign n) s p (v.placeOwner pa (spanBytes (field e 29 28)) 0).released 0 := by
  refine does_of_body rfl hp hk ?_
  have hchecked := frameAssign_checked ha he hbad hspan hkiln hctx hfar hfree (by rw [hv]; exact hc)
  rw [hv, if_neg Bool.false_ne_true] at hchecked
  exact hchecked.trans (assign_removes hu hv)

variable (hv : bit e 31 = true)
  (hc : (took s n).blockCheck p pa (spanBytes (field e 29 28)) 16 (some (oPart e, 25)) = .ok ())
include hv hc

theorem frameAssign_keeps (hf : ∀ f ∈ blockFrames pa (spanBytes (field e 29 28)),
      sameOwner ((took s n).ownerAt f) e = true ∧ (took s n).oldHeld f = false) :
    Does (.frameAssign n) s p ((took s n).placeOwner pa (spanBytes (field e 29 28)) e) 0 := by
  refine does_of_body rfl hp hk ?_
  have hchecked := frameAssign_checked ha he hbad hspan hkiln hctx hfar hfree (by rw [hv]; exact hc)
  rw [if_pos hv] at hchecked
  exact hchecked.trans (assign_keeps hu hv hf)

theorem frameAssign_zeroes (hf : ¬∀ f ∈ blockFrames pa (spanBytes (field e 29 28)),
      sameOwner ((took s n).ownerAt f) e = true ∧ (took s n).oldHeld f = false) :
    let v := (blockFrames pa (spanBytes (field e 29 28))).foldl
      (fun s f => s.setOwner f (setBit (s.ownerAt f) 30 true)) (took s n)
    exec (.frameAssign n) s = .next { v with xlat := { v.xlat with zero :=
      v.xlat.zero ++ [{ pa := pa, len := spanBytes (field e 29 28), owner := e, cmd := some p }] } } := by
  refine goes_of_body rfl hp hk ?_
  have hchecked := frameAssign_checked ha he hbad hspan hkiln hctx hfar hfree (by rw [hv]; exact hc)
  rw [if_pos hv] at hchecked
  exact hchecked.trans (assign_zeroes hu hv hf)

end

theorem kilnAssign_zeroes {part span pa : Nat} (h16 : p.arg 16 1 = part) (h17 : p.arg 17 1 = span) (ha : p.arg 24 8 = pa)
    (hp : Posted s n 0x05 p) (hpart : part < 16) (hspan : span = 1 ∨ span = 2) (hlt : pa < farBase)
    (hc : (took s n).blockCheck p pa (spanBytes span) 24 (some (part, 16)) = .ok ())
    (hplain : ∀ f ∈ blockFrames pa (spanBytes span), oKiln ((took s n).ownerAt f) = false)
    (hu : (took s n).framesUntracked (blockFrames pa (spanBytes span)) = true) :
    let v := (blockFrames pa (spanBytes span)).foldl (fun s f => s.setOwner f (setBit (s.ownerAt f) 30 true)) (took s n)
    exec (.kilnAssign n) s = .next { v with xlat := { v.xlat with zero :=
      v.xlat.zero ++ [{ pa := pa, len := spanBytes span, owner := kilnOwner span part, cmd := some p }] } } := by
  obtain ⟨hv, hkiln⟩ := kilnOwner_kiln part hpart span (by simpa using hspan)
  have hchange : ¬∀ f ∈ blockFrames pa (spanBytes span),
      sameOwner ((took s n).ownerAt f) (kilnOwner span part) = true ∧ (took s n).oldHeld f = false := by
    intro h
    have hm := ownerIndex_mem_blockFrames (span := span) hlt
    have hsame := (h _ hm).1
    simp [sameOwner, hplain _ hm, hkiln] at hsame
  have hspan' : (span == 1 || span == 2) = true := by rcases hspan with rfl | rfl <;> rfl
  have hplain' : ((blockFrames pa (spanBytes span)).all fun f => !oKiln ((took s n).ownerAt f)) = true :=
    List.all_eq_true.2 fun f hm => by rw [hplain f hm]; rfl
  refine goes_of_body rfl hp hk ?_
  rw [State.kilnAssign]
  dsimp only
  rw [h16, h17, ha, mbNeed_holds (decide_eq_true hpart), mbOk_bind, mbNeed_holds hspan', mbOk_bind,
    mbNeed_holds (decide_eq_true hlt), mbOk_bind, hc, mbOk_bind, mbNeed_holds hplain', mbOk_bind]
  exact assign_zeroes hu hv hchange

end

theorem tableCommandsComplete : TableCommandsComplete := by
  intro s n p l x image u i d c part addr q size bytes far mates hk
  refine ⟨partSet_sets hk rfl rfl, ctxSet_sets hk rfl rfl rfl, queueSet_registers hk rfl rfl rfl,
    fun hp hx ho hn => ⟨launchEnd_gone hk hp hx ho hn, launchEnd_ends hk hp hx ho hn⟩, certify_certifies hk, farSet_sets hk rfl,
    faultExport_sent hk, faultImport_accepts hk rfl⟩

theorem assignCommandsComplete : AssignCommandsComplete := by
  intro s n p u pa e len keeps zeroes kpa klen k hk
  refine ⟨fun hp hbad hspan hkiln hctx hfar hfree hu => ⟨fun hv hc => ?_, fun hv hc => ⟨fun hf => ?_, fun hf => ?_⟩⟩,
    fun hp => kilnAssign_zeroes hk rfl rfl rfl hp⟩
  · exact frameAssign_removes hk rfl rfl hp hbad hspan hkiln hctx hfar hfree hu hv hc
  · exact frameAssign_keeps hk rfl rfl hp hbad hspan hkiln hctx hfar hfree hu hv hc hf
  · exact frameAssign_zeroes hk rfl rfl hp hbad hspan hkiln hctx hfar hfree hu hv hc hf

end Sys2Proof.Claims

/-- Settles O60, from what each command does once its checks pass. -/
theorem commandsComplete : Obligations.CommandsComplete :=
  ⟨Sys2Proof.Claims.tableCommandsComplete, Sys2Proof.Claims.assignCommandsComplete⟩
end

section
/-! PROOFS. What reset leaves, and what a step runs (R84, R208, R213, R252, R263, R272, R300, R487, R488). -/

open Sys2Proof.Machine in
/-- Settles O1: every register of the reset state at its value, and every table empty. -/
theorem resetState : Obligations.ResetState := by
  refine ⟨⟨rfl, rfl, rfl, rfl, rfl⟩, ?reliability, ?certification, ?faults, ⟨rfl, rfl, rfl, fun _ => rfl⟩,
    fun _ => ⟨rfl, rfl, rfl, rfl, rfl⟩, fun _ => ⟨rfl, rfl⟩, fun _ => BitVec.getLsbD_zero, fun _ => BitVec.getLsbD_zero, rfl, rfl, rfl, ?memory⟩
  case reliability => decide
  case certification => exact ⟨by decide, by decide, by decide, rfl, rfl, rfl, fun _ => rfl⟩
  case memory =>
    intro a
    have hmask : SliceLine.none.mask.getLsbD (a % 128) = false := BitVec.getLsbD_zero
    exact if_neg (Bool.eq_false_iff.1 hmask)
  case faults => exact ⟨by decide, by decide, by decide, fun _ => rfl, rfl, rfl⟩

/-- Settles O2, by the law about reset memory. -/
theorem resetMemoryCanonical : Obligations.ResetMemoryCanonical := Sys2Proof.Machine.Memory.wf_reset

/-- Settles O6: each word is decoded. -/
theorem wordsDecode : Obligations.WordsDecode := by
  refine ⟨?_, ?_, ?_, ?_, ?_, ?_, ?_, ?_, ?_, ?_, ?_, ?_, ?_, ?_, ?_, ?_⟩ <;> rfl

namespace Sys2Proof.Machine

/-! ### What the streams issue -/

section
variable {s t : State} {wi x : Nat} {w : Warp}

theorem issues_wgOf (s : State) (w v : Warp) : (s.issues w).wgOf v = s.wgOf v := by
  unfold State.issues
  split <;> rfl

theorem issues_ctxSys (s : State) (w : Warp) (c : Nat) : (s.issues w).ctxSys c = s.ctxSys c := by
  unfold State.issues
  split <;> rfl

theorem awake_of_running (h : s.host.devState ≠ 6) (a : Act) : awake s a = true := by
  unfold awake
  split
  · rfl
  · rfl
  · exact bne_iff_ne.2 h

section
variable (hw : s.warp? wi = some w) (hheld : { s with cur := wi }.held wi w false = false)
  (hfetch : ({ s with cur := wi }.issues w).fetchWord wi w.pc = .ok (x, t))
  (run : Instr → State → Host.Outcome State Fault Refusal)
include hw hheld hfetch

theorem stepScalar_runs {i : Instr} (hd : decodeScalar x = .ok i) : stepScalar s wi run =
    run i (if w.park = .run then t.count ({ s with cur := wi }.wgOf w).core 1 1 else t) := by
  simp only [stepScalar, hw, hheld, hfetch, hd, issues_wgOf, Bool.false_eq_true, if_false]

theorem stepScalar_undecoded {e : DecodeReason} (hd : decodeScalar x = .error e) : stepScalar s wi run =
    .next (t.trap wi { cause := if x / 2 ^ 26 = 0x24 ∧ s.ctxSys ({ s with cur := wi }.wgOf w).ctx = false then 0x12
      else 0x01 } w.pc) := by
  have hstop : ({ s with cur := wi }.issues w).undecoded w x =
      .trap { cause := if x / 2 ^ 26 = 0x24 ∧ s.ctxSys ({ s with cur := wi }.wgOf w).ctx = false then 0x12 else 0x01 } := by
    by_cases hc : x / 2 ^ 26 = 0x24 ∧ s.ctxSys ({ s with cur := wi }.wgOf w).ctx = false
    · rw [if_pos hc, State.undecoded, if_pos (by rwa [Bool.not_eq_true', issues_wgOf, issues_ctxSys]), privileged]
    · rw [if_neg hc, State.undecoded, if_neg (by rwa [Bool.not_eq_true', issues_wgOf, issues_ctxSys]), illegal]
  simp only [stepScalar, hw, hheld, hfetch, hd, Bool.false_eq_true, if_false]
  rw [hstop, State.stopped]

end

section
variable {b : Block} {q : List Block} {w0 w1 w2 : Nat} (hw : s.warp? wi = some w) (hb : w.blocks = b :: q)
  (hl : w.lane = true) (hheld : { s with cur := wi }.held wi w true = false)
  (hfetch : ({ s with cur := wi }.stir ({ s with cur := wi }.wgOf w).core).fetchLane wi b.lpc = .ok (w0, w1, w2, t))
  (run : Instr → State → Host.Outcome State Fault Refusal)
include hw hb hl hheld hfetch

theorem stepLane_runs {i : Instr} (hd : decodeLane w0 w1 w2 = .ok i) : stepLane s wi run =
    match run i t with
    | .next u => .next (u.countLane wi w b i)
    | o => o := by
  simp only [stepLane, hw, hb, hheld, hl, hfetch, hd, Bool.not_true, Bool.or_self, Bool.false_eq_true, if_false] <;> rfl

theorem stepLane_undecoded {e : DecodeReason} (hd : decodeLane w0 w1 w2 = .error e) :
    stepLane s wi run = .next (t.laneStop b.firstThread illegal) := by
  simp only [stepLane, hw, hb, hheld, hl, hfetch, hd, Bool.not_true, Bool.or_self, Bool.false_eq_true, if_false]

end

/-! ### What a step does -/

section
variable {r : List Act}

theorem step_scalar (h : s.agenda = .scalar wi :: r) (hd : s.host.devState ≠ 6) :
    step s = stepScalar { s with agenda := r } wi exec := by
  rw [step, awake_of_running hd, h]
  rfl

theorem step_focus (h : s.agenda = []) (hd : s.host.devState ≠ 6) : step s = stepScalar s s.cur exec := by
  rw [step, awake_of_running hd, h]
  rfl

theorem step_lane (h : s.agenda = .lane wi :: r) (hd : s.host.devState ≠ 6) :
    step s = stepLane { s with agenda := r } wi exec := by
  rw [step, awake_of_running hd, h]
  rfl

theorem step_event {i : Instr} (h : s.agenda = .event i :: r) (ha : awake s (.event i) = true) (hi : isEvent i = true) :
    step s = match exec i { s with agenda := r } with
      | .next t => .next (t.keepDeferred i)
      | o => o := by
  rw [step, h, List.headD_cons, ha, Bool.not_true, if_neg Bool.false_ne_true]
  dsimp only
  rw [if_pos hi] <;> rfl

end
end

end Sys2Proof.Machine

namespace Sys2Proof.Claims
open Sys2Proof.Machine

theorem stepRunsScalar : StepRunsScalar := by
  intro s r wi w x t i hagenda hd hw s' hheld hfetch hdec
  rcases hagenda with h | ⟨h, rfl, rfl⟩
  · rw [step_scalar h hd]
    exact stepScalar_runs (s := { s with agenda := r }) hw hheld hfetch exec hdec
  · have hs : { s with agenda := [] } = s := by rw [← h]
    rw [step_focus h hd]
    conv_lhs => rw [← hs]
    exact stepScalar_runs (s := { s with agenda := [] }) hw hheld hfetch exec hdec

theorem stepRunsLane : StepRunsLane := by
  intro s r wi w b q w0 w1 w2 t i h hd hw hb hl s' hheld hfetch hdec
  rw [step_lane h hd]
  exact stepLane_runs (s := { s with agenda := r }) hw hb hl hheld hfetch exec hdec

theorem stepRunsEvent : StepRunsEvent := by
  intro s r i h hd hsc hlane
  have hi : isEvent i = true := by rw [isEvent, hsc, hlane]; rfl
  have ha : awake s (.event i) = true := by
    rcases hd with hd | rfl | ⟨off, n, st, rfl⟩
    · exact awake_of_running hd _
    · rfl
    · rfl
  exact step_event h ha hi

end Sys2Proof.Claims

/-- Settles O4, from what each kind of step does. -/
theorem stepRunsDecoded : Obligations.StepRunsDecoded :=
  ⟨Sys2Proof.Claims.stepRunsScalar, Sys2Proof.Claims.stepRunsLane, Sys2Proof.Claims.stepRunsEvent⟩

open Sys2Proof.Machine in
/-- Settles O5, from what each stream does with what does not decode. -/
theorem undecodedTraps : Obligations.UndecodedTraps := by
  refine ⟨?lane, ?scalar⟩
  case lane =>
    intro s r wi w b q w0 w1 w2 t e h hd hw hb hl s' hheld hfetch hdec
    rw [step_lane h hd]
    exact stepLane_undecoded (s := { s with agenda := r }) hw hb hl hheld hfetch exec hdec
  case scalar =>
    intro s r wi w x t e h hd hw s' hheld hfetch hdec
    rw [step_scalar h hd]
    exact stepScalar_undecoded (s := { s with agenda := r }) hw hheld hfetch exec hdec
end

section
/-! PROOFS. Memory stays in its canonical form (entry 3): what a result and a stop carry, and the operations of the state,
of memory, translation, the caches and the accesses. -/

namespace Sys2Proof.Machine

/-! ### The canonical form of what a computation ends in -/

/-- The states that a stop carries have memory in its canonical form. -/
def Stop.Canon : Stop → Prop
  | .park _ s => Memory.wf s.mem.bytes = true
  | .late s e => Memory.wf s.mem.bytes = true ∧ e.Canon
  | _ => True

/-- A state whose memory is in its canonical form. -/
abbrev CanonState (s : State) : Prop := Memory.wf s.mem.bytes = true

/-- A result with a state whose memory is in its canonical form. -/
abbrev CanonSnd {α : Type} (r : α × State) : Prop := Memory.wf r.2.mem.bytes = true

/-- A computation ends in a result with the property given, or in a stop that carries canonical states alone. -/
inductive Ends {α : Type} (P : α → Prop) : Except Stop α → Prop
  | ok {a : α} (h : P a) : Ends P (.ok a)
  | error {e : Stop} (h : e.Canon) : Ends P (.error e)

namespace Ends

variable {α β : Type} {P Q : α → Prop} {R : β → Prop} {x : Except Stop α}

theorem pure {a : α} (h : P a) : Ends P (Pure.pure a) := .ok h

theorem bind {k : α → Except Stop β} (hx : Ends P x) (hk : ∀ a, P a → Ends R (k a)) : Ends R (x >>= k) := by
  cases hx with
  | ok h => exact hk _ h
  | error h => exact .error h

theorem mono (hx : Ends P x) (hpq : ∀ a, P a → Q a) : Ends Q x := by
  cases hx with
  | ok h => exact .ok (hpq _ h)
  | error h => exact .error h

theorem ite {c : Prop} [Decidable c] {y : Except Stop α} (hx : c → Ends P x) (hy : ¬c → Ends P y) :
    Ends P (if c then x else y) := by
  split
  · exact hx ‹_›
  · exact hy ‹_›

/-- Two ways to go on alike. -/
theorem ite_bind {c : Prop} [Decidable c] {y : Except Stop α} {k : α → Except Stop β} (hx : c → Ends P x) (hy : ¬c → Ends P y)
    (hk : ∀ a, P a → Ends R (k a)) : Ends R (if c then x >>= k else y >>= k) :=
  .ite (fun h => (hx h).bind hk) fun h => (hy h).bind hk

/-- A check without a state. -/
theorem need {c : Bool} {e : Stop} (he : e.Canon) : Ends (fun _ => True) (need c e) := by
  unfold Machine.need
  exact .ite (fun _ => .ok trivial) fun _ => .error he

theorem aligned (a : Word) (n : Nat) : Ends (fun _ => True) (aligned a n) := need (e := alignment a) trivial

theorem keep {s : State} (hs : Memory.wf s.mem.bytes = true) (hx : Ends P x) : Ends P (s.keep x) := by
  cases hx with
  | ok h => exact .ok h
  | @error e h =>
    cases e with
    | trap t => exact .error ⟨hs, trivial⟩
    | check r => exact .error ⟨hs, trivial⟩
    | fault k reason level va => exact .error trivial
    | park p t => exact .error h
    | late t e => exact .error h

theorem foldlM {f : β → α → Except Stop β} (hf : ∀ b a, R b → Ends R (f b a)) (l : List α) {b : β} (hb : R b) :
    Ends R (l.foldlM f b) := by
  induction l generalizing b with
  | nil => exact .ok hb
  | cons a l ih => exact (hf b a hb).bind fun _ hc => ih hc

theorem foldl {f : Except Stop α → β → Except Stop α} (hf : ∀ x b, Ends P x → Ends P (f x b)) (l : List β) (hx : Ends P x) :
    Ends P (l.foldl f x) := by
  induction l generalizing x with
  | nil => exact hx
  | cons b l ih => exact ih (hf x b hx)

theorem of_ok {a : α} (hx : Ends P x) (heq : x = .ok a) : P a := by
  subst heq
  cases hx with
  | ok h => exact h

theorem of_error {e : Stop} (hx : Ends P x) (heq : x = .error e) : e.Canon := by
  subst heq
  cases hx with
  | error h => exact h

end Ends

theorem Stop.atThread_canon {e : Stop} {i : Nat} (h : e.Canon) : (e.atThread i).Canon := by
  induction e with
  | late s e ih => exact ⟨h.1, ih h.2⟩
  | trap t => trivial
  | _ => exact h

/-! ### Lists of operations -/

namespace State

theorem foldl_canon {α : Type} {f : State → α → State}
    (hf : ∀ s x, Memory.wf s.mem.bytes = true → Memory.wf (f s x).mem.bytes = true)
    (l : List α) {s : State} (h : Memory.wf s.mem.bytes = true) : Memory.wf (l.foldl f s).mem.bytes = true := by
  induction l generalizing s with
  | nil => exact h
  | cons x l ih => exact ih (hf s x h)

/-- The same of a list of operations that carry more than a state. -/
theorem foldl_canon_of {α β : Type} {g : β → State} {f : β → α → β}
    (hf : ∀ b x, Memory.wf (g b).mem.bytes = true → Memory.wf (g (f b x)).mem.bytes = true)
    (l : List α) {b : β} (h : Memory.wf (g b).mem.bytes = true) : Memory.wf (g (l.foldl f b)).mem.bytes = true := by
  induction l generalizing b with
  | nil => exact h
  | cons x l ih => exact ih (hf b x h)

@[simp] theorem ite_canon {c : Prop} [Decidable c] {s t : State} (hs : Memory.wf s.mem.bytes = true)
    (ht : Memory.wf t.mem.bytes = true) : Memory.wf (if c then s else t).mem.bytes = true := by
  split
  · exact hs
  · exact ht

theorem ite_snd_canon {α : Type} {c : Prop} [Decidable c] {x y : α × State} (hx : CanonSnd x) (hy : CanonSnd y) :
    CanonSnd (if c then x else y) := by
  split
  · exact hx
  · exact hy

section
variable {s : State} (h : Memory.wf s.mem.bytes = true)
include h

/-! ### The state's fields -/

@[simp] theorem setWarp_canon {i : Nat} {w : Warp} : Memory.wf (s.setWarp i w).mem.bytes = true := h

@[simp] theorem modWarp_canon {i : Nat} {f : Warp → Warp} : Memory.wf (s.modWarp i f).mem.bytes = true := h

@[simp] theorem setWg_canon {i : Nat} {g : Workgroup} : Memory.wf (s.setWg i g).mem.bytes = true := h

@[simp] theorem setCore_canon {c : Nat} {x : Core} : Memory.wf (s.setCore c x).mem.bytes = true :=
  (s.setCore_background _ _).wf h

@[simp] theorem idleFrom_canon {c : Nat} : Memory.wf (s.idleFrom c).mem.bytes = true :=
  (s.idleFrom_background _).wf h

@[simp] theorem count_canon {core ev n : Nat} : Memory.wf (s.count core ev n).mem.bytes = true :=
  (s.count_background _ _ _).wf h

@[simp] theorem send_canon {m : Msg} : Memory.wf (s.send m).mem.bytes = true :=
  (s.send_background _).wf h

@[simp] theorem free_canon {α : Type} {f : Nat → α} : Memory.wf (s.free f).2.mem.bytes = true := h

/-! ### Memory at its homes -/

@[simp] theorem wakeIf_canon {p : Warp → Watch → Bool} : Memory.wf (s.wakeIf p).mem.bytes = true :=
  (s.wakeIf_background _).wf h

@[simp] theorem wakeLine_canon {line : Nat} : Memory.wf (s.wakeLine line).mem.bytes = true := h

@[simp] theorem wakeCluster_canon {c line : Nat} : Memory.wf (s.wakeCluster c line).mem.bytes = true :=
  (s.wakeCluster_background _ _).wf h

@[simp] theorem wakeHolders_canon {clusters : List Nat} {line : Nat} :
    Memory.wf (s.wakeHolders clusters line).mem.bytes = true := h

@[simp] theorem untrack_canon {line : Nat} : Memory.wf (s.untrack line).mem.bytes = true :=
  (s.untrack_background _).wf h

@[simp] theorem leaveLine_canon {cluster line : Nat} : Memory.wf (s.leaveLine cluster line).mem.bytes = true :=
  (s.leaveLine_background _ _).wf h

@[simp] theorem homeTake_canon {line : Nat} : Memory.wf (s.homeTake line).mem.bytes = true :=
  (s.homeTake_background _).wf h

@[simp] theorem victim_canon {named : Option Nat} : Memory.wf (s.victim named).2.mem.bytes = true := by
  rw [victim_mem]
  exact h

@[simp] theorem dirRoom_canon {line : Nat} {named : Option Nat} : Memory.wf (s.dirRoom line named).mem.bytes = true :=
  (s.dirRoom_background _ _).wf h

@[simp] theorem sliceRoom_canon {c line : Nat} {named : Option Nat} :
    Memory.wf (s.sliceRoom c line named).mem.bytes = true :=
  (s.sliceRoom_background _ _ _).wf h

@[simp] theorem homeRead_canon {c line : Nat} {named : Option Nat} :
    Memory.wf (s.homeRead c line named).mem.bytes = true :=
  (s.homeRead_background _ _ _).wf h

@[simp] theorem homeOwn_canon {c line : Nat} {named : Option Nat} :
    Memory.wf (s.homeOwn c line named).mem.bytes = true :=
  (s.homeOwn_background _ _ _).wf h

@[simp] theorem homeLoad_canon {line : Nat} : Memory.wf (s.homeLoad line).mem.bytes = true :=
  (s.homeLoad_background _).wf h

@[simp] theorem askHost_canon {line : Nat} : Memory.wf (s.askHost line).mem.bytes = true :=
  (s.askHost_background _).wf h

theorem homeReady_ends {line c : Nat} {write : Bool} : Ends CanonState (s.homeReady line c write) := by
  unfold State.homeReady
  refine .ite (fun _ => .error h) fun _ => .ite (fun _ => .error h) fun _ => .ite (fun _ => .error h) fun _ =>
    .ite (fun _ => .error h) fun _ => .ite (fun _ => .error h) fun _ => .ite (fun _ => .error h) fun _ => .ok h

theorem homesReady_ends {pa n c : Nat} {write : Bool} : Ends CanonState (s.homesReady pa n c write) :=
  .foldlM (fun _ _ h => homeReady_ends h) _ h

@[simp] theorem performWrite_canon {slice : Option Nat} {line mask data : Nat} :
    Memory.wf (s.performWrite slice line mask data).mem.bytes = true :=
  (s.performWrite_background _ _ _ _).wf h

@[simp] theorem writeVia_canon {slice : Option Nat} {line mask data : Nat} {host core : Option Nat} :
    Memory.wf (s.writeVia slice line mask data host core).mem.bytes = true :=
  (s.writeVia_background _ _ _ _ _ _).wf h

@[simp] theorem writeLine_canon {line mask data : Nat} {core : Option Nat} :
    Memory.wf (s.writeLine line mask data core).mem.bytes = true :=
  (s.writeLine_background _ _ _ _).wf h

@[simp] theorem writePa_canon {pa n x : Nat} {core : Option Nat} : Memory.wf (s.writePa pa n x core).mem.bytes = true :=
  (s.writePa_background _ _ _ _).wf h

@[simp] theorem writeRun_canon {pa n x k : Nat} {core : Option Nat} :
    Memory.wf (s.writeRun pa n x k core).mem.bytes = true :=
  (s.writeRun_background _ _ _ _ _).wf h

@[simp] theorem zeroRun_canon {pa n : Nat} : Memory.wf (s.zeroRun pa n).mem.bytes = true := s.zeroRun_wf pa n h

@[simp] theorem askRun_canon {pa n : Nat} : Memory.wf (s.askRun pa n).mem.bytes = true := by
  unfold State.askRun
  refine foldl_canon (fun t l h => ?_) _ h
  dsimp only
  split
  · exact h
  · exact h

@[simp] theorem poisonSector_canon {sec : Nat} : Memory.wf (s.poisonSector sec).mem.bytes = true := by
  unfold State.poisonSector
  split <;> simp [h]

/-! ### Translation -/

@[simp] theorem setOwner_canon {i : Nat} {e : BitVec 32} : Memory.wf (s.setOwner i e).mem.bytes = true := h

@[simp] theorem setHeld_canon {i n : Nat} : Memory.wf (s.setHeld i n).mem.bytes = true := h

@[simp] theorem orEntry_canon {x1 i : Nat} : Memory.wf (s.orEntry x1 i).mem.bytes = true :=
  (s.orEntry_background _ _).wf h

@[simp] theorem markUsed_canon {t : Trans} {p : Perm} : Memory.wf (s.markUsed t p).mem.bytes = true :=
  (s.markUsed_background _ _).wf h

@[simp] theorem enterLines_canon {die : Nat} {lines : List Nat} : Memory.wf (s.enterLines die lines).mem.bytes = true :=
  (s.enterLines_background _ _).wf h

@[simp] theorem cacheWalk_canon {die : Nat} {w : Who} {va : Word} {t : Trans} :
    Memory.wf (s.cacheWalk die w va t).mem.bytes = true :=
  (s.cacheWalk_background _ _ _ _).wf h

theorem translate_ends {w : Who} {kind : AccKind} {p : Perm} {tid : Bool} {va : Word} :
    Ends CanonSnd (s.translate w kind p tid va) := by
  unfold State.translate
  split
  · exact .ite (fun _ => .error h) fun _ => .ite (fun _ => .error h) fun _ => .ite (fun _ => .error trivial) fun _ =>
      .ok (cacheWalk_canon (markUsed_canon h))
  · exact .ite (fun _ => .error h) fun _ => .error trivial

@[simp] theorem logEvent_canon {kind unitType unit : Nat} {detail : Word} :
    Memory.wf (s.logEvent kind unitType unit detail).mem.bytes = true := by
  unfold State.logEvent
  split <;> simp [h]

@[simp] theorem flushFaults_canon {x1 : List FaultEntry} : Memory.wf (s.flushFaults x1).mem.bytes = true :=
  (s.flushFaults_background _).wf h

@[simp] theorem joinFault_canon {k : FaultKey} {reason level : Nat} {va : Word} :
    Memory.wf (s.joinFault k reason level va).mem.bytes = true := by
  unfold State.joinFault
  dsimp only
  split
  · exact h
  · split
    · exact h
    · refine flushFaults_canon ?_
      split
      · exact logEvent_canon (by exact h)
      · exact h

/-! ### The caches -/

@[simp] theorem writeAtSlice_canon {c line mask data : Nat} :
    Memory.wf (s.writeAtSlice c line mask data).mem.bytes = true :=
  (s.writeAtSlice_background _ _ _ _).wf h

@[simp] theorem countL2_canon {core line : Nat} : Memory.wf (s.countL2 core line).mem.bytes = true :=
  (s.countL2_background _ _).wf h

@[simp] theorem sliceWrite_canon {core line mask data : Nat} :
    Memory.wf (s.sliceWrite core line mask data).mem.bytes = true :=
  (s.sliceWrite_background _ _ _ _).wf h

@[simp] theorem l1WriteBack_canon {core line : Nat} : Memory.wf (s.l1WriteBack core line).mem.bytes = true :=
  (s.l1WriteBack_background _ _).wf h

@[simp] theorem l1Drop_canon {core line : Nat} : Memory.wf (s.l1Drop core line).mem.bytes = true :=
  (s.l1Drop_background _ _).wf h

@[simp] theorem l1Evict_canon {core line : Nat} : Memory.wf (s.l1Evict core line).mem.bytes = true :=
  (s.l1Evict_background _ _).wf h

@[simp] theorem l1WriteBackAll_canon {cores : List Nat} {line : Nat} :
    Memory.wf (s.l1WriteBackAll cores line).mem.bytes = true :=
  (s.l1WriteBackAll_background _ _).wf h

@[simp] theorem l1DropAll_canon {cores : List Nat} {line : Nat} : Memory.wf (s.l1DropAll cores line).mem.bytes = true :=
  (s.l1DropAll_background _ _).wf h

@[simp] theorem l1Clean_canon {core : Nat} : Memory.wf (s.l1Clean core).mem.bytes = true :=
  (s.l1Clean_background _).wf h

@[simp] theorem l1Flush_canon {core : Nat} : Memory.wf (s.l1Flush core).mem.bytes = true :=
  (s.l1Flush_background _).wf h

@[simp] theorem l1Room_canon {core line : Nat} : Memory.wf (s.l1Room core line).mem.bytes = true :=
  (s.l1Room_background _ _).wf h

@[simp] theorem l1Alloc_canon {core line : Nat} : Memory.wf (s.l1Alloc core line).mem.bytes = true :=
  (s.l1Alloc_background _ _).wf h

@[simp] theorem readForSlice_canon {c line : Nat} : Memory.wf (s.readForSlice c line).mem.bytes = true :=
  (s.readForSlice_background _ _).wf h

@[simp] theorem sliceRead_canon {core line : Nat} : Memory.wf (s.sliceRead core line).mem.bytes = true :=
  (s.sliceRead_background _ _).wf h

@[simp] theorem l1Fill_canon {core line sec : Nat} : Memory.wf (s.l1Fill core line sec).mem.bytes = true :=
  (s.l1Fill_background _ _ _).wf h

@[simp] theorem insertSig_canon {core : Nat} {t : Trans} : Memory.wf (s.insertSig core t).mem.bytes = true := by
  unfold State.insertSig
  exact ite_canon (setCore_canon h) h

@[simp] theorem closeInterval_canon {core : Nat} : Memory.wf (s.closeInterval core).mem.bytes = true := h

@[simp] theorem forceClose_canon {core : Nat} : Memory.wf (s.forceClose core).mem.bytes = true :=
  wakeIf_canon (closeInterval_canon (count_canon h))

@[simp] theorem enterGrain_canon {core grain wi : Nat} {due : Option Nat} :
    Memory.wf (s.enterGrain core grain wi due).mem.bytes = true := by
  unfold State.enterGrain
  split <;> simp [h]

@[simp] theorem grainSettled_canon {core grain : Nat} : Memory.wf (s.grainSettled core grain).mem.bytes = true := h

theorem registerGrain_ends {core pa : Nat} {va : Word} : Ends CanonState (s.registerGrain core pa va) := by
  unfold State.registerGrain
  refine .ite (fun _ => .error h) fun _ => ?_
  split
  · exact .ite (fun _ => .ok (grainSettled_canon h)) fun _ => .error ⟨grainSettled_canon h, trivial⟩
  · refine .ite (fun _ => .ok ?_) fun _ => .error ?_
    all_goals exact enterGrain_canon (ite_canon (forceClose_canon h) h)

@[simp] theorem dropGrains_canon {ws : List Nat} : Memory.wf (s.dropGrains ws).mem.bytes = true := h

omit h in
theorem checkGrain_ends {core : Nat} {t : Trans} {va : Word} : Ends (fun _ => True) (s.checkGrain core t va) := by
  unfold State.checkGrain
  refine .ite (fun _ => ?_) fun _ => .ok trivial
  split
  · exact .need trivial
  · exact .ok trivial

theorem loadMem_ends {core : Nat} {t : Trans} {n : Nat} {va : Word} : Ends CanonSnd (s.loadMem core t n va) := by
  unfold State.loadMem
  dsimp only
  refine .ite (fun _ => .pure h) fun _ => .bind checkGrain_ends fun _ _ => ?_
  refine .bind (homeReady_ends (ite_canon (l1WriteBackAll_canon h) h)) fun u hu => ?_
  have hcount : Memory.wf (if t.cache = 0 then u.count core 3 1 else u).mem.bytes = true := ite_canon (count_canon hu) hu
  refine .bind (.need trivial) fun _ _ => .ite (fun _ => ?_) fun _ => ?_
  · exact .pure (l1Fill_canon hcount)
  · exact .pure (ite_canon (sliceRead_canon hcount) (homeLoad_canon hcount))

theorem storeMem_ends {core : Nat} {t : Trans} {n x : Nat} {va : Word} : Ends CanonState (s.storeMem core t n x va) := by
  unfold State.storeMem
  refine .ite_bind (fun _ => registerGrain_ends h) (fun _ => .pure h) fun u hu => ?_
  have hdrop : Memory.wf (if t.cache = 0 then (u.insertSig core t).l1DropAll (peers core) (t.pa / 128)
      else u.insertSig core t).mem.bytes = true := ite_canon (l1DropAll_canon (insertSig_canon hu)) (insertSig_canon hu)
  refine .ite (fun _ => ?_) fun _ => .ite (fun _ => ?_) fun _ => ?_
  · exact .pure (l1Alloc_canon hdrop)
  · refine .pure ?_
    exact sliceWrite_canon hdrop
  · refine .pure ?_
    exact writePa_canon hdrop

theorem orderedLoadMem_ends {core : Nat} {t : Trans} {n : Nat} : Ends CanonSnd (s.orderedLoadMem core t n) := by
  unfold State.orderedLoadMem
  refine .bind (homeReady_ends (l1Drop_canon (l1WriteBackAll_canon h))) fun u hu => .bind (.need trivial) fun _ _ => .pure ?_
  exact ite_canon (homeLoad_canon hu) (sliceRead_canon hu)

@[simp] theorem orderedStoreMem_canon {core : Nat} {t : Trans} {n x : Nat} :
    Memory.wf (s.orderedStoreMem core t n x).mem.bytes = true := by
  have hsig := insertSig_canon (core := core) (t := t) (l1DropAll_canon (cores := clusterCores core) (line := t.pa / 128) h)
  unfold State.orderedStoreMem
  dsimp only
  split
  · exact writePa_canon hsig
  · exact sliceWrite_canon hsig

theorem atomicMem_ends {core : Nat} {t : Trans} {n : Nat} {f : Nat → Option Nat} :
    Ends CanonSnd (s.atomicMem core t n f) := by
  unfold State.atomicMem
  refine .bind (homeReady_ends (l1DropAll_canon h)) fun u hu => .bind (.need trivial) fun _ _ => ?_
  have htake := homeTake_canon (line := t.pa / 128) hu
  dsimp only
  split
  · exact .pure (writePa_canon (insertSig_canon htake))
  · exact .pure htake

end
end State
end Sys2Proof.Machine
end

section
/-! PROOFS. Memory stays in its canonical form: accesses, releases and acquires, kiln records, landing words and aborts. -/

namespace Sys2Proof.Machine
namespace State

section
variable {s : State} (h : Memory.wf s.mem.bytes = true)
include h

/-! ### Accesses -/

@[simp] theorem setRegion_canon {n : Nat} {x : BitVec 128} : Memory.wf (s.setRegion n x).mem.bytes = true := by
  unfold State.setRegion
  exact h

/-- The kernel must not see `pa - ctlBase`, which it would count down: the base is named before the definition is opened. -/
@[simp] theorem ctlRead_canon {pa n : Nat} : Memory.wf (s.ctlRead pa n).2.mem.bytes = true := by
  obtain ⟨read, hread⟩ : ∃ f, f = @State.ctlRead := ⟨_, rfl⟩
  obtain ⟨base, hbase⟩ : ∃ b, b = ctlBase := ⟨_, rfl⟩
  rw [← hread]
  delta State.ctlRead at hread
  rw [← hbase] at hread
  rw [hread]
  dsimp only
  cases s.ctlDword ((pa - base) / 8 * 8) with
  | some x => exact ite_snd_canon h (ite_snd_canon h (free_canon (f := Config.freeWord) h))
  | none => exact free_canon (f := Config.freeWord) h

omit h in
theorem spCell_ends {g : Workgroup} {a : Word} {n : Nat} : Ends (fun _ => True) (s.spCell g a n) := by
  unfold State.spCell
  refine .bind (.need trivial) fun _ _ => .ite (fun _ => .bind (.need trivial) fun _ _ => .pure trivial) fun _ =>
    .ite (fun _ => .bind (.need trivial) fun _ _ => ?_) fun _ => .error trivial
  split
  · exact .error trivial
  · exact .bind (.need trivial) fun _ _ => .pure trivial

omit h in
theorem spLoad_ends {cell n : Nat} : Ends (fun _ => True) (s.spLoad cell n) := .bind (.need trivial) fun _ _ => .pure trivial

@[simp] theorem wakeCells_canon {cell n : Nat} : Memory.wf (s.wakeCells cell n).mem.bytes = true := h

@[simp] theorem spStore_canon {cell n x : Nat} : Memory.wf (s.spStore cell n x).mem.bytes = true :=
  (s.spStore_background _ _ _).wf h

@[simp] theorem hostStore_canon {core pa n x : Nat} {poison : Bool} :
    Memory.wf (s.hostStore core pa n x poison).mem.bytes = true := h

@[simp] theorem hostAsk_canon {wi : Nat} {th : Option Nat} {pa n lock mark : Nat} :
    Memory.wf (s.hostAsk wi th pa n lock mark).mem.bytes = true := h

@[simp] theorem hostDone_canon {r : HostReq} : Memory.wf (s.hostDone r).mem.bytes = true := h

theorem hostLoad_ends {wi : Nat} {th : Option Nat} {pa n lock : Nat} : Ends CanonSnd (s.hostLoad wi th pa n lock) := by
  unfold State.hostLoad
  split
  · split
    · exact .ok (hostDone_canon h)
    · exact .error h
  · exact .ite (fun _ => .error h) fun _ => .error (hostAsk_canon h)

omit h in
theorem confine_ends {g : Workgroup} {t : Trans} {write : Bool} {va : Word} {n : Nat} :
    Ends (fun _ => True) (s.confine g t write va n) := by
  unfold State.confine
  exact .ite (fun _ => .bind (.need trivial) fun _ _ => .need trivial) fun _ => .pure trivial

theorem loadAt_ends {wi : Nat} {th : Option Nat} {core : Nat} {t : Trans} {ord : Bool} {va : Word} {n : Nat} :
    Ends CanonSnd (s.loadAt wi th core t ord va n) := by
  unfold State.loadAt
  split
  · exact .ok (ctlRead_canon h)
  · exact hostLoad_ends h
  · exact .ite (fun _ => orderedLoadMem_ends h) fun _ => loadMem_ends h

@[simp] theorem laneStored_canon {wi : Nat} {th : Option Nat} {t : Trans} :
    Memory.wf (s.laneStored wi th t).mem.bytes = true := by
  unfold State.laneStored
  split <;> simp [h]

theorem storeAt_ends {wi : Nat} {th : Option Nat} {core : Nat} {t : Trans} {ord : Bool} {va : Word} {n x : Nat} :
    Ends CanonState (s.storeAt wi th core t ord va n x) := by
  unfold State.storeAt
  split
  · exact .ok h
  · exact .ite (fun _ => .error h) fun _ => .ok (laneStored_canon (hostStore_canon h))
  · exact .ite_bind (fun _ => .ok (orderedStoreMem_canon h)) (fun _ => storeMem_ends h) fun u hu => .pure
      (laneStored_canon hu)

theorem gRead_ends {wi : Nat} {th : Option Nat} {g : Workgroup} {ord : Bool} {va : Word} {n : Nat} :
    Ends CanonSnd (s.gRead wi th g ord va n) :=
  .bind (translate_ends h) fun ⟨_, _⟩ hu => .keep hu (.bind confine_ends fun _ _ => loadAt_ends hu)

theorem gWrite_ends {wi : Nat} {th : Option Nat} {g : Workgroup} {ord : Bool} {va : Word} {n x : Nat} :
    Ends CanonState (s.gWrite wi th g ord va n x) :=
  .bind (translate_ends h) fun ⟨_, _⟩ hu => .keep hu (.bind confine_ends fun _ _ => storeAt_ends hu)

theorem gAtomic_ends {wi : Nat} {th : Option Nat} {g : Workgroup} {va : Word} {n : Nat} {f : Nat → Option Nat} :
    Ends CanonSnd (s.gAtomic wi th g va n f) := by
  refine .bind (translate_ends h) fun ⟨t, u⟩ hu => .keep hu (.bind confine_ends fun _ _ => ?_)
  split
  · exact .pure (ctlRead_canon hu)
  · refine .bind (hostLoad_ends hu) fun ⟨old, v⟩ hv => ?_
    dsimp only
    split
    · exact .pure (laneStored_canon (hostStore_canon hv))
    · exact .pure hv
  · exact atomicMem_ends hu

theorem spAtomic_ends {cell n : Nat} {f : Nat → Option Nat} : Ends CanonSnd (s.spAtomic cell n f) := by
  refine .bind spLoad_ends fun old _ => ?_
  split
  · exact .pure (spStore_canon h)
  · exact .pure h

/-! ### The write-combining buffer and frames held -/

@[simp] theorem holdFrames_canon {num : Nat} {frames : List Nat} :
    Memory.wf (s.holdFrames num frames).mem.bytes = true := by
  unfold State.holdFrames
  refine foldl_canon (fun _ _ h => ?_) _ h
  simp [h]

@[simp] theorem askFrames_canon {frames : List Nat} : Memory.wf (s.askFrames frames).mem.bytes = true := by
  unfold State.askFrames
  refine foldl_canon (fun _ _ h => ?_) _ h
  simp [h]

@[simp] theorem dropFrames_canon {frames : List Nat} : Memory.wf (s.dropFrames frames).mem.bytes = true :=
  foldl_canon (fun _ _ h => setHeld_canon (setOwner_canon (zeroRun_canon h))) _ h

@[simp] theorem markSlot_canon {ctx n : Nat} {busy : Bool} : Memory.wf (s.markSlot ctx n busy).mem.bytes = true := by
  unfold State.markSlot
  simp [h]

@[simp] theorem freeSlot_canon {ctx n : Nat} : Memory.wf (s.freeSlot ctx n).mem.bytes = true := by
  unfold State.freeSlot
  split
  · dsimp only
    split
    · exact markSlot_canon (dropFrames_canon h)
    · exact askFrames_canon (by exact h)
  · exact h

@[simp] theorem sticky_canon {ctx bits : Nat} : Memory.wf (s.sticky ctx bits).mem.bytes = true :=
  (s.sticky_background _ _).wf h

@[simp] theorem aer_canon {ctx : Nat} {e : AerEntry} : Memory.wf (s.aer ctx e).mem.bytes = true :=
  (s.aer_background _ _).wf h

@[simp] theorem drainEntry_canon {e : WcEntry} : Memory.wf (s.drainEntry e).mem.bytes = true :=
  (s.drainEntry_background _).wf h

@[simp] theorem drainAll_canon {x1 : List WcEntry} : Memory.wf (s.drainAll x1).mem.bytes = true :=
  (s.drainAll_background _).wf h

@[simp] theorem drainCore_canon {core : Nat} : Memory.wf (s.drainCore core).mem.bytes = true := by
  unfold State.drainCore
  simp [h]

/-! ### Releases and acquires -/

@[simp] theorem snapshot_canon {core : Nat} : Memory.wf (s.snapshot core).2.mem.bytes = true := by
  unfold State.snapshot
  exact foldl_canon (fun _ _ h => l1Clean_canon h) _ h

theorem hostFlush_ends {wi core : Nat} : Ends CanonState (s.hostFlush wi core) := by
  unfold State.hostFlush
  dsimp only
  split
  · exact .ite (fun _ => .ok (setCore_canon (hostDone_canon h))) fun _ => .error h
  · exact .ite (fun _ => .ok h) fun _ => .error (hostAsk_canon h)

theorem systemQuiet_ends {wi core : Nat} : Ends CanonState (s.systemQuiet wi core) :=
  .bind (.need (drainCore_canon h)) fun _ _ => hostFlush_ends (drainCore_canon h)

theorem lanePerformed_ends {wi core scope : Nat} : Ends CanonState (s.lanePerformed wi core scope) := by
  unfold State.lanePerformed
  split
  · exact .ok h
  next w _ =>
    have hback : Memory.wf (if 4 ≤ scope then w.laneLines.foldl
      (fun s l => s.l1WriteBack core l) s else s).mem.bytes = true :=
      ite_canon (foldl_canon (fun _ _ h => l1WriteBack_canon h) _ h) h
    have hquiet {u : State} (hu : Memory.wf u.mem.bytes = true) {f : Warp → Warp} :
        Ends CanonState (if scope = 6 ∧ w.laneSent then u.systemQuiet wi core >>= fun t => pure (t.modWarp wi f)
          else .ok u >>= fun t => pure (t.modWarp wi f)) :=
      .ite_bind (fun _ => systemQuiet_ends hu) (fun _ => .ok hu) fun _ ht => .pure (modWarp_canon ht)
    exact .ite (fun _ => .bind (.need hback) fun _ _ => hquiet hback) fun _ => hquiet hback

theorem releasePart_ends {wi core scope : Nat} : Ends CanonSnd (s.releasePart wi core scope) := by
  have hclose := closeInterval_canon (core := core) h
  have hsnap := snapshot_canon (core := core) hclose
  unfold State.releasePart
  dsimp only
  refine .ite (fun _ => .ite (fun _ => .bind (.need hclose) fun _ _ => .pure hclose) fun _ => .pure hclose) fun _ => ?_
  refine .bind (.need hsnap) fun _ _ => ?_
  exact .ite_bind (fun _ => systemQuiet_ends hsnap) (fun _ => .ok hsnap) fun _ ht => .pure ht

@[simp] theorem releaseDone_canon {core scope : Nat} : Memory.wf (s.releaseDone core scope).mem.bytes = true := by
  unfold State.releaseDone
  split <;> simp [h]

theorem release_ends {wi core scope : Nat} : Ends CanonState (s.release wi core scope) :=
  .bind (releasePart_ends h) fun ⟨_, _⟩ hu => .pure (releaseDone_canon hu)

@[simp] theorem acquire_canon {core scope : Nat} : Memory.wf (s.acquire core scope).mem.bytes = true :=
  (s.acquire_background _ _).wf h

theorem releaseOrd_ends {wi core : Nat} {o : MemOrd} {scope : Nat} : Ends CanonState (s.releaseOrd wi core o scope) :=
  .ite (fun _ => release_ends h) fun _ => .ok h

@[simp] theorem acquireOrd_canon {core : Nat} {o : MemOrd} {scope : Nat} :
    Memory.wf (s.acquireOrd core o scope).mem.bytes = true := by
  unfold State.acquireOrd
  split <;> simp [h]

@[simp] theorem acquireSig_canon {core scope : Nat} {b : Sig} : Memory.wf (s.acquireSig core scope b).mem.bytes = true :=
  (s.acquireSig_background _ _ _).wf h

/-! ### Kiln pages and witness records -/

@[simp] theorem defer_canon : Memory.wf (s.defer).mem.bytes = true := h

@[simp] theorem keepDeferred_canon {i : Instr} : Memory.wf (s.keepDeferred i).mem.bytes = true := h

@[simp] theorem setKpage_canon {i : Nat} {e : BitVec 128} : Memory.wf (s.setKpage i e).mem.bytes = true := h

@[simp] theorem modBinding_canon {first : Nat} {f : BitVec 128 → BitVec 128} :
    Memory.wf (s.modBinding first f).mem.bytes = true := by
  unfold State.modBinding
  refine foldl_canon (fun _ _ h => ?_) _ h
  simp [h]

@[simp] theorem hold_canon {first : Nat} {d : Int} : Memory.wf (s.hold first d).mem.bytes = true := by
  unfold State.hold
  simp [h]

@[simp] theorem setRecord_canon {id : Nat} {r : BitVec 2048} : Memory.wf (s.setRecord id r).mem.bytes = true := h

@[simp] theorem modRecord_canon {id : Nat} {f : BitVec 2048 → BitVec 2048} :
    Memory.wf (s.modRecord id f).mem.bytes = true := by
  unfold State.modRecord
  split <;> simp [h]

end

@[simp] theorem dropRecords_canon {s : State} {fuel id : Nat} (h : Memory.wf s.mem.bytes = true) :
    Memory.wf (s.dropRecords fuel id).mem.bytes = true := by
  induction fuel generalizing s id with
  | zero => exact h
  | succ fuel ih =>
    rw [State.dropRecords]
    split
    · exact h
    · exact ih (by exact h)

section
variable {s : State} (h : Memory.wf s.mem.bytes = true)
include h

@[simp] theorem retireRecord_canon {id : Nat} : Memory.wf (s.retireRecord id).mem.bytes = true := by
  unfold State.retireRecord
  split
  · exact h
  · exact ite_canon (dropRecords_canon (by exact h)) h

end

@[simp] theorem releaseKiln_canon {s : State} {fuel : Nat} {ids : List Nat} (h : Memory.wf s.mem.bytes = true) :
    Memory.wf (s.releaseKiln fuel ids).mem.bytes = true := by
  induction fuel generalizing s ids with
  | zero => exact h
  | succ fuel ih =>
    cases ids with
    | nil => exact h
    | cons id rest =>
      rw [State.releaseKiln]
      split
      · exact ih h
      · refine ite_canon (ih h) (ih (retireRecord_canon ?_))
        exact foldl_canon (fun _ _ h => by exact modBinding_canon h) _ h

section
variable {s : State} (h : Memory.wf s.mem.bytes = true)
include h

@[simp] theorem passRecord_canon {id : Nat} : Memory.wf (s.passRecord id).mem.bytes = true :=
  releaseKiln_canon (foldl_canon (fun _ _ h => ite_canon (modBinding_canon h) h) _ h)

end

@[simp] theorem taintClosure_canon {s : State} {fuel : Nat} {vs : List (Nat × Nat)} (h : Memory.wf s.mem.bytes = true) :
    Memory.wf (s.taintClosure fuel vs).mem.bytes = true := by
  induction fuel generalizing s vs with
  | zero => exact h
  | succ fuel ih =>
    cases vs with
    | nil => exact h
    | cons v rest =>
      rw [State.taintClosure]
      refine ih (foldl_canon_of (g := Prod.fst) (fun a id ha => ?_) _ h)
      exact foldl_canon (fun _ _ hu => modBinding_canon hu) _ (modRecord_canon ha)

section
variable {s : State} (h : Memory.wf s.mem.bytes = true)
include h

@[simp] theorem taintRecord_canon {id : Nat} {states : List Nat} {failed : Bool} :
    Memory.wf (s.taintRecord id states failed).mem.bytes = true :=
  taintClosure_canon (foldl_canon (fun _ _ h => modBinding_canon h) _ h)

end

@[simp] theorem failOperator_canon {s : State} {fuel : Nat} {ids : List Nat} (h : Memory.wf s.mem.bytes = true) :
    Memory.wf (s.failOperator fuel ids).mem.bytes = true := by
  induction fuel generalizing s ids with
  | zero => exact h
  | succ fuel ih =>
    cases ids with
    | nil => exact h
    | cons id rest =>
      rw [State.failOperator]
      split
      · exact ih h
      · refine ite_canon (ih h) (ih (send_canon (logEvent_canon (modRecord_canon ?_))))
        exact foldl_canon (fun _ _ h => modBinding_canon h) _ h

section
variable {s : State} (h : Memory.wf s.mem.bytes = true)
include h

@[simp] theorem operatorFailed_canon {id : Nat} : Memory.wf (s.operatorFailed id).mem.bytes = true := failOperator_canon h

@[simp] theorem cancelAttempt_canon {id : Nat} : Memory.wf (s.cancelAttempt id).mem.bytes = true := by
  unfold State.cancelAttempt
  split
  · exact ite_canon (taintRecord_canon (setRecord_canon h)) h
  · exact h

@[simp] theorem endAttempt_canon {id : Nat} : Memory.wf (s.endAttempt id).mem.bytes = true := by
  unfold State.endAttempt
  split
  · exact ite_canon (operatorFailed_canon (taintRecord_canon (setRecord_canon h))) (ite_canon (operatorFailed_canon h) h)
  · exact h

/-! ### Landing words -/

theorem landing_ends {g : Workgroup} {x : Word} {n : Nat} {kind : AccKind} {p : Perm} :
    Ends CanonSnd (s.landing g x n kind p) := by
  refine .bind (.need trivial) fun _ _ => .ite (fun _ => .bind spCell_ends fun _ _ => .pure h) fun _ => ?_
  exact .bind (translate_ends h) fun ⟨_, _⟩ hu => .keep hu (.bind (.need trivial) fun _ _ => .pure hu)

@[simp] theorem landRead_canon {core : Nat} {l : LandLoc} {n : Nat} : Memory.wf (s.landRead core l n).2.mem.bytes = true :=
  (s.landRead_background core l n).wf h

@[simp] theorem landWrite_canon {core : Nat} {l : LandLoc} {n x : Nat} :
    Memory.wf (s.landWrite core l n x).mem.bytes = true := by
  cases l with
  | nowhere => exact h
  | cell c => exact spStore_canon h
  | mem t => exact writePa_canon (insertSig_canon (l1DropAll_canon h))

@[simp] theorem landUpdate_canon {core : Nat} {l : LandLoc} {f : LandWord → LandWord} :
    Memory.wf (s.landUpdate core l f).mem.bytes = true := landWrite_canon (landRead_canon h)

@[simp] theorem landSectors_canon {core : Nat} {l : LandLoc} {n : Nat} :
    Memory.wf (s.landSectors core l n).mem.bytes = true := by
  have hread := landRead_canon (core := core) (l := l) (n := 16) h
  unfold State.landSectors
  exact ite_canon (landWrite_canon hread) (landWrite_canon (by exact hread))

theorem landAt_ends {gi ctx core : Nat} {x : Word} {w : Who} {kind : AccKind} :
    Ends CanonSnd (s.landAt gi ctx core x w kind) := by
  unfold State.landAt
  refine .ite (fun _ => .ok h) fun _ => .ite (fun _ => .ite (fun _ => ?_) fun _ => .ok h) fun _ => ?_
  · split <;> exact .ok h
  · exact .bind (translate_ends h) fun ⟨_, _⟩ hu => .pure hu

@[simp] theorem lateStatus_canon {gi ctx status : Nat} : Memory.wf (s.lateStatus gi ctx status).mem.bytes = true := by
  unfold State.lateStatus
  dsimp only
  (repeat' split) <;> simp [h]

/-! ### Workgroups ended -/

@[simp] theorem dissolve_canon {gi gang : Nat} : Memory.wf (s.dissolve gi gang).mem.bytes = true := h

@[simp] theorem unmapLine_canon {line cell : Nat} : Memory.wf (s.unmapLine line cell).mem.bytes = true :=
  (s.unmapLine_background _ _).wf h

@[simp] theorem unmap_canon {x : Mapping} : Memory.wf (s.unmap x).mem.bytes = true :=
  (s.unmap_background _).wf h

@[simp] theorem unmapAll_canon {gi : Nat} : Memory.wf (s.unmapAll gi).mem.bytes = true :=
  (s.unmapAll_background _).wf h

@[simp] theorem modLaunch_canon {n : Nat} {f : Launch → Launch} : Memory.wf (s.modLaunch n f).mem.bytes = true := h

@[simp] theorem dropAnswered_canon : Memory.wf (s.dropAnswered).mem.bytes = true := h

@[simp] theorem dropGrow_canon {wi : Nat} : Memory.wf (s.dropGrow wi).mem.bytes = true := h

@[simp] theorem queueEmits_canon {gi : Nat} : Memory.wf (s.queueEmits gi).mem.bytes = true :=
  (s.queueEmits_background _).wf h

@[simp] theorem leave_canon {gi : Nat} : Memory.wf (s.leave gi).mem.bytes = true := by
  unfold State.leave
  refine foldl_canon (fun _ _ h => ?_) _ ?_ <;> simp [h]

@[simp] theorem exitWarp_canon {wi : Nat} : Memory.wf (s.exitWarp wi).mem.bytes = true := by
  unfold State.exitWarp
  split
  · exact h
  next w _ =>
    extract_lets s₁ s₂ s₃ s₄
    have h₁ : Memory.wf s₁.mem.bytes = true := by
      unfold s₁
      split
      · exact dissolve_canon h
      · exact h
    have h₂ : Memory.wf s₂.mem.bytes = true := dropGrow_canon (modWarp_canon h₁)
    exact ite_canon (leave_canon (queueEmits_canon (unmapAll_canon h₂))) h₂

@[simp] theorem leaveLatch_canon {wi : Nat} : Memory.wf (s.leaveLatch wi).mem.bytes = true := by
  unfold State.leaveLatch
  split <;> simp [h]

@[simp] theorem abortWg_canon {gi cause reason : Nat} : Memory.wf (s.abortWg gi cause reason).mem.bytes = true := by
  unfold State.abortWg
  extract_lets g _ _ s₁ s₂ _ _ _ _ _ s₃ s₄ _ _ s₅ s₆ slot s₇ _ _ _ s₈ s₉ s₁₀ s₁₁ s₁₂ _ s₁₃
  refine ite_canon h ?_
  have h₂ : Memory.wf s₂.mem.bytes = true := dropGrains_canon h
  have h₄ : Memory.wf s₄.mem.bytes = true := ite_canon (sticky_canon (ite_canon (setWg_canon h₂) h₂)) (ite_canon
    (setWg_canon h₂) h₂)
  have h₆ : Memory.wf s₆.mem.bytes = true := unmapAll_canon (by exact h₄)
  have h₇ : Memory.wf s₇.mem.bytes = true := by
    clear_value slot
    unfold s₇
    split
    · exact freeSlot_canon h₆
    · exact h₆
  have h₉ : Memory.wf s₉.mem.bytes = true := ite_canon (logEvent_canon (setWg_canon h₇)) (setWg_canon h₇)
  have h₁₀ : Memory.wf s₁₀.mem.bytes = true := by
    unfold s₁₀
    split
    · split
      · exact cancelAttempt_canon h₉
      · exact h₉
    · exact h₉
  have h₁₁ : Memory.wf s₁₁.mem.bytes = true := by
    unfold s₁₁
    split
    · exact modRecord_canon h₁₀
    · exact h₁₀
  have h₁₂ : Memory.wf s₁₂.mem.bytes = true := leave_canon h₁₁
  have h₁₃ : Memory.wf s₁₃.mem.bytes = true := modLaunch_canon h₁₂
  refine dropAnswered_canon ?_
  exact h₁₃

end
end State
end Sys2Proof.Machine
end

section
/-! PROOFS. Memory stays in its canonical form: the frames of scalar and lane operations, and the operations that compute,
load and store. -/

namespace Sys2Proof.Machine

/-- An outcome whose next state has memory in its canonical form. -/
inductive OutCanon : Host.Outcome State Fault Refusal → Prop
  | next {s : State} (h : Memory.wf s.mem.bytes = true) : OutCanon (.next s)
  | fault (f : Fault) : OutCanon (.fault f)
  | refused (r : Refusal) : OutCanon (.refused r)

theorem OutCanon.ite {c : Prop} [Decidable c] {x y : Host.Outcome State Fault Refusal} (hx : OutCanon x) (hy : OutCanon y) :
    OutCanon (if c then x else y) := by
  split
  · exact hx
  · exact hy

namespace Ends

theorem map {α β : Type} {P : α → Prop} {Q : β → Prop} {g : α → β} {x : Except Stop α} (hx : Ends P x)
    (hg : ∀ a, P a → Q (g a)) : Ends Q (x.map g) := by
  cases hx with
  | ok h => exact .ok (hg _ h)
  | error h => exact .error h

end Ends

namespace State

section
variable {s : State} (h : Memory.wf s.mem.bytes = true)
include h

/-! ### What a stop leaves -/

@[simp] theorem dropRemotes_canon {wi : Nat} : Memory.wf (s.dropRemotes wi).mem.bytes = true := h

@[simp] theorem trap_canon {wi : Nat} {t : Trap} {pc : Word} : Memory.wf (s.trap wi t pc).mem.bytes = true := by
  unfold State.trap
  dsimp only
  (repeat' split) <;> simp [h]

@[simp] theorem faulted_canon {wi : Nat} {k : FaultKey} {reason level : Nat} {va : Word} :
    Memory.wf (s.faulted wi k reason level va).mem.bytes = true := by
  unfold State.faulted
  split <;> simp [h]

end

@[simp] theorem stopped_canon {s : State} {wi : Nat} {pc : Word} {e : Stop} (h : Memory.wf s.mem.bytes = true)
    (he : e.Canon) :
    Memory.wf (s.stopped wi pc e).mem.bytes = true := by
  induction e generalizing s with
  | trap t => exact trap_canon h
  | fault k reason level va => exact modWarp_canon (faulted_canon h)
  | check reason =>
    rw [State.stopped]
    split
    · exact abortWg_canon (modWarp_canon h)
    · exact h
  | park p t => exact modWarp_canon he
  | late t e ih => exact ih he.1 he.2

section
variable {s : State} (h : Memory.wf s.mem.bytes = true)
include h

theorem fetchWord_ends {wi : Nat} {va : Word} : Ends CanonSnd (s.fetchWord wi va) := by
  unfold State.fetchWord
  split
  · exact .ok h
  · refine .bind (translate_ends h) fun ⟨t, u⟩ hu => .keep hu ?_
    split
    · exact .pure (ctlRead_canon hu)
    · exact .bind (.need trivial) fun _ _ => hostLoad_ends hu
    · exact .bind (.need trivial) fun _ _ => .pure hu

@[simp] theorem advance_canon : Memory.wf (s.advance).mem.bytes = true := h

@[simp] theorem modHead_canon {k : Block → Block} : Memory.wf (s.modHead k).mem.bytes = true := h

@[simp] theorem laneAdvance_canon : Memory.wf (s.laneAdvance).mem.bytes = true := h

theorem issue_canon {u : RegUse} {w : Warp} {body : Workgroup → Except Stop State} (hbody : ∀ g, Ends CanonState (body g)) :
    Memory.wf (s.issue u w body).mem.bytes = true := by
  unfold State.issue
  refine ite_canon (modWarp_canon h) ?_
  have hend := hbody (s.wgOf w)
  generalize body (s.wgOf w) = r at hend
  cases hend with
  | ok ht => exact ht
  | error he => exact stopped_canon h he

theorem drained_ends {w : Warp} {scope : Nat} : Ends CanonState (s.drained w scope) :=
  .bind (.need h) fun _ _ => lanePerformed_ends h

end

theorem writeS_ends {w : Warp} {r : SReg} {x : Word} : Ends (fun _ => True) (w.writeS r x) :=
  .ite (fun _ => .error trivial) fun _ => .ok trivial

theorem putS_ends {s : State} {d : SReg} {x : Word} (h : Memory.wf s.mem.bytes = true) : Ends CanonState (s.putS d x) := by
  unfold State.putS
  split
  · exact .map writeS_ends fun _ _ => setWarp_canon h
  · exact .ok h

theorem laneHalt_canon {s : State} {i : Nat} {stage : Block → Issue} {e : Stop} (h : Memory.wf s.mem.bytes = true)
    (he : e.Canon) : Memory.wf (s.laneHalt i stage e).mem.bytes = true := by
  induction e generalizing s with
  | fault k reason level va => exact modHead_canon (faulted_canon (modHead_canon h))
  | park p t =>
    cases p with
    | pipeline => exact modWarp_canon (modHead_canon (by exact he))
    | _ => exact modHead_canon he
  | late t e ih => exact ih he.1 he.2
  | _ =>
    rw [State.laneHalt.eq_def]
    dsimp only
    split
    · exact h
    · exact stopped_canon (modHead_canon h) trivial

section
variable {s : State} (h : Memory.wf s.mem.bytes = true)
include h

@[simp] theorem laneStop_canon {i : Nat} {e : Stop} (he : e.Canon) : Memory.wf (s.laneStop i e).mem.bytes = true :=
  laneHalt_canon h he

@[simp] theorem laneFetchStop_canon {b : Block} {e : Stop} (he : e.Canon) :
    Memory.wf (s.laneFetchStop b e).mem.bytes = true :=
  laneHalt_canon h he

end
end State

open State

/-! ### The frames of operations -/

section
variable {s : State} (h : Memory.wf s.mem.bytes = true)
include h

omit h in
theorem onWarp_canon {k : Warp → State} (hk : ∀ w, Memory.wf (k w).mem.bytes = true) : OutCanon (onWarp s k) := by
  unfold onWarp
  split
  · exact .ite (.next (hk _)) (.fault _)
  · exact .fault _

theorem controlOp_canon {u : RegUse} {body : Warp → Workgroup → Except Stop State}
    (hbody : ∀ w g, Ends CanonState (body w g)) : OutCanon (controlOp s u body) :=
  onWarp_canon fun w => issue_canon h (hbody w)

theorem scalarOp_canon {u : RegUse} {body : Warp → Workgroup → Except Stop State}
    (hbody : ∀ w g, Ends CanonState (body w g)) : OutCanon (scalarOp s u body) :=
  onWarp_canon fun w => issue_canon h fun g => (hbody w g).map fun _ ht => advance_canon ht

theorem alu_canon {d : SReg} {srcs : List SReg} {f : Warp → Word} : OutCanon (alu s d srcs f) :=
  scalarOp_canon h fun _ _ => putS_ends h

theorem laneOpFrame_canon {op : Nat} {f : LaneFields} {body : Warp → Block → BitVec 32 → State}
    (hbody : ∀ w b part, Memory.wf (body w b part).mem.bytes = true) : OutCanon (laneOpFrame s op f body) := by
  refine onWarp_canon fun w => ?_
  split
  · exact h
  · exact ite_canon (laneStop_canon h trivial) (ite_canon (laneStop_canon h trivial) (hbody _ _ _))

theorem laneAtOnce_canon {op : Nat} {f : LaneFields} {body : Warp → Block → BitVec 32 → State}
    (hbody : ∀ w b part, Memory.wf (body w b part).mem.bytes = true) : OutCanon (laneAtOnce s op f body) := by
  refine laneOpFrame_canon h fun w b part => ?_
  split
  · exact laneStop_canon h h
  · exact hbody _ _ _

end

/-- A list of threads, each of which ends in canonical states. -/
theorem perThread_canon {k : State → Nat → Except Stop State}
    (hk : ∀ s i, Memory.wf s.mem.bytes = true → Ends CanonState (k s i)) (l : List Nat) {s : State}
    (h : Memory.wf s.mem.bytes = true) :
    Memory.wf (perThread k l s).1.mem.bytes = true ∧ ∀ i e, (perThread k l s).2 = some (i, e) → e.Canon := by
  induction l generalizing s with
  | nil => exact ⟨h, nofun⟩
  | cons i l ih =>
    have hone : Ends CanonState (if s.mismatch i then .error (.park .pipeline s) else k s i) :=
      .ite (fun _ => .error h) fun _ => hk s i h
    rw [perThread]
    generalize (if s.mismatch i then .error (.park .pipeline s) else k s i : Except Stop State) = r at hone
    cases hone with
    | ok ht => exact ih ht
    | error he => exact ⟨h, by rintro _ _ ⟨⟩; exact he⟩

section
variable {s : State} (h : Memory.wf s.mem.bytes = true)
include h

theorem laneEach_canon {op : Nat} {f : LaneFields} {k : State → Nat → Except Stop State}
    (hk : ∀ s i, Memory.wf s.mem.bytes = true → Ends CanonState (k s i)) : OutCanon (laneEach s op f k) := by
  refine laneOpFrame_canon h fun _ b part => ?_
  obtain ⟨hstate, hstop⟩ := perThread_canon hk (todo b part) h
  split
  next heq => exact laneAdvance_canon (by rw [heq] at hstate; exact hstate)
  next heq =>
    rw [heq] at hstate hstop
    exact laneStop_canon hstate (hstop _ _ rfl)

end

/-! ### Computations of a lane -/

theorem raise_ends {s : State} {fl : Nat} (h : Memory.wf s.mem.bytes = true) : Ends CanonState (s.raise fl) := by
  have ht := modWarp_canon (i := s.cur) (f := fun w => w.setFlags fl) h
  unfold State.raise
  dsimp only
  split
  · exact .ite (fun _ => .error ⟨ht, trivial⟩) fun _ => .ok ht
  · exact .ok ht

theorem putResult_ends {s : State} {f : LaneFields} {t : Nat} {r : Nat × Nat} (h : Memory.wf s.mem.bytes = true) :
    Ends CanonState (s.putResult f t r) :=
  .bind (raise_ends h) fun _ hu => .pure (modWarp_canon hu)

theorem sweepCell_ends {s : State} {g : Workgroup} {x : Int} {n : Nat} : Ends (fun _ => True) (s.sweepCell g x n) :=
  .bind (.need trivial) fun _ _ => .bind (.need trivial) fun _ _ => spCell_ends

/-- A computation whose stops carry canonical states, for every thread's operands. -/
abbrev ThreadCanon (k : LaneIn → Except Stop (Nat × Nat)) : Prop := ∀ x, Ends (fun _ => True) (k x)

theorem sweepThread_ends {s : State} {f : LaneFields} {inB : Bool} {tys : OpTypes} {k : LaneIn → Except Stop (Nat × Nat)}
    {g t : Nat} (hk : ThreadCanon k) (h : Memory.wf s.mem.bytes = true) : Ends CanonState
      (s.sweepThread f inB tys k g t) := by
  unfold State.sweepThread
  split
  · refine .bind sweepCell_ends fun dst _ => .bind sweepCell_ends fun src _ => ?_
    extract_lets rest
    have hlast (x : LaneIn) : Ends CanonState
        (k x >>= fun r => s.raise r.2 >>= fun u => pure (u.spStore dst (elemBytes f.ty) (r.1 % 2 ^ f.ty.width))) :=
      .bind (hk x) fun _ _ => .bind (raise_ends h) fun _ hu => .pure (spStore_canon hu)
    have hrest (c : Option Nat) : Ends CanonState (rest c) := by
      refine .bind spLoad_ends fun x _ => ?_
      cases c with
      | some c => exact .bind spLoad_ends fun y _ => hlast _
      | none => exact hlast _
    split
    · exact .bind (P := fun _ => True) (.map sweepCell_ends fun _ _ => trivial) fun c _ => hrest c
    · exact hrest none
  · exact .ok h

section
variable {s : State} {op : Nat} {f : LaneFields} (h : Memory.wf s.mem.bytes = true)
include h

theorem sweepOp_canon {tys : OpTypes} {k : LaneIn → Except Stop (Nat × Nat)} (hk : ThreadCanon k) :
    OutCanon (sweepOp s op f tys k) := by
  refine laneOpFrame_canon h fun _ b part => ?_
  obtain ⟨hstate, hstop⟩ := perThread_canon (fun _ _ => sweepThread_ends (f := f) (inB := readsB op) (tys := tys)
    (g := b.seg) hk)
    (todo b part) h
  split
  next heq =>
    rw [heq] at hstate hstop
    exact laneStop_canon hstate (hstop _ _ rfl)
  next heq =>
    rw [heq] at hstate
    exact ite_canon (modHead_canon hstate) (laneAdvance_canon hstate)

omit h in
theorem computeThread_ends {tys : OpTypes} {k : LaneIn → Except Stop (Nat × Nat)} (hk : ThreadCanon k) {u : State} {t : Nat}
    (hu : Memory.wf u.mem.bytes = true) : Ends CanonState (computeThread f tys k u t) := by
  unfold computeThread
  split
  · exact .ok hu
  · exact .bind (hk _) fun _ _ => putResult_ends hu

theorem laneCompute_canon {tys : OpTypes} {k : LaneIn → Except Stop (Nat × Nat)} (hk : ThreadCanon k) :
    OutCanon (laneCompute s op f tys k) :=
  .ite (sweepOp_canon h hk) (laneEach_canon h fun _ _ hu => computeThread_ends hk hu)

theorem lanePure_canon {k : LaneIn → Nat × Nat} : OutCanon (lanePure s op f k) := laneCompute_canon h fun _ => .ok trivial

end

/-! ### Loads, stores and atomics of a scalar stream -/

section
variable {s : State} (h : Memory.wf s.mem.bytes = true)
include h

theorem precheck_ends {g : Workgroup} {kind : AccKind} {p : Perm} {va : Word} {n : Nat} :
    Ends CanonState (s.precheck g kind p va n) :=
  .bind (translate_ends h) fun ⟨_, _⟩ hu => .keep hu (.bind confine_ends fun _ _ => .pure hu)

section
variable {d a : SReg} {size : MemSize} {scope : Scope} {ord : MemOrd} {off : BitVec 11}

theorem execLd_canon : OutCanon (execLd d a size off s) :=
  scalarOp_canon h fun _ _ => .bind (.aligned _ _) fun _ _ => .bind (gRead_ends h) fun ⟨_, _⟩ ht => .keep ht (putS_ends ht)

theorem execSt_canon : OutCanon (execSt d a size off s) :=
  scalarOp_canon h fun _ _ => .bind (.need trivial) fun _ _ => .bind (.aligned _ _) fun _ _ => gWrite_ends h

theorem execLds_canon : OutCanon (execLds d a size off s) :=
  scalarOp_canon h fun _ _ => .bind (.aligned _ _) fun _ _ => .bind spCell_ends fun _ _ => .bind spLoad_ends
    fun _ _ => putS_ends h

theorem execSts_canon : OutCanon (execSts d a size off s) :=
  scalarOp_canon h fun _ _ => .bind (.need trivial) fun _ _ => .bind (.aligned _ _) fun _ _ =>
    .bind spCell_ends fun _ _ => .pure (spStore_canon h)

theorem execLdOrd_canon : OutCanon (execLdOrd d a scope ord size s) :=
  scalarOp_canon h fun _ _ => .bind (.need trivial) fun _ _ => .bind (drained_ends h) fun _ hu => .bind
    (.aligned _ _) fun _ _ =>
    .bind (gRead_ends hu) fun ⟨_, _⟩ ht => .keep ht (.bind (putS_ends ht) fun _ hv => .pure (acquire_canon hv))

theorem execStOrd_canon : OutCanon (execStOrd d a scope ord size s) :=
  scalarOp_canon h fun _ _ => .bind (.need trivial) fun _ _ => .bind (drained_ends h) fun _ hu => .bind
    (.aligned _ _) fun _ _ =>
    .bind (precheck_ends hu) fun _ hv => .bind (release_ends hv) fun _ ht => gWrite_ends ht

theorem execLdOrdSp_canon : OutCanon (execLdOrdSp d a scope ord size s) :=
  scalarOp_canon h fun _ _ => .bind (.need trivial) fun _ _ => .bind (drained_ends h) fun _ hu => .bind
    (.aligned _ _) fun _ _ =>
    .bind spCell_ends fun _ _ => .bind spLoad_ends fun _ _ => .bind (putS_ends hu) fun _ ht => .pure (acquire_canon ht)

theorem execStOrdSp_canon : OutCanon (execStOrdSp d a scope ord size s) :=
  scalarOp_canon h fun _ _ => .bind (.need trivial) fun _ _ => .bind (drained_ends h) fun _ hu => .bind
    (.aligned _ _) fun _ _ =>
    .bind spCell_ends fun _ _ => .bind (release_ends hu) fun _ ht => .pure (spStore_canon ht)

theorem atomGlobal_canon {op : AtomOp} : OutCanon (atomGlobal op d a scope ord size s) :=
  scalarOp_canon h fun _ _ => .bind (.need trivial) fun _ _ => .bind (drained_ends h) fun _ hu => .bind
    (.aligned _ _) fun _ _ =>
    .bind (precheck_ends hu) fun _ hv => .bind (releaseOrd_ends hv) fun _ ht => .bind (gAtomic_ends ht) fun ⟨_, _⟩ hx =>
      .bind (putS_ends hx) fun _ hy => .pure (acquireOrd_canon hy)

theorem atomSp_canon {op : AtomOp} : OutCanon (atomSp op d a scope ord size s) :=
  scalarOp_canon h fun _ _ => .bind (.need trivial) fun _ _ => .bind (drained_ends h) fun _ hu => .bind
    (.aligned _ _) fun _ _ =>
    .bind spCell_ends fun _ _ => .bind (releaseOrd_ends hu) fun _ ht => .bind (spAtomic_ends ht) fun ⟨_, _⟩ hx =>
      .bind (putS_ends hx) fun _ hy => .pure (acquireOrd_canon hy)

theorem execFence_canon : OutCanon (execFence scope ord s) :=
  scalarOp_canon h fun _ _ => .bind (.need trivial) fun _ _ => .bind (drained_ends h) fun _ hu =>
    .bind (releaseOrd_ends hu) fun _ ht => .pure (acquireOrd_canon ht)

end

/-! ### Accesses of a lane -/

namespace State

@[simp] theorem looks_canon {w : Who} {vas : List Word} : Memory.wf (s.looks w vas).mem.bytes = true := by
  unfold State.looks
  refine foldl_canon (fun _ _ h => ?_) _ h
  simp [h]

@[simp] theorem putThread_canon {f : LaneFields} {i x : Nat} : Memory.wf (s.putThread f i x).mem.bytes = true := h

omit h in
theorem tensorKiln_ends {w : Who} {kind : AccKind} {base : Word} : Ends (fun _ => True) (s.tensorKiln w kind base) := by
  unfold State.tensorKiln
  split
  · exact .ok trivial
  · exact .error trivial

theorem tidAccess_ends {g : Workgroup} {base : Word} {kind : AccKind} {p : Perm} {write : Bool} {va : Word} {n : Nat} :
    Ends CanonSnd (s.tidAccess g base kind p write va n) := by
  refine .bind tensorKiln_ends fun k _ => .bind (translate_ends (looks_canon h)) fun ⟨_, _⟩ hu => .keep hu ?_
  split
  · exact .bind (.need trivial) fun _ _ => .bind confine_ends fun _ _ => .pure hu
  · exact .bind (.need trivial) fun _ _ => .bind (.need trivial) fun _ _ => .pure hu

omit h in
theorem laneCell_ends {g : Workgroup} {f : LaneFields} {w : Warp} {i : Nat} : Ends (fun _ => True) (s.laneCell g f w i) :=
  .bind (.need trivial) fun _ _ => .bind (.aligned _ _) fun _ _ => spCell_ends

omit h in
theorem laneTensor_ends {g : Workgroup} {f : LaneFields} {w : Warp} {i : Nat} :
    Ends (fun _ => True) (s.laneTensor g f w i) := by
  unfold State.laneTensor
  split
  · exact .error trivial
  · exact .bind (.aligned _ _) fun _ _ => .pure trivial

end State

variable {f : LaneFields}

theorem memFrame_canon {op : Nat} {rel acq sp : Bool} {k : Warp → Workgroup → State → Nat → Except Stop State}
    (hk : ∀ w g u i, Memory.wf u.mem.bytes = true → Ends CanonState (k w g u i)) :
    OutCanon (memFrame s op f rel acq sp k) := by
  refine laneOpFrame_canon h fun w b part => ?_
  extract_lets g scope first
  have hfirst : Ends CanonState first := .ite (fun _ => (release_ends h).map fun _ ht => modHead_canon ht) fun _ => .ok h
  clear_value first
  cases hfirst with
  | error he => exact laneStop_canon h he
  | ok hu =>
    obtain ⟨hstate, hstop⟩ := perThread_canon (hk w g) (todo b part) hu
    dsimp only
    split
    next heq =>
      rw [heq] at hstate hstop
      exact laneStop_canon hstate (hstop _ _ rfl)
    next heq =>
      rw [heq] at hstate
      exact laneAdvance_canon (ite_canon (acquire_canon hstate) hstate)

theorem execLLd_canon : OutCanon (execLLd f s) := by
  unfold execLLd
  extract_lets ord
  refine memFrame_canon h fun _ _ _ _ hu => ?_
  exact .bind (.aligned _ _) fun _ _ => .bind (gRead_ends hu) fun ⟨_, _⟩ ht => .pure (putThread_canon ht)

theorem execLSt_canon : OutCanon (execLSt f s) := by
  unfold execLSt
  extract_lets ord
  refine memFrame_canon h fun _ _ _ _ hu => ?_
  exact .bind (.aligned _ _) fun _ _ => gWrite_ends hu

theorem execLLds_canon : OutCanon (execLLds f s) := by
  refine memFrame_canon h fun _ _ _ _ hu => ?_
  exact .bind laneCell_ends fun _ _ => .bind spLoad_ends fun _ _ => .pure (putThread_canon hu)

theorem execLSts_canon : OutCanon (execLSts f s) := by
  refine memFrame_canon h fun _ _ _ _ hu => ?_
  exact .bind laneCell_ends fun _ _ => .pure (spStore_canon hu)

theorem execLLdt_canon : OutCanon (execLLdt f s) := by
  unfold execLLdt
  extract_lets ord
  refine memFrame_canon h fun _ _ _ _ hu => ?_
  exact .bind laneTensor_ends fun ⟨_, _⟩ _ => .bind (tidAccess_ends hu) fun ⟨_, _⟩ ht =>
    .keep ht (.bind (loadAt_ends ht) fun ⟨_, _⟩ hv => .pure (putThread_canon hv))

theorem execLStt_canon : OutCanon (execLStt f s) := by
  unfold execLStt
  extract_lets ord
  refine memFrame_canon h fun _ _ _ _ hu => ?_
  exact .bind laneTensor_ends fun ⟨_, _⟩ _ => .bind (tidAccess_ends hu) fun ⟨_, _⟩ ht =>
    .keep ht (storeAt_ends ht)

theorem laneAtomic_canon {op : Nat} {k : LaneAtom} : OutCanon (laneAtomic s op f k) := by
  unfold laneAtomic
  extract_lets o
  refine memFrame_canon h fun _ _ _ _ hu => ?_
  exact .bind (.aligned _ _) fun _ _ => .bind (gAtomic_ends hu) fun ⟨_, _⟩ ht =>
    .pure (putThread_canon ht)

theorem laneAtomicSp_canon {op : Nat} {k : LaneAtom} : OutCanon (laneAtomicSp s op f k) := by
  unfold laneAtomicSp
  extract_lets o
  refine memFrame_canon h fun _ _ _ _ hu => ?_
  exact .bind laneCell_ends fun _ _ => .bind (spAtomic_ends hu) fun ⟨_, _⟩ ht =>
    .pure (putThread_canon ht)

end
end Sys2Proof.Machine
end

section
/-! PROOFS. Memory stays in its canonical form: remote accesses, capabilities, and what a stream posts to the engines. -/

namespace Sys2Proof.Machine

open State

namespace Ends

/-- A check made only where a condition holds, and what follows it. -/
theorem ite_unit {β : Type} {R : β → Prop} {c : Prop} [Decidable c] {x : Except Stop Unit}
    {k : Unit → Except Stop β} (hx : c → Ends (fun _ => True) x)
    (hk : ∀ u, Ends R (k u)) : Ends R (if c then x >>= k else k ()) :=
  .ite (fun h => (hx h).bind fun u _ => hk u) fun _ => hk ()

end Ends

theorem check_ends {c : Cap} {x : Int} {n perm : Nat} : Ends (fun _ => True) (c.check x n perm) :=
  .bind (.need trivial) fun _ _ => .bind (.need trivial) fun _ _ => .need trivial

theorem egress_ends {g : Workgroup} {va : Word} : Ends (fun _ => True) (g.egress va) := .need trivial

namespace State

theorem peerCheck_ends {s : State} {part : Nat} {c : Cap} {va : Word} : Ends (fun _ => True) (s.peerCheck part c va) :=
  .bind (.need trivial) fun _ _ => .need trivial

section
variable {s : State} (h : Memory.wf s.mem.bytes = true)
include h

/-! ### Remote accesses -/

@[simp] theorem drainLine_canon {core : Nat} {c : Cap} {line : Nat} :
    Memory.wf (s.drainLine core c line).mem.bytes = true := by
  unfold State.drainLine
  simp [h]

theorem remoteSend_ends {wi : Nat} {th : Option Nat} {g : Workgroup} {c : Cap} {x : Int} {r : RemAcc} :
    Ends CanonState (s.remoteSend wi th g c x r) := by
  have hdrain := drainLine_canon (core := g.core) (c := c) (line := (c.at x).toNat / 128) h
  refine .bind egress_ends fun _ _ => .bind check_ends fun _ _ => .bind (.need trivial)
    fun _ _ => .bind peerCheck_ends fun _ _ => ?_
  exact .bind (.need hdrain) fun _ _ => .pure (send_canon (by exact hdrain))

@[simp] theorem dropRequest_canon {id : Nat} : Memory.wf (s.dropRequest id).mem.bytes = true := h

theorem remote_ends {wi : Nat} {th : Option Nat} {g : Workgroup} {c : Cap} {x : Int} {r : RemAcc} :
    Ends CanonSnd (s.remote wi th g c x r) := by
  unfold State.remote
  split
  · exact .ok (dropRequest_canon h)
  · exact .error trivial
  · exact .error h
  · exact .bind (remoteSend_ends h) fun _ hu => .error hu

@[simp] theorem wcMerge_canon {e : WcEntry} {o n : Nat} {x : Word} : Memory.wf (s.wcMerge e o n x).mem.bytes = true :=
  (s.wcMerge_background _ _ _ _).wf h

theorem remoteStore_ends {g : Workgroup} {c : Cap} {x : Int} {n : Nat} {v : Word} :
    Ends CanonState (s.remoteStore g c x n v) := by
  refine .bind egress_ends fun _ _ => .bind check_ends fun _ _ => .bind (.need trivial) fun _ _ => ?_
  dsimp only
  split
  · exact .pure (wcMerge_canon h)
  · have hroom := ite_canon (c := (s.fab.wcb.filter fun e => e.core == g.core).length < 64) h
      (drainAll_canon (x1 := (s.fab.wcb.filter fun e => e.core == g.core).take 1) h)
    exact .bind (.need hroom) fun _ _ => .pure (wcMerge_canon (by exact hroom))

theorem releaseStore_ends {wi : Nat} {g : Workgroup} {c : Cap} {a n : Nat} {x : Word} :
    Ends CanonState (s.releaseStore wi g c a n x) := by
  unfold State.releaseStore
  exact .ite (fun _ => .pure (aer_canon (by exact h))) fun _ => .error (send_canon (by exact h))

end

end State

section
variable {s : State} (h : Memory.wf s.mem.bytes = true)
include h

section
variable {d a : SReg} {k : KReg} {size : MemSize}

theorem remoteOp_canon {op : RemOp} : OutCanon (remoteOp op d a k size s) := by
  unfold remoteOp
  refine scalarOp_canon h fun _ _ => .bind (.need trivial) fun _ _ => ?_
  exact .bind (remote_ends h) fun ⟨_, _⟩ ht => putS_ends ht

theorem execRst_canon : OutCanon (execRst d a k size s) :=
  scalarOp_canon h fun _ _ => .bind (.need trivial) fun _ _ => remoteStore_ends h

theorem execRstRelSys_canon : OutCanon (execRstRelSys d a k size s) := by
  refine scalarOp_canon h fun _ _ => .bind (.need trivial) fun _ _ => .bind (drained_ends h) fun _ hu => ?_
  split
  · exact .pure (dropRequest_canon hu)
  · exact .error hu
  · exact .bind egress_ends fun _ _ => .bind check_ends fun _ _ => .bind (.need trivial) fun _ _ =>
      .bind (release_ends hu) fun _ ht => releaseStore_ends ht

end

omit h in
theorem sendThreads_canon {k : State → Nat → Except Stop State}
    (hk : ∀ s i, Memory.wf s.mem.bytes = true → Ends CanonState (k s i)) (l : List Nat) {s : State}
    (h : Memory.wf s.mem.bytes = true) : Memory.wf (sendThreads k l s).mem.bytes = true := by
  induction l generalizing s with
  | nil => exact h
  | cons i l ih =>
    have hend := hk s i h
    rw [sendThreads]
    generalize k s i = r at hend
    cases hend with
    | ok ht => exact ih ht
    | @error e he =>
      cases e with
      | park p t => exact he
      | _ => exact h

variable {f : LaneFields}

theorem execLRld_canon : OutCanon (execLRld f s) := by
  refine laneOpFrame_canon h fun w0 b part => ?_
  extract_lets g acc u
  have hu : Memory.wf u.mem.bytes = true := by
    refine sendThreads_canon (fun t i ht => ?_) _ h
    split
    · exact .ok ht
    · exact remoteSend_ends ht
  have hthread (t : State) (i : Nat) (ht : Memory.wf t.mem.bytes = true) : Ends CanonState
      (t.remote t.cur (some i) g (laneCap f (t.focus w0)) (laneRemOff f (t.focus w0) i) acc >>= fun r =>
        pure (r.2.putThread f i r.1)) :=
    .bind (remote_ends ht) fun _ hr => .pure (putThread_canon hr)
  obtain ⟨hstate, hstop⟩ := perThread_canon hthread (todo b part) hu
  split
  next heq => exact laneAdvance_canon ((congrArg (fun r => Memory.wf r.1.mem.bytes) heq).symm.trans hstate)
  next heq =>
    exact laneStop_canon ((congrArg (fun r => Memory.wf r.1.mem.bytes) heq).symm.trans hstate) (hstop _ _
      (congrArg Prod.snd heq))

theorem execLRst_canon : OutCanon (execLRst f s) := by
  refine laneEach_canon h fun u i hu => ?_
  split
  · exact .ok hu
  · exact .bind (remoteStore_ends hu) fun _ ht => .pure (modWarp_canon ht)

theorem laneRemAtom_canon {op : Nat} {r : Warp → Nat → RemAcc} : OutCanon (laneRemAtom s op f r) := by
  refine laneEach_canon h fun u i hu => ?_
  split
  · exact .ok hu
  · exact .bind (remote_ends hu) fun ⟨_, _⟩ ht => .pure (putThread_canon ht)

end

/-! ### Capabilities -/

namespace State

section
variable {s : State} (h : Memory.wf s.mem.bytes = true)
include h

theorem hostLoad16_ends {wi pa : Nat} : Ends CanonSnd (s.hostLoad16 wi pa) := by
  have hlo := hostLoad_ends (wi := wi) (th := none) (pa := pa) (n := 8) (lock := 0) h
  have hhi := hostLoad_ends (wi := wi) (th := none) (pa := pa + 8) (n := 8) (lock := 0) h
  unfold State.hostLoad16
  generalize s.hostLoad wi none pa 8 = lo at hlo
  generalize s.hostLoad wi none (pa + 8) 8 = hi at hhi
  split
  next lo t v =>
    cases hlo with
    | ok ht => exact .bind (hostLoad_ends ht) fun ⟨_, _⟩ hu => .pure hu
  next p t _ u =>
    cases hlo with
    | error ht =>
      have hnext := hostLoad_ends (wi := wi) (th := none) (pa := pa + 8) (n := 8) (lock := 0) ht
      generalize t.hostLoad wi none (pa + 8) 8 = r at hnext
      split
      next => cases hnext with | error hu => exact .error hu
      next => exact .error ht
  next => exact .error h

/-- `ctlRead` is named first: the kernel must not open it (see `ctlRead_canon`). -/
theorem capLoad_ends {wi : Nat} {g : Workgroup} {t : Trans} {va : Word} :
    Ends (fun r => Memory.wf r.2.2.mem.bytes = true) (s.capLoad wi g t va) := by
  obtain ⟨read, hread⟩ : ∃ f, f = @State.ctlRead := ⟨_, rfl⟩
  have hcanon (u : State) (pa n : Nat) (hu : Memory.wf u.mem.bytes = true) : CanonSnd (read u pa n) :=
    hread ▸ ctlRead_canon hu
  unfold State.capLoad
  rw [← hread]
  split
  · exact .ok (hcanon _ _ _ (hcanon _ _ _ h))
  · exact .bind (hostLoad16_ends h) fun ⟨_, _⟩ hu => .pure hu
  · refine .bind checkGrain_ends fun _ _ => .bind (homeReady_ends (l1WriteBackAll_canon h)) fun _ hu => ?_
    exact .bind (.need trivial) fun _ _ => .pure (sliceRead_canon hu)

theorem setTag_canon {pa : Nat} : Memory.wf ({ s with mem := s.mem.setTag pa } : State).mem.bytes = true := by
  dsimp only
  unfold Mem.setTag
  split
  · exact h
  · split <;> exact h

theorem capStore_ends {g : Workgroup} {t : Trans} {va : Word} {c : Cap} : Ends CanonState (s.capStore g t va c) := by
  unfold State.capStore
  split
  · exact .ok h
  · exact .ite (fun _ => .error h) fun _ => .ok (hostStore_canon (hostStore_canon h))
  · refine .ite_bind (fun _ => registerGrain_ends h) (fun _ => .ok h) fun _ hu => ?_
    refine .bind (homeReady_ends (l1DropAll_canon (insertSig_canon hu))) fun _ hv => ?_
    have hwrite := sliceWrite_canon (core := g.core) (line := t.pa / 128) (mask := (2 ^ 16 - 1) * 2 ^ (t.pa % 128))
      (data := c.bits.toNat * 2 ^ (8 * (t.pa % 128))) hv
    refine .pure ?_
    split
    · exact setTag_canon hwrite
    · exact hwrite

end
end State

section
variable {s : State} (h : Memory.wf s.mem.bytes = true)
include h

theorem execCapLd_canon {d : KReg} {a : SReg} : OutCanon (execCapLd d a s) :=
  scalarOp_canon h fun _ _ => .bind egress_ends fun _ _ => .bind (.need trivial) fun _ _ => .bind
    (translate_ends h) fun ⟨_, _⟩ hu =>
    .keep hu (.bind (capLoad_ends hu) fun ⟨_, _, _⟩ ht => .pure (modWarp_canon ht))

theorem execCapSt_canon {a : SReg} {b : KReg} : OutCanon (execCapSt a b s) :=
  scalarOp_canon h fun _ _ => .bind egress_ends fun _ _ => .bind (.need trivial) fun _ _ => .bind
    (translate_ends h) fun ⟨_, _⟩ hu =>
    .keep hu (capStore_ends hu)

theorem execCapMint_canon {d : KReg} {a : SReg} : OutCanon (execCapMint d a s) :=
  scalarOp_canon h fun _ _ => .bind (.need trivial) fun _ _ => .bind egress_ends fun _ _ => .bind (.need trivial) fun _ _ =>
    .pure (modWarp_canon h)

theorem execCapBound_canon {d a : KReg} {b : SReg} : OutCanon (execCapBound d a b s) :=
  scalarOp_canon h fun _ _ => .bind (.need trivial) fun _ _ => .bind egress_ends fun _ _ => .bind (.need trivial) fun _ _ =>
    .bind (.need trivial) fun _ _ => .pure (modWarp_canon h)

theorem execCapPerm_canon {d a : KReg} {b : SReg} : OutCanon (execCapPerm d a b s) :=
  scalarOp_canon h fun _ _ => .bind egress_ends fun _ _ => .bind (.need trivial) fun _ _ => .pure (modWarp_canon h)

theorem execCapRead_canon {d : SReg} {a : KReg} {n : Fin 64} : OutCanon (execCapRead d a n s) :=
  scalarOp_canon h fun _ _ => .bind (.need trivial) fun _ _ => .bind egress_ends fun _ _ => putS_ends h

theorem execCapMov_canon {d a : KReg} : OutCanon (execCapMov d a s) :=
  scalarOp_canon h fun _ _ => .bind egress_ends fun _ _ => .pure (modWarp_canon h)

end

/-! ### Posting to the engines -/

theorem forAll_ends {α : Type} {k : α → Except Stop Unit} (hk : ∀ x, Ends (fun _ => True) (k x)) (l : List α) :
    Ends (fun _ => True) (forAll k l) := by
  induction l with
  | nil => exact .ok trivial
  | cons x l ih =>
    have hone := hk x
    rw [forAll]
    generalize k x = r at hone
    cases hone with
    | ok _ => exact ih
    | error he => exact .error he

namespace State

section
variable {s : State} {g : Workgroup}

theorem spRow_ends {x : Int} {n : Nat} : Ends (fun _ => True) (s.spRow g x n) := .bind (.need trivial) fun _ _ => spCell_ends

theorem tidPages_ends {kind : AccKind} {write : Bool} {first : Option (Option Nat)} {l : List (Nat × Nat)} :
    Ends (fun _ => True) (s.tidPages g kind write first l) := by
  induction l generalizing first with
  | nil => exact .ok trivial
  | cons p rest ih =>
    obtain ⟨a, n⟩ := p
    rw [State.tidPages]
    split
    · exact .error trivial
    · exact .bind (.need trivial) fun _ _ => .bind (.need trivial) fun _ _ => .bind (.need trivial) fun _ _ =>
        .bind (.need trivial) fun _ _ => ih

theorem tidRange_ends {kind : AccKind} {write : Bool} {rows : List Nat} {n : Nat} :
    Ends (fun _ => True) (s.tidRange g kind write rows n) :=
  tidPages_ends

theorem hostBarred_ends {parts : List (Nat × Nat)} : Ends (fun _ => True) (s.hostBarred g parts) := by
  refine .ite (fun _ => forAll_ends (fun p => ?_) _) fun _ => .ok trivial
  split
  · exact .need trivial
  · exact .ok trivial

theorem handleCell_ends {x : Word} {n : Nat} : Ends (fun _ => True) (s.handleCell g x n) :=
  .ite (fun _ => spCell_ends.map fun _ _ => trivial) fun _ => .ok trivial

theorem request_ends {a : Word} {n : Nat} : Ends (fun _ => True) (s.request g a n) :=
  .bind spCell_ends fun _ _ => .bind (.aligned _ _) fun _ _ => .bind spLoad_ends fun _ _ => .pure trivial

theorem needTid_ends {tid : Nat} : Ends (fun _ => True) (s.needTid g tid) := by
  unfold State.needTid
  split
  · exact .ok trivial
  · exact .error trivial

theorem spRows_ends {row : Nat → Int} {n rows : Nat} :
    Ends (fun _ => True) (forAll (fun k => (s.spRow g (row k) n).map fun _ => ()) (List.range rows)) :=
  forAll_ends (fun _ => spRow_ends.map fun _ _ => trivial) _

theorem sideCheck_ends {side : Nat} {row : Nat → Int} {rows n : Nat} {write : Bool} :
    Ends (fun _ => True) (s.sideCheck g side row rows n write) := by
  refine .ite (fun _ => .bind spRows_ends fun _ _ => .pure trivial) fun _ => .ite (fun _ => ?_) fun _ =>
    .ite (fun _ => tidRange_ends) fun _ => .ok trivial
  exact .ite_unit (fun _ => hostBarred_ends) fun _ => .pure trivial

end

section
variable {s : State} (h : Memory.wf s.mem.bytes = true)
include h

theorem withEng_canon {e : Engines} : Memory.wf ({ s with eng := e } : State).mem.bytes = true := h

@[simp] theorem addOp_canon {o : EngOp} : Memory.wf (s.addOp o).mem.bytes = true := h

@[simp] theorem sideLooks_canon {g : Workgroup} {side : Nat} {row : Nat → Int} {rows n : Nat} {write : Bool} :
    Memory.wf (s.sideLooks g side row rows n write).mem.bytes = true := by
  unfold State.sideLooks
  split <;> simp [h]

theorem landOpt_ends {g : Workgroup} {x : Word} : Ends CanonSnd (s.landOpt g x) :=
  .ite (fun _ => .ok h) fun _ => landing_ends h

theorem post_ends {g : Workgroup} {wi : Nat} {o : EngOp} {sectors : Nat} : Ends CanonState (s.post g wi o sectors) :=
  .bind (landOpt_ends h) fun ⟨_, _⟩ hu => .bind (.need hu) fun _ _ => .bind (release_ends hu) fun _ ht =>
    .pure (withEng_canon (addOp_canon (landUpdate_canon ht)))

@[simp] theorem addFence_canon {w : Warp} {g : Workgroup} {id : Nat} {m rest : BitVec 6} :
    Memory.wf (s.addFence w g id m rest).1.mem.bytes = true := by
  refine foldl_canon_of (g := Prod.fst) (fun a i ha => ?_) _ h
  dsimp only
  split
  · exact ha
  · split
    · split
      · exact ha
      · exact ha
    · split
      · exact addOp_canon ha
      · exact ha

theorem landLook_ends {g : Workgroup} {x : Word} : Ends CanonSnd (s.landLook g x) :=
  .bind (.need trivial) fun _ _ => .bind (landing_ends h) fun ⟨_, _⟩ ht => .keep ht (.bind (.need trivial) fun _ _ =>
    .pure (landRead_canon ht))

@[simp] theorem mapLine_canon {core line cell : Nat} : Memory.wf (s.mapLine core line cell).mem.bytes = true :=
  (s.mapLine_background _ _ _).wf h

@[simp] theorem addMapping_canon {wi : Nat} {g : Workgroup} {va row line : Nat} :
    Memory.wf (s.addMapping wi g va row line).mem.bytes = true :=
  (s.addMapping_background _ _ _ _ _).wf h

theorem mapStop_canon {i : Nat} {e : Stop} (he : e.Canon) : (s.mapStop i e).Canon := by
  cases e with
  | park p t => exact modWarp_canon he
  | _ => exact ⟨modWarp_canon h, he⟩

end

/-- The recursion is opened by hand, as in `mapLines_background`. -/
theorem mapLines_ends {s : State} {wgi : Nat} {g : Workgroup} {va row k i : Nat} (h : Memory.wf s.mem.bytes = true) :
    Ends CanonSnd (s.mapLines wgi g va row k i) := by
  induction k generalizing s i with
  | zero =>
    delta State.mapLines
    exact .ok h
  | succ k ih =>
    have htrans := translate_ends (w := s.whoOf g) (kind := .atomic) (p := .rw) (tid := false)
      (va := BitVec.ofNat 64 (va + 128 * i)) h
    delta State.mapLines
    dsimp only
    generalize hrest : (Nat.rec ⟨State.mapLines._f wgi g va row Nat.zero PUnit.unit, PUnit.unit⟩
      (fun n n_ih => ⟨State.mapLines._f wgi g va row n.succ n_ih, n_ih⟩) k :
        Nat.below (motive := fun _ => State → Nat → Except Stop (Nat × State)) k.succ) = rest
    have hnext (u : State) (j : Nat) (hu : Memory.wf u.mem.bytes = true) : Ends CanonSnd (rest.1 u j) := by
      have heq : rest.1 u j = u.mapLines wgi g va row k j := by
        rw [← hrest]
        delta State.mapLines
        rfl
      rw [heq]
      exact ih hu
    clear hrest
    delta State.mapLines._f
    dsimp only
    generalize s.translate (s.whoOf g) .atomic .rw false (BitVec.ofNat 64 (va + 128 * i)) = r at htrans
    cases htrans with
    | @error e he =>
      cases e with
      | fault key reason level x => exact .ite (fun _ => .ok h) fun _ => .error (mapStop_canon h he)
      | _ => exact .error (mapStop_canon h he)
    | @ok r hr =>
      obtain ⟨t, u⟩ := r
      refine .ite (fun _ => .ok hr) fun _ => ?_
      have hready := homeReady_ends (line := t.pa / 128) (c := 128) (write := true)
        (l1DropAll_canon (cores := clusterCores g.core) (line := t.pa / 128) hr)
      generalize (u.l1DropAll (clusterCores g.core) (t.pa / 128)).homeReady (t.pa / 128) 128 true = r at hready
      cases hready with
      | error he => exact .error (mapStop_canon hr he)
      | ok hv => exact .ite (fun _ => .error (mapStop_canon hv hv)) fun _ => hnext _ _ (addMapping_canon (mapLine_canon hv))

end State

section
variable {s : State} (h : Memory.wf s.mem.bytes = true)
include h

variable {d a b : SReg}

theorem copyPost_canon {cond : Bool} {q : Fin 4} : OutCanon (copyPost cond a q s) := by
  refine scalarOp_canon h fun w g => .bind request_ends fun r _ => .bind (.need trivial) fun _ _ => .bind
    (.need trivial) fun _ _ =>
    .bind (.need trivial) fun _ _ => .ite (fun _ => post_ends h) fun _ => ?_
  refine .ite_unit (fun _ => spRows_ends) fun _ => .ite_unit (fun _ => spRows_ends) fun _ => .bind handleCell_ends fun _ _ =>
    .ite_unit (fun _ => handleCell_ends) fun _ => .ite_bind (fun _ => needTid_ends) (fun _ => .ok trivial) fun _ _ =>
    .ite_bind (fun _ => needTid_ends) (fun _ => .ok trivial) fun _ _ => .bind sideCheck_ends
      fun _ _ => .bind sideCheck_ends fun _ _ => ?_
  have hside {side side' : Nat} {row row' : Nat → Int} {rows n : Nat} :
      Memory.wf ((s.sideLooks g side row rows n false).sideLooks g side' row' rows n true).mem.bytes = true :=
    sideLooks_canon (sideLooks_canon h)
  refine .ite (fun _ => .bind (landOpt_ends hside) fun ⟨_, _⟩ hu => .bind (.need trivial) fun _ _ => ?_)
    fun _ => post_ends hside
  exact .bind (landing_ends hu) fun ⟨_, _⟩ ht => post_ends ht

theorem execXferBulk_canon {q : Fin 4} : OutCanon (execXferBulk a q s) := by
  refine scalarOp_canon h fun w g => .bind request_ends fun r _ => .bind egress_ends fun _ _ => .ite
    (fun _ => post_ends h) fun _ => ?_
  refine .bind handleCell_ends fun _ _ => .bind check_ends fun _ _ => .bind (.need trivial) fun _ _ => ?_
  exact .ite_unit (fun _ => check_ends) fun _ => .ite_unit (fun _ => check_ends) fun _ => post_ends h

theorem execGatherPost_canon : OutCanon (execGatherPost a s) := by
  refine scalarOp_canon h fun w g => .bind request_ends fun r _ => .bind (.need trivial) fun _ _ => .ite
    (fun _ => post_ends h) fun _ => ?_
  refine .bind spCell_ends fun _ _ => .bind spCell_ends fun _ _ => .bind handleCell_ends fun _ _ => ?_
  refine .ite_bind (fun _ => needTid_ends) (fun _ => .ok trivial) fun _ _ =>
    .ite_bind (fun _ => tidRange_ends) (fun _ => .ok trivial) fun _ _ => .ite_unit (fun _ => hostBarred_ends) fun _ => ?_
  exact post_ends (ite_canon (looks_canon h) h)

theorem execQfence_canon {m : BitVec 6} : OutCanon (execQfence m s) := by
  refine scalarOp_canon h fun w g => .bind (.need trivial) fun _ _ => ?_
  dsimp only
  have hfence := addFence_canon (w := w) (g := g) (id := (w.qfence.getD (s.eng.nextId, m)).1) (m := m)
    (rest := (w.qfence.getD (s.eng.nextId, m)).2)
    (ite_canon (c := w.qfence.isSome) h (withEng_canon (e := { s.eng with nextId := s.eng.nextId + 1 }) h))
  exact .ite (fun _ => .pure (modWarp_canon hfence)) fun _ => .error (modWarp_canon hfence)

theorem execLwInit_canon : OutCanon (execLwInit a b s) :=
  scalarOp_canon h fun _ _ => .bind (.need trivial) fun _ _ => .bind (.need trivial) fun _ _ => .bind
    (landing_ends h) fun ⟨_, _⟩ ht =>
    .pure (landUpdate_canon ht)

theorem execLwWait_canon : OutCanon (execLwWait a b s) :=
  scalarOp_canon h fun _ _ => .bind (landLook_ends h) fun ⟨_, _⟩ ht => .bind (.need ht) fun _ _ => .pure (acquire_canon ht)

theorem execLwRead_canon : OutCanon (execLwRead d a s) :=
  scalarOp_canon h fun _ _ => .bind (landLook_ends h) fun ⟨_, _⟩ ht => putS_ends (acquire_canon ht)

theorem execSpMap_canon : OutCanon (execSpMap d a b s) := by
  refine scalarOp_canon h fun w g => .bind (.aligned _ _) fun _ _ => .bind (.aligned _ _) fun _ _ => .bind
    (.need trivial) fun _ _ =>
    .bind (.need trivial) fun _ _ => .ite (fun _ => putS_ends (modWarp_canon h)) fun _ => ?_
  exact .bind (mapLines_ends h) fun ⟨_, _⟩ ht => putS_ends (modWarp_canon ht)

theorem execSpUnmap_canon : OutCanon (execSpUnmap a s) := by
  refine scalarOp_canon h fun w g => ?_
  split
  · exact .pure (unmap_canon h)
  · exact .pure h

end
end Sys2Proof.Machine
end

section
/-! PROOFS. Memory stays in its canonical form: the copy and gather engines, and what arrives at an IO die. -/

namespace Sys2Proof.Machine

open State

namespace State

theorem canon_of_eq {α : Type} {r : α × State} {a : α} {t : State} (heq : r = (a, t)) (h : CanonSnd r) :
    Memory.wf t.mem.bytes = true := by
  rw [heq] at h
  exact h

theorem withFab_canon {s : State} {f : Fabric} (h : Memory.wf s.mem.bytes = true) :
    Memory.wf ({ s with fab := f } : State).mem.bytes = true := h

section
variable {s : State} (h : Memory.wf s.mem.bytes = true)
include h

/-! ### Reads of an engine -/

@[simp] theorem engHost_canon {id pa n : Nat} : Memory.wf (s.engHost id pa n).2.mem.bytes = true := by
  have hload := hostLoad_ends (wi := engTag id) (th := none) (pa := pa) (n := n) (lock := 0) h
  unfold State.engHost
  split
  · exact h
  · exact h
  · generalize s.hostLoad (engTag id) none pa n = r at hload
    cases hload with
    | ok hu => exact h
    | @error e hu =>
      cases e with
      | park p t => exact hu
      | _ => exact h

@[simp] theorem engHostDone_canon {id : Nat} : Memory.wf (s.engHostDone id).mem.bytes = true := h

end

/-- The recursion is opened by hand and `ctlRead` is named first, since the kernel must not open it (see `ctlRead_canon`). -/
theorem engReadAt_canon {s : State} {id core : Nat} {t : Trans} {mx : Option Nat} {fuel off n : Nat} {d : EngData}
    (h : Memory.wf s.mem.bytes = true) : Memory.wf (s.engReadAt id core t mx fuel off n d).2.mem.bytes = true := by
  obtain ⟨read, hread⟩ : ∃ f, f = @State.ctlRead := ⟨_, rfl⟩
  have hcanon (u : State) (pa n : Nat) (hu : Memory.wf u.mem.bytes = true) : CanonSnd (read u pa n) :=
    hread ▸ ctlRead_canon hu
  obtain ⟨step, hstep, hbody⟩ : ∃ f, f = @State.engReadAt._f ∧ f = @State.engReadAt._f := ⟨_, rfl, rfl⟩
  delta State.engReadAt._f at hbody
  rw [← hread] at hbody
  induction fuel generalizing s off n d with
  | zero =>
    delta State.engReadAt
    exact h
  | succ fuel ih =>
    delta State.engReadAt
    rw [← hstep]
    dsimp only
    generalize hrest : (Nat.rec ⟨step id core t mx Nat.zero PUnit.unit, PUnit.unit⟩
      (fun n n_ih => ⟨step id core t mx n.succ n_ih, n_ih⟩) fuel :
        Nat.below (motive := fun _ => State → Nat → Nat → EngData → EngData × State) fuel.succ) = rest
    have hnext (u : State) (off n : Nat) (d : EngData) (hu : Memory.wf u.mem.bytes = true) : CanonSnd (rest.1 u off n d) := by
      have heq : rest.1 u off n d = u.engReadAt id core t mx fuel off n d := by
        rw [← hrest, hstep]
        delta State.engReadAt
        rfl
      rw [heq]
      exact ih hu
    rw [hbody]
    refine ite_snd_canon h ?_
    split
    · exact hnext _ _ _ _ (hcanon _ _ _ h)
    · exact hnext _ _ _ _ (engHost_canon h)
    · have hback := l1WriteBackAll_canon (cores := clusterCores core) (line := (t.pa + off) / 128) h
      have hready := homeReady_ends (line := (t.pa + off) / 128) (c := mx.getD 128) (write := false) hback
      dsimp only
      generalize (s.l1WriteBackAll (clusterCores core) ((t.pa + off) / 128)).homeReady ((t.pa + off) / 128)
        (mx.getD 128) false = r
        at hready
      cases hready with
      | @error e he =>
        cases e with
        | park p u =>
          dsimp only
          exact hnext _ _ _ _ he
        | _ =>
          dsimp only
          exact hnext _ _ _ _ hback
      | @ok u hu =>
        dsimp only
        refine hnext _ _ _ _ ?_
        split
        · exact ite_canon (readForSlice_canon hu) (homeLoad_canon hu)
        · exact homeLoad_canon hu

theorem engRead_ends {s : State} {w : Who} {id core : Nat} {kind : AccKind} {tid : Bool} {mx : Option Nat} {cert : Bool}
    {l : List (Nat × Nat)} {d : EngData} (h : Memory.wf s.mem.bytes = true) :
    Ends CanonSnd (s.engRead w id core kind tid mx cert l d) := by
  induction l generalizing s d with
  | nil => exact .ok h
  | cons p rest ih =>
    obtain ⟨a, n⟩ := p
    refine .bind (translate_ends h) fun ⟨t, u⟩ hu => ?_
    exact ih (ite_snd_canon (y := u.engReadAt id core t mx n 0 n {}) hu (engReadAt_canon hu))

section
variable {s : State} (h : Memory.wf s.mem.bytes = true)
include h

/-! ### Writes of an engine -/

@[simp] theorem poisonRange_canon {pa n : Nat} : Memory.wf (s.poisonRange pa n).mem.bytes = true :=
  ite_canon h (foldl_canon (fun _ _ hu => poisonSector_canon hu) _ h)

@[simp] theorem spPoisonRange_canon {c n : Nat} : Memory.wf (s.spPoisonRange c n).mem.bytes = true := by
  unfold State.spPoisonRange
  split <;> simp [h]

@[simp] theorem engSpoil_canon {core : Nat} {t : Trans} {n : Nat} : Memory.wf (s.engSpoil core t n).mem.bytes = true :=
  poisonRange_canon (foldl_canon (fun _ _ hu => wakeLine_canon (insertSig_canon (homeTake_canon (l1DropAll_canon hu)))) _ h)

end

@[simp] theorem engWriteMem_canon {s : State} {core : Nat} {t : Trans} {fuel off n x : Nat}
    (h : Memory.wf s.mem.bytes = true) : Memory.wf (s.engWriteMem core t fuel off n x).mem.bytes = true := by
  induction fuel generalizing s off n x with
  | zero => exact h
  | succ fuel ih =>
    rw [State.engWriteMem]
    exact ite_canon h (ih (writePa_canon (insertSig_canon (l1DropAll_canon h))))

@[simp] theorem engWriteHost_canon {s : State} {core pa : Nat} {d : EngData} {fuel off : Nat}
    (h : Memory.wf s.mem.bytes = true) : Memory.wf (s.engWriteHost core pa d fuel off).mem.bytes = true := by
  induction fuel generalizing s off with
  | zero => exact h
  | succ fuel ih =>
    rw [State.engWriteHost]
    exact ite_canon h (ih (hostStore_canon h))

section
variable {s : State} (h : Memory.wf s.mem.bytes = true)
include h

@[simp] theorem engWriteAt_canon {core : Nat} {t : Trans} {d : EngData} {spoil : Bool} :
    Memory.wf (s.engWriteAt core t d spoil).mem.bytes = true := by
  unfold State.engWriteAt
  split
  · exact h
  · exact engWriteHost_canon h
  · exact ite_canon (engSpoil_canon h) (foldl_canon (fun _ _ hu => poisonRange_canon hu) _ (engWriteMem_canon h))

@[simp] theorem engWriteSp_canon {c : Nat} {d : EngData} {spoil : Bool} :
    Memory.wf (s.engWriteSp c d spoil).mem.bytes = true :=
  ite_canon (spPoisonRange_canon h) (foldl_canon (fun _ _ hu => spPoisonRange_canon hu) _ (spStore_canon h))

theorem engPlace_ends {o : EngOp} {side : Nat} {a : Int} {n : Nat} : Ends CanonSnd (s.engPlace o side a n) :=
  .ite (fun _ => .bind spRow_ends fun _ _ => .pure h) fun _ => .bind (translate_ends h) fun ⟨_, _⟩ hu => .pure hu

theorem engFrom_ends {o : EngOp} {side : Nat} {a : Int} {n : Nat} : Ends CanonSnd (s.engFrom o side a n) :=
  .ite (fun _ => .bind spRow_ends fun _ _ => .pure h) fun _ => engRead_ends h

theorem engReady_ends {id n : Nat} {l : LandLoc} : Ends CanonState (s.engReady id n l) := by
  unfold State.engReady
  split
  · split
    · exact .ok h
    · exact .ite (fun _ => .error h) fun _ => .ok h
    · exact homesReady_ends h
  · exact .ok h

@[simp] theorem engTo_canon {o : EngOp} {l : LandLoc} {d : EngData} : Memory.wf (s.engTo o l d).mem.bytes = true := by
  unfold State.engTo
  split <;> simp [h]

@[simp] theorem countRefused_canon {die n : Nat} : Memory.wf (s.countRefused die n).mem.bytes = true := by
  unfold State.countRefused
  split <;> simp [h]

@[simp] theorem engPiece_canon {o : EngOp} {dst : LandLoc} {d : EngData} {a row n off : Nat} :
    Memory.wf (s.engPiece o dst d a row n off).1.mem.bytes = true := by
  unfold State.engPiece
  dsimp only
  split
  · refine foldl_canon_of (g := Prod.fst) (fun x p hx => ?_) _ h
    split
    · exact ite_canon (countRefused_canon hx) hx
    · exact engTo_canon hx
  · exact engTo_canon h

/-! ### Copies and gathers -/

theorem copyPiece_ends {o : EngOp} : Ends CanonSnd (s.copyPiece o) := by
  refine .ite (fun _ => .pure h) fun _ => .bind (landAt_ends h) fun ⟨_, _⟩ hl => .bind (engFrom_ends hl) fun ⟨_, _⟩ hf =>
    .bind (engPlace_ends hf) fun ⟨_, _⟩ hp => .ite (fun _ => .pure hp) fun _ => .bind (engReady_ends hp) fun _ hr => ?_
  exact .pure (landSectors_canon (engPiece_canon (engHostDone_canon hr)))

end

theorem condRead_ends {s : State} {o : EngOp} {l : List (Nat × Nat × Nat)} (h : Memory.wf s.mem.bytes = true) :
    Ends CanonSnd (s.condRead o l) := by
  induction l generalizing s with
  | nil => exact .ok h
  | cons p rest ih => exact .bind (engFrom_ends h) fun ⟨_, _⟩ hu => .bind (ih hu) fun ⟨_, _⟩ ht => .pure ht

theorem condPlaces_ends {s : State} {o : EngOp} {l : List (Nat × Nat × Nat)} (h : Memory.wf s.mem.bytes = true) :
    Ends CanonSnd (s.condPlaces o l) := by
  induction l generalizing s with
  | nil => exact .ok h
  | cons p rest ih =>
    exact .bind (engPlace_ends h) fun ⟨_, _⟩ hu => .bind (engReady_ends hu) fun _ hv => .bind (ih hv)
      fun ⟨_, _⟩ ht => .pure ht

section
variable {s : State} (h : Memory.wf s.mem.bytes = true)
include h

theorem versionAt_ends {o : EngOp} : Ends CanonSnd (s.versionAt o) :=
  .ite (fun _ => .bind spCell_ends fun _ _ => .pure h) fun _ => .bind (translate_ends h) fun ⟨_, _⟩ hu => .pure hu

theorem condCopy_ends {o : EngOp} : Ends CanonSnd (s.condCopy o) := by
  refine .ite (fun _ => .pure h) fun _ => .bind (landAt_ends h) fun ⟨_, _⟩ hl => .bind (condRead_ends hl) fun ⟨_, _⟩ hd =>
    .ite (fun _ => .pure hd) fun _ => .bind (versionAt_ends hd) fun ⟨ver, _⟩ hv => .bind (condPlaces_ends hv) fun ⟨_, _⟩ hp =>
    .bind (engReady_ends hp) fun u hr => ?_
  have hread := landRead_canon (core := o.core) (l := ver) (n := 8) (engHostDone_canon (id := o.id) hr)
  refine .ite (fun _ => .pure hread) fun _ => .pure (landSectors_canon (landWrite_canon ?_))
  refine foldl_canon_of (g := Prod.fst) (fun a x ha => ?_) _ hread
  exact engPiece_canon ha

theorem gatherRow_ends {o : EngOp} : Ends CanonSnd (s.gatherRow o) := by
  refine .ite (fun _ => .pure h) fun _ => .bind (landAt_ends h) fun ⟨_, _⟩ hl => .bind spCell_ends fun _ _ =>
    .bind spCell_ends fun _ _ => .ite (fun _ => .pure (landSectors_canon (engWriteSp_canon hl))) fun _ => ?_
  refine .ite_bind (fun _ => .ok hl) (fun _ => engRead_ends hl) fun ⟨d, u⟩ hu => .ite (fun _ => .pure hu) fun _ => ?_
  exact .ite (fun _ => .pure (engHostDone_canon hu)) fun _ => .pure (landSectors_canon (engWriteSp_canon
    (engHostDone_canon hu)))

/-! ### The ends of an engine's operations -/

@[simp] theorem setOp_canon {o : EngOp} : Memory.wf (s.setOp o).mem.bytes = true := h

@[simp] theorem dropOp_canon {o : EngOp} : Memory.wf (s.dropOp o).mem.bytes = true := by
  unfold State.dropOp
  simp [h]

@[simp] theorem passFence_canon {id : Nat} : Memory.wf (s.passFence id).mem.bytes = true := by
  unfold State.passFence
  dsimp only
  split <;> simp [h]

end

@[simp] theorem engStop_canon {s : State} {o : EngOp} {e : Stop} (h : Memory.wf s.mem.bytes = true) (he : e.Canon) :
    Memory.wf (s.engStop o e).mem.bytes = true := by
  induction e generalizing s with
  | fault k reason level va => exact setOp_canon (joinFault_canon h)
  | park p t => exact he
  | late t e ih => exact ih he.1 he.2
  | _ => exact h

section
variable {s : State} (h : Memory.wf s.mem.bytes = true)
include h

@[simp] theorem endOp_canon {o : EngOp} : Memory.wf (s.endOp o).mem.bytes = true := by
  have hland := landAt_ends (gi := o.wg) (ctx := o.ctx) (core := o.core) (x := o.land) (w := o.who) (kind := .copyWrite) h
  unfold State.endOp
  generalize s.landAt o.wg o.ctx o.core o.land o.who .copyWrite = r at hland
  cases hland with
  | ok hu => exact dropOp_canon (lateStatus_canon (landUpdate_canon hu))
  | @error e he =>
    cases e with
    | park p t => exact he
    | _ => exact ite_canon (dropOp_canon h) (engStop_canon h he)

theorem engDo_canon {o : EngOp} {r : Except Stop (EngNext × State)} (hr : Ends CanonSnd r) :
    Memory.wf (s.engDo o r).mem.bytes = true := by
  cases hr with
  | @ok r hr =>
    obtain ⟨next, t⟩ := r
    cases next with
    | more o' => exact setOp_canon hr
    | wait => exact hr
    | finish o' => exact endOp_canon hr
  | @error e he =>
    cases e with
    | fault k reason level va => exact ite_canon (endOp_canon h) (engStop_canon h he)
    | _ => exact engStop_canon h he

end
end State

section
variable {s : State} (h : Memory.wf s.mem.bytes = true)
include h

theorem execGatherOperation_canon {core : Nat} : OutCanon (execGatherOperation core s) := by
  refine .next ?_
  split
  · exact h
  · refine ite_canon h ?_
    split
    · exact passFence_canon h
    · exact engDo_canon h (gatherRow_ends h)
    · exact endOp_canon h

end

/-! ### What arrives at an IO die -/

namespace State

section
variable {s : State} (h : Memory.wf s.mem.bytes = true)
include h

theorem ioTranslate_ends {ctx die : Nat} {kind : AccKind} {p : Perm} {va : Nat} :
    Ends CanonSnd (s.ioTranslate ctx die kind p va) := by
  have htrans := translate_ends (w := ioWho ctx die) (kind := kind) (p := p) (tid := false) (va := BitVec.ofNat 64 va) h
  unfold State.ioTranslate
  dsimp only
  generalize s.translate (ioWho ctx die) kind p false (BitVec.ofNat 64 va) = r at htrans
  cases htrans with
  | ok hu => exact .ite (fun _ => .ok hu) fun _ => .error trivial
  | @error e he =>
    cases e with
    | fault => exact .error trivial
    | _ => exact .error he

theorem ioHeld_canon {ctx die : Nat} {kind : AccKind} {p : Perm} {va n : Nat} {t : State}
    (ht : s.ioHeld ctx die kind p va n = some t) : Memory.wf t.mem.bytes = true := by
  have htrans := ioTranslate_ends (ctx := ctx) (die := die) (kind := kind) (p := p) (va := va) h
  unfold State.ioHeld at ht
  generalize s.ioTranslate ctx die kind p va = r at htrans ht
  cases htrans with
  | @error e he =>
    cases e with
    | park _ u => cases ht; exact he
    | _ => cases ht
  | @ok r hr =>
    obtain ⟨tr, u⟩ := r
    have hready := homesReady_ends (pa := tr.pa) (n := n) (c := 128) (write := p != .r) hr
    dsimp only at ht
    generalize u.homesReady tr.pa n 128 (p != .r) = r at hready ht
    cases hready with
    | ok hv => cases ht
    | @error e he =>
      cases e with
      | park _ u => cases ht; exact he
      | _ => cases ht

@[simp] theorem logWrite_canon {p : Nat} {b : LogBlock} {x : Inbound} : Memory.wf (s.logWrite p b x).mem.bytes = true :=
  (s.logWrite_background _ _ _).wf h

@[simp] theorem flushLogs_canon {x1 : List Inbound} : Memory.wf (s.flushLogs x1).mem.bytes = true :=
  (s.flushLogs_background _).wf h

@[simp] theorem logFault_canon {x : Inbound} : Memory.wf (s.logFault x).2.mem.bytes = true := by
  unfold State.logFault
  dsimp only
  split
  · exact logEvent_canon h
  · exact ite_snd_canon (logWrite_canon h) (withFab_canon h)

@[simp] theorem landLine_canon {die : Nat} {x : Inbound} : Memory.wf (s.landLine die x).2.mem.bytes = true := by
  have htrans := ioTranslate_ends (ctx := x.ctx) (die := die) (kind := .write) (p := .w) (va := x.va) h
  unfold State.landLine
  generalize s.ioTranslate x.ctx die .write .w x.va = r at htrans
  cases htrans with
  | ok hu => exact writeLine_canon hu
  | @error e he =>
    cases e with
    | fault k reason level va =>
      have hlog : CanonSnd (if reason ≤ 2 then s.logFault { x with reason := reason } else (.refused, s)) :=
        ite_snd_canon (logFault_canon h) h
      dsimp only
      generalize (if reason ≤ 2 then s.logFault { x with reason := reason } else (.refused, s)) = r at hlog
      split
      · exact countRefused_canon hlog
      · exact hlog
    | _ => exact countRefused_canon h

@[simp] theorem ackWrite_canon {id peer : Nat} {bulk : Option (Nat × Nat × Nat)} {code : Nat} :
    Memory.wf (s.ackWrite id peer bulk code).mem.bytes = true := by
  unfold State.ackWrite
  dsimp only
  (repeat' split) <;> simp [h]

@[simp] theorem inRemote_canon {x : InRemote} : Memory.wf (s.inRemote x).mem.bytes = true := by
  have htrans := ioTranslate_ends (ctx := x.ctx) (die := ioDie x.id x.peer) (kind := remKind x.op)
    (p := remNeeds x.op) (va := x.va) h
  unfold State.inRemote
  dsimp only
  generalize s.ioTranslate x.ctx (ioDie x.id x.peer) (remKind x.op) (remNeeds x.op) x.va = r at htrans
  cases htrans with
  | @ok r hu =>
    obtain ⟨t, u⟩ := r
    refine ite_canon (send_canon hu) (send_canon ?_)
    have hhome : Memory.wf (if x.op = .load then u.homeLoad (t.pa / 128) else u.homeTake (t.pa / 128)).mem.bytes = true :=
      ite_canon (homeLoad_canon hu) (homeTake_canon hu)
    split
    · exact writePa_canon hhome
    · exact hhome
  | @error e he =>
    cases e with
    | fault k reason level va => exact ite_canon (withFab_canon (joinFault_canon h)) (send_canon h)
    | check r => exact send_canon h
    | _ => exact h

theorem remHeld_canon {id peer ctx va : Nat} {op : RemOp} {size : Nat} {t : State}
    (ht : s.remHeld id peer ctx va op size = some t) : Memory.wf t.mem.bytes = true :=
  ioHeld_canon h ht

@[simp] theorem answerRequest_canon {id : Nat} {x2 : RemAnswer} : Memory.wf (s.answerRequest id x2).mem.bytes = true := h

@[simp] theorem ackLog_canon {r : LogRec} {code : Nat} : Memory.wf (s.ackLog r code).mem.bytes = true := by
  unfold State.ackLog
  simp [h]

@[simp] theorem readDone_canon {part : Nat} : Memory.wf (s.readDone part).mem.bytes = true := by
  unfold State.readDone
  split
  · exact h
  · exact flushLogs_canon (foldl_canon (fun _ _ hu => ackLog_canon hu) _ h)

end
end State

section
variable {s : State} (h : Memory.wf s.mem.bytes = true)
include h

theorem execInboundLineWrite_canon {id peer srcPart ctx lease va : Nat} {data : BitVec 1024} {mask : BitVec 128}
    {release : Bool} : OutCanon (execInboundLineWrite id peer srcPart ctx lease va data mask release s) := by
  refine .next (ite_canon (ackWrite_canon (countRefused_canon h)) (ite_canon (defer_canon h) ?_))
  split
  next ht => exact ioHeld_canon h ht
  · have hland := landLine_canon (die := ioDie id peer)
      (x := { id := id, peer := peer, ctx := ctx, va := va / 128 * 128, data := data, mask := mask,
              kind := release.toNat, reason := 0, tick := s.tick, bulk := none }) h
    split
    next heq => exact ackWrite_canon (canon_of_eq heq hland)
    next heq => exact ackWrite_canon (canon_of_eq heq hland)
    next heq => exact canon_of_eq heq hland

theorem execInboundRemoteAccess_canon {id peer srcPart ctx lease va : Nat} {op : RemOp} {size : Nat} {x y : BitVec 64} :
    OutCanon (execInboundRemoteAccess id peer srcPart ctx lease va op size x y s) := by
  refine .next (ite_canon (send_canon h) (ite_canon (defer_canon h) ?_))
  split
  next ht => exact remHeld_canon h ht
  · exact inRemote_canon h

theorem execRemoteFaultTimeout_canon {id peer : Nat} : OutCanon (execRemoteFaultTimeout id peer s) := by
  refine .next ?_
  split
  · exact ite_canon (send_canon (withFab_canon h)) h
  · exact h

theorem execRemoteResponse_canon {id reason detail : Nat} {data : BitVec 64} :
    OutCanon (execRemoteResponse id reason detail data s) :=
  .next (ite_canon h (answerRequest_canon h))

theorem execRemoteTimeout_canon {id : Nat} : OutCanon (execRemoteTimeout id s) := .next (ite_canon (answerRequest_canon h) h)

theorem execLineWriteAck_canon {id code : Nat} : OutCanon (execLineWriteAck id code s) := by
  refine .next ?_
  split
  · exact h
  · exact answerRequest_canon (ite_canon (withFab_canon h) (aer_canon (withFab_canon h)))

theorem execWriteCombiningDrain_canon {core : Nat} : OutCanon (execWriteCombiningDrain core s) := .next (drainAll_canon h)

theorem execDone_canon {part : Nat} : OutCanon (execDone part s) := .next (readDone_canon h)

theorem execStoreFaultTimeout_canon {part seq : Nat} : OutCanon (execStoreFaultTimeout part seq s) := by
  refine .next ?_
  split
  · exact ite_canon (ackLog_canon (readDone_canon h)) (readDone_canon h)
  · exact readDone_canon h

theorem execStoreFaultLogFullTimeout_canon {id peer : Nat} : OutCanon (execStoreFaultLogFullTimeout id peer s) := by
  have hflush := flushLogs_canon (x1 := s.fab.logWait) h
  refine .next ?_
  split
  · exact ite_canon (ackWrite_canon (withFab_canon hflush)) hflush
  · exact hflush

end
end Sys2Proof.Machine
end

section
/-! PROOFS. Memory stays in its canonical form: bulk transfers at sender and receiver. -/

namespace Sys2Proof.Machine

open State

namespace State

theorem withXlat_canon {s : State} {x : Xlat} (h : Memory.wf s.mem.bytes = true) :
    Memory.wf ({ s with xlat := x } : State).mem.bytes = true := h

section
variable {s : State} (h : Memory.wf s.mem.bytes = true)
include h

/-! ### The sender -/

@[simp] theorem setSend_canon {x : BulkSend} : Memory.wf (s.setSend x).mem.bytes = true := h

@[simp] theorem dropSend_canon {id : Nat} : Memory.wf (s.dropSend id).mem.bytes = true := h

theorem sendLand_canon {x : BulkSend} {f : State → LandLoc → State}
    (hf : ∀ u l, Memory.wf u.mem.bytes = true → Memory.wf (f u l).mem.bytes = true) :
    Memory.wf (s.sendLand x f).mem.bytes = true := by
  have hland := landAt_ends (gi := x.wg) (ctx := x.ctx) (core := x.core) (x := x.land) (w := x.who) (kind := .copyWrite) h
  unfold State.sendLand
  generalize s.landAt x.wg x.ctx x.core x.land x.who .copyWrite = r at hland
  cases hland with
  | ok hu => exact hf _ _ hu
  | error _ => exact h

theorem sendReach_ends {x : BulkSend} : Ends CanonState (s.sendReach x) := by
  have hland := landAt_ends (gi := x.wg) (ctx := x.ctx) (core := x.core) (x := x.land) (w := x.who) (kind := .copyWrite) h
  unfold State.sendReach
  refine .ite (fun _ => .error h) fun _ => ?_
  generalize s.landAt x.wg x.ctx x.core x.land x.who .copyWrite = r at hland
  cases hland with
  | ok hu => exact .ok h
  | @error e he =>
    cases e with
    | fault => exact .error trivial
    | park p t => exact .error he
    | _ => exact .ok h

@[simp] theorem sendSectors_canon {x : BulkSend} {a b : Nat} : Memory.wf (s.sendSectors x a b).mem.bytes = true :=
  ite_canon h (sendLand_canon h fun _ _ hu => landSectors_canon hu)

@[simp] theorem sendArrive_canon {x : BulkSend} {st : BitVec 16} : Memory.wf (s.sendArrive x st).mem.bytes = true :=
  lateStatus_canon (sendLand_canon h fun _ _ hu => landUpdate_canon hu)

@[simp] theorem sendError_canon {x : BulkSend} {left kind : Nat} :
    Memory.wf (s.sendError x left kind).mem.bytes = true := by
  unfold State.sendError
  simp [h]

end

theorem sendParts_ends {s : State} {x : BulkSend} {old : Bool} {l : List (Nat × Nat)} {d : EngData}
    (h : Memory.wf s.mem.bytes = true) : Ends CanonSnd (s.sendParts x old l d) := by
  induction l generalizing s d with
  | nil => exact .ok h
  | cons p rest ih =>
    obtain ⟨a, n⟩ := p
    rw [State.sendParts]
    have hu : Memory.wf (if old then { s with xlat := { s.xlat with heldBy := [] } } else s : State).mem.bytes = true :=
      ite_canon (withXlat_canon h) h
    dsimp only
    have htrans := translate_ends (w := x.who) (kind := .copyRead) (p := .r) (tid := false) (va := BitVec.ofNat 64 a) hu
    generalize State.translate _ x.who .copyRead .r false (BitVec.ofNat 64 a) = r at htrans
    cases htrans with
    | ok ht => exact ih (engReadAt_canon (withXlat_canon ht))
    | @error e he =>
      cases e with
      | park p t => exact .error h
      | _ => exact .error he

section
variable {s : State} (h : Memory.wf s.mem.bytes = true)
include h

theorem sendRead_ends {x : BulkSend} {old : Bool} {off n : Nat} : Ends CanonSnd (s.sendRead x old off n) :=
  .bind (sendParts_ends h) fun ⟨_, _⟩ hu => .ite (fun _ => .error hu) fun _ => .pure (engHostDone_canon hu)

theorem prefixRead_ends {x : BulkSend} {n : Nat} : Ends CanonSnd (s.prefixRead x n) := by
  have hread := sendRead_ends (x := x) (old := false) (off := 0) (n := n) h
  have hold := sendRead_ends (x := x) (old := true) (off := 0) (n := n) h
  rw [State.prefixRead]
  generalize s.sendRead x false 0 n = r at hread
  generalize s.sendRead x true 0 n = q at hold
  cases hread with
  | ok hu => exact .ok hu
  | @error e he =>
    cases e with
    | fault k reason level va =>
      cases hold with
      | ok hu => exact .ite (fun _ => .ok (free_canon (f := Config.freeChoice) hu)) fun _ => .error trivial
      | error _ => exact .error trivial
    | _ => exact .error he

end

@[simp] theorem sendStop_canon {s : State} {x : BulkSend} {e : Stop} (h : Memory.wf s.mem.bytes = true) (he : e.Canon) :
    Memory.wf (s.sendStop x e).mem.bytes = true := by
  induction e generalizing s with
  | fault k reason level va => exact ite_canon (dropSend_canon (sendArrive_canon h)) (setSend_canon (joinFault_canon h))
  | park p t => exact setSend_canon he
  | late t e ih => exact ih he.1 he.2
  | _ => exact h

section
variable {s : State} (h : Memory.wf s.mem.bytes = true)
include h

theorem sendEvent_canon {x : BulkSend} {go : State} (hgo : Memory.wf go.mem.bytes = true) :
    Memory.wf (s.sendEvent x go).mem.bytes = true := by
  unfold State.sendEvent
  split
  · exact hgo
  · exact ite_canon h (sendStop_canon h trivial)
  · exact h

@[simp] theorem sendEgress_canon {x : BulkSend} : Memory.wf (s.sendEgress x).mem.bytes = true :=
  ite_canon h (setSend_canon (sendArrive_canon (countRefused_canon h)))

theorem sendPrefix_ends {x : BulkSend} : Ends CanonState (s.sendPrefix x) := by
  refine .ite_bind (fun _ => .ok h) (fun _ => prefixRead_ends h) fun ⟨d, u⟩ hu => ?_
  have hsend {y : BulkSend} {m : Msg} : Memory.wf ((u.setSend y).send m).mem.bytes = true := send_canon (setSend_canon hu)
  dsimp only
  exact .ite (fun _ => .bind (sendReach_ends hu) fun _ _ => .pure (ite_canon hsend (sendEgress_canon hsend))) fun _ =>
    .pure (ite_canon hsend (sendEgress_canon hsend))

@[simp] theorem serveToken_canon {x : BulkSend} {req : TokenRef} {off n : Nat} {old : Bool} :
    Memory.wf (s.serveToken x req off n old).mem.bytes = true := by
  have hread := sendRead_ends (x := x) (old := old) (off := off) (n := n) h
  rw [State.serveToken]
  generalize s.sendRead x old off n = r at hread
  cases hread with
  | error he => exact sendStop_canon h he
  | @ok r hr =>
    obtain ⟨d, t⟩ := r
    have hreach : Ends CanonState (if (x.out d).kept.isEmpty then .ok t else t.sendReach x) :=
      .ite (fun _ => .ok hr) fun _ => sendReach_ends hr
    dsimp only
    generalize (if (x.out d).kept.isEmpty then .ok t else t.sendReach x : Except Stop State) = r at hreach
    cases hreach with
    | error he => exact sendStop_canon hr he
    | ok hu =>
      have hset {y : BulkSend} := setSend_canon (x := y) hu
      have hsent {c : Prop} [Decidable c] {y : BulkSend} {m : Msg} := ite_canon (c := c) (hset (y := y)) (send_canon
        (m := m) (hset (y := y)))
      exact ite_canon hsent (sendEgress_canon hsent)

@[simp] theorem bulkStart_canon {o : EngOp} : Memory.wf (s.bulkStart o).mem.bytes = true := by
  unfold State.bulkStart
  extract_lets r opt x p
  have hdrop : Memory.wf (((s.dropOp o).sendArrive x stRefused).sendError x x.total 6).mem.bytes = true :=
    sendError_canon (sendArrive_canon (dropOp_canon h))
  refine ite_canon ?_ ?_
  · split
    · exact ite_canon hdrop (engStop_canon h trivial)
    · exact h
    · exact hdrop
  · have hprefix := sendPrefix_ends (x := x)
      (withFab_canon (f := { s.fab with nextId := s.fab.nextId + 1, sends := s.fab.sends ++ [x] }) h)
    dsimp only at hprefix ⊢
    generalize
      ({ s with fab := { s.fab with nextId := s.fab.nextId + 1, sends := s.fab.sends ++ [x] } } : State).sendPrefix x = r
      at hprefix
    cases hprefix with
    | ok ht => exact dropOp_canon ht
    | @error e he =>
      cases e with
      | fault k reason level va => exact ite_canon (endOp_canon h) (setOp_canon (joinFault_canon h))
      | park p t => exact dropSend_canon he
      | _ => exact h

end
end State

section
variable {s : State} (h : Memory.wf s.mem.bytes = true)
include h

theorem execCopyQueueOperation_canon {core q : Nat} : OutCanon (execCopyQueueOperation core q s) := by
  refine .next ?_
  split
  · split
    · exact serveToken_canon h
    · exact h
  · refine ite_canon h ?_
    split
    · exact h
    · refine ite_canon h ?_
      split
      · exact passFence_canon h
      · exact engDo_canon h (copyPiece_ends h)
      · exact engDo_canon h (condCopy_ends h)
      · exact bulkStart_canon h
      · exact endOp_canon h

theorem execBulkRequestRetry_canon {send : Nat} : OutCanon (execBulkRequestRetry send s) := by
  refine .next ?_
  split
  next x _ =>
    refine ite_canon h ?_
    split
    · exact setSend_canon h
    · refine ite_canon ?_ h
      have hprefix := sendPrefix_ends (x := x) h
      generalize s.sendPrefix x = r at hprefix
      cases hprefix with
      | ok ht => exact ht
      | error he => exact sendStop_canon h he
  · exact h

theorem execTokenArrival_canon {send : Nat} {req : TokenRef} {off n : Nat} {old : Bool} :
    OutCanon (execTokenArrival send req off n old s) := by
  refine .next ?_
  split
  · exact ite_canon (setSend_canon h) (ite_canon (setSend_canon h) (serveToken_canon h))
  · exact h

theorem execTokenAcknowledgement_canon {send req off n code : Nat} : OutCanon
    (execTokenAcknowledgement send req off n code s) := by
  refine .next ?_
  split
  · have hsectors {y : BulkSend} {a b : Nat} := sendSectors_canon (x := y) (a := a) (b := b) (setSend_canon (x := y) h)
    exact ite_canon (sendEvent_canon h (ite_canon (dropSend_canon hsectors) hsectors)) (aer_canon (setSend_canon h))
  · exact h

theorem execFinalAcknowledgement_canon {send : Nat} : OutCanon (execFinalAcknowledgement send s) := by
  refine .next ?_
  split
  · exact ite_canon (ite_canon (dropSend_canon h) h) (sendEvent_canon h (ite_canon (dropSend_canon (sendArrive_canon h))
      (setSend_canon (sendArrive_canon h))))
  · exact h

theorem execFinalResponse_canon {send left : Nat} {orphaned : Bool} : OutCanon (execFinalResponse send left orphaned s) := by
  refine .next ?_
  split
  · exact ite_canon (dropSend_canon h) (sendEvent_canon h (dropSend_canon (sendError_canon (sendArrive_canon
      (sendSectors_canon h)))))
  · exact h

end

/-! ### The receiver -/

namespace State

section
variable {s : State} (h : Memory.wf s.mem.bytes = true)
include h

@[simp] theorem setReq_canon {r : BulkReq} : Memory.wf (s.setReq r).mem.bytes = true := h

@[simp] theorem dropReq_canon {num : Nat} : Memory.wf (s.dropReq num).mem.bytes = true := h

@[simp] theorem refuseReq_canon {r : BulkReq} : Memory.wf (s.refuseReq r).mem.bytes = true := h

theorem rxPlace_ends {r : BulkReq} {p : Perm} {va n : Nat} : Ends CanonSnd (s.rxPlace r p va n) :=
  .bind (ioTranslate_ends h) fun ⟨_, _⟩ hu => .bind (homesReady_ends hu) fun _ hv => .pure hv

theorem rxUpdate_ends {r : BulkReq} {f : LandWord → LandWord} : Ends CanonState (s.rxUpdate r f) := by
  unfold State.rxUpdate
  split
  · exact .ok h
  · exact .bind (rxPlace_ends h) fun ⟨_, _⟩ hu => .pure (writePa_canon hu)

theorem storeFlag_ends {r : BulkReq} : Ends CanonState (s.storeFlag r) := by
  unfold State.storeFlag
  split
  · exact .ok h
  · exact .bind (rxPlace_ends h) fun ⟨_, _⟩ hu => .pure (writePa_canon hu)

theorem reqStop_canon {r : BulkReq} {e : Stop} (he : e.Canon) : Memory.wf (s.reqStop r e).mem.bytes = true := by
  cases e with
  | fault k reason level va => exact ite_canon (setReq_canon (joinFault_canon h)) (refuseReq_canon h)
  | park p t => exact setReq_canon he
  | _ => exact setReq_canon h

@[simp] theorem completeReq_canon {r : BulkReq} : Memory.wf (s.completeReq r).mem.bytes = true := by
  have hflag := storeFlag_ends (r := r) h
  unfold State.completeReq
  generalize s.storeFlag r = x at hflag
  cases hflag with
  | error he => exact reqStop_canon h he
  | @ok t ht =>
    have hland := rxUpdate_ends (r := r) (f := fun w => w.arrive 0) ht
    dsimp only
    generalize t.rxUpdate r (fun w => w.arrive 0) = x at hland
    cases hland with
    | error he => exact reqStop_canon ht he
    | ok hu => exact setReq_canon (send_canon hu)

end

theorem landPages_ends {s : State} {ctx die : Nat} {d : EngData} {l : List (Nat × Nat)} {off : Nat}
    (h : Memory.wf s.mem.bytes = true) : Ends CanonState (s.landPages ctx die d l off) := by
  induction l generalizing s off with
  | nil => exact .ok h
  | cons p rest ih =>
    obtain ⟨a, n⟩ := p
    refine .bind (ioTranslate_ends h) fun ⟨_, _⟩ hu => ih ?_
    exact foldl_canon (fun _ _ hv => poisonRange_canon hv) _ (writeRun_canon hu)

@[simp] theorem landPrefix_canon {s : State} {r : BulkReq} {d : EngData} {bad : Bool} {l : List (Nat × Nat)}
    (h : Memory.wf s.mem.bytes = true) : Memory.wf (s.landPrefix r d bad l).2.mem.bytes = true := by
  induction l generalizing s bad with
  | nil => exact h
  | cons p rest ih =>
    obtain ⟨a, n⟩ := p
    rw [State.landPrefix]
    split
    next t heq =>
      have ht := canon_of_eq heq (landLine_canon h)
      refine ih (ackWrite_canon ?_)
      have htrans := ioTranslate_ends (ctx := r.ctx) (die := r.die) (kind := .write) (p := .w) (va := a) ht
      generalize t.ioTranslate r.ctx r.die .write .w a = y at htrans
      cases htrans with
      | ok hu => exact foldl_canon (fun _ _ hv => poisonRange_canon hv) _ hu
      | error _ => exact ht
    next t heq => exact ih (send_canon (canon_of_eq heq (landLine_canon h)))
    next t heq => exact ih (canon_of_eq heq (landLine_canon h))

section
variable {s : State} (h : Memory.wf s.mem.bytes = true)
include h

@[simp] theorem refusePrefix_canon {send peer dest len : Nat} :
    Memory.wf (s.refusePrefix send peer dest len).mem.bytes = true := by
  unfold State.refusePrefix
  refine foldl_canon (fun _ _ h => ?_) _ h
  simp [h]

theorem anyHeldBack_canon {ctx die : Nat} {kind : AccKind} {l : List (Nat × Nat)} {t : State}
    (ht : s.anyHeldBack ctx die kind l = some t) : Memory.wf t.mem.bytes = true := by
  induction l with
  | nil => cases ht
  | cons p rest ih =>
    obtain ⟨a, n⟩ := p
    rw [State.anyHeldBack] at ht
    split at ht
    next heq =>
      cases ht
      exact ioHeld_canon h heq
    · exact ih ht

@[simp] theorem freeAnswered_canon : Memory.wf s.freeAnswered.mem.bytes = true := by
  unfold State.freeAnswered
  split
  · have hfree := free_canon (f := Config.freeChoice) h
    exact ite_canon (dropReq_canon hfree) hfree
  · exact h

@[simp] theorem grantToken_canon {r : BulkReq} : Memory.wf (s.grantToken r).mem.bytes = true := by
  unfold State.grantToken
  split
  · exact h
  · have hlast := withFab_canon (f := { s.fab with lastPeer := Tab.set 512 s.fab.lastPeer r.level r.peer }) h
    extract_lets len _ u walk
    have hwalk : Ends CanonState walk := by
      refine .foldl (fun x p hx => ?_) _ (.ok hlast)
      cases hx with
      | ok hu => exact (ioTranslate_ends hu).map fun _ hv => hv
      | error he => exact .error he
    clear_value walk
    cases hwalk with
    | error he => exact reqStop_canon hlast he
    | ok ht => exact send_canon (setReq_canon (withFab_canon (free_canon (f := tokenPlanes) ht)))

@[simp] theorem discard_canon {n : Nat} : Memory.wf (s.discard n).mem.bytes = true := h

@[simp] theorem answerOrphan_canon {r : BulkReq} : Memory.wf (s.answerOrphan r).mem.bytes = true := h

end
end State

section
variable {s : State} (h : Memory.wf s.mem.bytes = true)
include h

theorem execBulkRequest_canon {send peer srcPart ctx lease base dest total prio : Nat} {flag : Option (Nat × BitVec 64)}
    {rxLand : Option Nat} {len data : Nat} {poison : List (Nat × Nat)} :
    OutCanon (execBulkRequest send peer srcPart ctx lease base dest total prio flag rxLand len data poison s) := by
  refine .next (ite_canon (send_canon h) (ite_canon (send_canon (refusePrefix_canon h)) (ite_canon (defer_canon h) ?_)))
  split
  next ht => exact anyHeldBack_canon h ht
  · extract_lets head r _ u n r' v
    have hv : Memory.wf v.mem.bytes = true := setReq_canon (withFab_canon h)
    dsimp only
    have hland {d : EngData} {l : List (Nat × Nat)} := landPrefix_canon (r := r') (d := d) (bad := false) (l := l) hv
    split
    · exact ite_canon (refuseReq_canon hland) (ite_canon (completeReq_canon hland) hland)
    · exact hland

theorem execTokenGrant_canon : OutCanon (execTokenGrant s) := by
  refine .next ?_
  split
  · exact completeReq_canon (freeAnswered_canon h)
  · split
    · exact freeAnswered_canon h
    · exact ite_canon (freeAnswered_canon h) (grantToken_canon (freeAnswered_canon h))

theorem execTokenDataLand_canon {req : TokenRef} {off n data : Nat} {poison : List (Nat × Nat)} :
    OutCanon (execTokenDataLand req off n data poison s) := by
  refine .next ?_
  split
  · exact discard_canon h
  next r _ =>
    have hset {x : BulkReq} := setReq_canon (r := x) h
    refine ite_canon (defer_canon h) (ite_canon (answerOrphan_canon (discard_canon hset)) ?_)
    split
    · exact discard_canon hset
    · split
      next heq => exact anyHeldBack_canon hset heq
      · exact discard_canon hset
      next heq =>
        have hu := (landPages_ends hset).of_ok heq
        exact ite_canon (completeReq_canon (send_canon (setReq_canon hu))) (send_canon (setReq_canon hu))

theorem execTokenExpiry_canon {req off : Nat} : OutCanon (execTokenExpiry req off s) := by
  refine .next ?_
  split
  · exact h
  · split
    · exact h
    · exact ite_canon (setReq_canon h) h

theorem execOrphan_canon {req : Nat} : OutCanon (execOrphan req s) := by
  refine .next ?_
  split
  · exact h
  · split
    · exact h
    · refine ite_canon (aer_canon ?_) h
      split
      next heq => exact (rxUpdate_ends (setReq_canon h)).of_ok heq
      · exact setReq_canon h

theorem execAgePromotion_canon {req : Nat} : OutCanon (execAgePromotion req s) := by
  refine .next ?_
  split
  · exact h
  · exact ite_canon (setReq_canon h) h

theorem execPark_canon {req : Nat} : OutCanon (execPark req s) := by
  refine .next ?_
  split
  · exact h
  · exact ite_canon (setReq_canon h) (setReq_canon h)

theorem execResume_canon {req : Nat} : OutCanon (execResume req s) := by
  refine .next ?_
  split
  · exact h
  · split
    · exact setReq_canon h
    · exact answerOrphan_canon h
    · exact setReq_canon h

end
end Sys2Proof.Machine
end

section
/-! PROOFS. Memory stays in its canonical form: the homes, the registers, submissions, answers, synchronization and fetch. -/

namespace Sys2Proof.Machine

open State

theorem Ends.mapError {α : Type} {P : α → Prop} {x : Except Stop α} {f : Stop → Stop} (hx : Ends P x)
    (hf : ∀ e, e.Canon → (f e).Canon) : Ends P (x.mapError f) := by
  cases hx with
  | ok h => exact .ok h
  | error h => exact .error (hf _ h)

/-! ### Homes -/

namespace State

theorem served_canon {s : State} {k : State → State} {x : Except Stop State} (h : Memory.wf s.mem.bytes = true)
    (hk : ∀ t, Memory.wf t.mem.bytes = true → Memory.wf (k t).mem.bytes = true) (hx : Ends CanonState x) :
    Memory.wf (State.served k x s).mem.bytes = true := by
  cases hx with
  | ok ht => exact hk _ ht
  | @error e he =>
    cases e with
    | park p t => exact he
    | _ => exact h

section
variable {s : State} (h : Memory.wf s.mem.bytes = true)
include h

@[simp] theorem pastWatermark_canon {region : Nat} : Memory.wf (s.pastWatermark region).mem.bytes = true := by
  unfold State.pastWatermark
  simp [h]

@[simp] theorem unpark_canon {wakes : FaultKey → Bool} : Memory.wf (s.unpark wakes).mem.bytes = true := by
  unfold State.unpark
  refine foldl_canon (fun _ _ h => ?_) _ h
  simp [h]

@[simp] theorem freeFaults_canon {p : FaultEntry → Bool} : Memory.wf (s.freeFaults p).mem.bytes = true := by
  unfold State.freeFaults
  dsimp only
  split <;> simp [h]

@[simp] theorem flushAllFaults_canon : Memory.wf (s.flushAllFaults).mem.bytes = true :=
  (s.flushAllFaults_background).wf h

end
end State

section
variable {s : State} (h : Memory.wf s.mem.bytes = true)
include h

theorem execPageWalk_canon {die src ctx hold kind : Nat} {tensor : Bool} {va : BitVec 64} :
    OutCanon (execPageWalk die src ctx hold kind tensor va s) := by
  refine .next (ite_canon h ?_)
  split
  · exact ite_canon h (cacheWalk_canon (markUsed_canon h))
  · exact ite_canon h (joinFault_canon h)

theorem execTranslationInvalidation_canon {die line : Nat} : OutCanon (execTranslationInvalidation die line s) :=
  .next (ite_canon h (withXlat_canon h))

theorem execTrackedWritePerform_canon {line : Nat} : OutCanon (execTrackedWritePerform line s) := by
  refine .next ?_
  split
  next x _ =>
    have hperform := performWrite_canon (slice := x.slice) (line := line) (mask := x.mask) (data := x.data)
      (withXlat_canon (x := { s.xlat with heldWrites := s.xlat.heldWrites.erase x }) h)
    refine ite_canon ?_ h
    dsimp only
    split
    · exact send_canon hperform
    · exact hperform
  · exact h

theorem execHomeRead_canon {cluster line victim : Nat} : OutCanon (execHomeRead cluster line victim s) :=
  .next (ite_canon h (served_canon h (fun _ ht => homeRead_canon ht) (homeReady_ends h)))

theorem execHomeOwnership_canon {cluster line victim : Nat} : OutCanon (execHomeOwnership cluster line victim s) :=
  .next (ite_canon h (ite_canon (by exact h) (served_canon h (fun _ ht => homeOwn_canon ht) (homeReady_ends h))))

theorem execBisnpResponse_canon {line : Nat} : OutCanon (execBisnpResponse line s) := by
  refine .next ?_
  split
  · exact ite_canon (homeOwn_canon (by exact h)) h
  · exact h

theorem execCleanEvictionNotice_canon {cluster line : Nat} : OutCanon (execCleanEvictionNotice cluster line s) := by
  refine .next (ite_canon h ?_)
  split
  · exact leaveLine_canon h
  · exact h

theorem execOwnerWriteback_canon {cluster line : Nat} : OutCanon (execOwnerWriteback cluster line s) := by
  refine .next (ite_canon h ?_)
  split
  · exact leaveLine_canon h
  · exact h

theorem execInvalidation_canon {cluster line : Nat} : OutCanon (execInvalidation cluster line s) :=
  .next (ite_canon (leaveLine_canon h) h)

theorem execGrainRegister_canon {core pa : Nat} : OutCanon (execGrainRegister core pa s) := by
  refine .next ?_
  split
  · exact ite_canon (enterGrain_canon h) h
  · exact h

theorem execForcedClose_canon {core : Nat} : OutCanon (execForcedClose core s) := by
  refine .next (ite_canon (wakeIf_canon ?_) h)
  exact count_canon h

theorem execGrainClear_canon {core grain : Nat} : OutCanon (execGrainClear core grain s) := .next h

theorem execReplay_canon {part : Nat} : OutCanon (execReplay part s) := by
  refine .next ?_
  split
  · exact h
  · exact ite_canon (flushAllFaults_canon h) (flushAllFaults_canon (freeFaults_canon (withXlat_canon h)))

theorem execHostWindowResponse_canon {id : Nat} {data : BitVec 64} : OutCanon (execHostWindowResponse id data s) :=
  .next (dropAnswered_canon (withFab_canon h))

/-! ### Registers of a warp -/

theorem affineOp_canon {d : AReg} {srcs : List SReg} {f : Warp → Warp} : OutCanon (affineOp s d srcs f) :=
  scalarOp_canon h fun _ _ => .ok (modWarp_canon h)

end

namespace State

section
variable {s : State} (h : Memory.wf s.mem.bytes = true)
include h

@[simp] theorem modWg_canon {i : Nat} {f : Workgroup → Workgroup} : Memory.wf (s.modWg i f).mem.bytes = true := h

@[simp] theorem readCr_canon {w : Warp} {g : Workgroup} {c : Cr} : Memory.wf (s.readCr w g c).2.mem.bytes = true := by
  cases c with
  | perfCnt n => exact ite_snd_canon (setCore_canon (by exact h)) h
  | _ => exact h

theorem writeCr_ends {w : Warp} {g : Workgroup} {x : Word} {c : Cr} : Ends CanonState (s.writeCr w g x c) := by
  unfold State.writeCr
  split
  · exact .bind (.need h) fun _ _ => .pure (modWarp_canon h)
  · exact .bind (.need trivial) fun _ _ => .bind (.need h) fun _ _ => .pure (modWarp_canon h)
  · exact .ok (modWarp_canon h)
  · exact .ok (modWarp_canon h)
  · exact .ok (modWarp_canon h)
  · exact .bind (.need trivial) fun _ _ => .pure (modWg_canon h)
  · exact .bind (.need trivial) fun _ _ => .pure (modWg_canon h)
  · exact .ok (modWg_canon h)
  · exact .ok (modWg_canon h)
  · exact .ok (modWg_canon h)
  · exact .ok (modWg_canon h)
  · exact .ok (modWg_canon h)
  · exact .ok (setCore_canon h)
  · exact .error trivial

omit h in
theorem crCheck_ends {g : Workgroup} {crn : BitVec 12} {write : Bool} : Ends (fun _ => True) (s.crCheck g crn write) := by
  unfold State.crCheck
  split
  · exact .error trivial
  · exact .bind (.need trivial) fun _ _ => .bind (.need trivial) fun _ _ => .bind (.need trivial) fun _ _ => .pure trivial

end
end State

section
variable {s : State} (h : Memory.wf s.mem.bytes = true)
include h

variable {d a b : SReg}

theorem execMfcr_canon {crn : BitVec 12} : OutCanon (execMfcr d crn s) :=
  scalarOp_canon h fun _ _ => .bind crCheck_ends fun _ _ => .bind (.need h) fun _ _ => .bind (.need h) fun _ _ =>
    putS_ends (readCr_canon h)

theorem execMtcr_canon {crn : BitVec 12} : OutCanon (execMtcr d crn s) :=
  scalarOp_canon h fun _ _ => .bind crCheck_ends fun _ _ => writeCr_ends h

theorem execLaneRun_canon {loff : BitVec 20} : OutCanon (execLaneRun a loff s) :=
  scalarOp_canon h fun _ _ => .bind (.need h) fun _ _ => .pure (modWarp_canon h)

theorem execExit_canon : OutCanon (execExit s) :=
  controlOp_canon h fun _ _ => .bind (drained_ends h) fun _ hu => .pure (exitWarp_canon hu)

theorem execRegGrow_canon {n : Fin 4} : OutCanon (execRegGrow n s) := by
  refine controlOp_canon h fun w _ => .bind (.need trivial) fun _ _ => .bind (.need trivial) fun _ _ => .pure
    (modWarp_canon ?_)
  exact ite_canon h (withEng_canon h)

theorem execRegShrink_canon : OutCanon (execRegShrink s) := scalarOp_canon h fun _ _ => .ok (modWarp_canon h)

theorem execRegGrowGrant_canon {core : Nat} : OutCanon (execRegGrowGrant core s) := by
  unfold execRegGrowGrant
  split
  · exact .next h
  · split
    · exact .next h
    · exact .ite (.next (setWarp_canon (dropGrow_canon h))) (.next h)

theorem execStkChk_canon : OutCanon (execStkChk a s) := scalarOp_canon h fun _ _ => .bind (.need trivial) fun _ _ => .pure h

theorem execIpf_canon : OutCanon (execIpf a s) := scalarOp_canon h fun _ _ => .ok h

theorem execPfd_canon : OutCanon (execPfd a s) := by
  refine scalarOp_canon h fun w g => ?_
  extract_lets die
  split
  · exact .ok (ite_canon h (enterLines_canon h))
  next t _ =>
    have hwalk := cacheWalk_canon (die := die) (w := s.whoOf g) (va := w.sget a) (t := t) (markUsed_canon (t := t)
      (p := .r) h)
    refine .ite (fun _ => .ok h) fun _ => .ite (fun _ => .ok hwalk) fun _ => .ite (fun _ => .ok
      (sliceRead_canon hwalk)) fun _ =>
      .ite (fun _ => .ok hwalk) fun _ => .ok ?_
    exact foldl_canon (fun _ _ hu => ite_canon hu (l1Fill_canon hu)) _ (l1WriteBackAll_canon hwalk)

theorem execTrap_canon {n : BitVec 8} : OutCanon (execTrap n s) := controlOp_canon h fun _ _ => .ok (trap_canon h)

theorem execTrapRet_canon : OutCanon (execTrapRet s) :=
  controlOp_canon h fun _ _ => .bind (.need trivial) fun _ _ => .bind (.need h) fun _ _ => .pure (modWarp_canon h)

theorem execSysWbinv_canon : OutCanon (execSysWbinv s) :=
  scalarOp_canon h fun _ _ => .bind (.need trivial) fun _ _ => .bind (.need (l1Flush_canon h)) fun _ _ => .pure
    (l1Flush_canon h)

end

/-! ### Submissions -/

theorem keepRecord_canon {img cur : Nat} {e : Stop} (he : e.Canon) : (keepRecord img cur e).Canon := by
  cases e with
  | park p t => exact modWarp_canon he
  | _ => exact he

namespace State

section
variable {s : State} (h : Memory.wf s.mem.bytes = true)
include h

@[simp] theorem setQueue_canon {k : Nat} {q : Queue} : Memory.wf (s.setQueue k q).mem.bytes = true := h

@[simp] theorem writeQueue_canon {k : Nat} : Memory.wf (s.writeQueue k).mem.bytes = true :=
  ite_canon h (writePa_canon (writePa_canon (writePa_canon (writePa_canon h))))

@[simp] theorem rejectLaunch_canon {b old : Nat} : Memory.wf (s.rejectLaunch b old).mem.bytes = true := by
  unfold State.rejectLaunch
  split <;> simp [h]

@[simp] theorem coreWrite_canon {core : Nat} {t : Trans} {pa n x : Nat} : Memory.wf
    (s.coreWrite core t pa n x).mem.bytes = true :=
  writePa_canon (insertSig_canon (l1DropAll_canon h))

@[simp] theorem l1DropBlock_canon {core pa : Nat} : Memory.wf (s.l1DropBlock core pa).mem.bytes = true := by
  unfold State.l1DropBlock
  refine foldl_canon (fun _ _ h => ?_) _ h
  simp [h]

end
end State

theorem withHost_canon {s : State} {x : HostIf} (h : Memory.wf s.mem.bytes = true) :
    Memory.wf ({ s with host := x } : State).mem.bytes = true := h

section
variable {s : State} (h : Memory.wf s.mem.bytes = true)
include h

theorem execLaunch_canon {a b : SReg} : OutCanon (execLaunch a b s) := by
  refine scalarOp_canon h fun w g => .bind (drained_ends h) fun _ h₁ => .bind (.aligned _ _) fun _ _ => .bind
    (.aligned _ _) fun _ _ =>
    .bind (.need trivial) fun _ _ => .bind (translate_ends h₁) fun ⟨ta, _⟩ h₂ => .bind (translate_ends h₂) fun ⟨tb, _⟩ h₃ =>
    .keep h₃ (.bind (release_ends h₃) fun u hu => .bind (.need trivial) fun _ _ => ?_)
  have hread {r : Option (BitVec 1024)} : CanonSnd (match r with
      | some x => (({ len := 128, x := x.toNat } : EngData), u)
      | none => u.engReadAt (launchTag u.cur) g.core tb none 128 0 128 {}) := by
    cases r with
    | some x => exact hu
    | none => exact engReadAt_canon hu
  have hdone {i : Nat} {f : Warp → Warp} := modWarp_canon (i := i) (f := f) (engHostDone_canon
    (id := launchTag u.cur) (hread (r := w.record)))
  refine .bind (.need hread) fun _ _ => .ite (fun _ => .pure hdone) fun _ =>
    .bind (.mapError (homesReady_ends (l1DropBlock_canon hdone)) fun _ => keepRecord_canon) fun v hv => ?_
  split
  · exact .pure hv
  · refine .ite (fun _ => .pure (rejectLaunch_canon hv)) fun _ => .ite (fun _ => ?_) fun _ => .error (modWarp_canon hv)
    exact .bind (.mapError (homesReady_ends hv) fun _ => keepRecord_canon) fun _ hx => .pure (coreWrite_canon
      (coreWrite_canon hx))

theorem execSysMbox_canon {d a : SReg} : OutCanon (execSysMbox d a s) := by
  refine scalarOp_canon h fun w g => .bind (.need trivial) fun _ _ => .bind (drained_ends h) fun _ h₁ => .bind
    (.aligned _ _) fun _ _ =>
    .bind (translate_ends h₁) fun ⟨t, _⟩ h₂ => .keep h₂ (.bind (release_ends h₂) fun _ h₃ => ?_)
  refine .ite_bind (fun _ => .ok h₃) (fun _ => homesReady_ends h₃) fun _ hu => ?_
  exact .ite (fun _ => putS_ends hu) fun _ => .ite (fun _ => putS_ends hu) fun _ => putS_ends (withHost_canon hu)

end

/-! ### Answers to commands -/

/-- What a command ends in: a refusal, or a state whose memory is in its canonical form. -/
inductive AnsCanon : Ans → Prop
  | ok {reply : Option Nat} {t : State} (h : Memory.wf t.mem.bytes = true) : AnsCanon (.ok (reply, t))
  | error (x : Nat × Nat) : AnsCanon (.error x)

namespace AnsCanon

theorem pure {reply : Option Nat} {t : State} (h : Memory.wf t.mem.bytes = true) : AnsCanon (Pure.pure (reply, t)) := .ok h

theorem bind {α : Type} {x : Except (Nat × Nat) α} {k : α → Ans} (hk : ∀ a, x = .ok a → AnsCanon (k a)) : AnsCanon
    (x >>= k) := by
  cases hx : x with
  | ok a => exact hk a hx
  | error e => exact .error e

theorem ite {c : Prop} [Decidable c] {x y : Ans} (hx : c → AnsCanon x) (hy : ¬c → AnsCanon y) : AnsCanon
    (if c then x else y) := by
  split
  · exact hx ‹_›
  · exact hy ‹_›

end AnsCanon

namespace State

section
variable {s : State} (h : Memory.wf s.mem.bytes = true)
include h

@[simp] theorem answer_canon {p : Pending} {status detail reply : Nat} :
    Memory.wf (s.answer p status detail reply).mem.bytes = true := by
  unfold State.answer
  dsimp only
  split
  · exact withHost_canon (send_canon (send_canon h))
  · exact writePa_canon (writeRun_canon (writePa_canon h))

@[simp] theorem abandon_canon {p : Pending} : Memory.wf (s.abandon p).mem.bytes = true := by
  unfold State.abandon
  split <;> simp [h]

theorem repost_canon {p : Pending} : AnsCanon (s.repost p) := .ok h

theorem answerReady_ends {p : Pending} : Ends CanonState (s.answerReady p) := by
  unfold State.answerReady
  split
  · exact .ok h
  · exact homesReady_ends h

theorem atAnswer_canon {p : Pending} {k : State → State}
    (hk : ∀ t, Memory.wf t.mem.bytes = true → Memory.wf (k t).mem.bytes = true) :
    Memory.wf (s.atAnswer p k).mem.bytes = true := by
  have hready := answerReady_ends (p := p) h
  unfold State.atAnswer
  generalize s.answerReady p = r at hready
  cases hready with
  | ok ht => exact hk _ ht
  | @error e he =>
    cases e with
    | park q t => exact he
    | _ => exact h

theorem command_canon {n code : Nat} {body : Pending → State → Ans}
    (hbody : ∀ p t, Memory.wf t.mem.bytes = true → AnsCanon (body p t)) : Memory.wf
      (s.command n code body).mem.bytes = true := by
  unfold State.command
  split
  · exact h
  next p _ =>
    refine ite_canon h (atAnswer_canon h fun t ht => ?_)
    extract_lets _ u r
    have hr : AnsCanon r := .bind fun _ _ => hbody p u (withHost_canon ht)
    clear_value r
    cases hr with
    | @ok reply v hv =>
      cases reply with
      | some x => exact answer_canon hv
      | none => exact hv
    | error x => exact answer_canon (withHost_canon ht)

theorem atDieReset_canon {course : Nat} {k : State → State}
    (hk : ∀ t, Memory.wf t.mem.bytes = true → Memory.wf (k t).mem.bytes = true) :
    Memory.wf (s.atDieReset course k).mem.bytes = true := by
  unfold State.atDieReset
  split
  · exact ite_canon (atAnswer_canon h hk) (hk _ h)
  · exact hk _ h

@[simp] theorem endDieReset_canon {course : Nat} : Memory.wf (s.endDieReset course).mem.bytes = true := by
  unfold State.endDieReset
  dsimp only
  (repeat' split) <;> simp [h]

/-! ### Sync blocks, barriers and monitors -/

@[simp] theorem dropBlock_canon {core pa : Nat} : Memory.wf (s.dropBlock core pa).mem.bytes = true := by
  unfold State.dropBlock
  refine foldl_canon (fun _ _ h => ?_) _ h
  simp [h]

theorem blkAt_ends {g : Workgroup} {sp acq : Bool} {va : Word} {scope : Nat} :
    Ends (fun r => Memory.wf r.2.2.mem.bytes = true) (s.blkAt g sp acq va scope) := by
  refine .bind (.need trivial) fun _ _ => .ite (fun _ => .bind (.need trivial) fun _ _ => .bind spCell_ends fun _ _ =>
    .bind spLoad_ends fun _ _ => ?_) fun _ => .bind (translate_ends h) fun ⟨t, u⟩ hu => .keep hu (.bind
      (.need trivial) fun _ _ =>
    .bind (homesReady_ends (dropBlock_canon hu)) fun v hv => .bind (.need trivial) fun _ _ => ?_)
  · split
    · exact .pure h
    · exact .error trivial
  · split
    · exact .bind (.need trivial) fun _ _ => .pure hv
    · exact .error trivial

@[simp] theorem blkWrite_canon {core : Nat} {b : SyncBlk} {x3 : BlkLoc} :
    Memory.wf (s.blkWrite core b x3).mem.bytes = true := by
  unfold State.blkWrite
  split <;> simp [h]

@[simp] theorem wakeBarrier_canon {cell phase : Nat} : Memory.wf (s.wakeBarrier cell phase).mem.bytes = true := h

omit h in
theorem barCell_ends {g : Workgroup} {va : Word} {scope : Scope} : Ends (fun _ => True) (s.barCell g va scope) :=
  .bind (.aligned _ _) fun _ _ => .bind (.need trivial) fun _ _ => spCell_ends

theorem barArrive_ends {core cell : Nat} {va : Word} {scope : Scope} {sync : Bool} :
    Ends CanonState (s.barArrive core cell va scope sync) := by
  refine .bind (release_ends h) fun t ht => .bind spLoad_ends fun _ _ => ?_
  split
  · exact .error trivial
  · exact .pure (wakeBarrier_canon (spStore_canon (modWarp_canon ht)))

theorem barWait_ends {g : Workgroup} {va : Word} {scope : Scope} : Ends CanonState (s.barWait g va scope) := by
  refine .bind (.need trivial) fun _ _ => ?_
  split
  · exact .error trivial
  · exact .bind (.need trivial) fun _ _ => .bind spLoad_ends fun _ _ => .bind (.need h) fun _ _ => .pure
      (acquire_canon (modWarp_canon h))

@[simp] theorem stir_canon {core : Nat} : Memory.wf (s.stir core).mem.bytes = true := h

@[simp] theorem issues_canon {w : Warp} : Memory.wf (s.issues w).mem.bytes = true := by
  unfold State.issues
  split <;> simp [h]

end
end State

section
variable {s : State} (h : Memory.wf s.mem.bytes = true)
include h

section
variable {d a : SReg} {scope : Scope}

theorem relBlock_canon {sp add : Bool} : OutCanon (relBlock sp add d a scope s) :=
  scalarOp_canon h fun _ _ => .bind (drained_ends h) fun _ hu => .bind (blkAt_ends hu) fun ⟨_, _, _⟩ ht =>
    .bind (releasePart_ends ht) fun ⟨_, _⟩ hv => .pure (releaseDone_canon (blkWrite_canon hv))

theorem acqBlock_canon {sp : Bool} : OutCanon (acqBlock sp d a scope s) := by
  refine scalarOp_canon h fun w g => .bind (.need trivial) fun _ _ => .bind (drained_ends h) fun u hu => .bind (blkAt_ends hu)
    fun ⟨b, l, t⟩ ht => .keep ht ?_
  have hline (l : BlkLoc) : Memory.wf (match l with
      | .mem x => (List.range 4).foldl (fun (t : State) i => t.sliceRead g.core (x.pa / 128 + i)) t
      | .cell _ => t).mem.bytes = true := by
    cases l with
    | mem x => exact foldl_canon (fun _ _ hv => sliceRead_canon hv) _ ht
    | cell c => exact ht
  exact .bind writeS_ends fun _ _ => .bind writeS_ends fun _ _ => .pure (acquireSig_canon (setWarp_canon (hline l)))

theorem execBarArr_canon : OutCanon (execBarArr a scope s) :=
  scalarOp_canon h fun _ _ => .bind (drained_ends h) fun _ hu => .bind barCell_ends fun _ _ => barArrive_ends hu

theorem execBarWait_canon : OutCanon (execBarWait a scope s) :=
  scalarOp_canon h fun _ _ => .bind (drained_ends h) fun _ hu => barWait_ends hu

theorem execBarSync_canon : OutCanon (execBarSync a scope s) := by
  refine scalarOp_canon h fun w g => .bind (drained_ends h) fun u hu => .bind barCell_ends fun c _ => ?_
  have hwait {t : State} (ht : Memory.wf t.mem.bytes = true) : Ends CanonState (t.barWait g (w.sget a) scope) :=
    barWait_ends ht
  dsimp only
  split
  · exact .ite_bind (fun _ => .ok hu) (fun _ => barArrive_ends hu) fun _ ht => hwait ht
  · exact .bind (barArrive_ends hu) fun _ ht => hwait ht

theorem execMonArm_canon : OutCanon (execMonArm a s) := by
  refine scalarOp_canon h fun w g => .bind (translate_ends h) fun ⟨t, u⟩ hu => .keep hu (.bind confine_ends fun _ _ => ?_)
  refine .ite_bind (fun _ => homeReady_ends hu) (fun _ => .ok hu) fun v hv => .pure (modWarp_canon ?_)
  exact ite_canon (sliceRead_canon hv) hv

theorem execMonArmSp_canon : OutCanon (execMonArmSp a s) :=
  scalarOp_canon h fun _ _ => .bind (.aligned _ _) fun _ _ => .bind spCell_ends fun _ _ => .pure (modWarp_canon h)

theorem execMonWait_canon : OutCanon (execMonWait a s) := by
  refine scalarOp_canon h fun w _ => ?_
  split
  · exact .ok h
  · exact .ite (fun _ => .ok (modWarp_canon h)) fun _ => .error h

theorem execQuiesceWait_canon : OutCanon (execQuiesceWait scope s) := by
  refine scalarOp_canon h fun w _ => .bind (.need trivial) fun _ _ => .bind (drained_ends h) fun u hu => ?_
  split
  · exact .error hu
  · exact .error hu

theorem execLaneSync_canon : OutCanon (execLaneSync scope s) := scalarOp_canon h fun _ _ => drained_ends h

end

theorem execMonitorWake_canon {w : Nat} : OutCanon (execMonitorWake w s) := .next (modWarp_canon h)

theorem execMonTimeout_canon {w : Nat} : OutCanon (execMonTimeout w s) := .next (modWarp_canon h)

theorem execQuiesceIdle_canon {w : Nat} : OutCanon (execQuiesceIdle w s) := by
  unfold execQuiesceIdle
  split
  · split
    · refine .ite (.next h) (.ite (.next (modWarp_canon h)) ?_)
      split
      · exact .next (modWarp_canon h)
      · exact .ite (.next (modWarp_canon (acquire_canon h))) (.next h)
    · exact .next h
  · exact .next h

/-! ### Fetch -/

theorem fetchLane_ends {wi : Nat} {va : Word} : Ends (fun r => Memory.wf r.2.2.2.mem.bytes = true) (s.fetchLane wi va) :=
  .bind (fetchWord_ends h) fun ⟨_, _⟩ h₁ => .bind (fetchWord_ends h₁) fun ⟨_, _⟩ h₂ => .bind (fetchWord_ends h₂)
    fun ⟨_, _⟩ h₃ =>
    .pure h₃

end

namespace State

section
variable {s : State} (h : Memory.wf s.mem.bytes = true)
include h

omit h in
theorem undecoded_canon {w : Warp} {x : Nat} : (s.undecoded w x).Canon := by
  unfold State.undecoded
  split <;> trivial

@[simp] theorem countLane_canon {wi : Nat} {w : Warp} {b : Block} {i : Instr} :
    Memory.wf (s.countLane wi w b i).mem.bytes = true := by
  unfold State.countLane
  dsimp only
  (repeat' split) <;> simp [h]

end
end State

section
variable {s : State} {run : Instr → State → Host.Outcome State Fault Refusal} (h : Memory.wf s.mem.bytes = true)
  (hrun : ∀ i t, Memory.wf t.mem.bytes = true → OutCanon (run i t))
include h hrun

theorem stepScalar_canon {wi : Nat} : OutCanon (stepScalar s wi run) := by
  unfold stepScalar
  split
  · exact .next h
  next w _ =>
    extract_lets u
    refine .ite (.next h) ?_
    have hv : Memory.wf (u.issues w).mem.bytes = true := issues_canon (by exact h)
    have hfetch := fetchWord_ends (wi := wi) (va := w.pc) hv
    generalize (u.issues w).fetchWord wi w.pc = r at hfetch
    cases hfetch with
    | error he => exact .next (stopped_canon hv he)
    | @ok r hr =>
      obtain ⟨x, t⟩ := r
      dsimp only
      split
      · exact hrun _ _ (ite_canon (count_canon hr) hr)
      · exact .next (stopped_canon hr undecoded_canon)

theorem stepLane_canon {wi : Nat} : OutCanon (stepLane s wi run) := by
  unfold stepLane
  split
  · exact .next h
  next w _ =>
    extract_lets u
    split
    · exact .next h
    next b _ _ =>
      refine .ite (.next h) ?_
      have hv : Memory.wf (u.stir (u.wgOf w).core).mem.bytes = true := stir_canon (by exact h)
      have hfetch := fetchLane_ends (wi := wi) (va := b.lpc) hv
      generalize (u.stir (u.wgOf w).core).fetchLane wi b.lpc = r at hfetch
      cases hfetch with
      | error he => exact .next (laneFetchStop_canon hv he)
      | @ok r hr =>
        obtain ⟨w₀, w₁, w₂, t⟩ := r
        dsimp only
        split
        next i _ =>
          have hnext := hrun i t hr
          generalize run i t = o at hnext
          cases hnext with
          | next hu => exact .next (countLane_canon hu)
          | fault f => exact .fault f
          | refused x => exact .refused x
        · exact .next (laneStop_canon hr trivial)

end
end Sys2Proof.Machine
end

section
/-! PROOFS. Memory stays in its canonical form: the forms of the remaining lane instructions and of scalar computations. -/

namespace Sys2Proof.Machine

open State

section
variable {s : State} {op : Nat} {f : LaneFields} (h : Memory.wf s.mem.bytes = true)
include h

/-! ### Computations of the lanes -/

theorem intForm_canon {k : Int → Int → Int → Int} : OutCanon (intForm s op f k) := lanePure_canon h

theorem bitForm_canon {k : Nat → Nat → Nat → Nat} : OutCanon (bitForm s op f k) := lanePure_canon h

theorem intSet_canon {k : Int → Int → Bool} : OutCanon (intSet s op f k) := lanePure_canon h

theorem floatForm_canon {k : Mode → Fp → Fp → Fp → Fp × Nat} : OutCanon (floatForm s op f k) := lanePure_canon h

theorem signForm_canon {k : Fp → Fp} : OutCanon (signForm s op f k) := lanePure_canon h

theorem floatSet_canon {k : Fp → Fp → Bool} : OutCanon (floatSet s op f k) := lanePure_canon h

theorem specialForm_canon {fn : SpecialFn} : OutCanon (specialForm s op f fn) := lanePure_canon h

/-- An operation whose operands bar it: it goes on where no thread takes part, and else stops at the lowest one. -/
theorem barred_canon {e : Stop} (he : e.Canon) :
    OutCanon (laneOpFrame s op f fun _ _ part => if part = 0 then s.laneAdvance else s.laneStop (lowest part) e) :=
  laneOpFrame_canon h fun _ _ _ => ite_canon (laneAdvance_canon h) (laneStop_canon h he)

theorem execCvt_canon : OutCanon (execCvt f s) :=
  .ite (barred_canon h trivial) (laneCompute_canon h fun _ => .ok trivial)

theorem execFrnd_canon : OutCanon (execFrnd f s) := lanePure_canon h

theorem modIssue_canon {k : Host.Outcome State Fault Refusal} (hk : OutCanon k) : OutCanon (modIssue s op f k) :=
  .ite (barred_canon h trivial) hk

theorem modForm_canon {k : Nat → Nat → Nat → Nat → Nat} : OutCanon (modForm s op f k) := modIssue_canon h (lanePure_canon h)

theorem execNttBfly_canon : OutCanon (execNttBfly f s) := by
  refine modIssue_canon h (laneEach_canon h fun u i hu => ?_)
  split
  · exact .ok (setWarp_canon hu)
  · exact .ok hu

theorem execBlut_canon : OutCanon (execBlut f s) := laneCompute_canon h fun _ => .ok trivial

theorem execBpick_canon : OutCanon (execBpick f s) := laneCompute_canon h fun _ => .ok trivial

/-! ### Predicates and the mask stack -/

theorem predForm_canon {k : BitVec 32 → BitVec 32 → BitVec 32} : OutCanon (predForm s op f k) := by
  refine laneAtOnce_canon h fun w b part => ?_
  split
  · exact laneAdvance_canon (modWarp_canon h)
  · exact laneAdvance_canon h

theorem maskForm_canon {k : Warp → Block → Option Block} : OutCanon (maskForm s op f k) := by
  refine laneAtOnce_canon h fun w b part => ?_
  split
  · exact modHead_canon (laneAdvance_canon h)
  · exact laneStop_canon h trivial

theorem execLNop_canon : OutCanon (execLNop f s) := laneAtOnce_canon h fun _ _ _ => laneAdvance_canon h

theorem execLEnd_canon : OutCanon (execLEnd f s) :=
  laneAtOnce_canon h fun _ _ _ => ite_canon (modWarp_canon h) (laneStop_canon h trivial)

/-! ### Exchanges, votes, reductions and scans -/

theorem exchange_canon {src : Nat → Nat → Option Nat} : OutCanon (exchange s op f src) :=
  laneAtOnce_canon h fun _ _ _ => laneAdvance_canon (modWarp_canon h)

end

namespace State

section
variable {s : State} (h : Memory.wf s.mem.bytes = true)
include h

@[simp] theorem laneGrant_canon {core : Nat} : Memory.wf (s.laneGrant core).mem.bytes = true := by
  unfold State.laneGrant
  dsimp only
  (repeat' split) <;> simp [h]

@[simp] theorem putScalar_canon {f : LaneFields} {part : BitVec 32} {x : Word} :
    Memory.wf (s.putScalar f part x).mem.bytes = true := by
  unfold State.putScalar
  split
  next w d _ _ =>
    have hwrite := writeS_ends (w := w) (r := d) (x := x)
    generalize w.writeS d x = r at hwrite
    cases hwrite with
    | ok _ => exact laneAdvance_canon (setWarp_canon h)
    | error he => exact laneStop_canon (modHead_canon h) he
  · exact laneAdvance_canon h

@[simp] theorem setRunning_canon {x : Nat} : Memory.wf (s.setRunning x).mem.bytes = true := h

end
end State

section
variable {s : State} {op : Nat} {f : LaneFields} (h : Memory.wf s.mem.bytes = true)
include h

theorem execBallot_canon : OutCanon (execBallot f s) := laneAtOnce_canon h fun _ _ _ => putScalar_canon h

theorem vote_canon {k : BitVec 32 → BitVec 32 → Bool} : OutCanon (vote s op f k) := by
  refine laneAtOnce_canon h fun w b part => ?_
  split
  · exact laneAdvance_canon (modWarp_canon h)
  · exact laneAdvance_canon h

theorem reduceThread_ends {k : Combine} {t : Nat} : Ends CanonState (reduceThread k f s t) := by
  unfold reduceThread
  split
  · exact .ok h
  · exact .bind (raise_ends h) fun _ hu => .pure (setRunning_canon hu)

theorem redux_canon {k : Combine} : OutCanon (redux s op f k) := by
  refine laneOpFrame_canon h fun w b part => ?_
  obtain ⟨hstate, hstop⟩ := perThread_canon (k := reduceThread k f) (fun _ _ hu => reduceThread_ends hu) (todo b part) h
  split
  next heq =>
    rw [heq] at hstate hstop
    exact laneStop_canon hstate (hstop _ _ rfl)
  next heq =>
    rw [heq] at hstate
    exact putScalar_canon hstate

theorem scanThread_ends {k : Combine} {excl : Bool} {part : BitVec 32} {t : Nat} :
    Ends CanonState (scanThread k excl f part s t) := by
  unfold scanThread
  split
  · exact .ok h
  · exact .bind (raise_ends h) fun _ hu => .pure (setRunning_canon (modWarp_canon hu))

theorem scan_canon {k : Combine} {excl : Bool} : OutCanon (scan s op f k excl) := by
  refine laneOpFrame_canon h fun w b part => ?_
  obtain ⟨hstate, hstop⟩ := perThread_canon (k := scanThread k excl f part) (fun _ _ hu => scanThread_ends hu) (todo b part) h
  split
  next heq =>
    rw [heq] at hstate hstop
    exact laneStop_canon hstate (hstop _ _ rfl)
  next heq =>
    rw [heq] at hstate
    exact laneAdvance_canon hstate

theorem execLaneGrant_canon {core : Nat} : OutCanon (execLaneGrant core s) := .next (laneGrant_canon h)

/-! ### Scalar computations and branches -/

section
variable {d a b : SReg}

theorem binary_canon {k : Word → Word → Word} : OutCanon (binary s d a b k) := alu_canon h

theorem unary_canon {k : Word → Word} : OutCanon (unary s d a k) := alu_canon h

theorem branch_canon {off : BitVec 14} {c : Word → Word → Bool} : OutCanon (branch s a b off c) :=
  controlOp_canon h fun _ _ => .ok (setWarp_canon h)

theorem execJmp_canon {off : BitVec 26} : OutCanon (execJmp off s) := controlOp_canon h fun _ _ => .ok (setWarp_canon h)

theorem execCall_canon {off : BitVec 26} : OutCanon (execCall off s) := controlOp_canon h fun _ _ => .ok (setWarp_canon h)

theorem jumpTo_canon {link : Bool} : OutCanon (jumpTo s a link) :=
  controlOp_canon h fun _ _ => .bind (.need trivial) fun _ _ => .pure (setWarp_canon h)

theorem execNop_canon : OutCanon (execNop s) := scalarOp_canon h fun _ _ => .ok h

end
end
end Sys2Proof.Machine
end

section
/-! PROOFS. Memory stays in its canonical form: the matrix instructions and their queues. -/

namespace Sys2Proof.Machine

open State

theorem needTile_ends {g : Workgroup} {t : TReg} : Ends (fun _ => True) (needTile g t) := .need trivial

theorem needAcc_ends {g : Workgroup} {c : CReg} : Ends (fun _ => True) (needAcc g c) := .need trivial

theorem mmaCheck_ends {g : Workgroup} {d : CReg} {a b : TReg} : Ends (fun _ => True) (mmaCheck g d a b) :=
  .bind needAcc_ends fun _ _ => .bind needTile_ends fun _ _ => .bind needTile_ends fun _ _ => .bind (.need trivial) fun _ _ =>
    .bind (.need trivial) fun _ _ => .ite (fun _ => .bind (.need trivial) fun _ _ => .bind (.need trivial)
      fun _ _ => .pure trivial)
      fun _ => .bind (.need trivial) fun _ _ => .pure trivial

namespace State

section
variable {s : State} {g : Workgroup}

theorem needTid64_ends {a : Word} : Ends (fun _ => True) (s.needTid64 g a) := .bind (.need trivial) fun _ _ => needTid_ends

theorem tileRows_ends {kind : AccKind} {write : Bool} {base : Word} {rows : List Nat} {n : Nat} :
    Ends (fun _ => True) (s.tileRows g kind write base rows n) := by
  refine .bind tensorKiln_ends fun k _ => forAll_ends (fun p => ?_) _
  dsimp only
  split
  · exact .error trivial
  · split
    · exact .bind (.need trivial) fun _ _ => confine_ends
    · exact .bind (.need trivial) fun _ _ => .need trivial

theorem projRule_ends {c : Dctl} {e : BitVec 512} : Ends (fun _ => True) (s.projRule g c e) := by
  refine .bind (.need trivial) fun _ _ => .ite (fun _ => .bind tensorKiln_ends fun k _ => ?_) fun _ => .pure trivial
  split
  · exact .need trivial
  · exact .ok trivial

theorem certDrain_ends {c : Dctl} {e : BitVec 512} {dres : Word} {row0 col0 : Nat} :
    Ends (fun _ => True) (s.certDrain g c e dres row0 col0) :=
  .ite (fun _ => .bind (.need trivial) fun _ _ => .bind (.need trivial) fun _ _ => .ite (fun _ => .need trivial)
    fun _ => .pure trivial)
    fun _ => .pure trivial

theorem kilnPages_ends {w : Who} {kind : AccKind} {e : BitVec 512} : Ends (fun _ => True) (s.kilnPages w kind e) := by
  refine .ite (fun _ => .ok trivial) fun _ => .foldl (P := fun _ => True) ?_ _ (.ok trivial)
  refine fun x i hx => .bind (P := fun _ => True) hx fun a _ => ?_
  cases a with
  | none => exact .pure trivial
  | some l =>
    dsimp only
    split
    · exact .error trivial
    · exact .pure trivial

end

section
variable {s : State} (h : Memory.wf s.mem.bytes = true)
include h

theorem enqueue_ends {wi wgi : Nat} {g : Workgroup} {o : MxOp} {fx : State → State}
    (hfx : ∀ t, Memory.wf t.mem.bytes = true → Memory.wf (fx t).mem.bytes = true) :
    Ends CanonState (s.enqueue wi wgi g o fx) :=
  .bind (.need h) fun _ _ => .bind (release_ends h) fun _ ht => .pure (withEng_canon (hfx _ ht))

theorem queueMma_ends {wi wgi : Nat} {g : Workgroup} {d a b : Nat} {x : Word × Word × Word} :
    Ends CanonState (s.queueMma wi wgi g d a b x) :=
  enqueue_ends h fun _ ht => ite_canon ht (modWg_canon ht)

theorem rendezvous_ends {wgi gang : Nat} {l : List Arrival} : Ends CanonState (s.rendezvous wgi gang l) := by
  unfold State.rendezvous
  split
  · exact .pure h
  · refine .ite (fun _ => .bind (queueMma_ends h) fun u hu => .pure ?_) fun _ => .pure (modWg_canon h)
    exact foldl_canon (fun _ _ hv => modWarp_canon hv) _ (modWg_canon hu)

end
end State

section
variable {s : State} (h : Memory.wf s.mem.bytes = true)
include h

variable {a b : SReg}

theorem execTtSet_canon {d : SReg} : OutCanon (execTtSet d a b s) :=
  scalarOp_canon h fun _ _ => .bind (.need trivial) fun _ _ => .bind (.aligned _ _) fun _ _ => .bind spCell_ends fun _ _ =>
    .bind spLoad_ends fun _ _ => .bind (.need trivial) fun _ _ => .bind (.need trivial) fun _ _ => putS_ends (writePa_canon h)

theorem execTtClr_canon : OutCanon (execTtClr a s) :=
  scalarOp_canon h fun _ _ => .bind needTid64_ends fun _ _ => .bind (.need trivial) fun _ _ => .pure (writePa_canon h)

theorem execTtRead_canon : OutCanon (execTtRead a b s) :=
  scalarOp_canon h fun _ _ => .bind needTid64_ends fun _ _ => .bind (.aligned _ _) fun _ _ => .bind spCell_ends fun _ _ =>
    .pure (spStore_canon h)

theorem execMxLdt_canon {d : TReg} : OutCanon (execMxLdt d a b s) := by
  refine scalarOp_canon h fun w g => .bind needTid64_ends fun e _ => .bind needTile_ends fun _ _ => .bind
    (.need trivial) fun _ _ =>
    .bind (.need trivial) fun _ _ => .bind (.need trivial) fun _ _ => ?_
  refine .bind (.need trivial) fun _ _ => .bind (.need trivial) fun _ _ => .bind tileRows_ends fun _ _ => ?_
  exact enqueue_ends (looks_canon h) fun _ ht => modWg_canon ht

theorem execMxLds_canon {d : TReg} : OutCanon (execMxLds d a s) :=
  scalarOp_canon h fun _ _ => .bind (.aligned _ _) fun _ _ => .bind needTile_ends fun _ _ => .bind (.need trivial) fun _ _ =>
    .bind spCell_ends fun _ _ => enqueue_ends h fun _ ht => ht

theorem execMxZeroT_canon {d : TReg} : OutCanon (execMxZeroT d s) :=
  scalarOp_canon h fun _ _ => .bind needTile_ends fun _ _ => enqueue_ends h fun _ ht => ht

theorem execMxZeroC_canon {d : CReg} : OutCanon (execMxZeroC d s) :=
  scalarOp_canon h fun _ _ => .bind needAcc_ends fun _ _ => enqueue_ends h fun _ ht => modWg_canon ht

theorem execMxMode_canon {d : CReg} {n : Fin 64} : OutCanon (execMxMode d n s) :=
  scalarOp_canon h fun _ _ => .bind (.need trivial) fun _ _ => .bind needAcc_ends fun _ _ => enqueue_ends h
    fun _ ht => modWg_canon ht

theorem execMxMma_canon {d : CReg} {a b : TReg} : OutCanon (execMxMma d a b s) :=
  scalarOp_canon h fun _ _ => .bind mmaCheck_ends fun _ _ => queueMma_ends h

theorem execMxGang_canon {g n m : Fin 64} : OutCanon (execMxGang g n m s) := by
  refine scalarOp_canon h fun w _ => .bind (.need trivial) fun _ _ => .bind (.need trivial) fun _ _ => .pure
    (modWarp_canon ?_)
  split
  · exact dissolve_canon h
  · exact h

theorem execMxMmag_canon {d : CReg} {a b : TReg} : OutCanon (execMxMmag d a b s) := by
  refine controlOp_canon h fun w g => .ite (fun _ => .bind (.need h) fun _ _ => .error ⟨modWg_canon h, trivial⟩) fun _ => ?_
  split
  · exact .ite (fun _ => rendezvous_ends h) fun _ => .error h
  · exact .bind (.need trivial) fun _ _ => .bind mmaCheck_ends fun _ _ => .error trivial
  · refine .bind mmaCheck_ends fun x _ => ?_
    extract_lets y t l
    have ht : Memory.wf t.mem.bytes = true := modWarp_canon (modWg_canon h)
    clear_value t l
    refine .ite (fun _ => ?_) fun _ => .pure ht
    rename_i z _ _ _ _
    have hr := rendezvous_ends ht (wgi := w.wg) (gang := z.g) (l := l)
    generalize t.rendezvous w.wg z.g l = r at hr
    cases hr with
    | ok hu => exact .pure hu
    | @error e he =>
      cases e with
      | park p u => exact .pure (modWarp_canon he)
      | _ => exact .error he

theorem execMxDrain_canon {d : CReg} : OutCanon (execMxDrain d a b s) := by
  refine scalarOp_canon h fun w g => .bind needAcc_ends fun _ _ => .bind needTid64_ends fun e _ => ?_
  refine .ite_bind (P := fun _ => True) (fun _ => needTid_ends.map fun _ _ => trivial) (fun _ => .ok trivial) fun r _ => ?_
  refine .bind (.need trivial) fun _ _ => .bind (.need trivial) fun _ _ => .bind (.need trivial) fun _ _ => .bind
    (.need trivial)
    fun _ _ => .bind (.need trivial) fun _ _ => ?_
  refine .ite_bind (P := fun x => Memory.wf x.2.mem.bytes = true) (fun _ => .ok h) (fun _ => landOpt_ends h)
    fun ⟨loc, u⟩ hu => ?_
  refine .bind tileRows_ends fun _ _ => .ite_unit (fun _ => tileRows_ends) fun _ => .bind projRule_ends fun _ _ => ?_
  refine .bind certDrain_ends fun _ _ => .bind (.need trivial) fun _ _ => enqueue_ends (looks_canon hu) fun _ ht => ?_
  exact ite_canon (modWg_canon (landUpdate_canon ht)) (landUpdate_canon ht)

theorem execWitSeed_canon : OutCanon (execWitSeed a s) := by
  refine scalarOp_canon h fun w g => .bind (.need trivial) fun _ _ => .bind (.need trivial) fun _ _ => .bind
    (.need trivial) fun _ _ =>
    .bind needTid_ends fun _ _ => .bind kilnPages_ends fun _ _ => ?_
  dsimp only
  split
  · exact .bind (.need trivial) fun _ _ => enqueue_ends (looks_canon h) fun _ ht => modWg_canon ht
  · exact .bind (P := fun _ => True) (.error trivial) fun _ _ => enqueue_ends (looks_canon h) fun _ ht => modWg_canon ht

theorem execWitEmit_canon : OutCanon (execWitEmit a s) :=
  scalarOp_canon h fun _ _ => .bind (.need trivial) fun _ _ => enqueue_ends h fun _ ht => ht

end

/-! ### The queues -/

namespace State

section
variable {s : State} (h : Memory.wf s.mem.bytes = true)
include h

@[simp] theorem fillRow_canon {g : Workgroup} {t : Nat} {sh : Word} {i x : Nat} {poison : Bool} :
    Memory.wf (s.fillRow g t sh i x poison).mem.bytes = true := h

@[simp] theorem fillScales_canon {g : Workgroup} {t : Nat} {sh : Word} {i x : Nat} :
    Memory.wf (s.fillScales g t sh i x).mem.bytes = true := h

theorem ldtRow_ends {o : MxOp} : Ends CanonSnd (s.ldtRow o) := by
  refine .ite (fun _ => .pure h) fun _ => ?_
  refine .bind (engRead_ends h) fun ⟨d, u⟩ hu => .ite_bind (fun _ => engRead_ends hu) (fun _ => .ok hu) fun ⟨m, v⟩ hv => ?_
  refine .ite_bind (fun _ => engRead_ends hv) (fun _ => .ok hv) fun ⟨c, x⟩ hx => .ite (fun _ => .pure hx) fun _ => .pure ?_
  exact ite_canon (fillScales_canon (fillRow_canon (engHostDone_canon hx))) (fillRow_canon (engHostDone_canon hx))

theorem ldsRowLoad_ends {o : MxOp} : Ends CanonSnd (s.ldsRowLoad o) :=
  .ite (fun _ => .pure h) fun _ => .bind spCell_ends fun _ _ => .pure (ite_canon (fillScales_canon
    (fillRow_canon h)) (fillRow_canon h))

@[simp] theorem zeroTile_canon {key : Nat} : Memory.wf (s.zeroTile key).mem.bytes = true := h

@[simp] theorem zeroAcc_canon {key : Nat} : Memory.wf (s.zeroAcc key).mem.bytes = true := h

@[simp] theorem multiply_canon {o : MxOp} : Memory.wf (s.multiply o).mem.bytes = true := h

@[simp] theorem emitSlot_canon {gi i : Nat} : Memory.wf (s.emitSlot gi i).mem.bytes = true := by
  unfold State.emitSlot
  refine ite_canon h (modWg_canon ?_)
  refine foldl_canon (fun u k hu => ?_) _ h
  split
  · exact writePa_canon hu
  · exact hu

@[simp] theorem beginProj_canon {o : MxOp} {c : Dctl} {row0 : Nat} : Memory.wf (s.beginProj o c row0).mem.bytes = true := by
  unfold State.beginProj
  dsimp only
  (repeat' split) <;> simp [h]

end

theorem mxPlaces_ends {s : State} {w : Who} {id : Nat} {tid : Bool} {l : List (Nat × Nat)}
    (h : Memory.wf s.mem.bytes = true) :
    Ends CanonSnd (s.mxPlaces w id tid l) := by
  induction l generalizing s with
  | nil => exact .ok h
  | cons p rest ih =>
    exact .bind (translate_ends h) fun ⟨_, _⟩ hu => .bind (engReady_ends hu) fun _ hv => .bind (ih hv)
      fun ⟨_, _⟩ ht => .pure ht

section
variable {s : State} (h : Memory.wf s.mem.bytes = true)
include h

@[simp] theorem mxWrite_canon {core : Nat} {d : EngData} {l : List (Trans × Nat)} :
    Memory.wf (s.mxWrite core d l).mem.bytes = true :=
  foldl_canon_of (g := Prod.fst) (fun _ _ hx => engWriteAt_canon hx) _ h

theorem residual_ends {o : MxOp} {c : Dctl} {i c0 c1 : Nat} :
    Ends (fun r => Memory.wf r.2.2.mem.bytes = true) (s.residual o c i c0 c1) := by
  refine .ite (fun _ => .pure h) fun _ => .bind (engRead_ends h) fun ⟨_, _⟩ hu => ?_
  exact .ite_bind (fun _ => engRead_ends hu) (fun _ => .ok hu) fun ⟨_, _⟩ ht => .pure ht

theorem drainSegment_ends {o : MxOp} : Ends CanonSnd (s.drainSegment o) := by
  unfold State.drainSegment
  extract_lets +onlyGivenNames c e
  split
  · exact .pure h
  extract_lets +onlyGivenNames g mode
  split
  next row0 x _ =>
  extract_lets +onlyGivenNames w
  refine .bind (landAt_ends h) fun ⟨loc, s₁⟩ h₁ => ?_
  dsimp -zeta only
  extract_lets +onlyGivenNames who u k0 k1 c0 c1
  refine .bind (residual_ends h₁) fun ⟨rd, rs, s₂⟩ h₂ => ?_
  dsimp -zeta only
  extract_lets +onlyGivenNames parts
  refine .bind (mxPlaces_ends h₂) fun ⟨places, s₃⟩ h₃ => ?_
  have hold {c : Prop} [Decidable c] {d : EngData} {mx : Option Nat} :
      CanonSnd (if c then (d, s₃) else places.foldl (fun (a : EngData × State) p =>
        (a.1.append (a.2.engReadAt o.id o.core p.1 mx p.2 0 p.2 {}).1, (a.2.engReadAt o.id o.core p.1 mx p.2 0 p.2 {}).2))
          (d, s₃)) := by
    refine ite_snd_canon h₃ (foldl_canon_of (g := Prod.snd) ?_ places h₃)
    exact fun _ _ hx => engReadAt_canon hx
  refine .ite_bind (P := CanonSnd) (fun _ => mxPlaces_ends hold) (fun _ => .ok hold) fun ⟨scales, v⟩ hv => ?_
  refine .ite (fun _ => .pure hv) fun _ => ?_
  dsimp -zeta only
  extract_lets +onlyGivenNames t₁ t₂ re rw rlo rcol rblk row f t₃ t₄ first kept stream data bad here t₅ t₆ cs _ t₇ landed t₈
  have ht₁ : Memory.wf t₁.mem.bytes = true := engHostDone_canon hv
  have ht₃ : Memory.wf t₃.mem.bytes = true := ite_canon (beginProj_canon ht₁) ht₁
  have ht₄ : Memory.wf t₄.mem.bytes = true := ite_canon ht₃ (mxWrite_canon ht₃)
  have ht₅ : Memory.wf t₅.mem.bytes = true := mxWrite_canon ht₄
  have ht₆ : Memory.wf t₆.mem.bytes = true := ite_canon (modWg_canon ht₅) ht₅
  have ht₇ : Memory.wf t₇.mem.bytes = true := ite_canon ht₆ ht₆
  exact .pure (ite_canon ht₇ (landSectors_canon ht₇))

theorem spoilSegment_ends {o : MxOp} : Ends CanonSnd (s.spoilSegment o) := by
  unfold State.spoilSegment
  dsimp only
  split
  · exact .pure h
  · exact .bind (translate_ends h) fun ⟨_, _⟩ hu => .bind (engReady_ends hu) fun _ hv => .pure (engWriteAt_canon hv)

@[simp] theorem bindSlot_canon {o : MxOp} : Memory.wf (s.bindSlot o).mem.bytes = true := by
  unfold State.bindSlot
  simp [h]

@[simp] theorem setMx_canon {o : MxOp} : Memory.wf (s.setMx o).mem.bytes = true := h

@[simp] theorem dropMx_canon {o : MxOp} : Memory.wf (s.dropMx o).mem.bytes = true := by
  unfold State.dropMx
  simp [h]

@[simp] theorem endMx_canon {o : MxOp} : Memory.wf (s.endMx o).mem.bytes = true := by
  have hland := landAt_ends (gi := o.wg) (ctx := o.ctx) (core := o.core) (x := o.dland) (w := s.mxWho o) (kind := .mxDrain) h
  unfold State.endMx
  extract_lets st done
  have hdone (t : State) (ht : Memory.wf t.mem.bytes = true) : Memory.wf (done t).mem.bytes = true :=
    dropMx_canon (ite_canon (modWg_canon ht) (sticky_canon (modWg_canon ht)))
  split
  · generalize s.landAt o.wg o.ctx o.core o.dland (s.mxWho o) .mxDrain = r at hland
    cases hland with
    | ok hu => exact hdone _ (landUpdate_canon hu)
    | @error e he =>
      cases e with
      | fault k reason level va => exact ite_canon (hdone _ h) (setMx_canon (joinFault_canon h))
      | park p t => exact h
      | _ => exact hdone _ h
  · exact hdone _ h

theorem mxDo_canon {o : MxOp} {r : Except Stop (MxNext × State)} (hr : Ends CanonSnd r) :
    Memory.wf (s.mxDo o r).mem.bytes = true := by
  cases hr with
  | @ok r hr =>
    obtain ⟨next, t⟩ := r
    cases next with
    | more o' => exact setMx_canon hr
    | wait => exact hr
    | finish o' => exact endMx_canon hr
  | @error e he =>
    cases e with
    | fault k reason level va => exact setMx_canon (joinFault_canon h)
    | park p t => exact he
    | late t e =>
      cases e with
      | fault k reason level va => exact setMx_canon (joinFault_canon he.1)
      | _ => exact endMx_canon h
    | _ => exact endMx_canon h

end
end State

theorem execMxQueueEntry_canon {s : State} {core : Nat} (h : Memory.wf s.mem.bytes = true) : OutCanon
    (execMxQueueEntry core s) := by
  refine .next ?_
  split
  · exact h
  next o _ =>
    refine ite_canon (ite_canon ?_ (ite_canon h (endMx_canon h))) (ite_canon h ?_)
    · have hspoil := spoilSegment_ends (o := o) h
      generalize s.spoilSegment o = r at hspoil
      split
      next => exact endMx_canon (hspoil.of_ok rfl)
      next => exact mxDo_canon h hspoil
    · split
      · exact mxDo_canon h (ldtRow_ends h)
      · exact mxDo_canon h (ldsRowLoad_ends h)
      · exact dropMx_canon (zeroTile_canon h)
      · exact dropMx_canon (zeroAcc_canon h)
      · exact dropMx_canon (zeroAcc_canon h)
      · exact dropMx_canon (multiply_canon h)
      · exact mxDo_canon h (drainSegment_ends h)
      · exact dropMx_canon (bindSlot_canon h)
      · exact dropMx_canon (emitSlot_canon h)
      · exact passFence_canon h

end Sys2Proof.Machine
end

section
/-! PROOFS. Memory stays in its canonical form: launches opened, placed and completed. -/

namespace Sys2Proof.Machine

open State

/-- A step that ends in one of two states, each with its memory in canonical form. -/
inductive EitherCanon : Except State State → Prop
  | ok {t : State} (h : Memory.wf t.mem.bytes = true) : EitherCanon (.ok t)
  | error {t : State} (h : Memory.wf t.mem.bytes = true) : EitherCanon (.error t)

/-- What the read of a header leaves has its memory in canonical form. -/
def HeaderRead.Canon : HeaderRead → Prop
  | .bad t | .wait t | .got _ t => Memory.wf t.mem.bytes = true

namespace State

theorem freshVersion_canon {s : State} {part : Nat} (h : Memory.wf s.mem.bytes = true) : CanonSnd (s.freshVersion part) := h

theorem freshWitness_canon {s : State} (h : Memory.wf s.mem.bytes = true) : CanonSnd s.freshWitness := h

theorem openOutputs_canon {s : State} {id ctx part course tries : Nat} {l : List (Nat × Nat)}
    (h : Memory.wf s.mem.bytes = true) :
    CanonSnd (s.openOutputs id ctx part course tries l) := by
  induction l generalizing s with
  | nil => exact h
  | cons p rest ih => exact ih (foldl_canon (fun _ _ hu => setKpage_canon hu) _ (freshVersion_canon h))

section
variable {s : State} (h : Memory.wf s.mem.bytes = true)
include h

@[simp] theorem openLooks_canon {r : BitVec 1024} {e : BitVec 512} {l : List (BitVec 512)} :
    Memory.wf (s.openLooks r e l).mem.bytes = true := looks_canon h

@[simp] theorem commitOpen_canon {num : Nat} {p : OpenPlan} {tries prev : Nat} :
    Memory.wf (s.commitOpen num p tries prev).mem.bytes = true := by
  unfold State.commitOpen
  split
  · exact h
  extract_lets +onlyGivenNames r ctx
  split
  next id s₁ h₁ =>
  split
  next vs s₂ h₂ =>
  have hopen := canon_of_eq h₂ (openOutputs_canon (canon_of_eq h₁ (freshWitness_canon h)))
  extract_lets +onlyGivenNames ins s₃
  have hheld : Memory.wf s₃.mem.bytes = true := foldl_canon (fun _ _ hu => hold_canon hu) _ hopen
  clear_value s₃
  split
  extract_lets +onlyGivenNames n base _ s₄
  have hregion : Memory.wf s₄.mem.bytes = true := ite_canon hheld (zeroRun_canon (by exact hheld))
  clear_value s₄
  exact openLooks_canon (modLaunch_canon (holdFrames_canon (by exact hregion)))

@[simp] theorem storeStatus_canon {num : Nat} : Memory.wf (s.storeStatus num).mem.bytes = true := by
  unfold State.storeStatus
  dsimp only
  (repeat' split) <;> simp [h]

@[simp] theorem queueError_canon {k bits : Nat} : Memory.wf (s.queueError k bits).mem.bytes = true := by
  unfold State.queueError
  simp [h]

@[simp] theorem addLaunch_canon {l : Launch} : Memory.wf (s.addLaunch l).mem.bytes = true := h

@[simp] theorem refuseLaunch_canon {num code : Nat} : Memory.wf (s.refuseLaunch num code).mem.bytes = true := h

theorem counterRead_ends {num : Nat} {t : Trans} {write : Bool} : Ends CanonSnd (s.counterRead num t write) := by
  unfold State.counterRead
  split
  · exact .ok (ctlRead_canon h)
  · exact hostLoad_ends h
  · exact .bind (homeReady_ends h) fun _ hu => .bind (.need trivial) fun _ _ => .pure (by exact homeLoad_canon hu)

theorem waitCounter_either {l : Launch} : EitherCanon (s.waitCounter l) := by
  unfold State.waitCounter
  extract_lets va r
  have hr : Ends CanonSnd r := .bind (translate_ends h) fun ⟨_, _⟩ hu => counterRead_ends hu
  clear_value r
  split
  · exact .ok h
  cases hr with
  | @ok a ha =>
    obtain ⟨n, t⟩ := a
    cases n with
    | zero => exact .ok ha
    | succ n => exact .error ha
  | @error e he =>
    cases e with
    | fault k reason level va => exact .error (ite_canon (modLaunch_canon (joinFault_canon h)) (refuseLaunch_canon
      (joinFault_canon h)))
    | park p t => exact .error he
    | _ => exact .error h

@[simp] theorem runLaunch_canon {num : Nat} {e : BitVec 512} {place : BitVec 64} :
    Memory.wf (s.runLaunch num e place).mem.bytes = true := storeStatus_canon (modLaunch_canon h)

theorem readHeader_canon {l : Launch} : (s.readHeader l).Canon := by
  have hx := translate_ends (w := plumbWho (recCtx l.record)) (kind := .read) (p := .r) (tid := false)
    (va := BitVec.ofNat 64 (lrec l.record 0 8)) h
  unfold State.readHeader
  dsimp only
  generalize s.translate _ _ _ _ _ = r at hx
  cases hx with
  | @error e he =>
    cases e with
    | fault k reason level va => exact enterLines_canon h
    | park p t => exact he
    | _ => exact h
  | @ok a hu =>
    obtain ⟨t, u⟩ := a
    dsimp only
    split
    · have hy := homeReady_ends (line := t.pa / 128) (c := 128) (write := false) hu
      generalize u.homeReady _ _ _ = q at hy
      cases hy with
      | ok hv =>
        dsimp only
        split
        · exact hv
        · exact hv
      | @error e he =>
        cases e with
        | park p t => exact he
        | _ => exact hu
    · have he := engReadAt_canon (id := 2 ^ 47 + l.num) (core := 0) (t := t) (mx := none) (fuel := 64) (off := 0)
        (n := 64) (d := {}) hu
      split
      · exact he
      · exact engHostDone_canon he

end
end State

section
variable {s : State} (h : Memory.wf s.mem.bytes = true)
include h

theorem execTakeLaunchRecord_canon {part level : Nat} : OutCanon (execTakeLaunchRecord part level s) := by
  unfold execTakeLaunchRecord
  extract_lets k q
  refine .next (ite_canon h ?_)
  split
  · exact queueError_canon h
  next b _ =>
    refine ite_canon (queueError_canon h) (ite_canon (queueError_canon h) ?_)
    refine ite_canon (setQueue_canon h) ?_
    refine ite_canon (storeStatus_canon (writeQueue_canon ?_)) (writeQueue_canon ?_) <;>
      exact setQueue_canon (addLaunch_canon (setQueue_canon h))

theorem execLaunchOpen_canon {num : Nat} : OutCanon (execLaunchOpen num s) := by
  unfold execLaunchOpen
  refine .next ?_
  split
  · exact h
  next l _ =>
  refine ite_canon h (ite_canon (defer_canon h) ?_)
  have hc := waitCounter_either (l := l) h
  generalize s.waitCounter l = r at hc
  cases hc with
  | error ht => exact ht
  | @ok t ht =>
    have hh := readHeader_canon (l := l) ht
    dsimp only
    generalize t.readHeader l = x at hh
    cases x with
    | bad u => exact refuseLaunch_canon hh
    | wait u => exact hh
    | got e u =>
      change Memory.wf u.mem.bytes = true at hh
      refine ite_canon (refuseLaunch_canon hh) (ite_canon (refuseLaunch_canon hh) (ite_canon (runLaunch_canon hh) ?_))
      split
      · exact refuseLaunch_canon (openLooks_canon hh)
      · exact modLaunch_canon hh
      · exact runLaunch_canon (commitOpen_canon (modLaunch_canon hh))

theorem execWorkRecordWrite_canon {num : Nat} : OutCanon (execWorkRecordWrite num s) := by
  unfold execWorkRecordWrite
  refine .next ?_
  split
  · exact h
  next l _ =>
  refine ite_canon h (ite_canon h (ite_canon ?_ ?_))
  · exact modLaunch_canon (modLaunch_canon h)
  · extract_lets u
    have hu : Memory.wf u.mem.bytes = true := foldl_canon (fun _ _ hu => writePa_canon hu) _ (modLaunch_canon h)
    exact hu

end

namespace State

section
variable {s : State} (h : Memory.wf s.mem.bytes = true)
include h

@[simp] theorem claimSp_canon {ctx : Nat} {cert : Option Nat} {unit : Nat} :
    Memory.wf (s.claimSp ctx cert unit).mem.bytes = true := by
  unfold State.claimSp
  dsimp only
  split <;> simp [h]

@[simp] theorem claimTile_canon {ctx : Nat} {cert : Option Nat} {key : Nat} :
    Memory.wf (s.claimTile ctx cert key).mem.bytes = true := by
  unfold State.claimTile
  dsimp only
  split <;> simp [h]

@[simp] theorem claimAcc_canon {ctx : Nat} {cert : Option Nat} {key : Nat} :
    Memory.wf (s.claimAcc ctx cert key).mem.bytes = true := by
  unfold State.claimAcc
  dsimp only
  split <;> simp [h]

@[simp] theorem allocate_canon {i c : Nat} : Memory.wf (s.allocate i c).mem.bytes = true := by
  unfold State.allocate
  refine foldl_canon (fun _ _ hu => claimAcc_canon hu) _ (foldl_canon (fun _ _ hu => claimTile_canon hu) _ ?_)
  exact foldl_canon (fun _ _ hu => claimSp_canon hu) _ (setWg_canon h)

@[simp] theorem startWg_canon {l : Launch} {ordinal c : Nat} : Memory.wf (s.startWg l ordinal c).mem.bytes = true := by
  unfold State.startWg
  simp [h]

@[simp] theorem dropWork_canon {r : WorkRec} : Memory.wf (s.dropWork r).mem.bytes = true := h

@[simp] theorem kernelBoundary_canon {cores : List Nat} : Memory.wf (s.kernelBoundary cores).mem.bytes = true := by
  unfold State.kernelBoundary
  refine foldl_canon (fun _ _ hu => setCore_canon hu) _ ?_
  exact foldl_canon (fun _ _ hu => l1Flush_canon hu) _ h

end

theorem releaseCores_ends {s : State} {num : Nat} {l : List Nat} (h : Memory.wf s.mem.bytes = true) :
    Ends CanonState (s.releaseCores num l) := by
  induction l generalizing s with
  | nil => exact .ok h
  | cons c rest ih => exact .bind (systemQuiet_ends h) fun _ hu => ih hu

section
variable {s : State} (h : Memory.wf s.mem.bytes = true)
include h

@[simp] theorem sealLaunch_canon {l : Launch} : Memory.wf (s.sealLaunch l).mem.bytes = true := by
  unfold State.sealLaunch
  split
  · exact h
  split
  · refine modRecord_canon (foldl_canon (fun _ _ hu => hold_canon hu) _ (foldl_canon (fun _ _ hu => ?_) _ h))
    exact ite_canon (modBinding_canon hu) hu
  · exact h

@[simp] theorem kernelEnd_canon {l : Launch} : Memory.wf (s.kernelEnd l).mem.bytes = true := by
  unfold State.kernelEnd
  split
  · exact h
  have hf := foldl_canon (f := fun (s : State) f => s.hold f (-1)) (fun _ _ hu => hold_canon hu) l.hold h
  dsimp only
  split
  · exact ite_canon hf hf
  · exact hf

theorem signal_either {l : Launch} {va : Nat} : EitherCanon (s.signal l va) := by
  unfold State.signal
  extract_lets ctx r
  have hr : Ends CanonState r := by
    refine .bind (translate_ends h) fun ⟨t, _⟩ hu => .bind (counterRead_ends hu) fun ⟨x, v⟩ hv => ?_
    dsimp only
    split
    · exact .pure hv
    · exact .pure (send_canon hv)
    · exact .pure (writePa_canon hv)
  clear_value r
  split
  · exact .ok h
  cases hr with
  | ok ht => exact .ok ht
  | @error e he =>
    cases e with
    | fault k reason level va =>
      dsimp only
      split
      · exact .error (modLaunch_canon (joinFault_canon h))
      · exact .ok (joinFault_canon h)
    | park p t => exact .error he
    | _ => exact .ok h

end

@[simp] theorem retireSlots_canon {s : State} {k fuel : Nat} (h : Memory.wf s.mem.bytes = true) :
    Memory.wf (s.retireSlots k fuel).mem.bytes = true := by
  induction fuel generalizing s with
  | zero => exact h
  | succ n ih =>
    unfold State.retireSlots
    dsimp only
    split
    · exact ih (by exact h)
    · exact h

section
variable {s : State} (h : Memory.wf s.mem.bytes = true)
include h

@[simp] theorem retireLaunch_canon {l : Launch} : Memory.wf (s.retireLaunch l).mem.bytes = true := by
  unfold State.retireLaunch
  split
  · exact h
  · exact ite_canon (writeQueue_canon (retireSlots_canon (modLaunch_canon h))) (retireSlots_canon (modLaunch_canon h))

@[simp] theorem signalLaunch_canon {num : Nat} : Memory.wf (s.signalLaunch num).mem.bytes = true := by
  unfold State.signalLaunch
  split
  · exact h
  next l _ =>
  extract_lets sig second
  have hsecond (t : State) (ht : Memory.wf t.mem.bytes = true) : Memory.wf (second t).mem.bytes = true := by
    have he := signal_either (l := l) (va := sig 1) ht
    dsimp only [second]
    generalize t.signal l (sig 1) = r at he
    cases he with
    | ok hu => exact retireLaunch_canon hu
    | error hu => exact hu
  clear_value second
  refine ite_canon (hsecond _ h) ?_
  have he := signal_either (l := l) (va := sig 0) h
  generalize s.signal l (sig 0) = r at he
  cases he with
  | ok hu => exact hsecond _ (modLaunch_canon hu)
  | error hu => exact hu

end
end State

section
variable {s : State} (h : Memory.wf s.mem.bytes = true)
include h

theorem execPlaceWorkgroup_canon {core : Nat} : OutCanon (execPlaceWorkgroup core s) := by
  unfold execPlaceWorkgroup
  refine .next (ite_canon h ?_)
  split
  · exact h
  split
  · exact h
  refine ite_canon h (ite_canon (queueError_canon h) ?_)
  exact foldl_canon (fun _ _ hu => startWg_canon hu) _ (dropWork_canon h)

theorem execLaunchComplete_canon {num : Nat} : OutCanon (execLaunchComplete num s) := by
  unfold execLaunchComplete
  refine .next ?_
  split
  · exact h
  next l _ =>
  refine ite_canon h (ite_canon (signalLaunch_canon (modLaunch_canon h)) (ite_canon (defer_canon h) ?_))
  refine ite_canon h (ite_canon (askFrames_canon h) ?_)
  have hr := releaseCores_ends (num := num) (l := l.cores) h
  generalize s.releaseCores num l.cores = r at hr
  cases hr with
  | ok ht =>
    refine ite_canon (kernelBoundary_canon ht) (signalLaunch_canon (storeStatus_canon (modLaunch_canon
      (dropFrames_canon ?_))))
    exact kernelEnd_canon (sealLaunch_canon (kernelBoundary_canon ht))
  | @error e he =>
    cases e with
    | park p t => exact he
    | _ => exact h

end

end Sys2Proof.Machine
end

section
/-! PROOFS. Memory stays in its canonical form: pre-emption, retirement and witness kernels. -/

namespace Sys2Proof.Machine

open State

namespace State

section
variable {s : State} (h : Memory.wf s.mem.bytes = true)
include h

@[simp] theorem beginSave_canon {gone : List Nat} : Memory.wf (s.beginSave gone).mem.bytes = true := by
  refine foldl_canon (fun u i hu => ?_) _ h
  dsimp only
  split
  · exact setWg_canon (markSlot_canon hu)
  · exact hu

@[simp] theorem startPreemption_canon {r : WorkRec} : Memory.wf (s.startPreemption r).mem.bytes = true := by
  unfold State.startPreemption
  dsimp only
  (repeat' split) <;> simp [h]

@[simp] theorem putArrays_canon {g : Workgroup} {x2 : SavedArrays} : Memory.wf (s.putArrays g x2).mem.bytes = true := h

@[simp] theorem writeArrays_canon {g : Workgroup} {pa : Nat} : Memory.wf (s.writeArrays g pa).mem.bytes = true := by
  unfold State.writeArrays
  refine foldl_canon (fun _ _ hu => writeRun_canon hu) _ (foldl_canon (fun _ _ hu => writeRun_canon (writeRun_canon hu)) _ ?_)
  have hp := foldl_canon (f := fun s e => s.poisonSector ((pa + 0x97000) / 32 + e.1)) (fun _ _ hu => poisonSector_canon hu)
    g.store.spPoison (writeRun_canon (pa := pa + 0x97000) (n := g.spBytes) (x := readN g.store.sp 0 g.spBytes)
      (k := g.spBytes / 128 + 1) (core := none) h)
  exact ite_canon (by exact hp) hp

@[simp] theorem saveWg_canon {i : Nat} : Memory.wf (s.saveWg i).mem.bytes = true := by
  unfold State.saveWg
  extract_lets +onlyGivenNames g
  split
  · exact h
  next n _ =>
  extract_lets +onlyGivenNames parked mx _ s₁ s₂ sends away _ s₃ s₄ s₅ maps s₆ _ g' asked c owed _ s₇ s₈ s₉
  have h₂ : Memory.wf s₂.mem.bytes = true := emitSlot_canon (emitSlot_canon (by exact h))
  clear_value s₂
  have h₅ : Memory.wf s₅.mem.bytes = true := drainCore_canon (foldl_canon (fun _ _ hu => send_canon hu) _ (by exact h₂))
  clear_value s₅
  have h₆ : Memory.wf s₆.mem.bytes = true := unmapAll_canon h₅
  clear_value s₆
  have h₇ : Memory.wf s₇.mem.bytes = true := setWg_canon h₆
  clear_value s₇
  have h₈ : Memory.wf s₈.mem.bytes = true := dropGrains_canon (foldl_canon (fun _ _ hu => dropGrow_canon hu) _ h₇)
  clear_value s₈
  have h₉ : Memory.wf s₉.mem.bytes = true := by
    refine foldl_canon (fun u wi hu => ?_) _ h₈
    exact modWarp_canon (dropRemotes_canon hu)
  clear_value s₉
  split
  next flags t hfree =>
  have ht := canon_of_eq hfree (free_canon (f := Config.freeWord) h₉)
  clear hfree
  extract_lets +onlyGivenNames pa t₁ t₂ t₃ t₄ _ t₅
  have h₂ : Memory.wf t₂.mem.bytes = true := writeArrays_canon (foldl_canon (fun _ _ hu => writeRun_canon hu) _ ht)
  clear_value t₂
  have h₃ : Memory.wf t₃.mem.bytes = true := ite_canon (holdFrames_canon h₂) h₂
  clear_value t₃
  have h₄ : Memory.wf t₄.mem.bytes = true := foldl_canon (fun _ _ hu => modWarp_canon hu) _ h₃
  clear_value t₄
  have h₅ : Memory.wf t₅.mem.bytes = true := ite_canon h₄ h₄
  clear_value t₅
  extract_lets t₆
  refine modWg_canon (idleFrom_canon ?_)
  dsimp only [t₆]
  split
  · exact looks_canon h₅
  · exact h₅

@[simp] theorem dropSave_canon {l : List Nat} : Memory.wf (s.dropSave l).mem.bytes = true := by
  refine foldl_canon (fun u i hu => ?_) _ h
  split
  · exact modWg_canon (freeSlot_canon hu)
  · exact hu

@[simp] theorem saveReleases_canon {l : List Nat} : Memory.wf (s.saveReleases l).mem.bytes = true := by
  refine foldl_canon (fun u i hu => foldl_canon (fun v wi hv => ?_) _ hu) _ h
  have hr := release_ends (wi := wi) (core := (v.wg i).core) (scope := 5) hv
  generalize v.release wi _ 5 = r at hr
  cases hr with
  | ok ht => exact ht
  | @error e he =>
    cases e with
    | park p t => exact he
    | _ => exact hv

@[simp] theorem finishSave_canon {i : Nat} : Memory.wf (s.finishSave i).mem.bytes = true := by
  unfold State.finishSave
  extract_lets l
  refine ite_canon h (ite_canon (dropSave_canon h) (ite_canon h (ite_canon (saveReleases_canon h) ?_)))
  exact foldl_canon (f := fun s j => s.saveWg j) (fun _ _ hu => saveWg_canon hu) l (saveReleases_canon h)

end

@[simp] theorem remap_canon {s : State} {i va row k n : Nat} (h : Memory.wf s.mem.bytes = true) :
    Memory.wf (s.remap i va row k n).mem.bytes = true := by
  induction k generalizing s n with
  | zero => exact h
  | succ k ih =>
    unfold State.remap
    dsimp only
    split
    next t u heq =>
      have hu : Memory.wf u.mem.bytes = true := (translate_ends h).of_ok heq
      exact ite_canon hu (ih (addMapping_canon (mapLine_canon hu)))
    · exact h

section
variable {s : State} (h : Memory.wf s.mem.bytes = true)
include h

@[simp] theorem restoreWg_canon {i c : Nat} : Memory.wf (s.restoreWg i c).mem.bytes = true := by
  unfold State.restoreWg
  extract_lets +onlyGivenNames g
  split
  · exact h
  refine modLaunch_canon (freeSlot_canon (foldl_canon (fun _ _ hu => send_canon hu) _ ?_))
  refine foldl_canon (f := fun s j => s.modWarp _ _) (fun _ _ hu => modWarp_canon hu) _ (modWg_canon ?_)
  exact ite_canon (setCore_canon (putArrays_canon (allocate_canon h))) (putArrays_canon (allocate_canon h))

theorem remapReady_ends {core i : Nat} : Ends CanonState (s.remapReady core i) := by
  refine .foldlM (fun u va hu => ?_) _ h
  split
  · refine .ite (fun _ => ?_) fun _ => .ok hu
    exact .bind (homeReady_ends (l1DropAll_canon hu)) fun _ hv => .bind (.need hv) fun _ _ => .pure hv
  · exact .ok hu

@[simp] theorem setHealth_canon {c : Nat} {x : BitVec 32} : Memory.wf (s.setHealth c x).mem.bytes = true := h

@[simp] theorem recount_canon {c : Nat} : Memory.wf (s.recount c).mem.bytes = true := h

@[simp] theorem saveCores_canon {cores : List Nat} {p : Workgroup → Bool} : Memory.wf
    (s.saveCores cores p).mem.bytes = true :=
  foldl_canon (fun _ _ hu => ite_canon (beginSave_canon hu) hu) _ h

theorem withCert_canon {x : Cert} : Memory.wf ({ s with cert := x } : State).mem.bytes = true := h

theorem withRel_canon {r : Reliab} : Memory.wf ({ s with rel := r } : State).mem.bytes = true := h

@[simp] theorem retireCore_canon {c why : Nat} : Memory.wf (s.retireCore c why).mem.bytes = true := by
  unfold State.retireCore
  split
  · exact h
  · exact saveCores_canon (logEvent_canon (withRel_canon (setHealth_canon h)))

@[simp] theorem retireCourse_canon {k : Nat} : Memory.wf (s.retireCourse k).mem.bytes = true :=
  ite_canon h (foldl_canon (fun _ _ hu => retireCore_canon hu) _ (logEvent_canon (by exact h)))

@[simp] theorem charge_canon {c kind record limit why : Nat} : Memory.wf
    (s.charge c kind record limit why).mem.bytes = true :=
  ite_canon (retireCore_canon (by exact h)) (by exact h)

@[simp] theorem chargeWitness_canon {cores : List Nat} {id : Nat} : Memory.wf
    (s.chargeWitness cores id).mem.bytes = true := by
  refine foldl_canon (fun u k hu => ?_) _ (foldl_canon (fun _ _ hu => charge_canon (logEvent_canon hu)) _ h)
  exact ite_canon (retireCourse_canon (by exact hu)) (by exact hu)

@[simp] theorem drawSeeds_canon {epoch : Nat} : Memory.wf (s.drawSeeds epoch).mem.bytes = true := h

@[simp] theorem afterFailure_canon {id : Nat} : Memory.wf (s.afterFailure id).mem.bytes = true := by
  unfold State.afterFailure
  split
  · exact ite_canon (operatorFailed_canon h) h
  · exact h

@[simp] theorem failRecord_canon {id : Nat} {charged : List Nat} : Memory.wf (s.failRecord id charged).mem.bytes = true := by
  unfold State.failRecord
  split
  · exact h
  · exact afterFailure_canon (chargeWitness_canon (taintRecord_canon (setRecord_canon h)))

@[simp] theorem countTest_canon {failed : Bool} : Memory.wf (s.countTest failed).mem.bytes = true := h

@[simp] theorem rebind_canon {part : Nat} {news : List (Nat × Nat)} : Memory.wf (s.rebind part news).mem.bytes = true := h

end
end State

section
variable {s : State} (h : Memory.wf s.mem.bytes = true)
include h

theorem execPreemption_canon {r : Nat} {finish : Bool} : OutCanon (execPreemption r finish s) := by
  refine .next (ite_canon (finishSave_canon h) ?_)
  split
  · exact startPreemption_canon h
  · exact h

theorem execResumeWorkgroup_canon {core : Nat} : OutCanon (execResumeWorkgroup core s) := by
  unfold execResumeWorkgroup
  refine .next (ite_canon h ?_)
  split
  · exact h
  next r _ =>
  refine ite_canon h ?_
  have hr : Ends CanonState (((unitCores r.resume.length core).zip r.resume).foldlM (fun s e => s.remapReady e.1 e.2) s) :=
    .foldlM (fun _ _ hu => remapReady_ends hu) _ h
  generalize List.foldlM (fun s e => s.remapReady e.1 e.2) s ((unitCores r.resume.length core).zip r.resume) = x at hr
  cases hr with
  | ok ht =>
    refine foldl_canon (fun u e hu => acquire_canon ?_) _ (foldl_canon (fun _ _ hu => restoreWg_canon hu) _
      (dropWork_canon ht))
    refine foldl_canon (fun _ _ hv => modWarp_canon hv) _ (modWg_canon ?_)
    exact foldl_canon (fun _ _ hv => remap_canon hv) _ hu
  | @error e he =>
    cases e with
    | park p t => exact he
    | _ => exact h

theorem execFailureWindowExpiry_canon : OutCanon (execFailureWindowExpiry s) :=
  .next (foldl_canon (fun _ _ hu => recount_canon hu) _ (by exact h))

theorem execSeedEpoch_canon : OutCanon (execSeedEpoch s) := .next (ite_canon h (drawSeeds_canon h))

theorem execWitnessPlace_canon {id course : Nat} {record : BitVec 1024} {header : BitVec 512} :
    OutCanon (execWitnessPlace id course record header s) := by
  unfold execWitnessPlace
  refine .next ?_
  split
  · exact h
  refine ite_canon h (ite_canon (failRecord_canon h) (ite_canon h (runLaunch_canon (modRecord_canon ?_))))
  exact foldl_canon (fun _ _ hu => hold_canon hu) _ (addLaunch_canon h)

theorem execWitnessTest_canon {id : Nat} {values : List (BitVec 64)} : OutCanon (execWitnessTest id values s) := by
  unfold execWitnessTest
  refine .next ?_
  split
  · exact h
  split
  · exact defer_canon h
  split
  · exact h
  extract_lets +onlyGivenNames _ gone
  have hgone : Memory.wf gone.mem.bytes = true := h
  clear_value gone
  split
  · exact hgone
  split
  · exact h
  split
  · exact h
  split
  · extract_lets u v
    have hu : Memory.wf u.mem.bytes = true := setRecord_canon (countTest_canon hgone)
    clear_value u
    exact passRecord_canon (ite_canon (chargeWitness_canon hu) hu)
  · extract_lets r' u
    have hu : Memory.wf u.mem.bytes = true := setRecord_canon (countTest_canon hgone)
    clear_value u
    exact ite_canon (failRecord_canon hu) hu

theorem execReexecute_canon {id : Nat} : OutCanon (execReexecute id s) := by
  unfold execReexecute
  refine .next ?_
  split
  · refine ite_canon h (ite_canon (defer_canon h) (ite_canon (operatorFailed_canon h) ?_))
    split
    · exact operatorFailed_canon h
    · exact h
    refine ite_canon h ?_
    split
    · exact operatorFailed_canon h
    · exact operatorFailed_canon h
    refine ite_canon (foldl_canon (fun _ _ hu => askRun_canon hu) _ h) (ite_canon h (runLaunch_canon ?_))
    refine rebind_canon (commitOpen_canon (addLaunch_canon ?_))
    exact foldl_canon (fun _ _ hu => zeroRun_canon hu) _ h
  · exact h

end

end Sys2Proof.Machine
end

section
/-! PROOFS. Memory stays in its canonical form: scrubbing, re-striping, core errors, links and course resets. -/

namespace Sys2Proof.Machine

open State

namespace State

section
variable {s : State} (h : Memory.wf s.mem.bytes = true)
include h

omit h in
theorem withMem_canon {m : Mem} (hm : Memory.wf m.bytes = true) : Memory.wf
    ({ s with mem := m } : State).mem.bytes = true := hm

omit h in
theorem dropSlice_wf {m : Mem} {slice : Tab SliceLine} {line : Nat} {d : DirEntry} (hm : Memory.wf m.bytes = true) :
    Memory.wf (({ m with slice := slice } : Mem).setDir line d).bytes = true := hm

@[simp] theorem setBank_canon {b : Nat} {x : BitVec 32} : Memory.wf (s.setBank b x).mem.bytes = true := h

@[simp] theorem dropRegions_canon : Memory.wf (s.dropRegions).mem.bytes = true := by
  unfold State.dropRegions
  refine foldl_canon (fun _ _ h => ?_) _ h
  simp [h]

@[simp] theorem bankDo_canon {b : Nat} {drop : Bool} : Memory.wf (s.bankDo b drop).mem.bytes = true := by
  unfold State.bankDo
  extract_lets need s₁ r out v s₂
  have h₁ : Memory.wf s₁.mem.bytes = true := setBank_canon h
  clear_value s₁
  have h₂ : Memory.wf s₂.mem.bytes = true := withRel_canon h₁
  exact logEvent_canon (dropRegions_canon h₂)

end

@[simp] theorem retryReserve_canon {s : State} {l : List (Nat × Bool)} (h : Memory.wf s.mem.bytes = true) :
    Memory.wf (s.retryReserve l).mem.bytes = true := by
  induction l generalizing s with
  | nil => exact h
  | cons e rest ih => exact ite_canon (ih (bankDo_canon (withRel_canon h))) (ih h)

section
variable {s : State} (h : Memory.wf s.mem.bytes = true)
include h

@[simp] theorem bankEvent_canon {b : Nat} {drop : Bool} : Memory.wf (s.bankEvent b drop).mem.bytes = true :=
  ite_canon (bankDo_canon h) (ite_canon h (retryReserve_canon (send_canon (logEvent_canon (withRel_canon h)))))

@[simp] theorem bankCorrected_canon {b : Nat} : Memory.wf (s.bankCorrected b).mem.bytes = true := by
  unfold State.bankCorrected
  extract_lets x n t
  have ht : Memory.wf t.mem.bytes = true := setBank_canon h
  exact ite_canon (bankEvent_canon ht) (ite_canon (bankEvent_canon ht) ht)

@[simp] theorem bankFailed_canon {b : Nat} : Memory.wf (s.bankFailed b).mem.bytes = true := by
  unfold State.bankFailed
  extract_lets x n t
  have ht : Memory.wf t.mem.bytes = true := setBank_canon h
  exact ite_canon (bankEvent_canon ht) ht

@[simp] theorem poisonStored_canon {sec : Nat} : Memory.wf (s.poisonStored sec).mem.bytes = true := h

@[simp] theorem beyondCode_canon {sec : Nat} : Memory.wf (s.beyondCode sec).mem.bytes = true := by
  have hfree := free_canon (f := Config.freeChoice) h
  unfold State.beyondCode
  dsimp only
  refine ite_canon (bankFailed_canon (poisonStored_canon hfree)) (foldl_canon (fun u i hu => ?_) _ hfree)
  exact writeMasked_wf _ _ _ _ _ hu

@[simp] theorem setStrong_canon {bank n : Nat} : Memory.wf (s.setStrong bank n).mem.bytes = true := h

@[simp] theorem moveLine_canon {region : Nat} {bad : List Nat} : Memory.wf (s.moveLine region bad).mem.bytes = true := by
  unfold State.moveLine
  extract_lets +onlyGivenNames r line s₁ d s₂ r' s₃ s₄
  have h₁ : Memory.wf s₁.mem.bytes = true := foldl_canon (fun _ _ hu => bankFailed_canon (poisonStored_canon hu)) _ h
  clear_value s₁
  have h₂ : Memory.wf s₂.mem.bytes = true := pastWatermark_canon (by exact h₁)
  clear_value s₂
  have h₃ : Memory.wf s₃.mem.bytes = true := ite_canon (setRegion_canon h₂) h₂
  clear_value s₃
  have h₄ : Memory.wf s₄.mem.bytes = true := ite_canon h₃ (dirRoom_canon h₃)
  exact h₄

@[simp] theorem poisonWhole_canon {line : Nat} : Memory.wf (s.poisonWhole line).mem.bytes = true := by
  unfold State.poisonWhole
  refine foldl_canon (fun _ _ h => ?_) _ h
  simp [h]

@[simp] theorem poisonLine_canon {line : Nat} : Memory.wf (s.poisonLine line).mem.bytes = true := by
  unfold State.poisonLine
  split <;> simp [h]

@[simp] theorem zeroPair_canon {c : Nat} : Memory.wf (s.zeroPair c).mem.bytes = true := h

@[simp] theorem setLink_canon {x1 b : Nat} {l : Link} : Memory.wf (s.setLink x1 b l).mem.bytes = true := h

@[simp] theorem destroyLine_canon {clusters : List Nat} {line : Nat} : Memory.wf
    (s.destroyLine clusters line).mem.bytes = true := by
  have ht := wakeHolders_canon (clusters := clusters) (line := line) h
  unfold State.destroyLine
  extract_lets t dirty _ m u
  split
  · refine ite_canon h ?_
    have hu : Memory.wf u.mem.bytes = true := withMem_canon (dropSlice_wf h)
    clear_value u
    exact ite_canon (poisonWhole_canon hu) hu
  · refine ite_canon h ?_
    dsimp only
    exact h
  · exact h

@[simp] theorem destroyDie_canon {d : Nat} {x2 : Nat → Bool} : Memory.wf (s.destroyDie d x2).mem.bytes = true := by
  unfold State.destroyDie
  refine foldl_canon (fun _ _ h => ?_) _ h
  simp [h]

@[simp] theorem setCourse_canon {k : Nat} {f : Word → Word} : Memory.wf (s.setCourse k f).mem.bytes = true := h

@[simp] theorem resetKernel_canon {l : Launch} {id : Nat} : Memory.wf (s.resetKernel l id).mem.bytes = true := by
  have hk := modLaunch_canon (n := l.num) (f :=
    fun l => { l with join := 0, nextOrd := l.count, code := if l.code = 0 then 0x30 else l.code, cause :=
      if l.code = 0 then 0x21 else l.cause })
    (modRecord_canon (id := id) (f := fun r => if rState r = 2 then setRState r 1 else r)
      (foldl_canon (f := fun s i => s.abortWg i 0x21 3) (fun _ _ hu => abortWg_canon hu) (s.liveWgs l.num) h))
  exact hk

@[simp] theorem resetRecords_canon {k : Nat} : Memory.wf (s.resetRecords k).mem.bytes = true := by
  refine foldl_canon (fun u l hu => ?_) _ (foldl_canon (fun _ _ hu => cancelAttempt_canon hu) _ h)
  split
  · exact resetKernel_canon hu
  · exact hu

theorem withSchedRel_canon {sched : Sched} {rel : Reliab} :
    Memory.wf ({ s with sched := sched, rel := rel } : State).mem.bytes = true := h

@[simp] theorem startReset_canon {k reason : Nat} : Memory.wf (s.startReset k reason).mem.bytes = true := by
  unfold State.startReset
  split
  · exact h
  extract_lets s₁ r _ _ s₂ s₃ gone s₄ s₅
  have h₁ : Memory.wf s₁.mem.bytes = true := setCourse_canon h
  clear_value s₁
  have h₂ : Memory.wf s₂.mem.bytes = true := withSchedRel_canon h₁
  clear_value s₂
  have h₄ : Memory.wf s₄.mem.bytes = true := foldl_canon (fun _ _ hu => abortWg_canon hu) _ (logEvent_canon h₂)
  clear_value s₄
  exact saveCores_canon (resetRecords_canon h₄)

@[simp] theorem setLinks_canon {k : Nat} {l : Link} : Memory.wf (s.setLinks k l).mem.bytes = true :=
  foldl_canon (fun _ _ hu => foldl_canon (fun _ _ hv => ite_canon hv (setLink_canon (setLink_canon hv))) _ hu) _ h

@[simp] theorem loseDirty_canon {k : Nat} {lost : List Nat} : Memory.wf (s.loseDirty k lost).mem.bytes = true := by
  unfold State.loseDirty
  refine foldl_canon (fun _ _ h => ?_) _ h
  simp [h]

@[simp] theorem unmapDrained_canon {lost : List Nat} {x : Mapping} : Memory.wf (s.unmapDrained lost x).mem.bytes = true :=
  foldl_canon (fun _ _ hu => ite_canon (poisonWhole_canon (by exact hu)) (unmapLine_canon hu)) _ (by exact h)

@[simp] theorem drainCourse_canon {k : Nat} {lost : List Nat} : Memory.wf (s.drainCourse k lost).mem.bytes = true := by
  unfold State.drainCourse
  extract_lets +onlyGivenNames cores lost' s₁ s₂ s₃ s₄
  have h₂ : Memory.wf s₂.mem.bytes = true := foldl_canon (fun _ _ hu => destroyLine_canon hu) _ (loseDirty_canon h)
  clear_value s₂
  have h₃ : Memory.wf s₃.mem.bytes = true := foldl_canon (fun _ _ hu => closeInterval_canon (l1Flush_canon hu)) _ h₂
  clear_value s₃
  have h₄ : Memory.wf s₄.mem.bytes = true := foldl_canon (fun _ _ hu => unmapDrained_canon hu) _ h₃
  clear_value s₄
  refine foldl_canon (fun _ _ hu => untrack_canon hu) _ ?_
  exact foldl_canon (f := fun s l => _) (fun _ _ hu => ite_canon hu (ite_canon (homeTake_canon hu)
    (destroyLine_canon hu))) _ h₄

@[simp] theorem resetDies_canon {k : Nat} : Memory.wf (s.resetDies k).mem.bytes = true := by
  have hd := destroyDie_canon (d := 4 + k) (x2 := fun _ => true) (destroyDie_canon (d := k) (x2 := fun _ => true)
    (setCourse_canon (k := k) (f := fun x => setField x 2 0 2) (setLinks_canon (k := k) (l := .fenced) h)))
  exact foldl_canon (fun _ _ hu => setCore_canon (zeroPair_canon hu)) _ (by exact hd)

end
end State

section
variable {s : State} (h : Memory.wf s.mem.bytes = true)
include h

theorem execDeviceTick_canon : OutCanon (execDeviceTick s) := .next (flushLogs_canon (flushAllFaults_canon (by exact h)))

theorem execL1AgeInvalidate_canon {core line : Nat} : OutCanon (execL1AgeInvalidate core line s) :=
    .next (ite_canon (l1Drop_canon h) h)

theorem execHourlyCounterClear_canon : OutCanon (execHourlyCounterClear s) :=
  .next (ite_canon h (foldl_canon (fun _ _ hu => setBank_canon hu) _ h))

theorem execScrub_canon {sec symbols : Nat} {pin : Bool} : OutCanon (execScrub sec symbols pin s) := by
  unfold execScrub
  refine .next ?_
  split
  · split
    · exact h
    · exact bankCorrected_canon h
    · exact bankFailed_canon (poisonStored_canon h)
    · exact beyondCode_canon h
  · exact ite_canon h (poisonStored_canon h)
  · exact h

theorem execReencodeRow_canon {bank : Nat} {last : Bool} : OutCanon (execReencodeRow bank last s) :=
  .next (ite_canon h (ite_canon (setBank_canon (setStrong_canon h)) (setStrong_canon h)))

theorem execMigrateLine_canon {move : LineMove} : OutCanon (execMigrateLine move s) :=
  .next (ite_canon h (ite_canon (ite_canon h (setRegion_canon h)) (ite_canon h (moveLine_canon h))))

theorem execPipelineError_canon {w : PipeAt} : OutCanon (execPipelineError w s) := by
  unfold execPipelineError
  refine .next ?_
  split
  · refine ite_canon h ?_
    split
    · exact modWarp_canon (by exact h)
    · exact modWarp_canon h
  · exact h

theorem execPipelineRetry_canon {w : Nat} {passed : Bool} : OutCanon (execPipelineRetry w passed s) := by
  unfold execPipelineRetry
  refine .next ?_
  split
  · refine ite_canon h (ite_canon (modWarp_canon (logEvent_canon ?_)) (abortWg_canon (charge_canon (logEvent_canon ?_)))) <;>
      exact count_canon (withRel_canon h)
  · exact h

theorem execCoreUe_canon {core : Nat} {hit : CoreHit} : OutCanon (execCoreUe core hit s) := by
  have hp := foldl_canon (f := fun s l => s.poisonLine l) (fun _ _ hu => poisonLine_canon hu) hit.lines
    (withRel_canon (r := { s.rel with corrected := s.rel.corrected + hit.single }) h)
  exact .next (ite_canon h (ite_canon hp (charge_canon (foldl_canon (fun _ _ hu => abortWg_canon hu) _ hp))))

theorem execPowerGate_canon {core : Nat} : OutCanon (execPowerGate core s) :=
  .next (ite_canon h (setCore_canon (zeroPair_canon (l1Flush_canon h))))

theorem execCoreWake_canon {core : Nat} : OutCanon (execCoreWake core s) := .next (ite_canon (setCore_canon h) h)

theorem execSelfTestDone_canon {core : Nat} {pass : Bool} : OutCanon (execSelfTestDone core pass s) :=
  .next (ite_canon h (ite_canon (setCore_canon h) (retireCore_canon (logEvent_canon (setCore_canon h)))))

theorem execLinkLowPowerEntry_canon {a b : Nat} : OutCanon (execLinkLowPowerEntry a b s) :=
    .next (ite_canon (setLink_canon h) h)

theorem execLinkWake_canon {a b : Nat} : OutCanon (execLinkWake a b s) := .next (ite_canon (setLink_canon h) h)

theorem execLinkTrained_canon {a b : Nat} : OutCanon (execLinkTrained a b s) := by
  unfold execLinkTrained
  refine .next ?_
  split
  · exact setLink_canon h
  · exact setLink_canon h
  · exact h

theorem execLinkWakeTimeout_canon {a b : Nat} : OutCanon (execLinkWakeTimeout a b s) := by
  unfold execLinkWakeTimeout
  refine .next (ite_canon h ?_)
  split
  · exact ite_canon (setLink_canon h) h
  · exact setLink_canon h
  · exact h

theorem execInterconnectUe_canon {course : Nat} {lines : List Nat} : OutCanon (execInterconnectUe course lines s) :=
  .next (startReset_canon (foldl_canon (fun _ _ hu => poisonLine_canon hu) _ h))

theorem execLinkFenceTimeout_canon {a b : Nat} : OutCanon (execLinkFenceTimeout a b s) := by
  unfold execLinkFenceTimeout
  refine .next ?_
  split
  next t _ =>
    have hl := logEvent_canon (kind := 8) (unitType := 3) (unit := a * 11 + b) (detail := 0)
      (destroyDie_canon (d := b) (x2 := fun l => s.homeDie l == a) (setLink_canon (x1 := a) (b := b) (l := .fenced) h))
    exact ite_canon h (ite_canon (startReset_canon hl) (ite_canon (startReset_canon hl) hl))
  · exact h

theorem execCourseDrainDone_canon {course : Nat} : OutCanon (execCourseDrainDone course s) :=
  .next (ite_canon h (resetDies_canon (drainCourse_canon h)))

theorem execCourseDrainDeadline_canon {course : Nat} {lost : List Nat} : OutCanon
    (execCourseDrainDeadline course lost s) := by
  unfold execCourseDrainDeadline
  refine .next ?_
  split
  · exact h
  · exact ite_canon h (resetDies_canon (drainCourse_canon (foldl_canon (fun _ _ hu => abortWg_canon hu) _ h)))

theorem execCourseRejoin_canon {course : Nat} : OutCanon (execCourseRejoin course s) := by
  refine .next (ite_canon h (atDieReset_canon h fun t ht => endDieReset_canon ?_))
  exact foldl_canon (f := fun s l => _) (fun _ _ hu => ite_canon (homeTake_canon hu) hu) _ (setCourse_canon
    (setLinks_canon ht))

theorem execCourseFailed_canon {course : Nat} : OutCanon (execCourseFailed course s) := by
  unfold execCourseFailed
  refine .next ?_
  split
  · exact h
  · refine ite_canon h (atDieReset_canon h fun t ht => endDieReset_canon (retireCourse_canon (send_canon
      (logEvent_canon ?_))))
    have hc := setCourse_canon (k := course) (f := fun x => setField (setField x 27 24 4) 2 0 4) ht
    exact withRel_canon hc

theorem execThrottle_canon {lower : Bool} : OutCanon (execThrottle lower s) :=
  .next (ite_canon (ite_canon (by exact h) h) (ite_canon (by exact h) h))

end

end Sys2Proof.Machine
end

section
/-! PROOFS. Memory stays in its canonical form: the mailbox commands. -/

namespace Sys2Proof.Machine

open State

/-- A property that each step keeps holds of what a fold of `Except` steps ends in. -/
theorem foldl_ok {α ε σ : Type} {P : σ → Prop} {f : Except ε σ → α → Except ε σ}
    (hf : ∀ x a, (∀ t, x = .ok t → P t) → ∀ t, f x a = .ok t → P t) (l : List α) {x : Except ε σ}
    (hx : ∀ t, x = .ok t → P t) : ∀ t, l.foldl f x = .ok t → P t := by
  induction l generalizing x with
  | nil => exact hx
  | cons a l ih => exact ih (hf x a hx)

theorem exists_of_map_eq_ok {ε α β : Type} {f : α → β} {x : Except ε α} {b : β} (hx : x.map f = .ok b) :
    ∃ a, x = .ok a ∧ f a = b := by
  cases x with
  | ok a => exact ⟨a, rfl, Except.ok.inj hx⟩
  | error e => cases hx

namespace State

section
variable {s : State} (h : Memory.wf s.mem.bytes = true)
include h

@[simp] theorem placeOwner_canon {pa len : Nat} {e : BitVec 32} : Memory.wf (s.placeOwner pa len e).mem.bytes = true :=
  foldl_canon (fun _ _ hu => setKpage_canon hu) _ (foldl_canon (fun _ _ hu => setOwner_canon hu) _ (withXlat_canon h))

@[simp] theorem released_canon : Memory.wf (s.released).mem.bytes = true := by
  unfold State.released
  simp [h]

theorem assign_canon {p : Pending} {pa len : Nat} {e : BitVec 32} : AnsCanon (s.assign p pa len e) :=
  .ite (fun _ => repost_canon h) fun _ => .ite (fun _ => .ok (released_canon (placeOwner_canon h))) fun _ =>
    .ite (fun _ => .ok (placeOwner_canon h)) fun _ => .ok (withXlat_canon (foldl_canon (fun _ _ hu => setOwner_canon hu) _ h))

end

@[simp] theorem zeroDrops_canon {s : State} {l : List (Nat × Nat × List Nat)} (h : Memory.wf s.mem.bytes = true) :
    Memory.wf (s.zeroDrops l).mem.bytes = true := by
  induction l generalizing s with
  | nil => exact h
  | cons d rest ih =>
    have hd := dropFrames_canon (frames := d.2.2) (withXlat_canon (x := { s.xlat with drops := s.xlat.drops.erase d }) h)
    exact ite_canon (ih (ite_canon (markSlot_canon hd) hd)) (ih (askFrames_canon h))

section
variable {s : State} (h : Memory.wf s.mem.bytes = true)
include h

@[simp] theorem zeroJob_canon {j : ZeroJob} {rest : List ZeroJob} : Memory.wf (s.zeroJob j rest).mem.bytes = true := by
  refine ite_canon (askRun_canon h) (ite_canon h ?_)
  have hplace (t : State) (ht : Memory.wf t.mem.bytes = true) :=
    placeOwner_canon (pa := j.pa) (len := j.len) (e := j.owner)
      (zeroRun_canon (pa := j.pa) (n := j.len) (withXlat_canon (x := { t.xlat with zero := rest }) ht))
  dsimp only
  split
  · exact atAnswer_canon h fun t ht => answer_canon (hplace t ht)
  · exact hplace s h

@[simp] theorem freeBinding_canon {first : Nat} : Memory.wf (s.freeBinding first).mem.bytes = true :=
  retireRecord_canon (withCert_canon (modBinding_canon (zeroRun_canon h)))

@[simp] theorem clearRing_canon {b : Nat} : Memory.wf (s.clearRing b).mem.bytes = true := by
  unfold State.clearRing
  split <;> simp [h]

@[simp] theorem startPartition_canon {n : Nat} : Memory.wf (s.startPartition n).mem.bytes = true := by
  unfold State.startPartition
  simp [h]

@[simp] theorem endQueue_canon {k : Nat} : Memory.wf (s.endQueue k).mem.bytes = true := by
  unfold State.endQueue
  dsimp only
  split <;> simp [h]

@[simp] theorem abandonStuck_canon {x : Stuck} : Memory.wf (s.abandonStuck x).mem.bytes = true := by
  refine foldl_canon (fun _ _ hu => dropSend_canon (ite_canon hu (sendArrive_canon hu))) _ ?_
  exact foldl_canon (fun _ _ hu => endMx_canon hu) _ (foldl_canon (fun _ _ hu => endOp_canon hu) _ h)

@[simp] theorem abandonEngines_canon {num : Nat} : Memory.wf (s.abandonEngines num).mem.bytes = true := by
  unfold State.abandonEngines
  simp [h]

@[simp] theorem freeExited_canon {num : Nat} : Memory.wf (s.freeExited num).mem.bytes = true := by
  refine foldl_canon (fun u i hu => ?_) _ h
  dsimp only
  split
  · exact setWg_canon (freeSlot_canon hu)
  · exact hu

theorem withSched_canon {x : Sched} : Memory.wf ({ s with sched := x } : State).mem.bytes = true := h

@[simp] theorem endLaunch_canon {num code : Nat} : Memory.wf (s.endLaunch num code).mem.bytes = true := by
  unfold State.endLaunch
  split
  · exact h
  refine ite_canon h (withSched_canon (modLaunch_canon (abandonEngines_canon (freeExited_canon ?_))))
  refine foldl_canon (fun _ _ hu => abortWg_canon hu) _ ?_
  split
  · exact endAttempt_canon (modLaunch_canon h)
  · exact modLaunch_canon h

@[simp] theorem endContext_canon {n : Nat} : Memory.wf (s.endContext n).mem.bytes = true := by
  refine ite_canon h (withXlat_canon (withSched_canon (abandonStuck_canon ?_)))
  exact foldl_canon (fun _ _ hu => operatorFailed_canon hu) _ (foldl_canon (fun _ _ hu => endLaunch_canon hu) _ h)

theorem sign_canon {key : BitVec 384} {n x : Nat} : CanonSnd (s.sign key n x) := h

theorem certificate_canon {first : Nat} : CanonSnd (s.certificate first) := h

theorem faultImage_canon : CanonSnd s.faultImage := h

theorem putBuffer_canon {p : Pending} {a n x off : Nat} {t : State} (ht : s.putBuffer p a n x off = .ok t) :
    Memory.wf t.mem.bytes = true := by
  unfold State.putBuffer at ht
  split at ht
  · cases ht
    exact send_canon h
  next c _ =>
    dsimp only at ht
    obtain ⟨⟨u, o⟩, hu, rfl⟩ := exists_of_map_eq_ok ht
    refine foldl_ok (P := fun a => Memory.wf a.1.mem.bytes = true) (fun y q hy v hv => ?_) _ (fun v hv => ?_) _ hu
    · cases y with
      | error e => cases hv
      | ok y =>
        obtain ⟨w, o⟩ := y
        have hx := translate_ends (w := plumbWho c) (kind := .write) (p := .w) (tid := false)
          (va := BitVec.ofNat 64 q.1) (hy _ rfl)
        dsimp only [bind, Except.bind] at hv
        generalize w.translate _ _ _ _ _ = z at hx hv
        cases hx with
        | error he => cases hv
        | @ok z hz =>
          dsimp only at hv
          split at hv
          · cases hv
          · cases hv
            exact writeRun_canon hz
    · cases hv
      exact h

theorem putBuffer_answer {p : Pending} {a n x off r : Nat} :
    AnsCanon (do return (some r, ← s.putBuffer p a n x off)) :=
  .bind fun _ ht => .pure (putBuffer_canon h ht)

/-! ### The commands' bodies -/

variable {p : Pending}

theorem frameAssign_canon : AnsCanon (s.frameAssign p) := by
  refine .bind fun _ _ => .bind fun _ _ => .bind fun _ _ => .bind fun _ _ => .bind fun _ _ => assign_canon ?_
  exact ite_canon h (withHost_canon h)

theorem kilnAssign_canon : AnsCanon (s.kilnAssign p) :=
  .bind fun _ _ => .bind fun _ _ => .bind fun _ _ => .bind fun _ _ => .bind fun _ _ => assign_canon h

theorem kilnFree_canon : AnsCanon (s.kilnFree p) :=
  .bind fun _ _ => .bind fun _ _ => .ite (fun _ => .pure h) fun _ => .bind fun _ _ =>
    .ite (fun _ => repost_canon (askRun_canon h)) fun _ => .pure (freeBinding_canon h)

theorem partSet_canon : AnsCanon (s.partSet p) := by
  refine .bind fun _ _ => .bind fun _ _ => .bind fun _ _ => .bind fun _ _ => .bind fun _ _ => .bind
    fun _ _ => .bind fun _ _ => .pure ?_
  exact ite_canon (startPartition_canon (withXlat_canon h)) (withXlat_canon h)

theorem ctxSet_canon : AnsCanon (s.ctxSet p) := by
  have hend {c : Prop} [Decidable c] {x : Xlat} : AnsCanon (if c then s.repost p else pure (some 0, { s with xlat := x })) :=
    .ite (fun _ => repost_canon h) fun _ => .pure (withXlat_canon h)
  refine .bind fun _ _ => .bind fun _ _ => .bind fun _ _ => .bind fun _ _ => .bind fun _ _ => .ite (fun _ => ?_) fun _ => ?_
  · exact .bind fun _ _ => .bind fun _ _ => .bind fun _ _ => .bind fun _ _ => .bind fun _ _ => .bind fun _ _ => hend
  · exact .bind fun _ _ => .bind fun _ _ => .bind fun _ _ => .bind fun _ _ => hend

theorem queueSet_canon : AnsCanon (s.queueSet p) := by
  refine .bind fun _ _ => .bind fun _ _ => .bind fun _ _ => .bind fun _ _ => .bind fun _ _ => .bind fun _ _ => ?_
  refine .ite (fun _ => .pure (withSched_canon (endQueue_canon h))) fun _ => .bind fun _ _ => .bind fun _ _ => .pure ?_
  exact withSched_canon (writeQueue_canon (setQueue_canon (endQueue_canon h)))

theorem peerSet_canon : AnsCanon (s.peerSet p) := by
  refine .bind fun _ _ => .bind fun _ _ => .bind fun _ _ => .bind fun _ _ => .bind fun _ _ => .bind fun _ _ => ?_
  exact .ite (fun _ => repost_canon h) fun _ => .pure (withFab_canon h)

theorem launchEnd_canon : AnsCanon (s.launchEnd p) := by
  unfold State.launchEnd
  split
  · exact .error _
  refine .bind fun _ _ => .bind fun _ _ => ?_
  split
  · exact .pure h
  · exact .ite (fun _ => repost_canon h) fun _ => .pure (endLaunch_canon h)

theorem ctxEnd_canon : AnsCanon (s.ctxEnd p) :=
  .ite (fun _ => .pure h) fun _ => .bind fun _ _ => .ite (fun _ => repost_canon h) fun _ => .pure (endContext_canon h)

theorem setFar_canon : AnsCanon (s.setFar p) := by
  unfold State.setFar
  extract_lets set ports first
  split
  · exact .error _
  refine .bind fun _ _ => ?_
  split
  · exact .error _
  · exact .pure (withHost_canon h)

theorem certify_canon : AnsCanon (s.certify p) := by
  have hend {c : Bool} : AnsCanon (do
      mbNeed c mbRefused 16
      let (x, s) := s.certificate (kFirst (s.kpage (p.arg 16 4)))
      return (some 0, ← s.putBuffer p (p.arg 24 8) 256 x 24)) := by
    have hc := certificate_canon (first := kFirst (s.kpage (p.arg 16 4))) h
    generalize s.certificate _ = c at hc
    exact .bind fun _ _ => putBuffer_answer hc
  exact .ite (fun _ => .bind fun _ _ => hend) fun _ => hend

end
end State

section
variable {s : State} (h : Memory.wf s.mem.bytes = true) {n : Nat}
include h

theorem execZeroing_canon : OutCanon (execZeroing s) := by
  have hd := zeroDrops_canon (l := s.xlat.drops) h
  unfold execZeroing
  refine .next ?_
  split
  · exact hd
  · exact zeroJob_canon hd

theorem execFrameAssign_canon : OutCanon (execFrameAssign n s) := .next (command_canon h fun _ _ ht => frameAssign_canon ht)

theorem execKilnAssign_canon : OutCanon (execKilnAssign n s) := .next (command_canon h fun _ _ ht => kilnAssign_canon ht)

theorem execKilnFree_canon : OutCanon (execKilnFree n s) := .next (command_canon h fun _ _ ht => kilnFree_canon ht)

theorem execPartSet_canon : OutCanon (execPartSet n s) := .next (command_canon h fun _ _ ht => partSet_canon ht)

theorem execCtxSet_canon : OutCanon (execCtxSet n s) := .next (command_canon h fun _ _ ht => ctxSet_canon ht)

theorem execQueueSet_canon : OutCanon (execQueueSet n s) := .next (command_canon h fun _ _ ht => queueSet_canon ht)

theorem execPeerSet_canon : OutCanon (execPeerSet n s) := .next (command_canon h fun _ _ ht => peerSet_canon ht)

theorem execLaunchEnd_canon : OutCanon (execLaunchEnd n s) := .next (command_canon h fun _ _ ht => launchEnd_canon ht)

theorem execCtxEnd_canon : OutCanon (execCtxEnd n s) := .next (command_canon h fun _ _ ht => ctxEnd_canon ht)

theorem execRelSet_canon : OutCanon (execRelSet n s) :=
  .next (command_canon h fun _ _ ht => .bind fun _ _ => .pure (withRel_canon ht))

theorem execCertSet_canon : OutCanon (execCertSet n s) :=
  .next (command_canon h fun _ _ ht => .bind fun _ _ => .pure (withCert_canon ht))

theorem execFaultSet_canon : OutCanon (execFaultSet n s) :=
  .next (command_canon h fun _ _ ht => .bind fun _ _ => .pure (withRel_canon ht))

theorem execPowerSet_canon : OutCanon (execPowerSet n s) :=
  .next (command_canon h fun _ _ ht => .bind fun _ _ => .pure (withHost_canon ht))

theorem execFarSet_canon : OutCanon (execFarSet n s) := .next (command_canon h fun _ _ ht => setFar_canon ht)

theorem execDieReset_canon : OutCanon (execDieReset n s) :=
  .next (command_canon h fun _ _ ht => .bind fun _ _ => .ite (fun _ => .pure ht) fun _ => .pure (startReset_canon
    (withHost_canon ht)))

theorem execCertify_canon : OutCanon (execCertify n s) := .next (command_canon h fun _ _ ht => certify_canon ht)

theorem execFaultExport_canon : OutCanon (execFaultExport n s) := by
  refine .next (command_canon h fun p t ht => .bind fun _ _ => ?_)
  have hc := faultImage_canon ht
  generalize t.faultImage = c at hc
  exact putBuffer_answer hc

/-- `trimRecord` is named first: the kernel must not open it on a length less 65,536 (see `ctlRead_canon`). -/
theorem execFaultImport_canon {image : List (BitVec 8)} : OutCanon (execFaultImport n image s) := by
  unfold execFaultImport
  obtain ⟨trim, htrim⟩ : ∃ f, f = trimRecord := ⟨_, rfl⟩
  rw [← htrim]
  clear htrim
  refine .next ?_
  split
  · refine ite_canon h (command_canon h fun _ t ht => ?_)
    refine .ite (fun _ => ?_) fun _ => .ok (logEvent_canon (withRel_canon ht))
    extract_lets old l
    split
    exact .ok (withRel_canon ht)
  · exact h

end

end Sys2Proof.Machine
end

section
/-! PROOFS. Memory stays in its canonical form: checkpoints, the host and the boot. -/

namespace Sys2Proof.Machine

open State

namespace State

theorem copyBlocks_canon {s : State} {base at' : Nat} {l : List (Nat × Nat × BitVec 32)} (h : Memory.wf s.mem.bytes = true) :
    CanonSnd (s.copyBlocks base l at') := by
  induction l generalizing s at' with
  | nil => exact h
  | cons b rest ih =>
    obtain ⟨pa, len, e⟩ := b
    exact ih (withMem_canon (Tab.wf_graft _ _ _ _ _ _ h))

section
variable {s : State} (h : Memory.wf s.mem.bytes = true)
include h

@[simp] theorem writeBackAll_canon : Memory.wf s.writeBackAll.mem.bytes = true := by
  refine foldl_canon (fun u l hu => withMem_canon (Memory.wf_homeTake _ l hu)) _ ?_
  exact foldl_canon (fun _ _ hu => l1Clean_canon hu) _ h

@[simp] theorem hostWrite_canon {pa n data : Nat} : Memory.wf (s.hostWrite pa n data).mem.bytes = true := by
  unfold State.hostWrite
  simp [h]

@[simp] theorem thaw_canon : Memory.wf s.thaw.mem.bytes = true :=
  foldl_canon (fun _ _ hu => hostWrite_canon hu) _ (by exact h)

@[simp] theorem writeLists_canon {base time seq : Nat} {p : CkptPlan} {blocks : List Nat} :
    Memory.wf (s.writeLists base time seq p blocks).mem.bytes = true := by
  unfold State.writeLists
  extract_lets k lists n head
  split
  next g t ht =>
  exact writeRun_canon (writeRun_canon (canon_of_eq ht (sign_canon h)))

theorem checkpoint_canon {p : Pending} : AnsCanon (s.checkpoint p) :=
  .bind fun _ _ => .bind fun _ _ => .pure (saveCores_canon (by exact h))

theorem restore_canon {p : Pending} : AnsCanon (s.restore p) := by
  unfold State.restore
  dsimp only
  split
  · exact .error _
  · exact .bind fun _ _ => .pure (withHost_canon h)

theorem restoreBlock_canon {base : Nat} {r : CkptRead} {b : BlockEntry} : CanonSnd (s.restoreBlock base r b) := by
  unfold State.restoreBlock
  extract_lets +onlyGivenNames pages kept free held src image s₁
  have h₁ : Memory.wf s₁.mem.bytes = true := zeroRun_canon h
  clear_value s₁
  refine ite_snd_canon h₁ ?_
  extract_lets +onlyGivenNames s₂
  have h₂ : Memory.wf s₂.mem.bytes = true := placeOwner_canon h₁
  clear_value s₂
  refine ite_snd_canon h₂ ?_
  extract_lets out from' _ m mine m' s₃
  have hm : Memory.wf m'.bytes = true :=
    List.foldlRecOn (motive := fun m : Mem => Memory.wf m.bytes = true) mine _ (Tab.wf_graft _ _ _ _ _ _ h₂)
      fun _ hm _ _ => hm
  clear_value m'
  exact foldl_canon (fun _ _ hu => setKpage_canon hu) _ (withMem_canon (s := s₂) hm)

end

theorem restoreBlocks_canon {s : State} {base i : Nat} {r : CkptRead} {l : List BlockEntry}
    (h : Memory.wf s.mem.bytes = true) :
    CanonSnd (s.restoreBlocks base r l i) := by
  induction l generalizing s i with
  | nil => exact h
  | cons b rest ih => exact ih (restoreBlock_canon h)

section
variable {s : State} (h : Memory.wf s.mem.bytes = true)
include h

@[simp] theorem snoopAdd_canon {line : Nat} : Memory.wf (s.snoopAdd line).mem.bytes = true := by
  unfold State.snoopAdd
  dsimp only
  (repeat' split) <;> simp [h]

@[simp] theorem countEgress_canon {e : Egress} : Memory.wf (s.countEgress e).mem.bytes = true := by
  unfold State.countEgress
  split
  · exact h
  · exact countRefused_canon h
  · exact withHost_canon h

@[simp] theorem applyFuses_canon : Memory.wf s.applyFuses.mem.bytes = true := by
  refine foldl_canon (fun u c hu => ?_) _ h
  have hx := free_canon (f := Config.freeWord) hu
  exact setCore_canon (setHealth_canon hx)

@[simp] theorem abandonAll_canon : Memory.wf (s.abandonAll).mem.bytes = true := by
  unfold State.abandonAll
  refine foldl_canon (fun _ _ h => ?_) _ h
  simp [h]

@[simp] theorem setTdi_canon {part : Nat} {x : Tdi} : Memory.wf (s.setTdi part x).mem.bytes = true := h

end
end State

section
variable {s : State} (h : Memory.wf s.mem.bytes = true) {n : Nat}
include h

theorem execCheckpoint_canon : OutCanon (execCheckpoint n s) := by
  unfold execCheckpoint
  refine .next ?_
  split
  · refine ite_canon h (ite_canon (writeBackAll_canon h) (withHost_canon (writeBackAll_canon h)))
  · exact command_canon h fun _ _ ht => checkpoint_canon ht

theorem execCheckpointComplete_canon : OutCanon (execCheckpointComplete s) := by
  unfold execCheckpointComplete
  refine .next ?_
  split
  · refine atAnswer_canon h fun t ht => ite_canon (answer_canon (thaw_canon (withHost_canon ht))) ?_
    dsimp only
    have hb {base l a} := copyBlocks_canon (base := base) (l := l) (at' := a) ht
    exact answer_canon (thaw_canon (withHost_canon (writeLists_canon hb)))
  · exact h

theorem execRestore_canon : OutCanon (execRestore n s) := .next (command_canon h fun _ _ ht => restore_canon ht)

theorem execRestoreComplete_canon : OutCanon (execRestoreComplete s) := by
  unfold execRestoreComplete
  refine .next ?_
  split
  · refine atAnswer_canon h fun t ht => ?_
    dsimp only
    split
    · exact answer_canon (withHost_canon ht)
    · refine ite_canon (foldl_canon (fun _ _ hu => askRun_canon hu) _ ht) (answer_canon ?_)
      exact restoreBlocks_canon (withHost_canon ht)
  · exact h

theorem execHostMemRead_canon {place : HostPlace} {stream : Option Nat} : OutCanon (execHostMemRead place n stream s) := by
  unfold execHostMemRead
  refine .next ?_
  split
  · exact ite_canon h (send_canon h)
  next pa =>
    refine ite_canon h ?_
    split
    · refine ite_canon (send_canon (free_canon (f := Config.freeWord) h)) (ite_canon (send_canon h) (ite_canon h ?_))
      have hr := homeReady_ends (line := pa / 128) (c := 128) (write := false) h
      generalize s.homeReady _ _ _ = r at hr
      cases hr with
      | ok ht => exact send_canon (snoopAdd_canon (homeLoad_canon ht))
      | @error e he =>
        cases e with
        | park p t => exact he
        | _ => exact h
    · exact send_canon (countEgress_canon h)

theorem execHostMemWrite_canon {bar2 : Bool} {pa data : Nat} {stream : Option Nat} :
    OutCanon (execHostMemWrite bar2 pa n data stream s) := by
  unfold execHostMemWrite
  refine .next (ite_canon (ite_canon h (withHost_canon h)) (ite_canon h ?_))
  split
  · exact ite_canon (send_canon h) (ite_canon (withHost_canon h) (ite_canon h (hostWrite_canon h)))
  · exact send_canon (countEgress_canon h)

theorem execRegisterWrite_canon {off : Nat} {value : BitVec 64} {block : BitVec 4096} :
    OutCanon (execRegisterWrite off value block s) := .next (ite_canon h (withHost_canon h))

theorem execPowerUp_canon {ports : List Nat} : OutCanon (execPowerUp ports s) := .next (ite_canon h (by exact h))

theorem execFwGo_canon {length : BitVec 32} : OutCanon (execFwGo length s) := .next (ite_canon (withHost_canon h) h)

theorem execAuthentication_canon : OutCanon (execAuthentication s) :=
  .next (ite_canon h (ite_canon (by exact h) (withHost_canon h)))

theorem execBringup_canon {banks cores : List Nat} : OutCanon (execBringup banks cores s) := by
  refine .next (ite_canon h (withHost_canon (drawSeeds_canon ?_)))
  refine foldl_canon (fun _ _ hu => setCore_canon (retireCore_canon (logEvent_canon hu))) _ (applyFuses_canon ?_)
  exact foldl_canon (fun _ _ hu => bankEvent_canon hu) _ h

theorem execPackageReset_canon : OutCanon (execPackageReset s) := by
  have ha := abandonAll_canon h
  unfold execPackageReset
  exact .next ha

theorem execOvertemp_canon : OutCanon (execOvertemp s) := .next (withHost_canon (abandonAll_canon h))

theorem execSpdmRequest_canon {function op : Nat} : OutCanon (execSpdmRequest function op s) := by
  refine .next (ite_canon h (ite_canon (ite_canon (withHost_canon h) h) (ite_canon (withHost_canon h) (ite_canon h ?_))))
  exact send_canon (by exact h)

theorem execTdispRequest_canon {part op : Nat} : OutCanon (execTdispRequest part op s) :=
  .next (ite_canon h (send_canon (setTdi_canon h)))

theorem execStopInterface_canon {part : Nat} : OutCanon (execStopInterface part s) := by
  refine .next (ite_canon h (ite_canon (defer_canon h) (ite_canon (foldl_canon (fun _ _ hu => askRun_canon hu) _ h) ?_)))
  refine send_canon (setTdi_canon (released_canon (foldl_canon (fun _ _ hu => placeOwner_canon (zeroRun_canon hu)) _ ?_)))
  exact foldl_canon (fun _ _ hu => freeBinding_canon hu) _ (foldl_canon (fun _ _ hu => endContext_canon hu) _ h)

end

end Sys2Proof.Machine
end

section
/-! PROOFS. Memory stays in its canonical form: every instruction and event, and every step. -/

namespace Sys2Proof.Machine

open State

section
variable {s : State} (h : Memory.wf s.mem.bytes = true)
include h

/-- An instruction or event leaves memory in its canonical form: the dispatch sends each to the form its meaning is
written in. -/
theorem exec_canon (i : Instr) : OutCanon (exec i s) := by
  delta exec
  cases i
  case add | sub | mul | mulh | mulhn | div | divn | rem | remn | and | or | xor | andn | shl | shr | sra | ror |
      min | minn | max | maxn | slt | sltn | seq =>
    exact binary_canon h
  case clz | ctz | popc | bswap | addi | andi | ori | xori | slti | shli | shri | srai | rori => exact unary_canon h
  case movi | movk | adr | aread | asread => exact alu_canon h
  case beq | bne | blt | bge | bltn | bgen => exact branch_canon h
  case jmp => exact execJmp_canon h
  case call => exact execCall_canon h
  case jr | callr | ret => exact jumpTo_canon h
  case ld => exact execLd_canon h
  case st => exact execSt_canon h
  case lds => exact execLds_canon h
  case sts => exact execSts_canon h
  case ldOrd => exact execLdOrd_canon h
  case stOrd => exact execStOrd_canon h
  case ldOrdSp => exact execLdOrdSp_canon h
  case stOrdSp => exact execStOrdSp_canon h
  case atomAdd | atomSub | atomMin | atomMinn | atomMax | atomMaxn | atomAnd | atomOr | atomXor | atomXchg | atomCas
      =>
    exact atomGlobal_canon h
  case atomAddSp | atomSubSp | atomMinSp | atomMinnSp | atomMaxSp | atomMaxnSp | atomAndSp | atomOrSp | atomXorSp |
      atomXchgSp | atomCasSp =>
    exact atomSp_canon h
  case fence => exact execFence_canon h
  case rel | relAdd | relSp | relAddSp => exact relBlock_canon h
  case acq | acqSp => exact acqBlock_canon h
  case barArr => exact execBarArr_canon h
  case barWait => exact execBarWait_canon h
  case barSync => exact execBarSync_canon h
  case monArm => exact execMonArm_canon h
  case monArmSp => exact execMonArmSp_canon h
  case monWait => exact execMonWait_canon h
  case quiesceWait => exact execQuiesceWait_canon h
  case laneSync => exact execLaneSync_canon h
  case rld | ratomAdd | ratomAnd | ratomOr | ratomXor | ratomXchg | ratomCas => exact remoteOp_canon h
  case rst => exact execRst_canon h
  case rstRelSys => exact execRstRelSys_canon h
  case capLd => exact execCapLd_canon h
  case capSt => exact execCapSt_canon h
  case capMint => exact execCapMint_canon h
  case capBound => exact execCapBound_canon h
  case capPerm => exact execCapPerm_canon h
  case capRead => exact execCapRead_canon h
  case capMov => exact execCapMov_canon h
  case xferPost | xferCond => exact copyPost_canon h
  case xferBulk => exact execXferBulk_canon h
  case gatherPost => exact execGatherPost_canon h
  case qfence => exact execQfence_canon h
  case lwInit => exact execLwInit_canon h
  case lwWait => exact execLwWait_canon h
  case lwRead => exact execLwRead_canon h
  case spMap => exact execSpMap_canon h
  case spUnmap => exact execSpUnmap_canon h
  case amov | abase | astride | aadd => exact affineOp_canon h
  case mfcr => exact execMfcr_canon h
  case mtcr => exact execMtcr_canon h
  case laneRun => exact execLaneRun_canon h
  case nop => exact execNop_canon h
  case exit => exact execExit_canon h
  case regGrow => exact execRegGrow_canon h
  case regShrink => exact execRegShrink_canon h
  case stkChk => exact execStkChk_canon h
  case ipf => exact execIpf_canon h
  case pfd => exact execPfd_canon h
  case trap => exact execTrap_canon h
  case trapRet => exact execTrapRet_canon h
  case launch => exact execLaunch_canon h
  case sysMbox => exact execSysMbox_canon h
  case sysWbinv => exact execSysWbinv_canon h
  case ttSet => exact execTtSet_canon h
  case ttClr => exact execTtClr_canon h
  case ttRead => exact execTtRead_canon h
  case mxLdt => exact execMxLdt_canon h
  case mxLds => exact execMxLds_canon h
  case mxZeroT => exact execMxZeroT_canon h
  case mxZeroC => exact execMxZeroC_canon h
  case mxMma => exact execMxMma_canon h
  case mxMmag => exact execMxMmag_canon h
  case mxGang => exact execMxGang_canon h
  case mxDrain => exact execMxDrain_canon h
  case mxMode => exact execMxMode_canon h
  case witSeed => exact execWitSeed_canon h
  case witEmit => exact execWitEmit_canon h
  case iadd | isub | imul | imulh | imad | imin | imax | iabs | ineg => exact intForm_canon h
  case idiv | irem | laneShr | bfx | bfi => exact lanePure_canon h
  case laneAnd | laneOr | laneXor | not | laneShl | rol | lanePopc | laneClz | brev | mov => exact bitForm_canon h
  case isetEq | isetNe | isetLt | isetLe | isetGt | isetGe => exact intSet_canon h
  case fadd | fsub | fmul | fma | fdiv | fsqrt | fmin | fmax => exact floatForm_canon h
  case fabs | fneg => exact signForm_canon h
  case fsetEq | fsetNe | fsetLt | fsetLe | fsetUn => exact floatSet_canon h
  case frcp | frsq | fexp2 | flog2 | fsin | fcos | ftanh => exact specialForm_canon h
  case cvt => exact execCvt_canon h
  case frnd => exact execFrnd_canon h
  case pand | por | pxor | pnot => exact predForm_canon h
  case mIf | mElse | mEndif | mLoop | mBrk | mNext => exact maskForm_canon h
  case lNop => exact execLNop_canon h
  case lEnd => exact execLEnd_canon h
  case lxchSel | lxchLag | lxchLead | lxchMir => exact exchange_canon h
  case ballot => exact execBallot_canon h
  case voteAny | voteAll => exact vote_canon h
  case reduxAdd | reduxMin | reduxMax | reduxAnd | reduxOr | reduxXor => exact redux_canon h
  case scanAdd | scanAddx | scanMax => exact scan_canon h
  case blut => exact execBlut_canon h
  case bpick => exact execBpick_canon h
  case lLd => exact execLLd_canon h
  case lSt => exact execLSt_canon h
  case lLds => exact execLLds_canon h
  case lSts => exact execLSts_canon h
  case lLdt => exact execLLdt_canon h
  case lStt => exact execLStt_canon h
  case lAtomAdd | lAtomMin | lAtomMax | lAtomAnd | lAtomOr | lAtomXor | lAtomXchg | lAtomCas =>
    exact laneAtomic_canon h
  case lSatomAdd | lSatomMin | lSatomMax | lSatomAnd | lSatomOr | lSatomXor | lSatomXchg | lSatomCas =>
    exact laneAtomicSp_canon h
  case lRld => exact execLRld_canon h
  case lRst => exact execLRst_canon h
  case lRatomAdd | lRatomCas => exact laneRemAtom_canon h
  case modmul | modadd | modsub | modmad => exact modForm_canon h
  case nttBfly => exact execNttBfly_canon h
  case laneGrant => exact execLaneGrant_canon h
  case regGrowGrant => exact execRegGrowGrant_canon h
  case monitorWake => exact execMonitorWake_canon h
  case monTimeout => exact execMonTimeout_canon h
  case quiesceIdle => exact execQuiesceIdle_canon h
  case pageWalk => exact execPageWalk_canon h
  case replay => exact execReplay_canon h
  case translationInvalidation => exact execTranslationInvalidation_canon h
  case trackedWritePerform => exact execTrackedWritePerform_canon h
  case homeRead => exact execHomeRead_canon h
  case homeOwnership => exact execHomeOwnership_canon h
  case cleanEvictionNotice => exact execCleanEvictionNotice_canon h
  case ownerWriteback => exact execOwnerWriteback_canon h
  case invalidation => exact execInvalidation_canon h
  case grainRegister => exact execGrainRegister_canon h
  case grainClear => exact execGrainClear_canon h
  case forcedClose => exact execForcedClose_canon h
  case copyQueueOperation => exact execCopyQueueOperation_canon h
  case gatherOperation => exact execGatherOperation_canon h
  case mxQueueEntry => exact execMxQueueEntry_canon h
  case writeCombiningDrain => exact execWriteCombiningDrain_canon h
  case remoteResponse => exact execRemoteResponse_canon h
  case lineWriteAck => exact execLineWriteAck_canon h
  case inboundRemoteAccess => exact execInboundRemoteAccess_canon h
  case inboundLineWrite => exact execInboundLineWrite_canon h
  case remoteTimeout => exact execRemoteTimeout_canon h
  case remoteFaultTimeout => exact execRemoteFaultTimeout_canon h
  case done => exact execDone_canon h
  case storeFaultTimeout => exact execStoreFaultTimeout_canon h
  case storeFaultLogFullTimeout => exact execStoreFaultLogFullTimeout_canon h
  case bulkRequest => exact execBulkRequest_canon h
  case bulkRequestRetry => exact execBulkRequestRetry_canon h
  case tokenGrant => exact execTokenGrant_canon h
  case tokenArrival => exact execTokenArrival_canon h
  case tokenDataLand => exact execTokenDataLand_canon h
  case tokenExpiry => exact execTokenExpiry_canon h
  case orphan => exact execOrphan_canon h
  case agePromotion => exact execAgePromotion_canon h
  case park => exact execPark_canon h
  case resume => exact execResume_canon h
  case finalAcknowledgement => exact execFinalAcknowledgement_canon h
  case takeLaunchRecord => exact execTakeLaunchRecord_canon h
  case launchOpen => exact execLaunchOpen_canon h
  case workRecordWrite => exact execWorkRecordWrite_canon h
  case placeWorkgroup => exact execPlaceWorkgroup_canon h
  case launchComplete => exact execLaunchComplete_canon h
  case preemption => exact execPreemption_canon h
  case resumeWorkgroup => exact execResumeWorkgroup_canon h
  case witnessPlace => exact execWitnessPlace_canon h
  case witnessTest => exact execWitnessTest_canon h
  case reexecute => exact execReexecute_canon h
  case seedEpoch => exact execSeedEpoch_canon h
  case deviceTick => exact execDeviceTick_canon h
  case l1AgeInvalidate => exact execL1AgeInvalidate_canon h
  case hourlyCounterClear => exact execHourlyCounterClear_canon h
  case failureWindowExpiry => exact execFailureWindowExpiry_canon h
  case scrub => exact execScrub_canon h
  case reencodeRow => exact execReencodeRow_canon h
  case migrateLine => exact execMigrateLine_canon h
  case zeroing => exact execZeroing_canon h
  case pipelineError => exact execPipelineError_canon h
  case pipelineRetry => exact execPipelineRetry_canon h
  case coreUe => exact execCoreUe_canon h
  case powerGate => exact execPowerGate_canon h
  case coreWake => exact execCoreWake_canon h
  case selfTestDone => exact execSelfTestDone_canon h
  case linkWake => exact execLinkWake_canon h
  case linkTrained => exact execLinkTrained_canon h
  case linkWakeTimeout => exact execLinkWakeTimeout_canon h
  case linkFenceTimeout => exact execLinkFenceTimeout_canon h
  case interconnectUe => exact execInterconnectUe_canon h
  case courseDrainDone => exact execCourseDrainDone_canon h
  case courseDrainDeadline => exact execCourseDrainDeadline_canon h
  case courseRejoin => exact execCourseRejoin_canon h
  case courseFailed => exact execCourseFailed_canon h
  case throttle => exact execThrottle_canon h
  case overtemp => exact execOvertemp_canon h
  case powerUp => exact execPowerUp_canon h
  case packageReset => exact execPackageReset_canon h
  case fwGo => exact execFwGo_canon h
  case authentication => exact execAuthentication_canon h
  case bringup => exact execBringup_canon h
  case hostMemRead => exact execHostMemRead_canon h
  case hostMemWrite => exact execHostMemWrite_canon h
  case spdmRequest => exact execSpdmRequest_canon h
  case tdispRequest => exact execTdispRequest_canon h
  case stopInterface => exact execStopInterface_canon h
  case registerWrite => exact execRegisterWrite_canon h
  case partSet => exact execPartSet_canon h
  case ctxSet => exact execCtxSet_canon h
  case ctxEnd => exact execCtxEnd_canon h
  case frameAssign => exact execFrameAssign_canon h
  case kilnAssign => exact execKilnAssign_canon h
  case kilnFree => exact execKilnFree_canon h
  case queueSet => exact execQueueSet_canon h
  case peerSet => exact execPeerSet_canon h
  case launchEnd => exact execLaunchEnd_canon h
  case checkpoint => exact execCheckpoint_canon h
  case checkpointComplete => exact execCheckpointComplete_canon h
  case restore => exact execRestore_canon h
  case restoreComplete => exact execRestoreComplete_canon h
  case dieReset => exact execDieReset_canon h
  case certify => exact execCertify_canon h
  case faultExport => exact execFaultExport_canon h
  case faultImport => exact execFaultImport_canon h
  case relSet => exact execRelSet_canon h
  case certSet => exact execCertSet_canon h
  case faultSet => exact execFaultSet_canon h
  case farSet => exact execFarSet_canon h
  case powerSet => exact execPowerSet_canon h
  case linkLowPowerEntry => exact execLinkLowPowerEntry_canon h
  case tokenAcknowledgement => exact execTokenAcknowledgement_canon h
  case finalResponse => exact execFinalResponse_canon h
  case hostWindowResponse => exact execHostWindowResponse_canon h
  case bisnpResponse => exact execBisnpResponse_canon h

theorem step_canon : OutCanon (step s) := by
  have hrun (i : Instr) (t : State) (ht : Memory.wf t.mem.bytes = true) := exec_canon ht i
  unfold step
  refine .ite (.next h) ?_
  split
  · exact stepScalar_canon h hrun
  · exact stepScalar_canon (by exact h) hrun
  · exact stepLane_canon (by exact h) hrun
  next i r _ =>
    have hi := exec_canon (s := { s with agenda := r }) h i
    refine .ite ?_ (.fault _)
    generalize exec i { s with agenda := r } = o at hi
    cases hi with
    | next ht => exact .next (keepDeferred_canon ht)
    | fault f => exact .fault f
    | refused r => exact .refused r

end

end Sys2Proof.Machine

namespace Sys2Proof.Claims

open Sys2Proof.Machine

/-- Settles O3: a step runs one instruction or event, and each of them changes memory only through writes that keep its
canonical form. -/
theorem memoryStaysCanonical : Obligations.MemoryStaysCanonical := by
  intro s t h hstep
  have hcanon := step_canon h
  rw [hstep] at hcanon
  cases hcanon with
  | next ht => exact ht

end Sys2Proof.Claims
end
